-- ==== Sys2Proof/Word.lean ====
section
/-! DEFINITION. Sys2Proof/Word.lean: the byte and the plain collections every other file uses. Multi-byte
values are little-endian (R39, R371); their readers and writers stand in Machine/Bytes.lean. -/
namespace Sys2Proof

/-- The smallest addressable unit (R262). -/
abbrev Byte := BitVec 8

/-- A run of bytes in ascending address order. -/
abbrev Bytes := List Byte

/-- A collection keyed by number, in which a key that is not listed holds its unit's reset value. -/
abbrev SMap (α : Type) := List (Nat × α)

end Sys2Proof
end

