-- ==== Sys2Proof/Syntax.lean ====
section
/-! DEFINITION. Sys2Proof/Syntax.lean: the commands of the F724, one constructor for each row of
spec/opcode_table.json, with the operands each event brings from outside the block. The table gives no
fields, so the operands are this model's reading of the row's rule (log 1). -/
namespace Sys2Proof

/-- The roles of a dictionary session (R373, R403); `none` is a session or channel without a role. -/
inductive Role where
  | owner | operator | tenant | observer | none
  deriving DecidableEq, Repr

/-- Who asks: a role, and for a TENANT the partition its session is bound to (R373). -/
structure Who where
  role : Role
  part : Nat := 0
  deriving DecidableEq, Repr

/-- Where a dictionary wrapper comes from (R371, R377, R380): a host mailbox; a field-port source, by its 128-bit IPv6 address
and UDP port, with the UDP port its datagram is sent to (R383); or a Jorique device and partition. -/
inductive Source where
  | host (h : Nat)
  | field (addr sport dport : Nat)
  | fabric (dev part : Nat)
  deriving DecidableEq, Repr

/-- A Jorique packet after its tag has been verified and its payload decrypted (R286). -/
structure Packet where
  dstId : Nat
  dstPart : Nat
  tc : Nat
  type : Nat
  srcId : Nat
  srcPart : Nat
  hops : Nat
  dim : Nat
  dstRank : Nat
  flow : Nat
  offset : BitVec 64
  bundleSeq : BitVec 32
  checkOk : Bool
  payload : Bytes
  deriving DecidableEq, Repr

/-- A member's MD that asks over an end-to-end SPDM session for the group securing key (R407): its device and partition,
the root of its chain, and the SHA-384 of the data ranks it presents. -/
structure KeyAsker where
  dev : Nat
  part : Nat
  chainRoot : Bytes
  tableHash : Bytes
  deriving DecidableEq, Repr

/-- What a peer reports in the SPDM session of a port (R405): its measurement 7 and the FW_SVN of its measurement 6. -/
structure PeerAuth where
  measurement7 : Bytes
  fwSvn : Nat
  /-- the peer has found this module's chain to root at its own FABRIC_ANCHOR -/
  accepts : Bool
  deriving DecidableEq, Repr

/-- An SPDM connection: a dictionary carrier or a Jorique port (R402). -/
inductive Conn where
  | dict (src : Source)
  | port (p : Nat)
  deriving DecidableEq, Repr

/-- A certificate chain as a requester presents it: the root certificate, and all the bytes (R403). -/
structure CertChain where
  root : Bytes
  bytes : Bytes
  deriving DecidableEq, Repr

/-- What MD opens an SPDM session for as requester (R401): the group key of a context (R407), or a port in AUTH (R405). -/
inductive Asked where
  | groupKey (g : Nat)
  | port (p : Nat)
  deriving DecidableEq, Repr

/-- A response to MD as requester (R401). -/
inductive SpdmReply where
  | version
  | capabilities
  | algorithms
  | digests
  | certificate (chain : CertChain)
  /-- the session, its keys to this module and from it, and the responder's signature -/
  | keyExchangeRsp (session : BitVec 32) (key txKey : BitVec 256) (signature : Bytes)
  | finishRsp
  /-- the answer to the request for a group securing key -/
  | groupKey
  | error
  deriving DecidableEq, Repr

/-- A sensor by its part (R345, R396): temperature of a die, a stack or a regulator (power domain), or
voltage or current of a power domain. -/
inductive Sensor where
  | dieTemp (d : Nat)
  | stackTemp (s : Nat)
  | domTemp (n : Nat)
  | domVolt (n : Nat)
  | domCurr (n : Nat)
  deriving DecidableEq, Repr

/-- What a host has written to a mailbox before its doorbell: the request buffer, and the word at offset 0x0028 (R387). -/
structure MboxIn where
  data : Bytes
  answer : BitVec 32
  deriving DecidableEq, Repr

/-- A flit as a port reads it: its bytes, and the codewords corrected for it; none where one is uncorrectable (R281, R283). -/
structure RxFlit where
  bytes : Bytes
  fec : Option Nat
  deriving DecidableEq, Repr

/-- The commands of the block, one for each row of spec/opcode_table.json. Descriptors are named by
context g, queue q and sequence number seq; cores and dies by the numbers of R12. -/
inductive Instr where
  | sqTail (h g q : Nat) (v : BitVec 32)
  | cqHead (h g q : Nat) (v : BitVec 32)
  | hostSignal (h g : Nat) (v : BitVec 32)
  | mboxDoorbell (h : Nat) (buf : MboxIn) (v : BitVec 32)
  | overrunClear (h : Nat)
  | moduleTimeLo (h : Nat)
  | descriptorTake (g q : Nat)
  | descriptorStart (g q : Nat)
  | waitSatisfied (g q seq : Nat)
  | waitTimeout (g q seq : Nat)
  | workTileSelect (core : Nat)
  | pipGrant (die : Nat)
  | workTileEnd (core : Nat)
  | watchdog (core : Nat)
  | descriptorFinish (g q seq : Nat)
  | completionRecordWrite (g q : Nat)
  | intHoldoffExpiry (g q : Nat)
  | moveCopy (g q seq : Nat)
  | moveFill (g q seq : Nat)
  | moveZero (g q seq : Nat)
  | check (g q seq : Nat)
  | gemm (g q seq : Nat)
  | gemmBwd (g q seq : Nat)
  | dist (g q seq : Nat)
  | convFwd (g q seq : Nat)
  | convBwdData (g q seq : Nat)
  | convBwdWeight (g q seq : Nat)
  | haloWaitTimeout (g q seq : Nat)
  | convDw (g q seq : Nat)
  | maxPool (g q seq : Nat)
  | avgValid (g q seq : Nat)
  | avgAll (g q seq : Nat)
  | crop (g q seq : Nat)
  | attnFwd (g q seq : Nat)
  | attnBwd (g q seq : Nat)
  | kvAppend (g q seq : Nat)
  | kvAllocResume (g : Nat)
  | kvBufferResume (g : Nat)
  | truncate (g q seq : Nat)
  | setPriority (g q seq : Nat)
  | boundary (g q seq : Nat)
  | kvFree (g q seq : Nat)
  | vec (g q seq : Nat)
  | layer (g q seq : Nat)
  | rms (g q seq : Nat)
  | stats (g q seq : Nat)
  | splitSum (g q seq : Nat)
  | stashPut (g q seq : Nat)
  | stashGet (g q seq : Nat)
  | recipe (g q seq : Nat)
  | specReplayStart (g slice : Nat)
  | specReplayDone (g handle : Nat)
  | uniform (g q seq : Nat)
  | normal (g q seq : Nat)
  | bits (g q seq : Nat)
  | dropout (g q seq : Nat)
  | noiseAdd (g q seq : Nat)
  | stepCommit (g q seq : Nat)
  | stepRepeat (g q seq : Nat)
  | allReduce (g q seq : Nat)
  | reduceScatter (g q seq : Nat)
  | allGather (g q seq : Nat)
  | broadcast (g q seq : Nat)
  | secure (g q seq : Nat)
  | restore (g q seq : Nat)
  | fill (g q seq : Nat)
  | register (g q seq : Nat)
  | sync (g q seq : Nat)
  | syncClear (g q seq : Nat)
  | nop (g q seq : Nat)
  /-- `delta` is what the re-read under hold shows: the sum read XOR the CRC-32C of the bytes read -/
  | tileReread (g q seq va : Nat) (delta : BitVec 32)
  /-- the stream of context g that die d has detected, by its last demand line and direction -/
  | prefetchIssue (d g va : Nat) (descending : Bool)
  /-- `counts`: the requests each of the partition's stacks received in the window, ascending -/
  | hotChannelWindow (p : Nat) (counts : List Nat)
  | phyRetrain (stack channel : Nat)
  | collData (pkt : Packet)
  | collResult (pkt : Packet)
  | collSparse (pkt : Packet)
  | collSign (pkt : Packet)
  | collBs16 (pkt : Packet)
  | collMeta (pkt : Packet)
  | collBs16Result (pkt : Packet)
  | collSignature (pkt : Packet)
  | collMissing (pkt : Packet)
  | stragglerTimeout (g q seq : Nat)
  /-- here and below, g is the context of the addressed partition that the packet's group belongs to -/
  | secureVoteMessage (g : Nat) (pkt : Packet)
  | parityPacket (g : Nat) (pkt : Packet)
  | holderDone (g : Nat) (pkt : Packet)
  | fillPacket (g : Nat) (pkt : Packet)
  /-- this member asks, or it is asked by `asker` -/
  | groupKeyRequest (g : Nat) (asker : Option KeyAsker)
  | quietIntervalExpiry
  | maxIntervalExpiry
  | ceWindowEnd
  /-- `onDie`: an SRAM error of die `unit`; otherwise an HBM error of stack `unit` -/
  | hbmCorrectedError (onDie : Bool) (unit : Nat)
  | domainEvent (who : Who)
  | flitReceive (port : Nat) (flit : RxFlit)
  | packetReceive (port : Nat)
  | nak (port seq : Nat)
  | laneReady (port : Nat)
  | switch (port : Nat)
  | keyPhase (port : Nat)
  | heartbeat (port dev : Nat) (counter : BitVec 32)
  | heartbeatSend (port : Nat)
  | peerSilent (port : Nat)
  | mgmtPacket (pkt : Packet)
  | routePacket (pkt : Packet)
  | calWindowOpen (port : Nat)
  | calWindowEnd (port : Nat) (adapted : Bool)
  | laneFailure (port lane : Nat)
  | lossOfSignal (port : Nat)
  | portRetrain (port : Nat)
  | portTrained (port peerId peerPort : Nat)
  | portAuthComplete (port : Nat) (peer : PeerAuth)
  | linkKeyRollover (port : Nat) (key : BitVec 256)
  | ethRetryTimeout (port : Nat)
  | portModeWrite (who : Who) (port mode : Nat)
  | rankSet (who : Who) (p : Nat) (v : BitVec 64)
  | read (src : Source) (wrapper : Bytes)
  | write (src : Source) (wrapper : Bytes)
  | writeBegin (src : Source) (wrapper : Bytes)
  | writePart (src : Source) (wrapper : Bytes)
  | writeEnd (src : Source) (wrapper : Bytes)
  | cancel (src : Source) (wrapper : Bytes)
  | stagedTimeout (src : Source) (session : BitVec 32)
  | configWrite (who : Who) (index sub : Nat) (data : Bytes)
  | partCreate (who : Who) (p : Nat)
  | partActivate (who : Who) (p : Nat)
  | activateComplete (p : Nat)
  | partReset (who : Who) (p : Nat)
  /-- `failed` names a unit that fails its built-in test again, encoded as a part of R345 -/
  | partResetComplete (p : Nat) (failed : Option Nat)
  | partDestroy (who : Who) (p : Nat)
  | destroyComplete (p : Nat)
  | ctxCreate (who : Who) (g : Nat)
  | ctxTeardown (who : Who) (g : Nat)
  | teardownComplete (g : Nat)
  | invalidate (who : Who) (g : Nat)
  | queueConfigWrite (who : Who) (g q : Nat) (rec : Bytes)
  | roleMaskWrite (who : Who) (d : Nat) (v : BitVec 32)
  | stashTableWrite (who : Who) (g : Nat) (entries : Bool) (v : BitVec 64)
  | kvConfigWrite (who : Who) (g sub : Nat) (v : BitVec 64)
  | shapeWrite (who : Who) (v : BitVec 8)
  | slotTableWrite (who : Who) (p : Nat) (table : Bytes)
  | pipBudgetWrite (who : Who) (v : BitVec 16)
  | coreMhzWrite (who : Who) (d : Nat) (v : BitVec 16)
  | nodeIdApply
  | moduleReset (who : Who)
  | fwApply (who : Who)
  | commitSvn (who : Who)
  | debugNonce (session : BitVec 32)
  | debugToken (session : BitVec 32) (token : Bytes)
  | ownerAnchor (session : BitVec 32) (anchor : Bytes)
  | anchorWrite (who : Who) (index sub : Nat) (anchor : Bytes)
  | getVersion (c : Conn)
  | getCapabilities (c : Conn)
  | negotiateAlgorithms (c : Conn) (offered : List Nat)
  | getDigests (c : Conn)
  | getCertificate (c : Conn) (offset length : Nat)
  | challenge (c : Conn) (nonce : BitVec 256)
  | getMeasurements (c : Conn) (index : Nat) (nonce : BitVec 256)
  /-- `key` and `txKey`: the session keys of the two directions, to MD and from it, that the key exchange agrees -/
  | keyExchange (c : Conn) (session : BitVec 32) (key txKey : BitVec 256)
  /-- `signature`: the requester's signature over the session's transcript -/
  | spdmFinish (c : Conn) (session : BitVec 32) (signature : Bytes)
  | keyUpdate (c : Conn) (session : BitVec 32) (key txKey : BitVec 256)
  | spdmHeartbeat (c : Conn) (session : BitVec 32)
  | endSession (c : Conn) (session : BitVec 32)
  | sessionTimeout (session : BitVec 32)
  | powerGood (straps : BitVec 4)
  | powerGoodLoss
  | resetNAssert
  | resetNRelease
  /-- for each firmware bank, the image that fails to verify, if any; whether the non-volatile store reads back -/
  | bootComplete (bank0 bank1 : Option Nat) (store : Bool)
  /-- `coresOk`: bit c set when core Cc of the die passes -/
  | builtInTestDone (d : Nat) (passed : Bool) (coresOk : BitVec 18)
  | stackTrained (s : Nat) (ok : Bool)
  | perstAssert (h : Nat)
  | hostLinkDown (h : Nat)
  | hostLinkUp (h speed width : Nat)
  /-- the reading: thousandths of a degree Celsius, millivolts or milliamperes, and its rating -/
  | sensorSample (sensor : Sensor) (reading rating : Int)
  | sensorTimeout (sensor : Sensor)
  | thermalCapStep (d : Nat)
  | thermalShutdown (onStack : Bool) (unit : Nat)
  | droopTrip (dale : Nat)
  | droopStretchEnd (dale lowestMv : Nat)
  | droopCalibration (core : Nat)
  | calibrationStepEnd (core droopPermille : Nat)
  | pipDivision
  | rampInterval
  | domainOn (n : Nat) (rose : Bool)
  | colOverrun (sender receiver : Nat)
  | colTimeout (requester far : Nat)
  | colHoldTimeout (requester far : Nat)
  /-- `cause`: the CORE_FENCE cause byte of R345 -/
  | coreFault (core cause : Nat)
  | spareCoreTest (core : Nat) (passed : Bool)
  | dieCacheParity (d line : Nat)
  | regulatorPhaseFailure (domain phase : Nat)
  | dieHubFault (d unit : Nat)
  | mcFault (stack kind : Nat)
  | d2dLinkFault (link cause : Nat)
  | rngHealthFail (test : Nat)
  | frameStart (p : Nat)
  | slotBoundary (p : Nat)
  | perstRelease (h : Nat)
  | msixEnable (h : Nat)
  | d2dLinkRetrained (link : Nat) (ok : Bool)
  | lsLocked (port : Nat)
  | fieldPortReady
  | hotSwapOpen
  | queuedWritesComplete (s : Nat)
  | encapsulatedRequest (c : Conn) (session : BitVec 32) (chain : CertChain)
  /-- a response to MD as requester; in the answer to the request for a group securing key, the key unless it is refused, and the
  hash of the data ranks of the supplier's table -/
  | spdmResponse (what : Asked) (reply : SpdmReply) (key : Option (BitVec 256)) (tableHash : Bytes)
  | pointExchange (g : Nat) (pkt : Packet)
  | secureVoteTimeout (g : Nat)
  deriving DecidableEq, Repr

end Sys2Proof
end

