-- ==== Sys2Proof/Decode.lean ====
section
/-! DEFINITION. Sys2Proof/Decode.lean: the words of the opcode table. The F724 takes commands as events at its
interfaces, not as words of an instruction stream, and spec/opcode_table.json gives none of its rows any bits. -/
namespace Sys2Proof

/-- The command a word of `nbits` bits spells. No row of spec/opcode_table.json gives bits, so no word spells
a command (log 1). -/
def decodeTableWord (_nbits _w : Nat) : Option Instr := none

end Sys2Proof
end

