-- ==== Sys2Proof/Config.lean ====
section
/-! DEFINITION. Sys2Proof/Config.lean: what one module fixes and what the spec leaves open, each an opaque constant no
proof can see into (log 4, log 20, log 21). -/
namespace Sys2Proof

/-- The free value with index n: random draws of R255 and R406, nonces of R404, and bytes of R319 that the
spec leaves unspecified. State.free supplies the index. -/
opaque Config.freeValue : Nat → BitVec 512

/-- Relations of the CMP class of R136. -/
inductive VRel where
  | eq | ne | lt | le
  deriving DecidableEq, Repr

/-- Lane operations of the FARITH, IARITH and XLANE classes (R136). -/
inductive VBin where
  | add | sub | mul | min | max | shl | shr | sar | and | or | xor
  deriving DecidableEq, Repr

/-- The special functions of R128. -/
inductive VSfu where
  | exp2 | log2 | recip | rsqrt | tanh | erf | sigmoid
  deriving DecidableEq, Repr

/-- What a kernel instruction does, within its class (R136). -/
inductive VOp where
  | load (packed : Bool)
  | store (packed : Bool)
  | fp (packed : Bool) (op : VBin)
  | fma (packed : Bool)
  | int (op : VBin)
  | sfu (fn : VSfu)
  | cmp (float : Bool) (rel : VRel)
  | select
  | reduce (float : Bool) (op : VBin)
  | broadcast
  | permute
  | dice (word : Fin 4)
  | scalar (op : VBin)
  | scalarImm (op : VBin)
  | loop
  | branch
  | branchIf (rel : VRel)
  | done
  deriving DecidableEq, Repr

/-- The operation that an OP code names within a CLASS; none for a code that names none. R136 gives the classes and
no codes (log 20). -/
opaque Config.vecOp : Nat → Nat → Option VOp
/-- The source lane of each lane under a fixed permutation of the XLANE class (R136, log 20). -/
opaque Config.vecPerm : Nat → Nat → Fin 256
/-- The element index e of R82 for an element that a kernel's STORE converts, by the bit address it is stored at (log 20). -/
opaque Config.storeElem : Nat → Nat

/-- The INT32 product of a PAD_VALUE that is no integer and an INT8 weight (R204): the spec states no result
(log 25). -/
opaque Config.padProduct : BitVec 32 → Int → Int

/-- The payload of a CONTROL flit, by the message's place in R285 and its operands (log 33). -/
opaque Config.control : Nat → Nat → Nat → Bytes

/-- 0x1000.03, sixteen characters (R390). -/
opaque Config.serial : BitVec 128
/-- 0x1000.05 FIELD_MAC (R390). -/
opaque Config.fieldMac : BitVec 48
/-- 0x1000.06 (R390). -/
opaque Config.stepping : BitVec 16
/-- 0x1000.09 PCI vendor and device identifiers (R390). -/
opaque Config.pciIds : BitVec 32

/-- The firmware package a bank holds as supplied (R397). -/
opaque Config.factoryBank : Nat → Bytes
/-- The SVN a firmware package carries (R399). -/
opaque Config.packageSvn : Bytes → Nat
/-- Whether a firmware package's signature verifies under the Linquel firmware key (R399). -/
opaque Config.packageSigned : Bytes → Bool
/-- 0x1000.07, the version of a package (R390). -/
opaque Config.packageVersion : Bytes → BitVec 32
/-- Measurement i, 1 to 5, of a package (R398). -/
opaque Config.measurement : Nat → Bytes → BitVec 384
/-- Whether DEBUG_TOKEN is the Linquel debug key's signature over a serial number and a nonce (R409). -/
opaque Config.debugTokenValid : BitVec 128 → BitVec 128 → Bytes → Bool

/-- The identity key, derived from the unique secret in e-fuses (R400). -/
opaque Config.identityKey : BitVec 384
/-- The alias key derived from an identity key and measurements 1 to 5 (R400). -/
opaque Config.aliasKey : BitVec 384 → List Bytes → BitVec 384
/-- The certificate chain of slot 0: the identity key's certificate, and the alias key's under it (R400). -/
opaque Config.certChain : BitVec 384 → BitVec 384 → Bytes
/-- An alias key's signature over a message (R400). -/
opaque Config.aliasSign : BitVec 384 → Bytes → Bytes
/-- Whether a signature over a message verifies under the leaf of a certificate chain (R401). -/
opaque Config.chainVerify : Bytes → Bytes → Bytes → Bool

end Sys2Proof
end

