-- ==== Sys2Proof/Machine/Bytes.lean ====
section
/-! DEFINITION. Sys2Proof/Machine/Bytes.lean: little-endian bytes (R39, R371), bit fields, two's complement,
and the keyed collections of the state. -/
namespace Sys2Proof.Machine

/-- The number a run of bytes stands for, lowest byte first. -/
def leNat : Bytes → Nat
  | [] => 0
  | b :: bs => b.toNat + 256 * leNat bs

/-- `n` bytes of a number, lowest byte first. -/
def leBytes : Nat → Nat → Bytes
  | 0, _ => []
  | n + 1, v => BitVec.ofNat 8 v :: leBytes n (v / 256)

/-- `n` bytes from offset `off`; bytes past the end read as absent. -/
def slice (bs : Bytes) (off n : Nat) : Bytes := (bs.drop off).take n

/-- The number in bytes off to off + n - 1. -/
def fld (bs : Bytes) (off n : Nat) : Nat := leNat (slice bs off n)

/-- `n` bytes of zero. -/
def zeros (n : Nat) : Bytes := List.replicate n 0

/-- The bytes with those from `off` on replaced by `new`. -/
def putBytes (bs : Bytes) (off : Nat) (new : Bytes) : Bytes :=
  bs.take off ++ new ++ bs.drop (off + new.length)

/-- Exactly `n` bytes: cut or filled with zeros. -/
def sized (n : Nat) (bs : Bytes) : Bytes := bs.take n ++ zeros (n - bs.length)

/-- Bits lo to lo + w - 1. -/
def bitsOf (v lo w : Nat) : Nat := (v >>> lo) % 2 ^ w

/-- Bit i. -/
def bitOf (v i : Nat) : Bool := v.testBit i

/-- The two's-complement value of the low w bits. -/
def signedOf (v w : Nat) : Int :=
  if v % 2 ^ w < 2 ^ (w - 1) then (v % 2 ^ w : Nat) else (v % 2 ^ w : Nat) - (2 ^ w : Nat)

/-- The low w bits of an integer. -/
def unsignedOf (v : Int) (w : Nat) : Nat := (v % (2 ^ w : Nat)).toNat

/-- Division rounded up; 0 for a zero divisor. -/
def ceilDiv (a b : Nat) : Nat := (a + b - 1) / b

/-- Rounded up to a multiple of b. -/
def roundUp (a b : Nat) : Nat := ceilDiv a b * b

/-- n + k, saturating at the largest value of w bits. -/
def satAdd (w n k : Nat) : Nat := min (n + k) (2 ^ w - 1)

/-- The value under key k; d where k is not listed. -/
def mapGet {α : Type} (d : α) : SMap α → Nat → α
  | [], _ => d
  | (j, v) :: m, k => if k = j then v else mapGet d m k

/-- The collection with v under key k. -/
def mapSet {α : Type} : SMap α → Nat → α → SMap α
  | [], k, v => [(k, v)]
  | (j, w) :: m, k, v =>
    if k < j then (k, v) :: (j, w) :: m
    else if k = j then (k, v) :: m
    else (j, w) :: mapSet m k v

/-- The collection with the value under k changed by f. -/
def mapMod {α : Type} (d : α) (m : SMap α) (k : Nat) (f : α → α) : SMap α :=
  mapSet m k (f (mapGet d m k))

/-- The value of the first entry that satisfies p. -/
def findBy {α : Type} (p : α → Bool) (l : List α) : Option α := l.find? p

/-- The list with f applied to the elements that satisfy p. -/
def modWhere {α : Type} (p : α → Bool) (f : α → α) (l : List α) : List α :=
  l.map fun a => if p a then f a else a

/-- Replace every element that satisfies p, or append the element when none does. -/
def upsert {α : Type} (p : α → Bool) (a : α) (l : List α) : List α :=
  if l.any p then l.map fun b => if p b then a else b else l ++ [a]

/-- The element at index i of a list, or d. -/
def nth {α : Type} (d : α) (l : List α) (i : Nat) : α := (l.drop i).headD d

end Sys2Proof.Machine
end

