-- ==== Sys2Proof/Machine/Flags.lean ====
section
/-! DEFINITION. Sys2Proof/Machine/Flags.lean: the codes the F724 reports: completion statuses (R55 and the opcode-specific
ones), dictionary abort codes (R382) and event-log classes (R345). -/
namespace Sys2Proof.Machine

/-! ### Completion statuses (R55, R195, R251, R278, R321, R369) -/

def stDone : Nat := 0x00
def stMissing : Nat := 0x01
def stAborted : Nat := 0x02
def stBadOpcode : Nat := 0x10
def stBadFlags : Nat := 0x11
def stBadSync : Nat := 0x12
def stBadField : Nat := 0x13
def stBadAddress : Nat := 0x14
def stWaitTimeout : Nat := 0x18
def stWatchdog : Nat := 0x19
def stDataCorrupt : Nat := 0x1A
def stHostLost : Nat := 0x1B
def stCheckFound : Nat := 0x40
def stSecureSkipped : Nat := 0x40
def stRebuilt : Nat := 0x41
def stSecureMismatch : Nat := 0x60
def stGroupLost : Nat := 0x61
def stNoPoint : Nat := 0x62
def stSnapSpace : Nat := 0x63
def stSnapRuns : Nat := 0x64

/-- Whether a status is a job fault: 0x10 to 0x1B and 0x60 to 0x7F (R55). -/
def isJobFault (st : Nat) : Bool := (0x10 ≤ st && st ≤ 0x1B) || (0x60 ≤ st && st ≤ 0x7F)

/-! ### Abort codes (R382) -/

def abNone : Nat := 0x0000
def abBadFrame : Nat := 0x0001
def abNoEntry : Nat := 0x0002
def abNoSubindex : Nat := 0x0003
def abNotReadable : Nat := 0x0004
def abNotWritable : Nat := 0x0005
def abRole : Nat := 0x0006
def abScope : Nat := 0x0007
def abLength : Nat := 0x0008
def abAboveRange : Nat := 0x0009
def abBelowRange : Nat := 0x000A
def abBadValue : Nat := 0x000B
def abState : Nat := 0x000C
def abNotReady : Nat := 0x000D
def abBusy : Nat := 0x000E
def abSequence : Nat := 0x000F
def abTimeout : Nat := 0x0010
def abAuth : Nat := 0x0011
def abLocked : Nat := 0x0012
def abInternal : Nat := 0x0013

/-! ### Event-log classes (R345) -/

def evDoorbellReject : Nat := 0x0001
def evCeRise : Nat := 0x0010
def evDataCorrupt : Nat := 0x0011
def evHotChannel : Nat := 0x0012
def evStackThermal : Nat := 0x0013
def evMcFault : Nat := 0x0014
def evCoreFence : Nat := 0x0020
def evDieNoSpare : Nat := 0x0021
def evDieHubFault : Nat := 0x0022
def evLinkFault : Nat := 0x0023
def evLaneFailure : Nat := 0x0030
def evPortDown : Nat := 0x0031
def evDroop : Nat := 0x0040
def evRegulatorPhase : Nat := 0x0041
def evDomainFailed : Nat := 0x0042
def evColOverrun : Nat := 0x0043
def evColTimeout : Nat := 0x0044
def evResetRefused : Nat := 0x0045
def evThermalMargin : Nat := 0x0046
def evThermalShutdown : Nat := 0x0047
def evSensorFailed : Nat := 0x0048
def evPartitionReset : Nat := 0x0050
def evPartitionFailed : Nat := 0x0051
def evSlotShort : Nat := 0x0052
def evDomainEvent : Nat := 0x0053
def evSecureRequest : Nat := 0x0054
def evSlotCorrupt : Nat := 0x0055
def evHostLinkDown : Nat := 0x0060
def evRngHealth : Nat := 0x0070
def evMdInternal : Nat := 0x0071
def evFirmwareBank : Nat := 0x0072

/-- A part of R345: [15:12] kind, [11:0] number. -/
def partCode (kind n : Nat) : Nat := kind * 4096 + n

end Sys2Proof.Machine
end

