-- ==== Sys2Proof/Machine/Entries.lean ====
section
/-! DEFINITION. Sys2Proof/Machine/Entries.lean: the entry table of the object dictionary: which indices exist (R394,
R323), their subindices, types, access, defaults, ranges and the roles that reach them (R371 to R373, and the entry
tables of every chapter). -/
namespace Sys2Proof.Machine

/-- The places of R394; each index belongs to one, with an instance number. -/
inductive Grp where
  | identity | ready | link | budget | mask | ledger | domain | clock | dale | shape | part | sched | qcfg | qstat
  | ctx | mem | stack | port | routing | rankMap | coll | health | dieHealth | partHealth | ctxHealth | security
  | tenant | time | origin | log
  deriving DecidableEq, Repr

/-- The ranges of indices: first index, how many, place. -/
def indexRanges : List (Nat × Nat × Grp) :=
  [(0x1000, 1, .identity), (0x1100, 1, .ready), (0x1200, 1, .link), (0x2000, 1, .budget), (0x2010, 1, .mask),
   (0x2020, 8, .ledger), (0x2100, 186, .domain), (0x2400, 8, .clock), (0x2500, 214, .dale), (0x3000, 1, .shape),
   (0x3010, 8, .part), (0x3020, 8, .sched), (0x3200, 512, .qcfg), (0x3400, 512, .qstat), (0x3600, 512, .ctx),
   (0x3800, 8, .mem), (0x3810, 24, .stack), (0x4000, 32, .port), (0x4100, 1, .routing), (0x4110, 8, .rankMap),
   (0x4800, 8, .coll)] ++
  [(0x5000, 1, .health), (0x5008, 8, .dieHealth), (0x5010, 8, .partHealth), (0x5100, 512, .ctxHealth),
   (0x5800, 1, .security), (0x5810, 8, .tenant), (0x6000, 1, .time), (0x6010, 8, .origin), (0x7000, 1, .log)]

/-- How many partitions the SHAPE in force gives (R323). -/
def partsOf (shape : Nat) : Nat := 8 / 2 ^ shape

/-- Whether the SHAPE in force gives an instance of a place (R323). -/
def existsUnder (shape : Nat) (grp : Grp) (i : Nat) : Bool :=
  match grp with
  | .part | .sched => i < partsOf shape
  | .qcfg | .qstat | .ctx | .ctxHealth => i < 64 * partsOf shape
  | _ => true

/-- The place and instance of an index, where it exists. -/
def groupOf (shape index : Nat) : Option (Grp × Nat) :=
  match indexRanges.find? fun r => r.1 ≤ index && index < r.1 + r.2.1 with
  | none => none
  | some r => if existsUnder shape r.2.2 (index - r.1) then some (r.2.2, index - r.1) else none

/-- Entry types (R372). -/
inductive Typ where
  | bool | u8 | u16 | u32 | u64 | f32 | str
  | blob (n : Nat)
  | domain (n : Nat)
  /-- a DOMAIN whose length its chapter lets vary, up to n -/
  | domainTo (n : Nat)
  deriving DecidableEq, Repr

inductive Access where
  | const | ro | rw | wo
  deriving DecidableEq, Repr

/-- Who may read: every role and the clear channel; OWNER, OPERATOR, OBSERVER and the clear channel; those three;
or those three and the TENANT of the partition. -/
inductive Readers where
  | all | ready | staff | partition
  deriving DecidableEq, Repr

/-- Who may write: OWNER; OWNER and OPERATOR; or those and the TENANT of the partition. -/
inductive Writers where
  | owner | staff | tenants
  deriving DecidableEq, Repr

structure Entry where
  typ : Typ
  acc : Access
  dflt : Nat := 0
  lo : Nat := 0
  hi : Nat := 2 ^ 64
  rd : Readers := .staff
  wr : Writers := .owner
  deriving DecidableEq, Repr

/-- 0x1200 (R384). -/
def linkEntry : Nat → Option Entry
  | 1 => some { typ := .u8, acc := .rw, hi := 1 }
  | 2 => some { typ := .u8, acc := .rw, hi := 254 }
  | 3 => some { typ := .u8, acc := .rw, dflt := 8, lo := 1, hi := 255 }
  | 4 => some { typ := .u8, acc := .ro }
  | 5 => some { typ := .blob 16, acc := .ro }
  | 6 => some { typ := .u16, acc := .rw, dflt := 0x4A50, lo := 1, hi := 65535 }
  | 7 => some { typ := .u32, acc := .ro }
  | 8 => some { typ := .u8, acc := .rw, dflt := 2, hi := 4 }
  | 9 => some { typ := .u8, acc := .rw, dflt := 2, hi := 4 }
  | 0x0A => some { typ := .u16, acc := .ro }
  | 0x0B => some { typ := .u16, acc := .ro }
  | 0x0C => some { typ := .u32, acc := .rw, hi := 262143 }
  | _ => none

/-- 0x3600 + g (R37, R64, R153, R166, R219, R267, R322, R330). -/
def ctxEntry : Nat → Option Entry
  | 0x01 => some { typ := .u64, acc := .ro, rd := .partition }
  | 0x02 => some { typ := .u64, acc := .ro, rd := .partition }
  | 0x03 => some { typ := .u8, acc := .ro }
  | 0x04 => some { typ := .u8, acc := .wo, lo := 1, hi := 3, wr := .tenants }
  | 0x05 => some { typ := .u8, acc := .rw, dflt := 4, hi := 7, rd := .partition, wr := .tenants }
  | 0x06 => some { typ := .u64, acc := .rw, rd := .partition, wr := .tenants }
  | 0x07 => some { typ := .u32, acc := .rw, hi := 0xFFFFF, rd := .partition, wr := .tenants }
  | 0x08 => some { typ := .u8, acc := .rw, hi := 1, rd := .partition, wr := .tenants }
  | 0x09 => some { typ := .u8, acc := .ro }
  | 0x0A => some { typ := .u64, acc := .ro }
  | 0x0B => some { typ := .u32, acc := .ro, rd := .partition }
  | 0x10 => some { typ := .u64, acc := .rw, rd := .partition, wr := .tenants }
  | 0x11 => some { typ := .u16, acc := .rw, hi := 1024, rd := .partition, wr := .tenants }
  | 0x12 => some { typ := .u8, acc := .rw, dflt := 1, hi := 3, rd := .partition, wr := .tenants }
  | 0x13 => some { typ := .u8, acc := .rw, dflt := 10, lo := 4, hi := 20, rd := .partition, wr := .tenants }
  | 0x14 => some { typ := .u8, acc := .rw, dflt := 10, lo := 4, hi := 20, rd := .partition, wr := .tenants }
  | 0x15 => some { typ := .u64, acc := .rw, rd := .partition, wr := .tenants }
  | 0x16 => some { typ := .u32, acc := .rw, rd := .partition, wr := .tenants }
  | 0x20 => some { typ := .u64, acc := .rw, rd := .partition, wr := .tenants }
  | 0x21 => some { typ := .u16, acc := .rw, hi := 16384, rd := .partition, wr := .tenants }
  | 0x22 => some { typ := .u64, acc := .rw, rd := .partition, wr := .tenants }
  | 0x23 => some { typ := .u64, acc := .rw, rd := .partition, wr := .tenants }
  | 0x24 => some { typ := .u64, acc := .rw, rd := .partition, wr := .tenants }
  | 0x25 => some { typ := .u64, acc := .rw, rd := .partition, wr := .tenants }
  | 0x26 => some { typ := .u8, acc := .rw, dflt := 95, lo := 50, hi := 100, rd := .partition, wr := .tenants }
  | 0x27 => some { typ := .u8, acc := .rw, dflt := 2, hi := 8, rd := .partition, wr := .tenants }
  | 0x28 => some { typ := .bool, acc := .ro }
  | 0x30 => some { typ := .u64, acc := .rw, rd := .partition, wr := .tenants }
  | 0x31 => some { typ := .u32, acc := .rw, hi := 65536, rd := .partition, wr := .tenants }
  | 0x32 => some { typ := .u64, acc := .rw, rd := .partition, wr := .tenants }
  | 0x33 => some { typ := .u32, acc := .rw, hi := 33554432, rd := .partition, wr := .tenants }
  | 0x34 => some { typ := .u32, acc := .rw, rd := .partition, wr := .tenants }
  | 0x35 => some { typ := .u32, acc := .rw, rd := .partition, wr := .tenants }
  | 0x36 => some { typ := .u64, acc := .rw, rd := .partition, wr := .tenants }
  | 0x37 => some { typ := .u32, acc := .ro }
  | 0x38 => some { typ := .u64, acc := .ro }
  | 0x41 => some { typ := .u64, acc := .ro, rd := .partition }
  | 0x42 => some { typ := .u64, acc := .ro, rd := .partition }
  | 0x50 => some { typ := .u8, acc := .ro, rd := .partition }
  | _ => none

/-- 0x4000 + p (R281). -/
def portEntry : Nat → Option Entry
  | 0x01 => some { typ := .u8, acc := .rw, dflt := 1, hi := 2, wr := .staff }
  | 0x02 => some { typ := .u8, acc := .ro }
  | 0x03 => some { typ := .u8, acc := .rw, dflt := 0xFF, wr := .staff, hi := 0xFF }
  | 0x04 => some { typ := .u16, acc := .ro }
  | 0x05 => some { typ := .u32, acc := .ro }
  | 0x06 => some { typ := .u16, acc := .rw, dflt := 1000, lo := 250, hi := 60000, wr := .staff }
  | 0x07 => some { typ := .u64, acc := .ro }
  | 0x08 => some { typ := .u64, acc := .ro }
  | 0x09 => some { typ := .u32, acc := .ro }
  | 0x0A => some { typ := .u64, acc := .ro }
  | 0x10 => some { typ := .blob 16, acc := .rw, wr := .staff }
  | 0x11 => some { typ := .blob 16, acc := .rw, wr := .staff }
  | 0x12 => some { typ := .u16, acc := .rw, dflt := 0x4A51, lo := 1, hi := 65535, wr := .staff }
  | 0x13 => some { typ := .u8, acc := .rw, dflt := 0x20, hi := 61, wr := .staff }
  | 0x14 => some { typ := .u16, acc := .rw, dflt := 100, lo := 10, hi := 10000, wr := .staff }
  | _ => none

/-- 0x5000 (R349). -/
def healthEntry : Nat → Option Entry
  | 1 => some { typ := .u8, acc := .ro }
  | 2 => some { typ := .u8, acc := .rw, dflt := 8, lo := 2, hi := 64, wr := .staff }
  | 3 => some { typ := .u16, acc := .rw, dflt := 10, lo := 1, hi := 1440, wr := .staff }
  | 4 => some { typ := .u16, acc := .rw, dflt := 60, lo := 1, hi := 1440, wr := .staff }
  | 5 => some { typ := .bool, acc := .ro }
  | 6 => some { typ := .u8, acc := .wo, lo := 1, hi := 1, wr := .staff }
  | 7 => some { typ := .u8, acc := .rw, dflt := 50, lo := 10, hi := 90, wr := .staff }
  | 8 => some { typ := .u16, acc := .rw, dflt := 16, lo := 1, hi := 65535, wr := .staff }
  | 9 => some { typ := .u32, acc := .ro }
  | _ => none

/-- 0x5800 (R404). -/
def securityEntry : Nat → Option Entry
  | 1 => some { typ := .blob 48, acc := .rw }
  | 2 => some { typ := .blob 48, acc := .rw }
  | 3 => some { typ := .blob 48, acc := .rw }
  | 4 => some { typ := .blob 48, acc := .rw }
  | 5 => some { typ := .u8, acc := .ro }
  | 6 => some { typ := .blob 16, acc := .ro }
  | 7 => some { typ := .blob 96, acc := .wo }
  | 8 => some { typ := .u16, acc := .ro }
  | 9 => some { typ := .domainTo 1048576, acc := .wo, lo := 1 }
  | 0x0A => some { typ := .u8, acc := .wo, lo := 1, hi := 2 }
  | 0x0B => some { typ := .u8, acc := .ro }
  | _ => none

/-- The Identity range (R390), readable by every role and the clear channel. -/
def identityEntry : Nat → Option Entry
  | 1 => some { typ := .str, acc := .const, rd := .all }
  | 2 => some { typ := .str, acc := .const, rd := .all }
  | 3 => some { typ := .str, acc := .const, rd := .all }
  | 4 => some { typ := .u16, acc := .const, rd := .all }
  | 5 => some { typ := .blob 6, acc := .const, rd := .all }
  | 6 => some { typ := .u16, acc := .const, rd := .all }
  | 7 => some { typ := .u32, acc := .ro, rd := .all }
  | 8 => some { typ := .u16, acc := .const, rd := .all }
  | 9 => some { typ := .u32, acc := .const, rd := .all }
  | _ => none

/-- The Readiness range (R391). -/
def readyEntry : Nat → Option Entry
  | 1 => some { typ := .u64, acc := .ro, rd := .ready }
  | 2 => some { typ := .bool, acc := .ro, rd := .ready }
  | 3 => some { typ := .u8, acc := .ro, rd := .ready }
  | 4 => some { typ := .u8, acc := .ro, rd := .ready }
  | 5 => some { typ := .u32, acc := .ro, rd := .ready }
  | 6 => some { typ := .u32, acc := .ro, rd := .ready }
  | 7 => some { typ := .u8, acc := .ro, rd := .ready }
  | 8 => some { typ := .u8, acc := .ro, rd := .ready }
  | 9 => some { typ := .u32, acc := .ro, rd := .ready }
  | _ => none

/-- The entries of the remaining places that hold few of them. -/
def smallEntry : Grp → Nat → Option Entry
  | .budget, 1 => some { typ := .u16, acc := .rw, dflt := 3200, lo := 1600, hi := 3200 }
  | .budget, 2 => some { typ := .u8, acc := .wo, lo := 0x5A, hi := 0x5A }
  | .budget, 3 => some { typ := .u16, acc := .ro }
  | .budget, 4 => some { typ := .u16, acc := .ro }
  | .ledger, 1 => some { typ := .u16, acc := .ro }
  | .ledger, 2 => some { typ := .u16, acc := .ro }
  | .ledger, 3 => some { typ := .u16, acc := .ro }
  | .domain, 1 => some { typ := .u8, acc := .ro }
  | .domain, 2 => some { typ := .u16, acc := .const }
  | .clock, 1 => some { typ := .u16, acc := .rw, dflt := 1000, lo := 500, hi := 1100, wr := .staff }
  | .clock, 2 => some { typ := .u16, acc := .ro }
  | .clock, 3 => some { typ := .f32, acc := .ro }
  | .dale, 1 => some { typ := .u32, acc := .ro }
  | .dale, 2 => some { typ := .bool, acc := .ro }
  | .dale, 3 => some { typ := .u32, acc := .ro }
  | .shape, 1 => some { typ := .u8, acc := .rw, dflt := 3, hi := 3 }
  | .part, 1 => some { typ := .u8, acc := .ro }
  | .part, 2 => some { typ := .u8, acc := .wo, lo := 1, hi := 4 }
  | .part, 3 => some { typ := .u64, acc := .ro }
  | .part, 4 => some { typ := .u32, acc := .ro }
  | .part, 5 => some { typ := .u8, acc := .ro }
  | .part, 6 => some { typ := .u8, acc := .ro }
  | .sched, 1 => some { typ := .u32, acc := .rw, hi := 100000, wr := .staff }
  | .sched, 2 => some { typ := .domain 1024, acc := .rw, wr := .staff }
  | .sched, 3 => some { typ := .u64, acc := .ro }
  | .sched, 4 => some { typ := .u32, acc := .ro }
  | .sched, 5 => some { typ := .u32, acc := .ro }
  | .sched, 6 => some { typ := .domain 1024, acc := .ro }
  | .mem, 1 => some { typ := .u16, acc := .rw }
  | .mem, 2 => some { typ := .bool, acc := .rw, hi := 1 }
  | .mem, 3 => some { typ := .u64, acc := .ro }
  | .mem, 4 => some { typ := .u64, acc := .ro }
  | .mem, 5 => some { typ := .u64, acc := .ro }
  | .stack, 1 => some { typ := .u64, acc := .const }
  | .stack, 2 => some { typ := .f32, acc := .ro }
  | .stack, 3 => some { typ := .u8, acc := .ro }
  | .stack, 4 => some { typ := .u32, acc := .ro }
  | .stack, 5 => some { typ := .u32, acc := .ro }
  | .routing, 1 => some { typ := .u32, acc := .rw, hi := 262143, wr := .staff }
  | .routing, 2 => some { typ := .domain 384, acc := .rw, wr := .staff }
  | .routing, 3 => some { typ := .domainTo 32768, acc := .rw, wr := .staff }
  | .routing, 4 => some { typ := .u8, acc := .rw, dflt := 32, lo := 8, hi := 63, wr := .staff }
  | .rankMap, 1 => some { typ := .u32, acc := .rw, hi := 262143, rd := .partition, wr := .staff }
  | .rankMap, 2 => some { typ := .u32, acc := .rw, hi := 262144, rd := .partition, wr := .staff }
  | .rankMap, 3 => some { typ := .domainTo 1048576, acc := .rw, wr := .staff }
  | .rankMap, 4 => some { typ := .u64, acc := .wo, wr := .staff }
  | .coll, 1 => some { typ := .u32, acc := .rw, dflt := 500, lo := 10, hi := 60000, wr := .staff }
  | .coll, 2 => some { typ := .u64, acc := .ro }
  | .dieHealth, 1 => some { typ := .u32, acc := .ro }
  | .partHealth, 1 => some { typ := .u8, acc := .ro }
  | .ctxHealth, 1 => some { typ := .u32, acc := .ro, rd := .partition }
  | .ctxHealth, 2 => some { typ := .u32, acc := .ro, rd := .partition }
  | .ctxHealth, 3 => some { typ := .u8, acc := .ro, rd := .partition }
  | .ctxHealth, 4 => some { typ := .u64, acc := .ro, rd := .partition }
  | .ctxHealth, 5 => some { typ := .u32, acc := .ro, rd := .partition }
  | .tenant, 1 => some { typ := .blob 48, acc := .rw }
  | .time, 1 => some { typ := .u64, acc := .ro }
  | .time, 2 => some { typ := .u64, acc := .rw, wr := .staff }
  | .origin, 1 => some { typ := .u64, acc := .ro, rd := .partition }
  | .log, 1 => some { typ := .u64, acc := .ro }
  | .log, 2 => some { typ := .u64, acc := .ro }
  | .log, 3 => some { typ := .domain 524288, acc := .ro }
  | _, _ => none

/-- The queue configuration record before any write: RING_LOG2 6 and WAIT_LIMIT_MS 10,000 (R29). -/
def queueDefault : Nat := 6 * 2 ^ 128 + 10000 * 2 ^ 192

/-- The highest subindex of a place: the value of its subindex 0 (R371). -/
def topSub : Grp → Nat
  | .identity => 9
  | .ready => 9
  | .link => 0x0C
  | .budget => 4
  | .mask => 8
  | .ledger => 3
  | .domain => 2
  | .clock => 3
  | .dale => 3
  | .shape => 1
  | .part => 6
  | .sched => 6
  | .qcfg => 8
  | .qstat => 8
  | .ctx => 0x50
  | .mem => 5
  | .stack => 5
  | .port => 0x14
  | .routing => 4
  | .rankMap => 4
  | .coll => 2
  | .health => 9
  | .dieHealth => 1
  | .partHealth => 1
  | .ctxHealth => 5
  | .security => 0x0B
  | .tenant => 1
  | .time => 2
  | .origin => 1
  | .log => 3

/-- Who reads subindex 0: no chapter names a partition's roles for it (R373). -/
def topReaders : Grp → Readers
  | .identity => .all
  | .ready => .ready
  | _ => .staff

/-- The entry at a subindex of a place. -/
def entryOf (grp : Grp) (sub : Nat) : Option Entry :=
  if sub = 0 then some { typ := .u8, acc := .const, dflt := topSub grp, rd := topReaders grp }
  else
    match grp with
    | .identity => identityEntry sub
    | .ready => readyEntry sub
    | .link => linkEntry sub
    | .ctx => ctxEntry sub
    | .port => portEntry sub
    | .health => healthEntry sub
    | .security => securityEntry sub
    | .mask => if sub ≤ 8 then some { typ := .u32, acc := .rw, dflt := 0xFFFF } else none
    | .qcfg =>
      if sub ≤ 8 then some { typ := .domain 32, acc := .rw, dflt := queueDefault, rd := .partition, wr := .tenants }
      else none
    | .qstat => if sub ≤ 8 then some { typ := .domain 16, acc := .ro } else none
    | _ => smallEntry grp sub

/-- The partition whose TENANT an instance of a place belongs to (R373). -/
def scopeOf : Grp → Nat → Option Nat
  | .part, i | .sched, i | .mem, i | .rankMap, i | .coll, i | .partHealth, i | .tenant, i | .origin, i => some i
  | .qcfg, g | .qstat, g | .ctx, g | .ctxHealth, g => some (g / 64)
  | _, _ => none

/-- The length of a type in bytes, where it is fixed (R372). -/
def typLen : Typ → Option Nat
  | .bool | .u8 => some 1
  | .u16 => some 2
  | .u32 | .f32 => some 4
  | .u64 => some 8
  | .blob n | .domain n => some n
  | .str | .domainTo _ => none

/-- The default value of an entry, in bytes. -/
def defaultBytes (e : Entry) : Bytes :=
  match typLen e.typ with
  | some n => leBytes n e.dflt
  | none => []

/-- The entries MD keeps in its non-volatile store (R395). -/
def isKept (grp : Grp) (sub : Nat) : Bool :=
  match grp with
  | .link => [1, 2, 3, 6, 8, 9, 0x0C].contains sub
  | .budget => sub = 1
  | .clock => sub = 1
  | .shape => sub = 1
  | .port => [1, 3, 6, 0x10, 0x11, 0x12, 0x13, 0x14].contains sub
  | .routing => 1 ≤ sub && sub ≤ 4
  | .health => [2, 3, 4, 7, 8].contains sub
  | .security => 1 ≤ sub && sub ≤ 4
  | .tenant => sub = 1
  | _ => false

/-- The store's number of an entry. -/
def key (index sub : Nat) : Nat := index * 256 + sub

/-- Whether a store number is one of R395. -/
def keyKept (k : Nat) : Bool :=
  match groupOf 0 (k / 256) with
  | some (grp, _) => isKept grp (k % 256)
  | none => false

end Sys2Proof.Machine
end

