-- ==== Sys2Proof/Machine/State.lean ====
section
/-! DEFINITION. Sys2Proof/Machine/State.lean: everything the spec gives the F724 to hold, as plain data, and the
state after reset. Collections are keyed by the numbers of R12 and R28; a unit that is not listed is at its
reset value. Entries of the object dictionary that software writes are held by number in `store`. -/
namespace Sys2Proof.Machine

/-- Why a step has no meaning. -/
inductive Refusal where
  /-- Raised by an arm of exec whose command has no meaning yet; safe: nothing is claimed of it. -/
  | notModelled (mnemonic : String)
  deriving DecidableEq, Repr

/-- Why a step stops: no command of the block stops it. -/
inductive Fault where
  deriving DecidableEq, Repr

/-- The two ordering codes of R2 and R442, which differ in stack capacity only. -/
inductive Variant where
  | h48 | h64
  deriving DecidableEq, Repr

/-! ### Work queues (R28 to R65) -/

/-- STATE of a queue (R32). -/
inductive QState where
  | disabled | running | draining | stopped
  deriving DecidableEq, Repr

/-- A descriptor taken from its ring and not yet started (R36). -/
structure Desc where
  seq : Nat
  raw : Bytes
  deriving DecidableEq, Repr

/-- A tally one work tile holds for a governor slot until it ends (R155, R156). -/
structure Tally where
  tile : Nat
  slot : Nat
  amax : BitVec 32 := 0
  nz : Nat := 0
  ue4 : Nat := 0
  ue5 : Nat := 0
  nonfinite : Bool := false
  deriving DecidableEq, Repr

/-- A started descriptor (R48) from its start until its record has been accounted. -/
structure Run where
  seq : Nat
  raw : Bytes
  /-- the parameter block, kernel or recipe chain read once at validation (R143, R200, R238, R302) -/
  block : Bytes := []
  /-- the group tables read once at validation (R302, R356) -/
  table : Bytes := []
  /-- partition time at which it reached the head of its queue (R47) -/
  headAt : Nat := 0
  waitDone : Bool := false
  /-- partition time at which its work could begin (engine intervals of R64) -/
  waitAt : Nat := 0
  /-- a completion slot is reserved for it (R62) -/
  slotKept : Bool := false
  /-- work tiles in all, the next one to dispatch, and those returned to the head of the dispatch -/
  tiles : Nat := 0
  nextTile : Nat := 0
  back : List Nat := []
  /-- work tiles on cores now, and work tiles finished -/
  onCores : Nat := 0
  done : List Nat := []
  /-- work tiles on cores whose effect on memory has been carried out -/
  carried : List Nat := []
  /-- engine work: bytes of its work tiles already carried out (R274, R277, R181) -/
  cursor : Nat := 0
  /-- the codec's buffer: what a put's work tiles have read of its source (R181) -/
  buf : Bytes := []
  /-- CHECK: corrupt data tiles found so far, and the lowest of them (R278) -/
  bad : Nat := 0
  firstBad : Nat := 0
  /-- the work of an engine or of the front end has been carried out; `status` is what its record will say -/
  ran : Bool := false
  status : Nat := 0
  /-- to be stopped at its next work-tile boundary (R56) -/
  aborting : Bool := false
  tallies : List Tally := []
  /-- partition time at which its next work tile began to wait for halo rows (R210) -/
  haloAt : Option Nat := none
  /-- watermark of R209 -/
  watermark : Nat := 0
  /-- formats and exponents of G and dX in force at its start (R158) -/
  govG : Nat × Int := (0, 0)
  govDx : Nat × Int := (0, 0)
  /-- torn reads it has met (R278) -/
  torn : Nat := 0
  deriving DecidableEq, Repr

/-- A finished descriptor whose record, if it has one due, is not yet written (R59). -/
structure HeldRec where
  seq : Nat
  tag : BitVec 32
  status : Nat
  endNs : Nat
  due : Bool
  /-- a completion slot is reserved for it -/
  kept : Bool
  deriving DecidableEq, Repr

/-- One work queue. Its configuration record is the entry 0x3200 + g . q + 1 of the store. -/
structure Queue where
  st : QState := .disabled
  /-- the record in force while DRAINING or STOPPED, and until an interrupt still due has been raised (R31, R63) -/
  inForce : Option Bytes := none
  /-- the sequence number of the last accepted SQ_TAIL; its low 32 bits are D of R34 -/
  tail : Nat := 0
  cqHead : Nat := 0
  /-- FINISHED_SEQ, and the finished descriptors above it -/
  finished : Nat := 0
  finSet : List Nat := []
  rejects : Nat := 0
  lastReject : Nat := 0
  /-- partition time at which the descriptor now at the head of the queue reached it (R47) -/
  headAt : Nat := 0
  taken : List Desc := []
  takenSeq : Nat := 0
  startedSeq : Nat := 0
  runs : List Run := []
  written : Nat := 0
  reserved : Nat := 0
  held : List HeldRec := []
  lastInt : Option Nat := none
  intDue : Bool := false
  deriving DecidableEq, Repr

/-! ### Contexts -/

/-- CTX_STATE (R330). -/
inductive CtxState where
  | free | active | faulted | teardown
  deriving DecidableEq, Repr

/-- A work tile's registered snapshot of a sequence record, and the STATE it met (R224, R239). -/
structure Walker where
  core : Nat
  q : Nat
  seq : Nat
  tile : Nat
  epoch : Nat
  seqNo : Nat
  table : Nat
  rows : Nat
  st : Nat
  deriving DecidableEq, Repr

/-- What a key-value edit waits for (R225, R226). -/
inductive KvWait where
  | alloc (q seq : Nat)
  | buffer (q seq : Nat)
  deriving DecidableEq, Repr

/-- The paged cache of a context (R219 to R226). -/
structure Kv where
  /-- the free FIFO: page frame and the WALKER_EPOCH it is tagged with; none for a frame of R220, drained from the start -/
  fifo : List (Nat × Option Nat) := []
  available : Nat := 0
  epoch : Nat := 0
  walkers : List Walker := []
  waiting : Option KvWait := none
  waitAt : Nat := 0
  /-- KV_APPEND, KV_EDIT and KV_FREE descriptors started and not yet applied, in the order they started (R224) -/
  order : List (Nat × Nat) := []
  /-- the swap epoch of each swapped sequence (R249) -/
  swaps : SMap Nat := []
  deriving DecidableEq, Repr

/-- One step of a replay (R187): an internal get of an entry into an address, with the replays that may still nest in
it; a chain descriptor, with the word of it and the address that replaces it; the squeeze in place of step 4; or the end of
a nested replay, whose GROUP it leaves (R188). -/
inductive RStep where
  | place (h dst depth : Nat)
  | chain (d : Bytes) (out : Option (Nat × Nat))
  | squeeze (h dst : Nat)
  | leave (group : Nat)
  deriving DecidableEq, Repr

/-- A replay, running or staged (R187 to R190). -/
structure Spec where
  /-- the number work tiles on cores know it by -/
  no : Nat
  handle : Nat
  /-- the slice of its staging area; none where it goes straight to a get's destination -/
  slice : Option Nat
  /-- GROUP of the entry, and those of the nested replays that run in it (R188) -/
  group : Nat
  nested : List Nat := []
  /-- where its result goes -/
  stage : Nat
  staged : Bool := false
  /-- the get that it is run for: queue and sequence number; none while it is speculative -/
  owner : Option (Nat × Nat) := none
  /-- whether it was started because stored data failed (R193) -/
  recovered : Bool := false
  /-- whether the get also fetches the stored form (R190) -/
  fetching : Bool := false
  /-- the steps still to run, the running one first; none once it has finished -/
  steps : List RStep := []
  /-- the running chain descriptor: its block, its work tiles, the next one, those returned, and how many have ended -/
  block : Bytes := []
  tiles : Nat := 0
  nextTile : Nat := 0
  back : List Nat := []
  done : Nat := 0
  /-- partition time at which its next work tile became the next one (R210) -/
  haloAt : Nat := 0
  deriving DecidableEq, Repr

/-- The stash manager's state of a context (R165 to R197). -/
structure Stash where
  /-- bytes allocated upward in each pool slice -/
  top : SMap Nat := []
  sendTop : Nat := 0
  epoch : Nat := 0
  specs : List Spec := []
  replayNo : Nat := 0
  getsBegun : Bool := false
  /-- started gets: handle, queue and sequence number; and handles to release when the last one ends -/
  gets : List (Nat × Nat × Nat) := []
  releasing : List Nat := []
  /-- the chain and the derived scratch of each valid recipe (R188), by handle -/
  scratch : SMap (List (Nat × Nat)) := []
  deriving DecidableEq, Repr

/-- A securing point the context holds in one of its two slots (R359, R362). -/
structure Point where
  stopSeq : Nat
  step : BitVec 32
  slot : Nat
  used : Nat
  committed : Bool
  /-- the device and partition of each data position at the stop, as 8 . device + partition (R365) -/
  devs : List Nat
  deriving DecidableEq, Repr

/-- A point whose parity a holder writes (R362): its slot, the data tiles written, and how many there are once
the last one is known. -/
structure HoldPoint where
  stopSeq : Nat
  slot : Nat
  got : Nat := 0
  tiles : Option Nat := none
  deriving DecidableEq, Repr

/-- A registered HOLD group (R356, R357): its table, the address of its two parity slots, and the points
written there. -/
structure Hold where
  table : Bytes
  par : Nat
  points : List HoldPoint := []
  deriving DecidableEq, Repr

/-- One member's message of the securing vote (R358). -/
structure Vote where
  position : Nat
  step : BitVec 32
  stopSeq : Nat
  committed : List Nat
  usedLen : Nat
  building : Bool
  yes : Bool
  hasKey : Bool
  deriving DecidableEq, Repr

/-- A data member's committed points (R363, R365): STOP_SEQ and the devices of each; `spare` in a FILL, `rebuilt`
once it has reported REBUILT. -/
structure Known where
  position : Nat
  points : List (Nat × List Nat)
  spare : Bool
  rebuilt : Bool
  hasKey : Bool
  deriving DecidableEq, Repr

/-- A fill chain a survivor serves (R365): the group, the position it ends at, its attempt, the point, the erased positions and
the holders used. -/
structure Serve where
  /-- the group's table -/
  table : Bytes
  target : Nat
  gen : Nat
  stopSeq : Nat
  erased : List Nat
  holders : List Nat
  first : Nat
  tiles : Nat
  deriving DecidableEq, Repr

/-- The running SECURE descriptor of a context. -/
structure SecOp where
  q : Nat
  seq : Nat
  /-- 0 SECURE, 1 RESTORE, 2 FILL -/
  op : Nat
  force : Bool
  startAt : Nat
  /-- the vote has decided to stop, and the stop is not yet carried out (R359) -/
  stopping : Bool := false
  votes : List Vote := []
  /-- what the reachable data members and the holders asked have answered (R358, R363) -/
  known : List Known := []
  holders : List (Nat × List (Nat × Nat)) := []
  /-- the point chosen under R363 -/
  chosen : Option Nat := none
  /-- the fill in progress (R365): its data tiles and those rebuilt so far -/
  fill : Option (Nat × Nat) := none
  erased : List Nat := []
  used : List Nat := []
  gen : Nat := 0
  deriving DecidableEq, Repr

/-- Securing state of a context (R352 to R370). -/
structure Secure where
  latch : Bool := false
  points : List Point := []
  commitNs : Nat := 0
  committedOnce : Bool := false
  /-- MAX_INTERVAL_MIN has passed since its last commit, and a request has been raised for it (R352) -/
  maxRaised : Bool := false
  phase : Nat := 0
  erased : BitVec 32 := 0
  hasGroup : Bool := false
  op : Option SecOp := none
  /-- the parity build in progress: its STOP_SEQ and the holder positions whose DONE has arrived -/
  build : Option (Nat × List Nat) := none
  /-- the largest STOP_SEQ taken -/
  lastStop : Nat := 0
  table : Bytes := []
  slotAddr : Nat := 0
  cursorAddr : Nat := 0
  holds : List Hold := []
  lastFill : Bool := false
  rebuilt : Bool := false
  key : Option (BitVec 256) := none
  keyAsked : Bool := false
  /-- members that have asked for the key before this module held it (R407) -/
  askers : List KeyAsker := []
  serving : List Serve := []
  deriving DecidableEq, Repr

/-- A contribution, or a partial of a level, held in scratch (R309): level, index of its subgroup, element, and the word
of the scratch range that holds its FP32 value. -/
structure Arrived where
  level : Nat
  sub : Nat
  elem : Nat
  slot : Nat
  deriving DecidableEq, Repr

/-- Block maxima and flagged blocks of one chunk (R315). -/
structure RingMeta where
  maxima : List (BitVec 32)
  flags : List Nat
  deriving DecidableEq, Repr

/-- One chunk of a BS16 ring at this member (R315): the sums it has passed on, the blocks its own additions
flagged, the META held until they are complete, and what the owner sent round. -/
structure Ring where
  chunk : Nat
  sums : SMap Int := []
  flags : List Nat := []
  held : Option RingMeta := none
  passed : Bool := false
  final : SMap Int := []
  finalMeta : Option RingMeta := none
  deriving DecidableEq, Repr

/-- A running collective (R302 to R320). -/
structure CollRun where
  q : Nat
  seq : Nat
  /-- COLL_TAG, STEP mod 16 and ATTEMPT mod 16 as bits 63 to 40 of OFFSET (R310) -/
  ident : Nat
  block : Bytes
  table : Bytes
  pos : Nat
  /-- partition time of its first send -/
  startAt : Nat
  /-- its contribution, element by element: FP32 with the residual added, or source codes to be gathered -/
  vals : List (BitVec 32) := []
  /-- the exponents of its blocks (R315) -/
  exps : List Int := []
  /-- chunks sent so far (R309) -/
  sent : Nat := 0
  /-- positions whose SIGNATURE has arrived and agrees -/
  signed : List Nat := []
  arrived : List Arrived := []
  /-- TOPK pairs held, by sender, element and value (R313) -/
  pairs : List (Nat × Nat × BitVec 32) := []
  /-- results, or gathered codes, by element -/
  results : SMap (BitVec 32) := []
  rings : List Ring := []
  /-- the second pass over flagged blocks has begun, and the chunks whose flagged blocks it has contributed (R316) -/
  second : Bool := false
  again : Nat := 0
  /-- the units, by first element, whose last partial or result this member has formed as their owner (R309) -/
  formed : List Nat := []
  deriving DecidableEq, Repr

/-- One prefetch stream of a die hub (R260): its context, the line it has reached, and its direction. -/
structure Stream where
  g : Nat
  line : Nat
  descending : Bool
  deriving DecidableEq, Repr

/-- One context (R330). Its dictionary configuration lies in the store. -/
structure Ctx where
  st : CtxState := .free
  queues : SMap Queue := []
  ctr : SMap (BitVec 32) := []
  busyNs : Nat := 0
  createdAt : Nat := 0
  signalRejects : Nat := 0
  faultStatus : Nat := 0
  faultAt : Nat := 0
  faultTile : Nat := 0
  tornReads : Nat := 0
  planOver : Bool := false
  attempt : BitVec 8 := 0
  lastQueue : Nat := 7
  kv : Kv := {}
  stash : Stash := {}
  secure : Secure := {}
  colls : List CollRun := []
  /-- MISSING notices of collectives not yet started: identity, and the sender's device and partition (R318) -/
  missingHeld : List (Nat × Nat × Nat) := []
  /-- a collective of the current attempt has completed with MISSING (R319) -/
  collMissing : Bool := false
  /-- cached translations: 64 KiB granule, and the page entry it is read through (R329) -/
  tlb : List (Nat × BitVec 64) := []
  deriving DecidableEq, Repr

/-! ### Partitions, cores, dies, stacks -/

/-- PART_STATE (R324). -/
inductive PartState where
  | absent | creating | activating | ready | resetting | destroying
  deriving DecidableEq, Repr

/-- The keys of a partition (R406). -/
structure PartKeys where
  hash : BitVec 64
  memory : BitVec 512
  send : BitVec 256
  swap : BitVec 256
  deriving DecidableEq, Repr

/-- One partition (R323). -/
structure Part where
  st : PartState := .absent
  origin : Nat := 0
  resets : Nat := 0
  cause : Nat := 0
  keys : Option PartKeys := none
  sendEpoch : Nat := 0
  swapEpoch : Nat := 0
  torn : Nat := 0
  missing : Nat := 0
  health : Nat := 0
  /-- its units are being recovered while it is not RESETTING (R447) -/
  recovering : Bool := false
  /-- the context each engine last served, by engine and PRIORITY (R336) -/
  engineLast : SMap Nat := []
  frameCount : Nat := 0
  slotLate : Nat := 0
  slotShort : Nat := 0
  tableInForce : Bytes := []
  /-- the slot table that the next frame start takes up: the last accepted outside a partition reset (R335, R342) -/
  tableNext : Bytes := []
  /-- the current frame's start and T0, in partition time (R335) -/
  frameAt : Option Nat := none
  frameT0 : Nat := 0
  /-- the last window of 10 ms of partition time that has been compared (R268) -/
  hotAt : Nat := 0
  /-- partition time of the last slot assignment -/
  assignAt : Nat := 0
  deriving DecidableEq, Repr

/-- The work tile a core holds (R336, R416). -/
structure TileRun where
  g : Nat
  q : Nat
  seq : Nat
  idx : Nat
  /-- the replay it is a work tile of (R187); none for a work tile of its descriptor -/
  replay : Option Nat := none
  /-- base cost (R414), and the cost at the clock it runs at -/
  base : Nat
  cost : Nat
  /-- the clock the core keeps within it, in MHz (R423) -/
  mhz : Nat
  /-- module time of its request to the ledger (R416) -/
  askedAt : Nat
  /-- partition time at which the core took it, and at which the grant started it -/
  takenAt : Nat
  startAt : Option Nat := none
  deriving DecidableEq, Repr

/-- Bytes of a core store, of an accumulator and of the vector registers of a core (R4, R18, R118). -/
def coreStoreBytes : Nat := 4194304
def accumulatorBytes : Nat := 524288
def vectorBytes : Nat := 262144

/-- One weight tile in the weight blocks of a core's 64 cubes (R96, R97): its inner chunk and column block, k, and of each
of its 8 k inner positions by 64 output columns the code and the scale. -/
structure WTile where
  chunk : Nat
  block : Nat
  k : Nat
  elems : List (List (Nat × Nat))
  deriving DecidableEq, Repr

/-- An output tile in a core's accumulator (R118): its byte offset, its column block, and its elements by row. -/
structure OutTile where
  offset : Nat
  block : Nat
  rows : List (List (BitVec 64))
  deriving DecidableEq, Repr

/-- What the memories of a core hold (R4, R18); what is not listed is zero. -/
structure CoreMem where
  /-- the core store: ranges of context memory as they were when they were loaded, newest first -/
  store : List (Nat × Bytes) := []
  acc : List OutTile := []
  /-- the active and the shadow weight blocks -/
  active : Option WTile := none
  shadow : Option WTile := none
  /-- vector, scalar and predicate registers (R134) -/
  vregs : SMap (List (BitVec 32)) := []
  aregs : List (BitVec 32) := []
  pregs : SMap (List Bool) := []
  deriving DecidableEq, Repr

/-- One core (R13). -/
structure Core where
  tile : Option TileRun := none
  mem : CoreMem := {}
  /-- accumulator bytes that the output tiles of its work tile are allocated, and the offset of the first (R119, R120, R149) -/
  accHeld : Nat := 0
  accAt : Nat := 0
  /-- the dW work tile of the pair whose dX work tile it holds (R148): context, queue, descriptor, work tile -/
  pair : Option (Nat × Nat × Nat × Nat) := none
  /-- whose contents the core store, accumulator, vector registers and Dice state hold (R18, R337);
  none when all are zero -/
  residue : Option Nat := none
  slot : Option Nat := none
  /-- the instant at which that slot's present turn began (R335, R338) -/
  slotFrom : Nat := 0
  /-- the start of its slot, while it has begun no work tile of the slot's context since (R338) -/
  slotAt : Option Nat := none
  /-- pips of a running calibration step, when it began, and when the last one was completed (R422) -/
  cal : Option Nat := none
  calFrom : Nat := 0
  calAt : Option Nat := none
  testOk : Bool := true
  /-- halo and KV waits that do not count in the run time (R339) -/
  idleNs : Nat := 0
  deriving DecidableEq, Repr

/-- One compute die. -/
structure Die where
  fenced : BitVec 18 := 0
  allot : Nat := 0
  granted : Nat := 0
  waiting : List Nat := []
  intervalBase : Nat := 0
  /-- pips of domain baselines admitted in this interval (R418) -/
  ramped : Nat := 0
  cap : Nat := 1100
  /-- temperature in thousandths of a degree Celsius -/
  temp : Int := 0
  /-- since when it has read 115 °C or more (R441), and when its thermal cap last took a step (R423) -/
  hotSince : Option Nat := none
  capAt : Option Nat := none
  alert : Bool := false
  lastServed : SMap Nat := []
  ceCur : Nat := 0
  cePrev : Nat := 0
  ceRaised : Bool := false
  marginArmed : Bool := true
  /-- lines the die cache holds: partition-tagged DPA divided by 128 (R259) -/
  lines : List Nat := []
  /-- the last ranges read through the die's hub, newest first, as context, virtual address and bytes; and the streams of
  its prefetcher, at most 64 (R260) -/
  demand : List (Nat × Nat × Nat) := []
  streams : List Stream := []
  deriving DecidableEq, Repr

/-- One HBM stack and its controller. -/
structure Stack where
  temp : Int := 0
  /-- since when it has read 115 °C or more (R441) -/
  hotSince : Option Nat := none
  thermal : Nat := 0
  hot : Nat := 0
  /-- requests received in the last window of R268 that ended -/
  requests : Nat := 0
  ce : Nat := 0
  ceCur : Nat := 0
  cePrev : Nat := 0
  ceRaised : Bool := false
  lastHot : Option Nat := none
  selfRefresh : Bool := false
  retrained : Nat := 0
  draining : Bool := false
  deriving DecidableEq, Repr

/-- One die-to-die link (R10, R446). -/
structure D2d where
  out : Bool := false
  retraining : Bool := false
  deriving DecidableEq, Repr

/-! ### Power, clocks and start-up -/

/-- One switched power domain (R410 to R412): STATE and the pips of its baseline admitted so far. -/
structure Domain where
  st : Nat := 0
  admitted : Nat := 0
  /-- regulator phases that have failed (R343, R412) -/
  phases : List Nat := []
  deriving DecidableEq, Repr

/-- One dale (R421, R424, R427, R428). -/
structure Dale where
  stretches : Nat := 0
  /-- the dales across the cols whose OVERRUN is set here (R424, R427) -/
  overruns : List Nat := []
  timeouts : Nat := 0
  droopAt : Option Nat := none
  /-- the stretch going on has raised the droop event of its rail (R350) -/
  droopRaised : Bool := false
  threshold : Nat := 920
  /-- the droop of the last calibration step, per mille (R422) -/
  calDroop : Nat := 0
  /-- the last droop event of the rail that this dale stands for (R350) -/
  lastEvent : Option Nat := none
  deriving DecidableEq, Repr

/-- One sensor (R396): its last three samples, newest first. -/
structure SensorSt where
  samples : List Int := []
  lastAt : Nat := 0
  failed : Bool := false
  marginArmed : Bool := true
  deriving DecidableEq, Repr

/-- Where start-up stands (R397, R432): unpowered or in reset, boot running, dictionary served, or only the
ranges that remain when both firmware banks fail. -/
inductive BootPhase where
  | off | booting | serving | limited
  deriving DecidableEq, Repr

structure Power where
  good : Bool := false
  time : Nat := 0
  opened : Bool := false
  resetHeld : Bool := false
  /-- module time at which an answered MODULE_RESET begins (R376) -/
  resetAt : Option Nat := none
  shutdown : Bool := false
  phase : BootPhase := .off
  bootNs : Nat := 0
  /-- module time at which start-up began (R432) -/
  startedAt : Nat := 0
  fieldReady : Bool := false
  diePass : BitVec 8 := 0
  dieFail : BitVec 8 := 0
  stackReady : BitVec 24 := 0
  stackFail : BitVec 24 := 0
  domains : SMap Domain := []
  dales : SMap Dale := []
  sensors : List (Sensor × SensorSt) := []
  straps : BitVec 4 := 0
  ledgerOn : Bool := false
  /-- the 100 µs of module time in which the pool was last divided (R417), and the 10 µs that the die ledgers are in (R418) -/
  dividedAt : Option Nat := none
  rampedAt : Option Nat := none
  deriving DecidableEq, Repr

/-! ### Event log, health, security, dictionary service -/

/-- One event-log record (R393): SEQ, module time, class, part and detail. -/
structure LogRec where
  seq : Nat
  time : Nat
  cls : Nat
  part : Nat
  p : Nat
  detail : Bytes
  deriving DecidableEq, Repr

structure Log where
  next : Nat := 1
  recs : List LogRec := []
  deriving DecidableEq, Repr

/-- The Doubler (R349 to R352). -/
structure Doubler where
  risk : Nat := 1
  events : Nat := 0
  quietAt : Nat := 0
  /-- the 60 s window of module time that the corrected-error counts belong to (R350) -/
  window : Nat := 0
  deriving DecidableEq, Repr

/-- A dictionary or port session (R401, R403). -/
structure Session where
  id : BitVec 32
  conn : Conn
  who : Who := { role := .none }
  root : Bytes := []
  chain : Option CertChain := none
  isOpen : Bool := false
  /-- the application-data keys to MD and from it (R402) -/
  key : BitVec 256 := 0
  txKey : BitVec 256 := 0
  /-- this module opened it as requester (R401) -/
  requester : Bool := false
  /-- one above the last SEQ accepted (R377) -/
  rxSeq : Nat := 0
  lastAt : Nat := 0
  deriving DecidableEq, Repr

/-- What MD asks as requester (R401); the algorithms are those of its list, by number. -/
inductive SpdmRequest where
  | getVersion
  | getCapabilities
  | negotiateAlgorithms (offered : List Nat)
  | getDigests
  | getCertificate
  | keyExchange
  /-- its own chain, which the responder fetches in an encapsulated request -/
  | encapsulated (chain : Bytes)
  | finish (session : BitVec 32) (signature : Bytes)
  | getMeasurements (session : BitVec 32)
  | endSession (session : BitVec 32)
  deriving DecidableEq, Repr

/-- The response MD waits for as requester. -/
inductive AskStage where
  | version | capabilities | algorithms | digests | certificate | keyExchange | finish | groupKey
  deriving DecidableEq, Repr

/-- A session that MD is opening as requester (R401): what for, with whom, how far, and what the responder has shown. -/
structure Asking where
  what : Asked
  conn : Conn
  stage : AskStage := .version
  session : BitVec 32 := 0
  chain : Option CertChain := none
  deriving DecidableEq, Repr

/-- One SPDM message of MD (R401); the certificates and signatures are Config's. -/
inductive SpdmOut where
  | version (c : Conn)
  | capabilities (c : Conn)
  | algorithms (c : Conn)
  | digests (c : Conn) (digest : Bytes)
  | certificate (c : Conn) (part : Bytes)
  | challengeAuth (c : Conn) (signature : Bytes)
  | measurements (c : Conn) (blocks : List (Nat × Bytes)) (signature : Bytes)
  | keyExchangeRsp (c : Conn) (session : BitVec 32) (signature : Bytes)
  | finishRsp (c : Conn) (session : BitVec 32)
  | keyUpdateAck (c : Conn) (session : BitVec 32)
  | heartbeatAck (c : Conn) (session : BitVec 32)
  | endSessionAck (c : Conn) (session : BitVec 32)
  | encapsulatedAck (c : Conn) (session : BitVec 32)
  | request (what : Asked) (c : Conn) (r : SpdmRequest)
  | keyRequest (g : Nat) (dev part : Nat)
  | keyDeliver (g : Nat) (dev part : Nat)
  | error (c : Conn) (code : Nat)
  deriving DecidableEq, Repr

structure Security where
  sessions : List Session := []
  negotiated : List Conn := []
  /-- the sessions MD is opening as requester -/
  asking : List Asking := []
  lock : Bool := false
  debugHash : Bytes := []
  /-- each DEBUG_NONCE read in the last 60 s, the session that read it, and when -/
  nonces : List (BitVec 128 × BitVec 32 × Nat) := []
  /-- the identity and alias keys, from boot to module reset (R400, R406) -/
  identity : Option (BitVec 384) := none
  aliasKey : Option (BitVec 384) := none
  /-- measurement 6, as last updated, and the fused SVN it covers (R398) -/
  meas6 : Bytes := []
  measSvn : Nat := 0
  svn : Nat := 0
  fwStaged : Option Bytes := none
  fwStatus : Nat := 0
  /-- the running bank, and the bank the next boot tries first (R397, R399) -/
  bank : Nat := 0
  nextBank : Nat := 0
  banks : SMap Bytes := []
  rngOk : Bool := true
  out : List SpdmOut := []
  /-- MCTP packets that came in wrappers of R402 -/
  mctpIn : List (Conn × Bytes) := []
  deriving DecidableEq, Repr

/-- A staged write (R380). -/
structure Staged where
  index : Nat
  sub : Nat
  total : Nat
  parts : List (Nat × Bytes) := []
  lastAt : Nat
  deriving DecidableEq, Repr

/-- A snapshot of a long DOMAIN (R380). -/
structure Snap where
  index : Nat
  sub : Nat
  value : Bytes
  lastAt : Nat
  deriving DecidableEq, Repr

/-- A dictionary channel: one session on one source (R380, R381). -/
structure Chan where
  src : Source
  session : BitVec 32
  staged : Option Staged := none
  snap : Option Snap := none
  /-- the entry whose staged write, or snapshot, was discarded and not yet referred to -/
  stagedGone : Option (Nat × Nat) := none
  snapGone : Option (Nat × Nat) := none
  lastReq : Option (Nat × Bytes) := none
  deriving DecidableEq, Repr

/-- An entry of the MSI-X table in BAR4 (R386); the rule gives it no reset value, and PCI Express masks it (log 102). -/
structure MsixEntry where
  addr : BitVec 64 := 0
  data : BitVec 32 := 0
  masked : Bool := true
  deriving DecidableEq, Repr

/-- One host interface (R386 to R389). -/
structure HostIf where
  ready : Bool := false
  perst : Bool := false
  linkUp : Bool := false
  failed : Bool := false
  speed : Nat := 0
  width : Nat := 0
  msixOn : Bool := false
  /-- the entries of the MSI-X table that differ from their reset value -/
  msix : SMap MsixEntry := []
  /-- vectors raised, newest last, and vectors to raise when MSI-X is enabled again (R57) -/
  raised : List Nat := []
  heldInts : List Nat := []
  reqBuf : Bytes := []
  respBuf : Bytes := []
  lastToggle : Bool := false
  statusToggle : Bool := false
  busy : Bool := false
  overrun : Bool := false
  reqLen : Nat := 0
  respLen : Nat := 0
  ansInt : Bool := false
  ansVec : Nat := 0
  timeHi : BitVec 32 := 0
  readOut : BitVec 32 := 0
  deriving DecidableEq, Repr

structure FieldPort where
  nodeId : Nat := 0
  plcaCount : Nat := 8
  /-- changes of node ID and count answered and not yet in effect, oldest first: when, node ID and count (R383) -/
  changes : List (Nat × Nat × Nat) := []
  discards : Nat := 0
  /-- frames accepted per source in its current second: address, second, count -/
  rate : List (Nat × Nat × Nat) := []
  deriving DecidableEq, Repr

/-! ### Jorique fabric -/

/-- STATE of a port (R281). -/
inductive PortState where
  | off | training | auth | up | degraded | down
  deriving DecidableEq, Repr

/-- A link key of one direction (R288, R290). -/
structure LinkKey where
  key : BitVec 256
  keyId : Nat
  count : Nat
  phase : Bool
  since : Nat
  deriving DecidableEq, Repr

/-- A control message sent on a link (R285). -/
inductive Ctl where
  | nak (seq : Nat)
  | laneReady
  | switch
  | heartbeat (dev : Nat) (counter : BitVec 32)
  | keyPhase
  deriving DecidableEq, Repr

/-- A flit kept in a replay buffer until it is acknowledged (R283): all its fields but ACK, which it takes as it is sent. -/
structure SentFlit where
  kind : Nat
  vc : Nat
  seq : Nat
  creditVc : Nat
  credit : Nat
  data : Bytes
  /-- the packet it is part of, or the control message it carries -/
  no : Option Nat
  ctl : Option Ctl
  /-- module time at which it was last sent -/
  time : Nat
  deriving DecidableEq, Repr

/-- How much of a packet on its way out has come: part of its payload, all of it, or all that will come of a packet
whose tag failed (R289, R296). -/
inductive TxState where
  | coming | whole | broken
  deriving DecidableEq, Repr

/-- A packet on its way out of a port. -/
structure TxPkt where
  /-- the order in which the module queued it -/
  no : Nat
  /-- its header and the payload that has come, in clear -/
  pkt : Packet
  /-- PAYLOAD_LEN -/
  len : Nat
  vc : Nat
  /-- sent in clear with a tag of zero (R405) -/
  clear : Bool := false
  /-- the port and VC a transit packet comes in on, and its flits there whose buffer is not yet freed -/
  src : Option (Nat × Nat) := none
  owed : Nat := 0
  st : TxState
  /-- bytes that have left in flits -/
  sent : Nat := 0
  /-- the key and count its first flit took (R288) -/
  key : Option LinkKey := none
  deriving DecidableEq, Repr

/-- A packet being received on a VC. -/
structure Asm where
  vc : Nat
  bytes : Bytes
  flits : Nat
  /-- the key and count at its first flit (R288) -/
  key : Option LinkKey
  /-- the packet it goes out as (R296) -/
  out : Option Nat := none
  /-- discarded at its first flit (R294, R296, R297) -/
  drop : Bool := false
  deriving DecidableEq, Repr

/-- The datagram that carries a flit in ETHERNET mode (R299). -/
structure Udp where
  src : Bytes
  dst : Bytes
  port : Nat
  dscp : Nat
  deriving DecidableEq, Repr

/-- A flit sent on a link: its 256 bytes, and its datagram in ETHERNET mode. -/
structure WireOut where
  flit : Bytes
  udp : Option Udp
  deriving DecidableEq, Repr

/-- A calibration window of R291: the logical lane and how far it has come. -/
inductive CalPhase where
  | mirroring | locked | switched | returning
  deriving DecidableEq, Repr

/-- One Jorique port (R280 to R300). -/
structure Port where
  st : PortState := .off
  laneFail : BitVec 5 := 0
  /-- the logical lane carried on LS -/
  ls : Option Nat := none
  cal : Option (Nat × CalPhase) := none
  /-- a lane that failed inside the window waits for it to end (R292) -/
  calFailed : Option Nat := none
  nextCal : Nat := 0
  calAt : Nat := 0
  /-- the receiving direction: LS carries a logical lane, and LS is locked for the next SWITCH (R291) -/
  rxLs : Bool := false
  rxReady : Bool := false
  peer : BitVec 32 := 0
  fec : Nat := 0
  replayed : Nat := 0
  tagFails : Nat := 0
  discards : Nat := 0
  /-- the SEQ expected next and the SEQ sent next; a flit has been received; and received flits no ACK covers -/
  rxSeq : Nat := 0
  txSeq : Nat := 0
  rxAny : Bool := false
  ackDue : Bool := false
  /-- flits sent and not acknowledged, and flits sent on the link (R282, R283) -/
  replay : List SentFlit := []
  wire : List WireOut := []
  /-- control messages and packets that have not left whole, and packets that have and are not acknowledged -/
  ctlq : List Ctl := []
  txq : List TxPkt := []
  sentq : List TxPkt := []
  /-- a NAK is out for the expected SEQ; the SEQ a resend last began at, how often in a row its sending has failed, and when the
  sending was made that is not yet known to have failed (R283) -/
  nakked : Bool := false
  resentFrom : Option Nat := none
  sendFails : Nat := 0
  triedAt : Nat := 0
  /-- credits held by VC, where not all; and own buffer freed by VC and not yet returned (R284) -/
  credits : SMap Nat := []
  freed : SMap Nat := []
  /-- flits sent of the current 100 of TC0 and TC1, and the builds and fills in the order in which they last had their turn
  (R367) -/
  share : Nat := 0
  turns : List (Nat × Nat × Nat × Nat) := []
  /-- the packets being received -/
  asm : List Asm := []
  /-- packets received for this module, with their VC and the buffer flits they hold -/
  rxq : List (Packet × Nat × Nat) := []
  /-- module time of the last HEARTBEAT sent while UP (R298) -/
  hbAt : Option Nat := none
  heardAt : Nat := 0
  downAt : Nat := 0
  txKey : Option LinkKey := none
  rxKey : Option LinkKey := none
  rxOld : Option LinkKey := none
  /-- the next key of the receiving direction, agreed and not yet in use (R290) -/
  rxNext : Option (BitVec 256) := none
  tagFailAt : List Nat := []
  deriving DecidableEq, Repr

/-- A bundle of ports to one peer (R297): BUNDLE_SEQ of the next packet sent, and those accepted. -/
structure Bundle where
  next : BitVec 32 := 0
  seen : List (BitVec 32) := []
  deriving DecidableEq, Repr

/-- A request that came in a MGMT or ROUTE packet (R385). -/
structure MdReq where
  src : Source
  /-- the partition of the module it was addressed to -/
  part : Nat
  wrapper : Bytes
  route : Bool
  deriving DecidableEq, Repr

structure Fabric where
  hbCounter : BitVec 32 := 0
  /-- packets queued on ports so far -/
  nextNo : Nat := 0
  bundles : SMap Bundle := []
  /-- packets handed to the engines and not yet taken by them (R295) -/
  handed : List Packet := []
  /-- MGMT and ROUTE requests waiting at MD (R385) -/
  mdQueue : List MdReq := []
  deriving DecidableEq, Repr

/-- The whole block. -/
structure State where
  pending : List Instr := []
  /-- MODEL's own field: the index of the next free value (log 4) -/
  free : Nat := 0
  variant : Variant := .h48
  hbm : List Host.Cell := []
  sumDelta : SMap (BitVec 32) := []
  host0 : List Host.Cell := []
  host1 : List Host.Cell := []
  ctxs : SMap Ctx := []
  parts : SMap Part := []
  cores : SMap Core := []
  dies : SMap Die := []
  hbmStacks : SMap Stack := []
  links : SMap D2d := []
  pwr : Power := {}
  log : Log := {}
  doubler : Doubler := {}
  sec : Security := {}
  store : SMap Bytes := []
  chans : List Chan := []
  answers : List (Source × Bytes) := []
  lastAbort : Nat := 0
  hifs : SMap HostIf := []
  field : FieldPort := {}
  ports : SMap Port := []
  fab : Fabric := {}
  deriving DecidableEq, Repr

/-- The module before its first power-good: every register at the value the spec gives for reset, or at the
value log 3 names where it gives none. -/
def State.reset : State := {}

end Sys2Proof.Machine
end

