-- ==== Sys2Proof/Machine/Access.lean ====
section
/-! DEFINITION. Sys2Proof/Machine/Access.lean: every read and every update of a unit of the state goes through an
accessor of this file. A unit not listed is at its reset value. -/
namespace Sys2Proof.Machine

/-! ### Contexts, queues and runs (R28) -/

def State.ctx (s : State) (g : Nat) : Ctx := mapGet {} s.ctxs g
def State.setCtx (s : State) (g : Nat) (c : Ctx) : State := { s with ctxs := mapSet s.ctxs g c }
def State.modCtx (s : State) (g : Nat) (f : Ctx → Ctx) : State := s.setCtx g (f (s.ctx g))

def Ctx.queue (c : Ctx) (q : Nat) : Queue := mapGet {} c.queues q
def State.queue (s : State) (g q : Nat) : Queue := (s.ctx g).queue q
def State.setQueue (s : State) (g q : Nat) (u : Queue) : State :=
  s.modCtx g fun c => { c with queues := mapSet c.queues q u }
def State.modQueue (s : State) (g q : Nat) (f : Queue → Queue) : State := s.setQueue g q (f (s.queue g q))

/-- The started descriptor with a sequence number. -/
def Queue.run (u : Queue) (seq : Nat) : Option Run := u.runs.find? fun r => r.seq == seq
def State.run (s : State) (g q seq : Nat) : Option Run := (s.queue g q).run seq
def State.modRun (s : State) (g q seq : Nat) (f : Run → Run) : State :=
  s.modQueue g q fun u => { u with runs := modWhere (fun r => r.seq == seq) f u.runs }

/-- A sync counter (R44). -/
def State.counter (s : State) (g n : Nat) : BitVec 32 := mapGet 0 (s.ctx g).ctr n
def State.setCounter (s : State) (g n : Nat) (v : BitVec 32) : State :=
  s.modCtx g fun c => { c with ctr := mapSet c.ctr n v }

/-! ### Partitions, cores, dies, stacks, links -/

def State.part (s : State) (p : Nat) : Part := mapGet {} s.parts p
def State.modPart (s : State) (p : Nat) (f : Part → Part) : State := { s with parts := mapSet s.parts p (f (s.part p)) }
def State.core (s : State) (c : Nat) : Core := mapGet {} s.cores c
def State.modCore (s : State) (c : Nat) (f : Core → Core) : State := { s with cores := mapSet s.cores c (f (s.core c)) }
def State.die (s : State) (d : Nat) : Die := mapGet {} s.dies d
def State.modDie (s : State) (d : Nat) (f : Die → Die) : State := { s with dies := mapSet s.dies d (f (s.die d)) }
def State.stack (s : State) (k : Nat) : Stack := mapGet {} s.hbmStacks k
def State.modStack (s : State) (k : Nat) (f : Stack → Stack) : State :=
  { s with hbmStacks := mapSet s.hbmStacks k (f (s.stack k)) }
def State.link (s : State) (n : Nat) : D2d := mapGet {} s.links n
def State.modLink (s : State) (n : Nat) (f : D2d → D2d) : State := { s with links := mapSet s.links n (f (s.link n)) }

/-! ### Power, interfaces and ports -/

def State.modPwr (s : State) (f : Power → Power) : State := { s with pwr := f s.pwr }
def State.domain (s : State) (n : Nat) : Domain := mapGet {} s.pwr.domains n
def State.modDomain (s : State) (n : Nat) (f : Domain → Domain) : State :=
  s.modPwr fun w => { w with domains := mapSet w.domains n (f (mapGet {} w.domains n)) }
def State.dale (s : State) (n : Nat) : Dale := mapGet {} s.pwr.dales n
def State.modDale (s : State) (n : Nat) (f : Dale → Dale) : State :=
  s.modPwr fun w => { w with dales := mapSet w.dales n (f (mapGet {} w.dales n)) }
def State.hif (s : State) (h : Nat) : HostIf := mapGet {} s.hifs h
def State.modHif (s : State) (h : Nat) (f : HostIf → HostIf) : State := { s with hifs := mapSet s.hifs h (f (s.hif h)) }
def State.port (s : State) (p : Nat) : Port := mapGet {} s.ports p
def State.modPort (s : State) (p : Nat) (f : Port → Port) : State := { s with ports := mapSet s.ports p (f (s.port p)) }
def State.modFab (s : State) (f : Fabric → Fabric) : State := { s with fab := f s.fab }
def State.modSec (s : State) (f : Security → Security) : State := { s with sec := f s.sec }

/-- What tells one source of dictionary requests from another: a host interface, a field-port address, or a device ID
(R380). -/
def sourceChannel (x : Source) : Source :=
  match x with
  | .host h => .host h
  | .field a _ _ => .field a 0 0
  | .fabric dev _ => .fabric dev 0

/-- The connection a session belongs to. -/
def connChannel (c : Conn) : Conn := match c with | .dict src => .dict (sourceChannel src) | .port p => .port p

/-! ### Dictionary entries held in the store (R374) -/

/-- The value under a store number, or none while it is at its default. -/
def storeGet : SMap Bytes → Nat → Option Bytes
  | [], _ => none
  | (j, v) :: m, k => if k = j then some v else storeGet m k

/-- The value of an entry of the store, in bytes. -/
def State.cfgBytes (s : State) (index sub : Nat) : Bytes :=
  match storeGet s.store (key index sub) with
  | some v => v
  | none =>
    match groupOf 0 index with
    | none => []
    | some gi =>
      match entryOf gi.1 sub with
      | none => []
      | some e => defaultBytes e

/-- The value of an entry of the store, as a number. -/
def State.cfg (s : State) (index sub : Nat) : Nat := leNat (s.cfgBytes index sub)
def State.setCfg (s : State) (index sub : Nat) (v : Bytes) : State := { s with store := mapSet s.store (key index sub) v }
/-- An entry written as an n-byte number. -/
def State.setCfgNat (s : State) (index sub n v : Nat) : State := s.setCfg index sub (leBytes n v)
/-- Every entry whose store number satisfies p returns to its default. -/
def State.dropCfg (s : State) (p : Nat → Bool) : State := { s with store := s.store.filter fun kv => !p kv.1 }

/-! ### Numbering and shape (R12, R23, R28, R323) -/

/-- SHAPE (R323). -/
def State.shape (s : State) : Nat := s.cfg 0x3000 1
/-- Dies in a partition. -/
def State.dieCount (s : State) : Nat := 2 ^ s.shape
/-- How many partitions the SHAPE gives. -/
def State.partCount (s : State) : Nat := partsOf s.shape
def State.partOfDie (s : State) (d : Nat) : Nat := d / s.dieCount
/-- The partition's dies in ascending order. -/
def State.diesOf (s : State) (p : Nat) : List Nat := (List.range s.dieCount).map (p * s.dieCount + ·)
/-- The partition's stacks: three on each die (R12). -/
def State.stacksOf (s : State) (p : Nat) : List Nat := (s.diesOf p).flatMap fun d => [3 * d, 3 * d + 1, 3 * d + 2]
/-- The partition of a context (R28). -/
def partOfCtx (g : Nat) : Nat := g / 64
/-- The die of a core, stack, port (R12). -/
def dieOfCore (c : Nat) : Nat := c / 18
def dieOfStack (k : Nat) : Nat := k / 3
def dieOfPort (p : Nat) : Nat := p / 4
/-- The cores of a die, by global core number. -/
def coresOfDie (d : Nat) : List Nat := (List.range 18).map (18 * d + ·)
/-- The contexts of a partition. -/
def ctxsOfPart (p : Nat) : List Nat := (List.range 64).map (64 * p + ·)
/-- The host interface that serves a die: H0 serves CD0 to CD3 (R24). -/
def hostOfDie (d : Nat) : Nat := d / 4
/-- Whether an interface serves some die of a partition. -/
def State.hostServes (s : State) (h p : Nat) : Bool := (s.diesOf p).any fun d => hostOfDie d == h

/-- The role mask of a die (R13). -/
def State.roleMask (s : State) (d : Nat) : Nat := s.cfg 0x2010 (d + 1)
/-- Whether core Cc of a die is active. -/
def State.isActive (s : State) (core : Nat) : Bool := (s.roleMask (dieOfCore core)).testBit (core % 18)
def State.isFenced (s : State) (core : Nat) : Bool := (s.die (dieOfCore core)).fenced.getLsbD (core % 18)
/-- The active cores of a die, ascending. -/
def State.activeCores (s : State) (d : Nat) : List Nat := (coresOfDie d).filter s.isActive

/-! ### Time (R326, R392) -/

/-- Module time. -/
def State.now (s : State) : Nat := s.pwr.time
/-- Partition time: module time less the partition's origin (R392). -/
def State.partTime (s : State) (p : Nat) : Nat := s.pwr.time - (s.part p).origin
/-- Partition time of a context's partition. -/
def State.ctxTime (s : State) (g : Nat) : Nat := s.partTime (partOfCtx g)

/-! ### Free values (log 4) -/

/-- The next free value, and the state that has used it. -/
def State.draw (s : State) : BitVec 512 × State := (Config.freeValue s.free, { s with free := s.free + 1 })

/-- Whether MD serves the dictionary. -/
def State.serving (s : State) : Bool := s.pwr.phase == .serving || s.pwr.phase == .limited

end Sys2Proof.Machine
end

