-- ==== Sys2Proof/Machine/Crypto.lean ====
section
/-! DEFINITION. Sys2Proof/Machine/Crypto.lean: the published algorithms the spec names (R6): CRC-32C (R262), Philox-4x32-10
(R160, R255), SHA-256 and SHA-384 (R355, R398), AES-256-GCM
(R177, R249, R288, R355, R377), AES-256-XTS (R273) and GF(2^8) (R361). -/
namespace Sys2Proof.Machine

/-! ### CRC-32C (R262) -/

/-- One bit of the reflected CRC-32C. -/
def crcBit (c : Nat) : Nat := if c % 2 = 1 then (c >>> 1) ^^^ 0x82F63B78 else c >>> 1

def crcByte (c : Nat) (b : Byte) : Nat :=
  let x := c ^^^ b.toNat
  crcBit (crcBit (crcBit (crcBit (crcBit (crcBit (crcBit (crcBit x)))))))

/-- CRC-32C of bytes in ascending order, initial value and final XOR 0xFFFF_FFFF (R262). -/
def crc32c (bs : Bytes) : BitVec 32 := BitVec.ofNat 32 ((bs.foldl crcByte 0xFFFFFFFF) ^^^ 0xFFFFFFFF)

/-! ### Philox-4x32-10 (R160, R255) -/

/-- The four words of a Philox block. -/
structure Words4 where
  w0 : Nat
  w1 : Nat
  w2 : Nat
  w3 : Nat
  deriving DecidableEq, Repr

def m32 : Nat := 4294967296

/-- One Philox round under keys k0, k1. -/
def philoxRound (k0 k1 : Nat) (c : Words4) : Words4 :=
  let p0 := 0xD2511F53 * c.w0
  let p1 := 0xCD9E8D57 * c.w2
  { w0 := (p1 / m32) ^^^ c.w1 ^^^ k0, w1 := p1 % m32, w2 := (p0 / m32) ^^^ c.w3 ^^^ k1, w3 := p0 % m32 }

/-- n rounds, the key rising by the Weyl constants after each. -/
def philoxRounds : Nat → Nat → Nat → Words4 → Words4
  | 0, _, _, c => c
  | n + 1, k0, k1, c =>
    philoxRounds n ((k0 + 0x9E3779B9) % m32) ((k1 + 0xBB67AE85) % m32) (philoxRound k0 k1 c)

/-- Philox-4x32-10 of a counter under a 64-bit key, low word first. -/
def philox (key : BitVec 64) (c0 c1 c2 c3 : Nat) : Words4 :=
  philoxRounds 10 (key.toNat % m32) (key.toNat / m32) { w0 := c0 % m32, w1 := c1 % m32, w2 := c2 % m32, w3 := c3 % m32 }

/-! ### SHA-256, SHA-512 and SHA-384 -/

/-- The parameters in which SHA-256 and SHA-512 differ: word size, rounds, constants and rotations. -/
structure ShaKind where
  w : Nat
  rounds : Nat
  k : List Nat
  s0 : Nat × Nat × Nat
  s1 : Nat × Nat × Nat
  b0 : Nat × Nat × Nat
  b1 : Nat × Nat × Nat

def rotr (w x n : Nat) : Nat := (x >>> n) ||| ((x <<< (w - n)) % 2 ^ w)

/-- Two rotations and a shift. -/
def smallSigma (w : Nat) (r : Nat × Nat × Nat) (x : Nat) : Nat := rotr w x r.1 ^^^ rotr w x r.2.1 ^^^ (x >>> r.2.2)

/-- Three rotations. -/
def bigSigma (w : Nat) (r : Nat × Nat × Nat) (x : Nat) : Nat := rotr w x r.1 ^^^ rotr w x r.2.1 ^^^ rotr w x r.2.2

/-- n further schedule words; `sch` holds the words so far, newest first. -/
def shaSchedule (kd : ShaKind) : Nat → List Nat → List Nat
  | 0, sch => sch.reverse
  | n + 1, sch =>
    let v := (smallSigma kd.w kd.s1 (nth 0 sch 1) + nth 0 sch 6 + smallSigma kd.w kd.s0 (nth 0 sch 14)
      + nth 0 sch 15) % 2 ^ kd.w
    shaSchedule kd n (v :: sch)

/-- One compression round on [a, b, c, d, e, f, g, h] with a constant and a schedule word. -/
def shaRound (kd : ShaKind) (v : List Nat) (kw : Nat × Nat) : List Nat :=
  match v with
  | [a, b, c, d, e, f, g, h] =>
    let mask := 2 ^ kd.w - 1
    let ch := (e &&& f) ^^^ ((e ^^^ mask) &&& g)
    let maj := (a &&& b) ^^^ (a &&& c) ^^^ (b &&& c)
    let t1 := h + bigSigma kd.w kd.b1 e + ch + kw.1 + kw.2
    let t2 := bigSigma kd.w kd.b0 a + maj
    [(t1 + t2) % 2 ^ kd.w, a, b, c, (d + t1) % 2 ^ kd.w, e, f, g]
  | l => l

/-- One block, as sixteen words, into the chaining value. -/
def shaBlock (kd : ShaKind) (h : List Nat) (m : List Nat) : List Nat :=
  let sch := shaSchedule kd (kd.rounds - 16) m.reverse
  let r := (kd.k.zip sch).foldl (shaRound kd) h
  List.zipWith (fun x y => (x + y) % 2 ^ kd.w) h r

/-- A big-endian number. -/
def beNat (bs : Bytes) : Nat := bs.foldl (fun a b => a * 256 + b.toNat) 0

/-- n bytes of a number, highest byte first. -/
def beBytes (n v : Nat) : Bytes := (leBytes n v).reverse

/-- Consecutive pieces of n bytes, `fuel` at most. -/
def pieces : Nat → Nat → Bytes → List Bytes
  | 0, _, _ => []
  | _, _, [] => []
  | fuel + 1, n, bs => bs.take n :: pieces fuel n (bs.drop n)

/-- The message padded to whole blocks. -/
def shaPad (kd : ShaKind) (m : Bytes) : Bytes :=
  let lenBytes := kd.w / 4
  let blk := kd.w * 2
  let body := m.length + 1 + lenBytes
  m ++ (0x80 :: zeros (roundUp body blk - body)) ++ beBytes lenBytes (8 * m.length)

def sha (kd : ShaKind) (h0 : List Nat) (m : Bytes) : Bytes :=
  let p := shaPad kd m
  let blocks := pieces p.length (kd.w * 2) p
  let h := blocks.foldl (fun h b => shaBlock kd h ((pieces 16 (kd.w / 8) b).map beNat)) h0
  (h.map (beBytes (kd.w / 8))).flatten

/-- The round constants of SHA-512, four in each number, the first in the high bits: the first 64 fraction bits of the
cube roots of the first eighty primes. -/
def shaPacked : List Nat :=
  [0x428a2f98d728ae227137449123ef65cdb5c0fbcfec4d3b2fe9b5dba58189dbbc,
   0x3956c25bf348b53859f111f1b605d019923f82a4af194f9bab1c5ed5da6d8118,
   0xd807aa98a303024212835b0145706fbe243185be4ee4b28c550c7dc3d5ffb4e2,
   0x72be5d74f27b896f80deb1fe3b1696b19bdc06a725c71235c19bf174cf692694,
   0xe49b69c19ef14ad2efbe4786384f25e30fc19dc68b8cd5b5240ca1cc77ac9c65,
   0x2de92c6f592b02754a7484aa6ea6e4835cb0a9dcbd41fbd476f988da831153b5,
   0x983e5152ee66dfaba831c66d2db43210b00327c898fb213fbf597fc7beef0ee4,
   0xc6e00bf33da88fc2d5a79147930aa72506ca6351e003826f142929670a0e6e70,
   0x27b70a8546d22ffc2e1b21385c26c9264d2c6dfc5ac42aed53380d139d95b3df,
   0x650a73548baf63de766a0abb3c77b2a881c2c92e47edaee692722c851482353b,
   0xa2bfe8a14cf10364a81a664bbc423001c24b8b70d0f89791c76c51a30654be30,
   0xd192e819d6ef5218d69906245565a910f40e35855771202a106aa07032bbd1b8,
   0x19a4c116b8d2d0c81e376c085141ab532748774cdf8eeb9934b0bcb5e19b48a8,
   0x391c0cb3c5c95a634ed8aa4ae3418acb5b9cca4f7763e373682e6ff3d6b2b8a3,
   0x748f82ee5defb2fc78a5636f43172f6084c87814a1f0ab728cc702081a6439ec,
   0x90befffa23631e28a4506cebde82bde9bef9a3f7b2c67915c67178f2e372532b,
   0xca273eceea26619cd186b8c721c0c207eada7dd6cde0eb1ef57d4f7fee6ed178,
   0x06f067aa72176fba0a637dc5a2c898a6113f9804bef90dae1b710b35131c471b,
   0x28db77f523047d8432caab7b40c724933c9ebe0a15c9bebc431d67c49c100d4c,
   0x4cc5d4becb3e42b6597f299cfc657e2a5fcb6fab3ad6faec6c44198c4a475817]

/-- The four words packed in a number. -/
def unpack64 (v : Nat) : List Nat := [192, 128, 64, 0].map fun at' => (v >>> at') % 2 ^ 64

def sha512K : List Nat := shaPacked.flatMap unpack64

/-- SHA-256 uses the high halves of the first 64 constants of SHA-512. -/
def sha256Kind : ShaKind :=
  { w := 32, rounds := 64, k := (sha512K.take 64).map (· >>> 32), s0 := (7, 18, 3), s1 := (17, 19, 10),
    b0 := (2, 13, 22), b1 := (6, 11, 25) }

def sha512Kind : ShaKind :=
  { w := 64, rounds := 80, k := sha512K, s0 := (1, 8, 7), s1 := (19, 61, 6), b0 := (28, 34, 39),
    b1 := (14, 18, 41) }

/-- SHA-256 of a message (R355). -/
def sha256 (m : Bytes) : Bytes :=
  sha sha256Kind ((unpack64 0x6a09e667bb67ae853c6ef372a54ff53a510e527f9b05688c1f83d9ab5be0cd19).flatMap fun v =>
    [v >>> 32, v % 2 ^ 32]) m

/-- SHA-384 of a message (R398, R403). -/
def sha384 (m : Bytes) : Bytes :=
  (sha sha512Kind (unpack64 0xcbbb9d5dc1059ed8629a292a367cd5079159015a3070dd17152fecd8f70e5939 ++
    unpack64 0x67332667ffc00b318eb44a8768581511db0c2e0d64f98fa747b5481dbefa4fa4) m).take 48

/-! ### GF(2^8) of R361: x^8 + x^4 + x^3 + x^2 + 1 -/

/-- Multiplication by x under a reduction polynomial. -/
def gfDouble (poly a : Nat) : Nat := if a ≥ 128 then (2 * a) ^^^ poly else 2 * a

/-- The product of bytes a and b, n bits of b left. -/
def gfMulBits (poly : Nat) : Nat → Nat → Nat → Nat
  | 0, _, _ => 0
  | n + 1, a, b => (if b % 2 = 1 then a else 0) ^^^ gfMulBits poly n (gfDouble poly a) (b / 2)

/-- The product in the field of R361. -/
def gfMul (a b : Nat) : Nat := gfMulBits 0x11D 8 a b

/-- α^n in the field of R361. -/
def gfPow : Nat → Nat
  | 0 => 1
  | n + 1 => gfMul 2 (gfPow n)

/-- The inverse, as the 254th power; 0 for 0. -/
def gfInv (a : Nat) : Nat :=
  let a2 := gfMul a a
  let a4 := gfMul a2 a2
  let a8 := gfMul a4 a4
  let a16 := gfMul a8 a8
  let a32 := gfMul a16 a16
  let a64 := gfMul a32 a32
  let a128 := gfMul a64 a64
  gfMul a2 (gfMul a4 (gfMul a8 (gfMul a16 (gfMul a32 (gfMul a64 a128)))))

/-! ### AES-256-GCM -/

/-- The product in AES's field, x^8 + x^4 + x^3 + x + 1. -/
def aesMul (a b : Nat) : Nat := gfMulBits 0x11B 8 a b

/-- a to the power 254 by repeated squaring: the inverse in AES's field. -/
def aesInv (a : Nat) : Nat :=
  let a2 := aesMul a a
  let a4 := aesMul a2 a2
  let a8 := aesMul a4 a4
  let a16 := aesMul a8 a8
  let a32 := aesMul a16 a16
  let a64 := aesMul a32 a32
  let a128 := aesMul a64 a64
  aesMul a2 (aesMul a4 (aesMul a8 (aesMul a16 (aesMul a32 (aesMul a64 a128)))))

/-- The S-box: the affine map of the inverse. -/
def aesSub (a : Nat) : Nat :=
  let b := aesInv a
  let rot (n : Nat) : Nat := ((b <<< n) ||| (b >>> (8 - n))) % 256
  b ^^^ rot 1 ^^^ rot 2 ^^^ rot 3 ^^^ rot 4 ^^^ 0x63

/-- The bytewise exclusive or of two runs. -/
def xorBytes (a b : List Nat) : List Nat := List.zipWith (· ^^^ ·) a b

/-- The key schedule, in words of four bytes, newest first; n words to go. -/
def aesExpand : Nat → Nat → Nat → List (List Nat) → List (List Nat)
  | 0, _, _, acc => acc
  | n + 1, i, rcon, acc =>
    let prev := nth [] acc 0
    let old := nth [] acc 7
    if i % 8 = 0 then
      let t := ((prev.drop 1) ++ (prev.take 1)).map aesSub
      aesExpand n (i + 1) (gfDouble 0x11B rcon) (xorBytes old (xorBytes t [rcon, 0, 0, 0]) :: acc)
    else if i % 8 = 4 then
      aesExpand n (i + 1) rcon (xorBytes old (prev.map aesSub) :: acc)
    else
      aesExpand n (i + 1) rcon (xorBytes old prev :: acc)

/-- Runs of four. -/
def fours : Nat → List Nat → List (List Nat)
  | 0, _ => []
  | _, [] => []
  | n + 1, l => l.take 4 :: fours n (l.drop 4)

/-- The fifteen round keys of sixteen bytes. -/
def aesKeys (key : List Nat) : List (List Nat) :=
  let ws := (aesExpand 52 8 1 (fours 8 key).reverse).reverse
  (List.range 15).map fun r => ((ws.drop (4 * r)).take 4).flatten

/-- ShiftRows on the sixteen bytes in column order. -/
def aesShift (st : List Nat) : List Nat :=
  (List.range 16).map fun i => nth 0 st ((i + 4 * (i % 4)) % 16)

def aesMixCol (c : List Nat) : List Nat :=
  let a := nth 0 c 0
  let b := nth 0 c 1
  let d := nth 0 c 2
  let e := nth 0 c 3
  [aesMul 2 a ^^^ aesMul 3 b ^^^ d ^^^ e, a ^^^ aesMul 2 b ^^^ aesMul 3 d ^^^ e,
   a ^^^ b ^^^ aesMul 2 d ^^^ aesMul 3 e, aesMul 3 a ^^^ b ^^^ d ^^^ aesMul 2 e]

/-- Rounds under the remaining keys. -/
def aesRounds : List (List Nat) → List Nat → List Nat
  | [], st => st
  | [k], st => xorBytes (aesShift (st.map aesSub)) k
  | k :: ks, st => aesRounds ks (xorBytes ((fours 4 (aesShift (st.map aesSub))).map aesMixCol).flatten k)

/-- AES-256 of one block under expanded keys. -/
def aesBlock (keys : List (List Nat)) (blk : List Nat) : List Nat :=
  match keys with
  | [] => blk
  | k :: ks => aesRounds ks (xorBytes blk k)

/-- One step of the GHASH product: (z, v) for bit i of x, most significant first. -/
def ghashMul : Nat → Nat → Nat → Nat → Nat
  | 0, _, _, z => z
  | n + 1, x, v, z =>
    let z' := if x.testBit n then z ^^^ v else z
    let v' := if v % 2 = 1 then (v >>> 1) ^^^ (0xE1 <<< 120) else v >>> 1
    ghashMul n x v' z'

/-- GHASH of sixteen-byte blocks. -/
def ghash (h : Nat) (blocks : List Nat) : Nat := blocks.foldl (fun y b => ghashMul 128 (y ^^^ b) h 0) 0

/-- A run of bytes as sixteen-byte numbers, the last one padded with zeros. -/
def padBlocks (bs : Bytes) : List Nat := (pieces bs.length 16 bs).map fun b => beNat (sized 16 b)

/-- The key of 256 bits as bytes, first byte lowest. -/
def keyBytes (k : BitVec 256) : List Nat := (leBytes 32 k.toNat).map (·.toNat)

/-- The key stream from counter block `ctr` on. -/
def ctrStream (keys : List (List Nat)) (nonce : Bytes) : Nat → Nat → Bytes
  | 0, _ => []
  | n + 1, ctr =>
    ((aesBlock keys ((nonce ++ beBytes 4 ctr).map (·.toNat))).map (BitVec.ofNat 8)) ++ ctrStream keys nonce n (ctr + 1)

/-- The tag of a ciphertext. -/
def gcmTag (keys : List (List Nat)) (nonce aad ct : Bytes) : Bytes :=
  let h := beNat ((aesBlock keys (List.replicate 16 0)).map (BitVec.ofNat 8))
  let lens := (8 * aad.length) * 2 ^ 64 + 8 * ct.length
  let g := ghash h (padBlocks aad ++ padBlocks ct ++ [lens])
  let e := beNat ((aesBlock keys ((nonce ++ beBytes 4 1).map (·.toNat))).map (BitVec.ofNat 8))
  beBytes 16 (g ^^^ e)

/-- Encryption and decryption in counter mode: the plaintext XOR the key stream. -/
def gcmCrypt (keys : List (List Nat)) (nonce pt : Bytes) : Bytes :=
  List.zipWith (· ^^^ ·) pt (ctrStream keys nonce (ceilDiv pt.length 16) 2)

/-- AES-256-GCM: ciphertext and 16-byte tag, under a 12-byte nonce. -/
def gcmSeal (key : BitVec 256) (nonce aad pt : Bytes) : Bytes × Bytes :=
  let keys := aesKeys (keyBytes key)
  let ct := gcmCrypt keys nonce pt
  (ct, gcmTag keys nonce aad ct)

/-- The plaintext when the tag verifies. -/
def gcmOpen (key : BitVec 256) (nonce aad ct tag : Bytes) : Option Bytes :=
  let keys := aesKeys (keyBytes key)
  if gcmTag keys nonce aad ct = tag then some (gcmCrypt keys nonce ct) else none

/-! ### AES-256-XTS (R273) -/

/-- The tweak of the next sixteen-byte block: multiplication by x, the first byte lowest. -/
def xtsNext (t : Nat) : Nat :=
  if t < 2 ^ 127 then 2 * t else ((2 * t) % 2 ^ 128) ^^^ 0x87

/-- The blocks of a data unit, each enciphered between its tweak. -/
def xtsBlocks (keys : List (List Nat)) : Nat → List Bytes → Bytes
  | _, [] => []
  | t, b :: bs =>
    let tw := (leBytes 16 t).map (·.toNat)
    (xorBytes (aesBlock keys (xorBytes (b.map (·.toNat)) tw)) tw).map (BitVec.ofNat 8) ++ xtsBlocks keys (xtsNext t) bs

/-- AES-256-XTS of a data unit of whole blocks: the low half of the key enciphers the blocks, the high half the tweak. -/
def xtsSeal (key : BitVec 512) (tweak : Nat) (unit : Bytes) : Bytes :=
  let data := aesKeys (keyBytes (key.setWidth 256))
  let tw := aesKeys (keyBytes ((key >>> 256).setWidth 256))
  let t := leNat ((aesBlock tw ((leBytes 16 tweak).map (·.toNat))).map (BitVec.ofNat 8))
  xtsBlocks data t (pieces (unit.length + 1) 16 unit)

end Sys2Proof.Machine
end

