-- ==== Sys2Proof/Machine/Memory.lean ====
section
/-! DEFINITION. Sys2Proof/Machine/Memory.lean: bytes of HBM and of host memory, tile sums (R262 to R266), device physical
addresses (R253 to R256), context translation (R327 to R329) and the accesses of a context by virtual address. -/
namespace Sys2Proof.Machine

/-! ### Cells in canonical form: addresses strictly rising, no zero byte listed -/

/-- One byte; an unlisted address reads 0 (log 5, log 6). -/
def cellGet : List Host.Cell → Nat → Byte
  | [], _ => 0
  | (k, v) :: cs, a => if a = k then v else cellGet cs a

/-- The cells of consecutive bytes from address a, zeros left out. -/
def cellsOf : Nat → Bytes → List Host.Cell
  | _, [] => []
  | a, b :: bs => if b = 0 then cellsOf (a + 1) bs else (a, b) :: cellsOf (a + 1) bs

/-- The cells with n consecutive bytes from a replaced. -/
def cellsWrite (cs : List Host.Cell) (a : Nat) (bs : Bytes) : List Host.Cell :=
  cs.filter (fun c => c.1 < a) ++ cellsOf a bs ++ cs.filter (fun c => a + bs.length ≤ c.1)

/-- n consecutive bytes from a. -/
def cellsRead (cs : List Host.Cell) (a n : Nat) : Bytes :=
  let near := cs.filter fun c => a ≤ c.1 && c.1 < a + n
  (List.range n).map fun i => cellGet near (a + i)

/-- The cells with n consecutive bytes from a zero. -/
def cellsZero (cs : List Host.Cell) (a n : Nat) : List Host.Cell :=
  cs.filter fun c => c.1 < a || a + n ≤ c.1

/-- The canonical form, from a lower bound on. -/
def cellsWfFrom : Nat → List Host.Cell → Bool
  | _, [] => true
  | lo, (k, v) :: cs => lo ≤ k && v != 0 && cellsWfFrom (k + 1) cs

/-- The canonical form. -/
def Memory.wf (cs : List Host.Cell) : Bool := cellsWfFrom 0 cs

/-- The memories of a state are in their canonical form. -/
abbrev State.memOk (s : State) : Prop := Memory.wf s.hbm = true ∧ Memory.wf s.host0 = true ∧ Memory.wf s.host1 = true

/-! ### Device physical addresses (R252, R253, R254) -/

/-- Raw bytes per stack (R252). -/
def rawCapacity : Variant → Nat
  | .h48 => 48 * 2 ^ 30
  | .h64 => 64 * 2 ^ 30

/-- The tile-sum side table of a stack: 4 bytes for each 4,096 of its raw capacity (R252). -/
def sideTable (v : Variant) : Nat := rawCapacity v / 4096 * 4

/-- The service area of a stack: training patterns and spare-row records, which no context can address (R252). -/
def serviceArea : Nat := 64 * 2 ^ 20

/-- U: usable bytes per stack (R252). -/
def usable (v : Variant) : Nat := rawCapacity v - sideTable v - serviceArea

/-- Pseudo-channels of a stack, and banks of a pseudo-channel (R252). -/
def pseudoChannels : Nat := 64
def banks : Nat := 64

def State.spreadGib (s : State) (p : Nat) : Nat := s.cfg (0x3800 + p) 1
/-- LOCAL_BYTES, per die (R254). -/
def State.localBytes (s : State) (p : Nat) : Nat := 3 * (usable s.variant - s.spreadGib p * 2 ^ 30)
/-- SPREAD_BYTES (R254). -/
def State.spreadBytes (s : State) (p : Nat) : Nat := 3 * s.dieCount * (s.spreadGib p * 2 ^ 30)

/-- Whether n bytes from a DPA lie in the partition's LOCAL or SPREAD space (R253). -/
def State.dpaOk (s : State) (p dpa n : Nat) : Bool :=
  if dpa < 2 ^ 47 then
    s.partOfDie (dpa / 2 ^ 44) == p && dpa % 2 ^ 44 + n ≤ s.localBytes p
  else dpa < 2 ^ 47 + 2 ^ 44 && dpa - 2 ^ 47 + n ≤ s.spreadBytes p

/-- The number under which a partition's byte is held: each partition has its own memory. -/
def hbmKey (p dpa : Nat) : Nat := p * 2 ^ 48 + dpa

/-- F(u, n) of R255. -/
def hashF (k : BitVec 64) (u n : Nat) : Nat := (philox k (u % m32) (u / m32) 0 n).w0

/-- Where a line of HBM lies (R256): die, stack of the module, channel, pseudo-channel, bank, and position in its bank. -/
structure Place where
  die : Nat
  stack : Nat
  channel : Nat
  pseudo : Nat
  bank : Nat
  position : Nat
  deriving DecidableEq, Repr

/-- The hash key of a partition (R255). -/
def State.hashKey (s : State) (p : Nat) : BitVec 64 := match (s.part p).keys with | some ks => ks.hash | none => 0

/-- The home die of a DPA and the number of its line in that die's space. -/
def State.homeOf (s : State) (p dpa : Nat) : Nat × Nat :=
  let d := s.dieCount
  let off := dpa % 2 ^ 44
  if dpa ≥ 2 ^ 47 then
    let t := off / 4096
    let qt := t / d
    (p * d + (t % d + hashF (s.hashKey p) (qt / 512) 1) % d, qt * 32 + (off / 128) % 32)
  else (dpa / 2 ^ 44, off / 128)

/-- Bank positions per bank in LOCAL space: the spread space of a stack follows them (R256). -/
def State.localLines (s : State) (p : Nat) : Nat := (usable s.variant - s.spreadGib p * 2 ^ 30) / 128 / 4096

/-- The mapping of a DPA, by the procedure of R256. -/
def State.placeAt (s : State) (p dpa : Nat) : Place :=
  let k := s.hashKey p
  let h := s.homeOf p dpa
  let q := h.2 / 3
  let x := (q % 4096) ^^^ (hashF k (q / 4096) 3 % 4096)
  { die := h.1
    stack := 3 * h.1 + (h.2 % 3 + hashF k (q / 16384) 2) % 3
    channel := x % 32
    pseudo := x / 32 % 2
    bank := x / 64
    position := (if dpa ≥ 2 ^ 47 then s.localLines p else 0) + q / 4096 }

/-- The home die and the stack that hold a line. -/
def State.placeOf (s : State) (p dpa : Nat) : Nat × Nat := ((s.placeAt p dpa).die, (s.placeAt p dpa).stack)

/-! ### Tile sums (R262 to R265) -/

/-- The difference between a data tile's stored sum and the CRC-32C of its bytes; 0 when they match. -/
def State.tileDelta (s : State) (t : Nat) : BitVec 32 := mapGet 0 s.sumDelta t

def setDelta (m : SMap (BitVec 32)) (t : Nat) (v : BitVec 32) : SMap (BitVec 32) :=
  let rest := m.filter fun kv => kv.1 != t
  if v = 0 then rest else mapSet rest t v

/-- The data tiles that a run of bytes covers whole. -/
def wholeTiles (a n : Nat) : List Nat :=
  let lo := ceilDiv a 4096
  (List.range ((a + n) / 4096 - lo)).map (lo + ·)

/-- The data tiles that a run of bytes touches. -/
def tilesOf (a n : Nat) : List Nat :=
  if n = 0 then [] else (List.range ((a + n - 1) / 4096 - a / 4096 + 1)).map (a / 4096 + ·)

/-- Bytes of a partition's HBM, by DPA. -/
def State.hbmRead (s : State) (p dpa n : Nat) : Bytes := cellsRead s.hbm (hbmKey p dpa) n

/-- The sum the side table holds for a data tile. -/
def State.tileSum (s : State) (p tile : Nat) : BitVec 32 :=
  crc32c (s.hbmRead p (4096 * tile) 4096) ^^^ s.tileDelta (hbmKey p (4096 * tile) / 4096)

/-- A unit of 4,096 bytes as its stack holds it (R273): under AES-256-XTS with the partition's memory key where HBM_ENCRYPT
is set. Every access is to plaintext; what the stacks hold is seen by no command (log 93). -/
def State.atRest (s : State) (p tweak : Nat) (unit : Bytes) : Bytes :=
  match (s.part p).keys with
  | some k => if s.cfg (0x3800 + p) 2 = 1 then xtsSeal k.memory tweak unit else unit
  | none => unit

/-- A data tile as its stack holds it; the tweak is its DPA shifted right by 12. -/
def State.tileAtRest (s : State) (p tile : Nat) : Bytes := s.atRest p tile (s.hbmRead p (4096 * tile) 4096)

/-- The 1,024 sums that follow a tile's in its side table, as one data unit; the model gives it the number of its first
data tile as its tweak, which R273 leaves open (DESIGN CHOICE, log 93). -/
def State.sumsAtRest (s : State) (p tile : Nat) : Bytes :=
  s.atRest p tile ((List.range 1024).flatMap fun i => leBytes 4 (s.tileSum p (tile + i)).toNat)

/-- A write to HBM (R263, R259): bytes, sums of the data tiles it covers whole, and the lines of the die caches it
invalidates. A partial write keeps the difference of its data tile by the linearity of the CRC. -/
def State.hbmWrite (s : State) (p dpa : Nat) (bs : Bytes) : State :=
  let a := hbmKey p dpa
  let n := bs.length
  let whole := wholeTiles a n
  { s with
    hbm := cellsWrite s.hbm a bs
    sumDelta := s.sumDelta.filter fun kv => !whole.contains kv.1
    dies := s.dies.map fun kv =>
      (kv.1, { kv.2 with lines := kv.2.lines.filter fun l => l < a / 128 || a + n ≤ l * 128 }) }

/-! ### Context translation (R327, R328) -/

/-- Where a byte of a context lies: HBM by DPA, or host memory, and the attribute byte of its page (R257). -/
structure Xlat where
  host : Bool
  addr : Nat
  attr : Nat
  deriving DecidableEq, Repr

/-- What an INVALID entry, or one that leaves the address space, gives: nothing. `levels` lists the lowest address
bit and the width of each level still to walk (R327). -/
def State.walk (s : State) (p va : Nat) : List (Nat × Nat) → Nat → Option Xlat
  | [], _ => none
  | (sh, w) :: rest, table =>
    let e := leNat (s.hbmRead p (table + 8 * bitsOf va sh w) 8)
    let attr := e / 2 ^ 56
    let addr := bitsOf e 8 48 * 256
    if bitsOf e 2 6 ≠ 0 then none
    else if e % 4 = 1 then
      let size := if rest.length = 1 then 256 else 4096
      if attr = 0 && addr % size = 0 && s.dpaOk p addr size && rest ≠ [] then s.walk p va rest addr else none
    else if e % 4 = 2 then
      let host := attr.testBit 2
      let fits := if host then true else s.dpaOk p addr (2 ^ sh) && (attr.testBit 3 == addr.testBit 47)
      if (sh = 21 || sh = 16) && !attr.testBit 7 && addr % 2 ^ sh = 0 && fits then
        some { host := host, addr := addr + va % 2 ^ sh, attr := attr }
      else none
    else none

/-- The five levels of R327. -/
def tableLevels : List (Nat × Nat) := [(48, 9), (39, 9), (30, 9), (21, 9), (16, 5)]

/-- The walk of the tables for one virtual address. -/
def State.walkCtx (s : State) (g va : Nat) : Option Xlat :=
  let root := s.cfg (0x3600 + g) 6
  if va < 2 ^ 57 && s.dpaOk (partOfCtx g) root 4096 then s.walk (partOfCtx g) va tableLevels root else none

/-- The translation of one virtual address: a cached 64 KiB granule where one is held, else the tables (R329). -/
def State.xlate (s : State) (g va : Nat) : Option Xlat :=
  match (s.ctx g).tlb.find? fun e => e.1 == va / 65536 with
  | some (_, e) =>
    some { host := (e.toNat / 2 ^ 56).testBit 2, addr := bitsOf e.toNat 8 48 * 256 + va % 65536, attr := e.toNat / 2 ^ 56 }
  | none => s.walkCtx g va

/-! ### Accesses of a context -/

/-- Why an access failed: a status of R55 and, for corrupt data, the virtual address of the data tile. -/
structure Fail where
  status : Nat
  tile : Nat := 0
  deriving DecidableEq, Repr

/-- Whether host traffic of a partition reaches an interface: it is ready (R57) and no die-to-die link between the
partition and column 0 is out of service (R446). -/
def State.hostOk (s : State) (p h : Nat) : Bool :=
  let lo := p * s.dieCount
  (s.hif h).ready && !(List.range (lo % 4)).any fun c => (s.link (3 * (lo / 4) + c)).out

/-- The host interface of a context (R330). -/
def State.hostIfOf (s : State) (g : Nat) : Nat := s.cfg (0x3600 + g) 8

/-- The host's bytes behind an interface; a context's addresses are those of its PASID (R328). -/
def State.hostMem (s : State) (h : Nat) : List Host.Cell := if h = 0 then s.host0 else s.host1
def hostKey (pasid a : Nat) : Nat := pasid * 2 ^ 56 + a
def State.hostWrite (s : State) (h a : Nat) (bs : Bytes) : State :=
  if h = 0 then { s with host0 := cellsWrite s.host0 a bs } else { s with host1 := cellsWrite s.host1 a bs }

/-- A run of virtual addresses cut at 64 KiB boundaries, as (address, length). -/
def segs : Nat → Nat → Nat → List (Nat × Nat)
  | 0, _, _ => []
  | fuel + 1, va, n =>
    if n = 0 then []
    else
      let k := min n (65536 - va % 65536)
      (va, k) :: segs fuel (va + k) (n - k)

/-- The segments of a run of n bytes. -/
def segsOf (va n : Nat) : List (Nat × Nat) := segs (n / 65536 + 2) va n

/-- The first data tile of a run of HBM bytes whose sum does not match, as an address of hbmKey. -/
def State.badTile (s : State) (a n : Nat) : Option Nat :=
  match (tilesOf a n).find? fun t => s.tileDelta t != 0 with
  | some t => some (t * 4096)
  | none => none

/-- Whether a translated segment is reachable. -/
def State.reach (s : State) (g : Nat) (x : Xlat) : Bool := !x.host || s.hostOk (partOfCtx g) (s.hostIfOf g)

/-- The bytes of one segment. With `verify`, every data tile it touches in HBM is verified (R264). -/
def State.readSeg (s : State) (g va n : Nat) (verify : Bool) : Except Fail Bytes :=
  match s.xlate g va with
  | none => .error { status := stBadAddress }
  | some x =>
    if !x.attr.testBit 0 then .error { status := stBadAddress }
    else if x.host then
      if s.hostOk (partOfCtx g) (s.hostIfOf g) then
        .ok (cellsRead (s.hostMem (s.hostIfOf g)) (hostKey (s.cfg (0x3600 + g) 7) x.addr) n)
      else .error { status := stHostLost }
    else
      let a := hbmKey (partOfCtx g) x.addr
      match (if verify then s.badTile a n else none) with
      | some t => .error { status := stDataCorrupt, tile := va + t - a }
      | none => .ok (cellsRead s.hbm a n)

/-- The bytes of a list of segments, in order, or the first failure. -/
def State.readSegs (s : State) (g : Nat) (verify : Bool) : List (Nat × Nat) → Except Fail Bytes
  | [] => .ok []
  | (va, n) :: rest =>
    match s.readSeg g va n verify with
    | .error e => .error e
    | .ok bs =>
      match s.readSegs g verify rest with
      | .error e => .error e
      | .ok more => .ok (bs ++ more)

/-- n bytes of a context from a virtual address, verified at use (R264 to R266). -/
def State.readVa (s : State) (g va n : Nat) : Except Fail Bytes := s.readSegs g true (segsOf va n)
/-- The same without verification of tile sums. -/
def State.readRaw (s : State) (g va n : Nat) : Except Fail Bytes := s.readSegs g false (segsOf va n)

/-- One segment written, or why it cannot be. -/
def State.writeSeg (s : State) (g va : Nat) (bs : Bytes) : Except Fail State :=
  match s.xlate g va with
  | none => .error { status := stBadAddress }
  | some x =>
    if !x.attr.testBit 1 then .error { status := stBadAddress }
    else if x.host then
      if s.hostOk (partOfCtx g) (s.hostIfOf g) then
        .ok (s.hostWrite (s.hostIfOf g) (hostKey (s.cfg (0x3600 + g) 7) x.addr) bs)
      else .error { status := stHostLost }
    else .ok (s.hbmWrite (partOfCtx g) x.addr bs)

/-- Segments written in order until one fails; writes already made remain (R54). -/
def State.writeSegs (s : State) (g : Nat) : List (Nat × Nat) → Bytes → State × Option Fail
  | [], _ => (s, none)
  | (va, n) :: rest, bs =>
    match s.writeSeg g va (bs.take n) with
    | .error e => (s, some e)
    | .ok s' => s'.writeSegs g rest (bs.drop n)

/-- Bytes written from a virtual address. -/
def State.writeVa (s : State) (g va : Nat) (bs : Bytes) : State × Option Fail :=
  s.writeSegs g (segsOf va bs.length) bs

/-- A list of writes, (address, bytes), carried out in order until one fails. -/
def State.writeAll (s : State) (g : Nat) : List (Nat × Bytes) → State × Option Fail
  | [] => (s, none)
  | (va, bs) :: rest =>
    match s.writeVa g va bs with
    | (s', some e) => (s', some e)
    | (s', none) => s'.writeAll g rest

/-- The DPA behind a virtual address in HBM; 0 where there is none. -/
def State.dpaOf (s : State) (g va : Nat) : Nat :=
  match s.xlate g va with
  | some x => if x.host then 0 else x.addr
  | none => 0

/-- Whether some address of [va, va + n) lies in a page with the given attribute bit. -/
def State.anyAttr (s : State) (g va n bit : Nat) : Bool :=
  (segsOf va n).any fun seg =>
    match s.xlate g seg.1 with
    | some x => x.attr.testBit bit
    | none => false

end Sys2Proof.Machine
end

