-- ==== Sys2Proof/Machine/Ops.lean ====
section
/-! DEFINITION. Sys2Proof/Machine/Ops.lean: the operations several commands share: the event log and the Doubler,
interrupts, the cores and their pips, finishing a descriptor and the job fault of R56, and the idle tick. -/
namespace Sys2Proof.Machine

/-! ### Time passing (log 2) -/

/-- One nanosecond of module time passes while power-good holds (R392). -/
def State.tick (s : State) : State := if s.pwr.good then s.modPwr fun w => { w with time := w.time + 1 } else s

/-! ### Event log (R393) -/

/-- A record written to the log, which keeps the last 16,384. -/
def State.event (s : State) (cls pt p : Nat) (detail : Bytes) : State :=
  let r : LogRec := { seq := s.log.next, time := s.now, cls := cls, part := pt, p := p, detail := detail }
  let recs := s.log.recs ++ [r]
  { s with log := { s.log with next := s.log.next + 1, recs := recs.drop (recs.length - 16384) } }

/-- No partition (R393 byte 20). -/
def noPart : Nat := 0xFF

/-! ### The Doubler (R349 to R352) -/

/-- Contexts with a group latch a pending request (R352); a SECURE_REQUEST record names RISK and the cause. -/
def State.secureRequest (s : State) (cause : Nat) : State :=
  let s := s.event evSecureRequest (partCode 0 0) noPart [BitVec.ofNat 8 s.doubler.risk, BitVec.ofNat 8 cause]
  { s with ctxs := s.ctxs.map fun kv =>
      (kv.1, if kv.2.secure.hasGroup then { kv.2 with secure := { kv.2.secure with latch := true } } else kv.2) }

/-- One qualifying event: RISK doubles, the quiet interval restarts, and a RISK at or above SECURE_THRESHOLD raises
SECURE_REQUEST (R351, R352). -/
def State.qualify (s : State) : State :=
  let s := { s with doubler := { s.doubler with risk := min 64 (2 * s.doubler.risk), events := satAdd 32 s.doubler.events 1,
                                                 quietAt := s.now } }
  if s.cfg 0x5000 2 ≤ s.doubler.risk then s.secureRequest 0 else s

/-! ### Interrupts (R57, R63) -/

/-- A vector due on an interface: raised; held while MSI-X is disabled; not raised while the interface is not
ready. -/
def State.raiseVec (s : State) (h v : Nat) : State :=
  s.modHif h fun i =>
    if !i.ready then i
    else if i.msixOn then { i with raised := i.raised ++ [v] }
    else if i.heldInts.contains v then i
    else { i with heldInts := i.heldInts ++ [v] }

/-- A vector due for a queue of a partition: not raised while the path to the interface is cut (R57, R446). -/
def State.raiseFor (s : State) (p h v : Nat) : State := if s.hostOk p h then s.raiseVec h v else s

/-! ### Queue configuration (R29, R31) -/

/-- The stored configuration record of a queue. -/
def State.queueRec (s : State) (g q : Nat) : Nat := s.cfg (0x3200 + g) (q + 1)
/-- The record whose fields are in force (R31): the one kept when ENABLE was last written 0 or the context faulted, else
the stored one. -/
def State.forceRec (s : State) (g q : Nat) : Nat :=
  match (s.queue g q).inForce with
  | some b => leNat b
  | none => s.queueRec g q

def recRingBase (r : Nat) : Nat := bitsOf r 0 57
def recCplBase (r : Nat) : Nat := bitsOf r 64 57
def recLog2 (r : Nat) : Nat := bitsOf r 128 5
def recPrio (r : Nat) : Nat := bitsOf r 133 3
def recEnable (r : Nat) : Bool := r.testBit 136
def recVector (r : Nat) : Nat := bitsOf r 144 16
def recHostSel (r : Nat) : Nat := bitsOf r 160 1
def recHoldoff (r : Nat) : Nat := bitsOf r 176 16
def recWaitLimit (r : Nat) : Nat := bitsOf r 192 32

/-! ### The descriptor header (R39) -/

def dOpcode (d : Bytes) : Nat := fld d 0 1
def dFlags (d : Bytes) : Nat := fld d 1 1
def dComplete (d : Bytes) : Bool := (dFlags d).testBit 0
def dFenceBefore (d : Bytes) : Bool := (dFlags d).testBit 1
def dFenceAfter (d : Bytes) : Bool := (dFlags d).testBit 2
def dWaitCtr (d : Bytes) : Nat := bitsOf (fld d 2 2) 0 12
def dWaitOp (d : Bytes) : Nat := bitsOf (fld d 2 2) 12 4
def dWaitValue (d : Bytes) : Nat := fld d 4 4
def dSignalCtr (d : Bytes) : Nat := bitsOf (fld d 8 2) 0 12
def dSignalOp (d : Bytes) : Nat := bitsOf (fld d 8 2) 12 4
def dSignalInc (d : Bytes) : Nat := fld d 10 2
def dTag (d : Bytes) : BitVec 32 := BitVec.ofNat 32 (fld d 12 4)

/-- The address in bits [56:0] of the word at an offset. -/
def dAddr (d : Bytes) (off : Nat) : Nat := bitsOf (fld d off 8) 0 57

/-! ### Cores and pips (R416, R419) -/

/-- The core gives up its work tile: a granted one returns its pips, a waiting one leaves the ledger's list. -/
def State.freeCore (s : State) (c : Nat) : State :=
  match (s.core c).tile with
  | none => s
  | some t =>
    let s := s.modCore c fun k => { k with tile := none, accHeld := 0, accAt := 0 }
    s.modDie (dieOfCore c) fun d =>
      if t.startAt.isSome then { d with granted := d.granted - t.cost }
      else { d with waiting := d.waiting.filter (· != c) }

/-- The cores that hold a work tile of a context. -/
def State.coresWith (s : State) (p : TileRun → Bool) : List Nat :=
  (List.range 144).filter fun c => match (s.core c).tile with | some t => p t | none => false

/-- A dale reset: a stretch ends, and with the dale both halves of each of its cols are reset, so that OVERRUN of none of
them stays, here or in the dale across (R424, R429). -/
def State.resetDale (s : State) (n : Nat) : State :=
  s.modPwr fun w =>
    { w with dales := w.dales.map fun kv =>
        (kv.1, if kv.1 = n then { kv.2 with overruns := [], droopAt := none, droopRaised := false }
               else { kv.2 with overruns := kv.2.overruns.filter (· != n) }) }

/-! ### Finishing a descriptor (R46, R31, R59, R62) -/

/-- The finished sequence numbers of a queue, advanced over those already finished above FINISHED_SEQ. -/
def advance : Nat → Nat → List Nat → Nat
  | 0, f, _ => f
  | n + 1, f, set => if set.contains (f + 1) then advance n (f + 1) set else f

/-- A DRAINING queue with nothing started and no record due is DISABLED (R31). R31 names the finish of the last descriptor
and also lets records still be due while the queue reads DRAINING: the model waits for the last record (DESIGN CHOICE,
log 91). The record in force stays while an interrupt is still due. -/
def Queue.settle (u : Queue) : Queue :=
  if u.st == .draining && u.runs.isEmpty && !(u.held.any (·.due)) then
    { u with st := .disabled, inForce := if u.intDue then u.inForce else none }
  else u

/-- The queue after a descriptor has finished with a status at a partition time. -/
def Queue.finish (u : Queue) (r : Run) (status endNs : Nat) : Queue :=
  let due := dComplete r.raw || isJobFault status
  let set := u.finSet ++ [r.seq]
  let f := advance set.length u.finished set
  Queue.settle
    { u with
      runs := u.runs.filter (·.seq != r.seq)
      finished := f
      finSet := set.filter (f < ·)
      held := u.held ++ [{ seq := r.seq, tag := dTag r.raw, status := status, endNs := endNs, due := due,
                           kept := due && r.slotKept }]
      reserved := if r.slotKept && !due then u.reserved - 1 else u.reserved }

/-- A started descriptor finishes with a status; it applies no signal here. -/
def State.finish (s : State) (g q seq status : Nat) : State :=
  match s.run g q seq with
  | none => s
  | some r => s.modQueue g q fun u => u.finish r status (s.ctxTime g)

/-! ### Busy time (R64) -/

/-- Engine work that CTX_BUSY_NS charges (R64). -/
def chargedOps : List Nat := [0x01, 0x02, 0x30, 0x31, 0x40, 0x48]

def State.chargeBusy (s : State) (g ns : Nat) : State := s.modCtx g fun c => { c with busyNs := c.busyNs + ns }

/-- The engine interval of a run that ends at a partition time. R64 does not say where an interval begins and ends: the
model takes it from the satisfaction of the wait to the descriptor's finish, time in the engine's queue included (DESIGN
CHOICE, log 91). -/
def Run.engineNs (r : Run) (now : Nat) : Nat := if chargedOps.contains (dOpcode r.raw) && r.waitDone then now - r.waitAt else 0

/-- The engine intervals of every started descriptor of a context, ending now. -/
def State.enginesNs (s : State) (g : Nat) : Nat :=
  (s.ctx g).queues.foldl (fun n kv => kv.2.runs.foldl (fun n r => n + r.engineNs (s.ctxTime g)) n) 0

/-! ### The job fault (R56) -/

/-- Every started descriptor with no work tile on a core stops at once and finishes ABORTED. -/
def abortIdle (endNs : Nat) (u : Queue) : Queue :=
  (u.runs.filter fun r => r.aborting && r.onCores == 0).foldl (fun u r => u.finish r stAborted endNs) u

/-- A queue of a faulted context: STOPPED, with the record in force kept, nothing more to start, and its started
descriptors stopping at their next work-tile boundary; one that still waits has not started (log 77). -/
def Queue.stop (rec : Bytes) (endNs : Nat) (u : Queue) : Queue :=
  abortIdle endNs
    { u with
      st := .stopped
      inForce := if u.st == .running then some rec else u.inForce
      taken := []
      runs := (u.runs.filter (·.waitDone)).map fun r => { r with aborting := true } }

/-- A work tile back at the head of its descriptor's dispatch, or of its replay's. -/
def State.returnTile (s : State) (t : TileRun) : State :=
  let s := s.modRun t.g t.q t.seq fun r =>
    { r with onCores := r.onCores - 1, back := if t.replay.isNone then t.idx :: r.back else r.back }
  match t.replay with
  | some no =>
    s.modCtx t.g fun c =>
      { c with stash := { c.stash with specs := modWhere (fun x => x.no == no) (fun x => { x with back := t.idx :: x.back }) c.stash.specs } }
  | none => s

/-- Work tiles of a context that still wait for their pips leave their cores unstarted. -/
def State.dropWaiting (s : State) (g : Nat) : State :=
  (s.coresWith fun t => t.g == g && t.startAt.isNone).foldl
    (fun s c => match (s.core c).tile with | some t => (s.freeCore c).returnTile t | none => s) s

/-- The eight queues of a context stopped. -/
def State.stopQueues (s : State) (g : Nat) : State :=
  (List.range 8).foldl (fun s q =>
    s.modQueue g q (Queue.stop (s.cfgBytes (0x3200 + g) (q + 1)) (s.ctxTime g))) s

/-- The DATA_CORRUPT record of a data tile, by its virtual address (R345, R344). -/
def State.corruptEvent (s : State) (g tile : Nat) : State :=
  let p := partOfCtx g
  let dpa := s.dpaOf g tile
  s.event evDataCorrupt (partCode 3 (s.placeOf p dpa).2) p (leBytes 2 g ++ leBytes 6 dpa)

/-- The context part of a job fault, without the faulting descriptor's own record. Engine work ends here and is charged. -/
def State.faultCtx (s : State) (g q seq status tile : Nat) : State :=
  let s := s.chargeBusy g (s.enginesNs g)
  let s := if status = stDataCorrupt then s.corruptEvent g tile else s
  let s := s.modCtx g fun c =>
    { c with
      st := .faulted
      faultStatus := status
      faultAt := q * 2 ^ 61 + seq
      faultTile := if status = stDataCorrupt then tile else c.faultTile
      kv := { c.kv with waiting := none, order := [] }
      colls := []
      secure := { c.secure with op := none, phase := if c.secure.build.isSome then 2 else 0 } }
  (s.dropWaiting g).stopQueues g

/-- A job fault: the faulting descriptor finishes with the fault's status, its context becomes FAULTED and every
queue of it reads STOPPED (R56). Without effect once the context is no longer ACTIVE. -/
def State.jobFault (s : State) (g q seq status tile : Nat) : State :=
  if (s.ctx g).st != .active then s
  else
    let ns := match s.run g q seq with | some r => r.engineNs (s.ctxTime g) | none => 0
    ((s.chargeBusy g ns).finish g q seq status).faultCtx g q seq status tile

/-- A descriptor's end: finished, or a job fault, by its status. -/
def State.conclude (s : State) (g q seq status tile : Nat) : State :=
  if isJobFault status then s.jobFault g q seq status tile else s.finish g q seq status

/-! ### Sync counters (R44) -/

/-- Whether a wait operation is satisfied. -/
def waitMet (op : Nat) (c : BitVec 32) (v : Nat) : Bool :=
  let w : BitVec 32 := BitVec.ofNat 32 v
  match op with
  | 1 => (c - w).toNat < 2 ^ 31
  | 2 => c == w
  | 3 => c != w
  | 4 => (c &&& w) == w
  | _ => true

/-- A counter after a signal. -/
def signalled (op : Nat) (c : BitVec 32) (i : Nat) : BitVec 32 :=
  let w : BitVec 32 := BitVec.ofNat 32 i
  match op with
  | 1 => c + w
  | 2 => w
  | 3 => c ||| w
  | _ => c

/-- A signal applied to a counter of a context. -/
def State.signal (s : State) (g op n i : Nat) : State :=
  if op = 0 then s else s.setCounter g n (signalled op (s.counter g n) i)

/-! ### Unfinished work (R375) -/

/-- Whether a context holds unfinished work: a descriptor taken, started or made ready. -/
def Ctx.hasWork (c : Ctx) : Bool :=
  c.queues.any fun kv => !kv.2.runs.isEmpty || (kv.2.st == .running && kv.2.startedSeq < kv.2.tail)

/-- Whether some context of a partition holds unfinished work. -/
def State.partHasWork (s : State) (p : Nat) : Bool := (ctxsOfPart p).any fun g => (s.ctx g).hasWork

/-- A die hub's prefetcher forgets a context. -/
def Die.forget (g : Nat) (d : Die) : Die :=
  { d with demand := d.demand.filter fun x => x.1 != g, streams := d.streams.filter fun x => x.g != g }

/-- A context forgets every cached translation and prefetch stream (R329). -/
def State.dropXlat (s : State) (g : Nat) : State :=
  let s := s.modCtx g fun c => { c with tlb := [] }
  { s with dies := s.dies.map fun kv => (kv.1, kv.2.forget g) }

end Sys2Proof.Machine
end

