-- ==== Sys2Proof/Machine/Cache.lean ====
section
/-! DEFINITION. Sys2Proof/Machine/Cache.lean: what reading and writing leave behind in the hubs: lines of the die caches (R18,
R259), cached translations (R329), and the demand reads that a hub's prefetcher watches (R260). None of it holds data. -/
namespace Sys2Proof.Machine

/-- Sets of a die cache, and the lines of each (R259). -/
def cacheSets : Nat := 49152
def cacheWays : Nat := 16

/-- The set of a line: R259 gives no rule, and the model takes the line's number modulo the sets (DESIGN CHOICE, log 7). -/
def cacheSet (line : Nat) : Nat := line % cacheSets

/-- A line enters a cache; where its set is full, the one of the set that came first leaves it (DESIGN CHOICE, log 7). -/
def Die.fill (d : Die) (line : Nat) : Die :=
  if d.lines.contains line then d
  else
    let mine := d.lines.filter fun l => cacheSet l == cacheSet line
    { d with lines := (if mine.length < cacheWays then d.lines else d.lines.erase (mine.headD line)) ++ [line] }

/-- A line that fills the cache of its home die. -/
def State.fillLine (s : State) (p dpa : Nat) : State :=
  s.modDie (s.placeOf p dpa).1 fun d => d.fill (hbmKey p dpa / 128)

/-- The virtual addresses of the lines of a range. -/
def linesOf (va n : Nat) : List Nat :=
  if n = 0 then [] else (List.range ((va + n - 1) / 128 - va / 128 + 1)).map fun i => 128 * (va / 128 + i)

/-- The line of a virtual address read through its home hub, where it lies in HBM. -/
def State.readLine (s : State) (g va : Nat) : State :=
  let line := match s.xlate g va with
    | some x => if x.host then none else some x.addr
    | none => none
  { s with dies := match line with
      | some a => (s.fillLine (partOfCtx g) a).dies
      | none => s.dies }

/-- A translation as the context keeps it: by its 64 KiB granule, in the layout of a page entry (R328). -/
def packXlat (va : Nat) (x : Xlat) : Nat × BitVec 64 := (va / 65536, BitVec.ofNat 64 (x.attr * 2 ^ 56 + (x.addr - va % 65536)))

/-- The translation of an address cached, where it has one. -/
def State.keepXlat (s : State) (g va : Nat) : State :=
  s.modCtx g fun c =>
    { c with tlb := match s.xlate g va with
        | some x => if c.tlb.any (·.1 == va / 65536) then c.tlb else packXlat va x :: c.tlb
        | none => c.tlb }

/-- Cached translations may be dropped at any time (R329): which are dropped is a free value (log 92). -/
def State.forgetXlat (s : State) (g : Nat) : State :=
  let v := s.draw
  v.2.modCtx g fun c => { c with tlb := c.tlb.filter fun e => v.1.getLsbD (e.1 % 512) }

/-- Ranges read for a work tile through a die's hub: seen by its prefetcher, and in the home die caches from here on.
How much of the past the prefetcher sees is open: the last 64 ranges (DESIGN CHOICE, log 7). -/
def State.demandReads (s : State) (d g : Nat) (reads : List (Nat × Nat)) : State :=
  let s := reads.foldl (fun s r => (linesOf r.1 r.2).foldl (fun s a => s.readLine g a) s) s
  s.modDie d fun x => { x with demand := (reads.map (fun r => (g, r.1, r.2)) ++ x.demand).take 64 }

/-- The granules of a range translated. -/
def State.keepRange (s : State) (g : Nat) (r : Nat × Nat) : State := (segsOf r.1 r.2).foldl (fun s x => s.keepXlat g x.1) s

/-- What a work tile's accesses leave behind. -/
def State.accessed (s : State) (d g : Nat) (reads writes : List (Nat × Nat)) : State :=
  (reads ++ writes).foldl (fun s r => s.keepRange g r) ((s.demandReads d g reads).forgetXlat g)

/-- The die whose engines serve a context: R274 names none, and the model takes the partition's lowest (DESIGN CHOICE,
log 7). -/
def State.engineDie (s : State) (g : Nat) : Nat := partOfCtx g * s.dieCount

/-- The range of a write. -/
def writeRange (w : Nat × Bytes) : Nat × Nat := (w.1, w.2.length)

end Sys2Proof.Machine
end

