-- ==== Sys2Proof/Machine/Num.lean ====
section
/-! DEFINITION. Sys2Proof/Machine/Num.lean: the number formats of R66 to R85 and R444, exact values, one rounding,
the vector engine's FP32 arithmetic (R90, R91, R93) and the cube combination (R86 to R89). -/
namespace Sys2Proof.Machine

/-- An exact value: NaN, an infinity, or (-1)^neg * m * 2^e. -/
inductive FVal where
  | nan
  | inf (neg : Bool)
  | fin (neg : Bool) (m : Nat) (e : Int)
  deriving DecidableEq, Repr

/-- The format codes of R66. -/
inductive Fmt where
  | fp32 | bf16 | f8e4 | f8e5 | f6e3 | f6e2 | f4 | int8 | w1 | w2 | int32 | pair
  deriving DecidableEq, Repr

/-- The format a 4-bit code names; the codes 0xC to 0xF are reserved (R66). -/
def fmtOf : Nat → Option Fmt
  | 0 => some .fp32
  | 1 => some .bf16
  | 2 => some .f8e4
  | 3 => some .f8e5
  | 4 => some .f6e3
  | 5 => some .f6e2
  | 6 => some .f4
  | 7 => some .int8
  | 8 => some .w1
  | 9 => some .w2
  | 10 => some .int32
  | 11 => some .pair
  | _ => none

/-- The width in bits of a format (R66). -/
def fmtBits : Fmt → Nat
  | .fp32 => 32
  | .bf16 => 16
  | .f8e4 => 8
  | .f8e5 => 8
  | .f6e3 => 6
  | .f6e2 => 6
  | .f4 => 4
  | .int8 => 8
  | .w1 => 1
  | .w2 => 2
  | .int32 => 32
  | .pair => 64

/-- The shape of a binary floating format: mantissa width, exponent bias, exponent-field width, and its
largest finite magnitude as maxM * 2^maxE (R67 to R72, R83). -/
structure Shape where
  w : Nat
  bias : Nat
  ew : Nat
  maxM : Nat
  maxE : Int
  deriving DecidableEq, Repr

/-- The shapes of the floating formats (R67 to R72). -/
def shapeOf : Fmt → Shape
  | .bf16 => { w := 7, bias := 127, ew := 8, maxM := 255, maxE := 120 }
  | .f8e4 => { w := 3, bias := 7, ew := 4, maxM := 14, maxE := 5 }
  | .f8e5 => { w := 2, bias := 15, ew := 5, maxM := 7, maxE := 13 }
  | .f6e3 => { w := 2, bias := 3, ew := 3, maxM := 7, maxE := 2 }
  | .f6e2 => { w := 3, bias := 1, ew := 2, maxM := 15, maxE := -1 }
  | .f4 => { w := 1, bias := 1, ew := 2, maxM := 3, maxE := 1 }
  | _ => { w := 23, bias := 127, ew := 8, maxM := 16777215, maxE := 104 }

/-- The value of a floating code by R67, special codes apart. -/
def plainVal (sh : Shape) (code : Nat) : FVal :=
  let neg := code.testBit (sh.ew + sh.w)
  let ex := (code >>> sh.w) % 2 ^ sh.ew
  let m := code % 2 ^ sh.w
  if ex = 0 then .fin neg m (1 - (sh.bias : Int) - sh.w)
  else .fin neg (2 ^ sh.w + m) ((ex : Int) - sh.bias - sh.w)

/-- The exact value of an element code (R68 to R74); W1 and W2 codes give their integer (R74). -/
def decode (f : Fmt) (code : Nat) : FVal :=
  match f with
  | .fp32 | .bf16 | .f8e5 =>
    let sh := shapeOf f
    if (code >>> sh.w) % 2 ^ sh.ew = 2 ^ sh.ew - 1 then
      if code % 2 ^ sh.w = 0 then .inf (code.testBit (sh.ew + sh.w)) else .nan
    else plainVal sh code
  | .f8e4 => if code % 128 = 127 then .nan else plainVal (shapeOf f) code
  | .f4 => if code % 16 = 8 then .nan else plainVal (shapeOf f) code
  | .f6e3 | .f6e2 => plainVal (shapeOf f) code
  | .int8 => let v := signedOf code 8; .fin (v < 0) v.natAbs 0
  | .int32 => let v := signedOf code 32; .fin (v < 0) v.natAbs 0
  | .w1 => .fin (code % 2 = 1) 1 0
  | .w2 => let v := signedOf code 2; .fin (v < 0) v.natAbs 0
  | .pair => .nan

/-- The rounding modes of R79; SR carries its 24-bit draw u (R81, R82). -/
inductive Round where
  | rne
  | rtz
  | sr (u : Nat)
  deriving DecidableEq, Repr

/-- m1 * 2^e1 > m2 * 2^e2. -/
def magGt (m1 : Nat) (e1 : Int) (m2 : Nat) (e2 : Int) : Bool :=
  if e1 ≥ e2 then m1 <<< (e1 - e2).toNat > m2 else m1 > m2 <<< (e2 - e1).toNat

/-- m1 * 2^e1 ≥ m2 * 2^e2. -/
def magGe (m1 : Nat) (e1 : Int) (m2 : Nat) (e2 : Int) : Bool := !magGt m2 e2 m1 e1

/-- The multiple of 2^q that the exact magnitude m * 2^e rounds to, in units of 2^q (R80, R81). -/
def roundUnits (r : Round) (m : Nat) (e q : Int) : Nat :=
  if e ≥ q then m <<< (e - q).toNat
  else
    let d := (q - e).toNat
    let k := m >>> d
    let rem := m % 2 ^ d
    match r with
    | .rtz => k
    | .rne =>
      let half := 2 ^ (d - 1)
      if rem > half then k + 1
      else if rem = half then (if k % 2 = 1 then k + 1 else k)
      else k
    | .sr u => if u < (2 ^ 24 * rem) >>> d then k + 1 else k

/-- A finite magnitude rounded to a floating shape, as (units, exponent of a unit). -/
def roundMag (sh : Shape) (r : Round) (m : Nat) (e : Int) : Nat × Int :=
  let lead : Int := (m.log2 : Int) + e
  let emin : Int := 1 - (sh.bias : Int)
  let q := max lead emin - sh.w
  (roundUnits r m e q, q)

/-- The code of k * 2^q, with q the unit that roundMag chose. -/
def packMag (sh : Shape) (neg : Bool) (k : Nat) (q : Int) : Nat :=
  let s := if neg then 2 ^ (sh.ew + sh.w) else 0
  if k < 2 ^ sh.w then s + k
  else if k < 2 ^ (sh.w + 1) then s + (q + sh.w + sh.bias).toNat * 2 ^ sh.w + (k - 2 ^ sh.w)
  else s + (q + 1 + sh.w + sh.bias).toNat * 2 ^ sh.w

/-- The canonical NaN of a format (R73); F6 formats carry none and take code 0. -/
def canonNan : Fmt → Nat
  | .fp32 => 0x7FC00000
  | .bf16 => 0x7FC0
  | .f8e5 => 0x7E
  | .f8e4 => 0x7F
  | .f4 => 0x8
  | _ => 0

/-- The code of the largest finite magnitude with a sign. -/
def maxCode (f : Fmt) (neg : Bool) : Nat :=
  let sh := shapeOf f
  packMag sh neg sh.maxM sh.maxE

/-- Infinity in FP32, BF16 and F8-E5; the largest finite magnitude in the others (R84). -/
def infCode (f : Fmt) (neg : Bool) : Nat :=
  match f with
  | .fp32 | .bf16 | .f8e5 =>
    let sh := shapeOf f
    (if neg then 2 ^ (sh.ew + sh.w) else 0) + (2 ^ sh.ew - 1) * 2 ^ sh.w
  | _ => maxCode f neg

/-- Conversion to a floating format under R80 to R84; an F4 zero is 0x0. -/
def encodeFloat (f : Fmt) (r : Round) : FVal → Nat
  | .nan => canonNan f
  | .inf neg => infCode f neg
  | .fin neg m e =>
    let sh := shapeOf f
    let signed := if neg && f != .f4 then 2 ^ (sh.ew + sh.w) else 0
    if m = 0 then signed
    else if magGt m e sh.maxM sh.maxE then
      match f, r with
      | .fp32, .rne | .bf16, .rne =>
        if magGe m e (2 * sh.maxM + 1) (sh.maxE - 1) then infCode f neg else maxCode f neg
      | _, _ => maxCode f neg
    else
      let kq := roundMag sh r m e
      if kq.1 = 0 then signed else packMag sh neg kq.1 kq.2

/-- Conversion to an integer of w bits: rounded with b - a = 1, then saturated (R84, R85). -/
def encodeInt (w : Nat) (r : Round) : FVal → Int
  | .nan => 0
  | .inf neg => if neg then -(2 ^ (w - 1) : Nat) else (2 ^ (w - 1) : Nat) - 1
  | .fin neg m e =>
    let k := roundUnits r m e 0
    if neg then -(min k (2 ^ (w - 1)) : Nat) else (min k (2 ^ (w - 1) - 1) : Nat)

/-- Conversion of an exact value to an element code (R79 to R85). -/
def encode (f : Fmt) (r : Round) (v : FVal) : Nat :=
  match f with
  | .int8 => unsignedOf (encodeInt 8 r v) 8
  | .int32 => unsignedOf (encodeInt 32 r v) 32
  | .w1 | .w2 | .pair => 0
  | _ => encodeFloat f r v

/-- v * 2^s, exactly (R450). -/
def scale2 (v : FVal) (s : Int) : FVal :=
  match v with
  | .fin n m e => .fin n m (e + s)
  | w => w

/-- The sign-and-magnitude integer of a finite value in units of 2^q, truncated toward zero. -/
def truncUnits (neg : Bool) (m : Nat) (e q : Int) : Int :=
  let k : Nat := if e ≥ q then m <<< (e - q).toNat else m >>> (q - e).toNat
  if neg then -(k : Int) else k

/-- The exact sum of two values; an exact zero takes the sign rule of R93. -/
def exactAdd : FVal → FVal → FVal
  | .nan, _ => .nan
  | _, .nan => .nan
  | .inf a, .inf b => if a = b then .inf a else .nan
  | .inf a, _ => .inf a
  | _, .inf b => .inf b
  | .fin na ma ea, .fin nb mb eb =>
    let q := min ea eb
    let s := truncUnits na ma ea q + truncUnits nb mb eb q
    if s = 0 then .fin (na && nb) 0 0 else .fin (s < 0) s.natAbs q

/-- The exact product; zero times infinity is NaN. -/
def exactMul : FVal → FVal → FVal
  | .nan, _ => .nan
  | _, .nan => .nan
  | .inf a, .inf b => .inf (a != b)
  | .inf a, .fin b m _ => if m = 0 then .nan else .inf (a != b)
  | .fin a m _, .inf b => if m = 0 then .nan else .inf (a != b)
  | .fin na ma ea, .fin nb mb eb => .fin (na != nb) (ma * mb) (ea + eb)

def exactNeg : FVal → FVal
  | .nan => .nan
  | .inf a => .inf (!a)
  | .fin a m e => .fin (!a) m e

def exactAbs : FVal → FVal
  | .nan => .nan
  | .inf _ => .inf false
  | .fin _ m e => .fin false m e

/-- The quotient to more than 60 bits with a sticky low bit, enough for one RNE rounding. -/
def stickyDiv : FVal → FVal → FVal
  | .nan, _ => .nan
  | _, .nan => .nan
  | .inf _, .inf _ => .nan
  | .inf a, .fin b _ _ => .inf (a != b)
  | .fin a _ _, .inf b => .fin (a != b) 0 0
  | .fin na ma ea, .fin nb mb eb =>
    if mb = 0 then (if ma = 0 then .nan else .inf (na != nb))
    else if ma = 0 then .fin (na != nb) 0 0
    else
      let k := 80 + mb.log2
      let q := (ma <<< k) / mb
      let st := if (ma <<< k) % mb = 0 then 0 else 1
      .fin (na != nb) (2 * q + st) (ea - eb - k - 1)

/-- a < b as IEEE compares, NaN unordered. -/
def valLt : FVal → FVal → Bool
  | .nan, _ => false
  | _, .nan => false
  | .inf a, .inf b => a && !b
  | .inf a, .fin _ _ _ => a
  | .fin _ _ _, .inf b => !b
  | .fin na ma ea, .fin nb mb eb =>
    let q := min ea eb
    truncUnits na ma ea q < truncUnits nb mb eb q

def isNan : FVal → Bool
  | .nan => true
  | _ => false

def isFinite : FVal → Bool
  | .fin _ _ _ => true
  | _ => false

def isZero : FVal → Bool
  | .fin _ m _ => m = 0
  | _ => false

def isNeg : FVal → Bool
  | .fin n _ _ => n
  | .inf n => n
  | .nan => false

/-! ### FP32 registers (R90) -/

abbrev F32 := BitVec 32

def f32Val (x : F32) : FVal := decode .fp32 x.toNat
def f32Of (v : FVal) : F32 := BitVec.ofNat 32 (encodeFloat .fp32 .rne v)
def fAdd (a b : F32) : F32 := f32Of (exactAdd (f32Val a) (f32Val b))
def fSub (a b : F32) : F32 := f32Of (exactAdd (f32Val a) (exactNeg (f32Val b)))
def fMul (a b : F32) : F32 := f32Of (exactMul (f32Val a) (f32Val b))
def fFma (a b c : F32) : F32 := f32Of (exactAdd (exactMul (f32Val a) (f32Val b)) (f32Val c))
def fDiv (a b : F32) : F32 := f32Of (stickyDiv (f32Val a) (f32Val b))
def fLt (a b : F32) : Bool := valLt (f32Val a) (f32Val b)
def fNat (n : Nat) : F32 := f32Of (.fin false n 0)
def fNan : F32 := 0x7FC00000
def fZero : F32 := 0
def fOne : F32 := 0x3F800000
def fHalf : F32 := 0x3F000000
def fNegInf : F32 := 0xFF800000
def fIsNan (a : F32) : Bool := isNan (f32Val a)
def fIsFinite (a : F32) : Bool := isFinite (f32Val a)

/-- Maximum of R91: NaN is ignored and +0 is greater than -0. -/
def fMax (a b : F32) : F32 :=
  if fIsNan a then (if fIsNan b then fNan else b)
  else if fIsNan b then a
  else if fLt a b then b
  else if fLt b a then a
  else if isNeg (f32Val a) then b else a

/-- Minimum of R91. -/
def fMin (a b : F32) : F32 :=
  if fIsNan a then (if fIsNan b then fNan else b)
  else if fIsNan b then a
  else if fLt a b then a
  else if fLt b a then b
  else if isNeg (f32Val a) then a else b

/-- The pairwise tree of R129 and R125 over (2i, 2i + 1), level after level; an odd last operand passes
through as beside an empty operand. -/
def treeLevel {α : Type} (op : α → α → α) : List α → List α
  | a :: b :: rest => op a b :: treeLevel op rest
  | rest => rest

/-- Levels of the tree until one value is left; `fuel` levels suffice for 2^fuel operands. -/
def treeFold {α : Type} (op : α → α → α) : Nat → List α → Option α
  | _, [] => none
  | _, [a] => some a
  | 0, a :: _ => some a
  | fuel + 1, l => treeFold op fuel (treeLevel op l)

/-- The tree sum of FP32 values; +0 for none. -/
def treeSum (l : List F32) : F32 := (treeFold fAdd 40 l).getD fZero

/-- The tree maximum of FP32 values; -infinity for none. -/
def treeMax (l : List F32) : F32 := (treeFold fMax 40 l).getD fNegInf

/-! ### The cube combination (R86, R87) -/

/-- The exponent of the leading bit of the largest magnitude among finite nonzero values. -/
def leadMax : List FVal → Option Int
  | [] => none
  | .fin _ m e :: rest =>
    if m = 0 then leadMax rest
    else
      let l : Int := (m.log2 : Int) + e
      match leadMax rest with
      | none => some l
      | some k => some (max l k)
  | _ :: rest => leadMax rest

/-- The sum of the terms, each truncated toward zero to a multiple of 2^q. -/
def windowSum (q : Int) : List FVal → Int
  | [] => 0
  | .fin n m e :: rest => truncUnits n m e q + windowSum q rest
  | _ :: rest => windowSum q rest

/-- The sign a term with an infinity gives, or NaN for infinities of both signs. -/
def infOf : List FVal → Option FVal
  | [] => none
  | .inf a :: rest =>
    match infOf rest with
    | none => some (.inf a)
    | some (.inf b) => if a = b then some (.inf a) else some .nan
    | some v => some v
  | _ :: rest => infOf rest

/-- One cube combination: the products of a k-slice and the incoming FP32 partial (R86, R87). -/
def cubeCombine (terms : List FVal) (p : F32) : F32 :=
  let all := terms ++ [f32Val p]
  if all.any isNan then fNan
  else
    match infOf all with
    | some v => f32Of v
    | none =>
      match leadMax all with
      | none => fZero
      | some lead =>
        let q := lead - 47
        let s := windowSum q all
        let r := f32Of (.fin (s < 0) s.natAbs q)
        if (r.toNat % 2 ^ 31) < 2 ^ 23 then fZero else r

/-- The INT8 combination: exact sum with the partial, saturated once (R88). -/
def satInt32 (v : Int) : Int := max (-2147483648) (min v 2147483647)

/-! ### Accumulators (R118, R122) -/

inductive Acc where
  | f32 (v : F32)
  | bf16 (v : BitVec 16)
  | pair (hi lo : F32)
  | int (v : Int)
  deriving DecidableEq, Repr

/-- The compensated addition of R122. -/
def pairAdd (hi lo p : F32) : Acc :=
  let s := fAdd hi p
  let bb := fSub s hi
  let t := fAdd (fSub hi (fSub s bb)) (fSub p bb)
  let l := fAdd lo t
  let h2 := fAdd s l
  let b2 := fSub h2 s
  let lo' := fAdd (fSub s (fSub h2 b2)) (fSub l b2)
  if !fIsFinite s then .pair s fZero
  else if !fIsFinite h2 then .pair h2 fZero
  else .pair h2 lo'

/-- acc_add of R118 for a floating accumulator. -/
def accAdd (a : Acc) (p : F32) : Acc :=
  match a with
  | .f32 v => .f32 (fAdd v p)
  | .bf16 v => .bf16 (BitVec.ofNat 16 (encodeFloat .bf16 .rne (exactAdd (decode .bf16 v.toNat) (f32Val p))))
  | .pair hi lo => pairAdd hi lo p
  | .int v => .int v

/-- The exact value an accumulator element stands for at its drain (R123). -/
def accVal : Acc → FVal
  | .f32 v => f32Val v
  | .bf16 v => decode .bf16 v.toNat
  | .pair hi lo => exactAdd (f32Val hi) (f32Val lo)
  | .int v => .fin (v < 0) v.natAbs 0

/-- An accumulator element holding a value rounded RNE to ACC_FMT (R121). -/
def accInit (f : Fmt) (v : FVal) : Acc :=
  match f with
  | .bf16 => .bf16 (BitVec.ofNat 16 (encodeFloat .bf16 .rne v))
  | .pair => .pair (f32Of v) fZero
  | .int32 => .int (encodeInt 32 .rne v)
  | _ => .f32 (f32Of v)

/-! ### Block scales (R75, R444) -/

/-- The largest finite magnitude of a list, as (m, e); none when every element is zero or not finite. -/
def maxMag : List FVal → Option (Nat × Int)
  | [] => none
  | .fin _ m e :: rest =>
    match maxMag rest with
    | none => if m = 0 then none else some (m, e)
    | some (k, g) => if magGt m e k g then some (m, e) else some (k, g)
  | _ :: rest => maxMag rest

/-- The smallest t with m * 2^e ≤ MAXF * 2^t, for MAXF = maxM * 2^maxE. -/
def fitExp (sh : Shape) (m : Nat) (e : Int) : Int :=
  let t0 : Int := (m.log2 : Int) + e - ((sh.maxM.log2 : Int) + sh.maxE)
  if magGe sh.maxM (sh.maxE + (t0 - 1)) m e then t0 - 1
  else if magGe sh.maxM (sh.maxE + t0) m e then t0
  else t0 + 1

/-- The E8 scale of a block (R444 steps 1 and 2). -/
def blockScale (f : Fmt) (xs : List FVal) : Nat :=
  if xs.any isNan then 0xFF
  else
    match maxMag xs with
    | none => 0x7F
    | some (m, e) => (max (fitExp (shapeOf f) m e + 127) 0).toNat

/-- The codes of a block under a scale; a poisoned block holds zeros (R75, R444 step 3). -/
def blockCodes (f : Fmt) (rs : List Round) (scale : Nat) (xs : List FVal) : List Nat :=
  if scale = 0xFF then xs.map fun _ => 0
  else List.zipWith (fun r x => encode f r (scale2 x (127 - (scale : Int)))) rs xs

/-- An element of a block: poisoned blocks read as NaN (R75). -/
def blockVal (f : Fmt) (scale code : Nat) : FVal :=
  if scale = 0xFF then .nan else scale2 (decode f code) ((scale : Int) - 127)

end Sys2Proof.Machine
end

