-- ==== Sys2Proof/Machine/Sfu.lean ====
section
/-! DEFINITION. Sys2Proof/Machine/Sfu.lean: the special-function units (R92) and the normal draw (R161): the exact
value to more than 200 places in fixed point with 256 fraction bits, then one rounding. The fixed-point sums are cut
after the last place; no FP32 input of these functions has been shown to need more places (log 24). -/
namespace Sys2Proof.Machine

/-- One, in fixed point with 256 fraction bits. -/
def fxOne : Int := 2 ^ 256
/-- ln 2. -/
def fxLn2 : Int := 80260960185991308862233904206310070533990667611589946606122867505419956976171
/-- pi. -/
def fxPi : Int := 363771576891766324280234942777729862653393377328392429958772151117938894466185
/-- 2 / sqrt pi. -/
def fxErfC : Int := 130657381209852114387528029350014196574164286124850014242073919076264802271585

/-- Product, quotient of fixed-point numbers, rounded down. -/
def fxMul (a b : Int) : Int := (a * b) / fxOne
def fxDiv (a b : Int) : Int := (a * fxOne) / b

/-- The integer square root, bit by bit from bit `fuel` - 1 down. -/
def isqrtBits (n : Nat) : Nat → Nat → Nat
  | 0, r => r
  | fuel + 1, r =>
    let t := r + 2 ^ fuel
    isqrtBits n fuel (if t * t ≤ n then t else r)

def isqrt (n : Nat) : Nat := isqrtBits n (n.log2 / 2 + 1) 0

def fxSqrt (a : Int) : Int := isqrt (a.toNat * 2 ^ 256)

/-- The sum t + t x / k + t x^2 / (k (k + 1)) + ...: the Taylor series of exp from term t on. -/
def expSeries (x : Int) : Nat → Nat → Int → Int
  | 0, _, _ => 0
  | fuel + 1, k, t => t + expSeries x fuel (k + 1) (fxMul t x / k)

/-- e^r for 0 ≤ r < 1. -/
def fxExpFrac (r : Int) : Int := expSeries r 80 1 fxOne

/-- e^y as (v, n): v * 2^n with v in [1, 2) in fixed point. -/
def fxExp (y : Int) : Int × Int :=
  let n := fxDiv y fxLn2 / fxOne
  (fxExpFrac (y - n * fxLn2), n)

/-- 2^n for an integer n times a fixed-point number, rounded down. -/
def fxShift (v n : Int) : Int := if n ≥ 0 then v * 2 ^ n.toNat else v / (2 ^ (-n).toNat : Nat)

/-- The odd series z + z^3 / 3 + z^5 / 5 + ... from the power p of z^k on. -/
def atanhSeries (z2 : Int) : Nat → Nat → Int → Int
  | 0, _, _ => 0
  | fuel + 1, k, p => p / k + atanhSeries z2 fuel (k + 2) (fxMul p z2)

/-- ln m for 1 ≤ m < 2. -/
def fxLn (m : Int) : Int :=
  let z := fxDiv (m - fxOne) (m + fxOne)
  2 * atanhSeries (fxMul z z) 90 1 z

/-- The sum of 2^k x^(2k) / (1 3 5 ... (2k + 1)) from term t on, by x2 = 2 x^2. -/
def erfSeries (x2 : Int) : Nat → Nat → Int → Int
  | 0, _, _ => 0
  | fuel + 1, k, t => t + erfSeries x2 fuel (k + 2) (fxMul t x2 / (k + 2))

/-- The cosine series from term t of index k on. -/
def cosSeries (x2 : Int) : Nat → Nat → Int → Int
  | 0, _, _ => 0
  | fuel + 1, k, t => t + cosSeries x2 fuel (k + 2) (-(fxMul t x2 / ((k + 1) * (k + 2))))

/-- A fixed-point value that is not exact, as a value with a sticky last place. -/
def fxVal (v : Int) : FVal := .fin (v < 0) (2 * v.natAbs + 1) (-257)

/-- A finite value in fixed point, rounded toward zero below 2^-256. -/
def toFx (neg : Bool) (m : Nat) (e : Int) : Int := truncUnits neg m e (-256)

/-- exp2 of R92. -/
def sfuExp2 (x : F32) : F32 :=
  match f32Val x with
  | .nan => fNan
  | .inf neg => if neg then fZero else 0x7F800000
  | .fin neg m e =>
    let v := toFx neg m e
    if m = 0 then fOne
    else if v ≥ 128 * fxOne then 0x7F800000
    else if v < -149 * fxOne then fZero
    else
      let n := v / fxOne
      let f := v - n * fxOne
      if f = 0 then f32Of (.fin false 1 n)
      else f32Of (scale2 (fxVal (fxExpFrac (fxMul f fxLn2))) n)

/-- log2 of R92. -/
def sfuLog2 (x : F32) : F32 :=
  match f32Val x with
  | .nan => fNan
  | .inf neg => if neg then fNan else 0x7F800000
  | .fin neg m e =>
    if m = 0 then fNegInf
    else if neg then fNan
    else
      let n : Int := (m.log2 : Int) + e
      if m = 2 ^ m.log2 then f32Of (.fin (n < 0) n.natAbs 0)
      else f32Of (fxVal (fxDiv (fxLn (toFx false m (-(m.log2 : Int)))) fxLn2 + n * fxOne))

/-- reciprocal of R92. -/
def sfuRecip (x : F32) : F32 := f32Of (stickyDiv (.fin false 1 0) (f32Val x))

/-- rsqrt of R92. -/
def sfuRsqrt (x : F32) : F32 :=
  match f32Val x with
  | .nan => fNan
  | .inf neg => if neg then fNan else fZero
  | .fin neg m e =>
    if m = 0 then (if neg then fNegInf else 0x7F800000)
    else if neg then fNan
    else
      let m1 := if e % 2 = 0 then m else 2 * m
      let e1 := if e % 2 = 0 then e else e - 1
      let q := isqrt (2 ^ 200 / m1)
      let st := if q * q * m1 = 2 ^ 200 then 0 else 1
      f32Of (.fin false (2 * q + st) (-101 - e1 / 2))

/-- tanh of R92. -/
def sfuTanh (x : F32) : F32 :=
  match f32Val x with
  | .nan => fNan
  | .inf neg => if neg then 0xBF800000 else fOne
  | .fin neg m e =>
    let a := toFx false m e
    if m = 0 then x
    else if a ≥ 16 * fxOne then (if neg then 0xBF800000 else fOne)
    else if a < fxOne / 2 ^ 20 then
      let z := fxMul a a
      let b := fxOne - z / 3 + 2 * fxMul z z / 15 - 17 * fxMul z (fxMul z z) / 315
      f32Of (.fin neg (m * b.toNat) (e - 256))
    else
      let vn := fxExp (2 * a)
      let t := fxShift vn.1 vn.2
      let r := fxVal (fxDiv (t - fxOne) (t + fxOne))
      f32Of (if neg then exactNeg r else r)

/-- erf of R92. -/
def sfuErf (x : F32) : F32 :=
  match f32Val x with
  | .nan => fNan
  | .inf neg => if neg then 0xBF800000 else fOne
  | .fin neg m e =>
    let a := toFx false m e
    if m = 0 then x
    else if a ≥ 4 * fxOne then (if neg then 0xBF800000 else fOne)
    else
      let z := fxMul a a
      let vn := fxExp (-z)
      let b := fxMul (fxMul fxErfC (erfSeries (2 * z) 200 1 fxOne)) (fxShift vn.1 vn.2)
      f32Of (.fin neg (m * (2 * b.toNat + 1)) (e - 257))

/-- sigmoid of R92. -/
def sfuSigmoid (x : F32) : F32 :=
  match f32Val x with
  | .nan => fNan
  | .inf neg => if neg then fZero else fOne
  | .fin neg m e =>
    let a := toFx false m e
    if m = 0 then fHalf
    else if a ≥ 104 * fxOne then (if neg then fZero else fOne)
    else
      let vn := fxExp (-a)
      let t := fxShift vn.1 vn.2
      f32Of (fxVal (fxDiv (if neg then t else fxOne) (fxOne + t)))

/-- cos (2 pi v / 2^24), 0 < v < 2^24 not a quarter: by the distance to the nearest half turn. -/
def fxCosTurn (v : Nat) : Int :=
  let w : Nat := v % 2 ^ 23
  let near : Nat := if w ≤ 2 ^ 22 then w else 2 ^ 23 - w
  let half : Nat := if w ≤ 2 ^ 22 then v / 2 ^ 23 else v / 2 ^ 23 + 1
  let ang := 2 * fxPi * (near : Int) / (2 ^ 24 : Nat)
  let c := cosSeries (fxMul ang ang) 60 0 fxOne
  if half % 2 = 1 then -c else c

/-- The normal draw of R161 from the 24-bit words u and v, before its rounding. -/
def normalVal (u v : Nat) : FVal :=
  let n := u + 1
  if n = 2 ^ 24 ∨ v = 2 ^ 22 ∨ v = 3 * 2 ^ 22 then .fin false 0 0
  else
    let k := n.log2
    let ln := fxLn (toFx false n (-(k : Int))) + ((k : Int) - 24) * fxLn2
    let r := fxSqrt (-2 * ln)
    fxVal (fxMul r (fxCosTurn v))

def normalDraw (u v : Nat) : F32 := f32Of (normalVal u v)

end Sys2Proof.Machine
end

