-- ==== Sys2Proof/Machine/Operands.lean ====
section
/-! DEFINITION. Sys2Proof/Machine/Operands.lean: stored tensors (R77, R106, R444), the Dice draws (R82, R160), the ranges
and checks the bodies share, and how a command of the data rows carries a started descriptor's work out. -/
namespace Sys2Proof.Machine

/-! ### Stored tensors (R106) -/

/-- A tensor in context memory: stored rows of elements, with the scale exponent of its body. -/
structure Arr where
  addr : Nat
  rows : Nat
  cols : Nat
  fmt : Fmt
  exp : Int := 0
  deriving DecidableEq, Repr

def isBlockFmt : Fmt → Bool
  | .f4 | .f6e3 | .f6e2 => true
  | _ => false

def isWFmt : Fmt → Bool
  | .w1 | .w2 => true
  | _ => false

def isF8 : Fmt → Bool
  | .f8e4 | .f8e5 => true
  | _ => false

/-- The bytes from one stored row to the next (R106). -/
def rowPitch (cols bits : Nat) : Nat := roundUp (ceilDiv (cols * bits) 8) 64

def Arr.pitch (a : Arr) : Nat := rowPitch a.cols (fmtBits a.fmt)

/-- The bytes of scales of one stored row (R75, R74). -/
def Arr.rowScales (a : Arr) : Nat :=
  if isBlockFmt a.fmt then ceilDiv a.cols 32 else if isWFmt a.fmt then 2 * ceilDiv a.cols 128 else 0

/-- The offset of the scale array: the next 4 KiB boundary after the element array (R106). -/
def Arr.scaleOff (a : Arr) : Nat := roundUp (a.addr + a.rows * a.pitch) 4096 - a.addr

/-- The range of a tensor in bytes, padding and scales included (R109). -/
def Arr.span (a : Arr) : Nat := if a.rowScales = 0 then a.rows * a.pitch else a.scaleOff + a.rows * a.rowScales

/-- The bytes of its element array. -/
def Arr.elemBytes (a : Arr) : Nat := a.rows * a.pitch

/-- The code of element i of a packed run (R77). -/
def codeAt (bs : Bytes) (w i : Nat) : Nat := (fld bs (i * w / 8) ((i * w % 8 + w + 7) / 8) >>> (i * w % 8)) % 2 ^ w

/-- Codes packed little-endian (R77). -/
def packCodes (w : Nat) (codes : List Nat) : Bytes :=
  leBytes (ceilDiv (codes.length * w) 8) (codes.foldr (fun c acc => c % 2 ^ w + acc * 2 ^ w) 0)

/-- A list of computations, each of which must succeed. -/
def collect {α β : Type} (f : α → Except Fail β) : List α → Except Fail (List β)
  | [] => .ok []
  | a :: rest => do
    let b ← f a
    let more ← collect f rest
    return b :: more

/-- Some stored rows of a tensor as read, by row number, from column `c0` on: the bytes of each row's elements and of its
scales. -/
structure Loaded where
  arr : Arr
  c0 : Nat := 0
  rows : SMap (Bytes × Bytes) := []
  deriving DecidableEq, Repr

/-- The byte of a row's scales that holds the scale of a column (R75, R74). -/
def Arr.scaleAt (a : Arr) (c : Nat) : Nat := if isBlockFmt a.fmt then c / 32 else 2 * (c / 128)

/-- One stored row: w elements from column c0 on, and the scales they use. -/
def State.loadRow (s : State) (g : Nat) (a : Arr) (c0 w r : Nat) : Except Fail (Bytes × Bytes) := do
  let b := fmtBits a.fmt
  let el ← s.readVa g (a.addr + r * a.pitch + c0 * b / 8) (ceilDiv ((c0 + w) * b) 8 - c0 * b / 8)
  let lo := a.scaleAt c0
  let hi := if w = 0 then lo else a.scaleAt (c0 + w - 1) + (if isBlockFmt a.fmt then 1 else 2)
  let sc ← if a.rowScales = 0 then .ok [] else s.readVa g (a.addr + a.scaleOff + r * a.rowScales + lo) (hi - lo)
  return (el, sc)

/-- The stored rows of a list, of each the w elements from column c0 on: what a work tile reads of a tensor. -/
def State.loadSet (s : State) (g : Nat) (a : Arr) (c0 w : Nat) (rs : List Nat) : Except Fail Loaded := do
  let rows ← collect (s.loadRow g a c0 w) rs
  return { arr := a, c0 := c0, rows := rs.zip rows }

/-- n stored rows from row r0 on, of each the w elements from column c0 on. -/
def State.loadBox (s : State) (g : Nat) (a : Arr) (r0 n c0 w : Nat) : Except Fail Loaded :=
  s.loadSet g a c0 w ((List.range n).map (r0 + ·))

/-- n stored rows from row r0 on. -/
def State.loadRows (s : State) (g : Nat) (a : Arr) (r0 n : Nat) : Except Fail Loaded := s.loadBox g a r0 n 0 a.cols

/-- A tensor read whole. -/
def State.loadArr (s : State) (g : Nat) (a : Arr) : Except Fail Loaded := s.loadRows g a 0 a.rows

/-- The ranges that were read for it. -/
def Loaded.reads (l : Loaded) : List (Nat × Nat) :=
  l.rows.map fun x => (l.arr.addr + x.1 * l.arr.pitch + l.c0 * fmtBits l.arr.fmt / 8, x.2.1.length)

def Loaded.row (l : Loaded) (r : Nat) : Bytes × Bytes := mapGet ([], []) l.rows r

def Loaded.code (l : Loaded) (r c : Nat) : Nat := codeAt (l.row r).1 (fmtBits l.arr.fmt) (c - l.c0)

/-- The scale code of an element: one byte of a block, two of a group. -/
def Loaded.scale (l : Loaded) (r c : Nat) : Nat :=
  fld (l.row r).2 (l.arr.scaleAt c - l.arr.scaleAt l.c0) (if isBlockFmt l.arr.fmt then 1 else 2)

/-- The exact value of a stored element with its scale (R74 to R76, R450). -/
def Loaded.at (l : Loaded) (r c : Nat) : FVal :=
  if isBlockFmt l.arr.fmt then blockVal l.arr.fmt (l.scale r c) (l.code r c)
  else if isWFmt l.arr.fmt then exactMul (decode l.arr.fmt (l.code r c)) (decode .bf16 (l.scale r c))
  else scale2 (decode l.arr.fmt (l.code r c)) l.arr.exp

/-- The element as an FP32 register holds it. -/
def Loaded.f32 (l : Loaded) (r c : Nat) : F32 := f32Of (l.at r c)

/-- FP32 values in consecutive words. -/
def State.loadF32 (s : State) (g addr n : Nat) : Except Fail (List F32) :=
  match s.readVa g addr (4 * n) with
  | .error e => .error e
  | .ok bs => .ok ((List.range n).map fun i => BitVec.ofNat 32 (fld bs (4 * i) 4))

/-- The blocks of 32 of a row (R444). -/
def blocksOf32 (vals : List (Round × FVal)) : List (List (Round × FVal)) :=
  (List.range (ceilDiv vals.length 32)).map fun b => (vals.drop (32 * b)).take 32

/-- One row converted: element bytes, and the bytes of its scales (R79 to R85, R444, R450). A conversion to FP32 rounds
under ROUND as one to a narrower format does (DEDUCED from R105, R123 and the FP32 row of R83; log 82). -/
def encodeRow (f : Fmt) (exp : Int) (vals : List (Round × FVal)) : Bytes × Bytes :=
  if isBlockFmt f then
    let bl := (blocksOf32 vals).map fun b =>
      let sc := blockScale f (b.map (·.2))
      (sc, blockCodes f (b.map (·.1)) sc (b.map (·.2)))
    (packCodes (fmtBits f) (bl.flatMap (·.2)), bl.map fun b => BitVec.ofNat 8 b.1)
  else (packCodes (fmtBits f) (vals.map fun v => encode f v.1 (scale2 v.2 (-exp))), [])

/-- A box of a result: n rows from row r0 on, and w columns from column c0 on. -/
structure Box where
  r0 : Nat
  n : Nat
  c0 : Nat
  w : Nat
  deriving DecidableEq, Repr

def Box.rows (b : Box) : List Nat := (List.range b.n).map (b.r0 + ·)
def Box.cols (b : Box) : List Nat := (List.range b.w).map (b.c0 + ·)

/-- A list of numbers without repeats, ascending. -/
def sortedSet (l : List Nat) : List Nat := (l.foldl (fun m k => mapSet m k ()) ([] : SMap Unit)).map (·.1)

/-- Block k of size `len` of `all` positions: its first position and how many it has. -/
def blockAt (k len all : Nat) : Nat × Nat := (k * len, min len (all - k * len))

/-- One row of a box converted. -/
def Arr.boxRow (a : Arr) (rnd : Nat → Round) (v : Nat → Nat → FVal) (b : Box) (r : Nat) : Bytes × Bytes :=
  encodeRow a.fmt a.exp (b.cols.map fun c => (rnd (r * a.cols + c), v r c))

/-- The writes of a box of a result tensor: each row's elements in ascending order, then the scales of each row. `rnd`
is the rounding of an element by its row-major index in the tensor. -/
def Arr.boxWrites (a : Arr) (rnd : Nat → Round) (v : Nat → Nat → FVal) (b : Box) : List (Nat × Bytes) :=
  let rows := b.rows.map fun r => (r, a.boxRow rnd v b r)
  let el := rows.map fun x => (a.addr + x.1 * a.pitch + b.c0 * fmtBits a.fmt / 8, x.2.1)
  if a.rowScales = 0 then el
  else el ++ rows.map fun x => (a.addr + a.scaleOff + x.1 * a.rowScales + a.scaleAt b.c0, x.2.2)

/-- Writes that follow one another joined into one run, so that a data tile that they cover together is written whole
(R263, R275). -/
def joinRuns : List (Nat × Bytes) → List (Nat × Bytes)
  | [] => []
  | (a, bs) :: rest =>
    match joinRuns rest with
    | (b, cs) :: more => if a + bs.length = b then (a, bs ++ cs) :: more else (a, bs) :: (b, cs) :: more
    | [] => [(a, bs)]

/-! ### The Dice units (R82, R160) -/

def State.stepNo (s : State) (g : Nat) : Nat := s.cfg (0x3600 + g) 0x16

/-- One draw of a context. -/
def State.dice (s : State) (g stream elem : Nat) : Words4 :=
  philox (BitVec.ofNat 64 (s.cfg (0x3600 + g) 0x15)) (elem % m32) (elem / m32 % m32) (s.stepNo g) stream

/-- The rounding a ROUND field and a stream give to an element index. -/
def State.rounder (s : State) (g code stream : Nat) (e : Nat) : Round :=
  match code with
  | 0 => .rne
  | 1 => .rtz
  | _ => .sr ((s.dice g stream e).w0 % 2 ^ 24)

/-! ### Fields and ranges of bodies (R54 check 4) -/

/-- Bits [63:57] of the word at an offset, as a two's-complement exponent (R108). -/
def dExp (d : Bytes) (off : Nat) : Int := signedOf (bitsOf (fld d off 8) 57 7) 7
def dTop (d : Bytes) (off : Nat) : Nat := bitsOf (fld d off 8) 57 7

def allZero (bs : Bytes) : Bool := bs.all (· == 0)

/-- Bytes lo to hi - 1 of a body are zero. -/
def zeroFrom (d : Bytes) (lo hi : Nat) : Bool := allZero (slice d lo (hi - lo))

def mult (a n : Nat) : Bool := a % n == 0

/-- A body that holds PARAM_ADDR and nothing else (R200, R238, R302, R356). -/
def paramBody (d : Bytes) : Bool := dTop d 16 == 0 && zeroFrom d 24 64

/-- Whether two ranges (address, bytes) share a byte; an empty range shares none. -/
def overlap (a b : Nat × Nat) : Bool := a.2 != 0 && b.2 != 0 && a.1 < b.1 + b.2 && b.1 < a.1 + a.2

/-- Whether some two of the ranges overlap. -/
def anyOverlap : List (Nat × Nat) → Bool
  | [] => false
  | a :: rest => rest.any (overlap a) || anyOverlap rest

def Arr.range (a : Arr) : Nat × Nat := (a.addr, a.span)

/-- The row rules of R74 and R76 for a stored row. -/
def Arr.rowOk (a : Arr) : Bool :=
  if isBlockFmt a.fmt then mult a.cols 32 else if isWFmt a.fmt then mult a.cols 128 else true

/-- A scale exponent is 0 unless the format is F8 (R108, R450; of a result's exponent DEDUCED, log 83). -/
def expOk (f : Fmt) (e : Int) : Bool := isF8 f || e == 0

/-- ROUND 3 is reserved, and a stream is 0 unless ROUND is 2. -/
def roundOk (code stream : Nat) : Bool := code ≤ 2 && (code == 2 || stream == 0)

/-- The result formats of most drains. -/
def isResultFmt (f : Fmt) : Bool := f == .fp32 || f == .bf16 || isF8 f

/-! ### Multiply modes (R98) -/

/-- The 8-bit and narrower floating formats. -/
def isNarrow (f : Fmt) : Bool := isF8 f || isBlockFmt f
def isWide (f : Fmt) : Bool := f == .fp32 || f == .bf16

/-- The inner dimension k of a cube for an operand pair; none where R98 has no row. -/
def modeK (x w : Fmt) : Option Nat :=
  if x == .f4 && w == .f4 then some 16
  else if isNarrow x && w == .w2 then some 16
  else if isNarrow x && w == .w1 then some 32
  else if x == .int8 && w == .int8 then some 8
  else if isNarrow x && isNarrow w then some 8
  else if isWide x && isWide w then some 4
  else none

/-- A cube operand: FP32 is rounded RNE to BF16 on entry (R99). -/
def cubeIn (f : Fmt) (v : FVal) : FVal := if f = .fp32 then decode .bf16 (encodeFloat .bf16 .rne v) else v

/-- The terms of one k-slice: inner positions base to base + k - 1 below K, in order. -/
def sliceTerms (k base kk : Nat) (term : Nat → FVal) : List FVal :=
  ((List.range k).map (base + ·)).filterMap fun i => if i < kk then some (term i) else none

/-- One chunk: the column partial after cube rows 0 to rows - 1 (R103). -/
def chunkSum (k rows base kk : Nat) (term : Nat → FVal) : F32 :=
  (List.range rows).foldl (fun p r => cubeCombine (sliceTerms k (base + r * k) kk term) p) fZero

/-- The inner loop of R103 over the positions from `lo` below `hi`. -/
def gemmSum (k lo hi : Nat) (term : Nat → FVal) (acc : Acc) : Acc :=
  (List.range (ceilDiv (hi - lo) (8 * k))).foldl
    (fun a kc => accAdd a (chunkSum k 8 (lo + kc * 8 * k) hi term)) acc

/-- The integer a term of an INT8 operation is. -/
def intOf (v : FVal) : Int :=
  match v with
  | .fin n m e => truncUnits n m e 0
  | _ => 0

/-- The INT8 mode (R88): every combination and the accumulator saturate. -/
def gemmInt (lo hi : Nat) (term : Nat → FVal) (acc : Acc) : Acc :=
  let chunk (kc : Nat) : Int :=
    (List.range 8).foldl
      (fun p r => satInt32 (((sliceTerms 8 (lo + kc * 64 + r * 8) hi term).map intOf).foldl (· + ·) p)) 0
  (List.range (ceilDiv (hi - lo) 64)).foldl
    (fun a kc => match a with | .int v => .int (satInt32 (v + chunk kc)) | b => b) acc

/-! ### What a product leaves in the cubes and the accumulator (R96, R97, R102, R107, R118) -/

/-- An element and its scale as a weight block holds them (R99, R140): in the BF16 mode its value as BF16; F6 and F4
widened to F8-E4 but in the F4 by F4 mode; every other code as it is stored. -/
def gridElem (k : Nat) (f : Fmt) (code scale : Nat) (v : FVal) : Nat × Nat :=
  if k = 4 then (encodeFloat .bf16 .rne v, 0)
  else if isBlockFmt f && !(f == .f4 && k == 16) then (encodeFloat .f8e4 .rne (decode f code), scale)
  else (code, scale)

/-- Element (i, j) of a loaded operand as a weight block holds it. -/
def Loaded.gridAt (l : Loaded) (k i j : Nat) : Nat × Nat :=
  gridElem k l.arr.fmt (l.code i j) (if l.arr.rowScales = 0 then 0 else l.scale i j) (l.at i j)

/-- An accumulator element as its bits (R118): of an FP32 pair hi above lo. -/
def accBits : Acc → BitVec 64
  | .f32 v => BitVec.ofNat 64 v.toNat
  | .bf16 v => BitVec.ofNat 64 v.toNat
  | .pair hi lo => BitVec.ofNat 64 (hi.toNat * m32 + lo.toNat)
  | .int v => BitVec.ofNat 64 (BitVec.ofInt 32 v).toNat

/-- The loop of R107 over a box of results: its inner length, k, TILE_M, bytes of an accumulator element, where its output
tiles lie, what a weight block holds of an inner position and a column, and the accumulated elements. -/
structure Product where
  k : Nat
  inner : Nat
  tileM : Nat
  bytes : Nat
  offset : Nat
  box : Box
  weight : Nat → Nat → Nat × Nat
  value : Nat → Nat → Acc

def Product.blocks (p : Product) : Nat := ceilDiv p.box.w 64

/-- Weight tile (kc, nb): zero beyond the operand (R110). -/
def Product.wtile (p : Product) (kc nb : Nat) : WTile :=
  { chunk := kc, block := nb, k := p.k
    elems := (List.range (8 * p.k)).map fun e => (List.range 64).map fun j =>
      if kc * 8 * p.k + e < p.inner ∧ 64 * nb + j < p.box.w then p.weight (kc * 8 * p.k + e) (p.box.c0 + 64 * nb + j) else (0, 0) }

/-- The output tiles, one for each column block. -/
def Product.outTiles (p : Product) : List OutTile :=
  (List.range p.blocks).map fun nb =>
    { offset := p.offset + nb * (p.tileM * 64 * p.bytes), block := nb
      rows := p.box.rows.map fun i => (blockAt nb 64 p.box.w |> fun c => (List.range c.2).map fun j =>
        accBits (p.value i (p.box.c0 + c.1 + j))) }

/-- The number of the last weight tile in the order of the loop, column blocks within chunks. -/
def Product.lastTile (p : Product) : Nat := ceilDiv p.inner (8 * p.k) * p.blocks - 1

/-- What the loop leaves: the last weight tile active, the one before it in the shadow blocks, and the output tiles. -/
def Product.left (p : Product) : CoreMem :=
  let t (n : Nat) : WTile := p.wtile (n / p.blocks) (n % p.blocks)
  { acc := p.outTiles, active := some (t p.lastTile), shadow := if p.lastTile = 0 then none else some (t (p.lastTile - 1)) }

/-! ### Carrying out the work tiles of a descriptor -/

/-- What one work tile does to memory: what it has read, its writes in order, its tallies, and its status; the data tile
of a DATA_CORRUPT; and what it leaves in its core. -/
structure Work where
  reads : List (Nat × Nat) := []
  writes : List (Nat × Bytes) := []
  status : Nat := 0
  tallies : List Tally := []
  tile : Nat := 0
  left : CoreMem := {}
  deriving DecidableEq, Repr

def Work.fail (e : Fail) : Work := { status := e.status, tile := e.tile }

/-- The work of a computation that may fail at a read. -/
def workOf : Except Fail Work → Work
  | .ok w => w
  | .error e => Work.fail e

/-- The work tile of a started descriptor that a core runs, where its grant has started it. -/
def Core.runs (k : Core) (g q seq : Nat) : Option Nat :=
  match k.tile with
  | some t => if t.g == g && t.q == q && t.seq == seq && t.replay.isNone && t.startAt.isSome then some t.idx else none
  | none => none

/-- The next work tile of a descriptor to carry out: the first, in ascending core order, that a core runs and that has
not been carried out (DESIGN CHOICE, log 94). -/
def State.dueTile (s : State) (g q seq : Nat) (r : Run) : Option Nat :=
  (s.cores.filterMap fun kv => kv.2.runs g q seq).find? fun t => !r.carried.contains t

/-- The core that runs a work tile. -/
def State.tileCore (s : State) (g q seq t : Nat) : Option Nat :=
  (s.cores.find? fun kv => kv.2.runs g q seq == some t).map (·.1)

/-- The die of the core that runs a work tile. -/
def State.tileDie (s : State) (g q seq t : Nat) : Nat :=
  match s.tileCore g q seq t with
  | some c => dieOfCore c
  | none => s.engineDie g

/-- As many of the newest ranges as a core store holds. -/
def fitStore : Nat → List (Nat × Bytes) → List (Nat × Bytes)
  | _, [] => []
  | room, x :: rest => if x.2.length ≤ room then x :: fitStore (room - x.2.length) rest else []

/-- Ranges loaded into a core store, as they stand now (R18). -/
def State.snapshots (s : State) (g : Nat) (reads : List (Nat × Nat)) : List (Nat × Bytes) :=
  reads.filterMap fun x => match s.readVa g x.1 x.2 with | .ok bs => some (x.1, bs) | .error _ => none

/-- A core's memories after a work tile: what it loaded and what it left; what it did not use is as before. -/
def CoreMem.after (m l : CoreMem) (loaded : List (Nat × Bytes)) : CoreMem :=
  { m with
    store := fitStore coreStoreBytes (loaded ++ m.store)
    acc := if l.acc = [] then m.acc else l.acc
    active := l.active.or m.active
    shadow := if l.active = none then m.shadow else l.shadow }

/-- The memories of a core after work it has carried out; `old` is the state its operands were read in. -/
def State.coreLeft (s old : State) (c g : Nat) (w : Work) : State :=
  s.modCore c fun k => { k with mem := k.mem.after w.left (old.snapshots g w.reads) }

/-- The memories of the core that runs a work tile, once it is carried out. -/
def State.leftIn (s old : State) (g q seq t : Nat) (w : Work) : State :=
  match s.tileCore g q seq t with
  | some c => s.coreLeft old c g w
  | none => s

/-- Whether work already begun in a context goes on: its work tiles run to their boundary after a job fault and in a
teardown too (R56, R332). -/
def State.working (s : State) (g : Nat) : Bool := (s.ctx g).st != .free && !s.pwr.shutdown

/-- The run and the work tile of it that a data row may carry out: of the row's kind, and on a core. -/
def State.gate (s : State) (g q seq : Nat) (kind : Run → Bool) : Option (Run × Nat) :=
  match s.run g q seq with
  | some r => if s.working g && kind r then (s.dueTile g q seq r).map fun t => (r, t) else none
  | none => none

/-- A work tile marked as carried out, with its tallies. -/
def State.markTile (s : State) (g q seq t : Nat) (ts : List Tally) : State :=
  s.modRun g q seq fun r => { r with carried := t :: r.carried, tallies := r.tallies ++ ts }

/-- A work tile that fails: the job fault of its descriptor; in a context that is FAULTED already it only ends. -/
def State.failTile (s : State) (g q seq t status tile : Nat) : State :=
  (s.markTile g q seq t []).jobFault g q seq status tile

/-- A work tile's writes made; a job fault at the first that fails, or by its status. -/
def State.carry (s : State) (g q seq t : Nat) (w : Work) : State :=
  match s.writeAll g (joinRuns w.writes) with
  | (s', some e) => s'.failTile g q seq t e.status e.tile
  | (s', none) =>
    if isJobFault w.status then s'.failTile g q seq t w.status w.tile
    else ((s'.accessed (s'.tileDie g q seq t) g w.reads (w.writes.map writeRange)).leftIn s g q seq t w).markTile g q seq t w.tallies

/-- A data row: the gated work tile carried out. -/
def State.dataRow (s : State) (g q seq : Nat) (kind : Run → Bool) (work : Run → Nat → Work) : State :=
  match s.gate g q seq kind with
  | some (r, t) => s.carry g q seq t (work r t)
  | none => s

/-- A run of an opcode. -/
def isOp (op : Nat) (r : Run) : Bool := dOpcode r.raw == op

/-! ### Engine work (R336) -/

/-- Which engine serves an opcode: 0 move, 1 codec, 2 collective, 3 parity; none for one that engines do not run. -/
def engineOf (op : Nat) : Option Nat :=
  match op with
  | 0x01 | 0x02 => some 0
  | 0x30 | 0x31 => some 1
  | 0x40 => some 2
  | 0x48 => some 3
  | _ => none

/-- Whether a context has engine work that can go on; `ready` says it of a started descriptor of the engine. -/
def State.hasEngineWork (s : State) (e : Nat) (ready : Nat → Nat → Run → Bool) (g : Nat) : Bool :=
  (s.ctx g).st == .active &&
    (s.ctx g).queues.any fun kv => kv.2.runs.any fun r =>
      engineOf (dOpcode r.raw) == some e && r.waitDone && !r.ran && !r.aborting && ready g kv.1 r

/-- In turn, after the one served last. -/
def inTurnAfter (last : Nat) (l : List Nat) : Option Nat :=
  match l.find? (last < ·) with
  | some q => some q
  | none => l.head?

/-- The context an engine takes its next work tile from: the highest PRIORITY that has one, ties in turn after the one
last served at that priority (R336). `u` tells the engines of one kind apart. -/
def State.engineChoice (s : State) (u e p : Nat) (ready : Nat → Nat → Run → Bool) : Option Nat :=
  let gs := (ctxsOfPart p).filter (s.hasEngineWork e ready)
  let prio (g : Nat) : Nat := s.cfg (0x3600 + g) 5
  let top := gs.foldl (fun m g => max m (prio g)) 0
  inTurnAfter (mapGet 511 (s.part p).engineLast (16 * u + top)) (gs.filter fun g => prio g == top)

/-- The engine notes whom it served. -/
def State.engineServed (s : State) (u g : Nat) : State :=
  s.modPart (partOfCtx g) fun p => { p with engineLast := mapSet p.engineLast (16 * u + s.cfg (0x3600 + g) 5) g }

/-- The run an engine or front-end row may carry on: started, its wait satisfied, not yet carried out and not stopping, in
an ACTIVE context of a module that is not shut down, and of the row's kind. -/
def State.frontGate (s : State) (g q seq : Nat) (kind : Run → Bool) : Option Run :=
  match s.run g q seq with
  | some r =>
    if (s.ctx g).st == .active && !s.pwr.shutdown && r.waitDone && !r.ran && !r.aborting && kind r then some r else none
  | none => none

/-- The same for an engine's work tile: it can go on, and it is the context's turn. -/
def State.engineGate (s : State) (u e g q seq : Nat) (kind : Run → Bool) (ready : Nat → Nat → Run → Bool) : Option Run :=
  if s.engineChoice u e (partOfCtx g) ready == some g then s.frontGate g q seq fun r => kind r && ready g q r else none

/-- An engine whose descriptors never wait once they have begun. -/
def anyRun (_ _ : Nat) (_ : Run) : Bool := true

/-- The run marked as carried out with a status. -/
def State.ranWith (s : State) (g q seq status : Nat) : State := s.modRun g q seq fun r => { r with ran := true, status := status }

end Sys2Proof.Machine
end

