-- ==== Sys2Proof/Machine/Gemm.lean ====
section
/-! DEFINITION. Sys2Proof/Machine/Gemm.lean: statistics records (R125), the GEMM (R103 to R110, R118 to R124) and the
distance search (R111 to R117). -/
namespace Sys2Proof.Machine

/-! ### Statistics records (R124, R125) -/

/-- A record: SUM and SUMSQ (kind 0) or MEAN and M2 (kind 1), and the count N. -/
structure Stat where
  a : F32
  b : F32
  n : Nat
  deriving DecidableEq, Repr

def Stat.none : Stat := { a := fZero, b := fZero, n := 0 }

def statLeaf (kind : Nat) (y : F32) : Stat := { a := y, b := if kind = 0 then fMul y y else fZero, n := 1 }

def statCombine (kind : Nat) (x y : Stat) : Stat :=
  if x.n = 0 then y
  else if y.n = 0 then x
  else
    let n := x.n + y.n
    if kind = 0 then { a := fAdd x.a y.a, b := fAdd x.b y.b, n := n }
    else
      let w := fDiv (fNat y.n) (fNat n)
      let d := fSub y.a x.a
      { a := fFma d w x.a, b := fFma (fMul d d) (fMul (fNat x.n) w) (fAdd x.b y.b), n := n }

/-- A block of at most 64 leaves, by the pairwise tree. -/
def statBlock (kind : Nat) (ys : List F32) : Stat :=
  (treeFold (statCombine kind) 6 (ys.map (statLeaf kind))).getD Stat.none

/-- A run of columns: its aligned blocks of 64, folded in ascending order. -/
def statRun (kind : Nat) (ys : List F32) : Stat :=
  (List.range (ceilDiv ys.length 64)).foldl
    (fun r b => statCombine kind r (statBlock kind ((ys.drop (64 * b)).take 64))) Stat.none

def Stat.bytes (r : Stat) : Bytes := leBytes 4 r.a.toNat ++ leBytes 4 r.b.toNat ++ leBytes 4 r.n ++ leBytes 4 0

def statOf (bs : Bytes) : Stat :=
  { a := BitVec.ofNat 32 (fld bs 0 4), b := BitVec.ofNat 32 (fld bs 4 4), n := fld bs 8 4 }

/-! ### The GEMM body (R108) -/

structure GemmBody where
  x : Arr
  w : Arr
  y : Arr
  aux : Nat
  preload : Nat
  drain : Nat
  transW : Bool
  transX : Bool
  m : Nat
  k : Nat
  n : Nat
  acc : Fmt
  round : Nat
  tileM : Nat
  tileNb : Nat
  stream : Nat
  deriving DecidableEq, Repr

/-- The fields of a GEMM; none where a format code is reserved. -/
def gemmBody (d : Bytes) : Option GemmBody :=
  let m := fld d 48 3
  let k := fld d 51 3
  let n := fld d 54 2
  let flags := fld d 40 8
  match fmtOf (fld d 56 1 % 16), fmtOf (fld d 56 1 / 16), fmtOf (fld d 57 1 % 16), fmtOf (fld d 57 1 / 16) with
  | some xf, some wf, some yf, some af =>
    some
      { x := if flags.testBit 62 then { addr := dAddr d 16, rows := k, cols := m, fmt := xf, exp := dExp d 16 }
             else { addr := dAddr d 16, rows := m, cols := k, fmt := xf, exp := dExp d 16 }
        w := if flags.testBit 61 then { addr := dAddr d 24, rows := k, cols := n, fmt := wf, exp := dExp d 24 }
             else { addr := dAddr d 24, rows := n, cols := k, fmt := wf, exp := dExp d 24 }
        y := { addr := dAddr d 32, rows := m, cols := n, fmt := yf, exp := dExp d 32 }
        aux := dAddr d 40
        preload := bitsOf flags 57 2
        drain := bitsOf flags 59 2
        transW := flags.testBit 61
        transX := flags.testBit 62
        m := m
        k := k
        n := n
        acc := af
        round := fld d 58 1 % 4
        tileM := 8 * (fld d 58 1 / 4 + 1)
        tileNb := fld d 59 1 % 32 + 1
        stream := fld d 60 4 }
  | _, _, _, _ => none

/-- Bytes of an accumulator element (R118). -/
def accBytes (f : Fmt) : Nat := fmtBits f / 8

/-- Column groups (R107). -/
def GemmBody.groups (b : GemmBody) : Nat := ceilDiv b.n (64 * b.tileNb)

/-- STATS_BASE (R124). -/
def GemmBody.statsBase (b : GemmBody) : Nat := roundUp (b.y.addr + b.y.elemBytes) 4096

/-- The Y range with the record array (R109, R124). -/
def GemmBody.yRange (b : GemmBody) : Nat × Nat :=
  if b.drain = 0 then b.y.range else (b.y.addr, b.statsBase + 16 * (b.m * b.groups) - b.y.addr)

def GemmBody.auxRange (b : GemmBody) : Nat × Nat :=
  match b.preload with
  | 0 => (0, 0)
  | 1 => (b.aux, 4 * b.n)
  | _ => (b.aux, b.y.elemBytes)

/-- The accumulator and result formats of a mode (R109). -/
def accOk (intMode : Bool) (acc : Fmt) : Bool :=
  if intMode then acc == .int32 else acc == .fp32 || acc == .bf16 || acc == .pair
def resOk (intMode : Bool) (y : Fmt) : Bool := if intMode then y == .int32 || y == .int8 else isResultFmt y

/-- The checks of R109, by field. -/
def GemmBody.ok (b : GemmBody) : Bool :=
  let int := b.x.fmt == .int8
  (modeK b.x.fmt b.w.fmt).isSome && accOk int b.acc && resOk int b.y.fmt &&
  expOk b.x.fmt b.x.exp && expOk b.w.fmt b.w.exp && expOk b.y.fmt b.y.exp &&
  b.preload ≤ 2 && b.drain ≤ 2 && (b.preload != 0 || b.aux == 0) &&
  !(int && (b.preload != 0 || b.drain != 0)) &&
  1 ≤ b.m && 1 ≤ b.k && 1 ≤ b.n && roundOk b.round b.stream &&
  b.x.rowOk && b.w.rowOk && b.tileNb * b.tileM * 64 * accBytes b.acc ≤ 524288 &&
  mult b.x.addr 64 && mult b.w.addr 64 && mult b.y.addr 64 && mult b.aux 64 &&
  !anyOverlap [b.x.range, b.w.range, b.yRange] &&
  !overlap b.auxRange b.x.range && !overlap b.auxRange b.w.range &&
  (!overlap b.auxRange b.yRange || (b.preload == 2 && b.aux == b.y.addr))

/-- Check 4 of R54 for a GEMM. -/
def gemmCheck (d : Bytes) : Bool :=
  match gemmBody d with
  | some b => b.ok && !(fld d 40 8).testBit 63 && fld d 59 1 < 32
  | none => false

def gemmTiles (d : Bytes) : Nat :=
  match gemmBody d with
  | some b => ceilDiv b.m b.tileM * b.groups
  | none => 0

/-- The box of Y that work tile w covers: row block w / NG and column group w mod NG (R107). -/
def GemmBody.box (b : GemmBody) (w : Nat) : Box :=
  let r := blockAt (w / b.groups) b.tileM b.m
  let c := blockAt (w % b.groups) (64 * b.tileNb) b.n
  { r0 := r.1, n := r.2, c0 := c.1, w := c.2 }

/-- What a work tile preloads (R121): nothing, its columns of the bias row, or its elements of the residual. -/
inductive Preload where
  | zero
  | bias (c0 : Nat) (row : List F32)
  | residual (l : Loaded)
  deriving DecidableEq, Repr

/-- The preload of an element, rounded once to the accumulator's format. -/
def Preload.init (p : Preload) (acc : Fmt) (i j : Nat) : Acc :=
  match p with
  | .zero => accInit acc (.fin false 0 0)
  | .bias c0 row => accInit acc (f32Val (nth fZero row (j - c0)))
  | .residual l => accInit acc (l.at i j)

/-- The preload of a box of a result, read before its first write. -/
def State.preloadOf (s : State) (g kind aux : Nat) (y : Arr) (b : Box) : Except Fail Preload :=
  match kind with
  | 0 => .ok .zero
  | 1 => (s.loadF32 g (aux + 4 * b.c0) b.w).map (.bias b.c0)
  | _ => (s.loadBox g { y with addr := aux } b.r0 b.n b.c0 b.w).map .residual

/-- The accumulated element (i, j) of R103. -/
def GemmBody.element (b : GemmBody) (x w : Loaded) (a0 : Acc) (i j : Nat) : Acc :=
  let term (e : Nat) : FVal :=
    exactMul (cubeIn b.x.fmt (if b.transX then x.at e i else x.at i e))
      (cubeIn b.w.fmt (if b.transW then w.at e j else w.at j e))
  match modeK b.x.fmt b.w.fmt with
  | some k => if b.x.fmt = .int8 then gemmInt 0 b.k term a0 else gemmSum k 0 b.k term a0
  | none => a0

/-- The statistics records that a work tile's drain writes, one for each of its rows, over the values as written (R124). -/
def GemmBody.records (b : GemmBody) (gr : Nat) (bx : Box) (code : Nat → Nat → Nat) : List (Nat × Bytes) :=
  bx.rows.map fun i =>
    (b.statsBase + 16 * (i * b.groups + gr),
      (statRun (b.drain - 1) (bx.cols.map fun j => f32Of (scale2 (decode b.y.fmt (code i j)) b.y.exp))).bytes)

/-- The element a weight block holds of an inner position and a column (R97). -/
def GemmBody.weight (b : GemmBody) (k : Nat) (w : Loaded) (e j : Nat) : Nat × Nat :=
  if b.transW then w.gridAt k e j else w.gridAt k j e

/-- The product of a work tile (R107). -/
def GemmBody.product (b : GemmBody) (x w : Loaded) (pre : Preload) (bx : Box) : Product :=
  let k := (modeK b.x.fmt b.w.fmt).getD 4
  { k := k, inner := b.k, tileM := b.tileM, bytes := accBytes b.acc, offset := 0, box := bx
    weight := b.weight k w, value := fun i j => b.element x w (pre.init b.acc i j) i j }

/-- The work of work tile t once its operands are read. -/
def State.gemmRun (s : State) (g : Nat) (b : GemmBody) (t : Nat) (x w : Loaded) (pre : Preload) : Work :=
  let val (i j : Nat) : FVal := accVal (b.element x w (pre.init b.acc i j) i j)
  let rnd := s.rounder g b.round b.stream
  let code (i j : Nat) : Nat := encode b.y.fmt (rnd (i * b.n + j)) (scale2 (val i j) (-b.y.exp))
  { reads := x.reads ++ w.reads
    writes := b.y.boxWrites rnd val (b.box t) ++ (if b.drain = 0 then [] else b.records (t % b.groups) (b.box t) code)
    left := (b.product x w pre (b.box t)).left }

/-- Work tile t of a GEMM: the rows of X and of W that it needs, its preload, and its box of Y. -/
def State.gemmTry (s : State) (g : Nat) (b : GemmBody) (t : Nat) : Except Fail Work := do
  let bx := b.box t
  let x ← if b.transX then s.loadBox g b.x 0 b.k bx.r0 bx.n else s.loadRows g b.x bx.r0 bx.n
  let w ← if b.transW then s.loadBox g b.w 0 b.k bx.c0 bx.w else s.loadRows g b.w bx.c0 bx.w
  let pre ← s.preloadOf g b.preload b.aux b.y bx
  return s.gemmRun g b t x w pre

def State.gemmWork (s : State) (g : Nat) (d : Bytes) (t : Nat) : Work :=
  match gemmBody d with
  | some b => workOf (s.gemmTry g b t)
  | none => { status := stBadField }

/-! ### The DIST body (R117) -/

structure DistBody where
  x : Arr
  w : Arr
  y : Arr
  idx : Nat
  term : Nat
  reduce : Nat
  cont : Bool
  round : Nat
  tileM : Nat
  base : Nat
  deriving DecidableEq, Repr

def distBody (d : Bytes) : Option DistBody :=
  let m := fld d 48 3
  let n := fld d 51 3
  let dd := fld d 54 2
  let f := fld d 58 1
  match fmtOf (fld d 56 1 % 16), fmtOf (fld d 56 1 / 16), fmtOf (fld d 57 1 % 16) with
  | some xf, some wf, some yf =>
    some
      { x := { addr := dAddr d 16, rows := m, cols := dd, fmt := xf, exp := dExp d 16 }
        w := { addr := dAddr d 24, rows := n, cols := dd, fmt := wf, exp := dExp d 24 }
        y := { addr := dAddr d 32, rows := m, cols := n, fmt := yf }
        idx := dAddr d 40
        term := bitsOf f 0 2
        reduce := bitsOf f 2 2
        cont := f.testBit 4
        round := bitsOf f 5 2
        tileM := 8 * (fld d 59 1 % 64 + 1)
        base := fld d 60 4 }
  | _, _, _ => none

def DistBody.yRange (b : DistBody) : Nat × Nat := if b.reduce = 0 then b.y.range else (b.y.addr, 4 * b.y.rows)
def DistBody.idxRange (b : DistBody) : Nat × Nat := if b.reduce = 0 then (0, 0) else (b.idx, 4 * b.y.rows)

def DistBody.ok (b : DistBody) : Bool :=
  ((isNarrow b.x.fmt && isNarrow b.w.fmt) || (isWide b.x.fmt && isWide b.w.fmt)) &&
  (b.y.fmt == .fp32 || (b.y.fmt == .bf16 && b.reduce == 0)) &&
  expOk b.x.fmt b.x.exp && expOk b.w.fmt b.w.exp &&
  b.term ≤ 2 && b.reduce ≤ 2 && b.round ≤ 1 && (b.reduce != 0 || (!b.cont && b.idx == 0)) &&
  1 ≤ b.x.rows && 1 ≤ b.w.rows && 1 ≤ b.x.cols && b.base + b.w.rows ≤ 2 ^ 32 &&
  b.x.rowOk && b.w.rowOk &&
  mult b.x.addr 64 && mult b.w.addr 64 && mult b.y.addr 64 && mult b.idx 64 &&
  !anyOverlap [b.x.range, b.w.range, b.yRange, b.idxRange]

def distCheck (d : Bytes) : Bool :=
  match distBody d with
  | some b => b.ok && dTop d 32 == 0 && dTop d 40 == 0 && fld d 57 1 < 16 && fld d 58 1 < 128 && fld d 59 1 < 64
  | none => false

def distTiles (d : Bytes) : Nat :=
  match distBody d with
  | some b => ceilDiv b.y.rows b.tileM
  | none => 0

/-- One term of R89, formed exactly. -/
def distTerm (t : Nat) (a b : FVal) : FVal :=
  let d := exactAdd a (exactNeg b)
  match t with
  | 0 => exactMul d d
  | 1 => exactAbs d
  | _ => exactMul a b

/-- The distance of query i and candidate j, with the bands of R112 where D is Kc / 2, Kc / 4 or Kc / 8. -/
def DistBody.distance (b : DistBody) (x w : Loaded) (i j : Nat) : F32 :=
  let k := if isWide b.x.fmt then 4 else 8
  let dd := b.x.cols
  let term (e : Nat) : FVal := distTerm b.term (cubeIn b.x.fmt (x.at i e)) (cubeIn b.w.fmt (w.at j e))
  if dd = 4 * k ∨ dd = 2 * k ∨ dd = k then chunkSum k (dd / k) 0 dd term
  else
    match gemmSum k 0 dd term (.f32 fZero) with
    | .f32 v => v
    | _ => fZero

/-- Less under the order of R91, in which -0 is below +0. -/
def lessZ (a b : F32) : Bool :=
  fLt a b || (isZero (f32Val a) && isZero (f32Val b) && isNeg (f32Val a) && !isNeg (f32Val b))

/-- Whether a candidate replaces the running best (R113). -/
def replaces (reduce : Nat) (cand best : F32) : Bool :=
  if fIsNan cand then false
  else if fIsNan best then true
  else if reduce = 1 then lessZ cand best else lessZ best cand

/-- One candidate visited. -/
def visit (reduce : Nat) (best : Option (F32 × Nat)) (cand : F32) (idx : Nat) : Option (F32 × Nat) :=
  match best with
  | none => some (cand, idx)
  | some (v, i) => if replaces reduce cand v then some (cand, idx) else some (v, i)

/-- The running best of a row over all candidates (R113, R114). -/
def DistBody.best (b : DistBody) (x w : Loaded) (start : Option (F32 × Nat)) (i : Nat) : F32 × Nat :=
  let r := (List.range b.w.rows).foldl (fun best j => visit b.reduce best (b.distance x w i j) (b.base + j)) start
  match r with
  | some (v, j) => (f32Of (f32Val v), j)
  | none => (fNan, b.base)

/-- The rows that work tile t covers (R116). -/
def DistBody.box (b : DistBody) (t : Nat) : Box :=
  let r := blockAt t b.tileM b.y.rows
  { r0 := r.1, n := r.2, c0 := 0, w := b.y.cols }

/-- The bands of a fold (R112). -/
def DistBody.bands (b : DistBody) : Nat :=
  let k := if isWide b.x.fmt then 4 else 8
  if b.x.cols = 4 * k then 2 else if b.x.cols = 2 * k then 4 else if b.x.cols = k then 8 else 1

/-- The product over the last block of candidates: 64 of them, or where the grid folds 64 for each band (R112, R116). -/
def DistBody.product (b : DistBody) (x w : Loaded) (bx : Box) : Product :=
  let k := if isWide b.x.fmt then 4 else 8
  let n := 64 * b.bands
  let c0 := (b.w.rows - 1) / n * n
  { k := k, inner := b.x.cols, tileM := b.tileM, bytes := 4, offset := 0, box := { bx with c0 := c0, w := b.w.rows - c0 }
    weight := fun e j => w.gridAt k j e
    value := fun i j => .f32 (b.distance x w i j) }

/-- What it leaves in its core: where the grid folds, a band's sums pass on to the drain and nothing lies in the accumulator
(R112). -/
def DistBody.left (b : DistBody) (x w : Loaded) (bx : Box) : CoreMem :=
  if b.bands = 1 then (b.product x w bx).left else { (b.product x w bx).left with acc := [] }

/-- The running bests a CONTINUE reads for the rows of a box. -/
def State.distStart (s : State) (g : Nat) (b : DistBody) (bx : Box) : Except Fail (List F32 × List F32) := do
  if b.cont then
    let v ← s.loadF32 g (b.y.addr + 4 * bx.r0) bx.n
    let i ← s.loadF32 g (b.idx + 4 * bx.r0) bx.n
    return (v, i)
  else return ([], [])

/-- Work tile t of a DIST: its rows of queries against every candidate. -/
def State.distTry (s : State) (g : Nat) (b : DistBody) (t : Nat) : Except Fail Work := do
  let bx := b.box t
  let x ← s.loadRows g b.x bx.r0 bx.n
  let w ← s.loadArr g b.w
  let st ← s.distStart g b bx
  if b.reduce = 0 then
    return { reads := x.reads ++ w.reads, writes := b.y.boxWrites (s.rounder g b.round 0) (fun i j => f32Val (b.distance x w i j)) bx
             left := b.left x w bx }
  else
    let best (i : Nat) : F32 × Nat :=
      b.best x w (if b.cont then some (nth fZero st.1 (i - bx.r0), (nth fZero st.2 (i - bx.r0)).toNat) else none) i
    return { reads := x.reads ++ w.reads
             writes := bx.rows.map (fun i => (b.y.addr + 4 * i, leBytes 4 (best i).1.toNat)) ++
               bx.rows.map fun i => (b.idx + 4 * i, leBytes 4 (best i).2)
             left := b.left x w bx }

def State.distWork (s : State) (g : Nat) (d : Bytes) (t : Nat) : Work :=
  match distBody d with
  | some b => workOf (s.distTry g b t)
  | none => { status := stBadField }

/-! ### The commands -/

def execGemm (g q seq : Nat) (s : State) : Host.Outcome State Fault Refusal :=
  .next (s.dataRow g q seq (isOp 0x10) fun r t => s.gemmWork g r.raw t)

def execDist (g q seq : Nat) (s : State) : Host.Outcome State Fault Refusal :=
  .next (s.dataRow g q seq (isOp 0x12) fun r t => s.distWork g r.raw t)

end Sys2Proof.Machine
end

