-- ==== Sys2Proof/Machine/Bwd.lean ====
section
/-! DEFINITION. Sys2Proof/Machine/Bwd.lean: GEMM_BWD (R138 to R152) and the format governor (R153 to R158). -/
namespace Sys2Proof.Machine

/-! ### Fused derivatives (R150, R151) -/

def cGelu1 : F32 := 0x3D372713
def cGelu2 : F32 := 0x3F4C422A
def cGelu3 : F32 := 0x3E095D4F
def cErf : F32 := 0x3F3504F3
def cExp : F32 := 0xBF38AA3B
def cPdf : F32 := 0x3ECC422A

/-- d(p) of R150 for a finite nonzero p. -/
def derivEval (code : Nat) (p : F32) : F32 :=
  match code with
  | 1 => if isNeg (f32Val p) then fZero else fOne
  | 2 =>
    let q := fMul p p
    let u := fMul (fMul cGelu2 p) (fFma cGelu1 q fOne)
    let t := sfuTanh u
    let h := fMul fHalf (fAdd fOne t)
    let sd := fFma (fSub fZero t) t fOne
    fFma (fMul fHalf p) (fMul sd (fMul cGelu2 (fFma cGelu3 q fOne))) h
  | 3 =>
    let h := fMul fHalf (fAdd fOne (sfuErf (fMul p cErf)))
    fFma (fMul p cPdf) (sfuExp2 (fMul cExp (fMul p p))) h
  | 4 =>
    let sg := sfuSigmoid p
    fMul sg (fFma p (fSub fOne sg) fOne)
  | 5 =>
    let sg := sfuSigmoid p
    fMul sg (fSub fOne sg)
  | 6 =>
    let t := sfuTanh p
    fFma (fSub fZero t) t fOne
  | 7 => sfuSigmoid p
  | _ => fOne

/-- d at +infinity (R151). -/
def derivTop (code : Nat) : F32 :=
  match code with
  | 5 | 6 => fZero
  | _ => fOne

/-- d at +0 and -0 (R151). -/
def derivZero (code : Nat) : F32 :=
  match code with
  | 1 => fZero
  | 5 => 0x3E800000
  | 6 => fOne
  | _ => fHalf

def deriv (code : Nat) (p : F32) : F32 :=
  match f32Val p with
  | .nan => fNan
  | .inf neg => if neg then fZero else derivTop code
  | .fin _ m _ => if m = 0 then derivZero code else derivEval code p

/-- The drain's v times d(p) (R151). -/
def derivMul (code : Nat) (v p : F32) : F32 :=
  if code = 0 then v
  else
    let d := deriv code p
    if isZero (f32Val d) then fZero else fMul v d

/-! ### The governor's table (R154) -/

def State.govSlots (s : State) (g : Nat) : Nat := s.cfg (0x3600 + g) 0x11
def State.govAddr (s : State) (g slot : Nat) : Nat := s.cfg (0x3600 + g) 0x10 + 320 * slot
def State.govSlot (s : State) (g slot : Nat) : Except Fail Bytes := s.readVa g (s.govAddr g slot) 320

/-- The format code and scale exponent in force of a slot (R154). -/
def govInForce (slot : Bytes) : Nat × Int :=
  match fld slot 260 1 with
  | 2 => (2, signedOf (fld slot 261 1) 8)
  | 3 => (3, signedOf (fld slot 261 1) 8)
  | _ => (1, 0)

/-- One tallied value (R155). -/
def tallyVal (e4 e5 : Int) (t : Tally) (v : F32) : Tally :=
  match f32Val v with
  | .fin _ m e =>
    if m = 0 then t
    else
      let l : Int := (m.log2 : Int) + e
      { t with
        amax := BitVec.ofNat 32 (max t.amax.toNat (v.toNat % 2 ^ 31))
        nz := satAdd 32 t.nz 1
        ue4 := if l + e4 < -6 then satAdd 32 t.ue4 1 else t.ue4
        ue5 := if l + e5 < -14 then satAdd 32 t.ue5 1 else t.ue5 }
  | _ => { t with nonfinite := true }

/-- The PEND fields of a slot, bytes 264 to 280, after a merge (R156). -/
def pendAfter (slot : Bytes) (t : Tally) : Bytes :=
  leBytes 4 (max (fld slot 264 4) t.amax.toNat) ++ leBytes 4 (satAdd 32 (fld slot 268 4) t.nz) ++
  leBytes 4 (satAdd 32 (fld slot 272 4) t.ue4) ++ leBytes 4 (satAdd 32 (fld slot 276 4) t.ue5) ++
  leBytes 1 (if t.nonfinite then fld slot 280 1 ||| 1 else fld slot 280 1)

/-- A finished work tile's tally merged into its slot (R156). -/
def State.mergeTally (s : State) (g : Nat) (t : Tally) : State × Option Fail :=
  match s.govSlot g t.slot with
  | .error e => (s, some e)
  | .ok slot => s.writeVa g (s.govAddr g t.slot + 264) (pendAfter slot t)

/-- The largest of the valid entries' AMAX; FP32 codes of nonnegative values rank as their numbers. -/
def amaxOf (slot : Bytes) (valid : Nat) : Nat :=
  (List.range 16).foldl (fun a i => if valid.testBit i then max a (fld slot (4 * i) 4) else a) 0

/-- A candidate scale-up (R157). -/
def candidate (top margin : Nat) (amax : Nat) : Int :=
  match f32Val (BitVec.ofNat 32 amax) with
  | .fin _ m e => if m = 0 then 0 else max (-64) (min 63 ((top : Int) - margin - 1 - ((m.log2 : Int) + e)))
  | _ => 0

/-- Whether every entry's underflows stay within the limit (R157). -/
def fewUnder (slot : Bytes) (off uf : Nat) : Bool :=
  (List.range 16).all fun i => fld slot (off + 4 * i) 4 <<< uf ≤ fld slot (64 + 4 * i) 4

/-- A slot after a step commit (R157). -/
def commitSlot (slot : Bytes) (step margin uf4 uf5 : Nat) : Bytes :=
  let i := step % 16
  let nf := if (fld slot 280 1).testBit 0 then fld slot 256 2 ||| 2 ^ i else fld slot 256 2 &&& (2 ^ 16 - 1 - 2 ^ i)
  let valid := fld slot 258 2 ||| 2 ^ i
  let h := putBytes (putBytes (putBytes (putBytes slot (4 * i) (slice slot 264 4)) (64 + 4 * i) (slice slot 268 4))
    (128 + 4 * i) (slice slot 272 4)) (192 + 4 * i) (slice slot 276 4)
  let a := amaxOf h valid
  let c4 := candidate 8 margin a
  let c5 := candidate 15 margin a
  let full := valid == 2 ^ 16 - 1 && nf == 0 && a != 0
  let choice : Nat × Int :=
    if full && fewUnder h 128 uf4 then (2, -c4) else if full && fewUnder h 192 uf5 then (3, -c5) else (1, 0)
  slice h 0 256 ++ leBytes 2 nf ++ leBytes 2 valid ++ leBytes 1 choice.1 ++ leBytes 1 (unsignedOf choice.2 8) ++
    leBytes 1 (unsignedOf c4 8) ++ leBytes 1 (unsignedOf c5 8) ++ zeros 17 ++ slice h 281 39

/-- Every slot below GOV_SLOTS rewritten. -/
def State.eachSlot (s : State) (g : Nat) (f : Bytes → Bytes) : State × Option Fail :=
  (List.range (s.govSlots g)).foldl
    (fun (acc : State × Option Fail) i =>
      match acc with
      | (s, some e) => (s, some e)
      | (s, none) =>
        match s.govSlot g i with
        | .error e => (s, some e)
        | .ok slot => s.writeVa g (s.govAddr g i) (f slot)) (s, none)

/-- The governor's part of a step commit (R157). -/
def State.govCommit (s : State) (g : Nat) : State × Option Fail :=
  let c (sub : Nat) := s.cfg (0x3600 + g) sub
  s.eachSlot g fun slot => commitSlot slot (c 0x16) (c 0x12) (c 0x13) (c 0x14)

/-- A step repeated clears every PEND field (R164). -/
def State.govClear (s : State) (g : Nat) : State × Option Fail := s.eachSlot g fun slot => putBytes slot 264 (zeros 17)

/-! ### The backward parameter block (R142) -/

structure BwdBody where
  g : Arr
  w : Arr
  x : Arr
  p : Arr
  dx : Arr
  aux : Nat
  dw : Arr
  m : Nat
  k : Nat
  n : Nat
  products : Nat
  round : Nat
  gGov : Bool
  dxGov : Bool
  preload : Bool
  wTrans : Bool
  role : Nat
  deriv : Nat
  gSlot : Nat
  dxSlot : Nat
  dxTileM : Nat
  dxTileNb : Nat
  dwTileM : Nat
  dwTileNb : Nat
  mslice : Nat
  stream : Nat
  deriving DecidableEq, Repr

/-- The block's fields, with the formats and exponents of G and dX that the governor gives where GOV bits are set. -/
def bwdBody (b : Bytes) (gg gd : Nat × Int) : Option BwdBody :=
  let m := fld b 56 3
  let k := fld b 59 2
  let n := fld b 61 2
  let f66 := fld b 66 1
  let f67 := fld b 67 1
  let gGov := f66.testBit 5
  let dGov := f66.testBit 4
  let wt := f67.testBit 6
  match fmtOf (if gGov then gg.1 else fld b 64 1 % 16), fmtOf (fld b 64 1 / 16), fmtOf (fld b 65 1 % 16),
      fmtOf (fld b 65 1 / 16), fmtOf (if dGov then gd.1 else f66 % 16) with
  | some gf, some wf, some xf, some pf, some df =>
    some
      { g := { addr := dAddr b 0, rows := m, cols := n, fmt := gf, exp := if gGov then gg.2 else dExp b 0 }
        w := { addr := dAddr b 8, rows := if wt then k else n, cols := if wt then n else k, fmt := wf, exp := dExp b 8 }
        x := { addr := dAddr b 16, rows := m, cols := k, fmt := xf, exp := dExp b 16 }
        p := { addr := dAddr b 24, rows := m, cols := k, fmt := pf, exp := dExp b 24 }
        dx := { addr := dAddr b 32, rows := m, cols := k, fmt := df, exp := if dGov then gd.2 else dExp b 32 }
        aux := dAddr b 40
        dw := { addr := dAddr b 48, rows := if wt then k else n, cols := if wt then n else k, fmt := .fp32 }
        m := m
        k := k
        n := n
        products := fld b 63 1
        round := bitsOf f66 6 2
        gGov := gGov
        dxGov := dGov
        preload := f67.testBit 7
        wTrans := wt
        role := bitsOf f67 4 2
        deriv := f67 % 16
        gSlot := fld b 68 2
        dxSlot := fld b 70 2
        dxTileM := 8 * (fld b 72 1 + 1)
        dxTileNb := fld b 73 1 + 1
        dwTileM := 8 * (fld b 74 1 + 1)
        dwTileNb := fld b 75 1 + 1
        mslice := fld b 76 2
        stream := fld b 80 4 }
  | _, _, _, _, _ => none

def BwdBody.hasDx (b : BwdBody) : Bool := b.products != 2
def BwdBody.hasDw (b : BwdBody) : Bool := b.products != 1

/-- The inner dimension k of a product's operand pair (R140). -/
def bwdK (a w : Fmt) : Option Nat :=
  if isWide a && (isWide w || isNarrow w || isWFmt w || w == .int8) then some 4
  else if isWide w && (isNarrow a || a == .int8) then some 4
  else if a == .int8 then none
  else modeK a w

/-- Slices of M, and the stride of their partials (R147). -/
def BwdBody.sliceRows (b : BwdBody) : Nat := 256 * b.mslice
def BwdBody.slices (b : BwdBody) : Nat := ceilDiv b.m b.sliceRows
def BwdBody.stride (b : BwdBody) : Nat := roundUp b.dw.elemBytes 4096

/-- A range taken at the BF16 size, the widest the governor chooses (R145). -/
def wideRange (a : Arr) : Nat × Nat := ({ a with fmt := .bf16 } : Arr).range

def rangeIf (c : Bool) (r : Nat × Nat) : Nat × Nat := if c then r else (0, 0)

def BwdBody.reads (b : BwdBody) : List (Nat × Nat) :=
  [if b.gGov then wideRange b.g else b.g.range, b.w.range, b.x.range,
   rangeIf (b.deriv != 0) b.p.range]

def BwdBody.results (b : BwdBody) : List (Nat × Nat) :=
  [rangeIf b.hasDx (if b.dxGov then wideRange b.dx else b.dx.range),
   rangeIf b.preload (b.aux, ({ b.dx with fmt := .fp32 } : Arr).elemBytes),
   rangeIf b.hasDw (b.dw.addr, (b.slices - 1) * b.stride + b.dw.elemBytes)]

/-- ROLE against W_FMT, PRODUCTS, K and N (R144). -/
def BwdBody.roleOk (b : BwdBody) : Bool :=
  match b.role with
  | 0 => !isWFmt b.w.fmt
  | 1 => b.products == 1 && (isWFmt b.w.fmt || b.w.fmt == .f4 || isF8 b.w.fmt)
  | 2 => !isWFmt b.w.fmt && min b.k b.n ≤ 256
  | _ => false

/-- A format that may enter a cube (R66). -/
def isCubeFmt (f : Fmt) : Bool := isNarrow f || isWide f || isWFmt f || f == .int8

/-- The formats of the products formed (R140, R142). -/
def BwdBody.formatsOk (b : BwdBody) : Bool :=
  isCubeFmt b.g.fmt && isCubeFmt b.w.fmt &&
  (!b.hasDx || (bwdK b.g.fmt b.w.fmt).isSome) && (!b.hasDw || (bwdK b.g.fmt b.x.fmt).isSome && !isWFmt b.x.fmt) &&
  (isNarrow b.x.fmt || isWide b.x.fmt) && isResultFmt b.p.fmt && isResultFmt b.dx.fmt &&
  expOk b.g.fmt b.g.exp && expOk b.w.fmt b.w.exp && expOk b.x.fmt b.x.exp && expOk b.p.fmt b.p.exp && expOk b.dx.fmt b.dx.exp &&
  b.g.rowOk && b.w.rowOk && b.x.rowOk

/-- Accumulator limits and slices (R145). -/
def BwdBody.sizesOk (b : BwdBody) : Bool :=
  let lim := if b.products = 0 then 262144 else 524288
  1 ≤ b.m && 1 ≤ b.k && 1 ≤ b.n && b.products ≤ 2 &&
  b.dxTileM ≤ 512 && b.dxTileNb ≤ 32 && b.dwTileM ≤ 512 && b.dwTileNb ≤ 32 &&
  (!b.hasDx || b.dxTileNb * b.dxTileM * 256 ≤ lim) && (!b.hasDw || b.dwTileNb * b.dwTileM * 256 ≤ lim) &&
  (!b.hasDw || (1 ≤ b.mslice && b.m ≤ 1024 * b.sliceRows))

/-- The fields that must be 0 in a block (R142, R144). -/
def bwdZeros (b : Bytes) : Bool :=
  let f66 := fld b 66 1
  let f67 := fld b 67 1
  let pr := fld b 63 1
  dTop b 40 == 0 && dTop b 48 == 0 && zeroFrom b 78 80 && zeroFrom b 84 128 &&
  (!f66.testBit 5 || (dExp b 0 == 0 && fld b 64 1 % 16 == 0)) && (!f66.testBit 4 || (dExp b 32 == 0 && f66 % 16 == 0)) &&
  (f66.testBit 5 || fld b 68 2 == 0) && (f66.testBit 4 || fld b 70 2 == 0) &&
  (f67.testBit 7 || dAddr b 40 == 0) && (f67 % 16 != 0 || zeroFrom b 24 32) && f67 % 16 ≤ 7 &&
  (pr != 1 || (zeroFrom b 48 56 && zeroFrom b 74 78)) &&
  (pr != 2 || (zeroFrom b 24 48 && fld b 65 1 / 16 == 0 && f66 % 16 == 0 && !f66.testBit 4 && zeroFrom b 70 74 &&
    !f67.testBit 7 && f67 % 16 == 0))

/-- Check 4 of R54 for a backward parameter block (R143 to R145). -/
def bwdCheck (slots : Nat) (b : Bytes) : Bool :=
  match bwdBody b (1, 0) (1, 0) with
  | none => false
  | some y =>
    bwdZeros b && y.roleOk && y.formatsOk && y.sizesOk && roundOk y.round y.stream &&
    (!y.gGov || y.gSlot < slots) && (!y.dxGov || y.dxSlot < slots) &&
    [y.g.addr, y.w.addr, y.x.addr, y.p.addr, y.dx.addr, y.aux, y.dw.addr].all (mult · 64) &&
    !(y.reads.any fun r => y.results.any (overlap r)) && !anyOverlap y.results

/-- Check 4 of R54 for the descriptor's own body (R141). -/
def bwdDescCheck (d : Bytes) : Bool := paramBody d && mult (dAddr d 16) 64

/-! ### Work tiles (R146 to R148) -/

def BwdBody.dxGroups (b : BwdBody) : Nat := ceilDiv b.k (64 * b.dxTileNb)
def BwdBody.dxTiles (b : BwdBody) : Nat := if b.hasDx then ceilDiv b.m b.dxTileM * b.dxGroups else 0
def BwdBody.dwTiles (b : BwdBody) : Nat :=
  if b.hasDw then b.slices * (ceilDiv b.dw.rows b.dwTileM * ceilDiv b.dw.cols (64 * b.dwTileNb)) else 0

def bwdTiles (blk : Bytes) : Nat :=
  match bwdBody blk (1, 0) (1, 0) with
  | some b => b.dxTiles + b.dwTiles
  | none => 0

/-- The work tiles that come in pairs: 2 j is dX work tile j and 2 j + 1 dW work tile j, below this count. -/
def bwdPaired (blk : Bytes) : Nat :=
  match bwdBody blk (1, 0) (1, 0) with
  | some b => 2 * min b.dxTiles b.dwTiles
  | none => 0

/-- What work tile t forms: dX work tile j, or dW work tile j in ascending slice and then in R107 order (R148). -/
inductive BwdPart where
  | dx (j : Nat)
  | dw (j : Nat)
  deriving DecidableEq, Repr

def BwdBody.part (b : BwdBody) (t : Nat) : BwdPart :=
  let c := min b.dxTiles b.dwTiles
  if t < 2 * c then (if t % 2 = 0 then .dx (t / 2) else .dw (t / 2))
  else if b.dwTiles < b.dxTiles then .dx (t - c) else .dw (t - c)

/-- The box of dX that dX work tile j covers (R146). -/
def BwdBody.dxBox (b : BwdBody) (j : Nat) : Box :=
  let r := blockAt (j / b.dxGroups) b.dxTileM b.m
  let c := blockAt (j % b.dxGroups) (64 * b.dxTileNb) b.k
  { r0 := r.1, n := r.2, c0 := c.1, w := c.2 }

def BwdBody.dwGroups (b : BwdBody) : Nat := ceilDiv b.dw.cols (64 * b.dwTileNb)

/-- The slice of dW work tile j and the box of its partial (R147). -/
def BwdBody.dwBox (b : BwdBody) (j : Nat) : Nat × Box :=
  let per := ceilDiv b.dw.rows b.dwTileM * b.dwGroups
  let w := j % per
  let r := blockAt (w / b.dwGroups) b.dwTileM b.dw.rows
  let c := blockAt (w % b.dwGroups) (64 * b.dwTileNb) b.dw.cols
  (j / per, { r0 := r.1, n := r.2, c0 := c.1, w := c.2 })

/-! ### The products -/

/-- The accumulated element of dX, before its drain (R146). -/
def BwdBody.dxAcc (b : BwdBody) (g w aux : Loaded) (i j : Nat) : Acc :=
  let term (e : Nat) : FVal :=
    exactMul (cubeIn b.g.fmt (g.at i e)) (cubeIn b.w.fmt (if b.wTrans then w.at j e else w.at e j))
  gemmSum ((bwdK b.g.fmt b.w.fmt).getD 4) 0 b.n term (.f32 (if b.preload then aux.f32 i j else fZero))

/-- Element (i, j) of dX before its conversion (R146 steps 1 and 2). -/
def BwdBody.dxElem (b : BwdBody) (g w p aux : Loaded) (i j : Nat) : F32 :=
  match b.dxAcc g w aux i j with
  | .f32 v => derivMul b.deriv v (if b.deriv = 0 then fZero else p.f32 i j)
  | _ => fZero

/-- Element (r, c) of the dW partial of slice t (R147). -/
def BwdBody.dwElem (b : BwdBody) (g x : Loaded) (t r c : Nat) : FVal :=
  let term (e : Nat) : FVal :=
    if b.wTrans then exactMul (cubeIn b.x.fmt (x.at e r)) (cubeIn b.g.fmt (g.at e c))
    else exactMul (cubeIn b.g.fmt (g.at e r)) (cubeIn b.x.fmt (x.at e c))
  let lo := t * b.sliceRows
  accVal (gemmSum ((bwdK b.g.fmt b.x.fmt).getD 4) lo (min b.m (lo + b.sliceRows)) term (.f32 fZero))

/-- The tally of the work tile t that forms a box of dX (R146 step 3, R155). -/
def BwdBody.tally (b : BwdBody) (slot : Bytes) (v : Nat → Nat → F32) (t : Nat) (bx : Box) : Tally :=
  bx.rows.foldl
    (fun y i => bx.cols.foldl (fun y c => tallyVal (signedOf (fld slot 262 1) 8) (signedOf (fld slot 263 1) 8) y (v i c)) y)
    { tile := t, slot := b.dxSlot }

/-- A box of a tensor that is read only where its product needs it. -/
def State.loadIf (s : State) (g : Nat) (c : Bool) (a : Arr) (b : Box) : Except Fail Loaded :=
  if c then s.loadBox g a b.r0 b.n b.c0 b.w else .ok { arr := a }

/-- The box of a tensor that holds all of it. -/
def Arr.whole (a : Arr) : Box := { r0 := 0, n := a.rows, c0 := 0, w := a.cols }

/-- The product that forms a box of dX: of a pair in the lower half of the accumulator (R149). -/
def BwdBody.dxProduct (b : BwdBody) (g w aux : Loaded) (bx : Box) : Product :=
  let k := (bwdK b.g.fmt b.w.fmt).getD 4
  { k := k, inner := b.n, tileM := b.dxTileM, bytes := 4, offset := 0, box := bx
    weight := fun e j => if b.wTrans then w.gridAt k j e else w.gridAt k e j, value := b.dxAcc g w aux }

/-- The product that forms a box of a dW partial: of a pair in the upper half (R149). -/
def BwdBody.dwProduct (b : BwdBody) (g x : Loaded) (sl lo n : Nat) (bx : Box) : Product :=
  let k := (bwdK b.g.fmt b.x.fmt).getD 4
  { k := k, inner := n, tileM := b.dwTileM, bytes := 4, offset := if b.products = 0 then 262144 else 0, box := bx
    weight := fun e j => if b.wTrans then g.gridAt k (lo + e) j else x.gridAt k (lo + e) j
    value := fun r c => .f32 (f32Of (b.dwElem g x sl r c)) }

/-- Work tile t where it forms a box of dX. -/
def State.dxTry (s : State) (g : Nat) (b : BwdBody) (t : Nat) (bx : Box) : Except Fail Work := do
  let gl ← s.loadRows g b.g bx.r0 bx.n
  let w ← if b.wTrans then s.loadRows g b.w bx.c0 bx.w else s.loadBox g b.w 0 b.n bx.c0 bx.w
  let aux ← s.loadIf g b.preload { b.dx with addr := b.aux, fmt := .fp32, exp := 0 } bx
  let p ← s.loadIf g (b.deriv != 0) b.p bx
  let slot ← if b.dxGov then s.govSlot g b.dxSlot else .ok []
  let v := b.dxElem gl w p aux
  return { reads := gl.reads ++ w.reads ++ aux.reads ++ p.reads
           writes := b.dx.boxWrites (s.rounder g b.round b.stream) (fun i j => f32Val (v i j)) bx
           tallies := if b.dxGov then [b.tally slot v t bx] else [], left := (b.dxProduct gl w aux bx).left }

/-- A work tile where it forms a box of the dW partial of a slice: of G and X it reads the slice's rows. -/
def State.dwTry (s : State) (g : Nat) (b : BwdBody) (sl : Nat) (bx : Box) : Except Fail Work := do
  let rows := blockAt sl b.sliceRows b.m
  let a : Box := { bx with r0 := rows.1, n := rows.2, c0 := bx.r0, w := bx.n }
  let c : Box := { bx with r0 := rows.1, n := rows.2 }
  let gl ← s.loadIf g true b.g (if b.wTrans then c else a)
  let x ← s.loadIf g true b.x (if b.wTrans then a else c)
  return { reads := gl.reads ++ x.reads
           writes := ({ b.dw with addr := b.dw.addr + sl * b.stride } : Arr).boxWrites (fun _ => .rne) (b.dwElem gl x sl) bx
           left := (b.dwProduct gl x sl rows.1 rows.2 bx).left }

def State.bwdTry (s : State) (g : Nat) (b : BwdBody) (t : Nat) : Except Fail Work :=
  match b.part t with
  | .dx j => s.dxTry g b t (b.dxBox j)
  | .dw j => s.dwTry g b (b.dwBox j).1 (b.dwBox j).2

def State.bwdWork (s : State) (g : Nat) (blk : Bytes) (gg gd : Nat × Int) (t : Nat) : Work :=
  match bwdBody blk gg gd with
  | some b => workOf (s.bwdTry g b t)
  | none => { status := stBadField }

/-- Whether the formats in force make pairs of R140; a pair they break is found when the descriptor starts, where they are
taken (R158; DEDUCED, log 84). -/
def forceOk (blk : Bytes) (gg gd : Nat × Int) : Bool :=
  match bwdBody blk gg gd with
  | some b => b.formatsOk
  | none => false

/-- The formats and exponents of G and dX in force (R158). -/
def State.bwdForce (s : State) (g : Nat) (blk : Bytes) : Except Fail ((Nat × Int) × (Nat × Int)) := do
  let gg ← if (fld blk 66 1).testBit 5 then (s.govSlot g (fld blk 68 2)).map govInForce else .ok (0, 0)
  let gd ← if (fld blk 66 1).testBit 4 then (s.govSlot g (fld blk 70 2)).map govInForce else .ok (0, 0)
  if forceOk blk gg gd then return (gg, gd) else .error { status := stBadField }

def execGemmBwd (g q seq : Nat) (s : State) : Host.Outcome State Fault Refusal :=
  .next (s.dataRow g q seq (isOp 0x11) fun r t => s.bwdWork g r.block r.govG r.govDx t)

end Sys2Proof.Machine
end

