-- ==== Sys2Proof/Machine/Kv.lean ====
section
/-! DEFINITION. Sys2Proof/Machine/Kv.lean: the paged key-value cache: geometry, sequence records, allocation, appends,
edits, frees and the step boundary (R219 to R226, R243 to R251). -/
namespace Sys2Proof.Machine

/-! ### Geometry (R219, R221, R222) -/

/-- The head dimension a code stands for. -/
def headDim : Nat → Option Nat
  | 0 => some 64
  | 1 => some 96
  | 2 => some 128
  | 3 => some 192
  | 4 => some 256
  | _ => none

structure KvGeo where
  hd : Nat
  fmt : Fmt
  hkv : Nat
  nl : Nat
  deriving DecidableEq, Repr

def State.kvCfg (s : State) (g sub : Nat) : Nat := s.cfg (0x3600 + g) sub

/-- KV_GEOMETRY of a context; none while it holds no legal one. -/
def kvGeoOf (v : Nat) : Option KvGeo :=
  match headDim (bitsOf v 0 3), fmtOf (bitsOf v 4 4) with
  | some hd, some f =>
    if (f == .bf16 || isF8 f) && 1 ≤ bitsOf v 8 8 && 1 ≤ bitsOf v 16 8 then
      some { hd := hd, fmt := f, hkv := bitsOf v 8 8, nl := bitsOf v 16 8 }
    else none
  | _, _ => none

def State.kvGeo (s : State) (g : Nat) : Option KvGeo := kvGeoOf (s.kvCfg g 0x34)

/-- Bytes from one token slot to the next (R221). -/
def KvGeo.pitch (k : KvGeo) : Nat := rowPitch k.hd (fmtBits k.fmt)
/-- TP: the largest power of two of slots in half a page. -/
def KvGeo.tp (k : KvGeo) : Nat := 2 ^ (32768 / k.pitch).log2
/-- Pages in a page row (R222). -/
def KvGeo.rowPages (k : KvGeo) : Nat := k.nl * k.hkv
/-- The table-entry index of a position (R222). -/
def KvGeo.entry (k : KvGeo) (t l h : Nat) : Nat := ((t / k.tp) * k.nl + l) * k.hkv + h
def State.frameAddr (s : State) (g n : Nat) : Nat := s.kvCfg g 0x32 + 65536 * n

/-! ### Sequence records (R223) -/

structure SeqRec where
  version : Nat
  length : Nat
  table : Nat
  rows : Nat
  resv : Nat
  st : Nat
  prio : Nat
  held : Nat
  tableA : Nat
  tableB : Nat
  swap : Nat
  cap : Nat
  deriving DecidableEq, Repr

def seqOf (b : Bytes) : SeqRec :=
  { version := fld b 0 4, length := fld b 4 4, table := dAddr b 8, rows := fld b 16 4, resv := fld b 20 4,
    st := fld b 24 1, prio := fld b 26 2, held := fld b 28 4, tableA := dAddr b 32, tableB := dAddr b 40,
    swap := dAddr b 48, cap := fld b 56 4 }

/-- Bytes 0 to 31 of a record. -/
def SeqRec.bytes (r : SeqRec) : Bytes :=
  leBytes 4 r.version ++ leBytes 4 r.length ++ leBytes 8 r.table ++ leBytes 4 r.rows ++ leBytes 4 r.resv ++
    leBytes 1 r.st ++ leBytes 1 0 ++ leBytes 2 r.prio ++ leBytes 4 r.held

def seqIdle : Nat := 0
def seqRunning : Nat := 1
def seqDropped : Nat := 2
def seqSwapped : Nat := 3

/-- VERSION counts every change to LENGTH, ROWS or TABLE. -/
def SeqRec.bump (old r : SeqRec) : SeqRec :=
  if old.length = r.length ∧ old.rows = r.rows ∧ old.table = r.table then r
  else { r with version := (old.version + 1) % 2 ^ 32 }

/-- The buffer a sequence does not use (R226). -/
def SeqRec.other (r : SeqRec) : Nat := if r.table = r.tableA then r.tableB else r.tableA

/-! ### What an edit may meet -/

/-- An edit stops: it waits for a frame or a buffer, or it faults; `left` is the state with the writes made before
an address that failed (R54). -/
inductive KvStop where
  | wait (buffer : Bool)
  | fault (f : Fail) (left : Option State)
  deriving DecidableEq, Repr

abbrev KvM (α : Type) := Except KvStop α

def kvFault {α : Type} (status : Nat) : KvM α := .error (.fault { status := status } none)
def kvLift {α : Type} (s : State) : Except Fail α → KvM α
  | .ok a => .ok a
  | .error e => .error (.fault e (some s))

def stKvEvicted : Nat := 0x40
def stKvDeferred : Nat := 0x41
def stKvReserve : Nat := 0x60
def stKvState : Nat := 0x61
def stKvRange : Nat := 0x62
def stKvMask : Nat := 0x63

/-- Writes that must all be made. -/
def State.kvWrite (s : State) (g va : Nat) (bs : Bytes) : KvM State :=
  match s.writeVa g va bs with
  | (s', none) => .ok s'
  | (s', some e) => .error (.fault e (some s'))

def State.seqAddr (s : State) (g n : Nat) : Nat := s.kvCfg g 0x30 + 64 * n
def State.seqRead (s : State) (g n : Nat) : KvM SeqRec :=
  if n < s.kvCfg g 0x31 then (kvLift s (s.readVa g (s.seqAddr g n) 64)).map seqOf else kvFault stKvState

/-- A record written in one 32-byte write, its VERSION counted. -/
def State.seqWrite (s : State) (g n : Nat) (old r : SeqRec) : KvM State :=
  s.kvWrite g (s.seqAddr g n) (old.bump r).bytes

def State.modKv (s : State) (g : Nat) (f : Kv → Kv) : State := s.modCtx g fun c => { c with kv := f c.kv }

/-! ### Frames (R225) -/

/-- A frame is drained once no walker of an epoch at or below its tag is left. -/
def Kv.drained (k : Kv) (tag : Option Nat) : Bool :=
  match tag with
  | some t => k.walkers.all fun w => t < w.epoch
  | none => true

/-- n frames from the head of the FIFO; an undrained one makes the edit wait. -/
def State.takeFrames (s : State) (g n : Nat) : KvM (List Nat × State) :=
  let k := (s.ctx g).kv
  let fr := k.fifo.take n
  if fr.any fun f => !k.drained f.2 then .error (.wait false)
  else if fr.length < n then kvFault stKvReserve
  else .ok (fr.map (·.1), s.modKv g fun k => { k with fifo := k.fifo.drop n })

/-- The table entries of rows lo to hi - 1. -/
def KvGeo.entryOff (k : KvGeo) (row : Nat) : Nat := 4 * (row * k.rowPages)

/-- Frames written into a sequence's buffer as page rows from `row` on. -/
def State.putFrames (s : State) (g : Nat) (k : KvGeo) (table row : Nat) (frames : List Nat) : KvM State :=
  if frames = [] then .ok s else s.kvWrite g (table + k.entryOff row) (frames.flatMap (leBytes 4 ·))

/-- The frames of page rows lo to hi - 1 of a buffer. -/
def State.getFrames (s : State) (g : Nat) (k : KvGeo) (table lo hi : Nat) : KvM (List Nat) :=
  if hi ≤ lo then .ok []
  else (kvLift s (s.readVa g (table + k.entryOff lo) (4 * ((hi - lo) * k.rowPages)))).map fun bs =>
    (List.range ((hi - lo) * k.rowPages)).map fun i => fld bs (4 * i) 4

/-- One page row after another given to a sequence, each from RESV_ROWS (R243). -/
def State.growRows (s : State) (g n : Nat) (k : KvGeo) (r : SeqRec) : Nat → KvM (State × SeqRec)
  | 0 => .ok (s, r)
  | m + 1 => do
    if r.resv = 0 then kvFault stKvReserve
    else
      let (frames, s) ← s.takeFrames g k.rowPages
      let table := if r.table = 0 then r.tableA else r.table
      let s ← s.putFrames g k table r.rows frames
      let r' := r.bump { r with table := table, rows := r.rows + 1, resv := r.resv - 1 }
      let s ← s.kvWrite g (s.seqAddr g n) r'.bytes
      s.growRows g n k r' m

/-- Detached frames join the tail of the FIFO under the current epoch, which then advances (R225). -/
def State.release (s : State) (g : Nat) (frames : List Nat) : State :=
  s.modKv g fun k =>
    { k with fifo := k.fifo ++ frames.map fun f => (f, some k.epoch), available := k.available + frames.length,
             epoch := k.epoch + 1 }

/-- Whether some walker's snapshot names a buffer of a sequence (R226). -/
def Kv.bufferBusy (k : Kv) (n table : Nat) : Bool := k.walkers.any fun w => w.seqNo == n && w.table == table

/-- A sequence's record changed to `r` with only `keep` page rows left: the retained entries are copied into the other
buffer, the record names it, and the removed frames are released (R225, R226). -/
def State.detach (s : State) (g n : Nat) (k : KvGeo) (old r : SeqRec) (keep : Nat) : KvM State := do
  if old.rows ≤ keep then s.seqWrite g n old r
  else if (s.ctx g).kv.bufferBusy n old.other then .error (.wait true)
  else
    let kept ← s.getFrames g k old.table 0 keep
    let gone ← s.getFrames g k old.table keep old.rows
    let s ← s.putFrames g k old.other 0 kept
    let s ← s.seqWrite g n old { r with table := old.other, rows := keep }
    return s.release g gone

/-- Reserved rows returned (R245, R246). -/
def State.unreserve (s : State) (g : Nat) (k : KvGeo) (rows : Nat) : State :=
  s.modKv g fun v => { v with available := v.available + rows * k.rowPages }

/-! ### KV_APPEND (R243) -/

/-- A list record: SEQ_NO, SRC_ROW0, NTOK. -/
structure AppRec where
  n : Nat
  row0 : Nat
  ntok : Nat
  deriving DecidableEq, Repr

def appRecs (b : Bytes) (count : Nat) : List AppRec :=
  (List.range count).map fun i => { n := fld b (16 * i) 4, row0 := fld b (16 * i + 4) 4, ntok := fld b (16 * i + 8) 4 }

/-- The page rows a record needs beyond those present. -/
def AppRec.need (a : AppRec) (k : KvGeo) (r : SeqRec) : Nat := ceilDiv (r.length + a.ntok) k.tp - r.rows

/-- One record checked before anything is written. -/
def AppRec.check (a : AppRec) (k : KvGeo) (r : SeqRec) (seen : List Nat) : KvM Unit :=
  if r.st ≠ seqRunning ∨ seen.contains a.n then kvFault stKvState
  else if a.ntok = 0 ∨ 16777216 < r.length + a.ntok ∨ r.cap * k.tp < r.length + a.ntok then kvFault stKvRange
  else if r.resv < a.need k r then kvFault stKvReserve
  else .ok ()

def State.appCheck (s : State) (g : Nat) (k : KvGeo) : List AppRec → List Nat → KvM Unit
  | [], _ => .ok ()
  | a :: rest, seen => do
    let r ← s.seqRead g a.n
    a.check k r seen
    s.appCheck g k rest (a.n :: seen)

/-- The bytes of a head's element run in a source row. -/
def headBytes (k : KvGeo) (rows : Bytes) (i h : Nat) : Bytes :=
  slice rows (i * rowPitch (k.hkv * k.hd) (fmtBits k.fmt) + h * k.hd * (fmtBits k.fmt / 8)) (k.hd * (fmtBits k.fmt / 8))

/-- The slot of a position's key (half 0) or value (half 1) in its page. -/
def State.slotAddr (s : State) (g : Nat) (k : KvGeo) (frame t half : Nat) : Nat :=
  s.frameAddr g frame + half * 32768 + (t % k.tp) * k.pitch

/-- The tokens of one record written, position by position and head by head. -/
def State.putTokens (s : State) (g : Nat) (k : KvGeo) (layer : Nat) (r : SeqRec) (keys vals : Bytes) (ntok : Nat) : KvM State :=
  (List.range (ntok * k.hkv)).foldl
    (fun (acc : KvM State) i => do
      let s ← acc
      let t := r.length + i / k.hkv
      let h := i % k.hkv
      let fr ← kvLift s (s.readVa g (r.table + 4 * k.entry t layer h) 4)
      let s ← s.kvWrite g (s.slotAddr g k (fld fr 0 4) t 0) (headBytes k keys (i / k.hkv) h)
      s.kvWrite g (s.slotAddr g k (fld fr 0 4) t 1) (headBytes k vals (i / k.hkv) h)) (.ok s)

/-- One record applied: rows allocated, tokens written, and the length advanced after the writes. -/
def State.appOne (s : State) (g : Nat) (k : KvGeo) (d : Bytes) (a : AppRec) : KvM State := do
  let r ← s.seqRead g a.n
  let pitch := rowPitch (k.hkv * k.hd) (fmtBits k.fmt)
  let keys ← kvLift s (s.readVa g (dAddr d 16 + a.row0 * pitch) (a.ntok * pitch))
  let vals ← kvLift s (s.readVa g (dAddr d 24 + a.row0 * pitch) (a.ntok * pitch))
  let (s, r) ← s.growRows g a.n k r (a.need k r)
  let s ← s.putTokens g k (fld d 44 1) r keys vals a.ntok
  if (fld d 45 1).testBit 0 then s.seqWrite g a.n r { r with length := r.length + a.ntok } else return s

def State.appAll (s : State) (g : Nat) (k : KvGeo) (d : Bytes) : List AppRec → KvM State
  | [] => .ok s
  | a :: rest => do
    let s ← s.appOne g k d a
    s.appAll g k d rest

def State.kvAppend (s : State) (g : Nat) (d : Bytes) : KvM (State × Nat) :=
  match s.kvGeo g with
  | none => kvFault stKvState
  | some k => do
    let lst ← kvLift s (s.readVa g (dAddr d 32) (16 * fld d 40 4))
    let recs := appRecs lst (fld d 40 4)
    s.appCheck g k recs []
    let s ← s.appAll g k d recs
    return (s, stDone)

def kvAppendCheck (geo : Option KvGeo) (d : Bytes) : Bool :=
  dTop d 16 == 0 && dTop d 24 == 0 && dTop d 32 == 0 && 1 ≤ fld d 40 4 && fld d 40 4 ≤ 65536 && fld d 45 1 ≤ 1 &&
  zeroFrom d 46 64 && mult (dAddr d 16) 64 && mult (dAddr d 24) 64 &&
  (match geo with | some k => fld d 44 1 < k.nl | none => false)

/-! ### KV_EDIT and KV_FREE (R244, R245) -/

structure EditRec where
  n : Nat
  arg : Nat
  kind : Nat
  prio : Nat
  deriving DecidableEq, Repr

def editRecs (b : Bytes) (count : Nat) : List EditRec :=
  (List.range count).map fun i =>
    { n := fld b (16 * i) 4, arg := fld b (16 * i + 4) 4, kind := fld b (16 * i + 8) 1, prio := fld b (16 * i + 10) 2 }

def kvEditCheck (d : Bytes) : Bool :=
  dTop d 16 == 0 && 1 ≤ fld d 24 4 && fld d 24 4 ≤ 65536 && fld d 28 1 ≤ 2 && zeroFrom d 29 64

def kvFreeCheck (d : Bytes) : Bool :=
  dTop d 16 == 0 && 1 ≤ fld d 24 4 && fld d 24 4 ≤ 65536 && zeroFrom d 28 64

/-- One TRUNCATE. -/
def State.truncOne (s : State) (g : Nat) (k : KvGeo) (e : EditRec) : KvM State := do
  let r ← s.seqRead g e.n
  if r.st ≠ seqRunning then kvFault stKvState
  else if r.length < e.arg then kvFault stKvRange
  else s.detach g e.n k r { r with length := e.arg } (ceilDiv e.arg k.tp)

/-- One SET_PRIORITY. -/
def State.prioOne (s : State) (g : Nat) (e : EditRec) : KvM State := do
  let r ← s.seqRead g e.n
  s.seqWrite g e.n r { r with prio := e.prio }

/-- A sequence retired: its rows detached, its reservation returned, IDLE (R245). -/
def State.freeOne (s : State) (g n : Nat) (k : KvGeo) : KvM State := do
  let r ← s.seqRead g n
  if r.st = seqIdle then kvFault stKvState
  else
    let s ← s.detach g n k r { r with length := 0, resv := 0, held := 0, st := seqIdle } 0
    return (s.unreserve g k r.resv).modKv g fun v => { v with swaps := v.swaps.filter fun kv => kv.1 != n }

def overList {α : Type} (f : State → α → KvM State) (s : State) (l : List α) : KvM State :=
  l.foldl (fun acc a => acc.bind fun s => f s a) (.ok s)

def State.kvFree (s : State) (g : Nat) (d : Bytes) : KvM (State × Nat) :=
  match s.kvGeo g with
  | none => kvFault stKvState
  | some k => do
    let n := fld d 24 4
    let lst ← kvLift s (s.readVa g (dAddr d 16) (4 * n))
    let s ← overList (fun s q => s.freeOne g q k) s ((List.range n).map fun i => fld lst (4 * i) 4)
    return (s, stDone)

/-! ### The step boundary (R246 to R250) -/

/-- Every sequence record of the context. -/
def State.allSeqs (s : State) (g : Nat) : Nat → KvM (List (Nat × SeqRec))
  | 0 => .ok []
  | n + 1 => do
    let l ← s.allSeqs g n
    let r ← s.seqRead g n
    return l ++ [(n, r)]

/-- The rows a sequence will need: RUN and JOIN (R246, R250). -/
def EditRec.base (e : EditRec) (r : SeqRec) : Nat :=
  if e.kind = 1 then r.length else if r.st = seqIdle then 0 else r.held

/-- The growth limits of R246. -/
def EditRec.rangeOk (e : EditRec) (k : KvGeo) (r : SeqRec) : Bool :=
  e.kind == 0 || (e.base r + e.arg ≤ 16777216 && ceilDiv (e.base r + e.arg) k.tp ≤ r.cap)

/-- Whether a record names its sequence rightly (R246). -/
def EditRec.stateOk (e : EditRec) (r : SeqRec) : Bool :=
  match e.kind with
  | 0 | 1 => r.st == seqRunning
  | 2 => r.st != seqRunning
  | _ => false

def noTwice : List Nat → Bool
  | [] => true
  | a :: rest => !rest.contains a && noTwice rest

/-- The whole list checked before anything changes (R246). -/
def boundaryCheck (k : KvGeo) (seqs : List (Nat × SeqRec)) (recs : List EditRec) : KvM Unit :=
  let recOf (n : Nat) : Option SeqRec := (seqs.find? fun p => p.1 == n).map (·.2)
  let named (n : Nat) : Bool := recs.any fun e => e.n == n && e.kind ≤ 1
  if !noTwice (recs.map (·.n)) then kvFault stKvState
  else if recs.any fun e => match recOf e.n with | some r => !e.stateOk r | none => true then kvFault stKvState
  else if seqs.any fun p => p.2.st == seqRunning && !named p.1 then kvFault stKvState
  else if recs.any fun e => match recOf e.n with | some r => !e.rangeOk k r | none => false then kvFault stKvRange
  else .ok ()

/-- Descending PRIORITY, then ascending SEQ_NO. -/
def before (a b : Nat × Nat) : Bool := b.1 < a.1 || (a.1 == b.1 && a.2 ≤ b.2)

def insertBy (le : Nat × Nat → Nat × Nat → Bool) (key : EditRec → Nat × Nat) (e : EditRec) : List EditRec → List EditRec
  | [] => [e]
  | x :: rest => if le (key e) (key x) then e :: x :: rest else x :: insertBy le key e rest

def sortRecs (key : EditRec → Nat × Nat) (l : List EditRec) : List EditRec := l.foldr (insertBy before key) []

/-- The 96-bit nonce of a swap (R249). -/
def swapNonce (epoch g n k : Nat) : Bytes := beBytes 12 (epoch * 2 ^ 64 + g * 2 ^ 55 + n * 2 ^ 39 + k)
/-- The authenticated data of a swapped page (R249; log 28). -/
def swapAad (epoch g n k : Nat) : Bytes := leBytes 2 g ++ leBytes 2 n ++ leBytes 4 epoch ++ leBytes 5 k

def State.swapKey (s : State) (p : Nat) : BitVec 256 := match (s.part p).keys with | some ks => ks.swap | none => 0

/-- The tag area of a sequence's swap area (R249). -/
def SeqRec.tagArea (r : SeqRec) (k : KvGeo) : Nat := r.swap + 65536 * (r.cap * k.rowPages)

/-- One page swapped out: ciphertext and tag. -/
def State.swapPage (s : State) (g n : Nat) (k : KvGeo) (r : SeqRec) (epoch i frame : Nat) : KvM State := do
  let page ← kvLift s (s.readVa g (s.frameAddr g frame) 65536)
  let ct := gcmSeal (s.swapKey (partOfCtx g)) (swapNonce epoch g n i) (swapAad epoch g n i) page
  let s ← s.kvWrite g (r.swap + 65536 * i) ct.1
  s.kvWrite g (r.tagArea k + 16 * i) ct.2

/-- Every page of a victim written to its swap area. -/
def State.swapOut (s : State) (g n : Nat) (k : KvGeo) (r : SeqRec) (epoch : Nat) : KvM State := do
  let frames ← s.getFrames g k r.table 0 r.rows
  overList (fun s p => s.swapPage g n k r epoch p.1 p.2) s ((List.range frames.length).zip frames)

/-- Whether a victim is swapped rather than dropped (R248). -/
def State.maySwap (s : State) (g : Nat) (r : SeqRec) : Bool :=
  4 ≤ s.dieCount && r.swap != 0 && (s.part (partOfCtx g)).swapEpoch < 2 ^ 32 - 1

/-- A victim leaves: swapped where it may be and the host path holds, else dropped; with its RESULT (R248, R249). -/
def State.evict (s : State) (g n : Nat) (k : KvGeo) : KvM (State × Nat) := do
  let r ← s.seqRead g n
  let gone (st : Nat) : SeqRec := { r with length := 0, resv := 0, held := r.length, st := st }
  if s.maySwap g r then
    let e := (s.part (partOfCtx g)).swapEpoch + 1
    let s1 := s.modPart (partOfCtx g) fun p => { p with swapEpoch := e }
    match s1.swapOut g n k r e with
    | .ok s2 =>
      let s3 ← s2.detach g n k r (gone seqSwapped) 0
      return (s3.modKv g fun v => { v with swaps := mapSet v.swaps n e }, 3)
    | .error (.fault f l) =>
      if f.status = stHostLost then
        let s3 ← s1.detach g n k r (gone seqDropped) 0
        return (s3, 2)
      else .error (.fault f l)
    | .error w => .error w
  else
    let s ← s.detach g n k r (gone seqDropped) 0
    return (s, 2)

/-- The boundary's progress: the state, sequences that hold a reservation, and RESULTs. -/
structure Bound where
  s : State
  done : List Nat := []
  results : List (Nat × Nat) := []
  evicted : Bool := false
  deferred : Bool := false
  deriving DecidableEq, Repr

/-- The victim of R247: lowest PRIORITY, then highest SEQ_NO, of the RUNNING sequences without a reservation. -/
def victimOf (seqs : List (Nat × SeqRec)) (done : List Nat) : Option Nat :=
  let c := seqs.filter fun p => p.2.st == seqRunning && !done.contains p.1
  (c.foldl (fun (b : Option (Nat × SeqRec)) p =>
    match b with
    | none => some p
    | some v => if p.2.prio < v.2.prio || (p.2.prio == v.2.prio && v.1 < p.1) then some p else some v) none).map (·.1)

/-- A need reserved: KV_AVAILABLE falls and RESV_ROWS is set. -/
def Bound.reserve (b : Bound) (g n : Nat) (k : KvGeo) (r : SeqRec) (need : Nat) : KvM Bound := do
  let s ← (b.s.modKv g fun v => { v with available := v.available - need * k.rowPages }).seqWrite g n r { r with resv := need }
  return { b with s := s, done := n :: b.done }

/-- Growth reserved for one RUN, evicting victims until its need fits or it is the victim itself (R247). -/
def Bound.run (b : Bound) (g count : Nat) (k : KvGeo) (e : EditRec) : Nat → KvM Bound
  | 0 => .ok b
  | fuel + 1 => do
    let r ← b.s.seqRead g e.n
    if r.st ≠ seqRunning then return b
    else
      let need := ceilDiv (r.length + e.arg) k.tp - r.rows
      if need * k.rowPages ≤ (b.s.ctx g).kv.available then b.reserve g e.n k r need
      else
        let seqs ← b.s.allSeqs g count
        match victimOf seqs b.done with
        | none => return b
        | some v =>
          let (s, res) ← b.s.evict g v k
          let b := { b with s := s, results := (v, res) :: b.results, evicted := true }
          if v = e.n then return b else b.run g count k e fuel

/-- The pages of a swapped sequence read back and authenticated; none where a tag fails or the host path is lost. -/
def State.swapIn (s : State) (g n : Nat) (k : KvGeo) (r : SeqRec) (epoch count : Nat) : KvM (Option (List Bytes)) :=
  (List.range count).foldl
    (fun (acc : KvM (Option (List Bytes))) i => do
      match ← acc with
      | none => return none
      | some ps =>
        match s.readVa g (r.swap + 65536 * i) 65536, s.readVa g (r.tagArea k + 16 * i) 16 with
        | .ok ct, .ok tag =>
          return (gcmOpen (s.swapKey (partOfCtx g)) (swapNonce epoch g n i) (swapAad epoch g n i) ct tag).map fun p => ps ++ [p]
        | .error e, _ | _, .error e => if e.status = stHostLost then return none else .error (.fault e (some s))) (.ok (some []))

/-- An admitted joiner (R250). -/
def Bound.accept (b : Bound) (g : Nat) (k : KvGeo) (e : EditRec) (r : SeqRec) (need : Nat) : KvM Bound := do
  let s := b.s.modKv g fun v => { v with available := v.available - need * k.rowPages }
  let fresh : SeqRec := { r with length := 0, rows := 0, resv := need, st := seqRunning, prio := e.prio }
  let put (s : State) (res : Nat) : KvM Bound := do
    let s ← s.seqWrite g e.n r fresh
    return { b with s := s, done := e.n :: b.done, results := (e.n, res) :: b.results }
  if r.st = seqIdle then put s 0
  else if r.st = seqDropped then put s 4
  else
    let rows := ceilDiv r.held k.tp
    let pages ← s.swapIn g e.n k r (mapGet 0 (s.ctx g).kv.swaps e.n) (rows * k.rowPages)
    match pages with
    | none => put s 4
    | some ps =>
      let (frames, s) ← s.takeFrames g (rows * k.rowPages)
      let s ← overList (fun s p => s.kvWrite g (s.frameAddr g p.1) p.2) s (frames.zip ps)
      let table := if r.table = 0 then r.tableA else r.table
      let s ← s.putFrames g k table 0 frames
      let s ← s.seqWrite g e.n r
        { fresh with length := r.held, rows := rows, table := if rows = 0 then r.table else table, resv := need - rows }
      return { b with s := s, done := e.n :: b.done, results := (e.n, 5) :: b.results }

/-- JOIN records in their order; from the first that does not fit on, all are deferred (R250). -/
def Bound.joins (b : Bound) (g : Nat) (k : KvGeo) : List EditRec → KvM Bound
  | [] => .ok b
  | e :: rest => do
    let r ← b.s.seqRead g e.n
    let need := ceilDiv (e.base r + e.arg) k.tp
    if b.s.kvCfg g 0x35 + need * k.rowPages ≤ (b.s.ctx g).kv.available then
      let b ← b.accept g k e r need
      b.joins g k rest
    else return { b with deferred := true, results := ((e :: rest).map fun x => (x.n, 1)) ++ b.results }

def Bound.runs (b : Bound) (g count : Nat) (k : KvGeo) : List EditRec → KvM Bound
  | [] => .ok b
  | e :: rest => do
    let b ← b.run g count k e (count + 1)
    b.runs g count k rest

/-- Every RESV_ROWS set to 0 and those rows returned (R246 step 1). -/
def State.clearResv (s : State) (g : Nat) (k : KvGeo) (p : Nat × SeqRec) : KvM State :=
  if p.2.resv = 0 then .ok s
  else do
    let s ← s.seqWrite g p.1 p.2 { p.2 with resv := 0 }
    return s.unreserve g k p.2.resv

/-- The RESULT bytes written into the list; 0 for a record with nothing else to report. -/
def State.putResults (s : State) (g addr : Nat) (recs : List EditRec) (res : List (Nat × Nat)) : KvM State :=
  overList
    (fun s p =>
      let v := ((res.find? fun x => x.1 == p.2.n).map (·.2)).getD 0
      s.kvWrite g (addr + 16 * p.1 + 9) [BitVec.ofNat 8 v]) s ((List.range recs.length).zip recs)

def State.boundary (s : State) (g : Nat) (k : KvGeo) (addr : Nat) (recs : List EditRec) : KvM (State × Nat) := do
  let count := s.kvCfg g 0x31
  let seqs ← s.allSeqs g count
  boundaryCheck k seqs recs
  let prioOf (n : Nat) : Nat := ((seqs.find? fun p => p.1 == n).map (·.2.prio)).getD 0
  let s ← overList (fun s p => s.clearResv g k p) s seqs
  let s ← overList (fun s (e : EditRec) => s.freeOne g e.n k) s (recs.filter (·.kind == 0))
  let b ← ({ s := s } : Bound).runs g count k (sortRecs (fun e => (prioOf e.n, e.n)) (recs.filter (·.kind == 1)))
  let b ← b.joins g k (sortRecs (fun e => (e.prio, e.n)) (recs.filter (·.kind == 2)))
  let s ← b.s.putResults g addr recs b.results
  return (s, if b.evicted then stKvEvicted else if b.deferred then stKvDeferred else stDone)

/-- TRUNCATE and BOUNDARY, which need the geometry (R244, R246). -/
def State.kvEditRows (s : State) (g : Nat) (d : Bytes) (recs : List EditRec) : KvM (State × Nat) :=
  match s.kvGeo g with
  | none => kvFault stKvState
  | some k =>
    if fld d 28 1 = 0 then do
      let s ← overList (fun s e => s.truncOne g k e) s recs
      return (s, stDone)
    else s.boundary g k (dAddr d 16) recs

/-- A KV_EDIT; SET_PRIORITY takes nothing from the geometry (R244). -/
def State.kvEdit (s : State) (g : Nat) (d : Bytes) : KvM (State × Nat) := do
  let n := fld d 24 4
  let lst ← kvLift s (s.readVa g (dAddr d 16) (16 * n))
  let recs := editRecs lst n
  if fld d 28 1 = 1 then
    let s ← overList (fun s e => s.prioOne g e) s recs
    return (s, stDone)
  else s.kvEditRows g d recs

/-! ### Application in order (R224) -/

/-- The operation of a KV descriptor. -/
def State.kvApply (s : State) (g : Nat) (d : Bytes) : KvM (State × Nat) :=
  match dOpcode d with
  | 0x22 => s.kvAppend g d
  | 0x23 => s.kvEdit g d
  | _ => s.kvFree g d

/-- The list of a KV descriptor. -/
def kvList (d : Bytes) : Nat × Nat :=
  match dOpcode d with
  | 0x22 => (dAddr d 32, 16 * fld d 40 4)
  | 0x23 => (dAddr d 16, 16 * fld d 24 4)
  | _ => (dAddr d 16, 4 * fld d 24 4)

/-- The source rows that a KV_APPEND reads of a record (R243). -/
def AppRec.srcRanges (a : AppRec) (k : KvGeo) (d : Bytes) : List (Nat × Nat) :=
  let p := rowPitch (k.hkv * k.hd) (fmtBits k.fmt)
  [(dAddr d 16 + a.row0 * p, a.ntok * p), (dAddr d 24 + a.row0 * p, a.ntok * p)]

/-- What a KV descriptor reads into its core: its list, and the rows it appends (R243 to R245). -/
def State.kvReads (s : State) (g : Nat) (d : Bytes) : List (Nat × Nat) :=
  let l := kvList d
  match s.kvGeo g, s.readVa g l.1 l.2 with
  | some k, .ok b => l :: (if dOpcode d = 0x22 then (appRecs b (fld d 40 4)).flatMap fun a => a.srcRanges k d else [])
  | _, _ => [l]

/-- What a core that has applied a KV descriptor leaves in its hub and in its own store. -/
def State.kvSeen (s' s : State) (g q seq t : Nat) (d : Bytes) : State :=
  (s'.accessed (s.tileDie g q seq t) g (s.kvReads g d) []).leftIn s g q seq t { reads := s.kvReads g d }

/-- The wait of a KV descriptor does not count in its work tile's run time (R339). -/
def State.noteIdle (s : State) (g q seq : Nat) : State :=
  if (s.ctx g).kv.waiting.isNone then s
  else
    let d := s.ctxTime g - (s.ctx g).kv.waitAt
    (s.coresWith fun t => t.g == g && t.q == q && t.seq == seq).foldl
      (fun s c => s.modCore c fun k => { k with idleNs := k.idleNs + d }) s

/-- A KV descriptor applied whole by its one work tile: carried out, left waiting, or faulted with nothing changed. -/
def State.kvDo (s : State) (g q seq t : Nat) (d : Bytes) : State :=
  match s.kvApply g d with
  | .ok (s', st) =>
    ((((s'.kvSeen s g q seq t d).noteIdle g q seq).modKv g fun k => { k with waiting := none, order := k.order.erase (q, seq) }).markTile g q seq t
      []).modRun g q seq fun r => { r with status := st }
  | .error (.wait b) =>
    s.modKv g fun k =>
      { k with
        waiting := some (if b then .buffer q seq else .alloc q seq)
        waitAt := if k.waiting.isSome then k.waitAt else s.ctxTime g }
  | .error (.fault f left) => (left.getD s).failTile g q seq t f.status f.tile

/-- A KV row: the first of the context's started KV descriptors, on a core, while none of them waits. In a FAULTED context the
work tile ends unapplied: its boundary is before the application (R56; DESIGN CHOICE, log 29). -/
def State.kvRow (s : State) (g q seq : Nat) (kind : Run → Bool) : State :=
  match s.gate g q seq kind with
  | some (r, t) =>
    if (s.ctx g).st == .active then
      if (s.ctx g).kv.waiting.isNone && (s.ctx g).kv.order.head? == some (q, seq) then s.kvDo g q seq t r.raw else s
    else s.markTile g q seq t []
  | none => s

/-- A waiting descriptor's operation tried again. -/
def State.kvAgain (s : State) (g q seq : Nat) : State :=
  match s.gate g q seq (fun _ => true) with
  | some (r, t) => if (s.ctx g).st == .active then s.kvDo g q seq t r.raw else s
  | none => s

/-- A waiting edit goes on once what it waits for is there (R225, R226). -/
def State.kvResume (s : State) (g : Nat) (buffer : Bool) : State :=
  match (s.ctx g).kv.waiting with
  | some (.alloc q seq) => if buffer then s else s.kvAgain g q seq
  | some (.buffer q seq) => if buffer then s.kvAgain g q seq else s
  | none => s

def isEdit (op : Nat) (r : Run) : Bool := dOpcode r.raw == 0x23 && fld r.raw 28 1 == op

def execKvAppend (g q seq : Nat) (s : State) : Host.Outcome State Fault Refusal :=
  .next (s.kvRow g q seq (isOp 0x22))
def execKvAllocResume (g : Nat) (s : State) : Host.Outcome State Fault Refusal := .next (s.kvResume g false)
def execKvBufferResume (g : Nat) (s : State) : Host.Outcome State Fault Refusal := .next (s.kvResume g true)
def execTruncate (g q seq : Nat) (s : State) : Host.Outcome State Fault Refusal := .next (s.kvRow g q seq (isEdit 0))
def execSetPriority (g q seq : Nat) (s : State) : Host.Outcome State Fault Refusal := .next (s.kvRow g q seq (isEdit 1))
def execBoundary (g q seq : Nat) (s : State) : Host.Outcome State Fault Refusal := .next (s.kvRow g q seq (isEdit 2))
def execKvFree (g q seq : Nat) (s : State) : Host.Outcome State Fault Refusal :=
  .next (s.kvRow g q seq (isOp 0x24))

end Sys2Proof.Machine
end

