-- ==== Sys2Proof/Machine/Attn.lean ====
section
/-! DEFINITION. Sys2Proof/Machine/Attn.lean: attention forward and backward (R224, R228 to R242). -/
namespace Sys2Proof.Machine

/-! ### The parameter block (R238) -/

structure AttnBody where
  qAddr : Nat
  qExp : Int
  kAddr : Nat
  kExp : Int
  vAddr : Nat
  vExp : Int
  oAddr : Nat
  oExp : Int
  lseAddr : Nat
  batchAddr : Nat
  sumAddr : Nat
  bitAddr : Nat
  doAddr : Nat
  doExp : Int
  dqAddr : Nat
  dkAddr : Nat
  dvAddr : Nat
  scale : F32
  window : Nat
  bitCount : Nat
  nbatch : Nat
  hd : Nat
  paged : Bool
  mask : Nat
  round : Nat
  hq : Nat
  hkv : Nat
  qFmt : Fmt
  kvFmt : Fmt
  oFmt : Fmt
  gFmt : Fmt
  layer : Nat
  tileQ : Nat
  pass : Nat
  tileSeq : Nat
  stream : Nat
  nkb : Nat
  deriving DecidableEq, Repr

def attnBody (b : Bytes) : Option AttnBody :=
  let f := fld b 110 1
  match headDim (f % 8), fmtOf (fld b 113 1 % 16), fmtOf (fld b 113 1 / 16), fmtOf (fld b 114 1 % 16),
      fmtOf (fld b 114 1 / 16) with
  | some hd, some qf, some kf, some of, some gf =>
    some
      { qAddr := dAddr b 0, qExp := dExp b 0, kAddr := dAddr b 8, kExp := dExp b 8, vAddr := dAddr b 16, vExp := dExp b 16
        oAddr := dAddr b 24, oExp := dExp b 24, lseAddr := dAddr b 32, batchAddr := dAddr b 40, sumAddr := dAddr b 48
        bitAddr := dAddr b 56, doAddr := dAddr b 64, doExp := dExp b 64, dqAddr := dAddr b 72, dkAddr := dAddr b 80
        dvAddr := dAddr b 88, scale := BitVec.ofNat 32 (fld b 96 4), window := fld b 100 4, bitCount := fld b 104 4
        nbatch := fld b 108 2 + 1, hd := hd, paged := f.testBit 3, mask := bitsOf f 4 2, round := bitsOf f 6 2
        hq := fld b 111 1, hkv := fld b 112 1, qFmt := qf, kvFmt := kf, oFmt := of, gFmt := gf, layer := fld b 115 1
        tileQ := 8 * (fld b 116 1 % 64 + 1), pass := bitsOf (fld b 116 1) 6 1, tileSeq := fld b 117 1 % 64 + 1
        stream := fld b 120 4, nkb := fld b 124 4 }
  | _, _, _, _, _ => none

/-- Query heads that share a KV head. -/
def AttnBody.grp (a : AttnBody) : Nat := a.hq / a.hkv
/-- P_FMT (R229). -/
def AttnBody.pFmt (a : AttnBody) : Fmt := if a.kvFmt = .bf16 then .bf16 else .f8e4
/-- k of the score and value products (R229, R98). -/
def AttnBody.k (a : AttnBody) : Nat := if a.kvFmt = .bf16 then 4 else 8

def f32Gt0 (v : F32) : Bool := fIsFinite v && fLt fZero v

/-- The mask fields (R238, R240). -/
def AttnBody.maskOk (a : AttnBody) : Bool :=
  (if a.mask = 2 then 1 ≤ a.window && a.window ≤ 16777216 else a.window == 0) &&
  (if a.mask = 3 then a.sumAddr != 0 && a.bitAddr != 0 && a.nkb != 0 else a.sumAddr == 0 && a.bitAddr == 0 && a.nkb == 0)

/-- The rows a descriptor covers: those of queries and outputs, and those of dense keys and values, each as the first
and one past the last. -/
structure AttnRows where
  q0 : Nat
  q1 : Nat
  k0 : Nat
  k1 : Nat
  deriving DecidableEq, Repr

/-- The bytes of rows lo to hi - 1 of a tensor. -/
def rowsRange (addr pitch lo hi : Nat) : Nat × Nat := (addr + lo * pitch, (hi - lo) * pitch)

def AttnBody.qPitch (a : AttnBody) (f : Fmt) : Nat := rowPitch (a.hq * a.hd) (fmtBits f)
def AttnBody.kPitch (a : AttnBody) (f : Fmt) : Nat := rowPitch (a.hkv * a.hd) (fmtBits f)

/-- The operand ranges (R238). -/
def AttnBody.reads (a : AttnBody) (bwd : Bool) (w : AttnRows) : List (Nat × Nat) :=
  [rowsRange a.qAddr (a.qPitch a.qFmt) w.q0 w.q1, (a.batchAddr, 16 * a.nbatch)] ++
  (if a.paged then [] else
    [rowsRange a.kAddr (a.kPitch a.kvFmt) w.k0 w.k1, rowsRange a.vAddr (a.kPitch a.kvFmt) w.k0 w.k1]) ++
  (if a.mask = 3 then [(a.sumAddr, a.nkb * roundUp (4 + ceilDiv a.nkb 4) 64), (a.bitAddr, 512 * a.bitCount)] else []) ++
  (if bwd then
    [rowsRange a.oAddr (a.qPitch a.oFmt) w.q0 w.q1, rowsRange a.doAddr (a.qPitch a.oFmt) w.q0 w.q1,
     rowsRange a.lseAddr (8 * a.hq) w.q0 w.q1] else [])

/-- The result ranges. -/
def AttnBody.results (a : AttnBody) (bwd : Bool) (w : AttnRows) : List (Nat × Nat) :=
  if !bwd then [rowsRange a.oAddr (a.qPitch a.oFmt) w.q0 w.q1, rowsRange a.lseAddr (8 * a.hq) w.q0 w.q1]
  else if a.pass = 0 then
    [rowsRange a.dkAddr (a.kPitch a.gFmt) w.k0 w.k1, rowsRange a.dvAddr (a.kPitch a.gFmt) w.k0 w.k1]
  else [rowsRange a.dqAddr (a.qPitch a.gFmt) w.q0 w.q1]

/-- Results overlap neither operands nor one another (R240). -/
def AttnBody.rangesOk (a : AttnBody) (bwd : Bool) (w : AttnRows) : Bool :=
  !((a.results bwd w).any fun r => (a.reads bwd w).any (overlap r)) && !anyOverlap (a.results bwd w)

/-- Which rows a descriptor covers stands in its batch entries, which are read when it starts; at validation its first row
stands for them (DEDUCED from R239 and R240, log 87). -/
def firstRows : AttnRows := { q0 := 0, q1 := 1, k0 := 0, k1 := 1 }

def AttnBody.ok (a : AttnBody) (bwd : Bool) (geo : Option KvGeo) : Bool :=
  ((a.qFmt == .bf16 && a.kvFmt == .bf16) || (isF8 a.qFmt && isF8 a.kvFmt)) && isResultFmt a.oFmt &&
  (if bwd then a.gFmt == .fp32 || a.gFmt == .bf16 else a.gFmt == .fp32) &&
  expOk a.qFmt a.qExp && expOk a.kvFmt a.kExp && expOk a.kvFmt a.vExp && expOk a.oFmt a.oExp && expOk a.oFmt a.doExp &&
  f32Gt0 a.scale && roundOk a.round a.stream && 1 ≤ a.hkv && 1 ≤ a.hq && mult a.hq a.hkv && a.tileQ * a.grp ≤ 512 &&
  a.maskOk && !(bwd && a.paged) &&
  (if a.paged then
     a.kAddr == 0 && a.vAddr == 0 &&
       (match geo with | some k => k.hd == a.hd && k.hkv == a.hkv && k.fmt == a.kvFmt && a.layer < k.nl | none => false)
   else a.layer == 0) &&
  [a.qAddr, a.kAddr, a.vAddr, a.oAddr, a.lseAddr, a.batchAddr, a.sumAddr, a.bitAddr, a.doAddr, a.dqAddr, a.dkAddr,
    a.dvAddr].all (mult · 64) && a.rangesOk bwd firstRows

def attnZeros (b : Bytes) : Bool :=
  [32, 40, 48, 56, 72, 80, 88].all (fun o => dTop b o == 0) && fld b 116 1 < 128 && fld b 117 1 < 64 && zeroFrom b 118 120

/-- Check 4 of R54 for an attention parameter block (R238, R240). -/
def attnCheck (bwd : Bool) (geo : Option KvGeo) (b : Bytes) : Bool :=
  match attnBody b with
  | some a => a.ok bwd geo && attnZeros b
  | none => false

/-! ### Batch entries and work tiles (R236, R237, R239) -/

structure AttnEntry where
  first : Nat
  qRow0 : Nat
  nq : Nat
  kt : Nat
  deriving DecidableEq, Repr

def entriesOf (bs : Bytes) (n : Nat) : List AttnEntry :=
  (List.range n).map fun i =>
    { first := fld bs (16 * i) 4, qRow0 := fld bs (16 * i + 4) 4, nq := fld bs (16 * i + 8) 4, kt := fld bs (16 * i + 12) 4 }

/-- Upper bounds of the buckets 0 to 14 (R236). -/
def bucketTops : List Nat := [64, 90, 128, 181, 256, 362, 512, 724, 1024, 1448, 2048, 2896, 4096, 5792, 8192]

def bucketOf (kt : Nat) : Nat := (bucketTops.filter (· < kt)).length

/-- The entries with queries, sorted stably by bucket. -/
def sortedEntries (es : List AttnEntry) : List AttnEntry :=
  (List.range 16).flatMap fun b => es.filter fun e => bucketOf e.kt == b && e.nq != 0

/-- A run of an entry's queries: n from query r0 on. -/
structure AttnPart where
  e : AttnEntry
  r0 : Nat
  n : Nat
  deriving DecidableEq, Repr

def AttnEntry.all (e : AttnEntry) : AttnPart := { e := e, r0 := 0, n := e.nq }
def AttnPart.rows (p : AttnPart) : List Nat := (List.range p.n).map (p.r0 + ·)

/-- The blocks of TILE_Q queries of an entry. -/
def AttnEntry.blocks (e : AttnEntry) (tileQ : Nat) : List AttnPart :=
  (List.range (ceilDiv e.nq tileQ)).map fun b => { e := e, r0 := (blockAt b tileQ e.nq).1, n := (blockAt b tileQ e.nq).2 }

/-- The work tiles of one KV head, each as the queries it runs; a long entry makes one per block of queries. -/
def tilesOfHead (tileQ tileSeq : Nat) : Nat → List AttnEntry → List (List AttnPart)
  | 0, _ => []
  | _, [] => []
  | fuel + 1, e :: rest =>
    if tileQ < e.nq then (e.blocks tileQ).map (fun p => [p]) ++ tilesOfHead tileQ tileSeq fuel rest
    else
      let n := ((rest.takeWhile fun x => x.nq ≤ tileQ && bucketOf x.kt == bucketOf e.kt).take (tileSeq - 1)).length
      (e :: rest.take n).map AttnEntry.all :: tilesOfHead tileQ tileSeq fuel (rest.drop n)

/-- The work tiles of one KV head, along L (R237). -/
def AttnBody.headTiles (a : AttnBody) (es : List AttnEntry) : List (List AttnPart) :=
  tilesOfHead a.tileQ a.tileSeq es.length (sortedEntries es)

/-- The KV head and the queries of work tile t of a forward (R237). -/
def AttnBody.fwdTile (a : AttnBody) (es : List AttnEntry) (t : Nat) : Nat × List AttnPart :=
  let one := a.headTiles es
  (t / one.length, nth [] one (t % one.length))

/-- The blocks of one KV head of an ATTN_BWD, along L: key blocks in PASS 0, blocks of queries in PASS 1 (R237, R241). -/
def AttnBody.bwdBlocks (a : AttnBody) (es : List AttnEntry) : List (AttnEntry × Nat) :=
  (sortedEntries es).flatMap fun e =>
    (List.range (if a.pass = 0 then ceilDiv e.kt 64 else ceilDiv e.nq a.tileQ)).map fun b => (e, b)

def State.attnEntries (s : State) (g : Nat) (a : AttnBody) : Except Fail (List AttnEntry) :=
  (s.readVa g a.batchAddr (16 * a.nbatch)).map fun bs => entriesOf bs a.nbatch

/-- The least and one past the greatest of some runs (first, count). -/
def spanOf (l : List (Nat × Nat)) : Nat × Nat :=
  match l.filter (·.2 != 0) with
  | [] => (0, 0)
  | a :: rest => rest.foldl (fun x y => (min x.1 y.1, max x.2 (y.1 + y.2))) (a.1, a.1 + a.2)

/-- The rows that a descriptor's entries cover. -/
def rowsOf (es : List AttnEntry) : AttnRows :=
  let q := spanOf (es.map fun e => (e.qRow0, e.nq))
  let k := spanOf (es.map fun e => (e.first, e.kt))
  { q0 := q.1, q1 := q.2, k0 := k.1, k1 := k.2 }

/-- How many work tiles an attention has; ranges that its entries make overlap fail it here (R240). -/
def State.attnTiles (s : State) (g : Nat) (bwd : Bool) (blk : Bytes) : Except Fail Nat :=
  match attnBody blk with
  | some a => do
    let es ← s.attnEntries g a
    if a.rangesOk bwd (rowsOf es) then
      return a.hkv * (if bwd then (a.bwdBlocks es).length else (a.headTiles es).length)
    else .error { status := stBadField }
  | none => .ok 0

/-- The sequences whose snapshot work tile t of an ATTN_FWD takes (R224). -/
def State.attnSeqs (s : State) (g : Nat) (blk : Bytes) (t : Nat) : List Nat :=
  match attnBody blk with
  | some a =>
    if a.paged then
      match s.attnEntries g a with
      | .ok es => (a.fwdTile es t).2.map (·.e.first)
      | .error _ => []
    else []
  | none => []

/-! ### Masks (R233 to R235) -/

/-- The summary and the bitmaps of a BITMAP mask. -/
structure MaskData where
  nkb : Nat := 0
  summary : Bytes := []
  bitmaps : Bytes := []
  deriving DecidableEq, Repr

def MaskData.pitch (m : MaskData) : Nat := roundUp (4 + ceilDiv m.nkb 4) 64

/-- The summary code of a block; SKIP beyond the summary. -/
def MaskData.code (m : MaskData) (r c : Nat) : Nat :=
  if r < m.nkb ∧ c < m.nkb then bitsOf (fld m.summary (r * m.pitch + 4 + c / 4) 1) (2 * (c % 4)) 2 else 0

/-- The bitmap number of a block of code 2. -/
def MaskData.bitmap (m : MaskData) (r c : Nat) : Nat :=
  fld m.summary (r * m.pitch) 4 + ((List.range c).filter fun x => m.code r x == 2).length

/-- Whether the key at j is visible to the query at i (R233). -/
def AttnBody.visible (a : AttnBody) (m : MaskData) (kt : Nat) (i : Int) (j : Nat) : Bool :=
  j < kt &&
    match a.mask with
    | 0 => true
    | 1 => (j : Int) ≤ i
    | 2 => i - a.window < j && (j : Int) ≤ i
    | _ =>
      if i < 0 then false
      else
        let r := i.toNat / 64
        match m.code r (j / 64) with
        | 0 => false
        | 1 => true
        | 2 => (fld m.bitmaps (512 * m.bitmap r (j / 64) + 8 * (i.toNat % 64)) 8).testBit (j % 64)
        | _ => (j : Int) ≤ i

/-- The position of query r of an entry. -/
def AttnEntry.pos (e : AttnEntry) (r : Nat) : Int := (e.kt : Int) - e.nq + r

/-- Whether some block that queries and keys of an entry meet has a bitmap beyond BITMAP_COUNT (R235). -/
def AttnBody.maskBad (a : AttnBody) (m : MaskData) (p : AttnPart) (kbs : List Nat) : Bool :=
  a.mask == 3 &&
    p.rows.any fun r =>
      0 ≤ p.e.pos r && kbs.any fun c =>
        m.code ((p.e.pos r).toNat / 64) c == 2 && a.bitCount ≤ m.bitmap ((p.e.pos r).toNat / 64) c

def State.maskData (s : State) (g : Nat) (a : AttnBody) : Except Fail MaskData := do
  if a.mask = 3 then
    let m : MaskData := { nkb := a.nkb }
    let sm ← s.readVa g a.sumAddr (a.nkb * m.pitch)
    let bm ← s.readVa g a.bitAddr (512 * a.bitCount)
    return { m with summary := sm, bitmaps := bm }
  else return {}

/-! ### Operands of an entry -/

/-- One key block of one KV head: rows of keys and values from key 64 * kb on, and the column its head starts at. -/
structure KeyBlock where
  keys : Loaded
  vals : Loaded
  col : Nat
  seen : Bool
  deriving DecidableEq, Repr

def KeyBlock.reads (k : KeyBlock) : List (Nat × Nat) := k.keys.reads ++ k.vals.reads

/-- Whether some query of a run sees a key of a block. -/
def AttnBody.blockSeen (a : AttnBody) (m : MaskData) (p : AttnPart) (kb : Nat) : Bool :=
  p.rows.any fun r => (List.range 64).any fun x => a.visible m p.e.kt (p.e.pos r) (64 * kb + x)

/-- What a work tile keeps of a sequence record (R224). -/
structure Snapshot where
  table : Nat
  rows : Nat
  st : Nat
  deriving DecidableEq, Repr

/-- The page frame that holds a key block of a head, by the snapshot's table. -/
def State.blockFrame (s : State) (g : Nat) (k : KvGeo) (a : AttnBody) (table kb h : Nat) : Except Fail Nat :=
  (s.readVa g (table + 4 * k.entry (64 * kb) a.layer h) 4).map fun b => fld b 0 4

/-- A key block read; one that no query sees is not read (R234). -/
def State.keyBlock (s : State) (g : Nat) (a : AttnBody) (m : MaskData) (p : AttnPart) (snap : Option (KvGeo × Snapshot))
    (h kb : Nat) : Except Fail KeyBlock := do
  let n := min 64 (p.e.kt - 64 * kb)
  let seen := a.blockSeen m p kb
  match snap with
  | none =>
    let arr (addr : Nat) (x : Int) : Arr :=
      { addr := addr + (p.e.first + 64 * kb) * a.kPitch a.kvFmt, rows := n, cols := a.hkv * a.hd, fmt := a.kvFmt, exp := x }
    let bx : Box := { r0 := 0, n := n, c0 := h * a.hd, w := a.hd }
    let ks ← s.loadIf g seen (arr a.kAddr a.kExp) bx
    let vs ← s.loadIf g seen (arr a.vAddr a.vExp) bx
    return { keys := ks, vals := vs, col := h * a.hd, seen := seen }
  | some (k, r) =>
    let f ← if seen then s.blockFrame g k a r.table kb h else .ok 0
    let arr (half : Nat) (x : Int) : Arr :=
      { addr := s.slotAddr g k f (64 * kb) half, rows := n, cols := a.hd, fmt := a.kvFmt, exp := x }
    let ks ← s.loadIf g seen (arr 0 a.kExp) (arr 0 a.kExp).whole
    let vs ← s.loadIf g seen (arr 1 a.vExp) (arr 1 a.vExp).whole
    return { keys := ks, vals := vs, col := 0, seen := seen }

/-- Some key blocks of an entry for one KV head, by number. -/
def State.keyBlocks (s : State) (g : Nat) (a : AttnBody) (m : MaskData) (p : AttnPart) (snap : Option (KvGeo × Snapshot))
    (h : Nat) (kbs : List Nat) : Except Fail (SMap KeyBlock) :=
  (collect (s.keyBlock g a m p snap h) kbs).map fun l => kbs.zip l

/-- The key blocks of an entry. -/
def AttnEntry.keyBlocks (e : AttnEntry) : List Nat := List.range (ceilDiv e.kt 64)

/-- The stored rows of an entry's queries, outputs or gradients, by query. -/
def AttnBody.rowsArr (a : AttnBody) (e : AttnEntry) (addr : Nat) (f : Fmt) (x : Int) : Arr :=
  { addr := addr + e.qRow0 * a.qPitch f, rows := e.nq, cols := a.hq * a.hd, fmt := f, exp := x }

/-- The box of a run of queries in the columns of KV head h. -/
def AttnBody.headBox (a : AttnBody) (p : AttnPart) (h : Nat) : Box :=
  { r0 := p.r0, n := p.n, c0 := h * a.grp * a.hd, w := a.grp * a.hd }

/-- The sequence record a work tile reads through: the snapshot it registered when it started (R224); the record as it stands
where it could not be read then. -/
def State.snapOf (s : State) (g : Nat) (ws : List Walker) (n : Nat) : Except Fail Snapshot :=
  match ws.find? fun w => w.seqNo == n with
  | some w => .ok { table := w.table, rows := w.rows, st := w.st }
  | none => (s.readVa g (s.seqAddr g n) 64).map fun b => { table := (seqOf b).table, rows := (seqOf b).rows, st := (seqOf b).st }

/-- A paged entry's snapshot, or its fault (R239). -/
def State.snapshot (s : State) (g : Nat) (a : AttnBody) (ws : List Walker) (e : AttnEntry) :
    Except Fail (Option (KvGeo × Snapshot)) := do
  if a.paged then
    match s.kvGeo g with
    | none => .error { status := stKvState }
    | some k =>
      if s.kvCfg g 0x31 ≤ e.first then .error { status := stKvState }
      else
        let r ← s.snapOf g ws e.first
        if r.st ≠ seqRunning then .error { status := stKvState }
        else if e.kt < e.nq ∨ r.rows * k.tp < e.kt then .error { status := stKvRange }
        else return some (k, r)
  else return none

/-! ### Forward (R229 to R231) -/

/-- The score of a query row and head against key x of a block. -/
def AttnBody.score (a : AttnBody) (q : Loaded) (r head : Nat) (b : KeyBlock) (x : Nat) : F32 :=
  let term (d : Nat) : FVal := exactMul (q.at r (head * a.hd + d)) (b.keys.at x (b.col + d))
  match gemmSum a.k 0 a.hd term (.f32 fZero) with
  | .f32 v => v
  | _ => fZero

/-- The constant of SCALE_LOG2, as the FP32 value nearest 1.44269504: R230 does not say whether the decimal is rounded to FP32
before the product (DESIGN CHOICE, log 99). -/
def cLog2e : F32 := 0x3FB8AA3B

def AttnBody.scaleLog2 (a : AttnBody) : F32 := fMul a.scale cLog2e

/-- The running state of a row: maximum, sum, output, and whether a visible t was not finite. -/
structure Soft where
  m : F32 := fNegInf
  l : F32 := fZero
  o : List F32
  bad : Bool := false
  deriving DecidableEq, Repr

/-- A probability as it enters the value product. -/
def AttnBody.pIn (a : AttnBody) (p : F32) : FVal := decode a.pFmt (encodeFloat a.pFmt .rne (f32Val p))

/-- One key block of the online softmax (R230). `ts` holds the scaled score of each visible key. -/
def AttnBody.softBlock (a : AttnBody) (st : Soft) (b : KeyBlock) (ts : List (Option F32)) : Soft :=
  if ts.all (·.isNone) then st
  else
    let mn := fMax st.m (treeMax (ts.map fun t => t.getD fNegInf))
    let al := sfuExp2 (fSub st.m mn)
    let p := ts.map fun t => match t with | some v => sfuExp2 (fSub v mn) | none => fZero
    let pv (d : Nat) : F32 :=
      let term (x : Nat) : FVal :=
        match nth none ts x with
        | some _ => exactMul (a.pIn (nth fZero p x)) (b.vals.at x (b.col + d))
        | none => .fin false 0 0
      match gemmSum a.k 0 64 term (.f32 fZero) with
      | .f32 v => v
      | _ => fZero
    { m := mn
      l := fFma st.l al (treeSum p)
      o := (List.range a.hd).map fun d => fFma (nth fZero st.o d) al (pv d)
      bad := st.bad || ts.any fun t => match t with | some v => !fIsFinite v | none => false }

/-- A row's output values, LSE and flags. -/
structure RowOut where
  o : List F32
  lse : F32
  flags : Nat
  deriving DecidableEq, Repr

def AttnBody.row (a : AttnBody) (m : MaskData) (e : AttnEntry) (q : Loaded) (bs : SMap KeyBlock) (r head : Nat) : RowOut :=
  let zero : List F32 := List.replicate a.hd fZero
  let st := bs.foldl
    (fun st kb =>
      a.softBlock st kb.2 ((List.range 64).map fun x =>
        if a.visible m e.kt (e.pos r) (64 * kb.1 + x) then some (fMul (a.score q r head kb.2 x) a.scaleLog2) else none))
    ({ o := zero } : Soft)
  if st.bad then { o := List.replicate a.hd fNan, lse := fNan, flags := 2 }
  else if st.m = fNegInf then { o := zero, lse := fNegInf, flags := 1 }
  else
    let inv := sfuRecip st.l
    { o := st.o.map fun v => fMul v inv, lse := fAdd st.m (sfuLog2 st.l), flags := 0 }

/-- The writes of a run of queries in one KV head: its columns of the output rows, and their LSE records. -/
def State.attnRows (s : State) (g : Nat) (a : AttnBody) (p : AttnPart) (h : Nat) (rows : Nat → Nat → RowOut) :
    List (Nat × Bytes) :=
  let heads := (List.range a.grp).map (h * a.grp + ·)
  let outs := p.rows.map fun r => heads.map (rows r)
  let o : Arr := { addr := a.oAddr, rows := p.e.qRow0 + p.e.nq, cols := a.hq * a.hd, fmt := a.oFmt, exp := a.oExp }
  let row0 := p.e.qRow0 + p.r0
  let v (i c : Nat) : FVal :=
    f32Val (nth fZero (nth { o := [], lse := fZero, flags := 0 } (nth [] outs (i - row0)) (c / a.hd - h * a.grp)).o (c % a.hd))
  o.boxWrites (s.rounder g a.round a.stream) v { a.headBox p h with r0 := row0 } ++
    ((List.range p.n).zip outs).map fun x =>
      (a.lseAddr + 8 * ((row0 + x.1) * a.hq + h * a.grp), x.2.flatMap fun o => leBytes 4 o.lse.toNat ++ leBytes 4 o.flags)

/-- A run of queries of an entry against its keys, in one KV head. -/
def State.attnFwdPart (s : State) (g : Nat) (a : AttnBody) (ws : List Walker) (m : MaskData) (h : Nat) (p : AttnPart) :
    Except Fail Work := do
  let snap ← s.snapshot g a ws p.e
  if a.maskBad m p p.e.keyBlocks then .error { status := stKvMask }
  else
    let q ← s.loadIf g true (a.rowsArr p.e a.qAddr a.qFmt a.qExp) (a.headBox p h)
    let blocks ← s.keyBlocks g a m p snap h p.e.keyBlocks
    return { reads := q.reads ++ blocks.flatMap fun x => x.2.reads, writes := s.attnRows g a p h (a.row m p.e q blocks) }

/-- Work tile t of an ATTN_FWD, its entries in turn. -/
def State.attnFwdTry (s : State) (g : Nat) (a : AttnBody) (ws : List Walker) (t : Nat) : Except Fail Work := do
  let es ← s.attnEntries g a
  let m ← s.maskData g a
  let w := a.fwdTile es t
  let l ← collect (s.attnFwdPart g a ws m w.1) w.2
  return { reads := l.flatMap (·.reads), writes := l.flatMap (·.writes) }

/-! ### Backward (R241, R242) -/

/-- What the backward reads of one entry in one KV head: rows by query, LSE records of the whole entry, key blocks by
number. -/
structure BwdIn where
  q : Loaded
  o : Loaded
  go : Loaded
  lse : Bytes
  blocks : SMap KeyBlock
  deriving DecidableEq, Repr

def BwdIn.reads (b : BwdIn) : List (Nat × Nat) :=
  b.q.reads ++ b.o.reads ++ b.go.reads ++ b.blocks.flatMap fun x => x.2.reads
def BwdIn.flags (b : BwdIn) (hq r head : Nat) : Nat := fld b.lse (8 * (r * hq + head) + 4) 4
def BwdIn.lseOf (b : BwdIn) (hq r head : Nat) : F32 := BitVec.ofNat 32 (fld b.lse (8 * (r * hq + head)) 4)

/-- D of a row and head. -/
def AttnBody.dotD (a : AttnBody) (b : BwdIn) (r head : Nat) : F32 :=
  treeSum ((List.range a.hd).map fun d => fMul (b.go.f32 r (head * a.hd + d)) (b.o.f32 r (head * a.hd + d)))

/-- k of a backward product (R140). -/
def bwdKOf (x w : Fmt) : Nat := (bwdK x w).getD 4

/-- p and ds of a visible pair (R241). -/
def AttnBody.pair (a : AttnBody) (b : BwdIn) (r head j : Nat) : F32 × F32 :=
  let blk := mapGet { keys := b.q, vals := b.q, col := 0, seen := false } b.blocks (j / 64)
  let sc := a.score b.q r head blk (j % 64)
  let p := sfuExp2 (fSub (fMul sc a.scaleLog2) (b.lseOf a.hq r head))
  let term (d : Nat) : FVal :=
    exactMul (cubeIn a.oFmt (b.go.at r (head * a.hd + d))) (cubeIn a.kvFmt (blk.vals.at (j % 64) (blk.col + d)))
  let dp := match gemmSum (bwdKOf a.oFmt a.kvFmt) 0 a.hd term (.f32 fZero) with | .f32 v => v | _ => fZero
  (p, fMul (fMul p (fSub dp (a.dotD b r head))) a.scale)

def gemmF32 (k n : Nat) (term : Nat → FVal) : F32 :=
  match gemmSum k 0 n term (.f32 fZero) with
  | .f32 v => v
  | _ => fZero

/-- Element d of the gradient row of key j and KV head h: dV from p and dO, dK from ds and Q. -/
def AttnBody.keyGrad (a : AttnBody) (m : MaskData) (e : AttnEntry) (b : BwdIn) (value : Bool) (j h d : Nat) : F32 :=
  let head (n : Nat) : Nat := h * a.grp + n % a.grp
  let sees (n : Nat) : Bool := a.visible m e.kt (e.pos (n / a.grp)) j
  let total := e.nq * a.grp
  if (List.range total).any fun n => sees n && (b.flags a.hq (n / a.grp) (head n)).testBit 1 then fNan
  else
    let term (n : Nat) : FVal :=
      if !sees n || (b.flags a.hq (n / a.grp) (head n)).testBit 0 then .fin false 0 0
      else
        let pd := a.pair b (n / a.grp) (head n) j
        if value then exactMul (a.pIn pd.1) (cubeIn a.oFmt (b.go.at (n / a.grp) (head n * a.hd + d)))
        else exactMul (a.pIn pd.2) (b.q.at (n / a.grp) (head n * a.hd + d))
    gemmF32 (bwdKOf a.pFmt (if value then a.oFmt else a.qFmt)) total term

/-- Element d of dQ of a row and head. -/
def AttnBody.queryGrad (a : AttnBody) (m : MaskData) (e : AttnEntry) (b : BwdIn) (r head d : Nat) : F32 :=
  let fl := b.flags a.hq r head
  if fl.testBit 1 then fNan
  else if fl.testBit 0 then fZero
  else
    gemmF32 (bwdKOf a.pFmt a.kvFmt) e.kt fun j =>
      if a.visible m e.kt (e.pos r) j then
        let blk := mapGet { keys := b.q, vals := b.q, col := 0, seen := false } b.blocks (j / 64)
        exactMul (a.pIn (a.pair b r head j).2) (blk.keys.at (j % 64) (blk.col + d))
      else .fin false 0 0

/-- The writes of a box of a gradient tensor, in G_FMT under ROUND. -/
def State.gradBox (s : State) (g : Nat) (a : AttnBody) (addr cols : Nat) (bx : Box) (v : Nat → Nat → F32) : List (Nat × Bytes) :=
  ({ addr := addr, rows := bx.r0 + bx.n, cols := cols, fmt := a.gFmt } : Arr).boxWrites (s.rounder g a.round a.stream)
    (fun i c => f32Val (v (i - bx.r0) c)) bx

/-- What a work tile of the backward reads: rows of a run of queries, and some key blocks, in one KV head. -/
def State.bwdIn (s : State) (g : Nat) (a : AttnBody) (m : MaskData) (p : AttnPart) (h : Nat) (kbs : List Nat) :
    Except Fail BwdIn := do
  let e := p.e
  let q ← s.loadIf g true (a.rowsArr e a.qAddr a.qFmt a.qExp) (a.headBox p h)
  let o ← s.loadIf g true (a.rowsArr e a.oAddr a.oFmt a.oExp) (a.headBox p h)
  let go ← s.loadIf g true (a.rowsArr e a.doAddr a.oFmt a.doExp) (a.headBox p h)
  let lse ← s.readVa g (a.lseAddr + 8 * (e.qRow0 * a.hq)) (8 * (e.nq * a.hq))
  let blocks ← s.keyBlocks g a m p none h kbs
  return { q := q, o := o, go := go, lse := lse, blocks := blocks }

/-- Work tile of PASS 0: key block kb of an entry in one KV head. -/
def State.keyTile (s : State) (g : Nat) (a : AttnBody) (m : MaskData) (h : Nat) (e : AttnEntry) (kb : Nat) : Except Fail Work := do
  if a.maskBad m e.all [kb] then .error { status := stKvMask }
  else
    let b ← s.bwdIn g a m e.all h [kb]
    let k := blockAt kb 64 e.kt
    let bx : Box := { r0 := e.first + k.1, n := k.2, c0 := h * a.hd, w := a.hd }
    let grad (value : Bool) (r c : Nat) : F32 := a.keyGrad m e b value (k.1 + r) h (c % a.hd)
    return { reads := b.reads, writes := s.gradBox g a a.dvAddr (a.hkv * a.hd) bx (grad true) ++ s.gradBox g a a.dkAddr (a.hkv * a.hd) bx (grad false) }

/-- Work tile of PASS 1: block qb of TILE_Q queries of an entry in one KV head. -/
def State.queryTile (s : State) (g : Nat) (a : AttnBody) (m : MaskData) (h : Nat) (e : AttnEntry) (qb : Nat) : Except Fail Work := do
  let p := nth e.all (e.blocks a.tileQ) qb
  if a.maskBad m p e.keyBlocks then .error { status := stKvMask }
  else
    let b ← s.bwdIn g a m p h e.keyBlocks
    let bx : Box := { a.headBox p h with r0 := e.qRow0 + p.r0 }
    return { reads := b.reads, writes := s.gradBox g a a.dqAddr (a.hq * a.hd) bx fun r c => a.queryGrad m e b (p.r0 + r) (c / a.hd) (c % a.hd) }

/-- Work tile t of an ATTN_BWD: for each KV head in ascending order, the blocks of each entry (R237, R241). -/
def State.attnBwdTry (s : State) (g : Nat) (a : AttnBody) (t : Nat) : Except Fail Work := do
  let es ← s.attnEntries g a
  let m ← s.maskData g a
  let one := a.bwdBlocks es
  match one[t % one.length]? with
  | some (e, b) => if a.pass = 0 then s.keyTile g a m (t / one.length) e b else s.queryTile g a m (t / one.length) e b
  | none => return {}

def State.attnWork (s : State) (g : Nat) (bwd : Bool) (blk : Bytes) (ws : List Walker) (t : Nat) : Work :=
  match attnBody blk with
  | some a => workOf (if bwd then s.attnBwdTry g a t else s.attnFwdTry g a ws t)
  | none => { status := stBadField }

/-- The snapshots a work tile has registered. -/
def State.walkersOf (s : State) (g q seq t : Nat) : List Walker :=
  (s.ctx g).kv.walkers.filter fun w => w.q == q && w.seq == seq && w.tile == t

def execAttnFwd (g q seq : Nat) (s : State) : Host.Outcome State Fault Refusal :=
  .next (s.dataRow g q seq (isOp 0x20) fun r t => s.attnWork g false r.block (s.walkersOf g q seq t) t)
def execAttnBwd (g q seq : Nat) (s : State) : Host.Outcome State Fault Refusal :=
  .next (s.dataRow g q seq (isOp 0x21) fun r t => s.attnWork g true r.block [] t)

end Sys2Proof.Machine
end

