-- ==== Sys2Proof/Machine/Conv.lean ====
section
/-! DEFINITION. Sys2Proof/Machine/Conv.lean: convolution, pooling and crop-and-resize (R198 to R218). -/
namespace Sys2Proof.Machine

/-! ### Positions (R198, R199) -/

/-- One spatial dimension: input and output size, kernel, stride, dilation and pads. -/
structure Dim where
  i : Nat
  k : Nat
  s : Nat
  l : Nat
  pl : Nat
  ph : Nat
  deriving DecidableEq, Repr

/-- Whether the numerator of R199 is not negative. -/
def Dim.fits (d : Dim) : Bool := d.l * (d.k - 1) + 1 ≤ d.i + d.pl + d.ph

/-- The output size of R199. -/
def Dim.o (d : Dim) : Nat := (d.i + d.pl + d.ph - d.l * (d.k - 1) - 1) / d.s + 1

/-- The input coordinate tap k of output coordinate o reads, where it is in the image. -/
def Dim.reads (d : Dim) (o k : Nat) : Option Nat :=
  let v := o * d.s + k * d.l
  if d.pl ≤ v ∧ v - d.pl < d.i then some (v - d.pl) else none

/-- The output coordinate that reads input coordinate i at tap k (R205). -/
def Dim.readBy (d : Dim) (i k : Nat) : Option Nat :=
  let v := i + d.pl
  if k * d.l ≤ v ∧ (v - k * d.l) % d.s = 0 ∧ (v - k * d.l) / d.s < d.o then some ((v - k * d.l) / d.s) else none

/-- The three dimensions and the batch. -/
structure Geo where
  b : Nat
  d : Dim
  h : Dim
  w : Dim
  deriving DecidableEq, Repr

def Geo.taps (g : Geo) : Nat := g.d.k * g.h.k * g.w.k
def Geo.inRows (g : Geo) : Nat := g.b * g.d.i * g.h.i * g.w.i
def Geo.outRows (g : Geo) : Nat := g.b * g.d.o * g.h.o * g.w.o

/-- The index of a position and its parts (R198). -/
def posIndex (nd nh nw b d h w : Nat) : Nat := ((b * nd + d) * nh + h) * nw + w

/-- The input position that tap t of output position m reads; none for a pad position. -/
def Geo.inPos (g : Geo) (m t : Nat) : Option Nat := do
  let d ← g.d.reads (m / (g.w.o * g.h.o) % g.d.o) (t / (g.w.k * g.h.k))
  let h ← g.h.reads (m / g.w.o % g.h.o) (t / g.w.k % g.h.k)
  let w ← g.w.reads (m % g.w.o) (t % g.w.k)
  return posIndex g.d.i g.h.i g.w.i (m / (g.w.o * g.h.o * g.d.o)) d h w

/-- The output position whose tap t reads input position i (R205). -/
def Geo.outPos (g : Geo) (i t : Nat) : Option Nat := do
  let d ← g.d.readBy (i / (g.w.i * g.h.i) % g.d.i) (t / (g.w.k * g.h.k))
  let h ← g.h.readBy (i / g.w.i % g.h.i) (t / g.w.k % g.h.k)
  let w ← g.w.readBy (i % g.w.i) (t % g.w.k)
  return posIndex g.d.o g.h.o g.w.o (i / (g.w.i * g.h.i * g.d.i)) d h w

/-! ### The parameter block (R201) -/

structure ConvBody where
  geo : Geo
  mode : Nat
  preload : Nat
  ci : Nat
  co : Nat
  x : Arr
  w : Arr
  y : Arr
  p : Arr
  aux : Nat
  pad : F32
  acc : Fmt
  tileM : Nat
  tileNb : Nat
  halo : Bool
  progress : Bool
  deriv : Nat
  progressCtr : Nat
  haloCtr : Nat
  srcTileM : Nat
  op : Nat
  cpg : Nat
  round : Nat
  stream : Nat
  slice : Nat
  deriving DecidableEq, Repr

/-- Whether a descriptor is the CONV_DW of R211. -/
def isDw (d : Bytes) : Bool := dOpcode d == 0x19

/-- One dimension of the block, n = 0, 1, 2 for D, H, W. -/
def convDim (b : Bytes) (n : Nat) : Dim :=
  { i := fld b (50 + 2 * n) 2, k := fld b (56 + n) 1, s := fld b (64 + 2 * n) 2, l := fld b (70 + 2 * n) 2,
    pl := fld b (76 + 2 * n) 2, ph := fld b (82 + 2 * n) 2 }

/-- The block's fields. `dw` says that the descriptor is a CONV_DW: a kernel row then holds one group's channels. -/
def convBody (dw : Bool) (b : Bytes) : Option ConvBody :=
  let geo : Geo := { b := fld b 44 2, d := convDim b 0, h := convDim b 1, w := convDim b 2 }
  let mode := bitsOf (fld b 24 8) 59 2
  let ci := fld b 46 2
  let co := fld b 48 2
  let cpg := 2 ^ (fld b 93 1 % 8)
  let kin := geo.taps * (if dw then cpg else ci)
  match fmtOf (fld b 59 1 % 16), fmtOf (fld b 59 1 / 16), fmtOf (fld b 60 1 % 16), fmtOf (fld b 60 1 / 16),
      fmtOf (fld b 63 1 / 16) with
  | some xf, some wf, some yf, some af, some pf =>
    some
      { geo := geo, mode := mode, preload := bitsOf (fld b 24 8) 57 2, ci := ci, co := co
        x := { addr := dAddr b 0, rows := if mode = 1 then geo.outRows else geo.inRows,
               cols := if mode = 1 then co else ci, fmt := xf, exp := dExp b 0 }
        w := { addr := dAddr b 8, rows := co, cols := kin, fmt := wf, exp := dExp b 8 }
        y := { addr := dAddr b 16, rows := if mode = 0 then geo.outRows else if mode = 1 then geo.inRows else co,
               cols := if mode = 0 then co else if mode = 1 then ci else kin, fmt := yf, exp := dExp b 16 }
        p := { addr := dAddr b 32, rows := geo.inRows, cols := ci, fmt := pf, exp := dExp b 32 }
        aux := dAddr b 24, pad := BitVec.ofNat 32 (fld b 40 4), acc := af
        tileM := 8 * (fld b 61 1 / 4 + 1), tileNb := fld b 62 1 % 32 + 1
        halo := (fld b 62 1).testBit 5, progress := (fld b 62 1).testBit 6, deriv := fld b 63 1 % 16
        progressCtr := fld b 88 2, haloCtr := fld b 90 2, srcTileM := 8 * (fld b 92 1 + 1)
        op := fld b 93 1 / 16, cpg := cpg, round := fld b 61 1 % 4, stream := fld b 96 4, slice := fld b 100 4 }
  | _, _, _, _, _ => none

/-- dy at AUX_ADDR in MODE 2, and the forward input there in a MAX_POOL of MODE 1: in W_FMT (log 26). -/
def ConvBody.auxArr (c : ConvBody) : Arr :=
  if c.mode = 2 then { addr := c.aux, rows := c.geo.outRows, cols := c.co, fmt := c.w.fmt, exp := c.w.exp }
  else { addr := c.aux, rows := c.geo.inRows, cols := c.ci, fmt := c.w.fmt, exp := c.w.exp }

/-- Positions in a partial, partials, and their stride (R205, R147). -/
def ConvBody.sliceRows (c : ConvBody) : Nat := 256 * c.slice
def ConvBody.slices (c : ConvBody) : Nat := if c.mode = 2 then ceilDiv c.geo.outRows c.sliceRows else 1
def ConvBody.stride (c : ConvBody) : Nat := roundUp c.y.elemBytes 4096

/-- Whether AUX holds an operand of its own: dy of MODE 2, or a pool's forward input. -/
def ConvBody.auxOperand (c : ConvBody) (dw : Bool) : Bool := c.mode == 2 || (dw && c.op == 1 && c.mode == 1)

def ConvBody.yRange (c : ConvBody) : Nat × Nat :=
  if c.mode = 2 then (c.y.addr, (c.slices - 1) * c.stride + c.y.elemBytes) else c.y.range

def ConvBody.auxRange (c : ConvBody) (dw : Bool) : Nat × Nat :=
  if c.auxOperand dw then c.auxArr.range
  else
    match c.preload with
    | 0 => (0, 0)
    | 1 => (c.aux, 4 * c.y.cols)
    | _ => (c.aux, c.y.elemBytes)

def ConvBody.hasW (c : ConvBody) (dw : Bool) : Bool := c.mode != 2 && !(dw && c.op != 0)

/-- The operand pair's rule (R202, R211). -/
def ConvBody.pairOk (c : ConvBody) (dw : Bool) : Bool :=
  if dw then isResultFmt c.x.fmt && isResultFmt c.w.fmt
  else
    match c.mode with
    | 0 => (modeK c.x.fmt c.w.fmt).isSome
    | 1 => (bwdK c.x.fmt c.w.fmt).isSome
    | _ => (bwdK c.w.fmt c.x.fmt).isSome && !isWFmt c.x.fmt

/-- ACC_FMT and Y_FMT (R109, R201, R211; log 27). -/
def ConvBody.resultOk (c : ConvBody) (dw : Bool) : Bool :=
  if dw then c.acc == .fp32 && (if c.mode = 2 then c.y.fmt == .fp32 else isResultFmt c.y.fmt)
  else if c.mode = 2 then c.acc == .fp32 && c.y.fmt == .fp32
  else accOk (c.x.fmt == .int8 && c.mode == 0) c.acc && resOk (c.x.fmt == .int8 && c.mode == 0) c.y.fmt

/-- PAD_VALUE is finite and a BF16 value; a MAX_POOL may pad with -infinity (R202, R213). -/
def ConvBody.padOk (c : ConvBody) (dw : Bool) : Bool :=
  (fIsFinite c.pad && c.pad.toNat % 65536 == 0) || (dw && c.op == 1 && c.pad == fNegInf)

def Dim.ok (d : Dim) : Bool := 1 ≤ d.i && 1 ≤ d.k && 1 ≤ d.s && 1 ≤ d.l && d.fits

def ConvBody.sizesOk (c : ConvBody) (dw : Bool) : Bool :=
  c.geo.d.ok && c.geo.h.ok && c.geo.w.ok && 1 ≤ c.geo.b && 1 ≤ c.ci && 1 ≤ c.co &&
  c.geo.inRows ≤ 2 ^ 40 && c.geo.outRows ≤ 2 ^ 40 && c.geo.taps * c.ci ≤ 16777215 &&
  (dw || c.tileNb * c.tileM * 64 * accBytes c.acc ≤ 524288) && (!dw || (c.tileNb == 1 && c.co == c.ci && mult c.ci c.cpg))

/-- The fields that belong to a mode or an operation (R201, R202, R205, R213). -/
def ConvBody.modeOk (c : ConvBody) (dw : Bool) : Bool :=
  c.mode ≤ 2 && c.preload ≤ 2 && (c.mode == 0 || (!c.halo && !c.progress)) && (c.mode != 2 || c.preload == 0) &&
  (c.auxOperand dw || c.preload != 0 || c.aux == 0) && !(c.acc == .int32 && c.preload != 0) &&
  (c.mode == 1 || c.deriv == 0) && c.deriv ≤ 7 && isResultFmt c.p.fmt &&
  (if c.mode = 2 then 1 ≤ c.slice else c.slice == 0) && (if dw then c.op ≤ 3 && c.cpg ≤ 16 && (c.op == 0 || (c.cpg == 1 && c.preload == 0 && c.mode != 2))
   else c.op == 0 && c.cpg == 1)

/-- Exponents and row rules (R202). -/
def ConvBody.scalesOk (c : ConvBody) (dw : Bool) : Bool :=
  expOk c.x.fmt c.x.exp && expOk c.w.fmt c.w.exp && expOk c.p.fmt c.p.exp && expOk c.y.fmt c.y.exp &&
  c.x.rowOk && (!(isBlockFmt c.x.fmt || isBlockFmt c.w.fmt) || mult c.ci 32) && (!c.hasW dw || c.w.rowOk) &&
  (!c.auxOperand dw || c.auxArr.rowOk)

/-- Overlaps (R202, R109). -/
def ConvBody.rangesOk (c : ConvBody) (dw : Bool) : Bool :=
  let w := rangeIf (c.hasW dw) c.w.range
  let p := rangeIf (c.deriv != 0) c.p.range
  let a := c.auxRange dw
  [c.x.addr, c.w.addr, c.y.addr, c.aux, c.p.addr].all (mult · 64) &&
  !anyOverlap [c.x.range, w, c.yRange, p] && !overlap a c.x.range && !overlap a w && !overlap a p &&
  (!overlap a c.yRange || (c.preload == 2 && !c.auxOperand dw && c.aux == c.y.addr))

/-- Reserved fields, and the fields that are 0 where a mode or an operation does not use them (R201). -/
def convZeros (dw : Bool) (b : Bytes) (c : ConvBody) : Bool :=
  (c.deriv != 0 || zeroFrom b 32 40) && (c.hasW dw || dAddr b 8 == 0) && (!(dw && c.op != 0) || zeroFrom b 8 16) &&
  bitsOf (fld b 24 8) 61 3 == 0 && fld b 62 1 < 128 && c.progressCtr < 4096 && c.haloCtr < 4096 && fld b 92 1 < 64 &&
  (c.halo || (c.haloCtr == 0 && fld b 92 1 == 0)) && !(fld b 93 1).testBit 3 && zeroFrom b 94 96 && zeroFrom b 104 128 &&
  roundOk c.round c.stream

/-- Check 4 of R54 for a convolution parameter block (R200 to R202). -/
def convCheck (dw : Bool) (b : Bytes) : Bool :=
  match convBody dw b with
  | none => false
  | some c =>
    c.sizesOk dw && c.pairOk dw && c.resultOk dw && c.padOk dw && c.modeOk dw && c.scalesOk dw && c.rangesOk dw &&
    convZeros dw b c && (dw || fld b 93 1 == 0)

/-! ### Work tiles and halo (R206, R210) -/

def ConvBody.rowBlocks (c : ConvBody) : Nat := ceilDiv c.y.rows c.tileM
/-- Column groups: of CONV_DW, 256 channels each (R206). -/
def ConvBody.groups (c : ConvBody) (dw : Bool) : Nat := if dw then ceilDiv c.co 256 else ceilDiv c.y.cols (64 * c.tileNb)

def convTiles (dw : Bool) (b : Bytes) : Nat :=
  match convBody dw b with
  | some c => c.slices * (c.rowBlocks * c.groups dw)
  | none => 0

/-- The columns of column group k. The kernel gradient of a CONV_DW has more columns than channels: its last group takes
all that are left (DESIGN CHOICE, log 86). -/
def ConvBody.groupCols (c : ConvBody) (dw : Bool) (k : Nat) : Nat × Nat :=
  let x := blockAt k (if dw then 256 else 64 * c.tileNb) c.y.cols
  if k + 1 = c.groups dw then (x.1, c.y.cols - x.1) else x

/-- The slice of work tile t and the box of the result that it covers (R206, R107). -/
def ConvBody.box (c : ConvBody) (dw : Bool) (t : Nat) : Nat × Box :=
  let per := c.rowBlocks * c.groups dw
  let w := t % per
  let r := blockAt (w / c.groups dw) c.tileM c.y.rows
  let k := c.groupCols dw (w % c.groups dw)
  (t / per, { r0 := r.1, n := r.2, c0 := k.1, w := k.2 })

/-- The largest in-image input position that the taps of output positions m0 to m0 + n - 1 read, plus 1. -/
def Geo.reach (g : Geo) (m0 n : Nat) : Nat :=
  (List.range n).foldl
    (fun a i => (List.range g.taps).foldl (fun a t => match g.inPos (m0 + i) t with | some p => max a (p + 1) | none => a) a)
    0

/-- The producer's watermark that work tile w needs; 0 for none (R210). -/
def convNeeds (dw : Bool) (b : Bytes) (w : Nat) : Nat :=
  match convBody dw b with
  | some c =>
    if c.halo then
      let m0 := w / c.groups dw * c.tileM
      ceilDiv (c.geo.reach m0 (min c.tileM (c.y.rows - m0))) c.srcTileM
    else 0
  | none => 0

/-! ### Convolution as a GEMM (R203 to R205) -/

/-- Whether a value is an integer. -/
def isIntegral : FVal → Bool
  | .fin _ m e => 0 ≤ e || m % 2 ^ (-e).toNat == 0
  | _ => false

/-- A term PAD_VALUE * w, unscaled by any scale of x (R204). An INT8 operation has no product of a PAD_VALUE that is
no integer: the spec states none (log 25). -/
def padTerm (int : Bool) (pad : F32) (w : FVal) : FVal :=
  if int && !isIntegral (f32Val pad) then
    let k := Config.padProduct pad (intOf w)
    .fin (k < 0) k.natAbs 0
  else exactMul (f32Val pad) w

/-- A masked position: exactly zero (R110). -/
def masked : FVal := .fin false 0 0

/-- The term of MODE 0 and 2 at a tap: the in-image element, the pad term, or masked (R204, R205). -/
def ConvBody.tapTerm (c : ConvBody) (x : Loaded) (pos : Option Nat) (ch : Nat) (wf : Fmt) (w : FVal) : FVal :=
  match pos with
  | some i => exactMul (cubeIn c.x.fmt (x.at i ch)) (cubeIn wf w)
  | none =>
    if isZero (f32Val c.pad) then masked else padTerm (c.x.fmt == .int8 && c.mode == 0) c.pad (cubeIn wf w)

/-- The inner positions of a mode. -/
def ConvBody.inner (c : ConvBody) : Nat := c.geo.taps * (if c.mode = 1 then c.co else c.ci)

/-- The result element (i, j) of CONV in MODE 0 and 1, before its derivative. -/
def ConvBody.element (c : ConvBody) (x w : Loaded) (a0 : Acc) (i j : Nat) : Acc :=
  let term (e : Nat) : FVal :=
    if c.mode = 0 then c.tapTerm x (c.geo.inPos i (e / c.ci)) (e % c.ci) c.w.fmt (w.at j e)
    else
      match c.geo.outPos i (e / c.co) with
      | some o => exactMul (cubeIn c.x.fmt (x.at o (e % c.co))) (cubeIn c.w.fmt (w.at (e % c.co) (e / c.co * c.ci + j)))
      | none => masked
  if c.mode = 0 ∧ c.x.fmt = .int8 then gemmInt 0 c.inner term a0
  else
    gemmSum ((if c.mode = 0 then modeK c.x.fmt c.w.fmt else bwdK c.x.fmt c.w.fmt).getD 4) 0 c.inner term a0

/-- The kernel gradient of (co, t, ci) over partial p (R205, MODE 2). -/
def ConvBody.kernelGrad (c : ConvBody) (x dy : Loaded) (p i j : Nat) : FVal :=
  let term (m : Nat) : FVal := c.tapTerm x (c.geo.inPos m (j / c.ci)) (j % c.ci) c.w.fmt (dy.at m i)
  let lo := p * c.sliceRows
  accVal (gemmSum ((bwdK c.w.fmt c.x.fmt).getD 4) lo (min c.geo.outRows (lo + c.sliceRows)) term (.f32 fZero))

/-- The k of a mode's operand pair. -/
def ConvBody.k (c : ConvBody) : Nat :=
  (match c.mode with | 0 => modeK c.x.fmt c.w.fmt | 1 => bwdK c.x.fmt c.w.fmt | _ => bwdK c.w.fmt c.x.fmt).getD 4

/-- The product of a work tile of MODE 0 or 1: the kernel in the weight blocks (R203). -/
def ConvBody.product (c : ConvBody) (x w : Loaded) (pre : Preload) (bx : Box) : Product :=
  { k := c.k, inner := c.inner, tileM := c.tileM, bytes := accBytes c.acc, offset := 0, box := bx
    weight := fun e j => if c.mode = 0 then w.gridAt c.k j e else w.gridAt c.k (e % c.co) (e / c.co * c.ci + j)
    value := fun i j => c.element x w (pre.init c.acc i j) i j }

/-- The product of a work tile of MODE 2: the input, or its pad, in the weight blocks. -/
def ConvBody.gradProduct (c : ConvBody) (x dy : Loaded) (sl lo n : Nat) (bx : Box) : Product :=
  { k := c.k, inner := n, tileM := c.tileM, bytes := 4, offset := 0, box := bx
    weight := fun e j =>
      match c.geo.inPos (lo + e) (j / c.ci) with
      | some i => x.gridAt c.k i (j % c.ci)
      | none => gridElem c.k .bf16 (c.pad.toNat / 65536) 0 (f32Val c.pad)
    value := fun i j => .f32 (f32Of (c.kernelGrad x dy sl i j)) }

/-! ### CONV_DW (R211 to R214) -/

/-- One fused multiply-add of R212; a masked term leaves acc unchanged. -/
def dwStep (acc : F32) (t : Option (F32 × F32)) : F32 :=
  match t with
  | some (a, w) => fFma a w acc
  | none => acc

/-- The pad's factor, masked when it is +0 or -0. -/
def ConvBody.dwTap (c : ConvBody) (x : Loaded) (pos : Option Nat) (ch : Nat) : Option F32 :=
  match pos with
  | some i => some (x.f32 i ch)
  | none => if isZero (f32Val c.pad) then none else some c.pad

/-- A CONV_DW element of OP 0 in MODE 0 and 1. -/
def ConvBody.dwElement (c : ConvBody) (x w : Loaded) (a0 : F32) (i j : Nat) : F32 :=
  let g0 := j / c.cpg * c.cpg
  (List.range (c.geo.taps * c.cpg)).foldl
    (fun acc e =>
      let t := e / c.cpg
      let k := e % c.cpg
      dwStep acc
        (if c.mode = 0 then (c.dwTap x (c.geo.inPos i t) (g0 + k)).map fun a => (a, w.f32 j e)
         else (c.geo.outPos i t).map fun o => (x.f32 o (g0 + k), w.f32 (g0 + k) (t * c.cpg + (j - g0))))) a0

/-- A kernel-gradient element of CONV_DW over partial p. -/
def ConvBody.dwGrad (c : ConvBody) (x dy : Loaded) (p i j : Nat) : F32 :=
  let lo := p * c.sliceRows
  (List.range (min c.geo.outRows (lo + c.sliceRows) - lo)).foldl
    (fun acc m => dwStep acc
      ((c.dwTap x (c.geo.inPos (lo + m) (j / c.cpg)) (i / c.cpg * c.cpg + j % c.cpg)).map fun a => (a, dy.f32 (lo + m) i)))
    fZero

/-- The value of a pooling tap: pad taps take PAD_VALUE. -/
def ConvBody.poolTap (c : ConvBody) (x : Loaded) (m t ch : Nat) : F32 :=
  match c.geo.inPos m t with
  | some i => x.f32 i ch
  | none => c.pad

/-- The maximum of an output and the tap it came from (R213). -/
def ConvBody.poolMax (c : ConvBody) (x : Loaded) (m ch : Nat) : F32 × Nat :=
  let r := (List.range c.geo.taps).foldl
    (fun r t => if t = 0 then c.poolTap x m 0 ch else fMax r (c.poolTap x m t ch)) fZero
  let hit (t : Nat) : Bool :=
    let v := c.poolTap x m t ch
    if fIsNan r then fIsNan v else !fIsNan v && !fLt v r && !fLt r v
  (r, ((List.range c.geo.taps).find? hit).getD 0)

/-- The in-image taps of an output. -/
def ConvBody.inTaps (c : ConvBody) (m : Nat) : Nat :=
  ((List.range c.geo.taps).filter fun t => (c.geo.inPos m t).isSome).length

/-- A pooled element of MODE 0 (R213). -/
def ConvBody.pool (c : ConvBody) (x : Loaded) (m ch : Nat) : F32 :=
  match c.op with
  | 1 => f32Of (f32Val (c.poolMax x m ch).1)
  | 2 =>
    let n := c.inTaps m
    let s := (List.range c.geo.taps).foldl
      (fun s t => match c.geo.inPos m t with | some i => fAdd s (x.f32 i ch) | none => s) fZero
    if n = 0 then fZero else fMul s (sfuRecip (fNat n))
  | _ =>
    let s := (List.range c.geo.taps).foldl (fun s t => fAdd s (c.poolTap x m t ch)) fZero
    fMul s (sfuRecip (fNat c.geo.taps))

/-- The gradient of a pooled input position (R214). -/
def ConvBody.poolGrad (c : ConvBody) (dy fwd : Loaded) (i ch : Nat) : F32 :=
  (List.range c.geo.taps).foldl
    (fun s t =>
      match c.geo.outPos i t with
      | none => s
      | some o =>
        match c.op with
        | 1 => if (c.poolMax fwd o ch).2 = t then fAdd s (dy.f32 o ch) else s
        | 2 => fAdd s (fMul (dy.f32 o ch) (sfuRecip (fNat (c.inTaps o))))
        | _ => fAdd s (fMul (dy.f32 o ch) (sfuRecip (fNat c.geo.taps)))) fZero

/-! ### The commands' work -/

/-- The element (i, j) of the result as its drain converts it: MODE 0 and 1. -/
def ConvBody.result (c : ConvBody) (dw : Bool) (x w aux p : Loaded) (pre : Preload) (i j : Nat) : FVal :=
  let acc := pre.init c.acc i j
  let v : FVal :=
    if dw then
      if c.op = 0 then f32Val (c.dwElement x w (f32Of (accVal acc)) i j)
      else if c.mode = 0 then f32Val (c.pool x i j)
      else f32Val (c.poolGrad x aux i j)
    else accVal (c.element x w acc i j)
  if c.deriv = 0 then v else f32Val (derivMul c.deriv (f32Of v) (p.f32 i j))

/-- The input positions that the taps of some output positions read, and the output positions that read some inputs. -/
def Geo.readFrom (g : Geo) (ms : List Nat) : List Nat := sortedSet (ms.flatMap fun m => (List.range g.taps).filterMap (g.inPos m))
def Geo.readInto (g : Geo) (is : List Nat) : List Nat := sortedSet (is.flatMap fun i => (List.range g.taps).filterMap (g.outPos i))

/-- The columns of the primary input that a box of the result needs: all of them, of CONV_DW its own channels. -/
def ConvBody.xCols (c : ConvBody) (dw : Bool) (bx : Box) : Nat × Nat := if dw then (bx.c0, bx.w) else (0, c.x.cols)

/-- The kernel rows and columns that a box of the result needs. -/
def State.convW (s : State) (g : Nat) (dw : Bool) (c : ConvBody) (bx : Box) : Except Fail Loaded :=
  if !c.hasW dw then .ok { arr := c.w }
  else if c.mode = 0 || dw then s.loadRows g c.w bx.c0 bx.w
  else s.loadArr g c.w

/-- A work tile of MODE 0 or 1: of the primary input it reads the positions its taps need (R208). -/
def State.convBox (s : State) (g : Nat) (dw : Bool) (c : ConvBody) (bx : Box) : Except Fail Work := do
  let xc := c.xCols dw bx
  let ms := if c.mode = 0 then c.geo.readFrom bx.rows else c.geo.readInto bx.rows
  let x ← s.loadSet g c.x xc.1 xc.2 ms
  let w ← s.convW g dw c bx
  let aux ← if c.auxOperand dw then s.loadSet g c.auxArr bx.c0 bx.w (c.geo.readFrom ms) else .ok { arr := c.auxArr }
  let pre ← s.preloadOf g c.preload c.aux c.y bx
  let p ← s.loadIf g (c.deriv != 0) c.p bx
  return { reads := x.reads ++ w.reads ++ aux.reads ++ p.reads
           writes := c.y.boxWrites (s.rounder g c.round c.stream) (c.result dw x w aux p pre) bx
           left := if dw then {} else (c.product x w pre bx).left }

/-- A work tile of MODE 2: a box of the partial of a slice. -/
def State.convGrad (s : State) (g : Nat) (dw : Bool) (c : ConvBody) (sl : Nat) (bx : Box) : Except Fail Work := do
  let m := blockAt sl c.sliceRows c.geo.outRows
  let ms := (List.range m.2).map (m.1 + ·)
  let x ← s.loadSet g c.x 0 c.x.cols (c.geo.readFrom ms)
  let dy ← s.loadSet g c.auxArr bx.r0 bx.n ms
  let v (i j : Nat) : FVal := if dw then f32Val (c.dwGrad x dy sl i j) else c.kernelGrad x dy sl i j
  return { reads := x.reads ++ dy.reads
           writes := ({ c.y with addr := c.y.addr + sl * c.stride } : Arr).boxWrites (fun _ => .rne) v bx
           left := if dw then {} else (c.gradProduct x dy sl m.1 m.2 bx).left }

/-- Work tile t of a CONV or CONV_DW. -/
def State.convTry (s : State) (g : Nat) (dw : Bool) (c : ConvBody) (t : Nat) : Except Fail Work :=
  if c.mode = 2 then s.convGrad g dw c (c.box dw t).1 (c.box dw t).2 else s.convBox g dw c (c.box dw t).2

def State.convWork (s : State) (g : Nat) (dw : Bool) (blk : Bytes) (t : Nat) : Work :=
  match convBody dw blk with
  | some c => workOf (s.convTry g dw c t)
  | none => { status := stBadField }

/-- A work tile of a CONV or CONV_DW whose block is of a kind. -/
def State.convRow (s : State) (g q seq : Nat) (dw : Bool) (kind : Bytes → Bool) : State :=
  s.dataRow g q seq (fun r => isOp (if dw then 0x19 else 0x18) r && kind r.block) fun r t => s.convWork g dw r.block t

def convMode (b : Bytes) : Nat := bitsOf (fld b 24 8) 59 2
def convOp (b : Bytes) : Nat := fld b 93 1 / 16

/-! ### CROP (R215 to R217) -/

structure CropBody where
  x : Arr
  box : Nat
  y : Arr
  ih : Nat
  iw : Nat
  batch : Nat
  boxes : Nat
  oh : Nat
  ow : Nat
  round : Nat
  extra : F32
  stream : Nat
  deriving DecidableEq, Repr

def cropBody (d : Bytes) : Option CropBody :=
  let ih := fld d 40 2
  let iw := fld d 42 2
  let c := fld d 44 2
  let batch := fld d 46 2
  let n := fld d 48 2 + 1
  let oh := fld d 50 1 + 1
  let ow := fld d 51 1 + 1
  match fmtOf (fld d 52 1 % 16), fmtOf (fld d 52 1 / 16) with
  | some xf, some yf =>
    some
      { x := { addr := dAddr d 16, rows := batch * ih * iw, cols := c, fmt := xf, exp := dExp d 16 }
        box := dAddr d 24
        y := { addr := dAddr d 32, rows := n * oh * ow, cols := c, fmt := yf, exp := dExp d 32 }
        ih := ih, iw := iw, batch := batch, boxes := n, oh := oh, ow := ow
        round := fld d 53 1, extra := BitVec.ofNat 32 (fld d 54 4), stream := fld d 58 4 }
  | _, _ => none

def cropCheck (d : Bytes) : Bool :=
  match cropBody d with
  | none => false
  | some b =>
    1 ≤ b.ih && 1 ≤ b.iw && 1 ≤ b.x.cols && 1 ≤ b.batch && b.oh ≤ 64 && b.ow ≤ 64 && roundOk b.round b.stream &&
    isResultFmt b.x.fmt && isResultFmt b.y.fmt && expOk b.x.fmt b.x.exp && expOk b.y.fmt b.y.exp && dTop d 24 == 0 && zeroFrom d 62 64 &&
    mult b.x.addr 64 && mult b.box 64 && mult b.y.addr 64 &&
    !anyOverlap [b.x.range, (b.box, 32 * b.boxes), b.y.range]

def cropTiles (d : Bytes) : Nat := ceilDiv (fld d 48 2 + 1) 8

/-- The FP32 word k of a box record. -/
def boxF (boxes : Bytes) (n k : Nat) : F32 := BitVec.ofNat 32 (fld boxes (32 * n + 4 * k) 4)

/-- A sample coordinate (R217). -/
def cropCoord (n : Nat) (lo hi : F32) (r : Nat) : F32 :=
  if n = 1 then fMul (fAdd lo hi) fHalf else fFma (fNat r) (fMul (fSub hi lo) (sfuRecip (fNat (n - 1)))) lo

/-- The floor of a coordinate within [0, n - 1]; none outside, and for a NaN. -/
def coordFloor (v : F32) (n : Nat) : Option Nat :=
  match f32Val v with
  | .fin neg m e =>
    let k := roundUnits .rtz m e 0
    if m = 0 then some 0
    else if neg || fLt (fNat (n - 1)) v then none
    else some k
  | _ => none

/-- One sample in one channel; `v` reads an image value by row, column (R217). -/
def cropSample (ih iw : Nat) (extra y x : F32) (v : Nat → Nat → F32) : F32 :=
  match coordFloor y ih, coordFloor x iw with
  | some yl, some xl =>
    let yh := min (yl + 1) (ih - 1)
    let xh := min (xl + 1) (iw - 1)
    let fy := fSub y (fNat yl)
    let fx := fSub x (fNat xl)
    let top := fFma fx (fSub (v yl xh) (v yl xl)) (v yl xl)
    let bot := fFma fx (fSub (v yh xh) (v yh xl)) (v yh xl)
    fFma fy (fSub bot top) top
  | _, _ => extra

/-- The coordinates of the sample of row i of the result, and its image. -/
def CropBody.coord (b : CropBody) (boxes : Bytes) (i : Nat) : F32 × F32 :=
  let n := i / (b.oh * b.ow)
  (cropCoord b.oh (boxF boxes n 0) (boxF boxes n 2) (i / b.ow % b.oh),
    cropCoord b.ow (boxF boxes n 1) (boxF boxes n 3) (i % b.ow))

def CropBody.image (b : CropBody) (boxes : Bytes) (i : Nat) : Nat := fld boxes (32 * (i / (b.oh * b.ow)) + 16) 4

/-- The stored rows that a sample reads: four, or none outside the image. -/
def CropBody.reads (b : CropBody) (boxes : Bytes) (i : Nat) : List Nat :=
  let c := b.coord boxes i
  match coordFloor c.1 b.ih, coordFloor c.2 b.iw with
  | some yl, some xl =>
    [yl, min (yl + 1) (b.ih - 1)].flatMap fun y =>
      [xl, min (xl + 1) (b.iw - 1)].map fun x => (b.image boxes i * b.ih + y) * b.iw + x
  | _, _ => []

def CropBody.element (b : CropBody) (x : Loaded) (boxes : Bytes) (i c : Nat) : F32 :=
  let p := b.coord boxes i
  cropSample b.ih b.iw b.extra p.1 p.2 fun r k => x.f32 ((b.image boxes i * b.ih + r) * b.iw + k) c

/-- The status of a record with IMAGE out of range (R216). -/
def stCropBox : Nat := 0x60

/-- Work tile t of a CROP: eight boxes. One with a record whose IMAGE is out of range writes nothing (DESIGN CHOICE,
log 85). -/
def State.cropTry (s : State) (g : Nat) (b : CropBody) (t : Nat) : Except Fail Work := do
  let k := blockAt t 8 b.boxes
  let recs ← s.readVa g (b.box + 32 * k.1) (32 * k.2)
  let boxes := zeros (32 * k.1) ++ recs
  let bx : Box := { r0 := k.1 * b.oh * b.ow, n := k.2 * b.oh * b.ow, c0 := 0, w := b.y.cols }
  if (List.range k.2).any fun n => b.batch ≤ fld recs (32 * n + 16) 4 then return { status := stCropBox }
  else
    let x ← s.loadSet g b.x 0 b.x.cols (sortedSet (bx.rows.flatMap (b.reads boxes)))
    return { reads := (b.box + 32 * k.1, 32 * k.2) :: x.reads
             writes := b.y.boxWrites (s.rounder g b.round b.stream) (fun i c => f32Val (b.element x boxes i c)) bx }

def State.cropWork (s : State) (g : Nat) (d : Bytes) (t : Nat) : Work :=
  match cropBody d with
  | some b => workOf (s.cropTry g b t)
  | none => { status := stBadField }

/-! ### The commands -/

def execConvFwd (g q seq : Nat) (s : State) : Host.Outcome State Fault Refusal :=
  .next (s.convRow g q seq false fun b => convMode b == 0)
def execConvBwdData (g q seq : Nat) (s : State) : Host.Outcome State Fault Refusal :=
  .next (s.convRow g q seq false fun b => convMode b == 1)
def execConvBwdWeight (g q seq : Nat) (s : State) : Host.Outcome State Fault Refusal :=
  .next (s.convRow g q seq false fun b => convMode b == 2)
def execConvDw (g q seq : Nat) (s : State) : Host.Outcome State Fault Refusal :=
  .next (s.convRow g q seq true fun b => convOp b == 0)
def execMaxPool (g q seq : Nat) (s : State) : Host.Outcome State Fault Refusal :=
  .next (s.convRow g q seq true fun b => convOp b == 1)
def execAvgValid (g q seq : Nat) (s : State) : Host.Outcome State Fault Refusal :=
  .next (s.convRow g q seq true fun b => convOp b == 2)
def execAvgAll (g q seq : Nat) (s : State) : Host.Outcome State Fault Refusal :=
  .next (s.convRow g q seq true fun b => convOp b == 3)
def execCrop (g q seq : Nat) (s : State) : Host.Outcome State Fault Refusal :=
  .next (s.dataRow g q seq (isOp 0x1A) fun r t => s.cropWork g r.raw t)

end Sys2Proof.Machine
end

