-- ==== Sys2Proof/Machine/Dice.lean ====
section
/-! DEFINITION. Sys2Proof/Machine/Dice.lean: the DICE descriptor's draws: UNIFORM, NORMAL, BITS, DROPOUT and NOISE_ADD
(R160 to R163). -/
namespace Sys2Proof.Machine

/-- The DICE body (R162). -/
structure DiceBody where
  dst : Nat
  src : Nat
  base : Nat
  count : Nat
  stream : Nat
  action : Nat
  sf : Option Fmt
  df : Option Fmt
  round : Nat
  p0 : F32
  p1 : F32
  deriving DecidableEq, Repr

def diceBody (d : Bytes) : DiceBody :=
  { dst := dAddr d 16, src := dAddr d 24, base := fld d 32 8, count := fld d 40 4, stream := fld d 44 4
    action := fld d 48 1, sf := fmtOf (fld d 49 1 / 16), df := fmtOf (fld d 49 1 % 16), round := bitsOf (fld d 50 1) 0 2
    p0 := BitVec.ofNat 32 (fld d 52 4), p1 := BitVec.ofNat 32 (fld d 56 4) }

/-- A run of packed elements. -/
def packedRange (a count : Nat) (f : Fmt) : Nat × Nat := (a, count * (fmtBits f / 8))

/-- The threshold T of the keep test for a rate in [0, 1) (R161). -/
def keepBound (rate : F32) : Nat :=
  match f32Val rate with
  | .fin _ m e => roundUnits .rtz m (e + 24) 0
  | _ => 0

/-- Whether a rate lies in [0, 1). -/
def rateOk (rate : F32) : Bool :=
  !fLt rate fZero && fLt rate fOne

/-- ACTION 3 and 4 read a source; the others have none (R162). -/
def DiceBody.readsSrc (b : DiceBody) : Bool := b.action == 3 || b.action == 4

/-- Source and destination are apart, or the same range. -/
def DiceBody.srcOk (b : DiceBody) (d : Bytes) : Bool :=
  if b.readsSrc then
    match b.sf, b.df with
    | some sf, some df =>
      let sr := packedRange b.src b.count sf
      let dr := packedRange b.dst b.count df
      isResultFmt sf && (sr == dr || !overlap sr dr)
    | _, _ => false
  else fld d 24 8 == 0 && fld d 49 1 / 16 == 0

def DiceBody.dstOk (b : DiceBody) : Bool :=
  match b.df with
  | some f => isResultFmt f || (f == .int32 && b.action == 2)
  | none => false

/-- Check 4 of R54 for a DICE (R162). -/
def diceCheck (d : Bytes) : Bool :=
  let b := diceBody d
  if b.action = 5 ∨ b.action = 6 then zeroFrom d 16 48 && zeroFrom d 49 64
  else
    b.action ≤ 4 && dTop d 16 == 0 && dTop d 24 == 0 && 1 ≤ b.count && fld d 50 1 ≤ 2 && fld d 51 1 == 0 &&
    zeroFrom d 60 64 && b.base + b.count ≤ 2 ^ 64 && fIsFinite b.p0 && fIsFinite b.p1 && b.dstOk && b.srcOk d &&
    (b.action != 3 || rateOk b.p0)

/-- A work tile covers 65,536 elements (R162). -/
def diceTiles (d : Bytes) : Nat := ceilDiv (fld d 40 4) 65536

/-- z of R161. -/
def normalOf (w : Words4) : F32 := normalDraw (w.w0 % 2 ^ 24) (w.w1 % 2 ^ 24)

/-- The value of one element (R163); x is the widened source element. -/
def DiceBody.value (b : DiceBody) (w : Words4) (x : F32) : FVal :=
  let u := w.w0 % 2 ^ 24
  match b.action with
  | 0 => f32Val (fFma (f32Of (.fin false u (-24))) (fSub b.p1 b.p0) b.p0)
  | 1 => f32Val (fFma (normalOf w) b.p0 b.p1)
  | 2 => .fin false w.w0 0
  | 3 => f32Val (if keepBound b.p0 ≤ u then fMul x b.p1 else fZero)
  | _ => f32Val (fFma (normalOf w) b.p0 (fMul x b.p1))

/-- The rounding of an element whose draw is w. -/
def roundBy (code : Nat) (w : Words4) : Round :=
  match code with
  | 0 => .rne
  | 1 => .rtz
  | _ => .sr (w.w0 % 2 ^ 24)

/-- The stored code of one element: INT32 BITS as they stand, else converted (R163). -/
def DiceBody.code (b : DiceBody) (f : Fmt) (w : Words4) (x : F32) : Nat :=
  if f = .int32 then w.w0 else encodeFloat f (roundBy b.round w) (b.value w x)

/-- n widened source elements from element lo on; none where there is no source. -/
def State.diceSrc (s : State) (g : Nat) (b : DiceBody) (lo n : Nat) : Except Fail (List F32) :=
  match b.readsSrc, b.sf with
  | true, some f => do
    let w := fmtBits f / 8
    let bs ← s.readVa g (b.src + lo * w) (n * w)
    return (List.range n).map fun i => f32Of (decode f (codeAt bs (fmtBits f) i))
  | _, _ => .ok []

/-- The range of source elements that a work tile reads. -/
def DiceBody.srcRange (b : DiceBody) (lo n : Nat) : List (Nat × Nat) :=
  match b.readsSrc, b.sf with
  | true, some f => [(b.src + lo * (fmtBits f / 8), n * (fmtBits f / 8))]
  | _, _ => []

/-- Work tile t of a DICE: 65,536 elements (R162). -/
def State.diceTry (s : State) (g : Nat) (b : DiceBody) (f : Fmt) (t : Nat) : Except Fail Work := do
  let k := blockAt t 65536 b.count
  let xs ← s.diceSrc g b k.1 k.2
  let codes := (List.range k.2).map fun i => b.code f (s.dice g b.stream (b.base + k.1 + i)) (nth fZero xs i)
  return { reads := b.srcRange k.1 k.2, writes := [(b.dst + k.1 * (fmtBits f / 8), packCodes (fmtBits f) codes)] }

def State.diceWork (s : State) (g : Nat) (d : Bytes) (t : Nat) : Work :=
  match (diceBody d).df with
  | some f => workOf (s.diceTry g (diceBody d) f t)
  | none => { status := stBadField }

/-- A DICE of an ACTION. -/
def isDice (action : Nat) (r : Run) : Bool := dOpcode r.raw == 0x38 && fld r.raw 48 1 == action

def State.diceRow (s : State) (g q seq action : Nat) : State :=
  s.dataRow g q seq (isDice action) fun r t => s.diceWork g r.raw t

def execUniform (g q seq : Nat) (s : State) : Host.Outcome State Fault Refusal :=
  .next (s.diceRow g q seq 0)

def execNormal (g q seq : Nat) (s : State) : Host.Outcome State Fault Refusal :=
  .next (s.diceRow g q seq 1)

def execBits (g q seq : Nat) (s : State) : Host.Outcome State Fault Refusal :=
  .next (s.diceRow g q seq 2)

def execDropout (g q seq : Nat) (s : State) : Host.Outcome State Fault Refusal :=
  .next (s.diceRow g q seq 3)

def execNoiseAdd (g q seq : Nat) (s : State) : Host.Outcome State Fault Refusal :=
  .next (s.diceRow g q seq 4)

end Sys2Proof.Machine
end

