-- ==== Sys2Proof/Machine/Move.lean ====
section
/-! DEFINITION. Sys2Proof/Machine/Move.lean: the MOVE and CHECK descriptors (R274 to R279) and the re-read of a data tile
under hold (R265 to R267). -/
namespace Sys2Proof.Machine

/-! ### MOVE -/

structure MoveBody where
  src : Nat
  dst : Nat
  rowBytes : Nat
  rows : Nat
  sp : Nat
  dp : Nat
  mode : Nat
  verifyAll : Bool
  fill : Nat
  deriving DecidableEq, Repr

def moveBody (d : Bytes) : MoveBody :=
  { src := dAddr d 16, dst := dAddr d 24, rowBytes := fld d 32 4, rows := fld d 36 4, sp := fld d 40 4, dp := fld d 44 4
    mode := fld d 48 1, verifyAll := (fld d 49 1).testBit 0, fill := fld d 52 4 }

/-- A pitch holds its row, and is 0 for a single one. -/
def pitchOk (rows rb p : Nat) : Bool := if rows ≤ 1 then p == 0 else rb ≤ p

/-- Whether a run [a, a + rb) shares a byte with some row dst + j * dp, j < rows. -/
def hitsRow (a rb dst dp rows : Nat) : Bool :=
  if rows ≤ 1 ∨ dp = 0 then overlap (a, rb) (dst, rb)
  else
    let j := (a - dst) / dp
    [j - 1, j, j + 1, 0].any fun i => i < rows && overlap (a, rb) (dst + i * dp, rb)

/-- Whether source rows and destination rows share a byte (R274). -/
def MoveBody.shares (b : MoveBody) : Bool :=
  (List.range b.rows).any fun i => hitsRow (b.src + i * b.sp) b.rowBytes b.dst b.dp b.rows

def extentOk (a rows p rb : Nat) : Bool := a + (rows - 1) * p + rb ≤ 2 ^ 57

/-- Check 4 of R54 for a MOVE. -/
def moveCheck (d : Bytes) : Bool :=
  let b := moveBody d
  dTop d 16 == 0 && dTop d 24 == 0 && 1 ≤ b.rowBytes && 1 ≤ b.rows && b.rows ≤ 16777215 && b.mode ≤ 2 &&
  fld d 49 1 ≤ 1 && zeroFrom d 50 52 && zeroFrom d 56 64 && (b.mode == 1 || b.fill == 0) &&
  pitchOk b.rows b.rowBytes b.dp && extentOk b.dst b.rows b.dp b.rowBytes &&
  (if b.mode = 0 then
     pitchOk b.rows b.rowBytes b.sp && extentOk b.src b.rows b.sp b.rowBytes && !b.shares
   else b.src == 0 && b.sp == 0)

/-- Destination bytes in all. -/
def MoveBody.bytes (b : MoveBody) : Nat := b.rows * b.rowBytes

/-- A piece of a MOVE: source address, destination address, column in its row, and bytes. -/
structure Piece where
  src : Nat
  dst : Nat
  col : Nat
  n : Nat
  deriving DecidableEq, Repr

/-- The piece that begins at destination byte `at'`, in row order: the rest of its row, up to the next 2 MiB of
destination. -/
def MoveBody.piece (b : MoveBody) (at' : Nat) : Piece :=
  let i := at' / b.rowBytes
  let c := at' % b.rowBytes
  let d := b.dst + i * b.dp + c
  { src := b.src + i * b.sp + c, dst := d, col := c, n := min (b.rowBytes - c) (2 ^ 21 - d % 2 ^ 21) }

/-- The pieces of the work tile that begins at destination byte `at'`: in row order, as long as they stay within one
aligned 2 MiB of destination (R274, R275; DESIGN CHOICE, log 76). -/
def MoveBody.pieces (b : MoveBody) : Nat → Nat → List Piece
  | 0, _ => []
  | fuel + 1, at' =>
    if b.bytes ≤ at' then []
    else
      let p := b.piece at'
      let next := at' + p.n
      p :: (if next < b.bytes && (b.piece next).dst / 2 ^ 21 == p.dst / 2 ^ 21 then b.pieces fuel next else [])

/-- Pieces that follow one another without a gap on both sides are one. -/
def joinPieces : List Piece → List Piece
  | [] => []
  | p :: rest =>
    match joinPieces rest with
    | r :: more =>
      if p.src + p.n = r.src ∧ p.dst + p.n = r.dst then { p with n := p.n + r.n } :: more else p :: r :: more
    | [] => [p]

/-- The destination runs of a whole MOVE (R188). -/
def MoveBody.runs (b : MoveBody) : List (Nat × Nat) :=
  if b.dp = b.rowBytes then [(b.dst, b.bytes)] else (List.range b.rows).map fun i => (b.dst + i * b.dp, b.rowBytes)

/-- A run of addresses cut at data-tile boundaries. -/
def tileCuts (va n : Nat) : List (Nat × Nat) :=
  if n = 0 then []
  else (List.range ((va + n - 1) / 4096 - va / 4096 + 1)).map fun i =>
    let a := max va ((va / 4096 + i) * 4096)
    (a, min (va + n) ((va / 4096 + i + 1) * 4096) - a)

/-- Whether an address of a context lies in HBM. -/
def State.inHbm (s : State) (g va : Nat) : Bool :=
  match s.xlate g va with
  | some x => !x.host
  | none => false

/-- Whether a data tile is copied with its sum and not verified (R276). -/
def State.carriesSum (s : State) (g : Nat) (verifyAll : Bool) (src dst n : Nat) : Bool :=
  !verifyAll && n == 4096 && mult dst 4096 && s.inHbm g src && s.inHbm g dst

/-- The stored sum's difference of the data tile at an address of a context. -/
def State.deltaAt (s : State) (g va : Nat) : BitVec 32 := s.tileDelta (hbmKey (partOfCtx g) (s.dpaOf g va) / 4096)

/-- What has been read of a run: its bytes up to the first data tile that cannot be read, the sum difference that each data
tile of the destination takes over, and why the reading stopped. -/
structure MoveSrc where
  bytes : Bytes := []
  sums : List (Nat × BitVec 32) := []
  fail : Option Fail := none
  deriving DecidableEq, Repr

/-- One run read, data tile by data tile in ascending order (R275, R276). -/
def State.moveRead (s : State) (g : Nat) (verifyAll : Bool) (dst src0 : Nat) : List (Nat × Nat) → MoveSrc
  | [] => {}
  | (va, n) :: rest =>
    let dest := dst + (va - src0)
    let carries := s.carriesSum g verifyAll va dest n
    match if carries then s.readRaw g va n else s.readVa g va n with
    | .error e => { fail := some e }
    | .ok bs =>
      let more := s.moveRead g verifyAll dst src0 rest
      { more with bytes := bs ++ more.bytes, sums := if carries then (dest, s.deltaAt g va) :: more.sums else more.sums }

/-- What a work tile of a MOVE writes: runs of bytes in row order, the sums copied with their data, and where a source
row could not be read, why: the rows before it, and its own bytes before the data tile that failed, are written (R54,
R275; log 73). -/
structure MovePlan where
  writes : List (Nat × Bytes) := []
  sums : List (Nat × BitVec 32) := []
  fail : Option Fail := none
  deriving DecidableEq, Repr

def State.moveReads (s : State) (g : Nat) (verifyAll : Bool) : List Piece → MovePlan
  | [] => {}
  | p :: rest =>
    let r := s.moveRead g verifyAll p.dst p.src (tileCuts p.src p.n)
    let more := if r.fail.isSome then { fail := r.fail } else s.moveReads g verifyAll rest
    { more with writes := (p.dst, r.bytes) :: more.writes, sums := r.sums ++ more.sums }

/-- The sum differences copied into the data tiles of one written segment. -/
def State.putDeltas (s : State) (g va n : Nat) (ds : List (Nat × BitVec 32)) : State :=
  ds.foldl (fun s d =>
    if va ≤ d.1 ∧ d.1 < va + n then
      { s with sumDelta := setDelta s.sumDelta (hbmKey (partOfCtx g) (s.dpaOf g d.1) / 4096) d.2 }
    else s) s

/-- Segments written in order, each followed by the sums its data tiles take over, until one fails. -/
def State.moveSegs (s : State) (g : Nat) (ds : List (Nat × BitVec 32)) : List (Nat × Nat) → Bytes → State × Option Fail
  | [], _ => (s, none)
  | (va, n) :: rest, bs =>
    match s.writeSeg g va (bs.take n) with
    | .error e => (s, some e)
    | .ok s' => (s'.putDeltas g va n ds).moveSegs g ds rest (bs.drop n)

def State.moveWrites (s : State) (g : Nat) (ds : List (Nat × BitVec 32)) : List (Nat × Bytes) → State × Option Fail
  | [] => (s, none)
  | (va, bs) :: rest =>
    match s.moveSegs g ds (segsOf va bs.length) bs with
    | (s', some e) => (s', some e)
    | (s', none) => s'.moveWrites g ds rest

/-- n bytes of a filled row from a column on: the pattern repeated from the row's start. -/
def fillRow (v col n : Nat) : Bytes := (List.range n).map fun i => BitVec.ofNat 8 (v >>> (8 * ((col + i) % 4)))

/-- What the work tile of a MOVE that begins at a destination byte writes. -/
def State.movePlan (s : State) (g : Nat) (b : MoveBody) (at' : Nat) : MovePlan :=
  let ps := b.pieces (b.rows + 1) at'
  match b.mode with
  | 0 => s.moveReads g b.verifyAll (joinPieces ps)
  | 1 => { writes := ps.map fun p => (p.dst, fillRow b.fill p.col p.n) }
  | _ => { writes := ps.map fun p => (p.dst, zeros p.n) }

/-- The bytes of the work tile of a MOVE that begins at a destination byte. -/
def MoveBody.tileBytes (b : MoveBody) (at' : Nat) : Nat := (b.pieces (b.rows + 1) at').foldl (fun n p => n + p.n) 0

/-- One work tile of a MOVE: the first failure, if any, in row order. -/
def State.moveTile (s : State) (g : Nat) (b : MoveBody) (at' : Nat) : State × Option Fail :=
  let pl := s.movePlan g b at'
  match s.moveWrites g pl.sums (joinRuns pl.writes) with
  | (s, some e) => (s, some e)
  | (s, none) => (s, pl.fail)

/-- An engine's work tile done: `n` more bytes; with the last one the work has been carried out. -/
def State.engineTile (s : State) (g q seq n total status : Nat) : State :=
  s.modRun g q seq fun r =>
    { r with cursor := r.cursor + n, ran := total ≤ r.cursor + n, status := if total ≤ r.cursor + n then status else r.status }

/-- The source ranges that a work tile reads. -/
def MoveBody.srcRanges (b : MoveBody) (at' : Nat) : List (Nat × Nat) :=
  if b.mode = 0 then (joinPieces (b.pieces (b.rows + 1) at')).map fun p => (p.src, p.n) else []

/-- The next work tile of a MOVE carried out. -/
def State.moveDo (s : State) (g q seq : Nat) (r : Run) : State :=
  let b := moveBody r.raw
  match s.moveTile g b r.cursor with
  | (s, some e) => s.jobFault g q seq e.status e.tile
  | (s, none) => (s.accessed (s.engineDie g) g (b.srcRanges r.cursor) []).engineTile g q seq (b.tileBytes r.cursor) b.bytes stDone

/-- A whole MOVE, work tile after work tile: a step of a recipe's chain. -/
def State.moveAll (s : State) (g : Nat) (b : MoveBody) : Nat → Nat → State × Option Fail
  | 0, _ => (s, none)
  | fuel + 1, at' =>
    if b.bytes ≤ at' then (s, none)
    else
      match s.moveTile g b at' with
      | (s, some e) => (s, some e)
      | (s, none) => (s.accessed (s.engineDie g) g (b.srcRanges at') []).moveAll g b fuel (at' + b.tileBytes at')

/-- A MOVE of a mode. -/
def isMove (mode : Nat) (r : Run) : Bool := dOpcode r.raw == 0x01 && fld r.raw 48 1 == mode

def State.moveRow (s : State) (g q seq mode : Nat) : State :=
  match s.engineGate 0 0 g q seq (isMove mode) anyRun with
  | some r => (s.moveDo g q seq r).engineServed 0 g
  | none => s

/-! ### CHECK -/

def checkCheck (d : Bytes) : Bool :=
  let n := fld d 24 8
  dTop d 16 == 0 && dTop d 32 == 0 && mult (dAddr d 16) 4096 && mult n 4096 && 4096 ≤ n && n ≤ 2 ^ 48 &&
  mult (dAddr d 32) 64 && zeroFrom d 40 64

/-- Whether every 64 KiB segment of a range is readable HBM (R277). -/
def State.hbmReadable (s : State) (g va n : Nat) : Bool :=
  (segsOf va n).all fun seg =>
    match s.xlate g seg.1 with
    | some x => !x.host && x.attr.testBit 0
    | none => false

/-- The corrupt data tiles of a range, by virtual address, ascending. -/
def State.corruptTiles (s : State) (g va n : Nat) : List Nat :=
  ((List.range (n / 4096)).map fun i => va + 4096 * i).filter fun t => s.deltaAt g t != 0

/-- The result record of R278. -/
def checkRecord (tiles torn bad first : Nat) : Bytes :=
  leBytes 8 tiles ++ leBytes 8 torn ++ leBytes 8 bad ++ leBytes 8 first ++ zeros 32

/-- Corrupt data tiles counted in a run, in ascending order. -/
def State.noteBad (s : State) (g q seq : Nat) (bad : List Nat) : State :=
  (bad.foldl (fun s t => s.corruptEvent g t) s).modRun g q seq fun r =>
    { r with bad := r.bad + bad.length, firstBad := if r.bad = 0 then bad.headD 0 else r.firstBad }

/-- The result record written at the end of a CHECK, with the counts of its run. -/
def State.checkEnd (s : State) (g q seq : Nat) (r : Run) (n : Nat) : State :=
  match s.writeVa g (dAddr r.raw 32) (checkRecord (fld r.raw 24 8 / 4096) r.torn r.bad r.firstBad) with
  | (s, some e) => s.jobFault g q seq e.status e.tile
  | (s, none) => s.engineTile g q seq n (fld r.raw 24 8) (if r.bad = 0 then stDone else stCheckFound)

/-- The next work tile of a CHECK: 2 MiB of its range; with the last one its record (R277, R278). -/
def State.checkDo (s : State) (g q seq : Nat) (r : Run) : State :=
  let all := fld r.raw 24 8
  let va := dAddr r.raw 16 + r.cursor
  let n := min (2 ^ 21) (all - r.cursor)
  if s.hbmReadable g va n then
    let s := (s.noteBad g q seq (s.corruptTiles g va n)).accessed (s.engineDie g) g [(va, n)] []
    if all ≤ r.cursor + n then
      match s.run g q seq with
      | some r => s.checkEnd g q seq r n
      | none => s
    else s.engineTile g q seq n all stDone
  else s.jobFault g q seq stBadAddress 0

def State.checkRow (s : State) (g q seq : Nat) : State :=
  match s.engineGate 0 0 g q seq (isOp 0x02) anyRun with
  | some r => (s.checkDo g q seq r).engineServed 0 g
  | none => s

/-! ### The re-read under hold (R265) -/

/-- A torn read resolved: the context's and the partition's counts (R265, R267). -/
def State.tornRead (s : State) (g q seq : Nat) : State :=
  let s := s.modRun g q seq fun r => { r with torn := r.torn + 1 }
  let s := s.modCtx g fun c => { c with tornReads := c.tornReads + 1 }
  s.modPart (partOfCtx g) fun p => { p with torn := p.torn + 1 }

/-- The data tile of a context found corrupt: its sum no longer matches. A CHECK counts it at its record and a
STASH_GET applies R193; any other descriptor faults (R266). -/
def State.corruptTile (s : State) (g q seq va : Nat) (op : Nat) (delta : BitVec 32) : State :=
  let t := va / 4096 * 4096
  let s := { s with sumDelta := setDelta s.sumDelta (hbmKey (partOfCtx g) (s.dpaOf g t) / 4096) delta }
  if op = 0x02 ∨ op = 0x31 then s else s.jobFault g q seq stDataCorrupt t

/-- Whether something of a context reads HBM without a started descriptor: a parity build for a point it has secured, a fill
that it serves (R365), or a replay (R189). -/
def State.readsBeside (s : State) (g : Nat) : Bool :=
  let c := s.ctx g
  c.secure.build.isSome || !c.secure.serving.isEmpty || c.stash.specs.any fun x => !x.steps.isEmpty

/-- Whether a descriptor reads HBM now: its work goes on, of one that stops on a core still, or in an ACTIVE context the front
end takes it from its ring or validates it next; or, for a descriptor that has finished, the context reads beside its
descriptors (R264, R448). -/
def State.readsNow (s : State) (g q seq : Nat) : Bool :=
  let u := s.queue g q
  s.working g &&
    match s.run g q seq with
    | some r => r.waitDone && !r.ran && (!r.aborting || r.onCores != 0)
    | none =>
      ((s.ctx g).st == .active &&
        ((u.taken.head?.map (·.seq)) == some seq || (u.st == .running && seq == u.takenSeq + 1 && seq ≤ u.tail))) ||
        (s.readsBeside g && seq ≤ u.finished)

/-- Corrupt data that a started descriptor meets acts at once; at a fetch, at validation or in a parity build it shows
where the data tile is read. -/
def State.rereadBad (s : State) (g q seq va : Nat) (delta : BitVec 32) : State :=
  match s.run g q seq with
  | some r => s.corruptTile g q seq va (dOpcode r.raw) delta
  | none => s.corruptTile g q seq va 0x02 delta

/-- The outcome of a re-read: torn where the sum it shows matches, else corrupt. -/
def State.reread (s : State) (g q seq va : Nat) (delta : BitVec 32) : State :=
  if s.readsNow g q seq && s.inHbm g va then
    let d := if delta = 0 then s.deltaAt g (va / 4096 * 4096) else delta
    if d = 0 then s.tornRead g q seq else s.rereadBad g q seq va d
  else s

/-! ### The commands -/

def execMoveCopy (g q seq : Nat) (s : State) : Host.Outcome State Fault Refusal := .next (s.moveRow g q seq 0)
def execMoveFill (g q seq : Nat) (s : State) : Host.Outcome State Fault Refusal := .next (s.moveRow g q seq 1)
def execMoveZero (g q seq : Nat) (s : State) : Host.Outcome State Fault Refusal := .next (s.moveRow g q seq 2)
def execCheck (g q seq : Nat) (s : State) : Host.Outcome State Fault Refusal := .next (s.checkRow g q seq)
def execTileReread (g q seq va : Nat) (delta : BitVec 32) (s : State) : Host.Outcome State Fault Refusal :=
  .next (s.reread g q seq va delta)

end Sys2Proof.Machine
end

