-- ==== Sys2Proof/Machine/Norm.lean ====
section
/-! DEFINITION. Sys2Proof/Machine/Norm.lean: the NORM descriptor: LAYER, RMS, STATS and SPLIT_SUM (R127, R130 to R132). -/
namespace Sys2Proof.Machine

structure NormBody where
  x : Arr
  y : Arr
  param : Nat
  groups : Nat
  stats : Nat
  round : Nat
  op : Nat
  affine : Bool
  kind : Nat
  nrec : Nat
  stream : Nat
  eps : F32
  deriving DecidableEq, Repr

def normBody (d : Bytes) : Option NormBody :=
  let rows := fld d 48 3
  let c := fld d 51 2
  let f := fld d 54 2
  match fmtOf (fld d 53 1 % 16), fmtOf (fld d 53 1 / 16) with
  | some xf, some yf =>
    some
      { x := { addr := dAddr d 16, rows := rows, cols := c, fmt := xf, exp := dExp d 16 }
        y := { addr := dAddr d 24, rows := rows, cols := c, fmt := yf, exp := dExp d 24 }
        param := dAddr d 32
        groups := 2 ^ bitsOf (fld d 32 8) 57 4
        stats := dAddr d 40
        round := bitsOf (fld d 40 8) 57 2
        op := bitsOf f 0 3
        affine := f.testBit 3
        kind := bitsOf f 4 1
        nrec := bitsOf f 5 11
        stream := fld d 56 4
        eps := BitVec.ofNat 32 (fld d 60 4) }
  | _, _ => none

/-- The stride of OP 3's partials (R130). -/
def NormBody.stride (b : NormBody) : Nat := roundUp b.x.elemBytes 4096

/-- The partial i of OP 3. -/
def NormBody.partialArr (b : NormBody) (i : Nat) : Arr := { b.x with addr := b.x.addr + i * b.stride }

def NormBody.readsX (b : NormBody) : Bool := b.op != 2 || b.nrec == 0
def NormBody.writesY (b : NormBody) : Bool := b.op != 2

def NormBody.xRange (b : NormBody) : Nat × Nat :=
  if !b.readsX then (0, 0)
  else if b.op = 3 then (b.x.addr, (b.nrec - 1) * b.stride + b.x.elemBytes)
  else b.x.range

def NormBody.yRange (b : NormBody) : Nat × Nat :=
  if b.op = 2 then (if b.nrec = 0 then (0, 0) else (b.y.addr, 16 * b.y.rows)) else b.y.range

def NormBody.paramRange (b : NormBody) : Nat × Nat :=
  if b.affine then (b.param, roundUp (4 * b.x.cols) 64 + 4 * b.x.cols) else (0, 0)

def NormBody.statRange (b : NormBody) : Nat × Nat :=
  if b.op = 3 then (0, 0)
  else if b.nrec = 0 then (if b.op = 2 then (b.stats, 16 * b.x.rows * b.groups) else (0, 0))
  else (b.stats, 16 * b.x.rows * b.nrec)

/-- The in-place exception of R132. -/
def NormBody.inPlace (b : NormBody) : Bool := b.op ≤ 1 && b.x.addr == b.y.addr && b.x.pitch == b.y.pitch

/-- The result formats of a NORM (R130). -/
def normResult (f : Fmt) : Bool := isResultFmt f || isBlockFmt f || f == .int8

/-- The rules of R132 that tie the fields of OP 2. -/
def NormBody.statsOk (b : NormBody) : Bool :=
  b.op != 2 ||
    (if b.nrec = 0 then b.y.addr == 0 && b.y.exp == 0 && b.y.fmt == .fp32
     else b.x.addr == 0 && b.x.exp == 0 && b.x.fmt == .fp32 && b.y.exp == 0 && b.y.fmt == .fp32)

def NormBody.ok (b : NormBody) : Bool :=
  (isResultFmt b.x.fmt || (b.x.fmt == .int32 && b.op == 3)) && normResult b.y.fmt &&
  expOk b.x.fmt b.x.exp && expOk b.y.fmt b.y.exp && (!isBlockFmt b.y.fmt || mult b.x.cols 32) &&
  b.op ≤ 3 && b.nrec ≤ 1024 && 1 ≤ b.x.rows && 1 ≤ b.x.cols && b.groups ≤ 4096 && mult b.x.cols b.groups &&
  roundOk b.round b.stream && (b.affine || b.param == 0) &&
  !(b.nrec != 0 && b.op ≤ 2 && b.groups != 1) && !(b.op == 3 && (b.nrec < 2 || b.stats != 0)) && b.statsOk &&
  fIsFinite b.eps && !fLt b.eps fZero &&
  mult b.x.addr 64 && mult b.y.addr 64 && mult b.param 64 && mult b.stats 64 &&
  !anyOverlap [b.xRange, b.paramRange, b.statRange] &&
  !overlap b.yRange b.paramRange && !overlap b.yRange b.statRange && (!overlap b.yRange b.xRange || b.inPlace)

def normCheck (d : Bytes) : Bool :=
  match normBody d with
  | some b => b.ok && bitsOf (fld d 32 8) 61 3 == 0 && bitsOf (fld d 40 8) 59 5 == 0
  | none => false

def normTiles (d : Bytes) : Nat := ceilDiv (fld d 48 3) 8

/-- The row group of 8 rows that work tile t covers (R132). -/
def NormBody.box (b : NormBody) (t : Nat) : Box :=
  let r := blockAt t 8 b.x.rows
  { r0 := r.1, n := r.2, c0 := 0, w := b.x.cols }

/-- The fold of a row's NREC records (R131). -/
def NormBody.folded (b : NormBody) (recs : Bytes) : Stat :=
  (List.range b.nrec).foldl (fun r i => statCombine b.kind r (statOf (slice recs (16 * i) 16))) Stat.none

/-- The record of a row and group: from X, or the fold of the row's records (R131). -/
def NormBody.record (b : NormBody) (x : Loaded) (recs : Nat → Bytes) (m gr : Nat) : Stat :=
  if b.nrec = 0 then
    let w := b.x.cols / b.groups
    statRun b.kind ((List.range w).map fun c => x.f32 m (gr * w + c))
  else b.folded (recs m)

/-- z of R131 for one element. -/
def NormBody.scaled (b : NormBody) (r : Stat) (x : F32) : F32 :=
  let n := fNat r.n
  let mean := if b.kind = 1 then r.a else fDiv r.a n
  if b.op = 0 then
    let var := if b.kind = 1 then fDiv r.b n else fMax (fSub (fDiv r.b n) (fMul mean mean)) fZero
    fMul (fSub x mean) (sfuRsqrt (fAdd var b.eps))
  else
    let ms := if b.kind = 1 then fFma mean mean (fDiv r.b n) else fDiv r.b n
    fMul x (sfuRsqrt (fAdd ms b.eps))

/-- Whether some row of a work tile has a folded record with a wrong N (R132). -/
def NormBody.mismatch (b : NormBody) (recs : Nat → Bytes) (bx : Box) : Bool :=
  b.nrec != 0 && bx.rows.any fun m => (b.folded (recs m)).n != b.x.cols / b.groups

/-- The status of a NORM whose records do not match (R132). -/
def stStatsMismatch : Nat := 0x60

/-- The sum of element (m, j) over the partials (R127). -/
def splitSum (ps : List Loaded) (m j : Nat) : FVal :=
  match ps with
  | [] => .fin false 0 0
  | p :: rest =>
    if p.arr.fmt = .int32 then
      let v := rest.foldl (fun a l => satInt32 (a + intOf (l.at m j))) (intOf (p.at m j))
      .fin (v < 0) v.natAbs 0
    else f32Val (rest.foldl (fun a l => fAdd a (l.f32 m j)) (p.f32 m j))

/-- The rows of X that a work tile reads, where the op reads X. -/
def State.normX (s : State) (g : Nat) (b : NormBody) (bx : Box) : Except Fail Loaded :=
  if b.readsX then s.loadRows g b.x bx.r0 bx.n else .ok { arr := b.x }

/-- The records of a work tile's rows, by row, where the op reads them. -/
def State.normRecs (s : State) (g : Nat) (b : NormBody) (bx : Box) : Except Fail (Nat → Bytes) :=
  if b.nrec = 0 then .ok fun _ => []
  else
    (s.readVa g (b.stats + 16 * (bx.r0 * b.nrec)) (16 * (bx.n * b.nrec))).map fun bs m =>
      slice bs (16 * ((m - bx.r0) * b.nrec)) (16 * b.nrec)

/-- The records of a work tile's rows. -/
def NormBody.recRange (b : NormBody) (bx : Box) : Nat × Nat := (b.stats + 16 * (bx.r0 * b.nrec), 16 * (bx.n * b.nrec))

/-- A work tile of LAYER or RMS; one with a mismatched record writes nothing (R132). -/
def State.normTry (s : State) (g : Nat) (b : NormBody) (t : Nat) : Except Fail Work := do
  let bx := b.box t
  let x ← s.normX g b bx
  let recs ← s.normRecs g b bx
  let gain ← if b.affine then s.loadF32 g b.param b.x.cols else .ok []
  let off ← if b.affine then s.loadF32 g (b.param + roundUp (4 * b.x.cols) 64) b.x.cols else .ok []
  let z (m j : Nat) : F32 := b.scaled (b.record x recs m (j / (b.x.cols / b.groups))) (x.f32 m j)
  let y (m j : Nat) : FVal := f32Val (if b.affine then fFma (z m j) (nth fZero gain j) (nth fZero off j) else z m j)
  if b.mismatch recs bx then return { status := stStatsMismatch }
  else return { reads := b.recRange bx :: x.reads, writes := b.y.boxWrites (s.rounder g b.round b.stream) y bx }

/-- A work tile of STATS: records formed from X, or folded (R131). -/
def State.statsTry (s : State) (g : Nat) (b : NormBody) (t : Nat) : Except Fail Work := do
  let bx := b.box t
  let x ← s.normX g b bx
  let recs ← s.normRecs g b bx
  if b.mismatch recs bx then return { status := stStatsMismatch }
  else if b.nrec = 0 then
    return { reads := x.reads, writes := bx.rows.flatMap fun m => (List.range b.groups).map fun gr =>
      (b.stats + 16 * (m * b.groups + gr), (b.record x recs m gr).bytes) }
  else return { reads := [b.recRange bx], writes := bx.rows.map fun m => (b.y.addr + 16 * m, (b.record x recs m 0).bytes) }

/-- A work tile of SPLIT_SUM: its rows of every partial. -/
def State.splitTry (s : State) (g : Nat) (b : NormBody) (t : Nat) : Except Fail Work := do
  let bx := b.box t
  let ps ← collect (fun a => s.loadRows g a bx.r0 bx.n) ((List.range b.nrec).map b.partialArr)
  return { reads := ps.flatMap Loaded.reads, writes := b.y.boxWrites (s.rounder g b.round b.stream) (splitSum ps) bx }

def State.normWork (s : State) (g : Nat) (d : Bytes) (t : Nat) : Work :=
  match normBody d with
  | some b =>
    match b.op with
    | 2 => workOf (s.statsTry g b t)
    | 3 => workOf (s.splitTry g b t)
    | _ => workOf (s.normTry g b t)
  | none => { status := stBadField }

/-- A NORM of an OP. -/
def isNorm (op : Nat) (r : Run) : Bool := dOpcode r.raw == 0x29 && bitsOf (fld r.raw 54 2) 0 3 == op

/-- The row of a NORM of an OP. -/
def State.normRow (s : State) (g q seq op : Nat) : State :=
  s.dataRow g q seq (isNorm op) fun r t => s.normWork g r.raw t

def execLayer (g q seq : Nat) (s : State) : Host.Outcome State Fault Refusal := .next (s.normRow g q seq 0)
def execRms (g q seq : Nat) (s : State) : Host.Outcome State Fault Refusal := .next (s.normRow g q seq 1)
def execStats (g q seq : Nat) (s : State) : Host.Outcome State Fault Refusal := .next (s.normRow g q seq 2)
def execSplitSum (g q seq : Nat) (s : State) : Host.Outcome State Fault Refusal := .next (s.normRow g q seq 3)

end Sys2Proof.Machine
end

