-- ==== Sys2Proof/Machine/Vec.lean ====
section
/-! DEFINITION. Sys2Proof/Machine/Vec.lean: the VEC descriptor and its kernels (R128, R129, R133 to R137). The operation of
each OP code within its class is Config's (log 20). -/
namespace Sys2Proof.Machine

/-! ### Instruction words (R135) -/

structure VWord where
  cls : Nat
  op : Nat
  dst : Nat
  a : Nat
  b : Nat
  c : Nat
  pred : Nat
  fmt : Nat
  round : Nat
  imm : Nat
  deriving DecidableEq, Repr

def vword (w : Nat) : VWord :=
  { cls := bitsOf w 60 4, op := bitsOf w 52 8, dst := bitsOf w 44 8, a := bitsOf w 36 8, b := bitsOf w 28 8
    c := bitsOf w 20 8, pred := bitsOf w 17 3, fmt := bitsOf w 13 4, round := bitsOf w 11 2, imm := bitsOf w 0 11 }

/-- The words of a kernel. -/
def kernelWords (k : Bytes) : List VWord := (List.range (k.length / 8)).map fun i => vword (fld k (8 * i) 8)

/-- Whether an operation belongs to a class of R136. -/
def opInClass (cls : Nat) : VOp → Bool
  | .load _ => cls == 0
  | .store _ => cls == 1
  | .fp _ op => cls == 2 && [VBin.add, .sub, .mul, .min, .max].contains op
  | .fma _ => cls == 2
  | .int op => cls == 3 && op != .min && op != .max
  | .sfu _ => cls == 4
  | .cmp _ _ | .select => cls == 5
  | .reduce _ op => cls == 6 && [VBin.add, .min, .max].contains op
  | .broadcast | .permute => cls == 6
  | .dice _ => cls == 7
  | .scalar _ | .scalarImm _ | .loop | .branch | .branchIf _ | .done => cls == 8

/-- The operation of a word; none where its class or OP names none. -/
def VWord.opOf (w : VWord) : Option VOp :=
  match Config.vecOp w.cls w.op with
  | some o => if opInClass w.cls o then some o else none
  | none => none

/-- A format a LOAD may name: those whose roles in R66 make them an operand of the vector engine. R66 gives F8, F6, F4 and
INT8 the role of a cube operand only, though R78 widens F8 to FP32 (DEDUCED; log 88). -/
def loadFmt (c : Nat) : Bool :=
  match fmtOf c with
  | some f => f == .fp32 || f == .bf16 || f == .int32
  | none => false

/-- A format a STORE may name: every result of R66. -/
def storeFmt (c : Nat) : Bool :=
  match fmtOf c with
  | some f => isResultFmt f || isBlockFmt f || f == .int8 || f == .int32
  | none => false

/-- Registers in range: scalar registers are A0 to A31, predicates P0 to P7; targets lie inside the kernel. A field that an
operation does not use may hold anything that is not a reserved code, and a packed LOAD or STORE does not use its format code
(DESIGN CHOICE; log 95). -/
def VWord.fieldsOk (w : VWord) (klen : Nat) : VOp → Bool
  | .load _ => w.a < 32 && loadFmt w.fmt
  | .store _ => w.b < 32 && storeFmt w.fmt
  | .cmp _ _ => w.dst < 8
  | .select => w.c < 8
  | .dice _ => w.a < 32
  | .scalar _ => w.dst < 32 && w.a < 32 && w.b < 32
  | .scalarImm _ => w.dst < 32 && w.a < 32
  | .loop => w.dst < 32 && w.imm < klen
  | .branch => w.imm < klen
  | .branchIf _ => w.a < 32 && w.b < 32 && w.imm < klen
  | .broadcast => w.imm < 256
  | _ => true

/-- A defined class and operation, no reserved code of R66 or R79, and fields in range (R137). -/
def VWord.ok (w : VWord) (klen : Nat) : Bool :=
  match w.opOf with
  | some o => w.fmt < 12 && w.round ≤ 2 && w.fieldsOk klen o
  | none => false

/-- Check 4 of R54 applied to every word; the last instruction is END (R137). -/
def kernelCheck (k : Bytes) : Bool :=
  let ws := kernelWords k
  ws.all (·.ok ws.length) && (match ws.getLast? with | some w => w.opOf == some .done | none => false)

def vecCheck (d : Bytes) : Bool :=
  dTop d 16 == 0 && dTop d 24 == 0 && mult (dAddr d 16) 64 && mult (dAddr d 24) 64 && 1 ≤ fld d 32 4 &&
  fld d 32 4 ≤ 16777216 && 1 ≤ fld d 36 2 && fld d 36 2 ≤ 4096 && zeroFrom d 38 40 && zeroFrom d 44 64

/-! ### A work tile's registers (R134) -/

structure VRegs where
  a : List (BitVec 32)
  v : SMap (List F32) := []
  p : SMap (List Bool) := []
  pc : Nat := 0
  /-- the core that runs it, and what the kernel has loaded -/
  core : Nat := 0
  loads : List (Nat × Bytes) := []
  deriving DecidableEq, Repr

def lanes : List Nat := List.range 256
def VRegs.vreg (r : VRegs) (n : Nat) : List F32 := mapGet (lanes.map fun _ => fZero) r.v n
def VRegs.preg (r : VRegs) (n : Nat) : List Bool := if n = 0 then lanes.map fun _ => true else mapGet (lanes.map fun _ => true) r.p n
def VRegs.areg (r : VRegs) (n : Nat) : BitVec 32 := nth 0 r.a n
def VRegs.setA (r : VRegs) (n : Nat) (x : BitVec 32) : VRegs := { r with a := r.a.set n x }

/-- Lanes where the predicate is false keep DST (R135). -/
def VRegs.setV (r : VRegs) (w : VWord) (f : Nat → F32) : VRegs :=
  let old := r.vreg w.dst
  let pr := r.preg w.pred
  { r with v := mapSet r.v w.dst (lanes.map fun i => if nth true pr i then f i else nth fZero old i) }

def VRegs.setP (r : VRegs) (w : VWord) (f : Nat → Bool) : VRegs :=
  let old := r.preg w.dst
  let pr := r.preg w.pred
  if w.dst = 0 then r
  else { r with p := mapSet r.p w.dst (lanes.map fun i => if nth true pr i then f i else nth true old i) }

/-! ### Lane arithmetic -/

def fpBin (op : VBin) (x y : F32) : F32 :=
  match op with
  | .add => fAdd x y
  | .sub => fSub x y
  | .mul => fMul x y
  | .min => fMin x y
  | .max => fMax x y
  | _ => x

/-- One half of a packed BF16 lane as an FP32 value. -/
def half (x : F32) (hi : Bool) : F32 := if hi then x &&& 0xFFFF0000 else x <<< 16

/-- A packed lane from the exact results of its halves, each rounded once to BF16 RNE (R90). -/
def packHalves (lo hi : FVal) : F32 :=
  BitVec.ofNat 32 (encodeFloat .bf16 .rne hi * 65536 + encodeFloat .bf16 .rne lo)

/-- The exact result of a BF16 operation. -/
def exactBin (op : VBin) (x y : F32) : FVal :=
  match op with
  | .add => exactAdd (f32Val x) (f32Val y)
  | .sub => exactAdd (f32Val x) (exactNeg (f32Val y))
  | .mul => exactMul (f32Val x) (f32Val y)
  | .min => f32Val (fMin x y)
  | .max => f32Val (fMax x y)
  | _ => f32Val x

def packedBin (op : VBin) (x y : F32) : F32 :=
  packHalves (exactBin op (half x false) (half y false)) (exactBin op (half x true) (half y true))

def packedFma (x y z : F32) : F32 :=
  let one (h : Bool) : FVal := exactAdd (exactMul (f32Val (half x h)) (f32Val (half y h))) (f32Val (half z h))
  packHalves (one false) (one true)

/-- INT32 operations, wrapping (R136); a shift amount counts modulo 32 (DESIGN CHOICE; log 95). -/
def intBin (op : VBin) (x y : BitVec 32) : BitVec 32 :=
  match op with
  | .add => x + y
  | .sub => x - y
  | .mul => x * y
  | .min => if x.toInt < y.toInt then x else y
  | .max => if x.toInt < y.toInt then y else x
  | .shl => x <<< (y.toNat % 32)
  | .shr => x >>> (y.toNat % 32)
  | .sar => x.sshiftRight (y.toNat % 32)
  | .and => x &&& y
  | .or => x ||| y
  | .xor => x ^^^ y

def sfuFn : VSfu → F32 → F32
  | .exp2 => sfuExp2
  | .log2 => sfuLog2
  | .recip => sfuRecip
  | .rsqrt => sfuRsqrt
  | .tanh => sfuTanh
  | .erf => sfuErf
  | .sigmoid => sfuSigmoid

def relF (r : VRel) (x y : F32) : Bool :=
  let un := fIsNan x || fIsNan y
  match r with
  | .eq => !un && !fLt x y && !fLt y x
  | .ne => un || fLt x y || fLt y x
  | .lt => fLt x y
  | .le => !un && !fLt y x

def relI (r : VRel) (x y : BitVec 32) : Bool :=
  match r with
  | .eq => x == y
  | .ne => x != y
  | .lt => x.toInt < y.toInt
  | .le => x.toInt ≤ y.toInt

/-- A tree reduction over the active lanes (R129): inactive lanes are empty operands. -/
def reduceLanes (op : F32 → F32 → F32) (active : List Bool) (v : List F32) : F32 :=
  let comb (x y : Option F32) : Option F32 :=
    match x, y with
    | some a, some b => some (op a b)
    | none, b => b
    | a, none => a
  ((treeFold comb 8 (lanes.map fun i => if nth true active i then some (nth fZero v i) else none)).getD none).getD fZero

/-! ### LOAD and STORE -/

/-- A lane loaded: widened to FP32; INT32 and packed words as they stand. -/
def laneIn (packed : Bool) (fmt : Nat) (bs : Bytes) (i : Nat) : F32 :=
  if packed then BitVec.ofNat 32 (fld bs (4 * i) 4)
  else
    match fmtOf fmt with
    | some .int32 => BitVec.ofNat 32 (fld bs (4 * i) 4)
    | some f => f32Of (decode f (codeAt bs (fmtBits f) i))
    | none => fZero

/-- A packed BF16 lane as it is stored: a NaN half is written as the canonical NaN (R73). -/
def canonHalves (x : F32) : F32 := packHalves (f32Val (half x false)) (f32Val (half x true))

/-- Bytes of a stored lane whose format has whole bytes. -/
def laneBytes (packed : Bool) (f : Fmt) : Nat := if packed then 4 else fmtBits f / 8

/-- The bytes of such a lane. -/
def laneOut (packed : Bool) (f : Fmt) (r : Round) (x : F32) : Bytes :=
  if packed then leBytes 4 (canonHalves x).toNat
  else if f == .int32 then leBytes 4 x.toNat
  else leBytes (fmtBits f / 8) (encode f r (f32Val x))

/-- Block k of 32 lanes stored in a format with block scales: the codes of the active lanes beside those that memory
holds for the others, and the block's scale; a block with a NaN holds codes of 0 (R75); nothing where no lane is active. The
scale lies where R106 puts that of a one-row tensor of 256 elements at the address (DEDUCED; log 88). -/
def State.storeBlock (s : State) (g : Nat) (f : Fmt) (base k : Nat) (lanesOf : List (Option (Round × FVal))) :
    Except Fail (List (Nat × Bytes)) :=
  let act := lanesOf.filterMap id
  let w := fmtBits f
  let at0 := base + 4 * w * k
  let sc := blockScale f (act.map (·.2))
  let code (v : Round × FVal) : Nat := nth 0 (blockCodes f [v.1] sc [v.2]) 0
  let out (old : Bytes) : List (Nat × Bytes) :=
    let codes := (List.range 32).map fun i =>
      if sc = 0xFF then 0 else match nth none lanesOf i with | some v => code v | none => codeAt old w i
    [(at0, packCodes w codes), (roundUp (base + 32 * w) 4096 + k, [BitVec.ofNat 8 sc])]
  if act.isEmpty then .ok []
  else if act.length = 32 then .ok (out [])
  else (s.readVa g at0 (4 * w)).map out

/-- What one instruction does: go on, end the work tile, or fault. -/
inductive VNext where
  | go (s : State) (r : VRegs)
  | stop (s : State)
  | fault (s : State) (f : Fail)
  deriving DecidableEq, Repr

/-- A LOAD moves 1 KiB, whatever its format: a BF16 vector is widened from the first half of it (R136; log 88). -/
def State.vecLoad (s : State) (g : Nat) (w : VWord) (packed : Bool) (r : VRegs) : VNext :=
  let va := (r.areg w.a).toNat + 64 * w.imm
  match s.readVa g va 1024 with
  | .error e => .fault s e
  | .ok bs => .go s { r.setV w (laneIn packed w.fmt bs) with pc := r.pc + 1, loads := r.loads ++ [(va, bs)] }

/-- The writes of a STORE: the lanes whose predicate is true, in ascending order. -/
def State.storeWrites (s : State) (g : Nat) (packed : Bool) (f : Fmt) (base : Nat) (lane : Nat → Option (Round × F32)) :
    Except Fail (List (Nat × Bytes)) :=
  if isBlockFmt f && !packed then
    (collect (fun k => s.storeBlock g f base k ((List.range 32).map fun i => (lane (32 * k + i)).map fun v => (v.1, f32Val v.2)))
      (List.range 8)).map (·.flatten)
  else .ok (lanes.filterMap fun i => (lane i).map fun v => (base + laneBytes packed f * i, laneOut packed f v.1 v.2))

def State.vecStore (s : State) (g stream : Nat) (w : VWord) (packed : Bool) (r : VRegs) : VNext :=
  let base := (r.areg w.b).toNat + 64 * w.imm
  let v := r.vreg w.a
  let pr := r.preg w.pred
  let f := (fmtOf w.fmt).getD .fp32
  let lane (i : Nat) : Option (Round × F32) :=
    if nth true pr i then
      some (s.rounder g w.round stream (Config.storeElem (8 * base + fmtBits f * i)), nth fZero v i)
    else none
  match s.storeWrites g packed f base lane with
  | .error e => .fault s e
  | .ok ws =>
    match s.writeAll g (joinRuns ws) with
    | (s', some e) => .fault s' e
    | (s', none) => .go s' { r with pc := r.pc + 1 }

/-- One instruction that touches registers only. -/
def VRegs.lane (r : VRegs) (w : VWord) (f : Nat → F32) : VRegs := { r.setV w f with pc := r.pc + 1 }

/-- A predicate written by a comparison. -/
def VRegs.compare (r : VRegs) (w : VWord) (f : Nat → Bool) : VRegs := { r.setP w f with pc := r.pc + 1 }

/-- One instruction on registers. A reduction gives its result to every active lane of DST; a counted loop takes 1 from A[DST]
and goes to its target while the rest is not 0 (DESIGN CHOICE; log 95). -/
def State.vecReg (s : State) (g stream : Nat) (w : VWord) (o : VOp) (r : VRegs) : VRegs :=
  let x := nth fZero (r.vreg w.a)
  let y := nth fZero (r.vreg w.b)
  let z := nth fZero (r.vreg w.c)
  match o with
  | .fp packed op => r.lane w fun i => if packed then packedBin op (x i) (y i) else fpBin op (x i) (y i)
  | .fma packed => r.lane w fun i => if packed then packedFma (x i) (y i) (z i) else fFma (x i) (y i) (z i)
  | .int op => r.lane w fun i => intBin op (x i) (y i)
  | .sfu fn => r.lane w fun i => sfuFn fn (x i)
  | .cmp float rel => r.compare w fun i => if float then relF rel (x i) (y i) else relI rel (x i) (y i)
  | .select => r.lane w fun i => if nth true (r.preg w.c) i then x i else y i
  | .reduce float op =>
    let t := reduceLanes (if float then fpBin op else intBin op) (r.preg w.pred) (r.vreg w.a)
    r.lane w fun _ => t
  | .broadcast => r.lane w fun _ => x w.imm
  | .permute => r.lane w fun i => x (Config.vecPerm w.op i).val
  | .dice word =>
    r.lane w fun i =>
      let d := s.dice g stream (((r.areg w.a).toNat + i) % 2 ^ 32)
      BitVec.ofNat 32 (match word.val with | 0 => d.w0 | 1 => d.w1 | 2 => d.w2 | _ => d.w3)
  | .scalar op => { r.setA w.dst (intBin op (r.areg w.a) (r.areg w.b)) with pc := r.pc + 1 }
  | .scalarImm op => { r.setA w.dst (intBin op (r.areg w.a) (BitVec.ofNat 32 w.imm)) with pc := r.pc + 1 }
  | .loop =>
    let n := r.areg w.dst - 1
    { r.setA w.dst n with pc := if n = 0 then r.pc + 1 else w.imm }
  | .branch => { r with pc := w.imm }
  | .branchIf rel => { r with pc := if relI rel (r.areg w.a) (r.areg w.b) then w.imm else r.pc + 1 }
  | _ => { r with pc := r.pc + 1 }

def State.vecStep (s : State) (g stream : Nat) (ks : List VWord) (r : VRegs) : VNext :=
  match ks[r.pc]? with
  | none => .stop s
  | some w =>
    match w.opOf with
    | none | some .done => .stop s
    | some (.load packed) => s.vecLoad g w packed r
    | some (.store packed) => s.vecStore g stream w packed r
    | some o => .go s (s.vecReg g stream w o r)

/-- Instructions a core issues in 200 microseconds at one a cycle of 1,100 MHz: a kernel that runs on meets the watchdog
(R137; DESIGN CHOICE, log 95). -/
def vecFuel : Nat := 220000

/-- What a kernel leaves: its loads in the hub of its core's die and in the core store, and the core's registers. -/
def VRegs.seen (r : VRegs) (s : State) (g : Nat) : State :=
  (s.accessed (dieOfCore r.core) g (r.loads.map fun x => (x.1, x.2.length)) []).modCore r.core fun k =>
    { k with mem := { k.mem.after {} r.loads.reverse with vregs := r.v, aregs := r.a, pregs := r.p } }

/-- A work tile's kernel run to its END (R134). -/
def State.vecTile (s : State) (g stream : Nat) (ks : List VWord) : Nat → VRegs → State × Option Fail
  | 0, r => (r.seen s g, some { status := stWatchdog })
  | fuel + 1, r =>
    match s.vecStep g stream ks r with
    | .stop s' => (r.seen s' g, none)
    | .fault s' e => (r.seen s' g, some e)
    | .go s' r' => s'.vecTile g stream ks fuel r'

/-- The registers at the start of work tile w on a core. -/
def startRegs (core : Nat) (arg : Bytes) (w : Nat) : VRegs :=
  { core := core, a := BitVec.ofNat 32 w :: (List.range 31).map fun i => BitVec.ofNat 32 (fld arg (4 * (i + 1)) 4) }

/-- Work tile t of a VEC: the argument block read, then the kernel run (R134). -/
def State.vecRun (s : State) (g core : Nat) (d k : Bytes) (t : Nat) : State × Option Fail :=
  match s.readVa g (dAddr d 24) 128 with
  | .error e => (s, some e)
  | .ok arg => s.vecTile g (fld d 40 4) (kernelWords k) vecFuel (startRegs core arg t)

def State.vecDo (s : State) (g q seq : Nat) (r : Run) (t : Nat) : State :=
  match s.vecRun g ((s.tileCore g q seq t).getD 0) r.raw r.block t with
  | (s', some e) => s'.failTile g q seq t e.status e.tile
  | (s', none) => s'.markTile g q seq t []

def State.vecRow (s : State) (g q seq : Nat) : State :=
  match s.gate g q seq (isOp 0x28) with
  | some (r, t) => s.vecDo g q seq r t
  | none => s

def execVec (g q seq : Nat) (s : State) : Host.Outcome State Fault Refusal := .next (s.vecRow g q seq)

end Sys2Proof.Machine
end

