-- ==== Sys2Proof/Machine/Forward.lean ====
section
/-! DEFINITION. Sys2Proof/Machine/Forward.lean: the checks of R54 over the descriptors of the data rows, their result
ranges (R188) and their execution as a step of a recipe's chain (R187). -/
namespace Sys2Proof.Machine

/-! ### Checks 1 to 3 of R54 -/

/-- The opcodes of R42. -/
def opcodes : List Nat :=
  [0x01, 0x02, 0x10, 0x11, 0x12, 0x18, 0x19, 0x1A, 0x20, 0x21, 0x22, 0x23, 0x24, 0x28, 0x29, 0x30, 0x31, 0x32, 0x38, 0x40,
   0x48, 0x50, 0x51]

/-- Wait and signal fields obey R44. -/
def syncOk (d : Bytes) : Bool :=
  dWaitOp d ≤ 4 && dSignalOp d ≤ 3 && (dWaitOp d != 0 || (dWaitCtr d == 0 && dWaitValue d == 0)) &&
  (dSignalOp d != 0 || (dSignalCtr d == 0 && dSignalInc d == 0))

/-- The status of the first of the checks 1 to 3 that fails; 0 when none does. -/
def headerStatus (d : Bytes) : Nat :=
  if !opcodes.contains (dOpcode d) then stBadOpcode
  else if 8 ≤ dFlags d then stBadFlags
  else if !syncOk d then stBadSync
  else 0

/-! ### Check 4 of R54 -/

/-- Whether an opcode's body holds only PARAM_ADDR (R141, R200, R238). -/
def hasParam (op : Nat) : Bool := [0x11, 0x18, 0x19, 0x20, 0x21].contains op

/-- The parameter block, or the kernel, that validation reads once; empty for the other opcodes. -/
def State.blockOf (s : State) (g : Nat) (d : Bytes) : Except Fail Bytes :=
  if hasParam (dOpcode d) then
    if (if dOpcode d = 0x11 then bwdDescCheck d else paramBody d) then s.readVa g (dAddr d 16) 128
    else .error { status := stBadField }
  else if dOpcode d = 0x28 then
    if vecCheck d then s.readVa g (dAddr d 16) (8 * fld d 36 2) else .error { status := stBadField }
  else .ok []

/-- The body and block of a data descriptor obey its chapter. -/
def State.dataOk (s : State) (g : Nat) (d blk : Bytes) : Bool :=
  match dOpcode d with
  | 0x01 => moveCheck d
  | 0x02 => checkCheck d
  | 0x10 => gemmCheck d
  | 0x11 => bwdCheck (s.govSlots g) blk
  | 0x12 => distCheck d
  | 0x18 => convCheck false blk
  | 0x19 => convCheck true blk
  | 0x1A => cropCheck d
  | 0x20 => attnCheck false (s.kvGeo g) blk
  | 0x21 => attnCheck true (s.kvGeo g) blk
  | 0x22 => kvAppendCheck (s.kvGeo g) d
  | 0x23 => kvEditCheck d
  | 0x24 => kvFreeCheck d
  | 0x28 => kernelCheck blk
  | 0x29 => normCheck d
  | 0x38 => diceCheck d
  | _ => false

/-- Check 4 of a data descriptor: its block, or why it fails. -/
def State.dataCheck (s : State) (g : Nat) (d : Bytes) : Except Fail Bytes :=
  match s.blockOf g d with
  | .error e => .error e
  | .ok blk => if s.dataOk g d blk then .ok blk else .error { status := stBadField }

/-- Work tiles on cores of a data descriptor; the walker's descriptors count as one (DESIGN CHOICE, log 29). -/
def State.dataTiles (s : State) (g : Nat) (d blk : Bytes) : Except Fail Nat :=
  match dOpcode d with
  | 0x10 => .ok (gemmTiles d)
  | 0x11 => .ok (bwdTiles blk)
  | 0x12 => .ok (distTiles d)
  | 0x18 => .ok (convTiles false blk)
  | 0x19 => .ok (convTiles true blk)
  | 0x1A => .ok (cropTiles d)
  | 0x20 => s.attnTiles g false blk
  | 0x21 => s.attnTiles g true blk
  | 0x22 | 0x23 | 0x24 => .ok 1
  | 0x28 => .ok (fld d 32 4)
  | 0x29 => .ok (normTiles d)
  | 0x38 => .ok (diceTiles d)
  | _ => .ok 0

/-! ### Result ranges (R188) -/

/-- A result range and the offset of the word that holds its address, in the descriptor or in its block. -/
abbrev Result := Nat × (Nat × Nat)

def moveResults (d : Bytes) : List Result := (moveBody d).runs.map fun r => (24, r)

def gemmResults (d : Bytes) : List Result :=
  match gemmBody d with
  | some b => [(32, b.yRange)]
  | none => []

def distResults (d : Bytes) : List Result :=
  match distBody d with
  | some b => (32, b.yRange) :: (if b.reduce = 0 then [] else [(40, b.idxRange)])
  | none => []

def convResults (dw : Bool) (blk : Bytes) : List Result :=
  match convBody dw blk with
  | some c => [(16, c.yRange)]
  | none => []

def cropResults (d : Bytes) : List Result :=
  match cropBody d with
  | some b => [(32, b.y.range)]
  | none => []

def normResults (d : Bytes) : List Result :=
  match normBody d with
  | some b =>
    if b.op = 2 then (if b.nrec = 0 then [(40, b.statRange)] else [(24, b.yRange)]) else [(24, b.yRange)]
  | none => []

def diceResults (d : Bytes) : List Result :=
  match (diceBody d).df with
  | some f => [(16, packedRange (diceBody d).dst (diceBody d).count f)]
  | none => []

/-- The output rows and records of an ATTN_FWD, by batch entry. -/
def State.attnResults (s : State) (g : Nat) (blk : Bytes) : List Result :=
  match attnBody blk with
  | some a =>
    match s.attnEntries g a with
    | .ok es => es.flatMap fun e =>
        let p := rowPitch (a.hq * a.hd) (fmtBits a.oFmt)
        [(24, (a.oAddr + e.qRow0 * p, e.nq * p)), (32, (a.lseAddr + 8 * (e.qRow0 * a.hq), 8 * (e.nq * a.hq)))]
    | .error _ => []
  | none => []

/-- The result ranges of a chain descriptor; a VEC writes where its kernel computes and has none. -/
def State.results (s : State) (g : Nat) (d blk : Bytes) : List Result :=
  match dOpcode d with
  | 0x01 => moveResults d
  | 0x10 => gemmResults d
  | 0x12 => distResults d
  | 0x18 => convResults false blk
  | 0x19 => convResults true blk
  | 0x1A => cropResults d
  | 0x20 => s.attnResults g blk
  | 0x29 => normResults d
  | 0x38 => diceResults d
  | _ => []

/-- The offsets of the words that hold a result address: of a DIST the indices where it reduces (R117), of a NORM with
OP 2 the records, at STATS_ADDR where NREC is 0 and else at Y_ADDR (R131). -/
def outWords (d : Bytes) : List Nat :=
  match dOpcode d with
  | 0x01 => [24]
  | 0x10 => [32]
  | 0x12 => match distBody d with | some b => if b.reduce = 0 then [32] else [32, 40] | none => []
  | 0x18 | 0x19 => [16]
  | 0x1A => [32]
  | 0x20 => [24, 32]
  | 0x29 => match normBody d with | some b => if b.op = 2 && b.nrec == 0 then [40] else [24] | none => []
  | 0x38 => [16]
  | _ => []

/-! ### Execution in a chain (R187) -/

/-- Bits [56:0] of the word at an offset replaced. -/
def putAddr (bs : Bytes) (off a : Nat) : Bytes := putBytes bs off (leBytes 8 (dTop bs off * 2 ^ 57 + a % 2 ^ 57))

/-- The descriptor and block of a chain step with its output address replaced where `out` names a word and an address. -/
def placed (d blk : Bytes) (out : Option (Nat × Nat)) : Bytes × Bytes :=
  match out with
  | none => (d, blk)
  | some (off, a) => if hasParam (dOpcode d) then (d, putAddr blk off a) else (putAddr d off a, blk)

/-- A whole MOVE of a chain, carried out by the move engines. -/
def State.chainMove (s : State) (g : Nat) (d : Bytes) (out : Option (Nat × Nat)) : State × Option Fail :=
  let b := moveBody (placed d [] out).1
  s.moveAll g b (b.bytes + 1) 0

/-- Work tile t of a VEC of a chain on core c; `out` replaces the argument word at an offset. -/
def State.chainVec (s : State) (c g : Nat) (d blk : Bytes) (out : Option (Nat × Nat)) (t : Nat) : State × Option Fail :=
  match s.readVa g (dAddr d 24) 128 with
  | .error e => (s, some e)
  | .ok arg =>
    let arg := match out with | some (off, a) => putBytes arg off (leBytes 8 a) | none => arg
    s.vecTile g (fld d 40 4) (kernelWords blk) vecFuel (startRegs c arg t)

/-- Work tile t of a chain descriptor other than MOVE and VEC; `ws` holds the snapshots it registered at its start (R224). -/
def State.chainWork (s : State) (g : Nat) (d blk : Bytes) (ws : List Walker) (t : Nat) : Work :=
  match dOpcode d with
  | 0x10 => s.gemmWork g d t
  | 0x12 => s.distWork g d t
  | 0x18 => s.convWork g false blk t
  | 0x19 => s.convWork g true blk t
  | 0x1A => s.cropWork g d t
  | 0x20 => s.attnWork g false blk ws t
  | 0x29 => s.normWork g d t
  | 0x38 => s.diceWork g d t
  | _ => { status := stBadField }

/-- A work's writes made on core c; the first failure, or its own status where that is a fault. -/
def State.makeWork (s : State) (c g : Nat) (w : Work) : State × Option Fail :=
  match s.writeAll g (joinRuns w.writes) with
  | (s', some e) => (s', some e)
  | (s', none) =>
    if isJobFault w.status then (s', some { status := w.status, tile := w.tile })
    else ((s'.accessed (dieOfCore c) g w.reads (w.writes.map writeRange)).coreLeft s c g w, none)

/-- Work tile t of a chain descriptor carried out on core c; its tallies change no governor (R187). -/
def State.chainTile (s : State) (c g : Nat) (d blk : Bytes) (out : Option (Nat × Nat)) (ws : List Walker) (t : Nat) :
    State × Option Fail :=
  if dOpcode d = 0x28 then s.chainVec c g d blk out t
  else
    let x := placed d blk out
    s.makeWork c g (s.chainWork g x.1 x.2 ws t)

end Sys2Proof.Machine
end

