-- ==== Sys2Proof/Machine/Link.lean ====
section
/-! DEFINITION. Sys2Proof/Machine/Link.lean: what sends packets: device identifiers, rank maps, routes (R293, R294), packets,
flits, credits and the replay buffer of a port (R282 to R288, R367), bundles (R297) and delivery at the own module (R295). -/
namespace Sys2Proof.Machine

/-! ### Device IDs, coordinates and tables (R293) -/

def State.ownId (s : State) : Nat := s.cfg 0x4100 1
def State.hopLimit (s : State) : Nat := s.cfg 0x4100 4
def coordOf (id d : Nat) : Nat := bitsOf id (3 * d) 3

/-- One entry of DIM_TABLE: port mask and DATELINE. -/
def State.dimEntry (s : State) (d v : Nat) : Nat × Bool :=
  let e := fld (s.cfgBytes 0x4100 2) (8 * (8 * d + v)) 8
  (e % 2 ^ 32, e.testBit 32)

/-- The port mask of the exception entry that is valid for a device. -/
def State.exception (s : State) (id : Nat) : Option Nat :=
  let b := s.cfgBytes 0x4100 3
  ((List.range (b.length / 8)).map fun i => fld b (8 * i) 8).findSome? fun e =>
    if e % 2 ^ 18 = id ∧ e.testBit 18 then some (e / 2 ^ 32) else none

def State.myRank (s : State) (p : Nat) : Nat := s.cfg (0x4110 + p) 1
def State.ranks (s : State) (p : Nat) : Nat := s.cfg (0x4110 + p) 2

/-- The device and partition of a rank whose entry is VALID (R293, R295). -/
def State.rankOf (s : State) (p r : Nat) : Option (Nat × Nat) :=
  let e := fld (s.cfgBytes (0x4110 + p) 3) (4 * r) 4
  if r < s.ranks p ∧ e.testBit 31 then some (e % 2 ^ 18, bitsOf e 18 3) else none

/-! ### Routes (R294) -/

def Port.live (p : Port) : Bool := p.st == .up || p.st == .degraded

/-- The live ports of a mask, ascending. -/
def State.livePorts (s : State) (mask : Nat) : List Nat :=
  (List.range 32).filter fun i => mask.testBit i && (s.port i).live

/-- Where a packet leaves: port, DIM and whether on the upper VC of its class. -/
structure Route where
  port : Nat
  dim : Nat
  upper : Bool
  deriving DecidableEq, Repr

/-- Mask, DIM and VC of R294 for a packet that arrived on the upper VC or not. -/
def State.maskOf (s : State) (k : Packet) (upper : Bool) : Nat × Nat × Bool :=
  match s.exception k.dstId with
  | some m => (m, 7, true)
  | none =>
    match (List.range 6).find? fun d => coordOf k.dstId d != coordOf s.ownId d with
    | none => (0, 7, upper)
    | some d =>
      let e := s.dimEntry d (coordOf k.dstId d)
      (e.1, d, if e.2 then true else if d ≠ k.dim then false else upper)

def popcount (w n : Nat) : Nat := ((List.range w).filter n.testBit).length

/-- The route of a packet, or none where it is discarded. -/
def State.routeOf (s : State) (k : Packet) (upper : Bool) : Option Route :=
  let m := s.maskOf k upper
  let live := s.livePorts m.1
  if live = [] ∨ s.hopLimit < k.hops + 1 then none
  else
    let h := popcount 18 (k.srcId ^^^ k.dstId ^^^ (k.flow % 2 ^ 18))
    some { port := nth 0 live (h % live.length), dim := m.2.1, upper := m.2.2 }

/-! ### Packets as bytes (R286, R288) -/

/-- The header of a packet under a KEY_PHASE, with its HDR_CHECK. -/
def headerBytes (k : Packet) (len : Nat) (phase : Bool) : Bytes :=
  let h := leBytes 4 (k.dstId + k.dstPart * 2 ^ 18 + (if phase then 2 ^ 21 else 0) + k.tc * 2 ^ 22 + k.type * 2 ^ 24) ++
    leBytes 4 (k.srcId + k.srcPart * 2 ^ 18 + k.hops * 2 ^ 21 + k.dim * 2 ^ 27) ++ leBytes 4 k.dstRank ++ leBytes 2 len ++
    leBytes 2 k.flow ++ leBytes 8 k.offset.toNat ++ leBytes 4 k.bundleSeq.toNat
  h ++ leBytes 4 (crc32c h).toNat

/-- The nonce of a packet (R288). -/
def linkNonce (k : LinkKey) : Bytes := beBytes 4 k.keyId ++ beBytes 8 k.count

/-- The bytes of an outgoing packet that are known: header, the payload that has come, and the tag once no more comes. A
broken one ends in the complement of the tag of what left (log 33). -/
def TxPkt.bytes (x : TxPkt) : Bytes :=
  let h := headerBytes x.pkt x.len ((x.key.map (·.phase)).getD false)
  match x.clear, x.key with
  | true, _ => h ++ x.pkt.payload ++ zeros 16
  | false, none => []
  | false, some k =>
    let r := gcmSeal k.key (linkNonce k) (h.take 28) x.pkt.payload
    h ++ r.1 ++ match x.st with | .coming => [] | .whole => r.2 | .broken => r.2.map (~~~ ·)

/-- The next flit of a packet: its KIND and bytes, or none where too little has come (R282). -/
def TxPkt.flit (x : TxPkt) : Option (Nat × Bytes) :=
  let rest := x.bytes.drop x.sent
  if x.st ≠ .coming ∧ rest.length ≤ 244 then (if rest = [] then none else some (3, rest))
  else if 244 ≤ rest.length then some (if x.sent = 0 then 1 else 2, rest.take 244)
  else none

/-! ### Flits as bytes (R282, R285, R299) -/

def flitBytes (f : SentFlit) (ack : Option Nat) : Bytes :=
  let w := f.kind * 2 ^ 60 + f.vc * 2 ^ 57 + f.seq * 2 ^ 45 + ack.getD 0 * 2 ^ 33 + (if ack.isSome then 2 ^ 32 else 0) +
    f.creditVc * 2 ^ 29 + f.credit * 2 ^ 20 + f.data.length * 2 ^ 12
  let b := leBytes 8 w ++ sized 244 f.data
  b ++ leBytes 4 (crc32c b).toNat

/-- The payload of a control flit, whose layout the spec does not give (log 33). -/
def Ctl.bytes (m : Ctl) : Bytes :=
  (match m with
   | .nak seq => Config.control 0 seq 0
   | .laneReady => Config.control 1 0 0
   | .switch => Config.control 2 0 0
   | .heartbeat dev counter => Config.control 3 dev counter.toNat
   | .keyPhase => Config.control 4 0 0).take 244

/-- What a port needs of the module to send: the time, FILL_SHARE, the longest round trip of the link, and its datagrams in
ETHERNET mode. -/
structure LinkEnv where
  now : Nat
  fillShare : Nat
  roundTrip : Nat
  udp : Option Udp
  deriving DecidableEq, Repr

def State.portMode (s : State) (p : Nat) : Nat := s.cfg (0x4000 + p) 1

def State.linkEnv (s : State) (p : Nat) : LinkEnv :=
  { now := s.now, fillShare := s.cfg 0x5000 7
    roundTrip := if s.portMode p = 2 then s.cfg (0x4000 + p) 0x14 * 1000 else 2600
    udp := if s.portMode p = 2 then
        some { src := s.cfgBytes (0x4000 + p) 0x10, dst := s.cfgBytes (0x4000 + p) 0x11, port := s.cfg (0x4000 + p) 0x12
               dscp := s.cfg (0x4000 + p) 0x13 }
      else none }

/-- The class a flit is marked with: that of its VC, and TC2 for one that carries no packet (log 33). -/
def SentFlit.tc (f : SentFlit) : Nat := if f.no.isSome then f.vc / 2 else 2

/-- A flit put on the link, with the ACK of everything received. -/
def Port.emit (x : Port) (e : LinkEnv) (f : SentFlit) : Port :=
  let ack := if x.rxAny then some ((x.rxSeq + 4095) % 4096) else none
  let udp := e.udp.map fun u => { u with dscp := u.dscp + f.tc }
  { x with wire := x.wire ++ [{ flit := flitBytes f ack, udp := udp }], ackDue := false }

/-! ### Credits and the replay buffer (R282 to R284) -/

/-- Whether flits pass on a link: trained, and in AUTH or live. -/
def Port.linked (x : Port) : Bool := x.live || x.st == .auth

/-- The flits a receiver holds for a VC. -/
def vcBuffer (vc : Nat) : Nat := if vc < 2 then 512 else if vc < 4 then 192 else 64

def Port.credit (x : Port) (vc : Nat) : Nat := mapGet (vcBuffer vc) x.credits vc

/-- The VC whose freed buffer the next flit returns, and how many flits of it. -/
def Port.giving (x : Port) : Nat × Nat :=
  match (List.range 6).find? fun vc => mapGet 0 x.freed vc != 0 with
  | some vc => (vc, min 511 (mapGet 0 x.freed vc))
  | none => (0, 0)

def Port.gave (x : Port) : Port :=
  { x with freed := mapSet x.freed x.giving.1 (mapGet 0 x.freed x.giving.1 - x.giving.2) }

/-- A flit sent for the first time: it takes the next SEQ and a place in the replay buffer. -/
def Port.put (x : Port) (e : LinkEnv) (kind vc : Nat) (data : Bytes) (no : Option Nat) (ctl : Option Ctl) : Port :=
  let f : SentFlit :=
    { kind := kind, vc := vc, seq := x.txSeq, creditVc := x.giving.1, credit := x.giving.2, data := data, no := no, ctl := ctl
      time := e.now }
  ({ x.gave with txSeq := (x.txSeq + 1) % 4096, replay := x.replay ++ [f] }).emit e f

/-- An IDLE flit, which takes no SEQ and no place (log 33). -/
def Port.idle (x : Port) (e : LinkEnv) : Port :=
  x.gave.emit e
    { kind := 0, vc := 0, seq := x.txSeq, creditVc := x.giving.1, credit := x.giving.2, data := [], no := none, ctl := none, time := e.now }

/-- IDLE flits while there is something to acknowledge or to return. -/
def Port.flushFor (e : LinkEnv) : Nat → Port → Port
  | 0, x => x
  | n + 1, x => if x.ackDue || x.giving.2 != 0 then Port.flushFor e n (x.idle e) else x

def Port.flush (x : Port) (e : LinkEnv) : Port := Port.flushFor e 16 x

/-- An IDLE flit of a port that has sent nothing else since its link stood at `old` (R282). The stream of IDLE flits that goes on
while nothing happens is not counted out: a port sends one whenever it is asked to send and has nothing (log 33). -/
def Port.fillIdle (x old : Port) (e : LinkEnv) : Port :=
  if e.udp.isNone && x.wire.length == old.wire.length then x.idle e else x

/-- Whether a sender waits for acknowledgements (R283). -/
def Port.full (x : Port) : Bool := 1024 ≤ x.replay.length

/-- Waiting control messages, which need no credit and go before every packet (R284). -/
def Port.drainCtl (e : LinkEnv) : List Ctl → Port → Port
  | [], x => x
  | m :: rest, x => if x.full then x else Port.drainCtl e rest (({ x with ctlq := rest }).put e 4 0 m.bytes none (some m))

/-- A control message sent (R285). -/
def Port.sendCtl (x : Port) (e : LinkEnv) (m : Ctl) : Port :=
  Port.drainCtl e (x.ctlq ++ [m]) { x with ctlq := x.ctlq ++ [m] }

def State.sendCtl (s : State) (p : Nat) (m : Ctl) : State := s.modPort p (·.sendCtl (s.linkEnv p) m)

/-! ### The next flit (R284, R367) -/

/-- A packet as it would leave now: the next key and count of the port, if it has none yet. -/
def Port.keyed (x : Port) (k : TxPkt) : TxPkt := if k.sent = 0 ∧ !k.clear then { k with key := x.txKey } else k

/-- The build or the fill that a packet on TC1 belongs to: its TYPE, the group's tag and the point in its OFFSET, the member that
is filled, and the partition it is for (log 33). -/
def secStream (k : Packet) : Nat × Nat × Nat × Nat :=
  (k.type, k.offset.toNat / 2 ^ 26, if k.type = 0x09 then bitsOf k.flow 8 4 else 0, k.dstPart)

/-- Whether no packet goes before this one on its VC: the packet that has begun to leave, else the first, and on TC1 the
first of its build or fill. -/
def Port.heads (x : Port) (k : TxPkt) : Bool :=
  let same := x.txq.filter (·.vc == k.vc)
  match same.find? (0 < ·.sent) with
  | some j => j.no == k.no
  | none =>
    match same.find? fun j => k.vc / 2 != 1 || secStream j.pkt == secStream k.pkt with
    | some j => j.no == k.no
    | none => false

/-- The packets of a class that have a flit and a credit. -/
def Port.able (x : Port) (tc : Nat) : List TxPkt :=
  x.txq.filter fun k =>
    k.vc / 2 == tc && x.heads k && 0 < x.credit k.vc && (if k.clear then x.st == .auth else x.live) && ((x.keyed k).flit).isSome

/-- The packet whose build or fill has waited longest for its turn (R367). -/
def Port.inTurn (x : Port) (l : List TxPkt) : Option TxPkt :=
  match l.find? fun k => !x.turns.contains (secStream k.pkt) with
  | some k => some k
  | none => x.turns.findSome? fun t => l.find? fun k => secStream k.pkt == t

/-- The packet of a class that sends: one that has begun to leave; else, on TC1, builds and fills in turn. -/
def Port.pick (x : Port) (tc : Nat) : Option TxPkt :=
  let l := x.able tc
  match l.find? (0 < ·.sent) with
  | some k => some k
  | none => if tc = 1 then x.inTurn l else l.head?

/-- A build or fill that takes its turn goes behind all others that still have packets. -/
def Port.tookTurn (x : Port) (k : TxPkt) : List (Nat × Nat × Nat × Nat) :=
  (x.turns.filter fun t => t != secStream k.pkt && x.txq.any fun j => secStream j.pkt == t) ++ [secStream k.pkt]

/-- Whether TC1 has the turn among TC0 and TC1: the first FILL_SHARE flits of every 100 (log 33). -/
def Port.tc1Turn (x : Port) (e : LinkEnv) : Bool := x.share < e.fillShare

/-- The packet that sends the next flit: TC2 first, then TC1 and TC0 by FILL_SHARE. -/
def Port.choose (x : Port) (e : LinkEnv) : Option TxPkt × Bool :=
  match x.pick 2, x.pick 1, x.pick 0 with
  | some k, _, _ => (some k, false)
  | none, some k, none => (some k, false)
  | none, none, k => (k, false)
  | none, some k, some j => (some (if x.tc1Turn e then k else j), true)

/-- A flit of a packet sent; the packet is gone from the queue once its last flit has left. The second result is the
buffer that its leaving frees: port, VC and flits. -/
def Port.sendFlit (x : Port) (e : LinkEnv) (k : TxPkt) (shared : Bool) : Port × List (Nat × Nat × Nat) :=
  let begins := k.sent = 0
  let k := x.keyed k
  match k.flit with
  | none => (x, [])
  | some (kind, data) =>
    let last := kind = 3
    let frees := if last then k.owed else min 1 k.owed
    let k' := { k with sent := k.sent + data.length, owed := k.owed - frees }
    let txKey := if begins ∧ !k.clear then x.txKey.map fun y => { y with count := y.count + 1 } else x.txKey
    let y := { x with
      txKey := txKey
      credits := mapSet x.credits k.vc (x.credit k.vc - 1)
      share := if shared then (x.share + 1) % 100 else x.share
      turns := if begins ∧ k.vc / 2 = 1 then x.tookTurn k else x.turns
      txq := if last then x.txq.filter (·.no != k.no) else modWhere (·.no == k.no) (fun _ => k') x.txq
      sentq := if last then x.sentq ++ [k'] else x.sentq }
    (y.put e kind k.vc data (some k.no) none, match k.src with | some (p, vc) => [(p, vc, frees)] | none => [])

/-- Flits sent while credits, the replay buffer and what has come allow. -/
def Port.pumpFor (e : LinkEnv) : Nat → Port → List (Nat × Nat × Nat) → Port × List (Nat × Nat × Nat)
  | 0, x, l => (x, l)
  | n + 1, x, l =>
    if x.full then (x, l)
    else
      match x.choose e with
      | (none, _) => (x, l)
      | (some k, shared) =>
        let r := x.sendFlit e k shared
        Port.pumpFor e n r.1 (l ++ r.2)

/-- Control flits first, then packets, then IDLE for what is left to say, or because there is nothing else. -/
def Port.pump (x : Port) (e : LinkEnv) : Port × List (Nat × Nat × Nat) :=
  let r := Port.pumpFor e 1024 (Port.drainCtl e x.ctlq x) []
  ((r.1.flush e).fillIdle x e, r.2)

/-- Buffer of a port that a packet has left: its credits go back to the peer. -/
def State.freeBuffer (s : State) (p vc n : Nat) : State :=
  if n = 0 then s
  else s.modPort p fun x =>
    if x.linked then ({ x with freed := mapMod 0 x.freed vc (· + n) }).flush (s.linkEnv p) else x

/-- A port sends what it can. -/
def State.pump (s : State) (p : Nat) : State :=
  if (s.port p).linked then
    let r := (s.port p).pump (s.linkEnv p)
    r.2.foldl (fun s f => s.freeBuffer f.1 f.2.1 f.2.2) (s.modPort p fun _ => r.1)
  else s

/-! ### Bundles (R297) -/

/-- The bundle of a port; a port without one is a bundle of its own. -/
def State.bundleOf (s : State) (p : Nat) : Nat :=
  if s.cfg (0x4000 + p) 3 = 0xFF then 256 + p else s.cfg (0x4000 + p) 3
def State.bundle (s : State) (b : Nat) : Bundle := mapGet {} s.fab.bundles b

/-- A packet queued on a port, in the module's order and under the bundle's next BUNDLE_SEQ. -/
def State.queuePkt (s : State) (p : Nat) (x : TxPkt) : State :=
  let b := s.bundleOf p
  let x := { x with no := s.fab.nextNo, pkt := { x.pkt with bundleSeq := (s.bundle b).next } }
  let s := s.modFab fun f =>
    { f with nextNo := f.nextNo + 1, bundles := mapMod {} f.bundles b fun y => { y with next := y.next + 1 } }
  (s.modPort p fun y => { y with txq := y.txq ++ [x] }).pump p

/-- A packet put on the port of a route. -/
def State.enqueue (s : State) (r : Route) (x : TxPkt) : State :=
  s.queuePkt r.port
    { x with pkt := { x.pkt with dim := r.dim, hops := x.pkt.hops + 1 }, vc := 2 * x.pkt.tc + if r.upper then 1 else 0 }

/-! ### Delivery and sending (R295) -/

/-- Whether a partition index names a live partition. -/
def State.partLive (s : State) (p : Nat) : Bool := p < s.partCount && (s.part p).st == .ready

/-- The checks of R295 on a packet for this module, whose TC R286 has from 0 to 2. -/
def State.deliverable (s : State) (k : Packet) : Bool :=
  s.partLive k.dstPart && k.dstRank == s.myRank k.dstPart && k.checkOk && k.tc < 3

def State.handOver (s : State) (k : Packet) : State := s.modFab fun f => { f with handed := f.handed ++ [k] }

/-- Whether the fixed route of R10 from die a to die b crosses a link that is out of service. -/
def State.pathOut (s : State) (a b : Nat) : Bool :=
  let lo := min (a % 4) (b % 4)
  (List.range (max (a % 4) (b % 4) - lo)).any (fun c => (s.link (3 * (a / 4) + lo + c)).out) ||
    (a / 4 != b / 4 && (s.link (6 + b % 4)).out)

def State.countDiscard (s : State) (arrival : Option Nat) : State :=
  match arrival with
  | some p => s.modPort p fun x => { x with discards := x.discards + 1 }
  | none => s

/-- The route of a packet from a die; none where no port is live, hops are too many, or a link on the way is out of
service (R294, R446). -/
def State.routeFrom (s : State) (die : Nat) (upper : Bool) (k : Packet) : Option Route :=
  (s.routeOf k upper).filter fun r => !s.pathOut die (dieOfPort r.port)

/-- A packet of this module's own engines, whole as it is queued. No rule says from which die of its partition it starts
on its route of R10 to the port: the model takes the partition's lowest die (DESIGN CHOICE, log 50). -/
def State.send (s : State) (k : Packet) : State :=
  if k.dstId = s.ownId then (if s.deliverable k then s.handOver k else s)
  else
    match s.routeFrom (k.srcPart * s.dieCount) false k with
    | some r => s.enqueue r { no := 0, pkt := k, len := k.payload.length, vc := 0, st := .whole }
    | none => s

/-- A packet from a partition to a device and partition. -/
def State.packet (s : State) (p dev part rank type tc flow : Nat) (offset : BitVec 64) (payload : Bytes) : Packet :=
  { dstId := dev, dstPart := part, tc := tc, type := type, srcId := s.ownId, srcPart := p, hops := 0, dim := 7,
    dstRank := rank, flow := flow, offset := offset, bundleSeq := 0, checkOk := true, payload := payload }

/-- A packet sent to a rank; a rank that is not VALID is a missing peer and gets none (R295). -/
def State.sendRank (s : State) (p rank type tc flow : Nat) (offset : BitVec 64) (payload : Bytes) : State :=
  match s.rankOf p rank with
  | some (dev, part) => s.send (s.packet p dev part rank type tc flow offset payload)
  | none => s

/-- SESSION_ID of a wrapper that carries an MCTP packet (R402). -/
def spdmSession : Nat := 0xFFFFFFFF

/-- The wrapper of an MCTP packet. -/
def mctpWrap (b : Bytes) : Bytes := leBytes 4 spdmSession ++ zeros 8 ++ b

/-- The MCTP packet that carries an SPDM message: the spec names DSP0238 and DSP0277 and gives no bytes (log 22). -/
opaque mctpOf : SpdmOut → Bytes

/-- The context whose end-to-end session an SPDM message belongs to, if any, and its connection (R402, R407). -/
def SpdmOut.carrier : SpdmOut → Option Nat × Conn
  | .version c | .capabilities c | .algorithms c | .digests c _ | .certificate c _ | .challengeAuth c _ | .measurements c _ _
  | .keyExchangeRsp c _ _ | .finishRsp c _ | .keyUpdateAck c _ | .heartbeatAck c _ | .endSessionAck c _ | .encapsulatedAck c _
  | .error c _ => (none, c)
  | .request (.groupKey g) c _ => (some g, c)
  | .request (.port _) c _ => (none, c)
  | .keyRequest g dev part | .keyDeliver g dev part => (some g, .dict (.fabric dev part))

/-- The lowest partition that is READY, or 0. -/
def State.lowestPart (s : State) : Nat := ((List.range 8).find? s.partLive).getD 0

/-- The rank that names a device and partition in a partition's map, or 0. -/
def State.rankNamed (s : State) (p dev part : Nat) : Nat :=
  ((List.range (s.ranks p)).find? fun r => s.rankOf p r == some (dev, part)).getD 0

/-- A management packet of MD from a partition to a device and partition, on TC2 (R385). -/
def State.sendMgmt (s : State) (p dev part : Nat) (payload : Bytes) : State :=
  s.send (s.packet p dev part (s.rankNamed p dev part) 0x10 2 0 0 payload)

/-- A management packet of MD to the peer of a port, in clear while the port is in AUTH (R405). -/
def State.sendPeer (s : State) (p : Nat) (payload : Bytes) : State :=
  let k := { s.packet 0 ((s.port p).peer.toNat % 2 ^ 18) 0 0 0x10 2 0 0 payload with hops := 1 }
  s.queuePkt p { no := 0, pkt := k, len := payload.length, vc := 4, clear := (s.port p).st == .auth, st := .whole }

/-- The packet that waits at the engines, taken. -/
def State.takeHanded (s : State) (k : Packet) : State := s.modFab fun f => { f with handed := f.handed.erase k }

/-- The next bytes the spec leaves unspecified (log 4). -/
def State.freeBytes (s : State) (n : Nat) : Bytes × State :=
  ((List.range n).map fun i => BitVec.ofNat 8 ((Config.freeValue (s.free + i / 64)).toNat >>> (8 * (i % 64))),
   { s with free := s.free + ceilDiv n 64 })

end Sys2Proof.Machine
end

