-- ==== Sys2Proof/Machine/Coll.lean ====
section
/-! DEFINITION. Sys2Proof/Machine/Coll.lean: collectives and gradient exchange (R302 to R322). -/
namespace Sys2Proof.Machine

def stCollMismatch : Nat := 0x60

/-! ### The parameter block and the group table (R303, R304) -/

structure CollBlk where
  src : Nat
  dst : Nat
  group : Nat
  resid : Nat
  exps : Nat
  scratch : Nat
  scratchBytes : Nat
  count : Nat
  scale : F32
  tag : Nat
  op : Nat
  reduce : Nat
  method : Nat
  sf : Fmt
  df : Fmt
  kshift : Nat
  round : Nat
  root : Nat
  deriving DecidableEq, Repr

def collBlk (b : Bytes) : CollBlk :=
  { src := dAddr b 0, dst := dAddr b 8, group := dAddr b 16, resid := dAddr b 24, exps := dAddr b 32, scratch := dAddr b 40
    scratchBytes := fld b 48 8, count := fld b 56 8, scale := BitVec.ofNat 32 (fld b 64 4), tag := fld b 68 2
    op := bitsOf (fld b 70 1) 0 3, reduce := bitsOf (fld b 70 1) 3 2, method := bitsOf (fld b 70 1) 5 3
    sf := if fld b 71 1 % 16 = 1 then .bf16 else .fp32, df := if fld b 71 1 / 16 = 1 then .bf16 else .fp32
    kshift := fld b 72 1 % 16, round := bitsOf (fld b 72 1) 4 2, root := fld b 73 4 }

structure Group where
  n : Nat
  levels : Nat
  sizes : List Nat
  ranks : List Nat
  deriving DecidableEq, Repr

def groupTable (b : Bytes) : Group :=
  let n := fld b 0 4
  let l := fld b 4 1
  { n := n, levels := l, sizes := (List.range (min l 4)).map fun i => fld b (8 + 4 * i) 4
    ranks := (List.range n).map fun i => fld b (64 + 4 * i) 4 }

def product (l : List Nat) : Nat := l.foldl (· * ·) 1

/-- The head of a group table obeys R304. -/
def groupHeadOk (b : Bytes) : Bool :=
  let n := fld b 0 4
  let l := fld b 4 1
  2 ≤ n && n ≤ 262144 && 1 ≤ l && l ≤ 4 && zeroFrom b 5 8 && zeroFrom b 24 64 &&
  (List.range 4).all (fun i =>
    let v := fld b (8 + 4 * i) 4
    if i < l then 1 ≤ v && v ≤ 262144 else v == 0) &&
  product ((List.range l).map fun i => fld b (8 + 4 * i) 4) == n

/-- A list without repeats, by sorted insertion into a keyed collection. -/
def distinct (l : List Nat) : Bool := (l.foldl (fun m v => mapSet m v ()) ([] : SMap Unit)).length == l.length

/-- The ranks of a group, for the partition whose rank is mine (R304). -/
def ranksOk (g : Group) (ranks mine : Nat) : Bool :=
  distinct g.ranks && g.ranks.all (· < ranks) && g.ranks.contains mine

def CollBlk.elemsIn (b : CollBlk) (n : Nat) : Nat := if b.op = 2 then b.count / n else b.count
def CollBlk.elemsOut (b : CollBlk) (n : Nat) : Nat := if b.op = 1 then b.count / n else b.count
def CollBlk.srcRange (b : CollBlk) (n : Nat) : Nat × Nat := (b.src, b.elemsIn n * (fmtBits b.sf / 8))
def CollBlk.dstRange (b : CollBlk) (n : Nat) : Nat × Nat := (b.dst, b.elemsOut n * (fmtBits b.df / 8))
/-- Bytes of a residual half, and of an exponent half (R312, R317). -/
def CollBlk.residHalf (b : CollBlk) : Nat := roundUp (4 * b.count) 4096
def CollBlk.expHalf (b : CollBlk) : Nat := roundUp (2 * ceilDiv b.count 256) 4096
def CollBlk.compressed (b : CollBlk) : Bool := b.method == 1 || b.method == 2

/-- The ranges other than source and destination. -/
def CollBlk.sideRanges (b : CollBlk) : List (Nat × Nat) :=
  [rangeIf b.compressed (b.resid, 2 * b.residHalf), rangeIf (b.method == 3) (b.exps, 2 * b.expHalf),
   (b.scratch, b.scratchBytes)]

/-- Overlaps of R305: only source equal to destination, in OP 0 with METHOD 0. -/
def CollBlk.rangesOk (b : CollBlk) (n : Nat) : Bool :=
  !anyOverlap (b.srcRange n :: b.sideRanges) && !(b.sideRanges.any (overlap (b.dstRange n))) &&
  (!overlap (b.srcRange n) (b.dstRange n) || (b.op == 0 && b.method == 0 && b.srcRange n == b.dstRange n))

def CollBlk.fieldsOk (b : CollBlk) (raw : Bytes) : Bool :=
  [0, 8, 16, 24, 32, 40].all (fun o => dTop raw o == 0 && mult (dAddr raw o) 4096) && 1 ≤ b.count && b.count < 2 ^ 36 &&
  fIsFinite b.scale && b.op ≤ 3 && b.reduce ≤ 2 && b.method ≤ 3 && fld raw 71 1 % 16 ≤ 1 && fld raw 71 1 / 16 ≤ 1 &&
  (if b.method = 1 then 4 ≤ b.kshift && b.kshift ≤ 10 else b.kshift == 0) && b.round ≤ 1 && fld raw 72 1 < 64 &&
  (b.op == 3 || b.root == 0) && zeroFrom raw 77 128 && (b.compressed || b.resid == 0) && (b.method == 3 || b.exps == 0)

/-- The cases of R305, with a group. -/
def CollBlk.ok (b : CollBlk) (raw : Bytes) (gr : Group) : Bool :=
  b.fieldsOk raw && (b.method == 0 || (b.op == 0 && b.reduce == 0)) && (b.method != 3 || gr.levels == 1) &&
  ((b.op != 1 && b.op != 2) || mult b.count gr.n) && (b.op < 2 || (b.reduce == 0 && b.scale == fOne)) && b.root < gr.n &&
  8 * gr.sizes.foldl max 0 * 262144 ≤ b.scratchBytes && b.rangesOk gr.n

/-- A group table read whole; its head first, because it gives the length. -/
def State.readGroup (s : State) (g addr : Nat) : Except Fail Bytes := do
  let head ← s.readVa g addr 64
  if groupHeadOk head then s.readVa g addr (64 + 4 * fld head 0 4) else .error { status := stBadField }

/-- Check 4 of R54 for a COLL: the block and the group table it reads (R302). -/
def State.collCheck (s : State) (g : Nat) (d : Bytes) : Except Fail (Bytes × Bytes) :=
  if paramBody d then do
    let blk ← s.readVa g (dAddr d 16) 128
    let table ← s.readGroup g (dAddr blk 16)
    let p := partOfCtx g
    if (collBlk blk).ok blk (groupTable table) && ranksOk (groupTable table) (s.ranks p) (s.myRank p) then
      return (blk, table)
    else .error { status := stBadField }
  else .error { status := stBadField }

/-! ### Owners and nodes of the tree (R308, R309; log 32) -/

/-- The owner of node j above l levels for chunk c: subgroup c mod S_l at each level. -/
def nodeOwner (sizes : List Nat) (c : Nat) : Nat → Nat → Nat
  | 0, j => j
  | l + 1, j => nodeOwner sizes c l (j * nth 1 sizes l + c % nth 1 sizes l)

/-- The node above l levels that position i belongs to. -/
def nodeOf (sizes : List Nat) (l i : Nat) : Nat := i / product (sizes.take l)

/-- The index of a level-l node in its group. -/
def subOf (sizes : List Nat) (l j : Nat) : Nat := j % nth 1 sizes l

/-- The level at which position i's partial of chunk c goes to another member; the number of levels where it owns the
result. -/
def sendLevel (sizes : List Nat) (c i : Nat) : Nat :=
  ((List.range sizes.length).find? fun l => nodeOwner sizes c (l + 1) (nodeOf sizes (l + 1) i) != i).getD sizes.length

/-- The chunk of an element. -/
def chunkOf (e : Nat) : Nat := e / 65536
def chunkEnd (count c : Nat) : Nat := min count (65536 * (c + 1))
def chunkCount (count : Nat) : Nat := ceilDiv count 65536

/-! ### Operations -/

/-- The reduction of R308. -/
def collOp (reduce : Nat) (a b : F32) : F32 :=
  match reduce with
  | 0 => fAdd a b
  | 1 => fMax a b
  | _ => fMin a b

def CollRun.blk (c : CollRun) : CollBlk := collBlk c.block
def CollRun.grp (c : CollRun) : Group := groupTable c.table
def CollRun.val (c : CollRun) (e : Nat) : F32 := nth 0 c.vals e

/-- OFFSET (R310). -/
def CollRun.offset (c : CollRun) (kind e : Nat) : BitVec 64 := BitVec.ofNat 64 (c.ident * 2 ^ 40 + kind * 2 ^ 36 + e)

def words (l : List F32) : Bytes := l.flatMap fun v => leBytes 4 v.toNat
def wordsOf (b : Bytes) : List F32 := (List.range (b.length / 4)).map fun i => BitVec.ofNat 32 (fld b (4 * i) 4)

/-- A packet of this collective to a position. -/
def State.collSend (s : State) (g : Nat) (c : CollRun) (dest kind type e : Nat) (payload : Bytes) : State :=
  s.sendRank (partOfCtx g) (nth 0 c.grp.ranks dest) type 0 (chunkOf e % 65536) (c.offset kind e) payload

def CollRun.others (c : CollRun) : List Nat := (List.range c.grp.n).filter (· != c.pos)

/-- One packet to every other member. -/
def State.collSendAll (s : State) (g : Nat) (c : CollRun) (kind type e : Nat) (payload : Bytes) : State :=
  c.others.foldl (fun s i => s.collSend g c i kind type e payload) s

/-- What tells the running collectives of a context apart: the descriptor each belongs to. Their wire identities may
agree where their groups differ (R307). -/
def CollRun.key (c : CollRun) : Nat := 8 * c.seq + c.q

def State.modColl (s : State) (g key : Nat) (f : CollRun → CollRun) : State :=
  s.modCtx g fun c => { c with colls := modWhere (fun x => x.key == key) f c.colls }
def State.coll (s : State) (g key : Nat) : Option CollRun := (s.ctx g).colls.find? fun x => x.key == key

/-! ### Completion (R311, R312, R317 to R319) -/

/-- STEP parity h of R312. -/
def State.parity (s : State) (g : Nat) : Nat := s.stepNo g % 2

/-- The result ranges that MISSING leaves unspecified (R319). -/
def State.spoiled (s : State) (g : Nat) (c : CollRun) : List (Nat × Nat) :=
  let b := c.blk
  let h := (s.parity g + 1) % 2
  [b.dstRange c.grp.n] ++ (if b.compressed then [(b.resid + h * b.residHalf, b.residHalf)] else []) ++
    (if b.method = 3 then [(b.exps + h * b.expHalf, b.expHalf)] else [])

/-- A range filled with unspecified bytes. -/
def State.spoil (s : State) (g : Nat) (r : Nat × Nat) : State :=
  let f := s.freeBytes r.2
  (f.2.writeVa g r.1 f.1).1

/-- One collective completes with MISSING; `notify` sends the notices (R318). -/
def State.missOne (s : State) (g : Nat) (notify : Bool) (c : CollRun) : State :=
  let s := if notify then s.collSendAll g c 8 1 0 [] else s
  let s := (s.spoiled g c).foldl (fun s r => s.spoil g r) s
  let s := s.modPart (partOfCtx g) fun p => { p with missing := p.missing + 1 }
  s.ranWith g c.q c.seq stMissing

/-- A collective completes with MISSING, and every other of the context after it (R318, R319). -/
def State.missColl (s : State) (g key : Nat) (notify : Bool) : State :=
  match s.coll g key with
  | none => s
  | some c =>
    let rest := (s.ctx g).colls.filter fun x => x.key != key
    let s := s.modCtx g fun x => { x with colls := [], collMissing := true }
    rest.foldl (fun s x => s.missOne g true x) (s.missOne g notify c)

/-- The first and last element of a position's results (R311). -/
def CollRun.due (c : CollRun) (i : Nat) : Nat × Nat :=
  if c.blk.op = 1 then (i * (c.blk.count / c.grp.n), (i + 1) * (c.blk.count / c.grp.n)) else (0, c.blk.count)

/-- Whether every result due below an element has arrived. -/
def CollRun.haveTo (c : CollRun) (lo hi : Nat) : Bool :=
  let d := c.due c.pos
  (List.range (min hi d.2 - max lo d.1)).all fun i => (storeGetF c.results (max lo d.1 + i)).isSome
where
  storeGetF : SMap F32 → Nat → Option F32
    | [], _ => none
    | (j, v) :: m, k => if k = j then some v else storeGetF m k

/-- A result in DST_FMT: a gathered code as it stands where the formats are equal. -/
def CollBlk.outCode (b : CollBlk) (v : F32) : Nat :=
  let rnd : Round := if b.round = 0 then .rne else .rtz
  if 2 ≤ b.op then (if b.sf = b.df then v.toNat else encode b.df rnd (decode b.sf v.toNat))
  else encode b.df rnd (f32Val v)

/-- The destination's bytes. -/
def CollRun.output (c : CollRun) : Bytes :=
  let d := c.due c.pos
  packCodes (fmtBits c.blk.df) ((List.range (d.2 - d.1)).map fun i => c.blk.outCode (mapGet 0 c.results (d.1 + i)))

/-- |x| as an ordered code: NaN above infinity, zeros equal (R313). -/
def magCode (v : F32) : Nat := if fIsNan v then 2 ^ 32 else v.toNat % 2 ^ 31

/-- The elements of a bucket of L selected under TOPK (R313). -/
def topk (k : Nat) (vals : List F32) : List Nat :=
  let ms := vals.map magCode
  (List.range vals.length).filter fun i =>
    ((List.range vals.length).filter fun j =>
      nth 0 ms i < nth 0 ms j || (nth 0 ms i == nth 0 ms j && j < i)).length < k

def bucketSize (kshift l : Nat) : Nat := max 1 (l >>> kshift)

/-- The scale of a SIGN block (R314). -/
def signScale (vals : List F32) : F32 :=
  let sum := treeSum (vals.map fun v => v &&& 0x7FFFFFFF)
  if vals.length = 1024 then fMul sum 0x3A800000 else fMul sum (sfuRecip (fNat vals.length))

def signVal (scale : F32) (neg : Bool) : F32 := if neg then f32Of (exactNeg (f32Val scale)) else scale

/-- The values of a chunk. -/
def CollRun.chunkVals (c : CollRun) (k : Nat) : List F32 :=
  (c.vals.drop (65536 * k)).take (chunkEnd c.blk.count k - 65536 * k)

/-- A chunk as its own decompressed contribution (R312 to R314). -/
def CollRun.decompressed (c : CollRun) (k : Nat) : List F32 :=
  let vs := c.chunkVals k
  match c.blk.method with
  | 1 =>
    let sel := topk (bucketSize c.blk.kshift vs.length) vs
    vs.zipIdx.map fun x => if sel.contains x.2 then x.1 else fZero
  | 2 => (groupsOf 1024 vs).flatMap fun blk => blk.map fun v => signVal (signScale blk) (v.toNat ≥ 2 ^ 31)
  | _ => vs
where
  groupsOf (n : Nat) (l : List F32) : List (List F32) := (List.range (ceilDiv l.length n)).map fun i => (l.drop (n * i)).take n

/-- The residual written (R312): +0 at an element that TOPK selects (R313). -/
def CollRun.residual (c : CollRun) : Bytes :=
  (List.range (chunkCount c.blk.count)).flatMap fun k =>
    let vs := c.chunkVals k
    let sel := if c.blk.method = 1 then topk (bucketSize c.blk.kshift vs.length) vs else []
    words ((vs.zip (c.decompressed k)).zipIdx.map fun x => if sel.contains x.2 then fZero else fSub x.1.1 x.1.2)

/-- The exponent of the next step (R317). -/
def nextExp (e : Int) (a : F32) (flagged : Bool) (n : Nat) : Int :=
  let up : Int := ((n - 1).log2 : Int) + (if n ≤ 1 then 0 else 1)
  let base :=
    match f32Val a with
    | .fin _ m x => if m = 0 then e else (m.log2 : Int) + x - 14 + up
    | _ => e + 1
  let v := if flagged then max base (e + 1) else base
  max (-149) (min 112 v)

/-- The META of a chunk as the owner sent it round. -/
def CollRun.ring (c : CollRun) (k : Nat) : Ring := (c.rings.find? fun r => r.chunk == k).getD { chunk := k }

/-- Whether a block is flagged, and its maximum. -/
def CollRun.flagged (c : CollRun) (blk : Nat) : Bool :=
  match (c.ring (blk / 256)).finalMeta with
  | some m => m.flags.contains blk
  | none => false
def CollRun.maximum (c : CollRun) (blk : Nat) : F32 :=
  match (c.ring (blk / 256)).finalMeta with
  | some m => nth 0 m.maxima (blk % 256)
  | none => 0

/-- The exponents written (R317). -/
def CollRun.nextExps (c : CollRun) : Bytes :=
  c.exps.zipIdx.flatMap fun x => leBytes 2 (unsignedOf (nextExp x.1 (c.maximum x.2) (c.flagged x.2) c.grp.n) 16)

/-- What a completed collective writes: results, residuals and exponents. -/
def State.collWrites (s : State) (g : Nat) (c : CollRun) : List (Nat × Bytes) :=
  let b := c.blk
  let h := (s.parity g + 1) % 2
  [(b.dst, c.output)] ++ (if b.compressed then [(b.resid + h * b.residHalf, c.residual)] else []) ++
    (if b.method = 3 then [(b.exps + h * b.expHalf, c.nextExps)] else [])

/-! ### The ordered reduction (R308, R309) -/

/-- The units in which partials are formed: 1,024 elements; a flagged block in the second pass of BS16. -/
def CollRun.unit (c : CollRun) : Nat := if c.blk.method = 3 then 256 else 1024

def CollRun.unitLen (c : CollRun) (first : Nat) : Nat := min (first + c.unit) (chunkEnd c.blk.count (chunkOf first)) - first

/-- The units that a run of elements touches. -/
def CollRun.unitsOf (c : CollRun) (first n : Nat) : List Nat :=
  if n = 0 then []
  else (List.range ((first + n - 1) / c.unit - first / c.unit + 1)).map fun i => (first / c.unit + i) * c.unit

/-- The blocks of a chunk. -/
def CollRun.blocksOf (c : CollRun) (k : Nat) : List Nat :=
  (List.range (ceilDiv (chunkEnd c.blk.count k - 65536 * k) 256)).map (256 * k + ·)

/-- The units of a chunk that are reduced: of BS16 its flagged blocks, once the second pass has begun (R316). -/
def CollRun.unitsIn (c : CollRun) (k : Nat) : List Nat :=
  if c.blk.method = 3 then (if c.second then ((c.blocksOf k).filter c.flagged).map (256 * ·) else [])
  else c.unitsOf (65536 * k) (chunkEnd c.blk.count k - 65536 * k)

/-- Whether a member has formed what it owns of a chunk. -/
def CollRun.chunkFormed (c : CollRun) (k : Nat) : Bool :=
  sendLevel c.grp.sizes k c.pos == 0 || (c.unitsIn k).all c.formed.contains

/-- The lowest chunk of which a member still has something to form as an owner. -/
def CollRun.lowChunk (c : CollRun) : Nat := ((List.range (chunkCount c.blk.count)).takeWhile c.chunkFormed).length

/-- Whether a member has done its part: its results are there, and in a REDUCE_SCATTER it has sent its contributions and formed
what it owns for the others (R309, R311). -/
def CollRun.complete (c : CollRun) : Bool :=
  c.haveTo 0 c.blk.count && (c.blk.op != 1 || (chunkCount c.blk.count ≤ c.sent && chunkCount c.blk.count ≤ c.lowChunk))

/-- A collective whose part is done completes: its ranges written, or the job fault that a write meets. -/
def State.collFinish (s : State) (g key : Nat) : State :=
  match s.coll g key with
  | none => s
  | some c =>
    if c.complete then
      match (s.modCtx g fun x => { x with colls := x.colls.filter fun y => y.key != key }).writeAll g (joinRuns (s.collWrites g c)) with
      | (s', some e) => s'.jobFault g c.q c.seq e.status e.tile
      | (s', none) => s'.ranWith g c.q c.seq stDone
    else s

/-! Contributions and partials held in scratch (R309). Which word of the range holds which value is the model's choice:
the lowest free one (DESIGN CHOICE, log 90). -/

/-- Words of the scratch range, and whether n more of them are free. -/
def CollRun.words (c : CollRun) : Nat := c.blk.scratchBytes / 4
def CollRun.room (c : CollRun) (n : Nat) : Bool := c.arrived.length + n ≤ c.words

def CollRun.held (c : CollRun) (level sub e : Nat) : Option Arrived :=
  c.arrived.find? fun a => a.level == level && a.sub == sub && a.elem == e

/-- The lowest word, from w on, that holds nothing. -/
def CollRun.freeWord (c : CollRun) : Nat → Nat → Nat
  | 0, w => w
  | n + 1, w => if c.arrived.any fun a => a.slot == w then c.freeWord n (w + 1) else w

/-- The value of an element given a word: that of an earlier copy of it, else a free one. -/
def CollRun.place (c : CollRun) (level sub e : Nat) : CollRun × Nat :=
  match c.held level sub e with
  | some a => (c, a.slot)
  | none =>
    let w := c.freeWord (c.arrived.length + 1) 0
    ({ c with arrived := c.arrived ++ [{ level := level, sub := sub, elem := e, slot := w }] }, w)

/-- Values of one subgroup given words: the collective, and the writes into its scratch range. -/
def CollRun.hold (c : CollRun) (level sub : Nat) : Nat → List F32 → CollRun × List (Nat × Bytes)
  | _, [] => (c, [])
  | e, v :: vs =>
    let x := c.place level sub e
    let more := x.1.hold level sub (e + 1) vs
    (more.1, (c.blk.scratch + 4 * x.2, leBytes 4 v.toNat) :: more.2)

/-- Values of one subgroup written into scratch at a level. -/
def State.collHold (s : State) (g key level sub first : Nat) (vals : List F32) : State :=
  match s.coll g key with
  | none => s
  | some c =>
    let h := c.hold level sub first vals
    match (s.modColl g key fun _ => h.1).writeAll g (joinRuns h.2) with
    | (s', none) => s'
    | (s', some e) => s'.jobFault g c.q c.seq e.status e.tile

/-- A held value read from scratch. -/
def State.heldVal (s : State) (g : Nat) (c : CollRun) (level sub e : Nat) : Except Fail F32 :=
  match c.held level sub e with
  | some a => (s.readVa g (c.blk.scratch + 4 * a.slot) 4).map fun b => BitVec.ofNat 32 (leNat b)
  | none => .ok fZero

/-- Whether every subgroup's values of a unit are held at a level. -/
def CollRun.unitReady (c : CollRun) (level first : Nat) : Bool :=
  (List.range (nth 1 c.grp.sizes level)).all fun q =>
    (List.range (c.unitLen first)).all fun i => (c.held level q (first + i)).isSome

/-- The sum of one element, in ascending subgroup order. -/
def State.unitSum (s : State) (g : Nat) (c : CollRun) (level e : Nat) : Except Fail F32 := do
  let vs ← collect (fun q => s.heldVal g c level q e) (List.range (nth 1 c.grp.sizes level))
  match vs with
  | [] => return fZero
  | a :: rest => return rest.foldl (collOp c.blk.reduce) a

/-- The sums of a unit. -/
def State.unitSums (s : State) (g : Nat) (c : CollRun) (level first : Nat) : Except Fail (List F32) :=
  collect (fun i => s.unitSum g c level (first + i)) (List.range (c.unitLen first))

/-- A unit that this member has formed as far as it owns it. -/
def CollRun.form (c : CollRun) (first : Nat) : CollRun :=
  { c with formed := if c.formed.contains first then c.formed else first :: c.formed }

/-- A unit no longer held at a level. -/
def CollRun.release (c : CollRun) (level first : Nat) : CollRun :=
  { c with arrived := c.arrived.filter fun a =>
      !(a.level == level && first ≤ a.elem && a.elem < first + c.unitLen first) }

def CollBlk.scaled (b : CollBlk) (v : F32) : F32 := if b.scale = fOne then v else fMul v b.scale

/-- Results received from element `first` on. -/
def CollRun.take (c : CollRun) (first : Nat) (vals : List F32) : CollRun :=
  { c with results := vals.zipIdx.foldl (fun m v => mapSet m (first + v.2) v.1) c.results }

/-- The part of a run of results that a position is due. -/
def CollRun.cut (c : CollRun) (i first : Nat) (vals : List F32) : Nat × List F32 :=
  let d := c.due i
  let lo := max first d.1
  (lo, (vals.drop (lo - first)).take (min (first + vals.length) d.2 - lo))

/-- Final sums of a unit: scaled, kept and sent to the members that are due them. -/
def State.collResults (s : State) (g : Nat) (c : CollRun) (first : Nat) (sums : List F32) : State :=
  let ys := sums.map c.blk.scaled
  let own := c.cut c.pos first ys
  let s := s.modColl g c.key fun c => c.take own.1 own.2
  c.others.foldl
    (fun s i =>
      let part := c.cut i first ys
      if part.2 = [] then s else s.collSend g c i 1 2 part.1 (words part.2)) s

/-- A unit carried up from a level where it has come together, as far as this member owns it; a level further on it
is sent to its owner. -/
def State.collRise (s : State) (g key first : Nat) : Nat → Nat → State
  | 0, _ => s
  | fuel + 1, level =>
    match s.coll g key with
    | none => s
    | some c =>
      let sz := c.grp.sizes
      let k := chunkOf first
      if c.unitReady level first then
        match s.unitSums g c level first with
        | .error e => s.jobFault g c.q c.seq e.status e.tile
        | .ok sums =>
          let s := s.modColl g key fun c => c.release level first
          if level + 1 = c.grp.levels then (s.modColl g key fun c => c.form first).collResults g c first sums
          else
            let node := nodeOf sz (level + 1) c.pos
            let dest := nodeOwner sz k (level + 2) (nodeOf sz (level + 2) c.pos)
            if dest = c.pos then
              State.collRise (s.collHold g key (level + 1) (subOf sz (level + 1) node) first sums) g key first fuel (level + 1)
            else (s.modColl g key fun c => c.form first).collSend g c dest 0 1 first (words sums)
      else s

/-- Values of one subgroup arrived at a level: held, and every unit they complete carried up. -/
def State.collArrive (s : State) (g key level sub first : Nat) (vals : List F32) : State :=
  match s.coll g key with
  | none => s
  | some c =>
    (c.unitsOf first vals.length).foldl (fun s u => s.collRise g key u 5 level)
      (s.collHold g key level sub first vals)

/-- Position i's own contribution of a run of elements: kept where it owns the group, else sent as DATA. -/
def State.collContribute (s : State) (g : Nat) (c : CollRun) (first : Nat) (vals : List F32) : State :=
  let sz := c.grp.sizes
  let dest := nodeOwner sz (chunkOf first) 1 (nodeOf sz 1 c.pos)
  if dest = c.pos then s.collArrive g c.key 0 (subOf sz 0 c.pos) first vals
  else
    (List.range (ceilDiv vals.length 1024)).foldl
      (fun s i => s.collSend g c dest 0 1 (first + 1024 * i) (words ((vals.drop (1024 * i)).take 1024))) s

/-! ### Compressed chunks (R313, R314) -/

/-- The SPARSE packets of a chunk: 682 pairs at most each. -/
def State.sendSparse (s : State) (g : Nat) (c : CollRun) (dest k : Nat) : State :=
  let vs := c.chunkVals k
  let sel := topk (bucketSize c.blk.kshift vs.length) vs
  (List.range (ceilDiv sel.length 682)).foldl
    (fun s i =>
      let part := (sel.drop (682 * i)).take 682
      s.collSend g c dest 2 1 (65536 * k + part.headD 0) (part.flatMap fun j => leBytes 2 j ++ leBytes 4 (nth 0 vs j).toNat)) s

/-- One SIGN block on the wire (R314). -/
def signBlock (vals : List F32) : Bytes :=
  leBytes 128 (vals.zipIdx.foldl (fun a v => if v.1.toNat ≥ 2 ^ 31 then a + 2 ^ v.2 else a) 0) ++
    leBytes 4 (signScale vals).toNat

/-- The SIGN packets of a chunk: 31 blocks at most each. -/
def State.sendSign (s : State) (g : Nat) (c : CollRun) (dest k : Nat) : State :=
  let vs := c.chunkVals k
  let n := ceilDiv vs.length 1024
  (List.range (ceilDiv n 31)).foldl
    (fun s i =>
      s.collSend g c dest 3 1 (65536 * k + 31744 * i)
        ((List.range (min 31 (n - 31 * i))).flatMap fun b => signBlock ((vs.drop (1024 * (31 * i + b))).take 1024))) s

/-- Chunk k of a compressed contribution. -/
def State.collCompressed (s : State) (g : Nat) (c : CollRun) (k : Nat) : State :=
  let dest := nodeOwner c.grp.sizes k 1 (nodeOf c.grp.sizes 1 c.pos)
  if dest = c.pos then s.collArrive g c.key 0 (subOf c.grp.sizes 0 c.pos) (65536 * k) (c.decompressed k)
  else if c.blk.method = 1 then s.sendSparse g c dest k
  else s.sendSign g c dest k

/-! ### The BS16 ring (R315) -/

/-- A member's mantissa of an element, clamped, and whether it flags its block. -/
def mantissa (x : F32) (e : Int) : Int × Bool :=
  match f32Val x with
  | .fin neg m a =>
    let k := roundUnits .rne m (a - e) 0
    let v : Int := if neg then -(min k 32767 : Nat) else (min k 32767 : Nat)
    (v, 32767 < k)
  | .inf neg => (if neg then -32767 else 32767, true)
  | .nan => (0, true)

def CollRun.mant (c : CollRun) (e : Nat) : Int × Bool := mantissa (c.val e) (nth 0 c.exps (e / 256))

def CollRun.blockElems (c : CollRun) (b : Nat) : List Nat :=
  (List.range (min (256 * (b + 1)) c.blk.count - 256 * b)).map (256 * b + ·)

/-- A member's own META of a chunk. -/
def CollRun.ownMeta (c : CollRun) (k : Nat) : RingMeta :=
  { maxima := (c.blocksOf k).map fun b => (c.blockElems b).foldl (fun a e => codeMax a (c.val e)) 0
    flags := (c.blocksOf k).filter fun b => (c.blockElems b).any fun e => (c.mant e).2 }
where
  codeMax (a x : F32) : F32 := if a.toNat < x.toNat % 2 ^ 31 then BitVec.ofNat 32 (x.toNat % 2 ^ 31) else a

/-- Two METAs joined. -/
def RingMeta.join (a b : RingMeta) : RingMeta :=
  { maxima := (List.range (max a.maxima.length b.maxima.length)).map fun i =>
      if (nth 0 a.maxima i).toNat < (nth 0 b.maxima i).toNat then nth 0 b.maxima i else nth 0 a.maxima i
    flags := a.flags ++ b.flags.filter fun f => !a.flags.contains f }

def metaBytes (k : Nat) (m : RingMeta) : Bytes :=
  sized 1024 (words m.maxima) ++ leBytes 32 (m.flags.foldl (fun a f => a + 2 ^ (f - 256 * k)) 0)

def metaOf (k n : Nat) (b : Bytes) : RingMeta :=
  { maxima := (wordsOf (b.take 1024)).take n
    flags := ((List.range n).filter fun i => (fld b 1024 32).testBit i).map (256 * k + ·) }

def CollRun.next (c : CollRun) : Nat := (c.pos + 1) % c.grp.n
def CollRun.ringOwner (c : CollRun) (k : Nat) : Nat := k % c.grp.n

def CollRun.setRing (c : CollRun) (r : Ring) : CollRun :=
  { c with rings := upsert (fun x => x.chunk == r.chunk) r c.rings }

def mantBytes (l : List Int) : Bytes := l.flatMap fun v => leBytes 2 (unsignedOf v 16)
def mantsOf (b : Bytes) : List Int := (List.range (b.length / 2)).map fun i => signedOf (fld b (2 * i) 2) 16

/-- A chunk's mantissas sent on in packets of 2,048. -/
def State.sendMants (s : State) (g : Nat) (c : CollRun) (kind type k : Nat) (l : List Int) : State :=
  (List.range (ceilDiv l.length 2048)).foldl
    (fun s i => s.collSend g c c.next kind type (65536 * k + 2048 * i) (mantBytes ((l.drop (2048 * i)).take 2048))) s

/-- The member at which a chunk's running sum starts sends its own mantissas and META. -/
def State.ringStart (s : State) (g : Nat) (c : CollRun) (k : Nat) : State :=
  if (k + 1) % c.grp.n = c.pos then
    let els := (List.range (chunkEnd c.blk.count k - 65536 * k)).map (65536 * k + ·)
    let s := s.sendMants g c 4 1 k (els.map fun e => (c.mant e).1)
    let s := s.collSend g c c.next 6 1 (65536 * k) (metaBytes k (c.ownMeta k))
    s.modColl g c.key fun c => c.setRing { c.ring k with passed := true }
  else s

/-- Whether a ring's sums cover its chunk. -/
def CollRun.ringFull (c : CollRun) (k : Nat) (sums : SMap Int) : Bool :=
  (List.range (chunkEnd c.blk.count k - 65536 * k)).all fun i => sums.any fun x => x.1 == 65536 * k + i

/-- The chunk's sums in order. -/
def CollRun.ringSums (c : CollRun) (k : Nat) (sums : SMap Int) : List Int :=
  (List.range (chunkEnd c.blk.count k - 65536 * k)).map fun i => mapGet 0 sums (65536 * k + i)

/-- Sums and META complete at a hop: passed on, or, at the owner, sent round the ring as results. -/
def State.ringPass (s : State) (g key k : Nat) : State :=
  match s.coll g key with
  | none => s
  | some c =>
    let r := c.ring k
    match r.held with
    | none => s
    | some m =>
      if r.passed || !c.ringFull k r.sums then s
      else
        let m := (m.join (c.ownMeta k)).join { maxima := [], flags := r.flags }
        if c.ringOwner k = c.pos then
          let s := s.modColl g key fun c => c.setRing { r with passed := true, final := r.sums, finalMeta := some m }
          (s.sendMants g c 5 2 k (c.ringSums k r.sums)).collSend g c c.next 6 1 (65536 * k) (metaBytes k m)
        else
          let s := s.modColl g key fun c => c.setRing { r with passed := true }
          s.collSend g c c.next 6 1 (65536 * k) (metaBytes k m)

/-- One hop's addition: saturated, and flagged where it saturates. -/
def CollRun.hop (c : CollRun) (e : Nat) (v : Int) : Int × Bool :=
  let t := v + (c.mant e).1
  (max (-32767) (min 32767 t), 32767 < t || t < -32767)

/-- A BS16 packet: each sum has this hop's mantissa added, and is passed on. -/
def State.ringAdd (s : State) (g : Nat) (c : CollRun) (first : Nat) (ms : List Int) : State :=
  let k := chunkOf first
  let r := c.ring k
  let hs := ms.zipIdx.map fun v => (first + v.2, c.hop (first + v.2) v.1)
  let r' : Ring :=
    { r with
      sums := hs.foldl (fun m h => mapSet m h.1 h.2.1) r.sums
      flags := hs.foldl (fun f h => if h.2.2 && !f.contains (h.1 / 256) then f ++ [h.1 / 256] else f) r.flags }
  let s := s.modColl g c.key fun c => c.setRing r'
  let s := if c.ringOwner k = c.pos then s else s.collSend g c c.next 4 1 first (mantBytes (hs.map fun h => h.2.1))
  s.ringPass g c.key k

/-- Every chunk's sums and META have come round. -/
def CollRun.ringsDone (c : CollRun) : Bool :=
  (List.range (chunkCount c.blk.count)).all fun k => (c.ring k).finalMeta.isSome && c.ringFull k (c.ring k).final

/-- An unflagged element's result (R316). -/
def CollRun.ringResult (c : CollRun) (e : Nat) : F32 :=
  let v := mapGet 0 (c.ring (chunkOf e)).final e
  c.blk.scaled (f32Of (.fin (v < 0) v.natAbs (nth 0 c.exps (e / 256))))

/-- The first pass over: unflagged results taken; the flagged blocks are contributed again under R308 from here on (R316). -/
def State.ringsEnd (s : State) (g key : Nat) : State :=
  match s.coll g key with
  | none => s
  | some c =>
    if c.second || !c.ringsDone then s
    else
      let blocks := List.range (ceilDiv c.blk.count 256)
      let plain := blocks.filter fun b => !c.flagged b
      s.modColl g key fun _ =>
        plain.foldl (fun c' b => c'.take (256 * b) ((c.blockElems b).map c.ringResult)) { c with second := true }

/-! ### Sending (R306, R307, R309) -/

/-- Leading chunks whose results due to this member have arrived. A chunk of a REDUCE_SCATTER with nothing due to it has no result
that it could wait for, and counts as received (DEDUCED: else a member could never send more than 8 chunks beyond its own slice;
log 90). -/
def CollRun.received (c : CollRun) : Nat :=
  ((List.range (chunkCount c.blk.count)).takeWhile fun k =>
    if c.blk.method = 3 && !c.second then (c.ring k).finalMeta.isSome && c.ringFull k (c.ring k).final
    else c.haveTo (65536 * k) (chunkEnd c.blk.count k)).length

/-- One chunk sent by its method. -/
def State.collChunk (s : State) (g : Nat) (c : CollRun) (k : Nat) : State :=
  match c.blk.method with
  | 0 => s.collContribute g c (65536 * k) (c.chunkVals k)
  | 3 => s.ringStart g c k
  | _ => s.collCompressed g c k

/-- The flagged blocks of a chunk contributed from the member's original values (R316). -/
def State.collAgain (s : State) (g : Nat) (c : CollRun) (k : Nat) : State :=
  ((c.blocksOf k).filter c.flagged).foldl (fun s b => s.collContribute g c (256 * b) ((c.blockElems b).map c.val)) s

/-- Whether scratch has room for a contribution of n values to a chunk: that chunk is at most 8 ahead of the lowest that this
member still forms, for which its 8 × max(S_l) × 262,144 bytes serve (R309; log 90). -/
def CollRun.accepts (c : CollRun) (k n : Nat) : Bool := k < c.lowChunk + 8 && c.room n

/-- Whether a member may send a chunk: at most 8 ahead of the results received, its own contribution finding room (R309). -/
def CollRun.maySend (c : CollRun) (k : Nat) : Bool :=
  k < chunkCount c.blk.count && k < c.received + 8 && c.accepts k 65536

/-- Chunks sent, then, in the second pass of BS16, those of the flagged blocks. -/
def State.collPump (s : State) (g key : Nat) : Nat → State
  | 0 => s
  | fuel + 1 =>
    match s.coll g key with
    | none => s
    | some c =>
      if c.blk.op < 2 && c.maySend c.sent then
        State.collPump ((s.modColl g key fun c => { c with sent := c.sent + 1 }).collChunk g c c.sent) g key fuel
      else if c.second && c.maySend c.again then
        State.collPump ((s.modColl g key fun c => { c with again := c.again + 1 }).collAgain g c c.again) g key fuel
      else s

/-- After any event of a collective: the second pass, further chunks, and completion. -/
def State.collGoOn (s : State) (g key : Nat) : State :=
  let n := match s.coll g key with | some c => chunkCount c.blk.count | none => 0
  ((s.ringsEnd g key).collPump g key (2 * n + 1)).collFinish g key

/-- SIGNATURE (R307; layout log 22). -/
def CollRun.signature (c : CollRun) : Bytes :=
  slice c.block 68 3 ++ leBytes 1 c.blk.kshift ++ slice c.block 56 8 ++ slice c.block 64 4 ++ slice c.block 73 4 ++ sha384 c.table

/-- The elements a member gathers: its own source, sent to every other member (R311). -/
def State.collGather (s : State) (g : Nat) (c : CollRun) : State :=
  let base := if c.blk.op = 2 then c.pos * (c.blk.count / c.grp.n) else 0
  if c.blk.op = 3 ∧ c.pos ≠ c.blk.root then s
  else
    let s := s.modColl g c.key fun c => c.take base c.vals
    (List.range (ceilDiv c.vals.length 1024)).foldl
      (fun s i =>
        s.collSendAll g c 1 2 (base + 1024 * i)
          (((c.vals.drop (1024 * i)).take 1024).flatMap fun v => leBytes (fmtBits c.blk.sf / 8) v.toNat)) s

/-- The source, as FP32 with the residual added, or as codes to be gathered. -/
def State.collSource (s : State) (g : Nat) (b : CollBlk) (n : Nat) : Except Fail (List F32) := do
  let w := fmtBits b.sf / 8
  let bs ← s.readVa g b.src (b.elemsIn n * w)
  let codes := (List.range (b.elemsIn n)).map fun i => fld bs (w * i) w
  if 2 ≤ b.op then return codes.map (BitVec.ofNat 32)
  else
    let xs := codes.map fun c => f32Of (decode b.sf c)
    if b.compressed then
      let rs ← s.loadF32 g (b.resid + s.parity g * b.residHalf) b.count
      return List.zipWith fAdd xs rs
    else return xs

/-- The ranges that the engine reads of a collective's source, its residual and its exponents. -/
def State.collReads (s : State) (g : Nat) (b : CollBlk) (n : Nat) : List (Nat × Nat) :=
  [(b.src, b.elemsIn n * (fmtBits b.sf / 8))] ++
    (if b.compressed then [(b.resid + s.parity g * b.residHalf, 4 * b.count)] else []) ++
    (if b.method = 3 then [(b.exps + s.parity g * b.expHalf, 2 * ceilDiv b.count 256)] else [])

/-- The exponents of the step (R315). -/
def State.collExps (s : State) (g : Nat) (b : CollBlk) : Except Fail (List Int) :=
  if b.method = 3 then
    (s.readVa g (b.exps + s.parity g * b.expHalf) (2 * ceilDiv b.count 256)).map mantsOf
  else .ok []

def State.collIdent (s : State) (g tag : Nat) : Nat :=
  tag * 256 + (s.stepNo g % 16) * 16 + (s.ctx g).attempt.toNat % 16

/-- Whether some member's rank is not VALID (R318). -/
def State.rankGone (s : State) (p : Nat) (gr : Group) : Bool := gr.ranks.any fun r => (s.rankOf p r).isNone

/-- The collective of a started COLL. -/
def State.newColl (s : State) (g q seq : Nat) (r : Run) (vals : List F32) (exps : List Int) : CollRun :=
  { q := q, seq := seq, ident := s.collIdent g (collBlk r.block).tag, block := r.block, table := r.table
    pos := (groupTable r.table).ranks.idxOf (s.myRank (partOfCtx g)), startAt := s.ctxTime g, vals := vals, exps := exps }

/-- Whether a held notice is for a collective: its identity, from a member of its group (R307). -/
def State.noticeOf (s : State) (p : Nat) (c : CollRun) (m : Nat × Nat × Nat) : Bool :=
  m.1 == c.ident && c.grp.ranks.any fun r => s.rankOf p r == some m.2

/-- A notice that a collective has taken up is held no longer by any context of the partition. -/
def State.dropNotices (s : State) (p : Nat) (c : CollRun) : State :=
  (ctxsOfPart p).foldl
    (fun s' g => s'.modCtx g fun x => { x with missingHeld := x.missingHeld.filter fun m => !s.noticeOf p c m }) s

/-- A collective entered among the running ones and set going. -/
def State.collBegin (s : State) (g : Nat) (c : CollRun) : State :=
  let s := s.modCtx g fun x => { x with colls := x.colls ++ [c] }
  if (s.ctx g).missingHeld.any (s.noticeOf (partOfCtx g) c) then (s.dropNotices (partOfCtx g) c).missColl g c.key false
  else if (s.ctx g).collMissing || s.rankGone (partOfCtx g) c.grp then s.missColl g c.key true
  else
    let s := s.collSendAll g c 7 1 0 c.signature
    (if 2 ≤ c.blk.op then s.collGather g c else s).collGoOn g c.key

/-- A COLL carried out: its source read, and the exchange begun (R306). -/
def State.collStart (s : State) (g q seq : Nat) (r : Run) : State :=
  if (s.ctx g).colls.any fun c => c.q == q && c.seq == seq then s
  else
    let b := collBlk r.block
    match s.collSource g b (groupTable r.table).n, s.collExps g b with
    | .error x, _ => s.jobFault g q seq x.status x.tile
    | _, .error x => s.jobFault g q seq x.status x.tile
    | .ok vals, .ok exps =>
      (s.accessed (s.engineDie g) g (s.collReads g b (groupTable r.table).n) []).collBegin g (s.newColl g q seq r vals exps)

/-- A COLL has begun once its collective runs. -/
def State.collReady (s : State) (g q : Nat) (r : Run) : Bool := !((s.ctx g).colls.any fun c => c.q == q && c.seq == r.seq)

def State.collRow (s : State) (g q seq op : Nat) : State :=
  match s.engineGate 2 2 g q seq (fun r => isOp 0x40 r && (collBlk r.block).op == op) (s.collReady) with
  | some r => (s.collStart g q seq r).engineServed 2 g
  | none => s

/-! ### Arrivals -/

def pktIdent (k : Packet) : Nat := k.offset.toNat / 2 ^ 40
def pktKind (k : Packet) : Nat := bitsOf k.offset.toNat 36 4
def pktElem (k : Packet) : Nat := k.offset.toNat % 2 ^ 36

/-- Whether a packet's KIND is one that R310 gives its TYPE. -/
def collKnown (k : Packet) : Bool :=
  match k.type with
  | 1 => [0, 2, 3, 4, 6, 7, 8].contains (pktKind k)
  | 2 => [1, 5].contains (pktKind k)
  | _ => true

/-- The position of a packet's sender in a collective's group. -/
def State.senderOf (s : State) (p : Nat) (c : CollRun) (k : Packet) : Option Nat :=
  (List.range c.grp.n).find? fun i => s.rankOf p (nth 0 c.grp.ranks i) == some (k.srcId, k.srcPart)

/-- The running collective a packet belongs to: context, collective, and the sender's position. The sender is a member of
its group (R307). -/
def State.collOf (s : State) (k : Packet) : Option (Nat × CollRun × Nat) :=
  (ctxsOfPart k.dstPart).findSome? fun g =>
    (s.ctx g).colls.findSome? fun c =>
      if c.ident = pktIdent k then (s.senderOf k.dstPart c k).map fun i => (g, c, i) else none

/-- Whether an identity may belong to a collective this context starts later: its STEP and ATTEMPT, mod 16, are not
behind the context's (R307, R320; log 32). -/
def State.mayCome (s : State) (g ident : Nat) : Bool :=
  let st := (ident / 16 % 16 + 16 - s.stepNo g % 16) % 16
  let at_ := (ident % 16 + 16 - (s.ctx g).attempt.toNat % 16) % 16
  (s.ctx g).st == .active && (if st = 0 then at_ < 8 else st < 8)

/-- A packet that matches nothing: discarded and counted, or left for a collective started later (R307). -/
def State.collUnmatched (s : State) (k : Packet) : State :=
  if (ctxsOfPart k.dstPart).any fun g => s.mayCome g (pktIdent k) then s
  else (s.takeHanded k).modPart k.dstPart fun p => { p with missing := p.missing + 1 }

/-- Elements that a packet may add to scratch. -/
def CollRun.adds (c : CollRun) (k : Packet) : Nat :=
  match pktKind k with
  | 0 => k.payload.length / 4
  | 2 => chunkEnd c.blk.count (chunkOf (pktElem k)) - 65536 * chunkOf (pktElem k)
  | 3 => 1024 * (k.payload.length / 132)
  | _ => 0

/-- Whether a running collective takes a packet: a contribution only where it finds room (R309). -/
def CollRun.takes (c : CollRun) (k : Packet) : Bool :=
  match pktKind k with
  | 0 | 2 | 3 => c.accepts (chunkOf (pktElem k)) (c.adds k)
  | _ => true

/-- Whether a packet finds no room yet at the collective it belongs to: it waits in its buffer, whose credits its sender then does
not have (R309, R284). -/
def State.collWaits (s : State) (k : Packet) : Bool :=
  k.type == 1 && match s.collOf k with | some (_, c, _) => !c.takes k | none => false

/-- A COLL or XFER packet of a KIND at the engines, given to the collective it belongs to; a contribution that finds no
room in scratch waits (R309). -/
def State.collPacket (s : State) (k : Packet) (kind type : Nat) (f : State → Nat → CollRun → Nat → State) : State :=
  if s.fab.handed.contains k && k.type == type && pktKind k == kind then
    match s.collOf k with
    | some (g, c, i) => if c.takes k then (f (s.takeHanded k) g c i).collGoOn g c.key else s
    | none => s.collUnmatched k
  else s

/-- DATA: contributions of level 0, or partials of the level at which the sender sends (R309). -/
def State.onData (s : State) (k : Packet) (g : Nat) (c : CollRun) (i : Nat) : State :=
  let e := pktElem k
  let l := sendLevel c.grp.sizes (chunkOf e) i
  s.collArrive g c.key l (subOf c.grp.sizes l (nodeOf c.grp.sizes l i)) e (wordsOf k.payload)

/-- RESULT: FP32 results, or gathered codes in SRC_FMT. -/
def State.onResult (s : State) (k : Packet) (g : Nat) (c : CollRun) : State :=
  let w := if 2 ≤ c.blk.op then fmtBits c.blk.sf / 8 else 4
  s.modColl g c.key fun c =>
    c.take (pktElem k) ((List.range (k.payload.length / w)).map fun j => BitVec.ofNat 32 (fld k.payload (w * j) w))

/-- SPARSE: pairs held until the sender's whole bucket has come, then spread out (R313). -/
def State.onSparse (s : State) (k : Packet) (g : Nat) (c : CollRun) (i : Nat) : State :=
  let ch := chunkOf (pktElem k)
  let base := 65536 * ch
  let l := chunkEnd c.blk.count ch - base
  let new := (List.range (k.payload.length / 6)).map fun j =>
    (i, base + fld k.payload (6 * j) 2, (BitVec.ofNat 32 (fld k.payload (6 * j + 2) 4) : F32))
  let pairs := new.foldl (fun ps x => upsert (fun y => y.1 == x.1 && y.2.1 == x.2.1) x ps) c.pairs
  let mine := pairs.filter fun x => x.1 == i && chunkOf x.2.1 == ch
  if mine.length = bucketSize c.blk.kshift l then
    let s := s.modColl g c.key fun c => { c with pairs := pairs.filter fun x => !(x.1 == i && chunkOf x.2.1 == ch) }
    s.collArrive g c.key 0 (subOf c.grp.sizes 0 i) base
      ((List.range l).map fun j => match mine.find? fun x => x.2.1 == base + j with | some x => x.2.2 | none => fZero)
  else s.modColl g c.key fun c => { c with pairs := pairs }

/-- SIGN: each block spread out (R314). -/
def State.onSign (s : State) (k : Packet) (g : Nat) (c : CollRun) (i : Nat) : State :=
  let first := pktElem k
  let fin := chunkEnd c.blk.count (chunkOf first)
  (List.range (k.payload.length / 132)).foldl
    (fun s b =>
      let blk := slice k.payload (132 * b) 132
      let at_ := first + 1024 * b
      s.collArrive g c.key 0 (subOf c.grp.sizes 0 i) at_
        ((List.range (min 1024 (fin - at_))).map fun j =>
          signVal (BitVec.ofNat 32 (fld blk 128 4)) ((fld blk 0 128).testBit j))) s

/-- META: of the sums where this hop has not passed them on, else of the results (R315). -/
def State.onMeta (s : State) (k : Packet) (g : Nat) (c : CollRun) : State :=
  let ch := chunkOf (pktElem k)
  let r := c.ring ch
  let m := metaOf ch (c.blocksOf ch).length k.payload
  if r.passed then
    let s := s.modColl g c.key fun c => c.setRing { r with finalMeta := some m }
    if c.next = c.ringOwner ch then s else s.collSend g c c.next 6 1 (65536 * ch) k.payload
  else (s.modColl g c.key fun c => c.setRing { r with held := some m }).ringPass g c.key ch

/-- BS16_RESULT: final sums kept and passed on round the ring. -/
def State.onBsResult (s : State) (k : Packet) (g : Nat) (c : CollRun) : State :=
  let first := pktElem k
  let ch := chunkOf first
  let r := c.ring ch
  let s := s.modColl g c.key fun c =>
    c.setRing { r with final := (mantsOf k.payload).zipIdx.foldl (fun m v => mapSet m (first + v.2) v.1) r.final }
  if c.next = c.ringOwner ch then s else s.collSend g c c.next 5 2 first k.payload

/-- SIGNATURE: agreed, or COLL_MISMATCH with notices to every other member (R307). -/
def State.onSignature (s : State) (k : Packet) (g : Nat) (c : CollRun) (i : Nat) : State :=
  if k.payload = c.signature then
    s.modColl g c.key fun c => { c with signed := if c.signed.contains i then c.signed else c.signed ++ [i] }
  else (s.collSendAll g c 8 1 0 []).jobFault g c.q c.seq stCollMismatch 0

/-- The collectives that notices are held of, by identity. -/
def noticesOf (l : List (Nat × Nat × Nat)) : List Nat := sortedSet (l.map (·.1))

/-- A notice held in a context that may start its collective, of at most 64 collectives (R318). -/
def Ctx.holdNotice (m : Nat × Nat × Nat) (c : Ctx) : Ctx :=
  let known := noticesOf c.missingHeld
  if (known.length < 64 || known.contains m.1) && !c.missingHeld.contains m then { c with missingHeld := c.missingHeld ++ [m] } else c

/-- MISSING of a collective not yet started: held in every context that may start it. -/
def State.holdMissing (s : State) (k : Packet) : State :=
  match (ctxsOfPart k.dstPart).filter fun g => s.mayCome g (pktIdent k) with
  | [] => s.collUnmatched k
  | gs => gs.foldl (fun s g => s.modCtx g (Ctx.holdNotice (pktIdent k, k.srcId, k.srcPart))) (s.takeHanded k)

def State.onMissing (s : State) (k : Packet) : State :=
  if s.fab.handed.contains k && k.type == 1 && pktKind k == 8 then
    match s.collOf k with
    | some (g, c, _) => (s.takeHanded k).missColl g c.key false
    | none => s.holdMissing k
  else s

/-! ### Time and ranks (R318) -/

def State.stragglerNs (s : State) (p : Nat) : Nat := s.cfg (0x4800 + p) 1 * 1000000

/-- A collective that has waited STRAGGLER_MS since its own first send declares MISSING. -/
def State.straggle (s : State) (g q seq : Nat) : State :=
  match (s.ctx g).colls.find? fun c => c.q == q && c.seq == seq with
  | some c => if !s.pwr.shutdown && c.startAt + s.stragglerNs (partOfCtx g) ≤ s.ctxTime g then s.missColl g c.key true else s
  | none => s

/-- Collectives of a partition with a member whose rank is no longer VALID declare MISSING. -/
def State.collRanks (s : State) (p : Nat) : State :=
  (ctxsOfPart p).foldl
    (fun s g =>
      match (s.ctx g).colls.find? fun c => s.rankGone p c.grp with
      | some c => s.missColl g c.key true
      | none => s) s

/-- The collective part of a step boundary, once STEP has its new value (R320): ATTEMPT, and the MISSING of R319 that the
attempt ends; of the notices held, those of the coming steps and attempts stay. -/
def State.collBoundary (s : State) (g : Nat) (commit : Bool) : State :=
  let s := s.modCtx g fun c => { c with attempt := if commit then 0 else c.attempt + 1, collMissing := false }
  s.modCtx g fun c => { c with missingHeld := c.missingHeld.filter fun m => s.mayCome g m.1 }

/-! ### The commands -/

def execAllReduce (g q seq : Nat) (s : State) : Host.Outcome State Fault Refusal := .next (s.collRow g q seq 0)
def execReduceScatter (g q seq : Nat) (s : State) : Host.Outcome State Fault Refusal := .next (s.collRow g q seq 1)
def execAllGather (g q seq : Nat) (s : State) : Host.Outcome State Fault Refusal := .next (s.collRow g q seq 2)
def execBroadcast (g q seq : Nat) (s : State) : Host.Outcome State Fault Refusal := .next (s.collRow g q seq 3)

def execCollData (pkt : Packet) (s : State) : Host.Outcome State Fault Refusal :=
  .next (s.collPacket pkt 0 1 fun s g c i => s.onData pkt g c i)
def execCollResult (pkt : Packet) (s : State) : Host.Outcome State Fault Refusal :=
  .next (s.collPacket pkt 1 2 fun s g c _ => s.onResult pkt g c)
def execCollSparse (pkt : Packet) (s : State) : Host.Outcome State Fault Refusal :=
  .next (s.collPacket pkt 2 1 fun s g c i => s.onSparse pkt g c i)
def execCollSign (pkt : Packet) (s : State) : Host.Outcome State Fault Refusal :=
  .next (s.collPacket pkt 3 1 fun s g c i => s.onSign pkt g c i)
def execCollBs16 (pkt : Packet) (s : State) : Host.Outcome State Fault Refusal :=
  .next (s.collPacket pkt 4 1 fun s g c _ => s.ringAdd g c (pktElem pkt) (mantsOf pkt.payload))
def execCollMeta (pkt : Packet) (s : State) : Host.Outcome State Fault Refusal :=
  .next (s.collPacket pkt 6 1 fun s g c _ => s.onMeta pkt g c)
def execCollBs16Result (pkt : Packet) (s : State) : Host.Outcome State Fault Refusal :=
  .next (s.collPacket pkt 5 2 fun s g c _ => s.onBsResult pkt g c)
def execCollSignature (pkt : Packet) (s : State) : Host.Outcome State Fault Refusal :=
  .next (s.collPacket pkt 7 1 fun s g c i => s.onSignature pkt g c i)
def execCollMissing (pkt : Packet) (s : State) : Host.Outcome State Fault Refusal := .next (s.onMissing pkt)
def execStragglerTimeout (g q seq : Nat) (s : State) : Host.Outcome State Fault Refusal := .next (s.straggle g q seq)

end Sys2Proof.Machine
end

