-- ==== Sys2Proof/Machine/Codec.lean ====
section
/-! DEFINITION. Sys2Proof/Machine/Codec.lean: the forms of a stashed tensor: PACK streams (R171, R172), SQUEEZE streams (R173
to R175) and sealed records (R177). -/
namespace Sys2Proof.Machine

/-! ### The PACK stream -/

/-- A 16-bit record header: KIND and COUNT. -/
def recHead (kind count : Nat) : Bytes := leBytes 2 (kind * 2 ^ 14 + count)

/-- A run of zero chunks. -/
def zeroRec (n : Nat) : Bytes := if n = 0 then [] else recHead 0 n

/-- The 32-byte bitmap of the elements that are not all-zero bits. -/
def bitmapOf (els : List Bytes) : Bytes :=
  leBytes 32 (((List.range els.length).zip els).foldl (fun a e => if allZero e.2 then a else a + 2 ^ e.1) 0)

/-- A chunk that holds a nonzero element: BITMAP where it is shorter, else RAW (R172). -/
def chunkRec (b : Nat) (els : List Bytes) : Bytes :=
  let nz := els.filter fun e => !allZero e
  if 34 + nz.length * b < 2 + els.length * b then recHead 1 nz.length ++ bitmapOf els ++ nz.flatten
  else recHead 2 els.length ++ els.flatten

/-- The records of a segment's chunks, after z zero chunks. -/
def packChunks (b : Nat) : Nat → List (List Bytes) → Bytes
  | z, [] => zeroRec z
  | z, c :: cs => if c.all allZero then packChunks b (z + 1) cs else zeroRec z ++ chunkRec b c ++ packChunks b 0 cs

/-- Consecutive groups of n. -/
def groupsOf {α : Type} (n : Nat) (l : List α) : List (List α) :=
  (List.range (ceilDiv l.length n)).map fun i => (l.drop (n * i)).take n

def padTo (n : Nat) (bs : Bytes) : Bytes := bs ++ zeros (roundUp bs.length n - bs.length)

/-- The segments, each padded to 64 bytes. -/
def packSegs (b : Nat) (els : List Bytes) : List Bytes :=
  (groupsOf 65536 els).map fun seg => padTo 64 (packChunks b 0 (groupsOf 256 seg))

/-- The offsets of segments that follow one another from `at`, in units of 64 bytes. -/
def segOffsets : Nat → List Bytes → List Nat
  | _, [] => []
  | off, sg :: rest => off / 64 :: segOffsets (off + sg.length) rest

/-- The offset of the first segment. -/
def segStart (segments : Nat) : Nat := 64 + roundUp (4 * segments) 64

def packHeader (elements fmt segments bytes : Nat) : Bytes :=
  leBytes 8 elements ++ leBytes 1 fmt ++ zeros 3 ++ leBytes 4 segments ++ leBytes 8 bytes ++ zeros 40

/-- The PACK stream of row-major elements of b bytes, of format code fmt (R171). -/
def packStream (fmt b : Nat) (els : List Bytes) : Bytes :=
  let segs := packSegs b els
  let start := segStart segs.length
  packHeader els.length fmt segs.length (start + segs.flatten.length) ++
    padTo 64 ((segOffsets start segs).flatMap (leBytes 4)) ++ segs.flatten

/-- How many bits are set below w. -/
def popBelow (v w : Nat) : Nat := ((List.range w).filter v.testBit).length

/-- The elements a bitmap spreads out. -/
def spread (b bits : Nat) : Nat → Nat → Bytes → List Bytes
  | 0, _, _ => []
  | n + 1, i, bs =>
    if bits.testBit i then bs.take b :: spread b bits n (i + 1) (bs.drop b) else zeros b :: spread b bits n (i + 1) bs

/-- The elements of a segment's chunks, given as lengths, from its records; with the bytes used. None where they
disagree. -/
def unpackChunks (b : Nat) : Nat → List Nat → Bytes → Nat → Option (List Bytes × Nat)
  | _, [], _, used => some ([], used)
  | z + 1, l :: ls, bs, used =>
    match unpackChunks b z ls bs used with
    | some (rest, u) => some (List.replicate l (zeros b) ++ rest, u)
    | none => none
  | 0, l :: ls, bs, used =>
    let h := fld bs 0 2
    let count := h % 512
    match h / 2 ^ 14 with
    | 0 =>
      if 1 ≤ count ∧ count ≤ ls.length + 1 then
        match unpackChunks b (count - 1) ls (bs.drop 2) (used + 2) with
        | some (rest, u) => some (List.replicate l (zeros b) ++ rest, u)
        | none => none
      else none
    | 1 =>
      let bits := fld bs 2 32
      let n := 34 + count * b
      if 1 ≤ count ∧ popBelow bits l = count ∧ bits < 2 ^ l ∧ n ≤ bs.length then
        match unpackChunks b 0 ls (bs.drop n) (used + n) with
        | some (rest, u) => some (spread b bits l 0 (slice bs 34 (count * b)) ++ rest, u)
        | none => none
      else none
    | 2 =>
      let n := 2 + l * b
      if count = l ∧ n ≤ bs.length then
        match unpackChunks b 0 ls (bs.drop n) (used + n) with
        | some (rest, u) => some (pieces l b (slice bs 2 (l * b)) ++ rest, u)
        | none => none
      else none
    | _ => none

/-- The lengths of the chunks of n elements. -/
def chunkLens (n : Nat) : List Nat := (List.range (ceilDiv n 256)).map fun i => min 256 (n - 256 * i)

/-- The segments from number i on, each where the table says, one after the other. -/
def unpackSegs (b : Nat) (table bs : Bytes) : Nat → Nat → Nat → Nat → Option (List Bytes × Nat)
  | 0, _, off, _ => some ([], off)
  | k + 1, i, off, left =>
    if fld table (4 * i) 4 * 64 = off then
      match unpackChunks b 0 (chunkLens (min 65536 left)) (bs.drop off) 0 with
      | some (els, used) =>
        match unpackSegs b table bs k (i + 1) (off + roundUp used 64) (left - 65536) with
        | some (rest, fin) => some (els ++ rest, fin)
        | none => none
      | none => none
    else none

/-- The elements of a PACK stream; none where its parts disagree with one another or with the entry (R193). -/
def unpackStream (fmt b n : Nat) (bs : Bytes) : Option (List Bytes) :=
  let segs := ceilDiv n 65536
  if fld bs 0 8 = n ∧ fld bs 8 1 = fmt ∧ fld bs 12 4 = segs ∧ fld bs 16 8 = bs.length then
    match unpackSegs b (slice bs 64 (4 * segs)) bs segs 0 (segStart segs) n with
    | some (els, fin) => if fin = bs.length then some els else none
    | none => none
  else none

/-! ### The SQUEEZE stream -/

/-- SQ_BYTES for n elements (R173). -/
def squeezeBytes (sq : Fmt) (n : Nat) : Nat := ceilDiv (n * fmtBits sq) (8 * 4096) * 4096 + n / 32

/-- The blocks of 32 of a row-major stream, squeezed: scale and codes (R174). -/
def squeezeBlocks (sq : Fmt) (vals : List FVal) : List (Nat × List Nat) :=
  (groupsOf 32 vals).map fun b => (blockScale sq b, blockCodes sq (b.map fun _ => .rne) (blockScale sq b) b)

/-- The SQUEEZE stream (R173). -/
def squeezeStream (sq : Fmt) (vals : List FVal) : Bytes :=
  let bl := squeezeBlocks sq vals
  padTo 4096 (packCodes (fmtBits sq) (bl.flatMap (·.2))) ++ bl.map fun b => BitVec.ofNat 8 b.1

/-- The code of FMT that a squeezed element reconstructs (R175). -/
def unsqueezeCode (f sq : Fmt) (scale code : Nat) : Nat := encodeFloat f .rtz (blockVal sq scale code)

/-- The codes of FMT that a SQUEEZE stream of n elements reconstructs. -/
def unsqueeze (f sq : Fmt) (n : Nat) (bs : Bytes) : List Nat :=
  let scales := squeezeBytes sq n - n / 32
  (List.range n).map fun i => unsqueezeCode f sq (fld bs (scales + i / 32) 1) (codeAt bs (fmtBits sq) i)

/-! ### Sealed records (R177) -/

/-- The 96-bit nonce of a record. -/
def sendNonce (epoch g h i : Nat) : Bytes := beBytes 12 (epoch * 2 ^ 64 + g * 2 ^ 55 + h * 2 ^ 41 + i)
/-- The authenticated data of a record (log 28). -/
def sendAad (epoch g h i n : Nat) : Bytes := leBytes 2 g ++ leBytes 2 h ++ leBytes 4 epoch ++ leBytes 8 i ++ leBytes 4 n

/-- The records of a form: ciphertext and tags in order. -/
def sealRecords (key : BitVec 256) (epoch g h : Nat) (form : Bytes) : Bytes × Bytes :=
  let ps := pieces form.length 65536 form
  let cs := ((List.range ps.length).zip ps).map fun p =>
    gcmSeal key (sendNonce epoch g h p.1) (sendAad epoch g h p.1 p.2.length) p.2
  (cs.flatMap (·.1), cs.flatMap (·.2))

/-- The pieces of a form, each authenticated under its tag and decrypted; none where a tag fails. -/
def openPieces (key : BitVec 256) (epoch g h : Nat) : Nat → List Bytes → Bytes → Option Bytes
  | _, [], _ => some []
  | i, p :: ps, tags =>
    match gcmOpen key (sendNonce epoch g h i) (sendAad epoch g h i p.length) p (tags.take 16) with
    | none => none
    | some pt =>
      match openPieces key epoch g h (i + 1) ps (tags.drop 16) with
      | none => none
      | some rest => some (pt ++ rest)

def openRecords (key : BitVec 256) (epoch g h : Nat) (ct tags : Bytes) : Option Bytes :=
  openPieces key epoch g h 0 (pieces ct.length 65536 ct) tags

end Sys2Proof.Machine
end

