-- ==== Sys2Proof/Machine/Stash.lean ====
section
/-! DEFINITION. Sys2Proof/Machine/Stash.lean: the activation stash: table, plan, puts, gets, recipes, replay and the step
boundary (R165 to R197, R445). -/
namespace Sys2Proof.Machine

/-! ### Statuses (R195) -/

def stEscalated : Nat := 0x40
def stRecovered : Nat := 0x41
def stStashOverrun : Nat := 0x60
def stStashAuth : Nat := 0x61
def stStashHost : Nat := 0x62
def stStashState : Nat := 0x63
def stRecipeDepth : Nat := 0x64
def stRecipeStale : Nat := 0x65

def polKeep : Nat := 0
def polPack : Nat := 1
def polSqueeze : Nat := 2
def polSend : Nat := 3
def polReplay : Nat := 4

/-! ### Configuration (R166, R167) -/

def State.stashCfg (s : State) (g sub : Nat) : Nat := s.cfg (0x3600 + g) sub
def State.entryAddr (s : State) (g h : Nat) : Nat := s.stashCfg g 0x20 + 128 * h
def State.sliceSize (s : State) (g : Nat) : Nat := s.stashCfg g 0x23 / s.dieCount
def State.sliceBase (s : State) (g i : Nat) : Nat := s.stashCfg g 0x22 + i * s.sliceSize g
/-- The target of every slice (R167). -/
def State.sliceTarget (s : State) (g : Nat) : Nat := s.sliceSize g * s.stashCfg g 0x26 / 100

def State.modStash (s : State) (g : Nat) (f : Stash → Stash) : State :=
  s.modCtx g fun c => { c with stash := f c.stash }

/-! ### Entries (R168) -/

structure StashEntry where
  raw : Bytes
  rows : Nat
  cols : Nat
  fmt : Option Fmt
  sq : Option Fmt
  preferReplay : Bool
  losslessFirst : Bool
  sliceNo : Nat
  allow : Nat
  plan : Nat
  rank : Nat
  group : Nat
  st : Nat
  used : Nat
  flags : Nat
  packBytes : Nat
  pendBytes : Nat
  loc : Nat
  stored : Nat
  recipe : Bytes
  deriving DecidableEq, Repr

def stashEntry (b : Bytes) : StashEntry :=
  let f := fld b 7 1
  { raw := b, rows := fld b 0 4, cols := fld b 4 2, fmt := fmtOf (fld b 6 1 % 16), sq := fmtOf (fld b 6 1 / 16)
    preferReplay := f.testBit 4, losslessFirst := f.testBit 3, sliceNo := f % 8, allow := fld b 8 1, plan := fld b 9 1
    rank := fld b 10 2, group := fld b 12 1, st := fld b 13 1, used := fld b 14 1, flags := fld b 15 1
    packBytes := fld b 16 8, pendBytes := fld b 24 8, loc := dAddr b 32, stored := fld b 40 8, recipe := slice b 64 64 }

def StashEntry.allows (e : StashEntry) (p : Nat) : Bool := e.allow.testBit p
def StashEntry.recipeValid (e : StashEntry) : Bool := e.flags.testBit 0

/-- The formats a tensor of the stash may have. -/
def stashFmt (f : Fmt) : Bool := isResultFmt f || f == .int8

/-- The host fields obey R168 on a partition of d dies. -/
def StashEntry.okHost (e : StashEntry) (d : Nat) : Bool :=
  match e.fmt with
  | none => false
  | some f =>
    1 ≤ e.rows && e.rows ≤ 16777215 && 1 ≤ e.cols && stashFmt f && fld e.raw 7 1 < 32 && e.sliceNo < d && 1 ≤ e.allow &&
    e.allow < 32 && zeroFrom e.raw 56 64 &&
    (if e.allows polSqueeze then
       (match e.sq with | some q => isBlockFmt q | none => false) && isWide f && mult e.cols 32
     else fld e.raw 6 1 / 16 == 0)

/-- The entry obeys R168 on a partition of d dies, and its PLAN is one ALLOW has (R180). -/
def StashEntry.ok (e : StashEntry) (d : Nat) : Bool := e.plan ≤ 4 && e.allows e.plan && e.okHost d

def StashEntry.f (e : StashEntry) : Fmt := e.fmt.getD .fp32
def StashEntry.q (e : StashEntry) : Fmt := e.sq.getD .f4
/-- The tensor at an address. -/
def StashEntry.arr (e : StashEntry) (a : Nat) : Arr := { addr := a, rows := e.rows, cols := e.cols, fmt := e.f }
def StashEntry.elems (e : StashEntry) : Nat := e.rows * e.cols
def StashEntry.width (e : StashEntry) : Nat := fmtBits e.f / 8
/-- KEEP_BYTES (R170). -/
def StashEntry.keepBytes (e : StashEntry) : Nat := (e.arr 0).elemBytes

/-- Whether a planned SEND stores the PACK stream (R177). -/
def StashEntry.sendsPack (e : StashEntry) : Bool := e.allows polPack && 0 < e.packBytes && e.packBytes < e.keepBytes

/-- The pool charge under a policy (R170). -/
def StashEntry.pool (e : StashEntry) (p : Nat) : Nat :=
  match p with
  | 0 => roundUp e.keepBytes 65536
  | 1 => roundUp (if e.packBytes = 0 then e.keepBytes else e.packBytes) 65536
  | 2 => roundUp (squeezeBytes e.q e.elems) 65536
  | _ => 0

/-- The host charge of a form of n bytes (R170). -/
def hostCharge (n : Nat) : Nat := roundUp n 4096 + roundUp (16 * ceilDiv n 65536) 4096

def StashEntry.host (e : StashEntry) (p : Nat) : Nat :=
  if p = 3 then hostCharge (if e.sendsPack then e.packBytes else e.keepBytes) else 0

/-- An entry read, checked against R168 and R191's handles. -/
def State.entry (s : State) (g h : Nat) : Except Fail StashEntry :=
  (s.readVa g (s.entryAddr g h) 128).map stashEntry

def State.entryOk (s : State) (g h : Nat) : Except Fail StashEntry :=
  if s.stashCfg g 0x21 ≤ h then .error { status := stBadField }
  else do
    let e ← s.entry g h
    if e.ok s.dieCount then return e else .error { status := stBadField }

/-! ### The plan (R178) -/

/-- The rungs in ladder order. -/
def StashEntry.order (e : StashEntry) : List Nat :=
  if e.losslessFirst then [polKeep, polPack, polSend, polReplay, polSqueeze]
  else [polKeep, polPack, polSqueeze, polSend, polReplay]

def StashEntry.ladder (e : StashEntry) (sendSize : Nat) : List Nat :=
  let all := e.order.filter e.allows
  let kept := all.filter fun p =>
    !(p == polPack && !(0 < e.packBytes && e.packBytes < e.keepBytes)) && !(p == polSend && sendSize == 0)
  if kept = [] then all.take 1 else kept

/-- The rungs after p whose pool charge is below that of p. -/
def StashEntry.lower (e : StashEntry) (ladder : List Nat) (p : Nat) : Option Nat :=
  ((ladder.dropWhile (· != p)).drop 1).find? fun q => e.pool q < e.pool p

/-- The next rung after p that fits the send region. -/
def StashEntry.next (e : StashEntry) (ladder : List Nat) (sendSize host p : Nat) : Option Nat :=
  match e.lower ladder p with
  | some q =>
    if q = polSend ∧ sendSize + e.host p < host + e.host polSend then e.lower ladder polSend else some q
  | none => none

/-- The running totals of a plan: bytes per slice, bytes of the send region, and each entry's policy. -/
structure Plan where
  hbm : SMap Nat := []
  host : Nat := 0
  pol : SMap Nat := []
  deriving DecidableEq, Repr

/-- One entry put at a policy instead of another; `old` is none at the start. -/
def Plan.move (p : Plan) (h : Nat) (e : StashEntry) (old : Option Nat) (new : Nat) : Plan :=
  let pool := match old with | some o => e.pool o | none => 0
  let host := match old with | some o => e.host o | none => 0
  { hbm := mapMod 0 p.hbm e.sliceNo fun v => v + e.pool new - pool
    host := p.host + e.host new - host
    pol := mapSet p.pol h new }

/-- One entry lowered rung by rung while its slice is over the target; a ladder has at most five rungs. -/
def Plan.lower (target sendSize h : Nat) (e : StashEntry) : Nat → Plan → Plan
  | 0, p => p
  | n + 1, p =>
    let cur := mapGet 0 p.pol h
    if mapGet 0 p.hbm e.sliceNo ≤ target then p
    else
      match e.next (e.ladder sendSize) sendSize p.host cur with
      | some q => Plan.lower target sendSize h e n (p.move h e (some cur) q)
      | none => p

/-- Entries in ascending (rank, handle). -/
def insertRank (x : Nat × StashEntry) : List (Nat × StashEntry) → List (Nat × StashEntry)
  | [] => [x]
  | y :: ys => if x.2.rank < y.2.rank ∨ (x.2.rank = y.2.rank ∧ x.1 < y.1) then x :: y :: ys else y :: insertRank x ys

/-- The plan of a table's valid entries (R178). -/
def makePlan (target sendSize : Nat) (es : List (Nat × StashEntry)) : Plan :=
  let start := es.foldl (fun p x => p.move x.1 x.2 none ((x.2.ladder sendSize).headD 0)) ({} : Plan)
  (es.foldr insertRank []).foldl (fun p x => Plan.lower target sendSize x.1 x.2 5 p) start

/-- PLAN_OVER (R178). -/
def Plan.over (p : Plan) (target sendSize : Nat) : Bool := p.hbm.any (fun kv => target < kv.2) || sendSize < p.host

/-! ### Speculative results (R189, R190) -/

/-- Bytes of a staging area (R189). -/
def StashEntry.stageBytes (e : StashEntry) : Nat := roundUp e.keepBytes 65536

/-- The die of an entry's slice, whose codec serves it (R167). -/
def State.sliceDie (s : State) (g : Nat) (e : StashEntry) : Nat := partOfCtx g * s.dieCount + e.sliceNo

/-- Bytes from the top of a slice down to the lowest staging area: what lies between areas still in use stays taken, as R189
says nothing of it (DESIGN CHOICE, log 96). -/
def State.stagedIn (s : State) (g i : Nat) : Nat :=
  let fin := s.sliceBase g i + s.sliceSize g
  (s.ctx g).stash.specs.foldl (fun n x => if x.slice = some i then max n (fin - x.stage) else n) 0

/-- Bytes of a slice that neither an entry nor a staging area holds. -/
def State.sliceFree (s : State) (g i : Nat) : Nat :=
  s.sliceSize g - mapGet 0 (s.ctx g).stash.top i - s.stagedIn g i

/-- The replay of an entry, running or staged. -/
def State.specOf (s : State) (g h : Nat) : Option Spec := (s.ctx g).stash.specs.find? (·.handle == h)

/-- The replay of a number. -/
def State.specNo (s : State) (g no : Nat) : Option Spec := (s.ctx g).stash.specs.find? (·.no == no)

def State.modSpec (s : State) (g no : Nat) (f : Spec → Spec) : State :=
  s.modStash g fun t => { t with specs := modWhere (fun x => x.no == no) f t.specs }

/-- A replay has steps left. -/
def Spec.running (x : Spec) : Bool := !x.steps.isEmpty

/-- What a core gives up at the end of its work tile: pips, walkers, and its busy time charged (R64, R419). -/
def State.leaveTile (s : State) (c : Nat) (t : TileRun) : State :=
  let s := s.freeCore c
  let s := s.modKv t.g fun k => { k with walkers := k.walkers.filter fun w => w.core != c }
  match t.startAt with
  | some a => s.chargeBusy t.g (s.ctxTime t.g - a)
  | none => s

/-- The work tile is stopped at once; what it wrote remains. -/
def State.stopTile (s : State) (c : Nat) (t : TileRun) : State :=
  (s.leaveTile c t).modRun t.g t.q t.seq fun r => { r with onCores := r.onCores - 1 }

/-- The work tiles of replays that are discarded leave their cores at once: their pips return and their time is charged
(R419, R64). -/
def State.cutReplay (s : State) (g : Nat) (p : Nat → Bool) : State :=
  (s.coresWith fun t => t.g == g && t.replay.any p).foldl
    (fun s c => match (s.core c).tile with | some t => s.stopTile c t | none => s) s

/-- The work tiles of every speculative replay of a context. -/
def State.cutSpeculative (s : State) (g : Nat) : State :=
  s.cutReplay g fun n => (s.specNo g n).any fun x => x.owner.isNone

/-- A replay forgotten. -/
def State.forgetSpec (s : State) (g h : Nat) : State :=
  s.modStash g fun t => { t with specs := t.specs.filter (·.handle != h) }

/-- A replay discarded: its work tiles leave their cores, and an entry that was STAGED no longer is (R190, R419). -/
def State.dropSpec (s : State) (g h : Nat) : State :=
  match s.specOf g h with
  | none => s
  | some x =>
    let s := (s.cutReplay g (· == x.no)).forgetSpec g h
    if x.staged then
      match s.entry g h with
      | .ok e =>
        let s := (s.writeVa g (s.entryAddr g h + 15) (leBytes 1 (e.flags &&& 0xFD))).1
        (s.writeVa g (s.entryAddr g h + 48) (zeros 8)).1
      | .error _ => s
    else s

/-- Staged results of a slice discarded, newest first, until a charge fits or none is left (R182). Newest is the replay that
was started last (DESIGN CHOICE, log 96). -/
def State.makeRoom (s : State) (g i charge : Nat) : State :=
  ((s.ctx g).stash.specs.filter fun x => x.slice == some i && x.staged).reverse.foldl
    (fun s x => if charge ≤ s.sliceFree g i then s else s.dropSpec g x.handle) s

/-! ### Puts (R179 to R183) -/

/-- Row-major elements of a tensor's stored rows. -/
def StashEntry.elements (e : StashEntry) (rows : Bytes) : List Bytes :=
  (List.range e.rows).flatMap fun r =>
    (List.range e.cols).map fun c => slice rows (r * (e.arr 0).pitch + c * e.width) e.width

def StashEntry.values (e : StashEntry) (els : List Bytes) : List FVal := els.map fun b => decode e.f (leNat b)

def StashEntry.fmtCode (e : StashEntry) : Nat := fld e.raw 6 1 % 16

/-- The form of a policy for a source (R169). -/
def StashEntry.form (e : StashEntry) (p : Nat) (rows : Bytes) : Bytes :=
  match p with
  | 1 => packStream e.fmtCode e.width (e.elements rows)
  | 2 => squeezeStream e.q (e.values (e.elements rows))
  | _ => rows

/-- The form a SEND stores: of the PLAN where USED was reached by escalation (R177). -/
def StashEntry.sendForm (e : StashEntry) : Nat :=
  if e.plan = polSend then (if e.sendsPack then polPack else polKeep) else e.plan

/-- PEND_PACK_BYTES of a source (R179). -/
def StashEntry.pend (e : StashEntry) (rows : Bytes) : Nat :=
  if e.allows polPack then (packStream e.fmtCode e.width (e.elements rows)).length else 0

/-- A put's end: the fields of R181 written and the run carried out. -/
def State.hold (s : State) (g q seq h used loc stored pend status : Nat) : State :=
  match s.writeAll g [(s.entryAddr g h + 13, leBytes 1 1 ++ leBytes 1 used),
      (s.entryAddr g h + 24, leBytes 8 pend ++ leBytes 8 loc ++ leBytes 8 stored)] with
  | (s', some e) => s'.jobFault g q seq e.status e.tile
  | (s', none) => s'.ranWith g q seq status

/-- REPLAY where ALLOW and a recipe permit it, else the fault (R182, R183). -/
def State.putReplay (s : State) (g q seq h : Nat) (e : StashEntry) (status : Nat) : State :=
  if e.allows polReplay && e.recipeValid then s.hold g q seq h polReplay 0 0 0 stEscalated
  else s.jobFault g q seq status 0

def State.sendKey (s : State) (p : Nat) : BitVec 256 := match (s.part p).keys with | some ks => ks.send | none => 0

/-- Whether the send region has room for a form (R182); it is full once the partition's send epoch counter has reached
its end (R196). -/
def State.sendRoom (s : State) (g n : Nat) : Bool :=
  (s.part (partOfCtx g)).sendEpoch < 2 ^ 32 - 1 && (s.ctx g).stash.sendTop + hostCharge n ≤ s.stashCfg g 0x25

/-- A form sent: its records and tags written, or the host path found lost (R177, R183). -/
def State.putSend (s : State) (g q seq h : Nat) (e : StashEntry) (form : Bytes) (pend status : Nat) : State :=
  let t := (s.ctx g).stash
  let loc := s.stashCfg g 0x24 + t.sendTop
  let r := sealRecords (s.sendKey (partOfCtx g)) t.epoch g h form
  match s.writeAll g [(loc, r.1), (roundUp (loc + form.length) 4096, r.2)] with
  | (s', none) =>
    (s'.modStash g fun t => { t with sendTop := t.sendTop + hostCharge form.length }).hold g q seq h polSend loc
      form.length pend status
  | (s', some x) =>
    if x.status = stHostLost then s'.putReplay g q seq h e stStashHost else s'.jobFault g q seq x.status x.tile

/-- A put stored in its slice. -/
def State.putPool (s : State) (g q seq h : Nat) (e : StashEntry) (form : Bytes) (charge pend : Nat) : State :=
  let top := mapGet 0 (s.ctx g).stash.top e.sliceNo
  let loc := s.sliceBase g e.sliceNo + top
  match (s.modStash g fun t => { t with top := mapSet t.top e.sliceNo (top + charge) }).writeVa g loc form with
  | (s', some x) => s'.jobFault g q seq x.status x.tile
  | (s', none) => s'.hold g q seq h e.plan loc form.length pend stDone

/-- A put planned KEEP, PACK or SQUEEZE: stored, or escalated where its slice overruns (R182). -/
def State.putPlanned (s : State) (g q seq h : Nat) (e : StashEntry) (form : Bytes) (pend : Nat) : State :=
  let charge := roundUp form.length 65536
  let s := s.makeRoom g e.sliceNo charge
  if charge ≤ s.sliceFree g e.sliceNo then s.putPool g q seq h e form charge pend
  else if e.allows polReplay && e.recipeValid && e.preferReplay then s.hold g q seq h polReplay 0 0 0 stEscalated
  else if e.allows polSend && s.sendRoom g form.length then s.putSend g q seq h e form pend stEscalated
  else s.putReplay g q seq h e stStashOverrun

/-- A put of a source that has been read. -/
def State.putRows (s : State) (g q seq h : Nat) (e : StashEntry) (rows : Bytes) : State :=
  if e.plan = polSend then
    let form := e.form e.sendForm rows
    if s.sendRoom g form.length then s.putSend g q seq h e form (e.pend rows) stDone
    else s.putReplay g q seq h e stStashOverrun
  else s.putPlanned g q seq h e (e.form e.plan rows) (e.pend rows)

def putHandle (d : Bytes) : Nat := fld d 24 2

/-- The bytes of tensor data a work tile of a put or a get covers (R181). -/
def stashTile : Nat := 2 ^ 21

/-- The next work tile of a put: it reads its part of the source; with the last one the form is encoded, its charge
allocated and the entry held (R181, R186, R194). -/
def State.put (s : State) (g q seq : Nat) (r : Run) : State :=
  let h := putHandle r.raw
  match s.entryOk g h with
  | .error x => s.jobFault g q seq x.status x.tile
  | .ok e =>
    if e.st ≠ 0 ∨ (e.allows polReplay ∧ !e.recipeValid) then s.jobFault g q seq stStashState 0
    else if e.plan = polReplay then s.hold g q seq h polReplay 0 0 0 stDone
    else
      let n := min stashTile (e.keepBytes - r.cursor)
      match s.readVa g (dAddr r.raw 16 + r.cursor) n with
      | .error x => s.jobFault g q seq x.status x.tile
      | .ok bs =>
        let t :=
          if e.keepBytes ≤ r.cursor + stashTile then s.putRows g q seq h e (r.buf ++ bs)
          else s.modRun g q seq fun r => { r with cursor := r.cursor + stashTile, buf := r.buf ++ bs }
        t.accessed (t.sliceDie g e) g [(dAddr r.raw 16 + r.cursor, n)] []

/-! ### Gets and replay (R187, R191 to R194) -/

/-- A tensor's elements written into its stored rows. -/
def StashEntry.rowWrites (e : StashEntry) (dst : Nat) (els : List Bytes) : List (Nat × Bytes) :=
  (groupsOf e.cols els).zipIdx.map fun r => (dst + r.2 * (e.arr 0).pitch, r.1.flatten)

/-- Stored data that does not decode. R193 names no data tile of it for FAULT_TILE: the model names the first of the stored form
(DESIGN CHOICE, log 42). -/
def corrupt (loc : Nat) : Fail := { status := stDataCorrupt, tile := loc / 4096 * 4096 }

/-- The elements a form holds (R192); a stream that does not decode is corrupt (R193). -/
def StashEntry.unform (e : StashEntry) (p : Nat) (form : Bytes) : Except Fail (List Bytes) :=
  match p with
  | 1 =>
    match unpackStream e.fmtCode e.width e.elems form with
    | some els => .ok els
    | none => .error (corrupt e.loc)
  | 2 => .ok ((unsqueeze e.f e.q e.elems form).map (leBytes e.width))
  | _ => .ok (e.elements form)

/-- The form fetched from the send region, authenticated and decrypted. -/
def State.fetchSend (s : State) (g h : Nat) (e : StashEntry) : Except Fail Bytes := do
  let ct ← s.readVa g e.loc e.stored
  let tags ← s.readVa g (roundUp (e.loc + e.stored) 4096) (16 * ceilDiv e.stored 65536)
  match openRecords (s.sendKey (partOfCtx g)) (s.ctx g).stash.epoch g h ct tags with
  | some form => return form
  | none => .error { status := stStashAuth }

/-- The elements a held entry's stored form gives. -/
def State.fetch (s : State) (g h : Nat) (e : StashEntry) : Except Fail (List Bytes) :=
  if e.used = polSend then do
    let form ← s.fetchSend g h e
    e.unform e.sendForm form
  else do
    let form ← s.readVa g e.loc e.stored
    e.unform e.used form

/-- The range that the codec reads of a held entry's stored form. -/
def StashEntry.formRange (e : StashEntry) : Nat × Nat := (e.loc, e.stored)

/-- The part of a write that lies in a range. -/
def clip (lo n : Nat) (w : Nat × Bytes) : Nat × Bytes :=
  let a := max lo w.1
  (a, slice w.2 (a - w.1) (min (lo + n) (w.1 + w.2.length) - a))

/-- Elements delivered to the n bytes of a destination from byte `at0` of it on. -/
def State.deliver (s : State) (g : Nat) (e : StashEntry) (dst at0 n : Nat) (els : List Bytes) : State × Option Fail :=
  s.writeAll g (joinRuns (((e.rowWrites dst els).map (clip (dst + at0) n)).filter fun w => !w.2.isEmpty))

/-- Step 4 of R187: the destination squeezed and reconstructed in place. -/
def State.squeezeInPlace (s : State) (g : Nat) (e : StashEntry) (dst : Nat) : State × Option Fail :=
  match s.readVa g dst e.keepBytes with
  | .error x => (s, some x)
  | .ok rows =>
    let form := squeezeStream e.q (e.values (e.elements rows))
    s.deliver g e dst 0 e.keepBytes ((unsqueeze e.f e.q e.elems form).map (leBytes e.width))

/-- Computations in turn until one stops. -/
def inTurn {α β : Type} (f : State → α → State × Option β) : State → List α → State × Option β
  | s, [] => (s, none)
  | s, a :: rest =>
    match f s a with
    | (s', some x) => (s', some x)
    | (s', none) => inTurn f s' rest

def recipeChain (r : Bytes) : Nat := dAddr r 0
def recipeLen (r : Bytes) : Nat := bitsOf (fld r 0 8) 57 6 + 1

/-- The descriptors of a chain's bytes. -/
def chainOf (b : Bytes) : List Bytes := (List.range (b.length / 64)).map fun i => slice b (64 * i) 64

/-- Whether a running replay, or one nested in it, is of the GROUP (R188). -/
def Spec.holds (x : Spec) (group : Nat) : Bool := x.running && (x.group == group || x.nested.contains group)

/-- Whether a running replay holds the GROUP (R188). -/
def State.groupBusy (s : State) (g group : Nat) : Bool := (s.ctx g).stash.specs.any fun x => x.holds group

/-- Whether another running replay than the one of a number does: a nested replay then waits (R188). -/
def State.groupTaken (s : State) (g no group : Nat) : Bool := (s.ctx g).stash.specs.any fun x => x.no != no && x.holds group

/-- SPECULATIVE of a chain descriptor's copy (R41, R189). -/
def setSpeculative (b : Bool) (d : Bytes) : Bytes := putBytes d 1 (leBytes 1 (dFlags d % 8 + if b then 8 else 0))

/-- SPECULATIVE of the copies among a replay's steps. -/
def RStep.flagged (b : Bool) : RStep → RStep
  | .chain d out => .chain (setSpeculative b d) out
  | st => st

/-- The steps of a replay of an entry into a destination; its internal gets may nest k more replays (R187). `spec` says that it
is speculative. -/
def State.replaySteps (s : State) (spec : Bool) (g h : Nat) (e : StashEntry) (dst k : Nat) : Except Fail (List RStep) := do
  let r := e.recipe
  let chain ← s.readVa g (recipeChain r) (64 * recipeLen r)
  if fld r 40 4 ≠ s.stepNo g ∨ (crc32c chain).toNat ≠ fld r 44 4 then .error { status := stRecipeStale }
  else
    let ds := chainOf chain
    return ((List.range (fld r 38 1 % 4)).map fun i => RStep.place (fld r (32 + 2 * i) 2) (dAddr r (8 + 8 * i)) k) ++
      (ds.zipIdx.map fun x =>
        (RStep.chain x.1 (if x.2 + 1 = ds.length then some (fld r 39 1, dst) else none)).flagged spec) ++
      (if e.plan = polSqueeze then [RStep.squeeze h dst] else [])

/-- What becomes of a form that cannot be delivered: a replay where a recipe is valid, else the fault of R193. -/
def fetchFault (f : Fail) : Fail := if f.status = stHostLost then { status := stStashHost } else f

/-- Whether R193 handles a failure. -/
def recoverable (f : Fail) : Bool := f.status == stDataCorrupt || f.status == stStashAuth || f.status == stHostLost

/-- What becomes of an internal get: done; a nested replay of a GROUP, with its steps; or a wait for that GROUP (R188). -/
inductive Placed where
  | done
  | nest (group : Nat) (steps : List RStep)
  | wait
  deriving DecidableEq, Repr

/-- A replay nested in replay x, to a depth of k more (R187); it waits while another replay runs of its GROUP (R188). -/
def State.nestStep (s : State) (g : Nat) (x : Spec) (h : Nat) (e : StashEntry) (dst k : Nat) : Except Fail Placed :=
  match k with
  | 0 => .error { status := stRecipeDepth }
  | k + 1 =>
    if s.groupTaken g x.no e.group then .ok .wait
    else (s.replaySteps x.owner.isNone g h e dst k).map fun st => .nest e.group st

/-- An internal get of an entry into an address within replay x (R187, R192, R193). -/
def State.placeStep (s : State) (g : Nat) (x : Spec) (h dst k : Nat) : State × Except Fail Placed :=
  match s.entryOk g h with
  | .error f => (s, .error f)
  | .ok e =>
    if e.st ≠ 1 then (s, .error { status := stStashState })
    else if e.used = polReplay then (s, s.nestStep g x h e dst k)
    else
      match s.fetch g h e with
      | .ok els =>
        match s.deliver g e dst 0 e.keepBytes els with
        | (s', some f) => (s', .error f)
        | (s', none) => (s'.accessed (s'.sliceDie g e) g [e.formRange] [], .ok .done)
      | .error f =>
        if !recoverable f then (s, .error f)
        else if e.recipeValid then (s, s.nestStep g x h e dst k)
        else (s, .error (fetchFault f))

/-- A chain descriptor's block and its work tiles. -/
def State.chainStart (s : State) (g : Nat) (d : Bytes) : Except Fail (Bytes × Nat) := do
  let blk ← s.blockOf g d
  let n ← s.dataTiles g d blk
  return (blk, n)

/-- A step of replay x other than a chain descriptor with work tiles, carried out. -/
def State.stepNow (s : State) (g : Nat) (x : Spec) : RStep → State × Except Fail Placed
  | .place h dst k => s.placeStep g x h dst k
  | .leave _ => (s, .ok .done)
  | .squeeze h dst =>
    match s.entryOk g h with
    | .error f => (s, .error f)
    | .ok e =>
      match s.squeezeInPlace g e dst with
      | (s', some f) => (s', .error f)
      | (s', none) => (s'.accessed (s'.sliceDie g e) g [(dst, e.keepBytes)] [], .ok .done)
  | .chain d out =>
    match s.chainMove g d out with
    | (s', some f) => (s', .error f)
    | (s', none) => (s', .ok .done)

/-- The replay after a step that has been carried out: past it, in the nested replay it began, or waiting at it (R188). -/
def Spec.past (x : Spec) (st : RStep) (rest : List RStep) : Placed → Option Spec
  | .done => some { x with steps := rest, nested := match st with | .leave gr => x.nested.erase gr | _ => x.nested }
  | .nest gr more => some { x with steps := more ++ .leave gr :: rest, nested := gr :: x.nested }
  | .wait => none

/-- A replay carried on: what needs no core is done at once, up to a chain descriptor with work tiles or the end
(DESIGN CHOICE, log 89). -/
def State.replayOn (s : State) (g : Nat) : Nat → Spec → State × Except Fail Spec
  | 0, x => (s, .ok x)
  | n + 1, x =>
    match x.steps with
    | [] => (s, .ok x)
    | st :: rest =>
      let onCore : Option (Except Fail (Bytes × Nat)) :=
        match st with
        | .chain d _ => if dOpcode d = 0x01 then none else some (s.chainStart g d)
        | _ => none
      match onCore with
      | some (.error e) => (s, .error e)
      | some (.ok (_, 0)) => s.replayOn g n { x with steps := rest }
      | some (.ok (blk, t + 1)) =>
        (s, .ok { x with block := blk, tiles := t + 1, nextTile := 0, back := [], done := 0, haloAt := s.ctxTime g })
      | none =>
        match s.stepNow g x st with
        | (s', .error e) => (s', .error e)
        | (s', .ok p) =>
          match x.past st rest p with
          | some y => s'.replayOn g n y
          | none => (s', .ok x)

/-- More steps than 4 nested replays of at most 3 inputs and 64 descriptors can have (R184, R187). -/
def replayFuel : Nat := 16384

/-- A replay that faults: a speculative one is discarded, any other makes its get fault (R190, R193); its work tiles on other
cores then run to their boundary (R56). -/
def State.replayFail (s : State) (g : Nat) (x : Spec) (e : Fail) : State :=
  match x.owner with
  | none => s.dropSpec g x.handle
  | some (q, seq) => s.jobFault g q seq e.status e.tile

/-- A replay of the context carried on. -/
def State.replayGo (s : State) (g : Nat) (x : Spec) : State :=
  match s.replayOn g replayFuel x with
  | (s', .ok y) => s'.modSpec g x.no fun _ => y
  | (s', .error e) => s'.replayFail g x e

/-- A replay begun: its number taken, its steps carried on. -/
def State.replayStart (s : State) (g : Nat) (x : Spec) : State :=
  let y := { x with no := (s.ctx g).stash.replayNo }
  (s.modStash g fun t => { t with specs := t.specs ++ [y], replayNo := t.replayNo + 1 }).replayGo g y

/-- How many replays may nest, the outermost left out (R187). -/
def innerDepth : Nat := 3

/-- The chain descriptor a running replay is at. -/
def Spec.step (x : Spec) : Option (Bytes × Option (Nat × Nat)) :=
  match x.steps with
  | .chain d out :: _ => some (d, out)
  | _ => none

/-- The next work tile of a running replay. -/
def Spec.next (x : Spec) : Option Nat :=
  match x.step, x.back with
  | none, _ => none
  | some _, t :: _ => some t
  | some _, [] => if x.nextTile < x.tiles then some x.nextTile else none

/-- The work tile taken at a partition time. -/
def Spec.claim (now : Nat) (x : Spec) : Spec :=
  match x.back with
  | _ :: rest => { x with back := rest, haloAt := now }
  | [] => { x with nextTile := x.nextTile + 1, haloAt := now }

/-- The entry whose GROUP a replay waits for, at an internal get (R188). -/
def Spec.atPlace (x : Spec) : Option Nat :=
  match x.steps with
  | .place h _ _ :: _ => some h
  | _ => none

/-- Whether a replay that waits at an internal get may go on: the GROUP is free. -/
def State.mayNest (s : State) (g : Nat) (x : Spec) : Bool :=
  match x.atPlace with
  | none => false
  | some h => match s.entry g h with | .ok e => !s.groupTaken g x.no e.group | .error _ => true

/-- Work tile t of a replay run to its end on core c: its writes made; with the last one of its descriptor the next step
begins. -/
def State.replayTile (s : State) (c g : Nat) (x : Spec) (ws : List Walker) (t : Nat) : State :=
  match x.step with
  | none => s
  | some (d, out) =>
    match s.chainTile c g d x.block out ws t with
    | (s', some e) => s'.replayFail g x e
    | (s', none) =>
      let y := { x with done := x.done + 1 }
      if y.done = x.tiles then s'.replayGo g { y with steps := x.steps.drop 1 } else s'.modSpec g x.no fun _ => y

/-- A get's end at the entry: RECOVERED set where it was (R193). -/
def State.markRecovered (s : State) (g h : Nat) : State × Option Fail :=
  match s.entry g h with
  | .error x => (s, some x)
  | .ok e => s.writeVa g (s.entryAddr g h + 15) (leBytes 1 (e.flags ||| 4))

/-- A get whose destination is filled: RECOVERED set where it was recovered (R193). -/
def State.getDone (s : State) (g q seq h : Nat) (rec : Bool) : State :=
  if rec then
    match s.markRecovered g h with
    | (s', some x) => s'.jobFault g q seq x.status x.tile
    | (s', none) => s'.ranWith g q seq stRecovered
  else s.ranWith g q seq stDone

/-- The next work tile of a get filled from elements that have been read; `src` are the ranges they were read from, and `fin`
is what the last one leaves. -/
def State.getTile (s : State) (g q seq : Nat) (r : Run) (e : StashEntry) (src : List (Nat × Nat)) (els : List Bytes)
    (fin : State → State) : State :=
  match s.deliver g e (dAddr r.raw 16) r.cursor stashTile els with
  | (s', some x) => s'.jobFault g q seq x.status x.tile
  | (s', none) =>
    let s' := s'.accessed (s'.sliceDie g e) g src []
    if e.keepBytes ≤ r.cursor + stashTile then fin s'
    else s'.modRun g q seq fun r => { r with cursor := r.cursor + stashTile }

/-- What the codec reads of a stored form for a work tile of a get: all of it with the first one (DESIGN CHOICE, log 7). -/
def StashEntry.readFor (e : StashEntry) (r : Run) : List (Nat × Nat) := if r.cursor = 0 then [e.formRange] else []

/-- A get's own replay begun; it waits while another replay of its GROUP runs (R188). -/
def State.getReplay (s : State) (g q seq h : Nat) (r : Run) (e : StashEntry) (rec : Bool) : State :=
  if s.groupBusy g e.group then s
  else
    match s.replaySteps false g h e (dAddr r.raw 16) innerDepth with
    | .error x => s.jobFault g q seq x.status x.tile
    | .ok steps =>
      s.replayStart g { no := 0, handle := h, slice := none, group := e.group, stage := dAddr r.raw 16,
                        owner := some (q, seq), recovered := rec, steps := steps }

/-- A work tile of a get from the stored form, or by replay (R192, R193). -/
def State.getStored (s : State) (g q seq h : Nat) (r : Run) (e : StashEntry) : State :=
  if e.used = polReplay then s.getReplay g q seq h r e false
  else
    match s.fetch g h e with
    | .ok els => s.getTile g q seq r e (e.readFor r) els fun s => s.getDone g q seq h false
    | .error x =>
      if !recoverable x then s.jobFault g q seq x.status x.tile
      else if e.recipeValid then s.getReplay g q seq h r e true
      else s.jobFault g q seq (fetchFault x).status (fetchFault x).tile

/-- The work tiles that a replay has on cores are from now on those of a get (R190). -/
def State.adoptTiles (s : State) (g no q seq : Nat) : State :=
  (s.coresWith fun t => t.g == g && t.replay == some no).foldl
    (fun s c =>
      (s.modCore c fun k => { k with tile := k.tile.map fun t => { t with q := q, seq := seq } }).modRun g q seq fun r =>
        { r with onCores := r.onCores + 1 }) s

/-- A speculative replay made a get's own: its copies no longer carry SPECULATIVE (R190, R41). -/
def State.claimSpec (s : State) (g q seq : Nat) (e : StashEntry) (x : Spec) : State :=
  if x.owner.isSome then s
  else
    (s.modSpec g x.no fun y =>
      { y with owner := some (q, seq), fetching := e.used == polSend, steps := y.steps.map (RStep.flagged false) }).adoptTiles
      g x.no q seq

/-- A get beside a running replay of its entry, which it makes non-speculative: of a SEND entry it fetches as well; a
fetch that fails leaves the replay to recover it (R190, R193). -/
def State.getBeside (s : State) (g q seq h : Nat) (r : Run) (e : StashEntry) (x : Spec) : State :=
  let s := s.claimSpec g q seq e x
  if e.used = polSend ∧ (x.owner.isNone ∨ x.fetching) then
    match s.fetch g h e with
    | .ok els => s.getTile g q seq r e (e.readFor r) els fun s => (s.dropSpec g h).getDone g q seq h false
    | .error f =>
      if recoverable f then s.modSpec g x.no fun y => { y with fetching := false, recovered := true }
      else s.jobFault g q seq f.status f.tile
  else s

/-- A get of a replay that has finished: one straight into the destination is delivered, a staged one is copied and its
area freed; a staging area that cannot be read counts as no replay (R190). -/
def State.getFinished (s : State) (g q seq h : Nat) (r : Run) (e : StashEntry) (x : Spec) : State :=
  if x.slice.isNone then (s.dropSpec g h).getDone g q seq h x.recovered
  else
    match s.readVa g x.stage e.keepBytes with
    | .error _ => (s.dropSpec g h).modRun g q seq fun r => { r with cursor := 0 }
    | .ok rows =>
      s.getTile g q seq r e [(x.stage + r.cursor, min stashTile (e.keepBytes - r.cursor))] (e.elements rows) fun s =>
        (s.dropSpec g h).getDone g q seq h x.recovered

/-- The next work tile of a get (R190 to R194). A get waits while another get's replay of the entry runs; its own replay goes on
where it waited for a GROUP that is free again (R188). -/
def State.get (s : State) (g q seq : Nat) (r : Run) : State :=
  let h := putHandle r.raw
  match s.entryOk g h with
  | .error x => s.jobFault g q seq x.status x.tile
  | .ok e =>
    if e.st ≠ 1 then s.jobFault g q seq stStashState 0
    else
      match s.specOf g h with
      | none => s.getStored g q seq h r e
      | some x =>
        if x.owner.isSome ∧ x.owner ≠ some (q, seq) then (if e.used = polReplay then s else s.getStored g q seq h r e)
        else if x.owner.isSome ∧ s.mayNest g x then s.replayGo g x
        else if x.running then s.getBeside g q seq h r e x
        else s.getFinished g q seq h r e x

/-- Whether the codec has something to do for a started descriptor: a get that only waits for a replay has nothing. -/
def State.codecReady (s : State) (g q : Nat) (r : Run) : Bool :=
  let h := putHandle r.raw
  dOpcode r.raw != 0x31 ||
    match s.entryOk g h, s.specOf g h with
    | .error _, _ => true
    | .ok e, none => e.used != polReplay || e.st != 1 || !s.groupBusy g e.group
    | .ok e, some x =>
      if x.owner.isSome && x.owner != some (q, r.seq) then e.used != polReplay
      else !x.running || x.owner.isNone || x.fetching || s.mayNest g x

/-- The slice whose codec serves a put or a get (R167); where its entry cannot be used, the lowest die's (DESIGN CHOICE,
log 7). -/
def State.codecSlice (s : State) (g : Nat) (r : Run) : Nat :=
  match s.entryOk g (putHandle r.raw) with
  | .ok e => e.sliceNo
  | .error _ => 0

/-- Whether the codec of slice i has something to do for a started descriptor. -/
def State.codecReadyAt (s : State) (i g q : Nat) (r : Run) : Bool := s.codecSlice g r == i && s.codecReady g q r

/-- A finished get: with RELEASE its entry is RELEASED once no started get of it is left (R194). -/
def State.endGet (s : State) (g q seq : Nat) (d : Bytes) : State × Option Fail :=
  let h := putHandle d
  let s := s.modStash g fun t =>
    { t with
      gets := t.gets.filter (· != (h, q, seq))
      releasing := if fld d 26 1 = 1 then h :: t.releasing else t.releasing }
  let t := (s.ctx g).stash
  if t.releasing.contains h && !(t.gets.any fun x => x.1 == h) then
    ((s.dropSpec g h).modStash g fun t => { t with releasing := t.releasing.filter (· != h) }).writeVa g
      (s.entryAddr g h + 13) (leBytes 1 2)
  else (s, none)

/-! ### Recipes (R184 to R186) -/

/-- The chain descriptors R185 allows. -/
def chainOp (d : Bytes) : Bool :=
  [0x01, 0x10, 0x12, 0x18, 0x19, 0x1A, 0x20, 0x28, 0x29].contains (dOpcode d) || (dOpcode d == 0x38 && fld d 48 1 ≤ 4)

/-- A chain descriptor held to every check of R54 and R185: one that fails any of them, in whichever way, fails with
BAD_FIELD; corrupt data read on the way stays DATA_CORRUPT (R448), and a lost host page HOST_LOST (R57). -/
def State.chainDescCheck (s : State) (g : Nat) (d : Bytes) : Except Fail Unit :=
  if headerStatus d == 0 && chainOp d then
    match s.dataCheck g d with
    | .ok _ => .ok ()
    | .error e => if e.status = stDataCorrupt ∨ e.status = stHostLost then .error e else .error { status := stBadField }
  else .error { status := stBadField }

/-- OUT_OFFSET names the last descriptor's result word (R185; log 30). -/
def outOk (last : Bytes) (off : Nat) : Bool :=
  if dOpcode last = 0x28 then 8 ≤ off && off ≤ 120 && mult off 8 else (outWords last).contains off

/-- The inputs of a RECIPE body (R186). -/
def State.inputOk (s : State) (g : Nat) (d : Bytes) (k : Nat) : Except Fail Bool :=
  let h := fld d (50 + 2 * k) 2
  if k < fld d 56 1 then
    if h < s.stashCfg g 0x21 then (s.entry g h).map fun e => !e.allows polSqueeze else .ok false
  else .ok (h == 0 && dAddr d (24 + 8 * k) == 0)

/-- Check 4 of R54 for a RECIPE: the chain it reads, or why it fails. -/
def State.recipeCheck (s : State) (g : Nat) (d : Bytes) : Except Fail Bytes := do
  let fields := !(fld d 16 8).testBit 63 && dTop d 24 == 0 && dTop d 32 == 0 && dTop d 40 == 0 && fld d 48 2 < 2 ^ 14 &&
    fld d 50 2 < 2 ^ 14 && fld d 52 2 < 2 ^ 14 && fld d 54 2 < 2 ^ 14 && fld d 56 1 ≤ 3 && zeroFrom d 58 64 &&
    fld d 48 2 < s.stashCfg g 0x21
  if !fields then .error { status := stBadField }
  else
    let i0 ← s.inputOk g d 0
    let i1 ← s.inputOk g d 1
    let i2 ← s.inputOk g d 2
    let chain ← s.readVa g (dAddr d 16) (64 * (bitsOf (fld d 16 8) 57 6 + 1))
    let ds := chainOf chain
    let _ ← collect (s.chainDescCheck g) ds
    if i0 && i1 && i2 && outOk (ds.getLastD []) (fld d 57 1) then return chain
    else .error { status := stBadField }

/-- The recipe a RECIPE body records (R184, R185). -/
def recipeBytes (d chain : Bytes) (step : Nat) : Bytes :=
  slice d 16 32 ++ slice d 50 8 ++ leBytes 4 step ++ leBytes 4 (crc32c chain).toNat ++ zeros 16

/-- The chain and its derived scratch (R188). -/
def State.scratchOf (s : State) (g : Nat) (d chain : Bytes) : List (Nat × Nat) :=
  let ds := chainOf chain
  let ranges := ds.zipIdx.flatMap fun x =>
    match s.blockOf g x.1 with
    | .ok blk =>
      ((s.results g x.1 blk).filter fun r => x.2 + 1 != ds.length || r.1 != fld d 57 1).map (·.2)
    | .error _ => []
  (dAddr d 16, chain.length) :: ranges

/-- A RECIPE carried out (R185). -/
def State.record (s : State) (g q seq : Nat) (r : Run) : State :=
  let h := fld r.raw 48 2
  match s.entry g h with
  | .error x => s.jobFault g q seq x.status x.tile
  | .ok e =>
    if e.st ≠ 0 then s.jobFault g q seq stStashState 0
    else
      match s.writeAll g [(s.entryAddr g h + 64, recipeBytes r.raw r.block (s.stepNo g)),
          (s.entryAddr g h + 15, leBytes 1 (e.flags ||| 1))] with
      | (s', some x) => s'.jobFault g q seq x.status x.tile
      | (s', none) =>
        (s'.modStash g fun t => { t with scratch := mapSet t.scratch h (s.scratchOf g r.raw r.block) }).ranWith g q seq stDone

/-! ### Check 4 of R54 for puts and gets (R181, R191) -/

def State.putCheck (s : State) (g : Nat) (d : Bytes) : Except Fail Bytes :=
  if dTop d 16 == 0 && fld d 24 2 < 2 ^ 14 && zeroFrom d 26 64 && mult (dAddr d 16) 64 then
    (s.entryOk g (putHandle d)).map fun _ => []
  else .error { status := stBadField }

/-- The ranges a get's destination must not overlap (R191). -/
def State.stashRanges (s : State) (g : Nat) : List (Nat × Nat) :=
  [(s.stashCfg g 0x20, 128 * s.stashCfg g 0x21), (s.stashCfg g 0x22, s.stashCfg g 0x23),
   (s.stashCfg g 0x24, s.stashCfg g 0x25)] ++ (s.ctx g).stash.scratch.flatMap (·.2)

def State.getCheck (s : State) (g : Nat) (d : Bytes) : Except Fail Bytes :=
  if dTop d 16 == 0 && fld d 24 2 < 2 ^ 14 && fld d 26 1 ≤ 1 && zeroFrom d 27 64 && mult (dAddr d 16) 64 then do
    let e ← s.entryOk g (putHandle d)
    if (s.stashRanges g).any (overlap (dAddr d 16, e.keepBytes)) then .error { status := stBadField } else return []
  else .error { status := stBadField }

/-! ### Speculative replay (R189) -/

/-- The candidate entries of a slice, highest handle first. -/
def State.candidate (s : State) (g i : Nat) : Option (Nat × StashEntry) :=
  ((List.range (s.stashCfg g 0x21)).reverse.filterMap fun h =>
    match s.entryOk g h with
    | .ok e =>
      if e.sliceNo = i ∧ e.st = 1 ∧ (e.used = polReplay ∨ (e.used = polSend ∧ e.recipeValid)) ∧
          !(s.ctx g).stash.specs.any (·.handle == h) then some (h, e) else none
    | .error _ => none).head?

/-- A candidate's replay begun into its staging area; one that cannot begin is discarded. Another replay of its GROUP
makes it wait. -/
def State.specRun (s : State) (g i h : Nat) (e : StashEntry) : State :=
  let stage := s.sliceBase g i + s.sliceSize g - s.stagedIn g i - e.stageBytes
  if s.groupBusy g e.group then s
  else
    match s.replaySteps true g h e stage innerDepth with
    | .error _ => s
    | .ok steps => s.replayStart g { no := 0, handle := h, slice := some i, group := e.group, stage := stage, steps := steps }

/-- Speculative replays of a context, staged or running; one that a get has taken over is none (R189, R190). -/
def State.specCount (s : State) (g : Nat) : Nat :=
  ((s.ctx g).stash.specs.filter fun x => x.slice.isSome && x.owner.isNone).length

/-- A slice's speculative replay that waited for a GROUP which is free again (R188). -/
def State.specWaiting (s : State) (g i : Nat) : Option Spec :=
  (s.ctx g).stash.specs.find? fun x => x.slice == some i && x.owner.isNone && s.mayNest g x

/-- The next replay of a slice begun, if R189 allows one. -/
def State.specNext (s : State) (g i : Nat) : State :=
  if (s.ctx g).stash.getsBegun && i < s.dieCount && s.specCount g < s.stashCfg g 0x27 then
    match s.candidate g i with
    | some (h, e) => if e.stageBytes ≤ s.sliceFree g i then s.specRun g i h e else s
    | none => s
  else s

/-- The stash manager of a slice: one that waited goes on first. -/
def State.specStart (s : State) (g i : Nat) : State :=
  if (s.ctx g).st == .active && !s.pwr.shutdown then
    match s.specWaiting g i with
    | some x => s.replayGo g x
    | none => s.specNext g i
  else s

/-- A speculative replay has finished: its entry is STAGED at STAGE. -/
def State.specDone (s : State) (g h : Nat) : State :=
  match s.specOf g h with
  | none => s
  | some x =>
    if x.running || x.staged || x.owner.isSome then s
    else
      let s := s.modSpec g x.no fun y => { y with staged := true }
      match s.entry g h with
      | .error _ => s.dropSpec g h
      | .ok e =>
        match s.writeAll g [(s.entryAddr g h + 15, leBytes 1 (e.flags ||| 2)), (s.entryAddr g h + 48, leBytes 8 x.stage)] with
        | (s', none) => s'
        | (s', some _) => s'.dropSpec g h

/-! ### Step boundary and initialization (R196, R445) -/

/-- The next value of the partition's send epoch counter, taken for a context. -/
def State.takeEpoch (s : State) (g : Nat) : State :=
  let p := partOfCtx g
  let v := (s.part p).sendEpoch
  (s.modPart p fun x => { x with sendEpoch := min (v + 1) (2 ^ 32 - 1) }).modStash g fun t => { t with epoch := v }

/-- Slices and send region empty, with no speculative result, started get or recipe left. -/
def State.emptyStash (s : State) (g : Nat) : State :=
  (s.cutSpeculative g).modStash g fun t => { epoch := t.epoch, replayNo := t.replayNo }

/-- The bytes of an entry as step 4 of R196 leaves them. -/
def clearedEntry (b : Bytes) (plan pack : Nat) : List (Nat × Bytes) :=
  [(9, leBytes 1 plan), (13, leBytes 1 0 ++ leBytes 1 0xFF ++ leBytes 1 0 ++ leBytes 8 pack ++ zeros 32 ++ slice b 56 8 ++
    zeros 64)]

/-- Every entry of the table, read. -/
def State.tableEntries (s : State) (g : Nat) : Except Fail (List StashEntry) :=
  (s.readVa g (s.stashCfg g 0x20) (128 * s.stashCfg g 0x21)).map fun b =>
    (List.range (s.stashCfg g 0x21)).map fun h => stashEntry (slice b (128 * h) 128)

/-- An entry with its measurement moved (R179). -/
def StashEntry.measured (e : StashEntry) : StashEntry := if e.pendBytes = 0 then e else { e with packBytes := e.pendBytes }

/-- The writes of a boundary: each entry's PLAN, PACK_BYTES and cleared fields. -/
def boundaryWrites (base : Nat) (commit : Bool) (plan : Plan) (es : List StashEntry) : List (Nat × Bytes) :=
  es.zipIdx.flatMap fun x =>
    let e := if commit then x.1.measured else x.1
    let p := if commit then mapGet e.plan plan.pol x.2 else e.plan
    (clearedEntry e.raw p e.packBytes).map fun w => (base + 128 * x.2 + w.1, w.2)

/-- The stash's part of STEP_COMMIT and STEP_REPEAT (R196). -/
def State.stashBoundary (s : State) (g : Nat) (commit : Bool) : State × Option Fail :=
  match s.tableEntries g with
  | .error x => (s, some x)
  | .ok es =>
    let target := s.sliceTarget g
    let send := s.stashCfg g 0x25
    let valid := (es.zipIdx.map fun x => (x.2, x.1.measured)).filter fun x => x.2.okHost s.dieCount
    let plan := makePlan target send valid
    match s.writeAll g (boundaryWrites (s.stashCfg g 0x20) commit plan es) with
    | (s', some x) => (s', some x)
    | (s', none) =>
      let s' := if commit then s'.modCtx g fun c => { c with planOver := plan.over target send } else s'
      ((s'.emptyStash g).takeEpoch g, none)

/-- The stash table of a context initialized (R445); a table that cannot be written is left as far as it was (log 31). -/
def State.initStash (s : State) (g : Nat) : State :=
  if s.stashCfg g 0x20 = 0 ∨ s.stashCfg g 0x21 = 0 then s
  else
    let s := s.emptyStash g
    let writes := (List.range (s.stashCfg g 0x21)).map fun h =>
      (s.entryAddr g h + 13, leBytes 1 0 ++ leBytes 1 0xFF ++ zeros 113)
    ((s.writeAll g writes).1).takeEpoch g

/-! ### The commands -/

/-- The number by which the turns of the codec of slice i are kept, beside those of the engines 0 to 3. -/
def codecUnit (i : Nat) : Nat := 4 + i

/-- A put's or a get's row: the next work tile of the codec of its entry's slice, carried out by f. -/
def State.codecRow (s : State) (g q seq op : Nat) (f : Run → State) : State :=
  match s.run g q seq with
  | none => s
  | some x =>
    let i := s.codecSlice g x
    match s.engineGate (codecUnit i) 1 g q seq (isOp op) (s.codecReadyAt i) with
    | some r => (f r).engineServed (codecUnit i) g
    | none => s

/-- A RECIPE's row: the stash manager itself. -/
def State.recipeRow (s : State) (g q seq : Nat) : State :=
  match s.frontGate g q seq (isOp 0x32) with
  | some r => s.record g q seq r
  | none => s

def execStashPut (g q seq : Nat) (s : State) : Host.Outcome State Fault Refusal :=
  .next (s.codecRow g q seq 0x30 fun r => s.put g q seq r)
def execStashGet (g q seq : Nat) (s : State) : Host.Outcome State Fault Refusal :=
  .next (s.codecRow g q seq 0x31 fun r => s.get g q seq r)
def execRecipe (g q seq : Nat) (s : State) : Host.Outcome State Fault Refusal := .next (s.recipeRow g q seq)
def execSpecReplayStart (g slice : Nat) (s : State) : Host.Outcome State Fault Refusal := .next (s.specStart g slice)
def execSpecReplayDone (g handle : Nat) (s : State) : Host.Outcome State Fault Refusal := .next (s.specDone g handle)

end Sys2Proof.Machine
end

