-- ==== Sys2Proof/Machine/Boundary.lean ====
section
/-! DEFINITION. Sys2Proof/Machine/Boundary.lean: the step boundary: STEP_COMMIT and STEP_REPEAT (R164). -/
namespace Sys2Proof.Machine

/-- STEP 0xFFFF_FFFF cannot be committed (R164). -/
def stStepLimit : Nat := 0x60

/-- Whether a descriptor holds its context's dispatch once it has begun: STEP_COMMIT and STEP_REPEAT. -/
def isBoundaryOp (d : Bytes) : Bool := dOpcode d == 0x38 && (fld d 48 1 == 5 || fld d 48 1 == 6)

/-- No other descriptor of the context is started and unfinished. -/
def State.aloneIn (s : State) (g q seq : Nat) : Bool :=
  (s.ctx g).queues.all fun kv => kv.2.runs.all fun r => !r.waitDone || (kv.1 == q && r.seq == seq)

/-- Two updates in turn; the second only after the first has met no failure. -/
def andThen (r : State × Option Fail) (f : State → State × Option Fail) : State × Option Fail :=
  match r with
  | (s, some e) => (s, some e)
  | (s, none) => f s

/-- The end of a boundary operation. -/
def endBoundary (g q seq : Nat) (r : State × Option Fail) : State :=
  match r with
  | (s, some e) => s.jobFault g q seq e.status e.tile
  | (s, none) => s.ranWith g q seq stDone

/-- The four actions of STEP_COMMIT, in order. -/
def State.commitActions (s : State) (g : Nat) : State × Option Fail :=
  let step := s.stepNo g
  andThen (andThen (s.govCommit g) fun s => s.stashBoundary g true)
    fun s => ((s.setCfgNat (0x3600 + g) 0x16 4 (step + 1)).collBoundary g true, none)

def State.stepCommit (s : State) (g q seq : Nat) : State :=
  if s.stepNo g = 2 ^ 32 - 1 then s.jobFault g q seq stStepLimit 0 else endBoundary g q seq (s.commitActions g)

/-- STEP_REPEAT: PEND fields, stash and collective changes of the step discarded. -/
def State.repeatActions (s : State) (g : Nat) : State × Option Fail :=
  andThen (andThen (s.govClear g) fun s => s.stashBoundary g false) fun s => (s.collBoundary g false, none)

def State.stepRepeat (s : State) (g q seq : Nat) : State := endBoundary g q seq (s.repeatActions g)

/-- A boundary row: alone in its context. -/
def State.boundaryRow (s : State) (g q seq action : Nat) (f : State → State) : State :=
  match s.frontGate g q seq (isDice action) with
  | some _ => if s.aloneIn g q seq then f s else s
  | none => s

def execStepCommit (g q seq : Nat) (s : State) : Host.Outcome State Fault Refusal :=
  .next (s.boundaryRow g q seq 5 fun s => s.stepCommit g q seq)
def execStepRepeat (g q seq : Nat) (s : State) : Host.Outcome State Fault Refusal :=
  .next (s.boundaryRow g q seq 6 fun s => s.stepRepeat g q seq)

end Sys2Proof.Machine
end

