-- ==== Sys2Proof/Machine/Slot.lean ====
section
/-! DEFINITION. Sys2Proof/Machine/Slot.lean: the SECURE block and group tables (R356, R357), the declared state of a context
and its slot (R353 to R355), the parity code (R361) and the layout of the messages members exchange (log 22). -/
namespace Sys2Proof.Machine

/-! ### The securing parameter block (R356) -/

structure SecBlk where
  group : Nat
  slot : Nat
  cursor : Nat
  holds : List (Nat × Nat)
  op : Nat
  force : Bool
  deriving DecidableEq, Repr

def secBlk (b : Bytes) : SecBlk :=
  { group := dAddr b 0, slot := dAddr b 8, cursor := dAddr b 16
    holds := [(dAddr b 24, dAddr b 32), (dAddr b 40, dAddr b 48), (dAddr b 56, dAddr b 64)]
    op := fld b 72 1, force := (fld b 73 1).testBit 0 }

def twoMib : Nat := 2 ^ 21

def secBlkOk (b : Bytes) : Bool :=
  let k := secBlk b
  [0, 8, 16, 24, 32, 40, 48, 56, 64].all (fun o => dTop b o == 0) &&
  [0, 8, 24, 32, 40, 48, 56, 64].all (fun o => mult (dAddr b o) twoMib) && mult k.cursor 64 && k.op ≤ 3 &&
  fld b 73 1 ≤ 1 && zeroFrom b 74 128 && (k.op == 3 || k.group != 0) && k.holds.all fun h => h.1 != 0 || h.2 == 0

/-! ### Group tables (R357) -/

structure SecGroup where
  k : Nat
  p : Nat
  slotBytes : Nat
  ranks : List Nat
  deriving DecidableEq, Repr

def secGroup (t : Bytes) : SecGroup :=
  let n := fld t 0 1 + fld t 1 1
  { k := fld t 0 1, p := fld t 1 1, slotBytes := fld t 8 8, ranks := (List.range n).map fun i => fld t (64 + 4 * i) 4 }

def secHeadOk (t : Bytes) : Bool :=
  2 ≤ fld t 0 1 && fld t 0 1 ≤ 16 && 1 ≤ fld t 1 1 && fld t 1 1 ≤ 3 && zeroFrom t 2 8 && mult (fld t 8 8) twoMib &&
  zeroFrom t 16 64

def SecGroup.data (x : SecGroup) : List Nat := x.ranks.take x.k
def SecGroup.holders (x : SecGroup) : List Nat := x.ranks.drop x.k
def SecGroup.rank (x : SecGroup) (pos : Nat) : Nat := nth 0 x.ranks pos
/-- The position of a rank in the group; K + P where it has none. -/
def SecGroup.pos (x : SecGroup) (rank : Nat) : Nat := x.ranks.findIdx (· == rank)

def tableLen (t : Bytes) : Nat := 64 + 4 * (fld t 0 1 + fld t 1 1)

/-- A group table read whole; its head first, because it gives the length. -/
def State.readSecTable (s : State) (g addr : Nat) : Except Fail Bytes := do
  let head ← s.readVa g addr 64
  if secHeadOk head then s.readVa g addr (tableLen head) else .error { status := stBadField }

def State.readSecTables (s : State) (g : Nat) : List Nat → Except Fail (List Bytes)
  | [] => .ok []
  | a :: rest => do
    let t ← if a = 0 then .ok [] else s.readSecTable g a
    let ts ← s.readSecTables g rest
    return t :: ts

/-- The tables of a validated block, kept one after another. -/
def cutTables : List Nat → Bytes → List Bytes
  | [], _ => []
  | a :: rest, b => if a = 0 then [] :: cutTables rest b else b.take (tableLen b) :: cutTables rest (b.drop (tableLen b))

def SecBlk.addrs (k : SecBlk) : List Nat := k.group :: k.holds.map (·.1)

/-- The slots and parity slots a block names, with their tables (R356). -/
def SecBlk.areas (k : SecBlk) (ts : List Bytes) : List (Nat × Nat) :=
  (((k.group, k.slot) :: k.holds).zip ts).filterMap fun x =>
    if x.1.1 = 0 then none else some (x.1.2, 2 * (secGroup x.2).slotBytes)

/-- The rules of R357 over the tables of a block, own table first. -/
def State.secTablesOk (s : State) (g : Nat) (k : SecBlk) (ts : List Bytes) : Bool :=
  let me := s.myRank (partOfCtx g)
  let own := secGroup (ts.headD [])
  let areas := k.areas ts
  ts.all (fun t => noTwice (secGroup t).ranks) && (k.group == 0 || own.data.contains me) &&
  (ts.drop 1).all (fun t => t.isEmpty || (secGroup t).holders.contains me) && !anyOverlap areas &&
  !(areas.any fun a => s.anyAttr g a.1 a.2 6)

/-- Check 4 of R54 for a SECURE: its block, and its tables one after another. -/
def State.secureCheck (s : State) (g : Nat) (d : Bytes) : Except Fail (Bytes × Bytes) :=
  if paramBody d then do
    let blk ← s.readVa g (dAddr d 16) 128
    if secBlkOk blk then do
      let ts ← s.readSecTables g (secBlk blk).addrs
      if s.secTablesOk g (secBlk blk) ts then return (blk, ts.flatten) else .error { status := stBadField }
    else .error { status := stBadField }
  else .error { status := stBadField }

/-! ### The declared state (R353) -/

/-- The mapped pages below a table, ascending, as (virtual address, bytes). -/
def State.leaves (s : State) (p : Nat) : List (Nat × Nat) → Nat → Nat → List (Nat × Nat)
  | [], _, _ => []
  | (sh, w) :: rest, table, va =>
    (List.range (2 ^ w)).flatMap fun i =>
      let e := leNat (s.hbmRead p (table + 8 * i) 8)
      if e % 4 = 1 then s.leaves p rest (bitsOf e 8 48 * 256) (va + i * 2 ^ sh)
      else if e % 4 = 2 then [(va + i * 2 ^ sh, 2 ^ sh)]
      else []

/-- A run lengthened by a page that follows it. -/
def joinPages : List (Nat × Nat) → List (Nat × Nat)
  | [] => []
  | a :: rest =>
    match joinPages rest with
    | b :: more => if a.1 + a.2 = b.1 then (a.1, a.2 + b.2) :: more else a :: b :: more
    | [] => [a]

/-- The REBUILD runs of a context: maximal, ascending (R354). -/
def State.rebuildRuns (s : State) (g : Nat) : List (Nat × Nat) :=
  joinPages ((s.leaves (partOfCtx g) tableLevels (s.cfg (0x3600 + g) 6) 0).filter fun x =>
    match s.walkCtx g x.1 with
    | some y => y.attr.testBit 6 && !y.host
    | none => false)

def pageBytes (runs : List (Nat × Nat)) : Nat := runs.foldl (fun n r => n + r.2) 0

/-! ### The record and the slot (R354, R355) -/

def recordLen : Nat := 65536
def maxRuns : Nat := 4088
def maxPageBytes : Nat := 137371779072

def recordOf (stopSeq step seed : Nat) (cursors : Bytes) (pos : Nat) (runs : List (Nat × Nat)) : Bytes :=
  sized recordLen
    (leBytes 4 stopSeq ++ leBytes 4 step ++ leBytes 8 seed ++ sized 64 cursors ++ leBytes 4 pos ++
     leBytes 4 runs.length ++ leBytes 8 (pageBytes runs) ++ zeros 32 ++
     runs.flatMap fun r => leBytes 8 r.1 ++ leBytes 8 r.2)

/-- The runs a record names. -/
def recordRuns (b : Bytes) : List (Nat × Nat) :=
  (List.range (min (fld b 84 4) maxRuns)).map fun i => (bitsOf (fld b (128 + 16 * i) 8) 0 57, fld b (136 + 16 * i) 8)

def segmentLen : Nat := 2 ^ 26

/-- The digest block over a digested region: ROOT and the digest of each segment. -/
def digestBlock (region : Bytes) : Bytes :=
  let ds := ((pieces region.length segmentLen region).map sha256).flatten
  sized recordLen (sha256 ds ++ ds)

/-- Bytes that are encrypted, for a given PAGE_BYTES. -/
def sealedLen (pages : Nat) : Nat := 2 * recordLen + pages
/-- The used length of a slot: its tag area's end. -/
def usedLen (pages : Nat) : Nat := sealedLen pages + roundUp (16 * (sealedLen pages / recordLen)) 4096

/-- The nonce of a GCM record and its additional authenticated data (R355, log 28). -/
def pointNonce (stopSeq pos i : Nat) : Bytes := beBytes 12 (stopSeq * 2 ^ 64 + pos * 2 ^ 56 + i)
def pointAad (stopSeq pos i : Nat) : Bytes := leBytes 4 stopSeq ++ leBytes 1 pos ++ leBytes 7 i

/-- Ciphertext and tag area of a slot. -/
def sealSlot (key : BitVec 256) (stopSeq pos : Nat) (region : Bytes) : Bytes :=
  let pt := region ++ digestBlock region
  let ps := pieces pt.length recordLen pt
  let cs := ((List.range ps.length).zip ps).map fun x => gcmSeal key (pointNonce stopSeq pos x.1) (pointAad stopSeq pos x.1) x.2
  let tags := cs.flatMap (·.2)
  cs.flatMap (·.1) ++ sized (roundUp tags.length 4096) tags

/-- The records of a slot opened in turn; none where a tag fails. -/
def openSlotRecs (key : BitVec 256) (stopSeq pos : Nat) : Nat → List Bytes → Bytes → Option Bytes
  | _, [], _ => some []
  | i, c :: rest, tags =>
    match gcmOpen key (pointNonce stopSeq pos i) (pointAad stopSeq pos i) c (tags.take 16) with
    | none => none
    | some pt =>
      match openSlotRecs key stopSeq pos (i + 1) rest (tags.drop 16) with
      | none => none
      | some more => some (pt ++ more)

/-- The digested region of a slot whose tags, digests and ROOT all verify (R363). -/
def openSlot (key : BitVec 256) (stopSeq pos pages : Nat) (ct tags : Bytes) : Option Bytes :=
  match openSlotRecs key stopSeq pos 0 (pieces ct.length recordLen ct) tags with
  | none => none
  | some pt =>
    let region := pt.take (recordLen + pages)
    if pt.drop (recordLen + pages) == digestBlock region then some region else none

/-- PAGE_BYTES of a slot, read from its first record before the tags are verified. -/
def slotPages (key : BitVec 256) (stopSeq pos : Nat) (ct : Bytes) : Nat :=
  fld (gcmCrypt (aesKeys (keyBytes key)) (pointNonce stopSeq pos 0) ct) 88 8

/-- Why a slot cannot be restored: a check of R363, or an access. -/
inductive SlotStop where
  | erased
  | fail (f : Fail)
  deriving DecidableEq, Repr

/-- A tile-sum mismatch in a slot is a failed check. -/
def slotRead {α : Type} : Except Fail α → Except SlotStop α
  | .ok v => .ok v
  | .error f => if f.status = stDataCorrupt then .error .erased else .error (.fail f)

/-- The digested region of a member's slot. -/
def State.readSlot (s : State) (g : Nat) (key : BitVec 256) (base slotBytes stopSeq pos : Nat) : Except SlotStop Bytes := do
  let first ← slotRead (s.readVa g base recordLen)
  let pages := slotPages key stopSeq pos first
  if pages % recordLen ≠ 0 ∨ slotBytes < usedLen pages then .error .erased
  else do
    let ct ← slotRead (s.readVa g base (sealedLen pages))
    let tags ← slotRead (s.readVa g (base + sealedLen pages) (16 * (sealedLen pages / recordLen)))
    match openSlot key stopSeq pos pages ct tags with
    | some region => .ok region
    | none => .error .erased

/-! ### The parity code (R361, R365) -/

def gfScale (c : Nat) (bs : Bytes) : Bytes := bs.map fun b => BitVec.ofNat 8 (gfMul c b.toNat)
def xorB (a b : Bytes) : Bytes := List.zipWith (· ^^^ ·) a b

/-- The coefficient of data position i in parity shard j. -/
def parityCoef (i j : Nat) : Nat := gfPow (i * j)

/-- A list without its element at an index. -/
def without {α : Type} (l : List α) (i : Nat) : List α := l.take i ++ l.drop (i + 1)

/-- The determinant over GF(2^8) of a square matrix of n rows. -/
def gfDet : Nat → List (List Nat) → Nat
  | 0, _ => 1
  | n + 1, m =>
    (List.range (n + 1)).foldl
      (fun acc c => acc ^^^ gfMul (nth 0 (m.headD []) c) (gfDet n ((m.drop 1).map fun r => without r c))) 0

/-- The rows of the system that used holders hs (as j) and erased positions es give. -/
def erasureMatrix (hs es : List Nat) : List (List Nat) := hs.map fun j => es.map fun e => parityCoef e j

/-- The coefficient of used holder hs[a] in erased position es[b]: the inverse of the matrix. -/
def holderCoef (hs es : List Nat) (a b : Nat) : Nat :=
  let m := erasureMatrix hs es
  let minor := (without m a).map fun r => without r b
  gfMul (gfDet (hs.length - 1) minor) (gfInv (gfDet hs.length m))

/-- The decoding coefficient of data position i outside E for erased position es[b]. -/
def dataCoef (hs es : List Nat) (i b : Nat) : Nat :=
  ((List.range hs.length).zip hs).foldl (fun acc x => acc ^^^ gfMul (holderCoef hs es x.1 b) (parityCoef i x.2)) 0

/-! ### Messages of the engines (log 22) -/

def kdVote : Nat := 0
def kdPoints : Nat := 1
def kdAskHolder : Nat := 2
def kdHolder : Nat := 3
def kdServe : Nat := 4
def kdParity : Nat := 5
def kdDone : Nat := 6
def kdFill : Nat := 7

/-- Six bits that tell the groups of one partition apart. -/
def groupTag (t : Bytes) : Nat := (crc32c t).toNat % 64

def secFlow (kind low : Nat) : Nat := kind * 4096 + low
def secOffset (stopSeq tag tile : Nat) : BitVec 64 := BitVec.ofNat 64 (stopSeq * 2 ^ 32 + tag * 2 ^ 26 + tile)
def secKind (k : Packet) : Nat := k.flow / 4096
def secStop (k : Packet) : Nat := k.offset.toNat / 2 ^ 32
def secTag (k : Packet) : Nat := bitsOf k.offset.toNat 26 6
def secTile (k : Packet) : Nat := bitsOf k.offset.toNat 0 26

def b2n (b : Bool) : Nat := if b then 1 else 0

def voteBytes (v : Vote) (t : Bytes) : Bytes :=
  leBytes 1 v.position ++ leBytes 1 (b2n v.building + 2 * b2n v.yes + 4 * b2n v.hasKey) ++ leBytes 2 v.committed.length ++
  leBytes 4 v.step.toNat ++ leBytes 4 v.stopSeq ++ zeros 4 ++ leBytes 8 v.usedLen ++
  sized 8 (v.committed.flatMap (leBytes 4)) ++ t

def voteOf (b : Bytes) : Vote :=
  let fl := fld b 1 1
  { position := fld b 0 1, step := BitVec.ofNat 32 (fld b 4 4), stopSeq := fld b 8 4
    committed := (List.range (min 2 (fld b 2 2))).map fun i => fld b (24 + 4 * i) 4
    usedLen := fld b 16 8, building := fl.testBit 0, yes := fl.testBit 1, hasKey := fl.testBit 2 }

def voteTable (b : Bytes) : Bytes := b.drop 32

def knownBytes (x : Known) (ask : Bool) (t : Bytes) : Bytes :=
  leBytes 1 x.position ++ leBytes 1 (b2n x.spare + 2 * b2n x.rebuilt + 4 * b2n x.hasKey + 8 * b2n ask) ++
  leBytes 6 x.points.length ++
  x.points.flatMap (fun y => leBytes 4 y.1 ++ sized 64 (y.2.flatMap (leBytes 4))) ++ t

def knownOf (b : Bytes) : Known :=
  let fl := fld b 1 1
  { position := fld b 0 1
    points := (List.range (min 2 (fld b 2 6))).map fun i =>
      (fld b (8 + 68 * i) 4, (List.range 16).map fun j => fld b (12 + 68 * i + 4 * j) 4)
    spare := fl.testBit 0, rebuilt := fl.testBit 1, hasKey := fl.testBit 2 }

def knownAsk (b : Bytes) : Bool := (fld b 1 1).testBit 3
def knownTable (b : Bytes) : Bytes := b.drop (8 + 68 * min 2 (fld b 2 6))

def holderBytes (pos : Nat) (points : List (Nat × Nat)) (t : Bytes) : Bytes :=
  leBytes 1 pos ++ leBytes 7 points.length ++ sized 16 (points.flatMap fun y => leBytes 4 y.1 ++ leBytes 4 y.2) ++ t

def holderOf (b : Bytes) : Nat × List (Nat × Nat) :=
  (fld b 0 1, (List.range (min 2 (fld b 1 7))).map fun i => (fld b (8 + 8 * i) 4, fld b (12 + 8 * i) 4))

def maskOfList (l : List Nat) : Nat := l.foldl (fun m i => m ||| 2 ^ i) 0
def listOfMask (w m : Nat) : List Nat := (List.range w).filter m.testBit

def serveBytes (x : Serve) : Bytes :=
  leBytes 1 x.target ++ leBytes 1 x.gen ++ leBytes 2 (maskOfList x.erased) ++ leBytes 4 (maskOfList x.holders) ++
  leBytes 4 x.stopSeq ++ leBytes 4 x.first ++ leBytes 8 x.tiles ++ x.table

def serveOf (b : Bytes) : Serve :=
  { table := b.drop 24, target := fld b 0 1, gen := fld b 1 1, erased := listOfMask 16 (fld b 2 2), holders := listOfMask 3 (fld b 4 4)
    stopSeq := fld b 8 4, first := fld b 12 4, tiles := fld b 16 8 }

end Sys2Proof.Machine
end

