-- ==== Sys2Proof/Machine/Secure.lean ====
section
/-! DEFINITION. Sys2Proof/Machine/Secure.lean: securing points (R358 to R362), RESTORE and FILL (R363 to R368) and the group
securing key (R407). -/
namespace Sys2Proof.Machine

/-! ### The group of a context -/

def State.secureOf (s : State) (g : Nat) : Secure := (s.ctx g).secure
def State.modSecure (s : State) (g : Nat) (f : Secure → Secure) : State :=
  s.modCtx g fun c => { c with secure := f c.secure }
def State.modSecOp (s : State) (g : Nat) (f : SecOp → SecOp) : State :=
  s.modSecure g fun x => { x with op := x.op.map f }
def State.groupFor (s : State) (g : Nat) : SecGroup := secGroup (s.secureOf g).table
/-- The member's data position. -/
def State.myPos (s : State) (g : Nat) : Nat := (s.groupFor g).pos (s.myRank (partOfCtx g))

/-- The device and partition of a rank as one number; a number no device has where the rank is not VALID. -/
def State.devOf (s : State) (p rank : Nat) : Nat :=
  match s.rankOf p rank with | some d => 8 * d.1 + d.2 | none => 2 ^ 31
def State.rankValid (s : State) (p rank : Nat) : Bool := (s.rankOf p rank).isSome
/-- Whether a packet comes from a rank. -/
def State.fromRank (s : State) (p rank : Nat) (k : Packet) : Bool := s.rankOf p rank == some (k.srcId, k.srcPart)
/-- The data position a packet comes from. -/
def State.srcData (s : State) (p : Nat) (x : SecGroup) (k : Packet) : Option Nat :=
  (List.range x.k).find? fun i => s.fromRank p (x.rank i) k
/-- The holder index a packet comes from. -/
def State.srcHolder (s : State) (p : Nat) (x : SecGroup) (k : Packet) : Option Nat :=
  (List.range x.p).find? fun j => s.fromRank p (x.rank (x.k + j)) k

/-- A message to a rank on TC1: type PARITY for votes and builds, FILL for points and fills. -/
def State.sendSec (s : State) (g rank kind low : Nat) (offset : BitVec 64) (payload : Bytes) : State :=
  let type := if kind = kdPoints ∨ kind = kdServe ∨ kind = kdFill then 0x09 else 0x08
  s.sendRank (partOfCtx g) rank type 1 (secFlow kind low) offset payload

def State.sendSecAll (s : State) (g : Nat) (ranks : List Nat) (kind : Nat) (offset : BitVec 64) (payload : Bytes) : State :=
  ranks.foldl (fun s r => s.sendSec g r kind 0 offset payload) s

/-- The other data positions whose rank is VALID: the reachable data members. -/
def State.peersOf (s : State) (g : Nat) : List Nat :=
  let x := s.groupFor g
  (List.range x.k).filter fun i => i != s.myPos g && s.rankValid (partOfCtx g) (x.rank i)
/-- The holder indices whose rank is VALID. -/
def State.holdersOf (s : State) (g : Nat) : List Nat :=
  let x := s.groupFor g
  (List.range x.p).filter fun j => s.rankValid (partOfCtx g) (x.rank (x.k + j))

def State.tagOf (s : State) (g : Nat) : Nat := groupTag (s.secureOf g).table

/-- Whether a packet of a kind waits at the engines of the context's partition. -/
def State.secPkt (s : State) (g : Nat) (k : Packet) (kinds : List Nat) : Bool :=
  s.fab.handed.contains k && (k.type == 0x08 || k.type == 0x09) && k.dstPart == partOfCtx g && kinds.contains (secKind k)

/-! ### Points -/

def Secure.committed (x : Secure) : List Point := x.points.filter (·.committed)
/-- The newest committed point. -/
def Secure.newest (x : Secure) : Option Point :=
  x.committed.foldl
    (fun a p => match a with | some b => if b.stopSeq < p.stopSeq then some p else some b | none => some p) none
/-- The slot the next point takes: the older one, or slot 0 when there is no point (R359, R362). -/
def olderSlot (points : List (Nat × Nat)) : Nat :=
  match points with
  | [] => 0
  | [a] => 1 - a.2
  | a :: b :: _ => if a.1 < b.1 then a.2 else b.2
def Secure.older (x : Secure) : Nat := olderSlot (x.points.map fun p => (p.stopSeq, p.slot))
def Secure.point (x : Secure) (ss : Nat) : Option Point := x.points.find? fun p => p.stopSeq == ss
/-- The slot of a point, or the one it would take. -/
def Secure.slotFor (x : Secure) (ss : Nat) : Nat := match x.point ss with | some p => p.slot | none => x.older
/-- A point put in its slot in place of the one there. -/
def Secure.putPoint (x : Secure) (p : Point) : Secure :=
  { x with points := x.points.filter (·.slot != p.slot) ++ [p], lastStop := max x.lastStop p.stopSeq }
def State.slotBase (s : State) (g slot : Nat) : Nat := (s.secureOf g).slotAddr + slot * (s.groupFor g).slotBytes
/-- The devices of the data positions now. -/
def State.devsNow (s : State) (g : Nat) : List Nat := (s.groupFor g).data.map (s.devOf (partOfCtx g))

def basePhase (x : Secure) : Nat := if x.build.isSome then 2 else 0

/-- The end of a securing operation that is no job fault; the next vote knows whether it was a FILL (R358). -/
def State.endSec (s : State) (g q seq status : Nat) : State :=
  (s.ranWith g q seq status).modSecure g fun x =>
    { x with op := none, phase := basePhase x, erased := 0, lastFill := x.op.any (·.op == 2) }

/-! ### The stop (R359) -/

/-- The bytes of the REBUILD runs, in order. -/
def State.readRuns (s : State) (g : Nat) : List (Nat × Nat) → Except Fail Bytes
  | [] => .ok []
  | (va, n) :: rest => do
    let a ← s.readVa g va n
    let b ← s.readRuns g rest
    return a ++ b

/-- The record and the page images of a stop. -/
def State.regionNow (s : State) (g stopSeq : Nat) : Except Fail Bytes := do
  let runs := s.rebuildRuns g
  let cursors ← s.readVa g (s.secureOf g).cursorAddr 64
  let images ← s.readRuns g runs
  return recordOf stopSeq (s.stepNo g) (s.cfg (0x3600 + g) 0x15) cursors (s.myPos g) runs ++ images

/-- The used length of the declared state now; past SLOT_BYTES where it breaks a bound of R354, 1 to 4,088 runs, or of
R355 (log 45). -/
def State.usedNow (s : State) (g : Nat) : Nat :=
  let runs := s.rebuildRuns g
  if runs = [] ∨ maxRuns < runs.length ∨ maxPageBytes < pageBytes runs then (s.groupFor g).slotBytes + 1 else usedLen (pageBytes runs)

/-- Tile t of a shard at a base; bytes at or beyond its limit count as zero and are not read (R361). -/
def State.shardTile (s : State) (g base limit t : Nat) : Except Fail Bytes :=
  if 4096 * t < limit then s.readVa g (base + 4096 * t) 4096 else .ok (zeros 4096)

/-- The rank after a data position on chain j. -/
def SecGroup.next (x : SecGroup) (i j : Nat) : Nat := if i + 1 < x.k then x.rank (i + 1) else x.rank (x.k + j)

def State.sendParity (s : State) (g stopSeq i j t : Nat) (last : Bool) (bs : Bytes) : State :=
  s.sendSec g ((s.groupFor g).next i j) kdParity (2 * j + b2n last) (secOffset stopSeq (s.tagOf g) t) bs

/-- Position 0 streams its new slot on every chain (R362). -/
def State.startBuild (s : State) (g stopSeq slot used tiles : Nat) : State :=
  let x := s.groupFor g
  (List.range x.p).foldl
    (fun s j =>
      (List.range tiles).foldl
        (fun s t =>
          match s.shardTile g (s.slotBase g slot) used t with
          | .ok bs => s.sendParity g stopSeq 0 j t (t + 1 == tiles) (gfScale (parityCoef 0 j) bs)
          | .error _ => s) s) s

/-- A build whose group has lost a member or holder is abandoned, and its point with it (R368). -/
def State.abandonBuild (s : State) (g : Nat) : State :=
  let x := s.secureOf g
  match x.build with
  | none => s
  | some b =>
    if (s.groupFor g).ranks.all (s.rankValid (partOfCtx g)) then s
    else
      s.modSecure g fun x =>
        { x with build := none, points := x.points.filter (·.stopSeq != b.1), phase := if x.phase = 2 then 0 else x.phase }

/-- The slot written, the point taken, the SECURE done, and the build begun; a member or holder lost during the stop abandons
it (R368). -/
def State.stopWith (s : State) (g : Nat) (op : SecOp) (key : BitVec 256) (stopSeq : Nat) (region : Bytes) : State :=
  let x := s.secureOf g
  let slot := x.older
  let used := s.usedNow g
  match s.writeVa g (s.slotBase g slot) (sealSlot key stopSeq (s.myPos g) region) with
  | (s, some e) => s.jobFault g op.q op.seq e.status e.tile
  | (s, none) =>
    let pt : Point := { stopSeq := stopSeq, step := BitVec.ofNat 32 (s.stepNo g), slot := slot, used := used,
                        committed := false, devs := s.devsNow g }
    let s := s.modSecure g fun x => { x.putPoint pt with build := some (stopSeq, []) }
    let s := (s.endSec g op.q op.seq stDone).abandonBuild g
    let tiles := (op.votes.foldl (fun n v => max n v.usedLen) 0) / 4096
    if s.myPos g = 0 ∧ (s.secureOf g).build.isSome then s.startBuild g stopSeq slot used tiles else s

/-- The stop carried out: checked for space, then copied (R359). -/
def State.doStop (s : State) (g : Nat) (op : SecOp) (key : BitVec 256) : State :=
  let stopSeq := 1 + op.votes.foldl (fun n v => max n v.stopSeq) 0
  if (s.groupFor g).slotBytes < s.usedNow g then s.jobFault g op.q op.seq stSnapSpace 0
  else
    match s.regionNow g stopSeq with
    | .error e => s.jobFault g op.q op.seq e.status e.tile
    | .ok region => s.stopWith g op key stopSeq region

/-! ### The group key (R407) -/

/-- An SPDM message of MD, on its connection's carrier: over PCIe VDM as it stands in `out`; in a wrapper on the field port or
in a MGMT packet otherwise (R402). -/
def State.spdmSend (s : State) (o : SpdmOut) : State :=
  let s := s.modSec fun x => { x with out := x.out ++ [o] }
  let w := mctpWrap (mctpOf o)
  match o.carrier with
  | (_, .dict (.host _)) => s
  | (_, .dict (.field a sport dport)) => { s with answers := s.answers ++ [(.field a sport dport, w)] }
  | (g, .dict (.fabric dev part)) => s.sendMgmt (match g with | some g => partOfCtx g | none => s.lowestPart) dev part w
  | (_, .port p) => s.sendPeer p w
/-- The SHA-384 of a table's data ranks. -/
def ranksHash (t : Bytes) : Bytes := sha384 (slice t 64 (4 * fld t 0 1))

/-- The alias key's signature, and the chain of slot 0 (R400). -/
def State.sign (s : State) (message : Bytes) : Bytes := Config.aliasSign (s.sec.aliasKey.getD 0) message
def State.chainBytes (s : State) : Bytes := Config.certChain (s.sec.identity.getD 0) (s.sec.aliasKey.getD 0)

/-- What the signatures of a session's key exchange cover (log 21). -/
def sessionMessage (session : BitVec 32) (key txKey : BitVec 256) : Bytes :=
  leBytes 4 session.toNat ++ leBytes 32 key.toNat ++ leBytes 32 txKey.toNat

/-- The session that MD is opening as requester. -/
def State.askOf (s : State) (what : Asked) : Option Asking := s.sec.asking.find? (·.what == what)

def State.setAsk (s : State) (a : Asking) : State :=
  s.modSec fun x => { x with asking := upsert (·.what == a.what) a x.asking }

/-- A requester's exchange is over, and its session ends. -/
def State.endAsk (s : State) (what : Asked) : State :=
  let gone := (s.sec.asking.filter (·.what == what)).map (·.session)
  s.modSec fun x =>
    { x with asking := x.asking.filter (·.what != what)
             sessions := x.sessions.filter fun y => !(y.requester && gone.contains y.id) }

/-- A requester's exchange begun afresh: GET_VERSION (R401). -/
def State.beginAsk (s : State) (what : Asked) (c : Conn) : State :=
  ((s.endAsk what).setAsk { what := what, conn := c }).spdmSend (.request what c .getVersion)

/-- Whether a certificate chain roots at FABRIC_ANCHOR; a zero anchor admits none. -/
def State.atFabric (s : State) (root : Bytes) : Bool :=
  let a := s.cfgBytes 0x5800 4
  !allZero a && sha384 root == a

/-- The three conditions of R407 on the session of a member that asks for the key. -/
def State.mayGive (s : State) (g : Nat) (a : KeyAsker) : Bool :=
  s.atFabric a.chainRoot && a.tableHash == ranksHash (s.secureOf g).table &&
    (s.groupFor g).data.any fun r => s.rankOf (partOfCtx g) r == some (a.dev, a.part)

/-- A member that meets them gets the key, now or once it is drawn. -/
def State.giveKey (s : State) (g : Nat) (a : KeyAsker) : State :=
  if !s.mayGive g a then s
  else if (s.secureOf g).key.isSome then s.spdmSend (.keyDeliver g a.dev a.part)
  else s.modSecure g fun x => { x with askers := upsert (fun y => y.dev == a.dev && y.part == a.part) a x.askers }

/-- Position 0 draws the key and delivers it to the other data members that have asked in a session of their own; a failed
random source draws none (R406). No rule says which side opens the session in which a drawn key is delivered: in the model it
is the member that lacks it (DESIGN CHOICE, log 101). -/
def State.drawKey (s : State) (g : Nat) : State :=
  if !s.sec.rngOk then s
  else
    let d := s.draw
    let askers := (s.secureOf g).askers
    let s := d.2.modSecure g fun x => { x with key := some (d.1.setWidth 256), askers := [] }
    askers.foldl (fun s a => s.giveKey g a) s

/-! ### The vote (R358) -/

def State.maxIntervalNs (s : State) : Nat := s.cfg 0x5000 4 * 60000000000

/-- YES without the holders' answers. -/
def State.yesNow (s : State) (g : Nat) (op : SecOp) : Bool :=
  let x := s.secureOf g
  x.latch || op.force || !x.committedOnce || x.commitNs + s.maxIntervalNs ≤ s.ctxTime g || x.lastFill

/-- A holder asked lacks the newest committed point. -/
def Secure.holderLacks (x : Secure) (op : SecOp) : Bool :=
  match x.newest with
  | some p => op.holders.any fun h => !h.2.any fun y => y.1 == p.stopSeq
  | none => false

def State.myVote (s : State) (g : Nat) (op : SecOp) : Vote :=
  let x := s.secureOf g
  { position := s.myPos g, step := BitVec.ofNat 32 (s.stepNo g), stopSeq := x.lastStop
    committed := x.committed.map (·.stopSeq), usedLen := s.usedNow g, building := x.build.isSome
    yes := s.yesNow g op || x.holderLacks op, hasKey := x.key.isSome }

/-- The vote has decided to stop: PHASE reads 1 until the stop is carried out (R359, R370). -/
def State.stopNext (s : State) (g : Nat) : State :=
  s.modSecure g fun x => { x with phase := 1, op := x.op.map fun op => { op with stopping := true } }

/-- Once every vote is in: skipped, or a stop with the key, which position 0 draws when no member holds it. -/
def State.decideVote (s : State) (g : Nat) (op : SecOp) : State :=
  if op.votes.length < (s.groupFor g).k then s
  else if op.votes.any (·.building) || !op.votes.any (·.yes) then s.endSec g op.q op.seq stSecureSkipped
  else if (s.secureOf g).key.isSome then s.stopNext g
  else if op.votes.any (·.hasKey) || s.myPos g ≠ 0 then s
  else
    let s := s.drawKey g
    if (s.secureOf g).key.isSome then s.stopNext g else s

/-- Every holder asked has answered. -/
def State.holdersHeard (s : State) (g : Nat) (op : SecOp) : Bool :=
  (s.holdersOf g).all fun j => op.holders.any fun h => h.1 == j

/-- The own vote sent, as soon as it is known. -/
def State.tryVote (s : State) (g : Nat) (op : SecOp) : State :=
  let me := s.myPos g
  if op.votes.any (fun v => v.position == me) then s.decideVote g op
  else if s.yesNow g op || s.holdersHeard g op then
    let v := s.myVote g op
    let x := s.groupFor g
    let s := s.sendSecAll g ((x.data).eraseIdx me) kdVote 0 (voteBytes v (s.secureOf g).table)
    let op := { op with votes := op.votes ++ [v] }
    (s.modSecOp g fun _ => op).decideVote g op
  else s

/-! ### Restoring (R363) -/

/-- The writes of the page images, in order. -/
def imageWrites : List (Nat × Nat) → Bytes → List (Nat × Bytes)
  | [], _ => []
  | (va, n) :: rest, bs => (va, bs.take n) :: imageWrites rest (bs.drop n)

/-- Pages, cursors, RUN_SEED, STEP and ATTEMPT 0 from a verified region. -/
def State.applyRegion (s : State) (g : Nat) (region : Bytes) : State × Option Fail :=
  match s.writeAll g (imageWrites (recordRuns region) (region.drop recordLen) ++
      [((s.secureOf g).cursorAddr, slice region 16 64)]) with
  | (s, some e) => (s, some e)
  | (s, none) =>
    let s := (s.setCfgNat (0x3600 + g) 0x15 8 (fld region 8 8)).setCfgNat (0x3600 + g) 0x16 4 (fld region 4 4)
    (s.modCtx g fun c => { c with attempt := 0 }, none)

/-- A region applied and the operation ended, or a job fault. -/
def State.endRestore (s : State) (g : Nat) (op : SecOp) (region : Bytes) (status : Nat) : State :=
  match s.applyRegion g region with
  | (s, some e) => s.jobFault g op.q op.seq e.status e.tile
  | (s, none) => s.endSec g op.q op.seq status

def State.myKnown (s : State) (g : Nat) (rebuilt : Bool) : Known :=
  let x := s.secureOf g
  { position := s.myPos g, points := x.committed.map fun p => (p.stopSeq, p.devs)
    spare := match x.op with | some op => op.op == 2 | none => false
    rebuilt := x.rebuilt || rebuilt, hasKey := x.key.isSome }

def State.sendKnown (s : State) (g : Nat) (positions : List Nat) (ask rebuilt : Bool) : State :=
  let x := s.groupFor g
  s.sendSecAll g (positions.map x.rank) kdPoints 0 (knownBytes (s.myKnown g rebuilt) ask (s.secureOf g).table)

def State.askHolders (s : State) (g : Nat) : State :=
  let x := s.groupFor g
  s.sendSecAll g ((s.holdersOf g).map fun j => x.rank (x.k + j)) kdAskHolder 0 (s.secureOf g).table

/-- SLOT_CORRUPT (R345). -/
def State.slotCorrupt (s : State) (g pos ss : Nat) : State :=
  s.event evSlotCorrupt (partCode 10 g) (partOfCtx g) (leBytes 1 pos ++ leBytes 4 ss)

/-! ### Filling (R365, R368) -/

/-- What is known of the devices of a point. -/
def State.devsAt (s : State) (g : Nat) (op : SecOp) (ss : Nat) : List Nat :=
  match (s.secureOf g).point ss with
  | some p => p.devs
  | none => ((op.known.flatMap (·.points)).find? fun y => y.1 == ss).elim [] (·.2)

/-- The erasure set E. -/
def State.erasures (s : State) (g : Nat) (op : SecOp) (ss : Nat) : List Nat :=
  let x := s.groupFor g
  let p := partOfCtx g
  let devs := s.devsAt g op ss
  (List.range x.k).filter fun i =>
    i == s.myPos g || !s.rankValid p (x.rank i) || s.devOf p (x.rank i) != nth 0 devs i ||
    op.known.any fun y => y.position == i && (y.spare || y.rebuilt)

/-- The holders that hold the point, ascending. -/
def State.holdersWith (s : State) (g : Nat) (op : SecOp) (ss : Nat) : List Nat :=
  (s.holdersOf g).filter fun j => op.holders.any fun h => h.1 == j && h.2.any fun y => y.1 == ss

/-- The data tiles of the shard of a point. -/
def tilesAt (op : SecOp) (ss : Nat) : Nat := ((op.holders.flatMap (·.2)).find? fun y => y.1 == ss).elim 0 (·.2)

/-- The positions that serve a fill chain, in order. -/
def Serve.chain (v : Serve) (x : SecGroup) : List Nat :=
  ((List.range x.k).filter fun i => !v.erased.contains i) ++ v.holders.map (x.k + ·)

/-- Leading data tiles rebuilt whose tile sums still match. -/
def State.goodTiles (s : State) (g base n : Nat) : Nat :=
  ((List.range n).takeWhile fun t => match s.readVa g (base + 4096 * t) 4096 with | .ok _ => true | .error _ => false).length

/-- The record of the first of n data tiles rebuilt whose sum no longer matches (R344). -/
def State.logRebuilt (s : State) (g base n : Nat) : State :=
  let t := s.goodTiles g base n
  if n ≤ t then s
  else
    match s.readVa g (base + 4096 * t) 4096 with
    | .error e => if e.status = stDataCorrupt then s.corruptEvent g e.tile else s
    | .ok _ => s

/-- The filler's slot holds the whole shard: opened and applied as RESTORE does, once the key is held. A slot that
still fails ends the fill with GROUP_LOST (DESIGN CHOICE, log 35). -/
def State.fillDone (s : State) (g : Nat) (op : SecOp) (ss : Nat) : State :=
  let x := s.secureOf g
  match x.key with
  | none => s
  | some key =>
    let slot := x.slotFor ss
    match s.readSlot g key (s.slotBase g slot) (s.groupFor g).slotBytes ss (s.myPos g) with
    | .error .erased => (s.slotCorrupt g (s.myPos g) ss).jobFault g op.q op.seq stGroupLost 0
    | .error (.fail e) => s.jobFault g op.q op.seq e.status e.tile
    | .ok region =>
      if op.op = 2 ∧ recordRuns region ≠ s.rebuildRuns g then s.jobFault g op.q op.seq stSnapRuns 0
      else
        let pt : Point := { stopSeq := ss, step := BitVec.ofNat 32 (fld region 4 4), slot := slot,
                            used := usedLen (fld region 88 8), committed := true, devs := s.devsNow g }
        let s := s.modSecure g fun x => x.putPoint pt
        s.endRestore g op region (if op.op = 2 then stDone else stRebuilt)

/-- New chains for the data tiles that are missing; with none missing the fill is done. -/
def State.startChains (s : State) (g : Nat) (op : SecOp) (ss : Nat) (es hs : List Nat) : State :=
  let x := s.groupFor g
  let tiles := tilesAt op ss
  let base := s.slotBase g ((s.secureOf g).slotFor ss)
  let old := match op.fill with | some f => f.2 | none => 0
  let have_ := s.goodTiles g base old
  let s := s.logRebuilt g base old
  let gen := (op.gen + 1) % 128
  let v : Serve := { table := (s.secureOf g).table, target := s.myPos g, gen := gen, stopSeq := ss, erased := es, holders := hs, first := have_,
                     tiles := tiles }
  let op := { op with fill := some (tiles, have_), erased := es, used := hs, gen := gen }
  let s := s.modSecure g fun y => { y with op := some op, erased := BitVec.ofNat 32 (maskOfList es), phase := 3 }
  if tiles ≤ have_ then s.fillDone g op ss
  else s.sendSecAll g ((v.chain x).map x.rank) kdServe 0 (serveBytes v)

/-- A fill begun, or begun again because E or the holders have changed. -/
def State.tryFill (s : State) (g : Nat) (op : SecOp) (ss : Nat) : State :=
  if !s.holdersHeard g op then s
  else
    let es := s.erasures g op ss
    let all := s.holdersWith g op ss
    let keyless := (s.secureOf g).key.isNone && !op.known.any fun y => y.hasKey
    if all.length < es.length then s.jobFault g op.q op.seq stGroupLost 0
    else if keyless then s.jobFault g op.q op.seq stNoPoint 0
    else
      let hs := all.take es.length
      if op.fill.isSome && op.erased == es && op.used == hs then s else s.startChains g op ss es hs

/-- The own slot failed a check: the member counts as erased, says so, and fills itself. -/
def State.selfErase (s : State) (g : Nat) (op : SecOp) (ss : Nat) : State :=
  let s := (s.slotCorrupt g (s.myPos g) ss).modSecure g fun x => { x with rebuilt := true, phase := 3 }
  ((s.sendKnown g (s.peersOf g) false true).askHolders g).tryFill g op ss

/-- RESTORE from the own slot. -/
def State.restoreOwn (s : State) (g : Nat) (op : SecOp) (ss : Nat) : State :=
  let x := s.secureOf g
  match x.key with
  | none => s.jobFault g op.q op.seq stNoPoint 0
  | some key =>
    match s.readSlot g key (s.slotBase g (x.slotFor ss)) (s.groupFor g).slotBytes ss (s.myPos g) with
    | .ok region => s.endRestore g op region stDone
    | .error (.fail e) => s.jobFault g op.q op.seq e.status e.tile
    | .error .erased => s.selfErase g op ss

/-! ### The point exchange (R363) -/

/-- The newest STOP_SEQ that every list holds. -/
def newestCommon : List (List Nat) → Option Nat
  | [] => none
  | l :: ls =>
    (l.filter fun n => ls.all fun m => m.contains n).foldl
      (fun a n => match a with | some b => some (max b n) | none => some n) none

/-- The committed points of the surviving members. -/
def State.survivorPoints (s : State) (g : Nat) (op : SecOp) : List (List Nat) :=
  (if op.op = 1 then [(s.secureOf g).committed.map (·.stopSeq)] else []) ++
  (op.known.filter fun y => !y.spare && !y.rebuilt).map fun y => y.points.map (·.1)

def State.pointsHeard (s : State) (g : Nat) (op : SecOp) : Bool :=
  (s.peersOf g).all fun i => op.known.any fun y => y.position == i

/-- Every reachable member has been heard: the point is chosen. -/
def State.choosePoint (s : State) (g : Nat) (op : SecOp) : State :=
  if !s.pointsHeard g op then s
  else
    match newestCommon (s.survivorPoints g op) with
    | none => s.jobFault g op.q op.seq stNoPoint 0
    | some ss =>
      let op := { op with chosen := some ss }
      let s := s.modSecOp g fun _ => op
      if op.op = 1 then s.restoreOwn g op ss else s.tryFill g op ss

/-- The running operation goes as far as what it has heard allows. -/
def State.advanceSec (s : State) (g : Nat) : State :=
  match (s.secureOf g).op with
  | none => s
  | some op =>
    if op.op = 0 then (if op.stopping then s else s.tryVote g op)
    else
      match op.chosen with
      | none => s.choosePoint g op
      | some ss => s.tryFill g op ss

/-! ### The rows SECURE, RESTORE, FILL and REGISTER -/

/-- HOLD groups registered; those that stay keep the points held for them. -/
def Secure.register (x : Secure) (k : SecBlk) (ts : List Bytes) : Secure :=
  let new := (k.holds.zip (ts.drop 1)).filterMap fun h =>
    if h.1.1 = 0 then none
    else
      match x.holds.find? fun o => o.table == h.2 && o.par == h.1.2 with
      | some o => some o
      | none => some { table := h.2, par := h.1.2 }
  { x with holds := new }

/-- The member's group and slots taken up: another group or other slots start without points (log 34). -/
def Secure.enter (x : Secure) (k : SecBlk) (table : Bytes) : Secure :=
  let x :=
    if x.table == table then x
    else { x with points := [], build := none, key := none, lastStop := 0, committedOnce := false, serving := [], askers := [] }
  let x := if x.slotAddr = k.slot then x else { x with points := [], build := none }
  { x with table := table, slotAddr := k.slot, cursorAddr := k.cursor, hasGroup := true, rebuilt := false, keyAsked := false }

/-- A SECURE, RESTORE or FILL begins: alone in its context, it holds dispatch until it finishes. -/
def State.beginSec (s : State) (g q seq : Nat) (r : Run) : State :=
  let k := secBlk r.block
  let ts := cutTables k.addrs r.table
  let op : SecOp := { q := q, seq := seq, op := k.op, force := k.force, startAt := s.ctxTime g }
  let s := s.modSecure g fun x =>
    let x := (x.register k ts).enter k (ts.headD [])
    { x with op := some op, phase := if k.op = 1 then 4 else if k.op = 2 then 3 else basePhase x }
  let s := if k.op = 0 then s.askHolders g
    else if k.op = 1 then s.sendKnown g (s.peersOf g) true false
    else (s.sendKnown g (s.peersOf g) true false).askHolders g
  s.advanceSec g

def isSecure (op : Nat) (r : Run) : Bool := dOpcode r.raw == 0x48 && (secBlk r.block).op == op

/-- Whether the parity engine has something to do for a started SECURE descriptor: it may begin, or its stop is due. -/
def State.secReady (s : State) (g q : Nat) (r : Run) : Bool :=
  isSecure 3 r ||
    match (s.secureOf g).op with
    | none => s.aloneIn g q r.seq
    | some op => op.q == q && op.seq == r.seq && op.stopping

/-- A SECURE, RESTORE or FILL begun, or the stop that its vote decided carried out. -/
def State.secureDo (s : State) (g q seq : Nat) (r : Run) : State :=
  match (s.secureOf g).op, (s.secureOf g).key with
  | none, _ => s.beginSec g q seq r
  | some op, some key => s.doStop g op key
  | some _, none => s

def State.secureRow (s : State) (g q seq op : Nat) : State :=
  match s.engineGate 3 3 g q seq (isSecure op) (s.secReady) with
  | some r => (s.secureDo g q seq r).engineServed 3 g
  | none => s

/-- REGISTER: the HOLD groups, and nothing else (R357). -/
def State.registerRow (s : State) (g q seq : Nat) : State :=
  match s.engineGate 3 3 g q seq (isSecure 3) (s.secReady) with
  | some r =>
    let k := secBlk r.block
    ((s.modSecure g fun x => x.register k (cutTables k.addrs r.table)).ranWith g q seq stDone).engineServed 3 g
  | none => s

/-! ### Messages -/

/-- A vote: of another STEP or table, SECURE_MISMATCH; else recorded. -/
def State.onVote (s : State) (g : Nat) (op : SecOp) (i : Nat) (k : Packet) : State :=
  let v := voteOf k.payload
  let s := s.takeHanded k
  if v.step.toNat ≠ s.stepNo g ∨ v.position ≠ i ∨ voteTable k.payload ≠ (s.secureOf g).table then
    s.jobFault g op.q op.seq stSecureMismatch 0
  else
    let op := { op with votes := op.votes.filter (·.position != i) ++ [v] }
    (s.modSecOp g fun _ => op).advanceSec g

def State.voteMessage (s : State) (g : Nat) (k : Packet) : State :=
  match (s.secureOf g).op with
  | some op =>
    match s.srcData (partOfCtx g) (s.groupFor g) k with
    | some i => if s.secPkt g k [kdVote] && op.op == 0 && i != s.myPos g then s.onVote g op i k else s
    | none => s
  | none => s

/-- A vote, a point exchange or a holder's answer that has not come within STRAGGLER_MS, or a key not obtained: MISSING. -/
def State.voteTimeout (s : State) (g : Nat) : State :=
  match (s.secureOf g).op with
  | none => s
  | some op =>
    let waiting :=
      if op.op = 0 then !op.stopping
      else
        match op.fill with
        | none => true
        | some f => f.1 ≤ f.2
    if waiting && op.startAt + s.stragglerNs (partOfCtx g) ≤ s.ctxTime g then s.endSec g op.q op.seq stMissing else s

/-! ### Parity (R362) -/

/-- A point's entry in a HOLD group, made in the older slot where there is none. -/
def Hold.enter (h : Hold) (ss : Nat) : Hold × HoldPoint :=
  match h.points.find? fun p => p.stopSeq == ss with
  | some p => (h, p)
  | none =>
    let p : HoldPoint := { stopSeq := ss, slot := olderSlot (h.points.map fun p => (p.stopSeq, p.slot)) }
    ({ h with points := h.points.filter (·.slot != p.slot) ++ [p] }, p)

def HoldPoint.complete (p : HoldPoint) : Bool := p.tiles == some p.got

def Secure.setHold (x : Secure) (h : Hold) : Secure := { x with holds := modWhere (fun o => o.table == h.table) (fun _ => h) x.holds }

/-- A holder writes one data tile of its shard; the last one sends DONE to every data member. -/
def State.holdTile (s : State) (g : Nat) (h : Hold) (ss t : Nat) (last : Bool) (bs : Bytes) : State :=
  let x := secGroup h.table
  let e := h.enter ss
  match s.writeVa g (h.par + e.2.slot * x.slotBytes + 4096 * t) bs with
  | (s, some _) => s
  | (s, none) =>
    let p : HoldPoint := { e.2 with got := e.2.got + 1, tiles := if last then some (t + 1) else e.2.tiles }
    let h := { e.1 with points := modWhere (fun o => o.stopSeq == ss) (fun _ => p) e.1.points }
    let s := s.modSecure g fun y => y.setHold h
    if p.complete then s.sendSecAll g x.data kdDone (secOffset ss (groupTag h.table) 0) [] else s

/-- A data position's part of a chain: its tile combined, and the result forwarded. -/
def State.memberTile (s : State) (g ss i j t : Nat) (last : Bool) (bs : Bytes) : State :=
  match (s.secureOf g).point ss with
  | none => s
  | some p =>
    match s.shardTile g (s.slotBase g p.slot) p.used t with
    | .ok d => s.sendParity g ss i j t last (xorB bs (gfScale (parityCoef i j) d))
    | .error e => if e.status = stDataCorrupt then s.corruptEvent g e.tile else s

def State.parityPacket (s : State) (g : Nat) (k : Packet) : State :=
  if !s.secPkt g k [kdParity] then s
  else
    let x := s.secureOf g
    let grp := s.groupFor g
    let p := partOfCtx g
    let i := s.myPos g
    let j := bitsOf k.flow 1 2
    let last := k.flow.testBit 0
    let mine := x.hasGroup && groupTag x.table == secTag k && 0 < i && s.fromRank p (grp.rank (i - 1)) k && j < grp.p
    if mine then
      if x.build.any (fun b => b.1 == secStop k) then
        (s.takeHanded k).memberTile g (secStop k) i j (secTile k) last k.payload
      else s
    else
      match x.holds.find? fun h => groupTag h.table == secTag k && (secGroup h.table).pos (s.myRank p) == (secGroup h.table).k + j
        && s.fromRank p ((secGroup h.table).rank ((secGroup h.table).k - 1)) k with
      | some h => (s.takeHanded k).holdTile g h (secStop k) (secTile k) last k.payload
      | none => s

/-- The point is committed (R362): the latch clears, and the previous point stays. -/
def Secure.commit (x : Secure) (ss now : Nat) : Secure :=
  { x with
    points := modWhere (fun p => p.stopSeq == ss) (fun p => { p with committed := true }) x.points
    commitNs := now, committedOnce := true, maxRaised := false, latch := false, build := none
    phase := if x.phase = 2 then 0 else x.phase }

def State.holderDone (s : State) (g : Nat) (k : Packet) : State :=
  match (s.secureOf g).build, s.srcHolder (partOfCtx g) (s.groupFor g) k with
  | some b, some j =>
    if s.secPkt g k [kdDone] && secStop k == b.1 && secTag k == s.tagOf g then
      let done := if b.2.contains j then b.2 else b.2 ++ [j]
      let s := s.takeHanded k
      if done.length = (s.groupFor g).p then s.modSecure g fun x => x.commit b.1 (s.ctxTime g)
      else s.modSecure g fun x => { x with build := some (b.1, done) }
    else s
  | _, _ => s

/-! ### Serving a fill (R365) -/

/-- A shard this context can serve for a group and a point: the group, its position, where the shard lies and its
limit. -/
structure Shard where
  table : Bytes
  pos : Nat
  base : Nat
  limit : Nat
  deriving DecidableEq, Repr

def State.shardOf (s : State) (g : Nat) (table : Bytes) (ss : Nat) : Option Shard :=
  let x := s.secureOf g
  let me := s.myRank (partOfCtx g)
  if x.hasGroup && x.table == table then
    match x.point ss with
    | some p => if p.committed then some { table := x.table, pos := s.myPos g, base := s.slotBase g p.slot, limit := p.used } else none
    | none => none
  else
    match x.holds.find? fun h => h.table == table with
    | none => none
    | some h =>
      match h.points.find? fun p => p.stopSeq == ss && p.complete with
      | none => none
      | some p => some { table := h.table, pos := (secGroup h.table).pos me
                         base := h.par + p.slot * (secGroup h.table).slotBytes, limit := 4096 * p.got }

/-- The decoding coefficient of a position in a serve. -/
def Serve.coef (v : Serve) (x : SecGroup) (pos : Nat) : Nat :=
  let b := v.erased.findIdx (· == v.target)
  if pos < x.k then dataCoef v.holders v.erased pos b
  else holderCoef v.holders v.erased (v.holders.findIdx (x.k + · == pos)) b

/-- The rank after a position of a fill chain: the next server, or the filler. -/
def Serve.next (v : Serve) (x : SecGroup) (pos : Nat) : Nat :=
  let c := v.chain x
  match (c.drop (c.findIdx (· == pos) + 1)).head? with
  | some n => x.rank n
  | none => x.rank v.target

/-- Whether two chains end at the same member of the same group. -/
def Serve.same (v o : Serve) : Bool := v.table == o.table && v.target == o.target

/-- The server's tile added to a chain's and passed on; none where its own tile is corrupt. -/
def State.serveTile (s : State) (g : Nat) (v : Serve) (h : Shard) (t : Nat) (bs : Bytes) : State × Option Fail :=
  let x := secGroup h.table
  match s.shardTile g h.base h.limit t with
  | .error e => (s, some e)
  | .ok d =>
    (s.sendSec g (v.next x h.pos) kdFill (256 * v.target + 2 * v.gen) (secOffset v.stopSeq (groupTag h.table) t)
      (xorB bs (gfScale (v.coef x h.pos) d)), none)

/-- A server whose shard is corrupt joins E: it tells the filler, and serves it no longer (R368). -/
def State.serveFailed (s : State) (g : Nat) (v : Serve) (h : Shard) (e : Fail) : State :=
  let x := secGroup h.table
  let s := if e.status = stDataCorrupt then s.corruptEvent g e.tile else s
  let s := s.modSecure g fun y => { y with serving := y.serving.filter fun o => !o.same v }
  if h.pos < x.k then (s.slotCorrupt g h.pos v.stopSeq).sendKnown g [v.target] false true
  else s.sendSec g (x.rank v.target) kdHolder 0 0 (holderBytes h.pos [] h.table)

/-- A survivor's ERASED: the set of the fill it serves, until it has served the last data tile (R370, log 46). -/
def State.serveErased (s : State) (g : Nat) (v : Serve) (served : Bool) : State :=
  s.modSecure g fun y =>
    if y.op.isSome then y else { y with erased := if served then 0 else BitVec.ofNat 32 (maskOfList v.erased) }

/-- The first server of a chain streams its whole part. -/
def State.streamServe (s : State) (g : Nat) (v : Serve) (h : Shard) : State :=
  match inTurn (fun s t => s.serveTile g v h t (zeros 4096)) s ((List.range (v.tiles - v.first)).map (v.first + ·)) with
  | (s, none) => s.serveErased g v true
  | (s, some e) => s.serveFailed g v h e

/-- A fill chain taken up. -/
def State.onServe (s : State) (g : Nat) (k : Packet) : State :=
  let v := serveOf k.payload
  match s.shardOf g v.table v.stopSeq with
  | none => s
  | some h =>
    let x := secGroup v.table
    if v.target < x.k && s.fromRank (partOfCtx g) (x.rank v.target) k && (v.chain x).contains h.pos then
      let s := (s.takeHanded k).modSecure g fun y => { y with serving := (y.serving.filter fun o => !o.same v) ++ [v] }
      let s := s.serveErased g v false
      if (v.chain x).head? == some h.pos then s.streamServe g v h else s
    else s

/-- The packet's data tile lands in the filler's slot. -/
def State.fillTile (s : State) (g : Nat) (op : SecOp) (ss tiles n : Nat) (bs : Bytes) : State :=
  match s.writeVa g (s.slotBase g ((s.secureOf g).slotFor ss) + 4096 * n) bs with
  | (s, some e) => s.jobFault g op.q op.seq e.status e.tile
  | (s, none) =>
    let op := { op with fill := some (tiles, n + 1) }
    let s := s.modSecOp g fun _ => op
    if n + 1 = tiles then s.fillDone g op ss else s

/-- Whether a FILL packet is the next data tile of the fill in progress. -/
def State.fillsNext (s : State) (g : Nat) (op : SecOp) (k : Packet) : Option (Nat × Nat × Nat) :=
  match op.chosen, op.fill with
  | some ss, some f =>
    let x := s.groupFor g
    let v : Serve := { table := (s.secureOf g).table, target := s.myPos g, gen := op.gen, stopSeq := ss, erased := op.erased, holders := op.used, first := 0,
                       tiles := f.1 }
    let lastServer := ((v.chain x).getLast?).getD 0
    if secStop k == ss && secTag k == s.tagOf g && bitsOf k.flow 8 4 == s.myPos g && bitsOf k.flow 1 7 == op.gen &&
        secTile k == f.2 && s.fromRank (partOfCtx g) (x.rank lastServer) k then some (ss, f.1, f.2)
    else none
  | _, _ => none

/-- Whether a FILL packet comes from the server before this one in a chain. -/
def State.chainGives (s : State) (g : Nat) (k : Packet) (v : Serve) (h : Shard) : Bool :=
  let x := secGroup v.table
  let c := v.chain x
  let at_ := c.findIdx (· == h.pos)
  v.target == bitsOf k.flow 8 4 && v.gen == bitsOf k.flow 1 7 && v.stopSeq == secStop k && groupTag v.table == secTag k &&
    0 < at_ && s.fromRank (partOfCtx g) (x.rank (nth 0 c (at_ - 1))) k

/-- The chain that a FILL packet belongs to, with this server's shard. -/
def State.chainOf (s : State) (g : Nat) (k : Packet) : Option (Serve × Shard) :=
  (s.secureOf g).serving.findSome? fun v =>
    match s.shardOf g v.table v.stopSeq with
    | some h => if s.chainGives g k v h then some (v, h) else none
    | none => none

/-- A server in the middle of a chain. -/
def State.passFill (s : State) (g : Nat) (k : Packet) : State :=
  match s.chainOf g k with
  | none => s
  | some (v, h) =>
    match (s.takeHanded k).serveTile g v h (secTile k) k.payload with
    | (s, none) => s.serveErased g v (v.tiles ≤ secTile k + 1)
    | (s, some e) => s.serveFailed g v h e

def State.fillPacket (s : State) (g : Nat) (k : Packet) : State :=
  if !s.secPkt g k [kdFill] then s
  else
    match (s.secureOf g).op with
    | none => s.passFill g k
    | some op =>
      match s.fillsNext g op k with
      | some (ss, tiles, n) => (s.takeHanded k).fillTile g op ss tiles n k.payload
      | none => s.passFill g k

/-! ### POINT_EXCHANGE -/

/-- A data member's committed points: recorded while an operation runs, and answered when asked. -/
def State.onPoints (s : State) (g : Nat) (k : Packet) : State :=
  match s.srcData (partOfCtx g) (s.groupFor g) k with
  | none => s
  | some i =>
    if !(s.secureOf g).hasGroup || knownTable k.payload != (s.secureOf g).table then s
    else
      let y := { knownOf k.payload with position := i }
      let s := s.takeHanded k
      let s := if knownAsk k.payload then s.sendKnown g [i] false false else s
      (s.modSecOp g fun op => { op with known := op.known.filter (·.position != i) ++ [y] }).advanceSec g

/-- A holder says which points it holds. -/
def State.onAskHolder (s : State) (g : Nat) (k : Packet) : State :=
  match (s.secureOf g).holds.find? fun h => h.table == k.payload with
  | none => s
  | some h =>
    let x := secGroup h.table
    let p := partOfCtx g
    match s.srcData p x k with
    | none => s
    | some i =>
      (s.takeHanded k).sendSec g (x.rank i) kdHolder 0 0
        (holderBytes (x.pos (s.myRank p)) ((h.points.filter (·.complete)).map fun q => (q.stopSeq, q.got)) h.table)

def State.onHolder (s : State) (g : Nat) (k : Packet) : State :=
  match s.srcHolder (partOfCtx g) (s.groupFor g) k with
  | none => s
  | some j =>
    if k.payload.drop 24 != (s.secureOf g).table then s
    else
      ((s.takeHanded k).modSecOp g fun op =>
        { op with holders := op.holders.filter (·.1 != j) ++ [(j, (holderOf k.payload).2)] }).advanceSec g

def State.pointExchange (s : State) (g : Nat) (k : Packet) : State :=
  if s.secPkt g k [kdPoints] then s.onPoints g k
  else if s.secPkt g k [kdAskHolder] then s.onAskHolder g k
  else if s.secPkt g k [kdHolder] then s.onHolder g k
  else if s.secPkt g k [kdServe] then s.onServe g k
  else s

/-! ### The group key over SPDM (R407) -/

/-- Whether every reachable data member has said whether it holds the key: in its vote, or in the point exchange. -/
def State.keysHeard (s : State) (g : Nat) (op : SecOp) : Bool :=
  if op.op = 0 then op.votes.length == (s.groupFor g).k else s.pointsHeard g op

/-- Whom to ask for the key, once all have been heard: the lowest-positioned reachable data member that holds it; in a vote in
which none does, position 0, which draws it. -/
def State.keySource (s : State) (g : Nat) (op : SecOp) : Option Nat :=
  if !s.keysHeard g op then none
  else
    match (s.peersOf g).find? fun i =>
        op.votes.any (fun v => v.position == i && v.hasKey) || op.known.any fun y => y.position == i && y.hasKey with
    | some i => some i
    | none => if op.op = 0 then (s.peersOf g).find? (· == 0) else none

def State.askKey (s : State) (g : Nat) : State :=
  match (s.secureOf g).op with
  | none => s
  | some op =>
    if (s.secureOf g).key.isSome then s
    else
      match s.keySource g op with
      | none => s
      | some i =>
        match s.rankOf (partOfCtx g) ((s.groupFor g).rank i) with
        | none => s
        | some d => (s.beginAsk (.groupKey g) (.dict (.fabric d.1 d.2))).modSecure g fun x => { x with keyAsked := true }

def State.keyRequest (s : State) (g : Nat) (asker : Option KeyAsker) : State :=
  match asker with
  | none => s.askKey g
  | some a => s.giveKey g a

/-- A delivered key taken while a SECURE or FILL waits for it. -/
def State.keyArrived (s : State) (g : Nat) (key : BitVec 256) : State :=
  match (s.secureOf g).op with
  | none => s
  | some op =>
    if (s.secureOf g).key.isSome then s
    else
      let s := s.modSecure g fun x => { x with key := some key, keyAsked := false }
      match op.chosen, op.fill with
      | some ss, some f => if f.1 ≤ f.2 then s.fillDone g op ss else s
      | _, _ => s.advanceSec g

/-! ### What others change -/

/-- The securing part of an update of a partition's rank map. -/
def State.secureRanks (s : State) (p : Nat) : State :=
  (ctxsOfPart p).foldl
    (fun s g =>
      let x := s.groupFor g
      let s := (s.abandonBuild g).modSecOp g fun op =>
        { op with known := op.known.filter fun y => s.rankValid p (x.rank y.position) }
      s.advanceSec g) s

/-! ### The commands -/

def execSecure (g q seq : Nat) (s : State) : Host.Outcome State Fault Refusal := .next (s.secureRow g q seq 0)
def execRestore (g q seq : Nat) (s : State) : Host.Outcome State Fault Refusal := .next (s.secureRow g q seq 1)
def execFill (g q seq : Nat) (s : State) : Host.Outcome State Fault Refusal := .next (s.secureRow g q seq 2)
def execRegister (g q seq : Nat) (s : State) : Host.Outcome State Fault Refusal := .next (s.registerRow g q seq)
def execSecureVoteMessage (g : Nat) (pkt : Packet) (s : State) : Host.Outcome State Fault Refusal := .next (s.voteMessage g pkt)
def execSecureVoteTimeout (g : Nat) (s : State) : Host.Outcome State Fault Refusal := .next (s.voteTimeout g)
def execParityPacket (g : Nat) (pkt : Packet) (s : State) : Host.Outcome State Fault Refusal := .next (s.parityPacket g pkt)
def execHolderDone (g : Nat) (pkt : Packet) (s : State) : Host.Outcome State Fault Refusal := .next (s.holderDone g pkt)
def execFillPacket (g : Nat) (pkt : Packet) (s : State) : Host.Outcome State Fault Refusal := .next (s.fillPacket g pkt)
def execPointExchange (g : Nat) (pkt : Packet) (s : State) : Host.Outcome State Fault Refusal := .next (s.pointExchange g pkt)
def execGroupKeyRequest (g : Nat) (asker : Option KeyAsker) (s : State) : Host.Outcome State Fault Refusal :=
  .next (s.keyRequest g asker)

end Sys2Proof.Machine
end

