-- ==== Sys2Proof/Machine/Fabric.lean ====
section
/-! DEFINITION. Sys2Proof/Machine/Fabric.lean: the ports of the Jorique fabric: flits, packets and keys on a link (R282 to
R290), calibration and lane sparing (R291, R292), bundles and lost links (R297, R298), Ethernet mode (R299), and delivery
(R295, R385). -/
namespace Sys2Proof.Machine

/-! ### Modes and lanes -/

def Port.lsOk (x : Port) : Bool := !x.laneFail.getLsbD 4
def Port.laneOk (x : Port) (i : Nat) : Bool := !x.laneFail.getLsbD i

/-- Whether LS has taken over a failed lane, and does not only stand in for one that is re-adapted (R291, R292). -/
def Port.lsTaken (x : Port) : Bool := match x.ls with | some l => !x.laneOk l | none => false

/-- Whether logical lane i has a carrier: its own lane, or LS, unless a window re-adapts that carrier. -/
def Port.carried (x : Port) (i : Nat) : Bool :=
  let open' := match x.cal with | some (j, ph) => j == i && ph == .switched | none => false
  (x.ls == some i && x.lsOk && !(open' && !x.laneOk i)) || (x.laneOk i && !open')

/-- Logical lanes in use: 4, 3 or 2, or fewer. -/
def Port.lanesUsed (x : Port) : Nat := ((List.range 4).filter x.carried).length

/-- LANES of R281. A port that is not live reads no lanes in use beyond two, none on LS (log 12). -/
def Port.lanesEntry (x : Port) : Nat :=
  x.laneFail.toNat + (x.ls.getD 7) * 256 + (if x.cal.isSome then 2048 else 0) +
  (if x.live then (x.lanesUsed - 2) * 4096 else 0)

/-- STATE of a live port: DEGRADED once a data lane has failed. -/
def Port.grade (x : Port) : Port :=
  if x.live then { x with st := if x.laneFail.toNat % 16 = 0 then .up else .degraded } else x

/-! ### Going DOWN (R297) -/

/-- The other live ports of a port's bundle. -/
def State.bundlePeers (s : State) (p : Nat) : List Nat :=
  (List.range 32).filter fun i => i != p && s.bundleOf i == s.bundleOf p && (s.port i).live

/-- A packet queued again, to be sent from its first byte under its original BUNDLE_SEQ and a fresh key count. -/
def State.requeue (s : State) (p : Nat) (x : TxPkt) : State :=
  (s.modPort p fun y => { y with txq := y.txq ++ [{ x with sent := 0, key := none }] }).pump p

/-- A packet put again on a live port of its bundle; with none left it is lost, and its buffer is free. -/
def State.resendOn (s : State) (ports : List Nat) (x : TxPkt) : State :=
  if ports = [] then (match x.src with | some (p, vc) => s.freeBuffer p vc x.owed | none => s)
  else
    let h := popcount 18 (x.pkt.srcId ^^^ x.pkt.dstId ^^^ (x.pkt.flow % 2 ^ 18))
    s.requeue (nth 0 ports (h % ports.length)) x

/-- Packets in the order the module queued them. -/
def insertNo (x : TxPkt) : List TxPkt → List TxPkt
  | [] => [x]
  | y :: rest => if x.no ≤ y.no then x :: y :: rest else y :: insertNo x rest

def byNo (l : List TxPkt) : List TxPkt := l.foldr insertNo []

/-- The packets a port's peer has not acknowledged, in their original order; a broken one is not sent again, nor a clear
one (R297). -/
def Port.unsent (x : Port) : List TxPkt := byNo ((x.sentq ++ x.txq).filter fun k => k.st != .broken && !k.clear)

/-- A port that leaves UP: keys and the session's link are gone, what was being received is discarded. -/
def Port.fall (x : Port) (st : PortState) (now : Nat) : Port :=
  { x with
    st := st, ls := none, cal := none, calFailed := none, rxLs := false, rxReady := false, replay := [], ctlq := [], txq := []
    sentq := [], asm := [], freed := [], ackDue := false, hbAt := none, rxq := x.rxq.map fun k => (k.1, k.2.1, 0)
    txKey := none, rxKey := none, rxOld := none, rxNext := none, tagFailAt := [], sendFails := 0, resentFrom := none, triedAt := 0
    nakked := false, downAt := now }

/-! ### Packets on their way through (R289, R296) -/

/-- The port on which a packet waits to leave. -/
def State.txPort (s : State) (no : Nat) : Option Nat := (List.range 32).find? fun i => (s.port i).txq.any (·.no == no)

/-- What has come of a transit packet, with the flits of buffer it takes; a packet that is gone frees them. -/
def State.feed (s : State) (no p vc : Nat) (payload : Bytes) : State :=
  match s.txPort no with
  | some q =>
    (s.modPort q fun x =>
      { x with txq := modWhere (·.no == no) (fun k =>
          { k with pkt := { k.pkt with payload := payload }, owed := k.owed + 1 }) x.txq }).pump q
  | none => s.freeBuffer p vc 1

/-- Nothing more comes of a transit packet: whole, or broken. A broken one that has not begun to leave is discarded. -/
def State.endTx (s : State) (no : Nat) (st : TxState) : State :=
  match s.txPort no with
  | none => s
  | some q =>
    match (s.port q).txq.find? (·.no == no) with
    | none => s
    | some k =>
      if st = .broken ∧ k.sent = 0 then
        let s := s.modPort q fun x => { x with txq := x.txq.filter (·.no != no) }
        match k.src with | some (p, vc) => (s.freeBuffer p vc k.owed).pump q | none => s.pump q
      else (s.modPort q fun x => { x with txq := modWhere (·.no == no) (fun k => { k with st := st }) x.txq }).pump q

/-- Packets that came in on a port no longer hold its buffer. -/
def State.forgetSrc (s : State) (p : Nat) : State :=
  let clear (k : TxPkt) : TxPkt := if (k.src.map (·.1)) = some p then { k with src := none, owed := 0 } else k
  { s with ports := s.ports.map fun kv => (kv.1, { kv.2 with txq := kv.2.txq.map clear }) }

/-- A port goes DOWN or OFF: its dale and its col are reset (R430), and its SPDM session ends; what it was passing on is broken; its bundle sends again, in order,
what the peer had not acknowledged. -/
def State.dropPort (s : State) (p : Nat) (st : PortState) : State :=
  let s := ((s.port p).asm.filterMap (·.out)).foldl (fun s no => s.endTx no .broken) s
  let again := (s.port p).unsent
  let s := (((s.resetDale (176 + p)).modPort p fun x => x.fall st s.now).forgetSrc p).modSec fun x =>
    { x with sessions := x.sessions.filter (·.conn != .port p), negotiated := x.negotiated.filter (· != .port p)
             asking := x.asking.filter (·.what != .port p) }
  let peers := s.bundlePeers p
  again.foldl (fun s k => s.resendOn peers (if (k.src.map (·.1)) = some p then { k with src := none, owed := 0 } else k)) s

/-- A port goes DOWN for a cause of R345. -/
def State.portDown (s : State) (p cause : Nat) : State :=
  let peer := (s.port p).peer.toNat % 2 ^ 18
  (s.dropPort p .down).event evPortDown (partCode 4 p) noPart (BitVec.ofNat 8 cause :: leBytes 4 peer)

/-! ### Acknowledgement, credit and resending (R282 to R284, R299) -/

/-- Whether a SEQ is covered by an acknowledged one. -/
def covered (seq ack : Nat) : Bool := (ack + 4096 - seq) % 4096 < 2048

/-- Acknowledged flits leave the replay buffer, and packets with no flit left there are acknowledged. -/
def Port.acked (x : Port) (ack : Nat) : Port :=
  let rest := x.replay.filter fun f => !covered f.seq ack
  if rest.length = x.replay.length then x
  else { x with
    replay := rest, sentq := x.sentq.filter (fun k => rest.any (·.no == some k.no)), sendFails := 0, resentFrom := none }

def Port.credited (x : Port) (vc n : Nat) : Port :=
  { x with credits := mapSet x.credits vc (min (vcBuffer vc) (x.credit vc + n)) }

/-- The failed sendings of the oldest unacknowledged flit, which a NAK or a time-out names. A NAK that comes within a round trip
of its last sending may be about an earlier one, and is not counted; without an unacknowledged flit none has failed (log 49). -/
def Port.judge (x : Port) (e : LinkEnv) (seq : Nat) : Port :=
  match x.replay with
  | [] => x
  | f :: _ =>
    let again : Bool := x.resentFrom == some seq
    let tried := if again then x.triedAt else f.time
    let fails := if again then x.sendFails else 0
    if tried + e.roundTrip ≤ e.now then { x with sendFails := fails + 1, resentFrom := some seq, triedAt := e.now }
    else { x with sendFails := fails, resentFrom := some seq, triedAt := tried }

/-- A resend from a SEQ: every flit from there on sent again in its order, counted, and how often in a row its sending has
failed. -/
def Port.resendFrom (x : Port) (e : LinkEnv) (seq : Nat) : Port :=
  let x := x.judge e seq
  let again := x.replay.map fun f => { f with time := e.now }
  let x := { x with replayed := x.replayed + again.length, replay := again }
  again.foldl (fun x f => x.emit e f) x

/-- A port that must resend; the eighth failed sending in a row of one flit takes it DOWN. -/
def State.resend (s : State) (p seq : Nat) : State :=
  let s := s.modPort p fun x => x.resendFrom (s.linkEnv p) seq
  if 8 ≤ (s.port p).sendFails then s.portDown p 1 else s.pump p

/-- A NAK names the expected SEQ; every flit before it has been received. -/
def State.onNak (s : State) (p seq : Nat) : State :=
  if (s.port p).linked then (s.modPort p fun x => x.acked ((seq + 4095) % 4096)).resend p seq else s

/-- No acknowledgement for RETRY_TIMEOUT_US: the sender resends from its oldest unacknowledged flit (R299). -/
def State.ethRetry (s : State) (p : Nat) : State :=
  match (s.port p).replay with
  | f :: _ =>
    if (s.port p).linked && s.portMode p == 2 && f.time + s.cfg (0x4000 + p) 0x14 * 1000 ≤ s.now then s.resend p f.seq else s
  | [] => s

/-! ### Receiving packets (R286 to R289, R297) -/

/-- The types of R287. -/
def pktTypes : List Nat := [0x01, 0x02, 0x08, 0x09, 0x10, 0x11, 0x12]

/-- A packet read from its header and its decrypted payload. -/
def packetOf (h payload : Bytes) : Packet :=
  let w0 := fld h 0 4
  let w1 := fld h 4 4
  { dstId := bitsOf w0 0 18, dstPart := bitsOf w0 18 3, tc := bitsOf w0 22 2, type := bitsOf w0 24 8
    srcId := bitsOf w1 0 18, srcPart := bitsOf w1 18 3, hops := bitsOf w1 21 6, dim := bitsOf w1 27 3
    dstRank := bitsOf (fld h 8 4) 0 18, flow := fld h 14 2, offset := BitVec.ofNat 64 (fld h 16 8)
    bundleSeq := BitVec.ofNat 32 (fld h 24 4), checkOk := fld h 28 4 == (crc32c (h.take 28)).toNat, payload := payload }

/-- Whether a packet's KEY_PHASE is that of the old key. -/
def Port.usesOld (x : Port) (h : Bytes) : Bool :=
  match x.rxKey, x.rxOld with
  | some k, some _ => (fld h 0 4).testBit 21 != k.phase
  | _, _ => false

/-- The key a packet is received under. -/
def Port.keyFor (x : Port) (h : Bytes) : Option LinkKey := if x.usesOld h then x.rxOld else x.rxKey

/-- The packet counted under its key; the first packet of a new phase destroys the old key (R290). -/
def Port.countRx (x : Port) (h : Bytes) : Port :=
  let up (k : LinkKey) : LinkKey := { k with count := k.count + 1 }
  if x.usesOld h then { x with rxOld := x.rxOld.map up } else { x with rxKey := x.rxKey.map up, rxOld := none }

/-- A failed tag: counted; four within 1 s take the port DOWN (R289). -/
def State.tagFailed (s : State) (p : Nat) : State :=
  let now := s.now
  let s := s.modPort p fun x =>
    { x with tagFails := satAdd 32 x.tagFails 1
             tagFailAt := (x.tagFailAt.filter fun t => now < t + 1000000000) ++ [now] }
  if 4 ≤ (s.port p).tagFailAt.length then s.portDown p 2 else s

/-- The payload that has come of a packet, decrypted under its key and not yet verified. -/
def Asm.clearText (a : Asm) : Bytes :=
  let c := (a.bytes.drop 32).take (fld a.bytes 12 2)
  match a.key with
  | some k => (gcmSeal k.key (linkNonce k) [] c).1
  | none => []

/-- The payload of a whole packet; none where its length is wrong or its tag fails. -/
def Asm.opened (a : Asm) : Option Bytes :=
  let n := fld a.bytes 12 2
  if a.bytes.length = 48 + n ∧ n ≤ 4096 then
    a.key.bind fun k => gcmOpen k.key (linkNonce k) (a.bytes.take 28) (slice a.bytes 32 n) (a.bytes.drop (32 + n))
  else none

/-- Whether a packet has already been accepted in the bundle's window of 4,096 (R297). -/
def State.seenSeq (s : State) (p : Nat) (k : Packet) : Bool := (s.bundle (s.bundleOf p)).seen.contains k.bundleSeq

def State.acceptSeq (s : State) (p : Nat) (k : Packet) : State :=
  s.modFab fun f =>
    { f with bundles := mapMod {} f.bundles (s.bundleOf p) fun x =>
        let seen := x.seen ++ [k.bundleSeq]
        { x with seen := seen.drop (seen.length - 4096) } }

def Port.asmOf (x : Port) (vc : Nat) : Option Asm := x.asm.find? (·.vc == vc)

/-- What becomes of a packet for another module once its first flit has passed (R296): nothing of one already accepted;
discarded and counted without HDR_CHECK or route; else on its way. -/
def State.passOn (s : State) (p vc : Nat) (a : Asm) : State :=
  let k := { packetOf a.bytes a.clearText with payload := a.clearText }
  let keep (s : State) (a : Asm) : State := s.modPort p fun x => { x with asm := x.asm ++ [a] }
  if s.seenSeq p k then keep s { a with drop := true }
  else
    match (if k.checkOk && k.tc < 3 then s.routeFrom (dieOfPort p) (vc % 2 == 1) k else none) with
    | none => keep (s.countDiscard (some p)) { a with drop := true }
    | some r =>
      (keep s { a with out := some s.fab.nextNo }).enqueue r
        { no := 0, pkt := k, len := fld a.bytes 12 2, vc := 0, src := some (p, vc), owed := 1, st := .coming }

/-- The first flit of a packet: it takes the key and count it was sent under (R288). -/
def State.beginPkt (s : State) (p vc : Nat) (b : Bytes) : State :=
  let x := s.port p
  let a : Asm := { vc := vc, bytes := b, flits := 1, key := if x.live then x.keyFor b else none }
  let s := s.modPort p fun x => if x.live then x.countRx b else x
  if x.live ∧ 32 ≤ b.length ∧ fld b 0 4 % 2 ^ 18 ≠ s.ownId then s.passOn p vc a
  else s.modPort p fun x => { x with asm := x.asm ++ [a] }

/-- A later flit of a packet; one without a first flit is no packet's. -/
def State.morePkt (s : State) (p vc : Nat) (b : Bytes) : State :=
  match (s.port p).asmOf vc with
  | none => s.freeBuffer p vc 1
  | some a =>
    let a := { a with bytes := a.bytes ++ b, flits := a.flits + 1 }
    let s := s.modPort p fun x => { x with asm := modWhere (·.vc == vc) (fun _ => a) x.asm }
    match a.out with | some no => s.feed no p vc a.clearText | none => s

/-- The MCTP packet of a wrapper, kept for MD; the SPDM message it brings is a command of its own (log 22). -/
def State.mctpArrive (s : State) (c : Conn) (wrapper : Bytes) : State :=
  s.modSec fun x => { x with mctpIn := x.mctpIn ++ [(c, wrapper.drop 12)] }

/-- Whether a packet is one that AUTH accepts: MGMT for this module, in clear with a tag of zero, with an SPDM wrapper (R405). -/
def State.authPacket (s : State) (b : Bytes) : Bool :=
  let k := packetOf b []
  k.dstId == s.ownId && k.type == 0x10 && k.tc == 2 && k.checkOk && b.length == 48 + fld b 12 2 &&
    allZero (b.drop (b.length - 16)) && 12 ≤ fld b 12 2 && fld b 32 4 == spdmSession

/-- A packet whose last flit has come. Its tag is verified, whatever has become of it; a packet of this module waits to be
received, and of one on its way the end is known. In AUTH nothing else than R405 allows is accepted. -/
def State.endPkt (s : State) (p vc : Nat) : State :=
  match (s.port p).asmOf vc with
  | none => s
  | some a =>
    let s := s.modPort p fun x => { x with asm := x.asm.filter (·.vc != vc) }
    if !(s.port p).live then
      let s := s.freeBuffer p vc a.flits
      if s.authPacket a.bytes then s.mctpArrive (.port p) (slice a.bytes 32 (fld a.bytes 12 2)) else s
    else
      match a.opened, a.out with
      | none, some no => (s.endTx no .broken).tagFailed p
      | none, none => (s.freeBuffer p vc a.flits).tagFailed p
      | some payload, some no => (s.acceptSeq p (packetOf a.bytes payload)).endTx no .whole
      | some payload, none =>
        let k := packetOf a.bytes payload
        if a.drop || s.seenSeq p k then s.freeBuffer p vc a.flits
        else (s.acceptSeq p k).modPort p fun x => { x with rxq := x.rxq ++ [(k, vc, a.flits)] }

/-! ### Flits (R282, R283) -/

structure Flit where
  kind : Nat
  vc : Nat
  seq : Nat
  ack : Option Nat
  creditVc : Nat
  credit : Nat
  data : Bytes
  deriving DecidableEq, Repr

def flitOf (b : Bytes) : Flit :=
  let w := fld b 0 8
  { kind := bitsOf w 60 4, vc := bitsOf w 57 3, seq := bitsOf w 45 12
    ack := if w.testBit 32 then some (bitsOf w 33 12) else none
    creditVc := bitsOf w 29 3, credit := bitsOf w 20 9, data := slice b 8 (bitsOf w 12 8) }

def flitCrcOk (b : Bytes) : Bool := b.length == 256 && fld b 252 4 == (crc32c (b.take 252)).toNat

/-- Whether a flit's fields are those R282 lays out: a KIND, at most 244 bytes, and a VC where it carries a packet. -/
def Flit.legal (f : Flit) (len : Nat) : Bool := f.kind ≤ 4 && len ≤ 244 && (f.kind == 0 || f.kind == 4 || f.vc < 6)

/-- What a flit that passes its checks carries besides its payload. -/
def Port.credits1 (x : Port) (f : Flit) : Port :=
  let x := match f.ack with | some a => x.acked a | none => x
  if f.creditVc < 6 then x.credited f.creditVc f.credit else x

/-- A packet flit of a VC: begun, continued, or complete. A START before the END of the packet before it ends that one. -/
def State.flitData (s : State) (p : Nat) (f : Flit) : State :=
  match f.kind with
  | 1 => (s.endPkt p f.vc).beginPkt p f.vc f.data
  | 2 => s.morePkt p f.vc f.data
  | 3 =>
    match (s.port p).asmOf f.vc with
    | some _ => (s.morePkt p f.vc f.data).endPkt p f.vc
    | none => (s.beginPkt p f.vc f.data).endPkt p f.vc
  | _ => s

/-- A flit out of sequence, an IDLE one too, or one that cannot be read is discarded, and the expected SEQ is named in a NAK
(log 49). -/
def State.rejectFlit (s : State) (p : Nat) (unread : Bool) : State :=
  s.modPort p fun x => if unread || !x.nakked then { x.sendCtl (s.linkEnv p) (.nak x.rxSeq) with nakked := true } else x

/-- A flit that passes its checks takes the SEQ expected; IDLE takes none. -/
def Port.taken (x : Port) (f : Flit) : Port :=
  let y := x.credits1 f
  if f.kind = 0 then y else { y with rxSeq := (x.rxSeq + 1) % 4096, rxAny := true, ackDue := true, nakked := false }

/-- A flit received, with the codewords corrected for it (R281, R283). -/
def State.flitIn (s : State) (p : Nat) (b : Bytes) (fec : Option Nat) : State :=
  if !(s.port p).linked then s
  else
    match fec with
    | none => s.rejectFlit p true
    | some n =>
      let s := s.modPort p fun x => { x with fec := x.fec + n }
      let f := flitOf b
      if !flitCrcOk b || !f.legal (bitsOf (fld b 0 8) 12 8) then s.rejectFlit p true
      else if f.seq ≠ (s.port p).rxSeq then s.rejectFlit p false
      else ((s.modPort p (·.taken f)).flitData p f).pump p

/-! ### Delivery (R295, R385) -/

/-- The die that receives a packet for a partition: the port's own where the partition has it, else its lowest. -/
def State.recvDie (s : State) (p part : Nat) : Nat :=
  if s.partOfDie (dieOfPort p) = part then dieOfPort p else part * s.dieCount

/-- A delivered packet goes to its engine, which discards and counts a reserved KIND (R307, R310). -/
def State.toEngine (s : State) (k : Packet) : State :=
  if collKnown k then s.handOver k else s.modPart k.dstPart fun p => { p with missing := p.missing + 1 }

/-- Whether a packet that has come on a port can be delivered. -/
def State.mayDeliver (s : State) (p : Nat) (k : Packet) : Bool :=
  s.deliverable k && pktTypes.contains k.type && !s.pathOut (dieOfPort p) (s.recvDie p k.dstPart)

/-- The next packet to be received of a port's buffers: the first that does not wait, with none before it that waits on its
VC. -/
def nextRx (waits : Packet → Bool) : List Nat → List (Packet × Nat × Nat) → Option (Packet × Nat × Nat)
  | _, [] => none
  | held, x :: rest =>
    if held.contains x.2.1 || waits x.1 then nextRx waits (x.2.1 :: held) rest else some x

/-- A packet for this module leaves its buffer: to its engine, or discarded and counted. A contribution that finds no room stays
there (R309). -/
def State.packetReceive (s : State) (p : Nat) : State :=
  match nextRx (fun k => s.mayDeliver p k && s.collWaits k) [] (s.port p).rxq with
  | none => s
  | some (k, vc, flits) =>
    let t := (s.modPort p fun x => { x with rxq := x.rxq.erase (k, vc, flits) }).freeBuffer p vc flits
    if s.mayDeliver p k then t.toEngine k else t.countDiscard (some p)

/-- What MD queues of a management packet. -/
def mdReq (k : Packet) (route : Bool) : MdReq :=
  { src := .fabric k.srcId k.srcPart, part := k.dstPart, wrapper := k.payload, route := route }

/-! ### Heartbeats (R298) -/

def State.heartbeat (s : State) (p : Nat) : State :=
  s.modPort p fun x => if x.live then { x with heardAt := s.now } else x

def State.heartbeatSend (s : State) (p : Nat) : State :=
  let x := s.port p
  if x.live && !s.pwr.shutdown && (match x.hbAt with | some t => t + 250000 ≤ s.now | none => true) then
    ((s.sendCtl p (.heartbeat s.ownId s.fab.hbCounter)).modPort p fun x => { x with hbAt := some s.now }).modFab fun f =>
      { f with hbCounter := f.hbCounter + 1 }
  else s

/-- PEER_LOST to the fabric manager: the own device, the port and the silent peer (log 22). -/
def State.peerLost (s : State) (p : Nat) (peer : BitVec 32) : State :=
  s.send (s.packet 0 (s.cfg 0x1200 0x0C) 0 0 0x12 2 0 0
    (leBytes 4 s.ownId ++ leBytes 4 p ++ leBytes 4 (peer.toNat % 2 ^ 18)))

def State.peerSilent (s : State) (p : Nat) : State :=
  let x := s.port p
  if x.live && x.heardAt + 1000000 ≤ s.now then (s.portDown p 3).peerLost p x.peer else s

/-! ### Calibration (R291) -/

def State.calOpen (s : State) (p : Nat) : State :=
  let x := s.port p
  if x.live && s.portMode p == 1 && x.lsOk && x.cal.isNone && x.lanesUsed == 4 &&
      x.calAt + s.cfg (0x4000 + p) 6 * 1000000 ≤ s.now then
    s.modPort p fun x =>
      { x with
        cal := some (x.nextCal, if x.ls.isNone then .mirroring else .switched)
        nextCal := (x.nextCal + 1) % 4, calAt := s.now }
  else s

/-- LS locked on the mirrored lane: LANE_READY to the transmitter. -/
def State.lsLock (s : State) (p : Nat) : State :=
  if (s.port p).live && s.portMode p == 1 then
    s.modPort p fun x => { x.sendCtl (s.linkEnv p) .laneReady with rxReady := true }
  else s

/-- The end of a window: a lane that failed meanwhile gets LS (R292). -/
def Port.closeCal (x : Port) : Port :=
  { x with cal := none, ls := (match x.calFailed with | some j => some j | none => x.ls), calFailed := none }

/-- The transmitter sends SWITCH: to LS, or back to the physical lane, which ends the window. -/
def Port.laneReady (x : Port) (e : LinkEnv) : Port :=
  match x.cal with
  | some (i, .mirroring) => { x.sendCtl e .switch with cal := some (i, .switched), ls := some i }
  | some (_, .returning) => ({ x.sendCtl e .switch with ls := none }).closeCal.grade
  | _ => x

def State.laneReady (s : State) (p : Nat) : State := s.modPort p fun x => if x.live then x.laneReady (s.linkEnv p) else x

/-- At the next alignment marker the receiver takes the logical lane from LS, or from its own lane again. -/
def State.switchIn (s : State) (p : Nat) : State :=
  s.modPort p fun x => if x.live && x.rxReady then { x with rxLs := !x.rxLs, rxReady := false } else x

/-! ### Lane failures (R292) -/

/-- The record and the qualifying event of a lane failure; fewer than two lanes left take the port DOWN. -/
def State.laneEvent (s : State) (p lane : Nat) : State :=
  let n := (s.port p).lanesUsed
  let s := (s.event evLaneFailure (partCode 4 p) noPart [BitVec.ofNat 8 lane, BitVec.ofNat 8 n]).qualify
  if s.portMode p = 2 then s.portDown p 5 else if n < 2 then s.portDown p 4 else s.modPort p (·.grade)

/-- LS is gone: a lane that it stands in for takes its symbols back, and a window is abandoned. -/
def Port.lsLost (x : Port) : Port := { x with cal := none, ls := none, calFailed := none }

/-- What a failed data lane changes while LS is sound: LS takes a lane at once where it is free; inside a window on another
lane it does so when the window ends; inside a window on the lane itself LS keeps its symbols. -/
def Port.spare (x : Port) (lane : Nat) : Port :=
  match x.cal, x.ls with
  | none, none => { x with ls := some lane }
  | none, some _ => x
  | some (i, _), none => if i = lane then { x with cal := none, ls := some lane } else { x with calFailed := x.calFailed.or (some lane) }
  | some (i, _), some l =>
    if i = lane then { x with cal := none, calFailed := none }
    else if l = i then { x with calFailed := x.calFailed.or (some lane) }
    else x

/-- What a failed lane changes in a port. In ETHERNET mode there is no LS. -/
def Port.failLane (x : Port) (mode lane : Nat) : Port :=
  let y := { x with laneFail := x.laneFail ||| BitVec.ofNat 5 (2 ^ lane) }
  if lane = 4 then y.lsLost
  else if mode = 2 || !x.lsOk then y
  else if x.lsTaken then (match x.cal with | some (i, _) => if i = lane then { y with cal := none } else y | none => y)
  else y.spare lane

def State.laneFailure (s : State) (p lane : Nat) : State :=
  let x := s.port p
  if x.live && lane ≤ 4 && x.laneOk lane && !(lane == 4 && s.portMode p == 2) then
    (s.modPort p fun x => x.failLane (s.portMode p) lane).laneEvent p lane
  else s

/-- The carrier that a window on a logical lane re-adapts: LS where it has taken the lane over, else the lane's own. -/
def Port.readapts (x : Port) (i : Nat) : Nat := if x.lsTaken && x.ls == some i then 4 else i

/-- Re-adaptation is over: the carrier takes its symbols back, or counts as failed. Where LS stood in for the lane, the
hand-back mirrors first; where LS has been taken, nothing was handed over. -/
def State.calEnd (s : State) (p : Nat) (adapted : Bool) : State :=
  let x := s.port p
  match x.cal with
  | some (i, .switched) =>
    if !x.live then s
    else if !adapted then
      let l := x.readapts i
      let y := { (if l = 4 then x.lsLost else { x with cal := none, calFailed := none }) with
        laneFail := x.laneFail ||| BitVec.ofNat 5 (2 ^ l) }
      (s.modPort p fun _ => y).laneEvent p l
    else if x.lsTaken then s.modPort p fun x => x.closeCal.grade
    else s.modPort p fun x => { x with cal := some (i, .returning) }
  | _ => s

/-! ### Training and authentication (R281, R405) -/

def State.lossOfSignal (s : State) (p : Nat) : State :=
  let x := s.port p
  if x.live || x.st == .training || x.st == .auth then s.portDown p 0 else s

def State.portRetrain (s : State) (p : Nat) : State :=
  let x := s.port p
  if x.st == .down && s.portMode p != 0 && !s.pwr.shutdown && x.downAt + 1000000000 ≤ s.now then
    (s.resetDale (176 + p)).modPort p fun x => { x with st := .training }
  else s

/-- Whether this module opens the session of a port as requester. R405 does not say which of the two does: in the model it is
the one with the lower device ID, of two ports of one module the lower (DESIGN CHOICE, log 101). -/
def State.opensPort (s : State) (p peerId peerPort : Nat) : Bool :=
  s.ownId < peerId || (s.ownId == peerId && p < peerPort)

/-- Training and the exchange of identities are done: all lanes sound, counters of the link afresh. -/
def State.portTrained (s : State) (p peerId peerPort : Nat) : State :=
  if (s.port p).st == .training && (s.domain (176 + dieOfPort p)).st == 2 then
    let s := s.modPort p fun x =>
      { x with
        st := .auth, peer := BitVec.ofNat 32 (peerId % 2 ^ 18 + peerPort % 32 * 2 ^ 18), laneFail := 0, ls := none, cal := none
        calFailed := none, nextCal := 0, rxSeq := 0, txSeq := 0, rxAny := false, credits := [], share := 0, turns := [], asm := [] }
    if s.opensPort p (peerId % 2 ^ 18) (peerPort % 32) then s.beginAsk (.port p) (.port p) else s
  else s

/-- The three conditions of R405 on both sides: the peer's chain, debug state and FW_SVN, and this module's as the peer
reads them, FW_SVN in measurement 6. -/
def State.peerOk (s : State) (root : Bytes) (a : PeerAuth) : Bool :=
  a.accepts && s.atFabric root && allZero a.measurement7 && !s.sec.lock && s.sec.svn ≤ a.fwSvn && a.fwSvn ≤ s.sec.measSvn

def firstKey (k : BitVec 256) (now : Nat) : LinkKey := { key := k, keyId := 0, count := 0, phase := false, since := now }

/-- FINISH on a port installs the first link key of each direction (R405). -/
def State.installKeys (s : State) (p : Nat) (rx tx : BitVec 256) : State :=
  s.modPort p fun x =>
    if x.st = .auth then
      { x with txKey := some (firstKey tx s.now), rxKey := some (firstKey rx s.now), rxOld := none, rxNext := none }
    else x

/-- The open session of a port (R401). -/
def State.portSession (s : State) (p : Nat) : Option Session := s.sec.sessions.find? fun y => y.conn == .port p && y.isOpen

/-- The SPDM session with the peer has finished, and what the peer reports in it is known: UP with the keys installed; or DOWN,
also without an open session, or where the random source has failed and no key was drawn (R406). -/
def State.portAuth (s : State) (p : Nat) (a : PeerAuth) : State :=
  if (s.port p).st != .auth then s
  else
    match s.portSession p with
    | some y =>
      if s.peerOk y.root a && s.sec.rngOk && (s.port p).txKey.isSome && (s.port p).rxKey.isSome then
        s.modPort p fun x =>
          { x with st := .up, txq := x.txq.filter (!·.clear), asm := [], heardAt := s.now, calAt := s.now }
      else s.dropPort p .down
    | none => s.dropPort p .down

/-! ### MD as requester (R401, R405, R407) -/

/-- The next request of an exchange. -/
def State.askNext (s : State) (a : Asking) (st : AskStage) (r : SpdmRequest) : State :=
  (s.setAsk { a with stage := st }).spdmSend (.request a.what a.conn r)

/-- An exchange that fails: the session is given up, a port goes DOWN, and a group key is not asked for any more. -/
def State.askFailed (s : State) (a : Asking) : State :=
  match a.what with
  | .groupKey g => (s.endAsk a.what).modSecure g fun x => { x with keyAsked := false }
  | .port p => (s.endAsk a.what).dropPort p .down

/-- KEY_EXCHANGE_RSP: its signature verified under the chain the responder has shown; the own chain, which it fetches, and
FINISH are sent. -/
def State.askSession (s : State) (a : Asking) (id : BitVec 32) (key txKey : BitVec 256) (signature : Bytes) : State :=
  match a.chain with
  | none => s.askFailed a
  | some ch =>
    let m := sessionMessage id key txKey
    if s.sec.rngOk && id != 0 && id.toNat != spdmSession && !(s.sec.sessions.any (·.id == id)) &&
        Config.chainVerify ch.bytes m signature then
      let y : Session := { id := id, conn := a.conn, root := ch.root, chain := some ch, key := key, txKey := txKey
                           requester := true, lastAt := s.now }
      let a := { a with session := id }
      let s := (s.modSec fun x => { x with sessions := x.sessions ++ [y] }).askNext a .finish (.encapsulated s.chainBytes)
      s.spdmSend (.request a.what a.conn (.finish id (s.sign m)))
    else s.askFailed a

/-- The device and partition of a connection through the fabric. -/
def connDevice : Conn → Nat × Nat
  | .dict (.fabric dev part) => (dev, part)
  | _ => (0, 0)

/-- FINISH_RSP: the session is open. A port has its first link keys, and the peer's measurements are asked for; the key of a
group is asked for in the session. -/
def State.askOpened (s : State) (a : Asking) : State :=
  let mine (y : Session) : Bool := y.requester && y.id == a.session
  let keys := (s.sec.sessions.find? mine).elim (0, 0) fun y => (y.key, y.txKey)
  let s := s.modSec fun x => { x with sessions := modWhere mine (fun y => { y with isOpen := true }) x.sessions }
  match a.what with
  | .groupKey g => (s.setAsk { a with stage := .groupKey }).spdmSend (.keyRequest g (connDevice a.conn).1 (connDevice a.conn).2)
  | .port p =>
    ((s.modSec fun x => { x with asking := x.asking.filter (·.what != a.what) }).installKeys p keys.1 keys.2).spdmSend
      (.request a.what a.conn (.getMeasurements a.session))

/-- The key of a group from a supplier whose table has the same data ranks; the session has done its work. -/
def State.askGiven (s : State) (a : Asking) (key : BitVec 256) (hash : Bytes) : State :=
  match a.what with
  | .groupKey g =>
    if hash == ranksHash (s.secureOf g).table then
      ((s.spdmSend (.request a.what a.conn (.endSession a.session))).endAsk a.what).keyArrived g key
    else s.askFailed a
  | .port _ => s.askFailed a

/-- A response: the next request, or the end of an exchange that the response does not go on with. -/
def State.spdmReply (s : State) (what : Asked) (r : SpdmReply) (key : Option (BitVec 256)) (hash : Bytes) : State :=
  match s.askOf what with
  | none => s
  | some a =>
    match a.stage, r, key with
    | .version, .version, _ => s.askNext a .capabilities .getCapabilities
    | .capabilities, .capabilities, _ => s.askNext a .algorithms (.negotiateAlgorithms [1, 2, 3, 4])
    | .algorithms, .algorithms, _ => s.askNext a .digests .getDigests
    | .digests, .digests, _ => s.askNext a .certificate .getCertificate
    | .certificate, .certificate ch, _ =>
      if s.atFabric ch.root then s.askNext { a with chain := some ch } .keyExchange .keyExchange else s.askFailed a
    | .keyExchange, .keyExchangeRsp id key txKey sig, _ => s.askSession a id key txKey sig
    | .finish, .finishRsp, _ => s.askOpened a
    | .groupKey, .groupKey, some key => s.askGiven a key hash
    | _, _, _ => s.askFailed a

/-! ### Link keys (R290) -/

/-- The sender's next key, announced by KEY_PHASE (R290). -/
def State.keyRollover (s : State) (p : Nat) (key : BitVec 256) : State :=
  match (s.port p).txKey with
  | some k =>
    if (s.port p).live && s.sec.rngOk && (2 ^ 36 ≤ k.count || k.since + 3600000000000 ≤ s.now) then
      s.modPort p fun x =>
        { x.sendCtl (s.linkEnv p) .keyPhase with
          txKey := some { key := key, keyId := k.keyId + 1, count := 0, phase := !k.phase, since := s.now } }
    else s
  | none => s

/-- The receiver takes the agreed key for the new phase, and keeps the old one beside it. -/
def State.keyPhaseIn (s : State) (p : Nat) : State :=
  match (s.port p).rxKey, (s.port p).rxNext with
  | some k, some n =>
    s.modPort p fun x =>
      { x with
        rxOld := some k, rxNext := none
        rxKey := some { key := n, keyId := k.keyId + 1, count := 0, phase := !k.phase, since := s.now } }
  | _, _ => s

/-! ### The commands -/

def execFlitReceive (port : Nat) (flit : RxFlit) (s : State) : Host.Outcome State Fault Refusal :=
  .next (s.flitIn port flit.bytes flit.fec)
def execPacketReceive (port : Nat) (s : State) : Host.Outcome State Fault Refusal := .next (s.packetReceive port)
def execNak (port seq : Nat) (s : State) : Host.Outcome State Fault Refusal := .next (s.onNak port seq)
def execLaneReady (port : Nat) (s : State) : Host.Outcome State Fault Refusal := .next (s.laneReady port)
def execSwitch (port : Nat) (s : State) : Host.Outcome State Fault Refusal := .next (s.switchIn port)
def execKeyPhase (port : Nat) (s : State) : Host.Outcome State Fault Refusal := .next (s.keyPhaseIn port)
def execHeartbeat (port _dev : Nat) (_counter : BitVec 32) (s : State) : Host.Outcome State Fault Refusal :=
  .next (s.heartbeat port)
def execHeartbeatSend (port : Nat) (s : State) : Host.Outcome State Fault Refusal := .next (s.heartbeatSend port)
def execPeerSilent (port : Nat) (s : State) : Host.Outcome State Fault Refusal := .next (s.peerSilent port)
def execCalWindowOpen (port : Nat) (s : State) : Host.Outcome State Fault Refusal := .next (s.calOpen port)
def execCalWindowEnd (port : Nat) (adapted : Bool) (s : State) : Host.Outcome State Fault Refusal :=
  .next (s.calEnd port adapted)
def execLsLocked (port : Nat) (s : State) : Host.Outcome State Fault Refusal := .next (s.lsLock port)
def execLaneFailure (port lane : Nat) (s : State) : Host.Outcome State Fault Refusal := .next (s.laneFailure port lane)
def execLossOfSignal (port : Nat) (s : State) : Host.Outcome State Fault Refusal := .next (s.lossOfSignal port)
def execPortRetrain (port : Nat) (s : State) : Host.Outcome State Fault Refusal := .next (s.portRetrain port)
def execPortTrained (port peerId peerPort : Nat) (s : State) : Host.Outcome State Fault Refusal :=
  .next (s.portTrained port peerId peerPort)
def execPortAuthComplete (port : Nat) (peer : PeerAuth) (s : State) : Host.Outcome State Fault Refusal :=
  .next (s.portAuth port peer)
def execSpdmResponse (what : Asked) (reply : SpdmReply) (key : Option (BitVec 256)) (tableHash : Bytes) (s : State) :
    Host.Outcome State Fault Refusal := .next (s.spdmReply what reply key tableHash)
def execLinkKeyRollover (port : Nat) (key : BitVec 256) (s : State) : Host.Outcome State Fault Refusal :=
  .next (s.keyRollover port key)
def execEthRetryTimeout (port : Nat) (s : State) : Host.Outcome State Fault Refusal := .next (s.ethRetry port)

end Sys2Proof.Machine
end

