-- ==== Sys2Proof/Machine/Queue.lean ====
section
/-! DEFINITION. Sys2Proof/Machine/Queue.lean: the queue front end: taking, validating and starting descriptors, waits,
signals, completion records and their interrupts (R36, R43 to R49, R54, R58 to R63, R448, R449). -/
namespace Sys2Proof.Machine

/-! ### Taking a descriptor (R36, R448, R449) -/

/-- The ring slot of a sequence number. -/
def ringAt (base log2 entry k : Nat) : Nat := base + entry * ((k - 1) % 2 ^ log2)

/-- The last descriptor that has been dispatched: a descriptor that still waits has not (log 77). -/
def Queue.dispatched (u : Queue) : Nat := u.startedSeq - (u.runs.filter fun r => !r.waitDone).length

/-- The next descriptor made ready is taken; a slot that cannot be read faults the context. R36 does not say from where
`ahead of dispatch` is counted: the model counts from the last descriptor whose wait has been satisfied (DESIGN CHOICE,
log 91). -/
def State.takeNext (s : State) (g q : Nat) : State :=
  let u := s.queue g q
  let n := u.takenSeq + 1
  let r := s.queueRec g q
  if (s.ctx g).st == .active && !s.pwr.shutdown && u.st == .running && n ≤ u.tail && n ≤ u.dispatched + 32 then
    match s.readVa g (ringAt (recRingBase r) (recLog2 r) 64 n) 64 with
    | .ok d => s.modQueue g q fun u => { u with taken := u.taken ++ [{ seq := n, raw := d }], takenSeq := n }
    | .error e => s.faultCtx g q n e.status e.tile
  else s

/-! ### Validation (R54) -/

def isSync (action : Nat) (r : Run) : Bool := dOpcode r.raw == 0x50 && fld r.raw 20 1 == action

/-- The body of a SYNC (R43). -/
def syncBodyOk (d : Bytes) : Bool := fld d 16 2 + fld d 18 2 ≤ 4096 && fld d 20 1 ≤ 1 && zeroFrom d 21 64

/-- Check 4: the block and the tables read once, or why it fails. -/
def State.bodyCheck (s : State) (g : Nat) (d : Bytes) : Except Fail (Bytes × Bytes) :=
  match dOpcode d with
  | 0x30 => (s.putCheck g d).map (·, [])
  | 0x31 => (s.getCheck g d).map (·, [])
  | 0x32 => (s.recipeCheck g d).map (·, [])
  | 0x40 => s.collCheck g d
  | 0x48 => s.secureCheck g d
  | 0x50 => if syncBodyOk d then .ok ([], []) else .error { status := stBadField }
  | 0x51 => if zeroFrom d 16 64 then .ok ([], []) else .error { status := stBadField }
  | _ => (s.dataCheck g d).map (·, [])

/-- The checks of R54 in order. -/
def State.validate (s : State) (g : Nat) (d : Bytes) : Except Fail (Bytes × Bytes) :=
  if headerStatus d ≠ 0 then .error { status := headerStatus d } else s.bodyCheck g d

/-! ### Starting (R48, R49, R62) -/

/-- A securing operation or a step boundary holds the context's dispatch (R164, R358). -/
def Ctx.held (c : Ctx) : Bool :=
  c.secure.op.isSome || c.queues.any fun kv => kv.2.runs.any fun r => isBoundaryOp r.raw && r.ran

/-- A completion slot can be reserved (R62). -/
def Queue.slotFree (u : Queue) (log2 : Nat) : Bool := u.written - u.cqHead + u.reserved + 1 ≤ 2 ^ log2 - 1

/-- Fences, the limit of R48 and the completion slot let the next descriptor start. -/
def Queue.mayStart (u : Queue) (log2 : Nat) (d : Bytes) : Bool :=
  u.st == .running && u.runs.length < 64 && u.runs.all (·.waitDone) && !(u.runs.any fun r => dFenceAfter r.raw) &&
  (!dFenceBefore d || u.runs.isEmpty) && (!dComplete d || u.slotFree log2)

/-- The descriptor at the head of its queue is validated; a failed check is its job fault. R54 puts the checks before the
wait and says no more of when they are made: the model makes them once the completion slot and the fences are clear
(DESIGN CHOICE, log 91). -/
def State.startNext (s : State) (g q : Nat) : State :=
  let u := s.queue g q
  match u.taken with
  | [] => s
  | d :: rest =>
    if (s.ctx g).st == .active && !s.pwr.shutdown && !(s.ctx g).held && u.mayStart (recLog2 (s.queueRec g q)) d.raw then
      let kept := dComplete d.raw
      let start (blk : Bytes × Bytes) : State :=
        s.modQueue g q fun u =>
          { u with
            taken := rest, startedSeq := d.seq
            runs := u.runs ++ [{ seq := d.seq, raw := d.raw, block := blk.1, table := blk.2, headAt := u.headAt,
                                 slotKept := kept }]
            reserved := if kept then u.reserved + 1 else u.reserved }
      match s.validate g d.raw with
      | .ok blk => start blk
      | .error e => (start ([], [])).jobFault g q d.seq e.status e.tile
    else s

/-! ### Waits (R45, R47) -/

/-- Opcodes that run on engines or in the front end and have no work tiles on cores. -/
def engineOps : List Nat := [0x01, 0x02, 0x30, 0x31, 0x32, 0x40, 0x48, 0x50, 0x51]

/-- What start fixes of a descriptor: its work tiles on cores and the formats of G and dX (R158). -/
def State.fixRun (s : State) (g : Nat) (r : Run) : Except Fail (Nat × ((Nat × Int) × (Nat × Int))) := do
  let n ← if engineOps.contains (dOpcode r.raw) then .ok 0 else s.dataTiles g r.raw r.block
  let f ← if dOpcode r.raw = 0x11 then s.bwdForce g r.block else .ok ((0, 0), (0, 0))
  return (n, f)

/-- What a context keeps of a started descriptor: the order of KV descriptors (R224), the gets of a handle (R194). -/
def State.noteStart (s : State) (g q seq : Nat) (d : Bytes) : State :=
  match dOpcode d with
  | 0x22 | 0x23 | 0x24 => s.modCtx g fun c => { c with kv := { c.kv with order := c.kv.order ++ [(q, seq)] } }
  | 0x31 => s.modStash g fun t => { t with getsBegun := true, gets := t.gets ++ [(putHandle d, q, seq)] }
  | _ => s

/-- The descriptor's work begins; one of a core's opcodes without work tiles has nothing to do. The next descriptor of the
queue is at its head from here on (R47). -/
def State.release1 (s : State) (g q seq : Nat) (r : Run) : State :=
  match s.fixRun g r with
  | .error e => s.jobFault g q seq e.status e.tile
  | .ok (n, gg, gd) =>
    let now := s.ctxTime g
    let s := s.modRun g q seq fun r =>
      { r with waitDone := true, waitAt := now, haloAt := some now, tiles := n, govG := gg, govDx := gd
               ran := n == 0 && !engineOps.contains (dOpcode r.raw) && !isBoundaryOp r.raw }
    (s.modQueue g q fun u => { u with headAt := now }).noteStart g q seq r.raw

/-- Whether the wait of a run may be evaluated: every earlier descriptor of the queue has started, and with
FENCE_BEFORE has finished. -/
def Queue.mayWait (u : Queue) (r : Run) : Bool :=
  let earlier := u.runs.filter fun o => o.seq < r.seq
  earlier.all (fun o => o.waitDone && !dFenceAfter o.raw) && (!dFenceBefore r.raw || earlier.isEmpty)

/-- Whether a started descriptor still waits in an ACTIVE context. -/
def State.waitingRun (s : State) (g q seq : Nat) : Option Run :=
  match s.run g q seq with
  | some r => if (s.ctx g).st == .active && !s.pwr.shutdown && !r.waitDone && (s.queue g q).mayWait r then some r else none
  | none => none

def State.waitOk (s : State) (g : Nat) (d : Bytes) : Bool := waitMet (dWaitOp d) (s.counter g (dWaitCtr d)) (dWaitValue d)

def State.waitSatisfied (s : State) (g q seq : Nat) : State :=
  match s.waitingRun g q seq with
  | some r => if !(s.ctx g).held && s.waitOk g r.raw then s.release1 g q seq r else s
  | none => s

def State.waitTimeout (s : State) (g q seq : Nat) : State :=
  match s.waitingRun g q seq with
  | some r =>
    if !s.waitOk g r.raw && r.headAt + recWaitLimit (s.forceRec g q) * 1000000 ≤ s.ctxTime g then
      s.jobFault g q seq stWaitTimeout 0
    else s
  | none => s

/-! ### SYNC and NOP (R43) -/

def State.clearCounters (s : State) (g first n : Nat) : State :=
  (List.range n).foldl (fun s i => s.setCounter g (first + i) 0) s

def State.frontRow (s : State) (g q seq : Nat) (kind : Run → Bool) (f : State → Bytes → State) : State :=
  match s.frontGate g q seq kind with
  | some r => (f s r.raw).ranWith g q seq stDone
  | none => s

/-! ### Finishing (R46, R64) -/

/-- Signal, then the record held: the descriptor has finished. -/
def State.complete (s : State) (g q seq : Nat) (r : Run) : State :=
  let s := if chargedOps.contains (dOpcode r.raw) then s.chargeBusy g (s.ctxTime g - r.waitAt) else s
  let s := s.signal g (dSignalOp r.raw) (dSignalCtr r.raw) (dSignalInc r.raw)
  s.finish g q seq r.status

/-- Whether a descriptor's last work tile has finished: all of those on cores, and what an engine or the front end does. -/
def Run.over (r : Run) : Bool :=
  r.waitDone && !r.aborting && r.onCores == 0 && r.done.length == r.tiles && (r.tiles != 0 || r.ran)

def State.descriptorFinish (s : State) (g q seq : Nat) : State :=
  match s.run g q seq with
  | some r =>
    if (s.ctx g).st == .active && !s.pwr.shutdown && r.over then
      if dOpcode r.raw = 0x31 then
        match s.endGet g q seq r.raw with
        | (s, none) => s.complete g q seq r
        | (s, some e) => s.jobFault g q seq e.status e.tile
      else s.complete g q seq r
    else s
  | none => s

/-! ### Completion records (R58 to R63) -/

/-- The next record due: the lowest of those held. -/
def Queue.nextDue (u : Queue) : Option HeldRec :=
  (u.held.filter (·.due)).foldl
    (fun a h => match a with | some b => if h.seq < b.seq then some h else some b | none => some h) none

/-- The 32 bytes of a record (R58), with the new phase. -/
def recordBytes (h : HeldRec) (phase busyNs : Nat) : Bytes :=
  leBytes 8 h.seq ++ leBytes 4 h.tag.toNat ++ leBytes 1 h.status ++ leBytes 1 phase ++ zeros 2 ++ leBytes 8 h.endNs ++
  leBytes 8 busyNs

/-- The phase of the k-th record (R59). -/
def phaseOf (k log2 : Nat) : Nat := if ((k - 1) / 2 ^ log2) % 2 = 0 then 1 else 0

/-- The queue's vector raised on its interface (R63). -/
def State.raiseQueue (s : State) (g q : Nat) : State :=
  let r := s.forceRec g q
  (s.raiseFor (partOfCtx g) (recHostSel r) (recVector r)).modQueue g q fun u =>
    { u with lastInt := some (s.ctxTime g), intDue := false, inForce := if u.st == .disabled then none else u.inForce }

/-- Whether the holdoff of the queue's last interrupt is over. -/
def State.holdoffOver (s : State) (g q : Nat) : Bool :=
  match (s.queue g q).lastInt with
  | some t => t + recHoldoff (s.forceRec g q) * 1000 ≤ s.ctxTime g
  | none => true

def State.interrupt (s : State) (g q : Nat) : State :=
  if s.holdoffOver g q then s.raiseQueue g q else s.modQueue g q fun u => { u with intDue := true }

/-- The record leaves the queue, written or lost. -/
def Queue.dropRec (u : Queue) (h : HeldRec) (wrote : Bool) : Queue :=
  { u with
    held := u.held.filter fun o => h.seq < o.seq
    written := if wrote then u.written + 1 else u.written
    reserved := if h.kept then u.reserved - 1 else u.reserved }

/-- A record in its slot: 32 bytes with the complement of the new phase, then byte 13 alone with the phase (R60). -/
def State.putRecord (s : State) (g slot : Nat) (h : HeldRec) (phase : Nat) : State × Option Fail :=
  match s.writeVa g slot (recordBytes h (1 - phase) (s.ctx g).busyNs) with
  | (s', some e) => (s', some e)
  | (s', none) => s'.writeVa g (slot + 13) (leBytes 1 phase)

/-- One record written to its slot; on a lost host it is dropped, on an unmapped slot the context faults too. -/
def State.writeRec (s : State) (g q : Nat) (h : HeldRec) : State :=
  let u := s.queue g q
  let r := s.forceRec g q
  let k := u.written + 1
  match s.putRecord g (ringAt (recCplBase r) (recLog2 r) 32 k) h (phaseOf k (recLog2 r)) with
  | (s, none) => ((s.modQueue g q fun u => u.dropRec h true).interrupt g q).modQueue g q Queue.settle
  | (_, some e) =>
    let s := s.modQueue g q fun u => u.dropRec h false
    let s := if e.status = stBadAddress && (s.ctx g).st == .active then s.faultCtx g q h.seq e.status 0 else s
    s.modQueue g q Queue.settle

/-- Whether the slot of a queue's next record lies in host memory. -/
def State.recordsToHost (s : State) (g q : Nat) : Bool :=
  let r := s.forceRec g q
  match s.xlate g (ringAt (recCplBase r) (recLog2 r) 32 ((s.queue g q).written + 1)) with
  | some x => x.host
  | none => false

/-- The records now due are lost: not written, either then or later (R57). -/
def Queue.loseRecs (u : Queue) : Queue :=
  Queue.settle ((u.held.filter fun h => h.due && h.seq ≤ u.finished).foldl (fun u h => u.dropRec h false) u)

/-- The records due to a context's completion rings in host memory are lost. -/
def State.loseRecs (s : State) (g : Nat) : State :=
  ((List.range 8).filter (s.recordsToHost g)).foldl (fun s q => s.modQueue g q Queue.loseRecs) s

def State.recordWrite (s : State) (g q : Nat) : State :=
  let u := s.queue g q
  match u.nextDue with
  | some h =>
    if ((s.ctx g).st == .active || (s.ctx g).st == .faulted) && !s.pwr.shutdown && h.seq ≤ u.finished &&
        u.written - u.cqHead < 2 ^ recLog2 (s.forceRec g q) then s.writeRec g q h
    else s
  | none => s

def State.holdoffExpiry (s : State) (g q : Nat) : State :=
  if (s.queue g q).intDue && s.holdoffOver g q then s.raiseQueue g q else s

/-! ### The commands -/

def execDescriptorTake (g q : Nat) (s : State) : Host.Outcome State Fault Refusal := .next (s.takeNext g q)
def execDescriptorStart (g q : Nat) (s : State) : Host.Outcome State Fault Refusal := .next (s.startNext g q)
def execWaitSatisfied (g q seq : Nat) (s : State) : Host.Outcome State Fault Refusal := .next (s.waitSatisfied g q seq)
def execWaitTimeout (g q seq : Nat) (s : State) : Host.Outcome State Fault Refusal := .next (s.waitTimeout g q seq)
def execDescriptorFinish (g q seq : Nat) (s : State) : Host.Outcome State Fault Refusal := .next (s.descriptorFinish g q seq)
def execCompletionRecordWrite (g q : Nat) (s : State) : Host.Outcome State Fault Refusal := .next (s.recordWrite g q)
def execIntHoldoffExpiry (g q : Nat) (s : State) : Host.Outcome State Fault Refusal := .next (s.holdoffExpiry g q)
def execSync (g q seq : Nat) (s : State) : Host.Outcome State Fault Refusal :=
  .next (s.frontRow g q seq (isSync 0) fun s _ => s)
def execSyncClear (g q seq : Nat) (s : State) : Host.Outcome State Fault Refusal :=
  .next (s.frontRow g q seq (isSync 1) fun s d => s.clearCounters g (fld d 16 2) (fld d 18 2))
def execNop (g q seq : Nat) (s : State) : Host.Outcome State Fault Refusal :=
  .next (s.frontRow g q seq (isOp 0x51) fun s _ => s)

end Sys2Proof.Machine
end

