-- ==== Sys2Proof/Machine/Tiles.lean ====
section
/-! DEFINITION. Sys2Proof/Machine/Tiles.lean: work tiles on cores: the choice of R336 and R52, pips (R414 to R419), the end of
a work tile, the watchdog (R339), halo waits (R210) and the cyclic schedule (R333 to R335, R338). -/
namespace Sys2Proof.Machine

/-! ### Cost (R414, R415) -/

/-- The base cost of a multiply mode: classes A, B and C. -/
def modeCost (k : Option Nat) : Nat :=
  match k with
  | some 4 => 9
  | some 8 => 11
  | some _ => 13
  | none => 6

/-- DIST and ATTN have no class A row: their narrow formats run in the k = 8 modes. -/
def pairCost (wide : Bool) : Nat := if wide then 9 else 11

/-- The base cost of one work tile of a GEMM_BWD, in the formats in force (R158): a pair is charged its costlier product. -/
def bwdCost (blk : Bytes) (gg gd : Nat × Int) (idx : Nat) : Nat :=
  match bwdBody blk gg gd with
  | some b =>
    let dx := modeCost (bwdK b.g.fmt b.w.fmt)
    let dw := modeCost (bwdK b.g.fmt b.x.fmt)
    if idx < 2 * min b.dxTiles b.dwTiles then max dx dw
    else if b.dwTiles < b.dxTiles then dx
    else dw
  | none => 6

/-- The base cost of a work tile; the formats in force matter to a GEMM_BWD alone. -/
def tileBase (d blk : Bytes) (gg gd : Nat × Int) (idx : Nat) : Nat :=
  match dOpcode d with
  | 0x10 => match gemmBody d with | some b => modeCost (modeK b.x.fmt b.w.fmt) | none => 6
  | 0x11 => bwdCost blk gg gd idx
  | 0x12 => match distBody d with | some b => pairCost (isWide b.x.fmt) | none => 6
  | 0x18 =>
    match convBody false blk with
    | some c => modeCost (if c.mode = 0 then modeK c.x.fmt c.w.fmt else bwdK c.x.fmt c.w.fmt)
    | none => 6
  | 0x20 | 0x21 => match attnBody blk with | some a => pairCost (isWide a.qFmt) | none => 6
  | 0x22 | 0x23 | 0x24 => 3
  | _ => 6

/-- Rail voltage of a core clock, in mV. -/
def railMv (mhz : Nat) : Nat :=
  if mhz ≤ 600 then 600 else if mhz ≤ 750 then 650 else if mhz ≤ 900 then 700 else if mhz ≤ 1000 then 750 else 800

/-- The cost of a base cost at a core clock. -/
def costAt (base mhz : Nat) : Nat := ceilDiv (base * mhz * railMv mhz ^ 2) 562500000

/-- The core clock of a die: CORE_MHZ under the thermal cap (R423). -/
def State.clockOf (s : State) (d : Nat) : Nat := min (s.cfg (0x2400 + d) 1) (s.die d).cap

/-! ### What may be dispatched (R53, R207, R210) -/

/-- The next work tile of a run: one returned to the head of its dispatch, else the next in order. -/
def Run.next (r : Run) : Option Nat :=
  match r.back with
  | t :: _ => some t
  | [] => if r.nextTile < r.tiles then some r.nextTile else none

/-- Whether a work tile of a descriptor waits for no halo rows. -/
def State.haloMet (s : State) (g : Nat) (d blk : Bytes) (t : Nat) : Bool :=
  let op := dOpcode d
  if op = 0x18 ∨ op = 0x19 then
    let need := convNeeds (op == 0x19) blk t
    match convBody (op == 0x19) blk with
    | some c => need == 0 || waitMet 1 (s.counter g c.haloCtr) need
    | none => true
  else true

/-- Whether a work tile of a run does. -/
def State.haloOk (s : State) (g : Nat) (r : Run) (t : Nat) : Bool := s.haloMet g r.raw r.block t

/-- The dispatchable work tile of a replay: its copies wait for halo rows as the descriptors do (R41 drops only the WAIT and
SIGNAL fields). -/
def State.replayReady (s : State) (g : Nat) (x : Spec) : Option Nat :=
  match x.next, x.step with
  | some t, some (d, _) => if s.haloMet g d x.block t then some t else none
  | _, _ => none

/-- The replay a get waits for (R187, R190). -/
def State.replayFor (s : State) (g q seq : Nat) : Option Spec := (s.ctx g).stash.specs.find? fun x => x.owner == some (q, seq)

/-- The dispatchable work tile of a run; of a get, that of the replay it waits for. -/
def State.readyTile (s : State) (g q : Nat) (r : Run) : Option Nat :=
  if r.waitDone && !r.aborting then
    if dOpcode r.raw = 0x31 then (s.replayFor g q r.seq).bind (s.replayReady g)
    else
      match r.next with
      | some t => if s.haloOk g r t then some t else none
      | none => none
  else none

/-- The earliest started descriptor of a queue with a dispatchable work tile. -/
def State.readyIn (s : State) (g q : Nat) : Option (Run × Nat) :=
  (s.queue g q).runs.findSome? fun r => (s.readyTile g q r).map fun t => (r, t)

/-- The queues of a context that have one, and of those the ones of the highest QUEUE_PRIO (R52). -/
def State.bestQueues (s : State) (g : Nat) : List Nat :=
  let qs := (List.range 8).filter fun q => (s.readyIn g q).isSome
  let top := qs.foldl (fun m q => max m (recPrio (s.forceRec g q))) 0
  qs.filter fun q => recPrio (s.forceRec g q) == top

/-- Whether the pair whose dX work tile a core has run still waits for its dW work tile (R148). -/
def State.pairLive (s : State) (c : Nat) : Option (Nat × Nat × Nat × Nat) :=
  match (s.core c).pair with
  | some (g, q, seq, t) =>
    match s.run g q seq with
    | some r => if (s.ctx g).st == .active && !r.aborting then some (g, q, seq, t) else none
    | none => none
  | none => none

/-- Whether a context has a dispatchable work tile for a core. -/
def State.hasTile (s : State) (c g : Nat) : Bool :=
  (s.ctx g).st == .active &&
    ((List.range 8).any (fun q => (s.readyIn g q).isSome) || (match s.pairLive c with | some x => x.1 == g | none => false))

/-! ### Slots (R334) -/

structure Slot where
  start : Nat
  len : Nat
  n : Nat
  cores : Nat
  lend : Bool
  mask : Nat
  deriving DecidableEq, Repr

def slotOf (table : Bytes) (i : Nat) : Slot :=
  { start := fld table (16 * i) 4, len := fld table (16 * i + 4) 4, n := fld table (16 * i + 8) 1
    cores := fld table (16 * i + 9) 1 % 32, lend := (fld table (16 * i + 9) 1).testBit 5, mask := fld table (16 * i + 10) 1 }

/-! ### The choice of R336 -/

/-- Of the contexts of a die that meet a condition, the one an unassigned core serves: highest PRIORITY, ties in turn after
the one the die last served. -/
def State.bestCtx (s : State) (d : Nat) (ok : Nat → Bool) : Option Nat :=
  let gs := (ctxsOfPart (s.partOfDie d)).filter ok
  let prio (g : Nat) : Nat := s.cfg (0x3600 + g) 5
  let top := gs.foldl (fun m g => max m (prio g)) 0
  inTurnAfter (mapGet 511 (s.die d).lastServed top) (gs.filter fun g => prio g == top)

def State.freeChoice (s : State) (c : Nat) : Option Nat := s.bestCtx (dieOfCore c) (s.hasTile c)

/-- The context a core takes its next work tile from, and whether it was chosen as an unassigned core chooses. -/
def State.choice (s : State) (c : Nat) : Option (Nat × Bool) :=
  let p := s.partOfDie (dieOfCore c)
  match (s.core c).slot with
  | none => (s.freeChoice c).map fun g => (g, true)
  | some i =>
    let sl := slotOf (s.part p).tableInForce i
    let g := 64 * p + sl.n
    if s.hasTile c g then some (g, false)
    else if sl.lend then (s.freeChoice c).map fun g => (g, true)
    else none

/-- A speculative replay of a context with a work tile to run. -/
def State.specReady (s : State) (g : Nat) : Option Spec :=
  if (s.ctx g).st == .active then (s.ctx g).stash.specs.find? fun x => x.owner.isNone && (s.replayReady g x).isSome else none

/-- The context whose speculative replay a core takes when R336 leaves it idle (R189): its slot's, or as an unassigned core
chooses. -/
def State.specChoice (s : State) (c : Nat) : Option Nat :=
  let any := s.bestCtx (dieOfCore c) fun g => (s.specReady g).isSome
  match (s.core c).slot with
  | none => any
  | some i =>
    let sl := slotOf (s.part (s.partOfDie (dieOfCore c))).tableInForce i
    let g := 64 * s.partOfDie (dieOfCore c) + sl.n
    if (s.specReady g).isSome then some g else if sl.lend then any else none

/-! ### Taking a work tile -/

/-- Bytes of output tiles of TILE_M rows by 64 columns (R118, R119). -/
def outTileBytes (nb m bytes : Nat) : Nat := nb * (m * 64 * bytes)

/-- The accumulator bytes of a GEMM_BWD work tile: of a pair dX lies in the lower half and dW in the upper (R149). -/
def bwdAcc (blk : Bytes) (gg gd : Nat × Int) (idx : Nat) : Nat × Nat :=
  match bwdBody blk gg gd with
  | some b =>
    match b.part idx with
    | .dx _ => (0, outTileBytes b.dxTileNb b.dxTileM 4)
    | .dw _ => (if b.products = 0 then 262144 else 0, outTileBytes b.dwTileNb b.dwTileM 4)
  | none => (0, 0)

/-- The offset and the bytes of the output tiles that a work tile holds in the accumulator (R118 to R120, R145, R149, R202). The
spec gives DIST no TILE_NB: the model holds one output tile for the block of candidates in hand, and none where the grid folds,
whose bands pass on to the drain (DESIGN CHOICE, log 8). -/
def tileAcc (d blk : Bytes) (gg gd : Nat × Int) (idx : Nat) : Nat × Nat :=
  match dOpcode d with
  | 0x10 => match gemmBody d with | some b => (0, outTileBytes b.tileNb b.tileM (accBytes b.acc)) | none => (0, 0)
  | 0x11 => bwdAcc blk gg gd idx
  | 0x12 => match distBody d with | some b => (0, if b.bands = 1 then outTileBytes 1 b.tileM 4 else 0) | none => (0, 0)
  | 0x18 =>
    match convBody false blk with
    | some c => (0, outTileBytes c.tileNb c.tileM (if c.mode = 2 then 4 else accBytes c.acc))
    | none => (0, 0)
  | _ => (0, 0)

/-- A droop calibration step ends, and its pips return (R422). -/
def State.endCal (s : State) (c : Nat) : State :=
  match (s.core c).cal with
  | none => s
  | some n =>
    (s.modCore c fun k => { k with cal := none }).modDie (dieOfCore c) fun d => { d with granted := d.granted - n }

/-- What is run: a descriptor, its block, and the formats in force where it is a GEMM_BWD (R158). -/
structure Job where
  d : Bytes
  blk : Bytes
  gg : Nat × Int := (0, 0)
  gd : Nat × Int := (0, 0)
  deriving DecidableEq, Repr

def Run.job (r : Run) : Job := { d := r.raw, blk := r.block, gg := r.govG, gd := r.govDx }

/-- The work tile that a core takes, at the core's present clock, which it keeps within the work tile (R416, R423). -/
def State.newTile (s : State) (c g q seq t : Nat) (j : Job) (replay : Option Nat) : TileRun :=
  let base := tileBase j.d j.blk j.gg j.gd t
  let mhz := s.clockOf (dieOfCore c)
  { g := g, q := q, seq := seq, idx := t, replay := replay, base := base, cost := costAt base mhz, mhz := mhz
    askedAt := s.now, takenAt := s.ctxTime g }

/-- Whether the request of core b goes before one that core c makes now: it came earlier, or at the same instant from a core
of a lower number (R416). -/
def State.asksBefore (s : State) (c b : Nat) : Bool :=
  match (s.core b).tile with
  | some t => t.askedAt < s.now || (t.askedAt == s.now && b < c)
  | none => true

/-- A core's request put into its die's list. -/
def State.enlist (s : State) (c : Nat) : State :=
  s.modDie (dieOfCore c) fun d =>
    { d with waiting := d.waiting.takeWhile (s.asksBefore c) ++ c :: d.waiting.dropWhile (s.asksBefore c) }

/-- A core asks its ledger for the pips of a work tile, of a replay where it has one (R416). The accumulator's output tiles
are allocated to it (R120). -/
def State.ask (s : State) (c g q seq t : Nat) (j : Job) (replay : Option Nat) : State :=
  let acc := tileAcc j.d j.blk j.gg j.gd t
  let s := (s.enlist c).modCore c fun k =>
    { k with tile := some (s.newTile c g q seq t j replay), idleNs := 0, accAt := acc.1, accHeld := acc.2 }
  s.modRun g q seq fun r => { r with onCores := r.onCores + 1 }

/-- A work tile of a replay taken for a queue and sequence number: those of the get it is for, if any. -/
def State.takeReplay (s : State) (c g q seq : Nat) (x : Spec) : State :=
  match x.next, x.step with
  | some t, some (d, _) => (s.modSpec g x.no (Spec.claim (s.ctxTime g))).ask c g q seq t { d := d, blk := x.block } (some x.no)
  | _, _ => s

/-- The tile taken from a run, and with it the dW work tile of a pair. -/
def Run.claim (r : Run) (t now : Nat) : Run × Option Nat :=
  let paired := dOpcode r.raw == 0x11 && t % 2 == 0 && t < bwdPaired r.block
  let r := { r with haloAt := some now }
  match r.back with
  | _ :: rest =>
    if paired && rest.contains (t + 1) then ({ r with back := rest.erase (t + 1) }, some (t + 1))
    else ({ r with back := rest }, none)
  | [] => if paired then ({ r with nextTile := t + 2 }, some (t + 1)) else ({ r with nextTile := t + 1 }, none)

/-- The work tile R52 chooses in a context. -/
def State.takeFrom (s : State) (c g : Nat) : State :=
  match inTurnAfter (s.ctx g).lastQueue (s.bestQueues g) with
  | none => s
  | some q =>
    match s.readyIn g q with
    | none => s
    | some (r, t) =>
      let s := s.modCtx g fun x => { x with lastQueue := q }
      match if dOpcode r.raw = 0x31 then s.replayFor g q r.seq else none with
      | some x => s.takeReplay c g q r.seq x
      | none =>
        let k := r.claim t (s.ctxTime g)
        let s := s.modRun g q r.seq fun _ => k.1
        let s := s.modCore c fun x => { x with pair := k.2.map fun w => (g, q, r.seq, w) }
        s.ask c g q r.seq t r.job none

/-- A pair the core gives up: its dW work tile returns to the head of its descriptor's dispatch. -/
def State.dropPair (s : State) (c : Nat) : State :=
  match (s.core c).pair with
  | none => s
  | some (g, q, seq, t) =>
    (s.modCore c fun x => { x with pair := none }).modRun g q seq fun r => { r with back := t :: r.back }

def State.takePair (s : State) (c g q seq t : Nat) : State :=
  match s.run g q seq with
  | some r => (s.modCore c fun x => { x with pair := none }).ask c g q r.seq t r.job none
  | none => s

/-- Whether a core may take work: active, not fenced, powered, in a READY partition, and between work tiles. R120 lets a
core preload its next work tile while an earlier one drains; in this model it never does (DESIGN CHOICE, log 8). -/
def State.coreFree (s : State) (c : Nat) : Bool :=
  s.isActive c && !s.isFenced c && (s.domain c).st == 2 && (s.part (s.partOfDie (dieOfCore c))).st == .ready &&
  (s.core c).tile.isNone

def State.served (s : State) (c g : Nat) (free : Bool) : State :=
  if free then
    s.modDie (dieOfCore c) fun d => { d with lastServed := mapSet d.lastServed (s.cfg (0x3600 + g) 5) g }
  else s

/-- A core that R336 leaves idle: its pair's dW work tile is given up (R148), and it takes a speculative work tile, if there
is one (R189). -/
def State.idleSelect (s : State) (c : Nat) : State :=
  let s := s.dropPair c
  match s.specChoice c with
  | none => s
  | some g =>
    match s.specReady g with
    | some x => (s.endCal c).takeReplay c g 8 0 x
    | none => s

def State.tileSelect (s : State) (c : Nat) : State :=
  if !s.coreFree c then s
  else
    match s.choice c with
    | none => s.idleSelect c
    | some (g, free) =>
      let s := (s.endCal c).served c g free
      match s.pairLive c with
      | some (g', q, seq, t) => if g' = g then s.takePair c g q seq t else (s.dropPair c).takeFrom c g
      | none => (s.modCore c fun x => { x with pair := none }).takeFrom c g

/-! ### Grants (R416, R418) -/

/-- The request a die's ledger serves next: those of slot-assigned cores go ahead of all others. -/
def State.nextWaiting (s : State) (d : Nat) : Option Nat :=
  match (s.die d).waiting.find? fun c => (s.core c).slot.isSome with
  | some c => some c
  | none => (s.die d).waiting.head?

/-- Whether a die may grant n pips. -/
def Die.mayGrant (x : Die) (n : Nat) : Bool := x.granted + n ≤ x.allot && x.granted + n + x.ramped ≤ x.intervalBase + 25

/-- Whether the interval of R418 that the ledgers are in is the present one: before they have taken its start up, nothing is
granted (DESIGN CHOICE, log 97). -/
def State.rampNow (s : State) : Bool := s.pwr.rampedAt == some (s.now / 10000)

/-- What a core's work tile is of: a replay's chain descriptor, or a started descriptor. -/
def State.jobOf (s : State) (t : TileRun) : Option Job :=
  match t.replay with
  | some no => (s.specNo t.g no).bind fun x => x.step.map fun st => { d := st.1, blk := x.block }
  | none => (s.run t.g t.q t.seq).map Run.job

/-- A work tile that reads the paged cache registers as a walker at its start, a replay's too (R224). -/
def State.registerWalkers (s : State) (c : Nat) (t : TileRun) : State :=
  match s.jobOf t with
  | none => s
  | some j =>
    if dOpcode j.d ≠ 0x20 then s
    else
      (s.attnSeqs t.g j.blk t.idx).foldl
        (fun s n =>
          match s.readVa t.g (s.seqAddr t.g n) 64 with
          | .ok b =>
            s.modKv t.g fun k =>
              { k with walkers := k.walkers ++
                  [{ core := c, q := t.q, seq := t.seq, tile := t.idx, epoch := k.epoch, seqNo := n, table := (seqOf b).table
                     rows := (seqOf b).rows, st := (seqOf b).st }] }
          | .error _ => s) s

/-- SLOT_LATE (R338) where a core that waited for its first work tile of a slot has taken longer than 20 µs. -/
def State.countLate (s : State) (p c : Nat) : State :=
  match (s.core c).slotAt with
  | none => s
  | some t => if t + 20000 < s.partTime p then s.modPart p fun x => { x with slotLate := satAdd 32 x.slotLate 1 } else s

/-- The first work tile that a core begins in its slot. -/
def State.noteLate (s : State) (c g : Nat) : State :=
  let p := partOfCtx g
  let mine := match (s.core c).slot with | some i => 64 * p + (slotOf (s.part p).tableInForce i).n == g | none => false
  if mine then (s.countLate p c).modCore c fun k => { k with slotAt := none } else s

/-- The work tile starts at the grant; a core that last ran another context's clears its memories to zero first, and from here
on they are its context's (R337). -/
def State.startTile (s : State) (d c : Nat) (t : TileRun) : State :=
  let s := s.modDie d fun x => { x with granted := x.granted + t.cost, waiting := x.waiting.filter (· != c) }
  let s := s.modCore c fun k =>
    { k with tile := some { t with startAt := some (s.ctxTime t.g) }, residue := some t.g
             mem := if k.residue = some t.g then k.mem else {} }
  (s.noteLate c t.g).registerWalkers c t

def State.pipGrant (s : State) (d : Nat) : State :=
  match s.nextWaiting d with
  | none => s
  | some c =>
    match (s.core c).tile with
    | some t => if s.rampNow && (s.die d).mayGrant t.cost then s.startTile d c t else s
    | none => s

/-! ### The end of a work tile -/

/-- Leading row blocks whose work tiles have all finished (R209). -/
def leadingBlocks (ng : Nat) (done : List Nat) : Nat → Nat → Nat
  | 0, n => n
  | fuel + 1, n => if (List.range ng).all fun i => done.contains (n * ng + i) then leadingBlocks ng done fuel (n + 1) else n

/-- The watermark of a CONV with PROGRESS, set into its counter each time it rises. -/
def State.noteProgress (s : State) (g q seq : Nat) (r : Run) : State :=
  let op := dOpcode r.raw
  if op ≠ 0x18 ∧ op ≠ 0x19 then s
  else
    match convBody (op == 0x19) r.block with
    | none => s
    | some c =>
      let w := leadingBlocks (c.groups (op == 0x19)) r.done c.rowBlocks 0
      if c.progress && r.watermark < w then
        (s.modRun g q seq fun r => { r with watermark := w }).signal g 2 c.progressCtr w
      else s

/-- The tallies of a finished work tile merged into their slots (R156). -/
def State.mergeTile (s : State) (g : Nat) (ts : List Tally) : State × Option Fail :=
  inTurn (fun s t => s.mergeTally g t) s ts

/-- A run that stops finishes ABORTED once none of its work tiles is on a core. -/
def State.abortNow (s : State) (g q : Nat) : State := s.modQueue g q (abortIdle (s.ctxTime g))

/-- The finished work tile accounted to its descriptor: its tallies merged, whether or not the descriptor is stopping
(R156). -/
def State.tileDone (s : State) (t : TileRun) (r : Run) : State :=
  let s := s.modRun t.g t.q t.seq fun r => { r with onCores := r.onCores - 1, done := t.idx :: r.done }
  match s.mergeTile t.g (r.tallies.filter fun y => y.tile == t.idx) with
  | (s, some e) => if r.aborting then s.abortNow t.g t.q else s.jobFault t.g t.q t.seq e.status e.tile
  | (s, none) => if r.aborting then s.abortNow t.g t.q else s.noteProgress t.g t.q t.seq { r with done := t.idx :: r.done }

/-- A replay's work tile at its end on core c, with the snapshots that it registered: its effect carried out; in a context that
is no longer ACTIVE, its writes only (R56, R332). -/
def State.replayEnd (s : State) (c : Nat) (ws : List Walker) (t : TileRun) (no : Nat) : State :=
  let s := s.modRun t.g t.q t.seq fun r => { r with onCores := r.onCores - 1 }
  match s.specNo t.g no with
  | none => s.abortNow t.g t.q
  | some x =>
    if (s.ctx t.g).st == .active then s.replayTile c t.g x ws t.idx
    else
      match x.step with
      | some (d, out) => (s.chainTile c t.g d x.block out ws t.idx).1.abortNow t.g t.q
      | none => s.abortNow t.g t.q

/-- A work tile ends once it has been carried out; where its context no longer works, it ends as it is (R332). -/
def State.tileEnd (s : State) (c : Nat) : State :=
  match (s.core c).tile with
  | none => s
  | some t =>
    if t.startAt.isNone then s
    else if !s.working t.g then s.leaveTile c t
    else
      match t.replay, s.run t.g t.q t.seq with
      | some no, _ => (s.leaveTile c t).replayEnd c ((s.ctx t.g).kv.walkers.filter fun w => w.core == c) t no
      | none, none => s.leaveTile c t
      | none, some r => if r.carried.contains t.idx then (s.leaveTile c t).tileDone t r else s

/-! ### The watchdog (R339) and the halo limit (R210) -/

/-- Run time of a granted work tile: waits of R225 and R226 left out. -/
def State.runTime (s : State) (c : Nat) (t : TileRun) (startAt : Nat) : Nat :=
  let kv := (s.ctx t.g).kv
  let waits := kv.waiting == some (.alloc t.q t.seq) || kv.waiting == some (.buffer t.q t.seq)
  (if waits then kv.waitAt else s.ctxTime t.g) - startAt - (s.core c).idleNs

/-- What a work tile that ran too long does to what it belongs to: its descriptor faults; a speculative replay is discarded
(R339, R190). -/
def State.overtime (s : State) (t : TileRun) : State :=
  match t.replay.bind (s.specNo t.g) with
  | some x => if x.owner.isNone then s.dropSpec t.g x.handle else s.replayFail t.g x { status := stWatchdog }
  | none => if t.replay.isNone then s.jobFault t.g t.q t.seq stWatchdog 0 else s

def State.watchdog (s : State) (c : Nat) : State :=
  match (s.core c).tile with
  | none => s
  | some t =>
    match t.startAt with
    | none => s
    | some a =>
      if s.runTime c t a ≤ 200000 then s
      else
        let s := s.stopTile c t
        if (s.ctx t.g).st == .active then s.overtime t else s.abortNow t.g t.q

/-- Whether a work tile that became the next one at a partition time has waited for halo rows as long as its queue allows. -/
def State.haloLate (s : State) (g q : Nat) (d blk : Bytes) (t at' : Nat) : Bool :=
  !s.haloMet g d blk t && at' + recWaitLimit (s.forceRec g q) * 1000000 ≤ s.ctxTime g

/-- The halo limit of a get's replay: the get faults with it (R193). A speculative replay has no queue, and no limit (DESIGN
CHOICE, log 98). -/
def State.haloReplay (s : State) (g q : Nat) (x : Spec) : State :=
  match x.next, x.step with
  | some t, some (d, _) => if s.haloLate g q d x.block t x.haloAt then s.replayFail g x { status := stWaitTimeout } else s
  | _, _ => s

def State.haloTimeout (s : State) (g q seq : Nat) : State :=
  match s.run g q seq with
  | none => s
  | some r =>
    if (s.ctx g).st != .active || !r.waitDone || r.aborting then s
    else
      match s.replayFor g q seq, r.next, r.haloAt with
      | some x, _, _ => s.haloReplay g q x
      | none, some t, some a => if s.haloLate g q r.raw r.block t a then s.jobFault g q seq stWaitTimeout 0 else s
      | none, _, _ => s

/-! ### The schedule (R335, R338) -/

/-- The slots in force that cover an instant of the frame, given in ns. -/
def liveSlots (table : Bytes) (off : Nat) : List (Nat × Slot) :=
  ((List.range 64).map fun i => (i, slotOf table i)).filter fun x =>
    x.2.len != 0 && x.2.start * 1000 ≤ off && off < (x.2.start + x.2.len) * 1000

/-- One core assigned to a slot whose present turn began at an instant; a turn that is new ends the count of R338 of the one
before and starts its own. -/
def State.assignCore (s : State) (now g i start c : Nat) : State :=
  if (s.core c).slot = some i ∧ (s.core c).slotFrom = start then s
  else
    (s.countLate (partOfCtx g) c).modCore c fun k =>
      { k with slot := some i, slotFrom := start, slotAt := if s.hasTile c g then some now else none }

/-- A core that no slot has any more. -/
def State.unslot (s : State) (p c : Nat) : State :=
  (s.countLate p c).modCore c fun k => { k with slot := none, slotAt := none }

/-- A slot that finds fewer cores than it reserves: counted and logged. -/
def State.slotShort (s : State) (p d i want found : Nat) : State :=
  (s.modPart p fun x => { x with slotShort := satAdd 32 x.slotShort 1 }).event evSlotShort (partCode 2 d) p
    [BitVec.ofNat 8 i, BitVec.ofNat 8 want, BitVec.ofNat 8 found]

/-- A die's active cores given to the slots of the frame that began at `frame`, in ascending slot index. -/
def State.assignSlots (p d now frame : Nat) : List (Nat × Slot) → List Nat → State → State
  | [], free, s => free.foldl (fun s c => s.unslot p c) s
  | (i, sl) :: rest, free, s =>
    let got := free.take sl.cores
    let s := got.foldl (fun s c => s.assignCore now (64 * p + sl.n) i (frame + sl.start * 1000) c) s
    let s := if got.length < sl.cores then s.slotShort p d i sl.cores got.length else s
    State.assignSlots p d now frame rest (free.drop sl.cores) s

/-- A die's assignment made afresh. -/
def State.assignDie (s : State) (p d : Nat) : State :=
  let x := s.part p
  let cores := (s.activeCores d).filter fun c => !s.isFenced c
  let s := ((coresOfDie d).filter fun c => !cores.contains c).foldl
    (fun s c => s.unslot p c) s
  let now := s.partTime p
  let slots := match x.frameAt with
    | some f => (liveSlots x.tableInForce (now - f)).filter fun y => y.2.mask.testBit (d - p * s.dieCount)
    | none => []
  State.assignSlots p d now (x.frameAt.getD 0) slots cores s

def State.assignPart (s : State) (p : Nat) : State :=
  let s := (s.diesOf p).foldl (fun s d => s.assignDie p d) s
  s.modPart p fun x => { x with assignAt := s.partTime p }

def State.frameNs (s : State) (p : Nat) : Nat := s.cfg (0x3020 + p) 1 * 1000

/-- A frame begins (R335): the slot table last accepted governs it; one written during a partition reset waits for the
first frame after READY (R342). -/
def State.frameStart (s : State) (p : Nat) : State :=
  let x := s.part p
  let f := s.frameNs p
  let now := s.partTime p
  let begin_ := x.frameT0 + (now - x.frameT0) / f * f
  let new := match x.frameAt with | some a => a < begin_ | none => true
  if p < s.partCount && (x.st == .ready || x.st == .resetting) && f ≠ 0 && x.frameT0 ≤ now && new then
    (s.modPart p fun x =>
      { x with frameAt := some begin_, frameCount := satAdd 64 x.frameCount 1
               tableInForce := sized 1024 x.tableNext }).assignPart p
  else s

/-- Whether a slot starts or ends after the last assignment and not later than now. -/
def State.boundaryDue (s : State) (p : Nat) : Bool :=
  let x := s.part p
  match x.frameAt with
  | none => false
  | some f =>
    (List.range 64).any fun i =>
      let sl := slotOf x.tableInForce i
      sl.len != 0 && [f + sl.start * 1000, f + (sl.start + sl.len) * 1000].any fun t => x.assignAt < t && t ≤ s.partTime p

def State.slotBoundary (s : State) (p : Nat) : State :=
  if p < s.partCount && ((s.part p).st == .ready || (s.part p).st == .resetting) && s.boundaryDue p then s.assignPart p else s

/-! ### The commands -/

def execWorkTileSelect (core : Nat) (s : State) : Host.Outcome State Fault Refusal := .next (s.tileSelect core)
def execPipGrant (die : Nat) (s : State) : Host.Outcome State Fault Refusal := .next (s.pipGrant die)
def execWorkTileEnd (core : Nat) (s : State) : Host.Outcome State Fault Refusal := .next (s.tileEnd core)
def execWatchdog (core : Nat) (s : State) : Host.Outcome State Fault Refusal := .next (s.watchdog core)
def execHaloWaitTimeout (g q seq : Nat) (s : State) : Host.Outcome State Fault Refusal := .next (s.haloTimeout g q seq)
def execFrameStart (p : Nat) (s : State) : Host.Outcome State Fault Refusal := .next (s.frameStart p)
def execSlotBoundary (p : Nat) (s : State) : Host.Outcome State Fault Refusal := .next (s.slotBoundary p)

end Sys2Proof.Machine
end

