-- ==== Sys2Proof/Machine/Reset.lean ====
section
/-! DEFINITION. Sys2Proof/Machine/Reset.lean: power domains (R410 to R412), stopping the units of a partition, the partition
reset of R341 and R447, and the module reset of R430. -/
namespace Sys2Proof.Machine

/-! ### Names of parts and values of records (R345) -/

/-- Byte 20 of a record about a die: its partition, 0xFF while that is ABSENT. -/
def State.partByte (s : State) (d : Nat) : Nat :=
  if (s.part (s.partOfDie d)).st = .absent then noPart else s.partOfDie d

/-- A value in thousandths as an FP32 code. -/
def f32Milli (t : Int) : BitVec 32 := fDiv (f32Of (.fin (t < 0) t.natAbs 0)) (fNat 1000)

/-! ### Power domains (R410 to R412) -/

/-- The die whose ledger a switched domain counts toward (R418). -/
def dieOfDomain (n : Nat) : Nat :=
  if n < 144 then n / 18 else if n < 152 then n - 144 else if n < 176 then (n - 152) / 3
  else if n < 184 then n - 176 else if n = 184 then 0 else 4

/-- BASELINE of a domain, in pips (R410). -/
def baselineOf (n : Nat) : Nat :=
  if n < 144 then 1 else if n < 152 then 34 else if n < 176 then 28 else if n < 184 then 32 else 22

/-- The dales that a domain powers (R410, R423). -/
def dalesOf (n : Nat) : List Nat :=
  if n < 176 then [n] else if n < 184 then (List.range 4).map fun i => 4 * (n - 176) + 176 + i else [n + 24]

/-- Whether a dale runs on its rail: its domain is ON. -/
def State.daleRuns (s : State) (n : Nat) : Bool :=
  if n < 176 then (s.domain n).st == 2
  else if n < 208 then (s.domain (176 + (n - 176) / 4)).st == 2
  else if n < 210 then (s.domain (n - 24)).st == 2
  else n < 214 && s.pwr.good

/-- The dales of a domain, and with them their cols, put in reset, in which they stay until it is ON (R412). -/
def State.resetDomain (s : State) (n : Nat) : State := (dalesOf n).foldl (fun s d => s.resetDale d) s

/-- An OFF domain begins to ramp; in thermal shutdown none does (R441). -/
def State.powerOn (s : State) (n : Nat) : State :=
  s.modDomain n fun x => if x.st = 0 ∧ s.pwr.shutdown = false then { x with st := 1, admitted := 0 } else x

/-- A domain is switched off; one that has FAILED reads so until a module reset. -/
def State.powerOff (s : State) (n : Nat) : State :=
  (s.resetDomain n).modDomain n fun x => if x.st = 3 then x else { x with st := 0, admitted := 0 }

def State.powerAll (s : State) (ns : List Nat) (on : Bool) : State :=
  ns.foldl (fun s n => if on then s.powerOn n else s.powerOff n) s

/-- The core domains of a partition: on at CREATE, fenced cores left off; off at its end. -/
def State.powerCores (s : State) (p : Nat) (on : Bool) : State :=
  s.powerAll (((s.diesOf p).flatMap coresOfDie).filter fun c => !on || !s.isFenced c) on

/-! ### Stopping units -/

/-- A core stopped at once: its work tile and its calibration step end, and its pips return. -/
def State.haltCore (s : State) (c : Nat) : State :=
  ((s.freeCore c).endCal c).modCore c fun k => { k with pair := none, idleNs := 0 }

/-- The partition sections of a partition's dies: cores, die caches, ledger grants, and what its engines hold. The fabric
section of each die fabric survives, and with it the dale's clock and its cols to ports and to a host interface (R430). -/
def State.resetDies (s : State) (p : Nat) : State :=
  let s := (s.diesOf p).foldl
    (fun s d =>
      let s := (coresOfDie d).foldl (fun s c => (s.haltCore c).resetDale c) s
      s.modDie d fun x => { x with lines := [], demand := [], streams := [], waiting := [], granted := 0 }) s
  s.modFab fun f => { f with handed := f.handed.filter fun k => k.dstPart != p || k.type == 0x10 || k.type == 0x11 }

/-- Steps 1 and 2 of R341: every core and engine stops at once, no record is written, and the units are reset with the
stacks in self-refresh. -/
def State.stopUnits (s : State) (p : Nat) : State :=
  (s.stacksOf p).foldl
    (fun s k => (s.resetDale (152 + k)).modStack k fun x => { x with selfRefresh := true, draining := false }) (s.resetDies p)

/-- The dictionary indices of a context. -/
def ctxIndex (p : Nat) (k : Nat) : Bool :=
  [0x3200, 0x3400, 0x3600, 0x5100].any fun b => b + 64 * p ≤ k / 256 && k / 256 < b + 64 * p + 64

/-- Step 3 of R341: every context FREE, with its entries at their defaults. -/
def State.freeContexts (s : State) (p : Nat) : State :=
  let s := { s with ctxs := s.ctxs.filter fun kv => partOfCtx kv.1 != p }
  s.dropCfg (ctxIndex p)

/-- The interfaces and vectors of a partition's queues that are not DISABLED. -/
def State.liveVectors (s : State) (p : Nat) : List (Nat × Nat) :=
  (ctxsOfPart p).flatMap fun g => ((List.range 8).filter fun q => (s.queue g q).st != .disabled).map fun q =>
    (recHostSel (s.forceRec g q), recVector (s.forceRec g q))

/-- The PARTITION_RESET record, on the partition's lowest die. -/
def State.resetEvent (s : State) (p cause : Nat) : State :=
  s.event evPartitionReset (partCode 2 (p * s.dieCount)) p [BitVec.ofNat 8 cause]

/-- The partition reset of R341, up to its step 5. -/
def State.partReset (s : State) (p cause : Nat) : State :=
  let vs := s.liveVectors p
  let s := (s.stopUnits p).freeContexts p
  let s := vs.foldl (fun s v => s.raiseFor p v.1 v.2) s
  (s.modPart p fun x => { x with st := .resetting, resets := satAdd 32 x.resets 1, cause := cause }).resetEvent p cause

/-- A cause of a partition reset, in the state the partition is in (R341, R342, R447). -/
def State.causeReset (s : State) (p cause : Nat) : State :=
  match (s.part p).st with
  | .ready => s.partReset p cause
  | .creating => ((s.stopUnits p).modPart p fun x => { x with cause := cause, recovering := true }).resetEvent p cause
  | .activating =>
    ((s.stopUnits p).modPart p fun x =>
      { x with st := .creating, keys := none, cause := cause, recovering := true }).resetEvent p cause
  | .destroying => (s.stopUnits p).modPart p fun x => { x with recovering := true }
  | .resetting | .absent => s

/-! ### Destroying a partition (R408) -/

/-- The contexts of a partition stopped and FREE, of which the group securing keys are still there. -/
def State.stopContexts (s : State) (p : Nat) : State :=
  let keep (kv : Nat × Ctx) : Nat × Ctx := if partOfCtx kv.1 = p then (kv.1, { secure := { key := kv.2.secure.key } }) else kv
  { s with ctxs := s.ctxs.map keep }.dropCfg (ctxIndex p)

/-- Step 1 of R408: every core and engine stopped, the cores off (R410). -/
def State.destroy (s : State) (p : Nat) : State :=
  let s := (s.stopUnits p).stopContexts p
  let s := ((s.diesOf p).flatMap coresOfDie).foldl (fun s c => s.modCore c fun k => { k with slot := none, slotAt := none }) s
  (s.modPart p fun x => { x with st := .destroying }).powerCores p false

/-- The bytes of a partition's stacks but of those that failed their test, with their sums, zeroed. -/
def State.zeroStacks (s : State) (p : Nat) : State :=
  let keep (a : Nat) : Bool := a / 2 ^ 48 != p || s.pwr.stackFail.getLsbD (s.placeOf p (a % 2 ^ 48)).2
  { s with hbm := s.hbm.filter fun x => keep x.1, sumDelta := s.sumDelta.filter fun kv => keep (4096 * kv.1) }

/-- The entries of a partition that end with it: schedule, memory, rank map, collectives (R340). -/
def partIndex (p k : Nat) : Bool := [0x3020, 0x3800, 0x4110, 0x4800].contains (k / 256 - p) && p ≤ k / 256

/-- The core stores, accumulators, vector registers and Dice state of a partition's cores, fenced and spare ones too, and its
die caches. -/
def State.clearCores (s : State) (p : Nat) : State :=
  let s := (s.diesOf p).foldl (fun s d => s.modDie d fun x => { x with lines := [] }) s
  ((s.diesOf p).flatMap coresOfDie).foldl (fun s c => s.modCore c fun k => { k with residue := none, mem := {} }) s

/-- Steps 2 to 5 of R408 in their order: stacks, cores, keys, and ABSENT; nothing of the partition remains (R340). -/
def State.destroyed (s : State) (p : Nat) : State :=
  let s := (s.zeroStacks p).clearCores p
  let s := { s with ctxs := s.ctxs.filter fun kv => partOfCtx kv.1 != p }
  let health := (s.part p).health
  { s.dropCfg (partIndex p) with parts := mapSet s.parts p { health := health } }

/-! ### Module reset (R430, R395, R406) -/

/-- What a module reset leaves: e-fuses, firmware banks, the entries of R395, module time, the pins and the host's own
memory. -/
def State.moduleReset (s : State) : State :=
  { State.reset with
    pending := s.pending, free := s.free, variant := s.variant, host0 := s.host0, host1 := s.host1
    store := s.store.filter fun kv => keyKept kv.1
    pwr := { good := s.pwr.good, time := s.pwr.time, opened := s.pwr.opened, resetHeld := s.pwr.resetHeld,
             straps := s.pwr.straps }
    sec := { svn := s.sec.svn, bank := s.sec.bank, nextBank := s.sec.nextBank, banks := s.sec.banks }
    hifs := s.hifs.map fun kv => (kv.1, { perst := kv.2.perst }) }

/-! ### What MD measures and derives at boot (R397, R398, R400) -/

def State.bankImage (s : State) (b : Nat) : Bytes := mapGet (Config.factoryBank b) s.sec.banks b
/-- The package MD runs. -/
def State.running (s : State) : Bytes := s.bankImage s.sec.bank

/-- The four anchors and the fused SVN, which measurement 6 covers. -/
def State.securityConfig (s : State) : Bytes :=
  ([1, 2, 3, 4].flatMap fun i => s.cfgBytes 0x5800 i) ++ leBytes 2 s.sec.svn

/-- Measurement 6 brought up to date: at boot, and when an anchor changes. -/
def State.remeasure (s : State) : State := s.modSec fun x => { x with meas6 := sha384 s.securityConfig, measSvn := x.svn }

/-- Measurements 1 to 5, of the package MD runs. -/
def State.bootMeasure (s : State) (i : Nat) : Bytes := leBytes 48 (Config.measurement i s.running).toNat

/-- The identity key, and the alias key derived from it and measurements 1 to 5 (R400). -/
def State.deriveKeys (s : State) : State :=
  s.modSec fun x =>
    { x with
      identity := some Config.identityKey
      aliasKey := some (Config.aliasKey Config.identityKey ([1, 2, 3, 4, 5].map s.bootMeasure)) }

/-- Time 0 of start-up (R432): the boot ROM of MD starts. -/
def State.startUp (s : State) : State := s.modPwr fun w => { w with phase := .booting, startedAt := w.time }

/-- A module reset that is over at once: start-up runs again. -/
def State.resetNow (s : State) : State := s.moduleReset.startUp

/-- Power-good lost: module time ends with it (R392). -/
def State.powerLost (s : State) : State := s.moduleReset.modPwr fun w => { w with good := false, time := 0, straps := 0 }

/-- One nanosecond on an empty queue; an answered MODULE_RESET begins when its millisecond is over (R376). -/
def idle (s : State) : State :=
  let s := s.tick
  match s.pwr.resetAt with
  | some t => if t ≤ s.now then s.resetNow else s
  | none => s

end Sys2Proof.Machine
end

