-- ==== Sys2Proof/Machine/Faults.lean ====
section
/-! DEFINITION. Sys2Proof/Machine/Faults.lean: fault classes (R343 to R348), the loss of a host interface (R57), die-to-die links
(R446), corrected errors and the intervals of the Doubler (R350 to R352). -/
namespace Sys2Proof.Machine

/-! ### Fencing a core (R15, R53, R347, R348) -/

/-- Whether a work tile cut short is issued again: its context is ACTIVE and its descriptor goes on (R332, R56). -/
def State.reissues (s : State) (t : TileRun) : Bool :=
  match s.run t.g t.q t.seq with
  | some r => (s.ctx t.g).st == .active && !r.aborting
  | none => false

/-- A speculative work tile is discarded with its replay (R190, R347). -/
def State.discardSpec (s : State) (t : TileRun) : State :=
  match t.replay.bind (s.specNo t.g) with
  | some x => if x.owner.isNone then s.dropSpec t.g x.handle else s
  | none => s

/-- The fenced core's work tile, uncharged (R64), back at the head of its descriptor's dispatch. What it has written and
tallied stays as it is: its reissue writes the same bits and tallies the same again (R126, R156). -/
def State.pullTile (s : State) (c : Nat) : State :=
  match (s.core c).tile with
  | none => s
  | some t =>
    let again := s.reissues t
    let s := (s.freeCore c).modKv t.g fun k => { k with walkers := k.walkers.filter fun w => w.core != c }
    if again then s.returnTile t
    else ((s.modRun t.g t.q t.seq fun r => { r with onCores := r.onCores - 1 }).discardSpec t).abortNow t.g t.q

/-- The context whose work tile a fence returns; 0xFFFF for none. -/
def State.fencedCtx (s : State) (c : Nat) : Nat :=
  match (s.core c).tile with
  | some t => if s.reissues t then t.g else 0xFFFF
  | none => 0xFFFF

/-- The lowest-numbered healthy spare of a die. -/
def State.spareOf (s : State) (d : Nat) : Option Nat :=
  (coresOfDie d).find? fun c => !s.isActive c && !s.isFenced c && (s.core c).testOk

/-- The role mask with a core's bit set or cleared. -/
def State.setRole (s : State) (c : Nat) (on : Bool) : State :=
  let d := dieOfCore c
  let i := c % 18
  let m := s.roleMask d
  let off := if m.testBit i then m - 2 ^ i else m
  s.setCfgNat 0x2010 (d + 1) 4 (if on then off + 2 ^ i else off)

/-- The core out of use: the output tiles of its work tile discarded (R347), fenced, its domain off, its dale and its col
reset. -/
def State.takeOut (s : State) (c : Nat) : State :=
  let s := ((s.dropPair c).pullTile c).endCal c
  let s := s.modCore c fun k => { k with slot := none, slotAt := none, idleNs := 0, mem := { k.mem with acc := [] } }
  let s := s.modDie (dieOfCore c) fun d => { d with fenced := d.fenced ||| BitVec.ofNat 18 (2 ^ (c % 18)) }
  (s.powerOff c).resetDale c

/-- The records of a fence and its qualifying event. -/
def State.fenceEvents (s : State) (c cause g : Nat) (active : Bool) (spare : Option Nat) : State :=
  let d := dieOfCore c
  let p := s.partByte d
  let s := s.event evCoreFence (partCode 1 c) p (BitVec.ofNat 8 cause :: leBytes 2 g ++ leBytes 1 (spare.getD 0xFF))
  let s := if active && spare.isNone then
      s.event evDieNoSpare (partCode 2 d) p [BitVec.ofNat 8 (s.activeCores d).length] else s
  s.qualify

/-- A core fault handled in full, whatever its partition is doing (R342, R347). -/
def State.fence (s : State) (c cause : Nat) : State :=
  if s.isFenced c then s
  else
    let active := s.isActive c
    let g := s.fencedCtx c
    let s := s.takeOut c
    let s := if active then s.setRole c false else s
    let spare := if active then s.spareOf (dieOfCore c) else none
    let s := match spare with | some x => s.setRole x true | none => s
    (s.fenceEvents c cause g active spare).assignDie (s.partOfDie (dieOfCore c)) (dieOfCore c)

/-- A core that detects a fault of its own: cause 0 SRAM double bit, 1 parity, 2 check column. -/
def State.coreFault (s : State) (c cause : Nat) : State :=
  if c < 144 && cause ≤ 2 && (s.domain c).st != 0 then s.fence c cause else s

/-- The test of a spare core (R343): one that fails is fenced before it is used. -/
def State.spareTest (s : State) (c : Nat) (passed : Bool) : State :=
  if c < 144 && !s.isActive c && !s.isFenced c then
    let s := s.modCore c fun k => { k with testOk := passed }
    if passed then s else s.fence c 5
  else s

/-! ### Die hubs and memory controllers (R341, R343, R447) -/

def State.hubFault (s : State) (d unit : Nat) : State :=
  (s.event evDieHubFault (partCode 2 d) (s.partByte d) [BitVec.ofNat 8 unit]).causeReset (s.partOfDie d) 2

/-- The die-hub units of R345. -/
def State.dieHubFault (s : State) (d unit : Nat) : State :=
  if d < 8 && (unit ≤ 12 || unit == 15) && (s.domain (144 + d)).st != 0 then s.hubFault d unit else s

def State.mcFault (s : State) (k kind : Nat) : State :=
  let d := dieOfStack k
  (s.event evMcFault (partCode 3 k) (s.partByte d) [BitVec.ofNat 8 kind]).causeReset (s.partOfDie d) 5

def State.memFault (s : State) (k kind : Nat) : State :=
  if k < 24 && kind ≤ 2 && (s.domain (152 + k)).st != 0 then s.mcFault k kind else s

/-- The clean line is dropped and read again (R259, R343). -/
def State.cacheParity (s : State) (d line : Nat) : State :=
  s.modDie d fun x => if x.lines.contains line then { x with lines := x.lines.erase line ++ [line] } else x

/-! ### Losing and regaining a host interface (R57) -/

/-- A running queue with a ring in host memory and descriptors made ready that it can no longer fetch. -/
def State.unfetched (s : State) (g q : Nat) : Bool :=
  let u := s.queue g q
  let r := s.queueRec g q
  (s.ctx g).st == .active && u.st == .running && u.takenSeq < u.tail &&
    match s.xlate g (ringAt (recRingBase r) (recLog2 r) 64 (u.takenSeq + 1)) with
    | some x => x.host
    | none => false

/-- The contexts of some partitions that use an interface. -/
def State.usersOf (s : State) (h : Nat) (parts : List Nat) : List Nat :=
  (s.ctxs.map (·.1)).filter fun g => s.hostIfOf g == h && parts.contains (partOfCtx g)

/-- A context that can fetch no more faults at its first unfetched descriptor. R57 does not say which queue FAULT_AT names
where several have one: the model takes the lowest-numbered (DESIGN CHOICE, log 91). -/
def State.loseRings (s : State) (g : Nat) : State :=
  match (List.range 8).find? (s.unfetched g) with
  | some q => s.faultCtx g q ((s.queue g q).takenSeq + 1) stHostLost 0
  | none => s

/-- The contexts whose rings lie behind a path that is gone: what they can fetch no more, and the records they lose. -/
def State.loseCtxs (s : State) (h : Nat) (parts : List Nat) : State :=
  (s.usersOf h parts).foldl (fun s g => (s.loseRings g).loseRecs g) s

/-- How many of them fault. -/
def State.loseCount (s : State) (h : Nat) (parts : List Nat) : Nat :=
  ((s.usersOf h parts).filter fun g => (List.range 8).any (s.unfetched g)).length

def allParts : List Nat := List.range 8

/-- An interface that was ready is so no more. -/
def State.hostDown (s : State) (h cause : Nat) : State :=
  let n := s.loseCount h allParts
  let s := s.modHif h fun i =>
    { i with ready := false, linkUp := false, speed := 0, width := 0, msixOn := false, heldInts := [] }
  (s.loseCtxs h allParts).event evHostLinkDown (partCode 5 h) noPart (BitVec.ofNat 8 cause :: leBytes 2 n)

def State.hostLinkDown (s : State) (h : Nat) : State := if (s.hif h).ready then s.hostDown h 0 else s

/-- The interface is there again: records that were due meanwhile to rings in host memory are lost, and every queue of some
partitions that names the interface and is not DISABLED raises its vector once. -/
def State.regain (s : State) (h : Nat) (parts : List Nat) : State :=
  let s := (s.usersOf h parts).foldl (fun s g => s.loseRecs g) s
  ((s.ctxs.map (·.1)).filter fun g => parts.contains (partOfCtx g)).foldl
    (fun s g =>
      ((List.range 8).filter fun q => (s.queue g q).st != .disabled && recHostSel (s.forceRec g q) == h).foldl
        (fun s q => s.raiseQueue g q) s) s

/-! ### Die-to-die links (R10, R446) -/

/-- The two dies of a link (R345). -/
def diesOfLink (n : Nat) : Nat × Nat :=
  if n < 6 then (4 * (n / 3) + n % 3, 4 * (n / 3) + n % 3 + 1) else (n - 6, n - 2)

/-- The partitions whose host traffic on an interface is cut in one state and not in another. -/
def cutBetween (up down : State) (h : Nat) : List Nat :=
  (List.range up.partCount).filter fun p => up.hostServes h p && up.hostOk p h && !down.hostOk p h

/-- A link between two partitions leaves service: the contexts whose host traffic crosses it meet R57. -/
def State.linkOut (s : State) (n : Nat) : State :=
  let t := s.modLink n fun x => { x with out := true, retraining := true }
  [0, 1].foldl (fun t h => t.loseCtxs h (cutBetween s t h)) t

def State.linkFault (s : State) (n cause : Nat) : State :=
  let ds := diesOfLink n
  let p := s.partOfDie ds.1
  if 10 ≤ n ∨ 1 < cause then s
  else if p = s.partOfDie ds.2 then
    (s.event evLinkFault (partCode 8 n) (s.partByte ds.1) [BitVec.ofNat 8 cause]).causeReset p 3
  else if (s.link n).out then s
  else (s.event evLinkFault (partCode 8 n) noPart [BitVec.ofNat 8 cause]).linkOut n

/-- The end of the retraining: in service again, or out of it until module reset. -/
def State.linkRetrained (s : State) (n : Nat) (ok : Bool) : State :=
  if !(s.link n).retraining then s
  else if ok then
    let t := s.modLink n fun x => { x with out := false, retraining := false }
    [0, 1].foldl (fun u h => u.regain h (cutBetween t s h)) t
  else (s.modLink n fun x => { x with retraining := false }).event evLinkFault (partCode 8 n) noPart [1]

/-! ### Regulators and domains that fail (R343, R412) -/

/-- The unit of a dale handled as its row of R343. `hub` is the die-hub unit of R345, `core` the cause of a fence. -/
def State.daleFault (s : State) (n hub core : Nat) : State :=
  if n < 144 then s.fence n core
  else if n < 152 then s.hubFault (n - 144) hub
  else if n < 176 then s.mcFault (n - 152) 0
  else if n < 208 then s.lossOfSignal (n - 176)
  else if n < 210 then s.hostLinkDown (n - 208)
  else s

/-- The unit of a domain that reads FAILED. The cause of a fence that R345 has no code for is a free value (log 37). -/
def State.domainUnit (s : State) (n : Nat) : State :=
  if n < 144 then
    let d := s.draw
    d.2.fence n (d.1.toNat % 256)
  else if n < 176 then s.daleFault n 15 0
  else if n < 184 then (List.range 4).foldl (fun s i => s.lossOfSignal (4 * (n - 176) + i)) s
  else s.hostLinkDown (n - 184)

def State.domainFailed (s : State) (n : Nat) : State :=
  let s := s.modDomain n fun x => { x with st := 3 }
  (s.event evDomainFailed (partCode 6 n) noPart []).domainUnit n

/-- A phase that fails is masked by the spare phase; a second one is beyond it. -/
def State.phaseFailure (s : State) (n phase : Nat) : State :=
  let x := s.domain n
  if 186 ≤ n ∨ x.st = 0 ∨ x.st = 3 ∨ x.phases.contains phase then s
  else
    let s := (s.modDomain n fun x => { x with phases := x.phases ++ [phase] }).event
      evRegulatorPhase (partCode 6 n) noPart [BitVec.ofNat 8 phase]
    if x.phases = [] then s else s.domainFailed n

/-! ### Cols (R427, R428) -/

/-- The die whose partition a dale belongs to, for the record. -/
def State.daleByte (s : State) (n : Nat) : Nat :=
  if n < 144 then s.partByte (n / 18) else if n < 152 then s.partByte (n - 144)
  else if n < 176 then s.partByte ((n - 152) / 3) else noPart

/-- The die-hub unit a col belongs to: the core port where the other side is a core. -/
def hubUnit (other : Nat) : Nat := if other < 144 then 7 else 15

/-- An event too many through a col. A col of which a dale does not run is in reset, and passes none (R412). -/
def State.colOverrun (s : State) (sender receiver : Nat) : State :=
  if !s.daleRuns sender ∨ !s.daleRuns receiver ∨ sender = receiver then s
  else
    let s := (s.modDale receiver fun x => { x with overruns := sender :: x.overruns.erase sender }).event
      evColOverrun (partCode 7 receiver) (s.daleByte receiver) (leBytes 2 sender)
    s.daleFault receiver (hubUnit sender) 3

/-- Whether the reset sequencer is powering, testing, resetting or recovering a dale: its cols are in HOLD. -/
def State.inHold (s : State) (n : Nat) : Bool :=
  let dieHold (d : Nat) : Bool := (s.part (s.partOfDie d)).st == .resetting || (s.part (s.partOfDie d)).recovering
  let dieTest (d : Nat) : Bool := !s.pwr.diePass.getLsbD d && !s.pwr.dieFail.getLsbD d
  let stackTest (k : Nat) : Bool := !s.pwr.stackReady.getLsbD k && !s.pwr.stackFail.getLsbD k
  if n < 144 then (s.domain n).st == 1 || dieTest (n / 18) || dieHold (n / 18)
  else if n < 152 then (s.domain n).st == 1 || dieTest (n - 144) || dieHold (n - 144)
  else if n < 176 then (s.domain n).st == 1 || stackTest (n - 152) || dieHold ((n - 152) / 3)
  else if n < 208 then (s.domain (176 + (n - 176) / 4)).st == 1 || (s.port (n - 176)).st == .training
  else if n < 210 then
    let h := n - 208
    (s.domain (n - 24)).st == 1 || (s.hif h).perst
  else false

/-- In NORMAL: the request fails, the far dale's time-outs rise and its unit is handled as its row. What the requester does with
the error it receives is not stated (log 100). -/
def State.colTimeout (s : State) (requester far : Nat) : State :=
  if 214 ≤ requester ∨ 214 ≤ far ∨ requester = far ∨ s.inHold requester ∨ s.inHold far then s
  else
    let s := (s.modDale far fun x => { x with timeouts := satAdd 32 x.timeouts 1 }).event
      evColTimeout (partCode 7 far) (s.daleByte far) (leBytes 2 requester ++ [0])
    s.daleFault far (hubUnit requester) 4

/-- PART_HEALTH and the record of a unit that fails its test again (R346). -/
def State.partFailed (s : State) (p unit : Nat) : State :=
  (s.modPart p fun x => { x with health := 1 }).event evPartitionFailed (partCode 2 (p * s.dieCount)) p (leBytes 2 unit)

def setBit {w : Nat} (v : BitVec w) (i : Nat) : BitVec w := v ||| BitVec.ofNat w (2 ^ i)
def clearBit {w : Nat} (v : BitVec w) (i : Nat) : BitVec w := v &&& ~~~(BitVec.ofNat w (2 ^ i))

/-- The failed bit of a die or stack set, its ready bit cleared; `unit` is a part of R345. -/
def State.unitFailed (s : State) (unit : Nat) : State :=
  s.modPwr fun w =>
    if unit / 4096 = 2 then { w with diePass := clearBit w.diePass (unit % 4096), dieFail := setBit w.dieFail (unit % 4096) }
    else { w with stackReady := clearBit w.stackReady (unit % 4096), stackFail := setBit w.stackFail (unit % 4096) }

/-- A far unit recorded as failed: by R346 in a partition reset, else in the Readiness failure bits. -/
def State.holdFailed (s : State) (d unit : Nat) : State :=
  let p := s.partOfDie d
  if (s.part p).st = .resetting then s.partFailed p unit else s.unitFailed unit

/-- In HOLD: a far clock that does not run within 10 ms. -/
def State.colHoldTimeout (s : State) (requester far : Nat) : State :=
  if 214 ≤ requester ∨ 214 ≤ far ∨ requester = far ∨ !(s.inHold requester || s.inHold far) then s
  else
    let s := s.event evColTimeout (partCode 7 far) (s.daleByte far) (leBytes 2 requester ++ [1])
    if far < 144 then s.fence far 4
    else if far < 152 then s.holdFailed (far - 144) (partCode 2 (far - 144))
    else if far < 176 then s.holdFailed ((far - 152) / 3) (partCode 3 (far - 152))
    else if far < 208 then s.lossOfSignal (far - 176)
    else if far < 210 then s.modHif (far - 208) fun i => { i with failed := true }
    else s

/-! ### The random source (R406) -/

def State.rngFail (s : State) (test : Nat) : State :=
  (s.modSec fun x => { x with rngOk := false }).event evRngHealth (partCode 2 8) noPart [BitVec.ofNat 8 test]

/-! ### Corrected errors (R269, R350) -/

/-- Whether the rise of R350 is met. -/
def State.ceRise (s : State) (cur prev : Nat) : Bool := s.cfg 0x5000 8 ≤ cur && 2 * prev < cur

def State.ceEvent (s : State) (unit d cur prev : Nat) : State :=
  (s.event evCeRise unit (s.partByte d) (leBytes 4 cur ++ leBytes 4 prev)).qualify

/-- The window of 60 s that an instant of module time lies in (R350). -/
def ceWindowOf (t : Nat) : Nat := t / 60000000000

/-- Once a window is over its counts become those the next is held against; those of an earlier one count no more. -/
def State.ceRoll (s : State) : State :=
  let w := ceWindowOf s.now
  if w ≤ s.doubler.window then s
  else
    let prev (n : Nat) : Nat := if w = s.doubler.window + 1 then n else 0
    { s with
      doubler := { s.doubler with window := w }
      dies := s.dies.map fun kv => (kv.1, { kv.2 with cePrev := prev kv.2.ceCur, ceCur := 0, ceRaised := false })
      hbmStacks := s.hbmStacks.map fun kv => (kv.1, { kv.2 with cePrev := prev kv.2.ceCur, ceCur := 0, ceRaised := false }) }

/-- The rise of one stack, if it is met and not yet reported in this window. -/
def State.ceStack (s : State) (k : Nat) : State :=
  let x := s.stack k
  if !x.ceRaised && s.ceRise x.ceCur x.cePrev then
    (s.modStack k fun x => { x with ceRaised := true }).ceEvent (partCode 3 k) (dieOfStack k) x.ceCur x.cePrev
  else s

/-- The rise of one die. -/
def State.ceDie (s : State) (d : Nat) : State :=
  let x := s.die d
  if !x.ceRaised && s.ceRise x.ceCur x.cePrev then
    (s.modDie d fun x => { x with ceRaised := true }).ceEvent (partCode 2 d) d x.ceCur x.cePrev
  else s

def State.stackError (s : State) (k : Nat) : State :=
  (s.modStack k fun x => { x with ce := satAdd 32 x.ce 1, ceCur := satAdd 32 x.ceCur 1 }).ceStack k

def State.dieError (s : State) (d : Nat) : State := (s.modDie d fun x => { x with ceCur := satAdd 32 x.ceCur 1 }).ceDie d

/-- The rises that a new CE_FLOOR brings about inside the window. -/
def State.ceSweep (s : State) : State :=
  let s := s.ceRoll
  (List.range 8).foldl (fun s d => s.ceDie d) ((List.range 24).foldl (fun s k => s.ceStack k) s)

def State.corrected (s : State) (onDie : Bool) (unit : Nat) : State :=
  let s := s.ceRoll
  if onDie then (if unit < 8 then s.dieError unit else s) else if unit < 24 then s.stackError unit else s

/-! ### Intervals of the Doubler (R351, R352) -/

def State.quietExpiry (s : State) : State :=
  if s.pwr.good && s.doubler.quietAt + s.cfg 0x5000 3 * 60000000000 ≤ s.now then
    { s with doubler := { s.doubler with risk := max 1 (s.doubler.risk / 2), quietAt := s.now } }
  else s

/-- A context with a group whose last commit lies MAX_INTERVAL_MIN back and for which no request has been raised since. -/
def State.overdue (s : State) (g : Nat) (c : Ctx) : Bool :=
  c.secure.hasGroup && c.secure.committedOnce && !c.secure.maxRaised && c.secure.commitNs + s.maxIntervalNs ≤ s.ctxTime g

def State.maxExpiry (s : State) : State :=
  if s.ctxs.any fun kv => s.overdue kv.1 kv.2 then
    let note (kv : Nat × Ctx) : Nat × Ctx :=
      if s.overdue kv.1 kv.2 then (kv.1, { kv.2 with secure := { kv.2.secure with maxRaised := true } }) else kv
    let t := { s with ctxs := s.ctxs.map note }
    t.secureRequest 1
  else s

/-! ### The commands -/

def execQuietIntervalExpiry (s : State) : Host.Outcome State Fault Refusal := .next s.quietExpiry
def execMaxIntervalExpiry (s : State) : Host.Outcome State Fault Refusal := .next s.maxExpiry
def execCeWindowEnd (s : State) : Host.Outcome State Fault Refusal := .next s.ceRoll
def execHbmCorrectedError (onDie : Bool) (unit : Nat) (s : State) : Host.Outcome State Fault Refusal :=
  .next (s.corrected onDie unit)
def execCoreFault (core cause : Nat) (s : State) : Host.Outcome State Fault Refusal := .next (s.coreFault core cause)
def execSpareCoreTest (core : Nat) (passed : Bool) (s : State) : Host.Outcome State Fault Refusal :=
  .next (s.spareTest core passed)
def execDieCacheParity (d line : Nat) (s : State) : Host.Outcome State Fault Refusal := .next (s.cacheParity d line)
def execRegulatorPhaseFailure (domain phase : Nat) (s : State) : Host.Outcome State Fault Refusal :=
  .next (s.phaseFailure domain phase)
def execDieHubFault (d unit : Nat) (s : State) : Host.Outcome State Fault Refusal := .next (s.dieHubFault d unit)
def execMcFault (stack kind : Nat) (s : State) : Host.Outcome State Fault Refusal := .next (s.memFault stack kind)
def execD2dLinkFault (link cause : Nat) (s : State) : Host.Outcome State Fault Refusal := .next (s.linkFault link cause)
def execD2dLinkRetrained (link : Nat) (ok : Bool) (s : State) : Host.Outcome State Fault Refusal :=
  .next (s.linkRetrained link ok)
def execRngHealthFail (test : Nat) (s : State) : Host.Outcome State Fault Refusal := .next (s.rngFail test)
def execColOverrun (sender receiver : Nat) (s : State) : Host.Outcome State Fault Refusal :=
  .next (s.colOverrun sender receiver)
def execColTimeout (requester far : Nat) (s : State) : Host.Outcome State Fault Refusal :=
  .next (s.colTimeout requester far)
def execColHoldTimeout (requester far : Nat) (s : State) : Host.Outcome State Fault Refusal :=
  .next (s.colHoldTimeout requester far)
def execHostLinkDown (h : Nat) (s : State) : Host.Outcome State Fault Refusal := .next (s.hostLinkDown h)

end Sys2Proof.Machine
end

