-- ==== Sys2Proof/Machine/Power.lean ====
section
/-! DEFINITION. Sys2Proof/Machine/Power.lean: power-good, resets and start-up (R430 to R432, R396, R397), temperatures (R271,
R423, R425, R441), pips (R413, R417, R418), droop (R421, R422) and the pins of the host interfaces. -/
namespace Sys2Proof.Machine

/-! ### Power-good and the reset input (R392, R431) -/

def State.powerGood (s : State) (straps : BitVec 4) : State :=
  if s.pwr.good then s
  else
    let s := s.modPwr fun w => { w with good := true, opened := false, time := 0, straps := straps }
    if s.pwr.resetHeld then s else s.startUp

def State.powerGoodLoss (s : State) : State := if s.pwr.good then s.powerLost else s

/-- Above 60 V the input is opened. -/
def State.hotSwapOpen (s : State) : State := (s.powerGoodLoss).modPwr fun w => { w with opened := true }

/-- RESET_N low for 10 µs: a module reset for as long as it is held. -/
def State.resetAssert (s : State) : State :=
  let s := s.modPwr fun w => { w with resetHeld := true }
  if s.pwr.good then s.moduleReset else s

def State.resetRelease (s : State) : State :=
  if !s.pwr.resetHeld then s
  else
    let s := s.modPwr fun w => { w with resetHeld := false }
    if s.pwr.good then s.startUp else s

/-! ### Measured boot (R397) -/

def State.bankEvent (s : State) (bank image : Nat) : State :=
  s.event evFirmwareBank (partCode 2 8) noPart [BitVec.ofNat 8 bank, BitVec.ofNat 8 image]

/-- The entries of R395 at their defaults, when their store does not read back. -/
def State.storeLost (s : State) : State :=
  (s.dropCfg keyKept).event evMdInternal (partCode 0 0) noPart [0, 0, 1]

/-- Boot complete at BOOT_NS: the dictionary is served; die fabrics, host interfaces and the cores to be tested are powered. -/
def State.booted (s : State) (bank : Nat) : State :=
  let s := (s.modSec fun x => { x with bank := bank, nextBank := bank }).deriveKeys
  let s := s.modPwr fun w => { w with phase := .serving, bootNs := w.time, ledgerOn := true }
  s.powerAll ((List.range 152) ++ [184, 185]) true

def State.bootComplete (s : State) (bank0 bank1 : Option Nat) (store : Bool) : State :=
  if s.pwr.phase != .booting then s
  else
    let s := (if store then s else s.storeLost).deriveKeys.remeasure
    let first := s.sec.nextBank % 2
    let fails (b : Nat) : Option Nat := if b = 0 then bank0 else bank1
    match fails first with
    | none => s.booted first
    | some i =>
      let s := s.bankEvent first i
      match fails (1 - first) with
      | none => s.booted (1 - first)
      | some j => (s.bankEvent (1 - first) j).modPwr fun w => { w with phase := .limited }

/-! ### Built-in test and training (R432) -/

/-- The ports of a die whose MODE is not OFF. -/
def State.openPorts (s : State) (d : Nat) : List Nat := ((List.range 4).map (4 * d + ·)).filter fun p => s.portMode p != 0

/-- A port cluster is powered unless all four of its ports are in MODE 0 (R410). -/
def State.powerPorts (s : State) (d : Nat) : State := if s.openPorts d = [] then s else s.powerOn (176 + d)

/-- Ports of a passing die whose MODE is not OFF start to train. -/
def State.trainPorts (s : State) (d : Nat) : State :=
  (s.openPorts d).foldl (fun s p => s.modPort p fun x => if x.st = .off then { x with st := .training } else x) s

/-- Whether a core stays powered once the built-in test of its die is over: its partition exists and is not being destroyed
(R410). -/
def State.staysOn (s : State) (c : Nat) : Bool :=
  let st := (s.part (s.partOfDie (dieOfCore c))).st
  st != .absent && st != .destroying && !s.isFenced c

/-- The result of each core's test, which it keeps; one that fails is fenced (log 37), and none of them is a spare to take. -/
def State.coreResults (s : State) (d : Nat) (ok : BitVec 18) : State :=
  let bad := (coresOfDie d).filter fun c => !ok.getLsbD (c % 18)
  let s := bad.foldl (fun s c => s.modCore c fun k => { k with testOk := false }) s
  bad.foldl (fun s c => if s.isActive c then (let v := s.draw; v.2.fence c (v.1.toNat % 256)) else s.fence c 5) s

/-- The end of a die's built-in test. One that fails is logged as a fault of its hub, in the class of any other logic of it, for
R345 has none of its own (log 37). -/
def State.testDone (s : State) (d : Nat) (passed : Bool) (coresOk : BitVec 18) : State :=
  if 8 ≤ d ∨ s.pwr.phase != .serving ∨ s.pwr.shutdown ∨ s.pwr.diePass.getLsbD d ∨ s.pwr.dieFail.getLsbD d ∨
      (passed ∧ (s.domain (144 + d)).st ≠ 2) then s
  else
    let s := (s.powerAll ((coresOfDie d).filter fun c => !s.staysOn c) false).powerPorts d
    if passed then
      let s := (s.modPwr fun w => { w with diePass := setBit w.diePass d }).coreResults d coresOk
      (s.powerAll [152 + 3 * d, 153 + 3 * d, 154 + 3 * d] true).trainPorts d
    else
      let s := (s.modPwr fun w => { w with dieFail := setBit w.dieFail d }).event evDieHubFault (partCode 2 d) (s.partByte d) [15]
      if d % 4 = 0 then s.modHif (d / 4) fun i => { i with failed := true } else s

/-- The end of a stack's training and test; one that fails is logged as a stack test (R344, R345). -/
def State.stackTrained (s : State) (k : Nat) (ok : Bool) : State :=
  if 24 ≤ k ∨ s.pwr.phase != .serving ∨ s.pwr.shutdown ∨ s.pwr.stackReady.getLsbD k ∨ s.pwr.stackFail.getLsbD k ∨
      (ok ∧ (s.domain (152 + k)).st ≠ 2) then s
  else if ok then
    (s.modPwr fun w => { w with stackReady := setBit w.stackReady k }).modStack k fun x => { x with selfRefresh := true }
  else
    (s.modPwr fun w => { w with stackFail := setBit w.stackFail k }).event evMcFault (partCode 3 k) (s.partByte (dieOfStack k)) [2]

/-- The PLCA node ID of the field port (R383). -/
def State.fieldNode (s : State) : Nat := if s.cfg 0x1200 1 = 1 then s.cfg 0x1200 2 else s.pwr.straps.toNat

/-- A change of the node ID or the count of nodes, answered now: each takes effect 10 ms later (R383). -/
def State.fieldChange (s : State) : State :=
  { s with field := { s.field with changes := s.field.changes ++ [(s.now + 10000000, s.fieldNode, s.cfg 0x1200 3)] } }

/-- The field port takes its node ID and count, and is ready. -/
def State.fieldUp (s : State) : State :=
  if s.serving && !s.pwr.fieldReady then
    let s := s.modPwr fun w => { w with fieldReady := true }
    { s with field := { s.field with nodeId := s.fieldNode, plcaCount := s.cfg 0x1200 3 } }
  else s

/-! ### Host interfaces (R57, R388, R430) -/

/-- PERST#: the interface and its mailbox reset, its channels' staged writes and snapshots discarded. -/
def State.perstAssert (s : State) (h : Nat) : State :=
  if 2 ≤ h then s
  else
    let s := if (s.hif h).ready then s.hostDown h 1 else s
    let s := (s.modHif h fun i => { perst := true, failed := i.failed, raised := i.raised }).resetDale (208 + h)
    { s with chans := s.chans.map fun c => if c.src = .host h then { c with staged := none, snap := none } else c }

def State.perstRelease (s : State) (h : Nat) : State := if h < 2 then s.modHif h fun i => { i with perst := false } else s

/-- The interface reports ready: every queue it serves raises its vector once (R57). -/
def State.hostUp (s : State) (h speed width : Nat) : State :=
  let i := s.hif h
  if 2 ≤ h ∨ i.ready ∨ i.perst ∨ i.failed ∨ s.pwr.phase != .serving ∨ (s.domain (184 + h)).st ≠ 2 ∨
      !s.pwr.diePass.getLsbD (4 * h) ∨ speed = 0 ∨ 6 < speed ∨ width = 0 ∨ 16 < width then s
  else
    let s := s.modHif h fun i => { i with ready := true, linkUp := true, speed := speed, width := width }
    s.regain h allParts

/-! ### Costs lowered inside running work tiles (R419, R423) -/

/-- One core takes a new clock inside its work tile: its grant is lowered to it, and the difference returned. -/
def State.lowerGrant (s : State) (mhz c : Nat) : State :=
  match (s.core c).tile with
  | none => s
  | some t =>
    let n := min t.cost (costAt t.base mhz)
    let s := s.modCore c fun k => { k with tile := some { t with cost := n, mhz := mhz } }
    if t.startAt.isSome then s.modDie (dieOfCore c) fun d => { d with granted := d.granted - (t.cost - n) } else s

/-- The step of R423 at 110 °C. -/
def State.emergency (s : State) (d : Nat) : State :=
  let s := s.modDie d fun x => { x with cap := 500, alert := true }
  (coresOfDie d).foldl (fun s c => s.lowerGrant (s.clockOf d) c) s

/-! ### Temperatures (R271, R350, R396, R423, R425) -/

def State.marginEvent (s : State) (unit p : Nat) (t limit : Int) : State :=
  (s.event evThermalMargin unit p (leBytes 4 (f32Milli t).toNat ++ leBytes 4 (f32Milli limit).toNat)).qualify

/-- Since when a reading has been 115 °C or more (R441). -/
def hotFrom (since : Option Nat) (now : Nat) (t : Int) : Option Nat := if 115000 ≤ t then some (since.getD now) else none

/-- A die's temperature: the alert and the emergency step, and the cap's own command acts on the rest. -/
def State.dieTemp (s : State) (d : Nat) (t : Int) : State :=
  let s := s.modDie d fun x =>
    { x with temp := t, hotSince := hotFrom x.hotSince s.now t, alert := x.alert && decide (97000 ≤ t) }
  if 110000 ≤ t then s.emergency d else s

/-- The margin of a die at 95 °C, armed again at 92 °C, 3 °C below. -/
def State.dieMargin (s : State) (d : Nat) (t : Int) : State :=
  if 95000 ≤ t ∧ (s.die d).marginArmed then
    (s.modDie d fun x => { x with marginArmed := false }).marginEvent (partCode 2 d) (s.partByte d) t 100000
  else if t ≤ 92000 then s.modDie d fun x => { x with marginArmed := true }
  else s

/-- The lower bound of a thermal state, in thousandths of a degree (R271). -/
def thermalFloor (st : Nat) : Int := if st = 3 then 105000 else if st = 2 then 95000 else if st = 1 then 85000 else 0

def thermalRaw (t : Int) : Nat := if 105000 ≤ t then 3 else if 95000 ≤ t then 2 else if 85000 ≤ t then 1 else 0

/-- The state after a reading: up at once, down once it is 3 °C below each bound. -/
def thermalNext (t : Int) : Nat → Nat
  | 0 => thermalRaw t
  | st + 1 =>
    if st + 1 < thermalRaw t then thermalRaw t
    else if t ≤ thermalFloor (st + 1) - 3000 then thermalNext t st
    else st + 1

/-- A stack enters a thermal state: its record, and in state 3 the wait for its queued writes, which a later fall does not
end. -/
def State.setThermal (s : State) (k new : Nat) (t : Int) (counts : Bool) : State :=
  let old := (s.stack k).thermal
  if new = old then s
  else
    let s := (s.modStack k fun x => { x with thermal := new, draining := x.draining || new == 3 }).event
      evStackThermal (partCode 3 k) (s.partByte (dieOfStack k)) (BitVec.ofNat 8 new :: leBytes 4 (f32Milli t).toNat)
    if counts ∧ old < new ∧ 2 ≤ new then s.qualify else s

def State.stackTemp (s : State) (k : Nat) (t : Int) : State :=
  (s.modStack k fun x => { x with temp := t, hotSince := hotFrom x.hotSince s.now t }).setThermal k (thermalNext t (s.stack k).thermal) t true

/-! ### Sensors (R396) -/

def State.sensorSt (s : State) (x : Sensor) : SensorSt :=
  match s.pwr.sensors.find? fun y => y.1 == x with
  | some y => y.2
  | none => {}

def State.setSensor (s : State) (x : Sensor) (v : SensorSt) : State :=
  s.modPwr fun w => { w with sensors := upsert (fun y => y.1 == x) (x, v) w.sensors }

/-- The median of three. -/
def median3 (a b c : Int) : Int := max (min a b) (min (max a b) c)

/-- A sensor as a part of R345, its kind for byte 21, and the die it lies on. -/
def sensorPart : Sensor → Nat × Nat
  | .dieTemp d => (partCode 2 d, 0)
  | .stackTemp k => (partCode 3 k, 0)
  | .domTemp n => (partCode 6 n, 0)
  | .domVolt n => (partCode 6 n, 1)
  | .domCurr n => (partCode 6 n, 2)

def State.sensorByte (s : State) : Sensor → Nat
  | .dieTemp d => if d = 8 then noPart else s.partByte d
  | .stackTemp k => s.partByte (dieOfStack k)
  | _ => noPart

/-- Sensors by the parts of R345: die 8 is MD's. -/
def sensorExists : Sensor → Bool
  | .dieTemp d => d ≤ 8
  | .stackTemp k => k < 24
  | .domTemp n | .domVolt n | .domCurr n => n < 186

/-- The range of R396: a temperature of −40 to 150 °C; a voltage or current within 150 % of its rating. -/
def inRange (x : Sensor) (reading rating : Int) : Bool :=
  match x with
  | .domVolt _ | .domCurr _ => decide (2 * reading.natAbs ≤ 3 * rating.natAbs)
  | _ => decide (-40000 ≤ reading ∧ reading ≤ 150000)

/-- A regulator's margin at 120 °C, armed again at 117 °C, 3 °C below. -/
def State.domMargin (s : State) (n : Nat) (t : Int) : State :=
  let x := s.sensorSt (.domTemp n)
  if 120000 ≤ t ∧ x.marginArmed then
    (s.setSensor (.domTemp n) { x with marginArmed := false }).marginEvent (partCode 6 n) noPart t 125000
  else if t ≤ 117000 then s.setSensor (.domTemp n) { x with marginArmed := true }
  else s

/-- The temperature of MD's die, which only thermal shutdown looks at (R441). -/
def State.mdTemp (s : State) (t : Int) : State :=
  s.modDie 8 fun x => { x with temp := t, hotSince := hotFrom x.hotSince s.now t }

/-- What the consumers of a filtered reading do. -/
def State.consume (s : State) (x : Sensor) (t : Int) : State :=
  match x with
  | .dieTemp d => if d = 8 then s.mdTemp t else (s.dieTemp d t).dieMargin d t
  | .stackTemp k => s.stackTemp k t
  | .domTemp n => s.domMargin n t
  | .domVolt _ | .domCurr _ => s

/-- The most restrictive value for the consumers of a failed temperature sensor: the top of its range (log 38). -/
def State.consumeFailed (s : State) (x : Sensor) : State :=
  match x with
  | .dieTemp d => if d = 8 then s.mdTemp 150000 else (s.dieTemp d 150000).modDie d fun y => { y with marginArmed := false }
  | .stackTemp k => (s.modStack k fun y => { y with temp := 150000 }).setThermal k 3 150000 false
  | .domTemp _ | .domVolt _ | .domCurr _ => s

/-- A sensor fails: its record, a thermal-margin event, and its consumers on the restrictive side. -/
def State.sensorFailed (s : State) (x : Sensor) (cause : Nat) : State :=
  let s := s.setSensor x { s.sensorSt x with failed := true }
  let s := (s.event evSensorFailed (sensorPart x).1 (s.sensorByte x) [BitVec.ofNat 8 (sensorPart x).2, BitVec.ofNat 8 cause]).qualify
  s.consumeFailed x

/-- A sample: kept, and the median of the last three range-checked and handed on. -/
def State.sample (s : State) (x : Sensor) (reading rating : Int) : State :=
  let y := s.sensorSt x
  if !s.pwr.good || !sensorExists x || y.failed then s
  else
    let y := { y with samples := (reading :: y.samples).take 3, lastAt := s.now }
    let s := s.setSensor x y
    match y.samples with
    | [a, b, c] => if inRange x (median3 a b c) rating then s.consume x (median3 a b c) else s.sensorFailed x 0
    | _ => s

/-- 5 ms without a sample, counted from the start of start-up where none has come since. -/
def State.sensorTimeout (s : State) (x : Sensor) : State :=
  let y := s.sensorSt x
  if s.pwr.good && s.pwr.phase != .off && sensorExists x && !y.failed && max y.lastAt s.pwr.startedAt + 5000000 ≤ s.now then s.sensorFailed x 1 else s

/-! ### The thermal cap (R423) -/

/-- A step of a die's cap, at most one each millisecond. -/
def State.capStep (s : State) (d : Nat) : State :=
  let x := s.die d
  let mhz := s.cfg (0x2400 + d) 1
  let due : Bool := match x.capAt with | some t => decide (t + 1000000 ≤ s.now) | none => true
  if 8 ≤ d ∨ !due then s
  else if 100000 ≤ x.temp then s.modDie d fun y => { y with cap := max 500 (min y.cap mhz - 25), capAt := some s.now }
  else if x.temp < 97000 then
    s.modDie d fun y => { y with cap := if mhz ≤ y.cap + 25 then 1100 else y.cap + 25, capAt := some s.now }
  else s

/-- THERM_ALERT_N is asserted (R425). -/
def State.thermAlert (s : State) : Bool :=
  s.pwr.good && !s.pwr.resetHeld &&
    (s.pwr.shutdown || (List.range 8).any (fun d => (s.die d).alert) || (List.range 24).any fun k => 2 ≤ (s.stack k).thermal)

/-! ### The pins of the module (R433) -/

inductive Pin where
  | blades
  | presentN
  | resetN
  | perstN (h : Nat)
  | strap
  | thermAlertN
  | refclk (h : Nat)
  | pcieLanes (h : Nat)
  | joriqueLane (p lane : Nat)
  | t1s
  deriving DecidableEq, Repr

inductive PinState where
  | hotSwapOpen
  | powered
  | grounded
  | highImpedance
  | input
  | released
  | asserted
  | terminationsOff
  | terminated
  | undriven
  | active
  deriving DecidableEq, Repr

/-- Powered and not in a module reset. -/
def State.poweredUp (s : State) : Bool := s.pwr.good && !s.pwr.resetHeld

/-- What a pin shows: unpowered, in a module reset, or running. -/
def State.pin (s : State) : Pin → PinState
  | .blades => if s.pwr.good then .powered else .hotSwapOpen
  | .presentN => .grounded
  | .resetN | .perstN _ | .strap => if s.pwr.good then .input else .highImpedance
  | .thermAlertN => if s.thermAlert then .asserted else .released
  | .refclk _ => if s.poweredUp then .terminated else .terminationsOff
  | .pcieLanes h => if s.poweredUp && !(s.hif h).perst then .active else .undriven
  | .joriqueLane p lane =>
    if s.poweredUp && (s.port p).st != .off && !(lane == 4 && s.portMode p == 2) then .active else .undriven
  | .t1s => if s.poweredUp then .active else .highImpedance

/-- The connector of a Jorique port's lane, its lane position there, and the contacts of its pair's two legs (R437): lanes
0 to 3, and 4 for LS. -/
def lanePlace (p lane : Nat) : Nat × Nat × (Nat × Nat) :=
  let q := 5 * (p % 4) + lane
  (p / 4, q, (3 * q + 1, 3 * q + 2))

/-! ### Thermal shutdown (R441) -/

/-- Every switched domain off, and with them all that they power: no queue, engine or core of any context goes on after it. -/
def State.darken (s : State) : State :=
  let s := (List.range s.partCount).foldl (fun s p => s.stopUnits p) s
  let s := s.modFab fun f => { f with handed := [] }
  let s := (List.range 32).foldl (fun s p => if (s.port p).st = .off then s else s.dropPort p .down) s
  let s := [0, 1].foldl (fun s h => s.modHif h fun i => { i with ready := false, linkUp := false, speed := 0, width := 0, msixOn := false }) s
  (s.powerAll (List.range 186) false).modPwr fun w => { w with shutdown := true, ledgerOn := false }

/-- Any die or stack that reads 115 °C for 1 ms; a failed sensor reads nothing. -/
def State.thermalShutdown (s : State) (onStack : Bool) (unit : Nat) : State :=
  let sensor : Sensor := if onStack then .stackTemp unit else .dieTemp unit
  let t := if onStack then (s.stack unit).temp else (s.die unit).temp
  let since := if onStack then (s.stack unit).hotSince else (s.die unit).hotSince
  let hot : Bool := match since with | some a => decide (a + 1000000 ≤ s.now) | none => false
  if !s.pwr.good || s.pwr.shutdown || !sensorExists sensor || (s.sensorSt sensor).failed || !hot then s
  else
    (s.event evThermalShutdown (sensorPart sensor).1 (s.sensorByte sensor) (leBytes 4 (f32Milli t).toNat)).darken

/-- A stack in thermal state 3 has written what it had queued: its partition resets (R271). -/
def State.writesDone (s : State) (k : Nat) : State :=
  if (s.stack k).draining then
    (s.modStack k fun x => { x with draining := false }).causeReset (s.partOfDie (dieOfStack k)) 4
  else s

/-! ### Pips (R413, R417, R418) -/

/-- Pips of every domain that is not OFF, and the always-on reserve. -/
def State.baseline (s : State) : Nat :=
  ((List.range 186).filter fun n => (s.domain n).st != 0).foldl (fun t n => t + baselineOf n) 148

def State.pool (s : State) : Nat := s.cfg 0x2000 1 - s.baseline

def total (l : List Nat) : Nat := l.foldl (· + ·) 0

/-- Granted pips and waiting requests of a die. -/
def State.demand (s : State) (d : Nat) : Nat :=
  (s.die d).granted + total ((s.die d).waiting.map fun c => match (s.core c).tile with | some t => t.cost | none => 0)

/-- A die's minimum: the cost of class A on each of its slot-assigned cores. -/
def State.minimum (s : State) (d : Nat) : Nat :=
  ((coresOfDie d).filter fun c => (s.core c).slot.isSome).length * costAt 13 (s.clockOf d)

/-- One round: each die whose demand is unmet takes a share. -/
def roundOf (demand allot : List Nat) (share : Nat) : List Nat :=
  List.zipWith (fun a d => a + min share (d - a)) allot demand

/-- The rounds, until nothing is left or no share is at least 1. -/
def rounds (pool : Nat) (demand : List Nat) : Nat → List Nat → List Nat
  | 0, allot => allot
  | fuel + 1, allot =>
    let unmet := ((List.zip allot demand).filter fun x => x.1 < x.2).length
    let left := pool - total allot
    let share := if unmet = 0 then 0 else left / unmet
    if share = 0 then allot else rounds pool demand fuel (roundOf demand allot share)

/-- What the other dies give for a shortfall, in descending die number, each down to its own minimum. -/
def giveFor (mins : List Nat) (d : Nat) : List Nat → Nat → List Nat → List Nat
  | [], _, allot => allot
  | o :: rest, short, allot =>
    if o = d then giveFor mins d rest short allot
    else
      let k := min short (nth 0 allot o - nth 0 mins o)
      giveFor mins d rest (short - k) (allot.set o (nth 0 allot o - k))

/-- The minimums met, die by die. -/
def meetMins (mins allot : List Nat) : List Nat :=
  (List.range 8).foldl
    (fun a d =>
      let short := nth 0 mins d - nth 0 a d
      if short = 0 then a else giveFor mins d [7, 6, 5, 4, 3, 2, 1, 0] short (a.set d (nth 0 mins d))) allot

/-- Minimums that do not fit share the pool in proportion; what is left goes one each, ascending. -/
def shareMins (pool : Nat) (mins : List Nat) : List Nat :=
  let base := mins.map fun m => pool * m / total mins
  let left := pool - total base
  (List.range 8).map fun d => nth 0 base d + if d < left then 1 else 0

/-- The allotments of R417. -/
def divide (pool : Nat) (demand mins : List Nat) : List Nat :=
  if pool < total mins then shareMins pool mins
  else
    let first :=
      if total demand ≤ pool then demand.map (· + (pool - total demand) / 8)
      else rounds pool demand 16 (List.replicate 8 0)
    meetMins mins first

/-- The division of the pool, once in each aligned 100 µs of module time. -/
def State.pipDivision (s : State) : State :=
  if !s.pwr.ledgerOn ∨ s.pwr.dividedAt = some (s.now / 100000) then s
  else
    let a := divide s.pool ((List.range 8).map s.demand) ((List.range 8).map s.minimum)
    let s := s.modPwr fun w => { w with dividedAt := some (s.now / 100000) }
    (List.range 8).foldl (fun s d => s.modDie d fun x => { x with allot := nth 0 a d }) s

/-- The ramping domains of a die take parts of their baselines, lowest first. -/
def State.accept (s : State) : List Nat → Nat → State × Nat
  | [], room => (s, room)
  | n :: rest, room =>
    let x := s.domain n
    let k := if x.st = 1 then min room (baselineOf n - x.admitted) else 0
    (if k = 0 then s else s.modDomain n fun x => { x with admitted := x.admitted + k }).accept rest (room - k)

def State.rampDie (s : State) (d : Nat) : State :=
  let r := s.accept ((List.range 186).filter fun n => dieOfDomain n == d) 25
  r.1.modDie d fun x => { x with intervalBase := x.granted, ramped := 25 - r.2 }

/-- An aligned interval of 10 µs of module time begins. -/
def State.rampInterval (s : State) : State :=
  if s.pwr.good && !s.pwr.shutdown && s.pwr.rampedAt != some (s.now / 10000) then
    (List.range 8).foldl (fun s d => s.rampDie d) (s.modPwr fun w => { w with rampedAt := some (s.now / 10000) })
  else s

/-- A ramping domain whose baseline is admitted is ON; one whose rail does not rise has FAILED (R412). -/
def State.domainOn (s : State) (n : Nat) (rose : Bool) : State :=
  let x := s.domain n
  if 186 ≤ n ∨ x.st ≠ 1 then s
  else if !rose then s.domainFailed n
  else if x.admitted = baselineOf n then s.modDomain n fun x => { x with st := 2 }
  else s

/-! ### Droop (R421, R422) -/

/-- The lowest dale on the rail of a dale: the four port dales of a cluster share its rail, and MD's dales the always-on
one (R410). -/
def railOf (n : Nat) : Nat := if n < 176 then n else if n < 208 then n / 4 * 4 else if n < 210 then n else 210

/-- The clock stretches; the rail's first droop in a second is a qualifying event. -/
def State.droopTrip (s : State) (n : Nat) : State :=
  if !s.daleRuns n ∨ (s.dale n).droopAt.isSome then s
  else
    let fresh : Bool := match (s.dale (railOf n)).lastEvent with | some t => decide (t + 1000000000 ≤ s.now) | none => true
    let s := s.modDale n fun x =>
      { x with stretches := satAdd 32 x.stretches 1, droopAt := some s.now, droopRaised := fresh }
    if fresh then (s.modDale (railOf n) fun x => { x with lastEvent := some s.now }).qualify else s

/-- The clock a core runs at: that which it took with its work tile, else its die's (R423). -/
def State.coreMhz (s : State) (c : Nat) : Nat :=
  match (s.core c).tile with
  | some t => if t.startAt.isSome then t.mhz else s.clockOf (dieOfCore c)
  | none => s.clockOf (dieOfCore c)

/-- A threshold in mV: of the rail of a core dale under R415; the spec gives no set voltage of the other rails, and the
value is free (log 40). -/
def State.thresholdMv (s : State) (n : Nat) : Nat × State :=
  if n < 144 then (railMv (s.coreMhz n) * (s.dale n).threshold / 1000, s)
  else
    let d := s.draw
    (d.1.toNat % 65536, d.2)

/-- The rail has stayed above the threshold for 100 ns: the record of the droop that raised the event. -/
def State.droopEnd (s : State) (n lowest : Nat) : State :=
  match (s.dale n).droopAt with
  | none => s
  | some a =>
    if s.now < a + 100 then s
    else
      let raised := (s.dale n).droopRaised
      let s := s.modDale n fun x => { x with droopAt := none, droopRaised := false }
      if raised then
        let t := s.thresholdMv n
        t.2.event evDroop (partCode 7 n) (s.daleByte n) (leBytes 2 lowest ++ leBytes 2 t.1)
      else s

/-- A calibration step on an idle, unassigned core whose last one is 10 s back. -/
def State.calStart (s : State) (c : Nat) : State :=
  let k := s.core c
  let due : Bool := match k.calAt with | some t => decide (t + 10000000000 ≤ s.now) | none => true
  if c < 144 && due && !s.isFenced c && (s.domain c).st == 2 && !s.inHold c && k.tile.isNone && k.slot.isNone && k.cal.isNone &&
      s.rampNow && (s.die (dieOfCore c)).mayGrant 8 then
    (s.modCore c fun k => { k with cal := some 8, calFrom := s.now }).modDie (dieOfCore c) fun d => { d with granted := d.granted + 8 }
  else s

/-- The step's 2 µs are over: the droop is recorded and the threshold trimmed within 90 % to 95 %, to a value the spec
leaves open (log 40). -/
def State.calStop (s : State) (c droop : Nat) : State :=
  if (s.core c).cal.isNone ∨ s.now < (s.core c).calFrom + 2000 then s
  else
    let v := s.draw
    (((v.2).endCal c).modCore c fun k => { k with calAt := some s.now }).modDale c fun x =>
      { x with calDroop := droop, threshold := 900 + v.1.toNat % 51 }

/-! ### The commands -/

def execPowerGood (straps : BitVec 4) (s : State) : Host.Outcome State Fault Refusal := .next (s.powerGood straps)
def execPowerGoodLoss (s : State) : Host.Outcome State Fault Refusal := .next s.powerGoodLoss
def execHotSwapOpen (s : State) : Host.Outcome State Fault Refusal := .next s.hotSwapOpen
def execResetNAssert (s : State) : Host.Outcome State Fault Refusal := .next s.resetAssert
def execResetNRelease (s : State) : Host.Outcome State Fault Refusal := .next s.resetRelease
def execBootComplete (bank0 bank1 : Option Nat) (store : Bool) (s : State) : Host.Outcome State Fault Refusal :=
  .next (s.bootComplete bank0 bank1 store)
def execBuiltInTestDone (d : Nat) (passed : Bool) (coresOk : BitVec 18) (s : State) : Host.Outcome State Fault Refusal :=
  .next (s.testDone d passed coresOk)
def execStackTrained (k : Nat) (ok : Bool) (s : State) : Host.Outcome State Fault Refusal := .next (s.stackTrained k ok)
def execFieldPortReady (s : State) : Host.Outcome State Fault Refusal := .next s.fieldUp
def execPerstAssert (h : Nat) (s : State) : Host.Outcome State Fault Refusal := .next (s.perstAssert h)
def execPerstRelease (h : Nat) (s : State) : Host.Outcome State Fault Refusal := .next (s.perstRelease h)
def execHostLinkUp (h speed width : Nat) (s : State) : Host.Outcome State Fault Refusal := .next (s.hostUp h speed width)
def execSensorSample (sensor : Sensor) (reading rating : Int) (s : State) : Host.Outcome State Fault Refusal :=
  .next (s.sample sensor reading rating)
def execSensorTimeout (sensor : Sensor) (s : State) : Host.Outcome State Fault Refusal := .next (s.sensorTimeout sensor)
def execThermalCapStep (d : Nat) (s : State) : Host.Outcome State Fault Refusal := .next (s.capStep d)
def execThermalShutdown (onStack : Bool) (unit : Nat) (s : State) : Host.Outcome State Fault Refusal :=
  .next (s.thermalShutdown onStack unit)
def execQueuedWritesComplete (k : Nat) (s : State) : Host.Outcome State Fault Refusal := .next (s.writesDone k)
def execDroopTrip (dale : Nat) (s : State) : Host.Outcome State Fault Refusal := .next (s.droopTrip dale)
def execDroopStretchEnd (dale lowestMv : Nat) (s : State) : Host.Outcome State Fault Refusal :=
  .next (s.droopEnd dale lowestMv)
def execDroopCalibration (core : Nat) (s : State) : Host.Outcome State Fault Refusal := .next (s.calStart core)
def execCalibrationStepEnd (core droopPermille : Nat) (s : State) : Host.Outcome State Fault Refusal :=
  .next (s.calStop core droopPermille)
def execPipDivision (s : State) : Host.Outcome State Fault Refusal := .next s.pipDivision
def execRampInterval (s : State) : Host.Outcome State Fault Refusal := .next s.rampInterval
def execDomainOn (n : Nat) (rose : Bool) (s : State) : Host.Outcome State Fault Refusal := .next (s.domainOn n rose)

end Sys2Proof.Machine
end

