-- ==== Sys2Proof/Machine/Part.lean ====
section
/-! DEFINITION. Sys2Proof/Machine/Part.lean: what the writes that chapters 2, 6, 7, 9, 10, 11 and 13 describe do once their
roles and ranges have passed: partitions (R324, R325), contexts (R330 to R332), queues (R31), schedules (R334, R335), caches
(R220) and the entries whose writes have conditions of their own. Each answers an abort code of R382 or a state. -/
namespace Sys2Proof.Machine

abbrev WriteM := Except Nat State

/-- The state after a write whose value and state conditions hold, in the order of R382. -/
def guarded (value state : Bool) (s : State) : WriteM :=
  if !value then .error abBadValue else if !state then .error abState else .ok s

/-! ### Partitions (R324, R325, R408) -/

def State.partCreate (s : State) (p : Nat) : WriteM :=
  guarded true ((s.part p).st == .absent)
    ((s.modPart p fun x => { x with st := .creating }).powerCores p true)

/-- Every die and stack of a partition is ready, and no unit of it has failed again (R391, R447). -/
def State.partReady (s : State) (p : Nat) : Bool :=
  (s.diesOf p).all s.pwr.diePass.getLsbD && (s.stacksOf p).all s.pwr.stackReady.getLsbD && (s.part p).health == 0

/-- The hash key and the partition keys, drawn. -/
def State.drawKeys (s : State) : PartKeys × State :=
  let a := s.draw
  let b := a.2.draw
  let c := b.2.draw
  let d := c.2.draw
  ({ hash := a.1.truncate 64, memory := b.1, send := c.1.truncate 256, swap := d.1.truncate 256 }, d.2)

/-- ACTIVATE draws the keys and begins to zero; a random source that has failed its test fails it (R406). -/
def State.partActivate (s : State) (p : Nat) : WriteM :=
  if (s.part p).st != .creating then .error abState
  else if !s.partReady p then .error abNotReady
  else if !s.sec.rngOk then .error abInternal
  else
    let k := s.drawKeys
    .ok (k.2.modPart p fun x => { x with st := .activating, keys := some k.1 })

/-- The stacks are zero: partition time and the epoch counters start, and the partition is READY. -/
def State.activated (s : State) (p : Nat) : State :=
  if (s.part p).st != .activating || s.pwr.shutdown then s
  else
    let s := s.zeroStacks p
    let s := (s.stacksOf p).foldl (fun s k => s.modStack k fun x => { x with selfRefresh := false }) s
    s.modPart p fun x =>
      { x with st := .ready, origin := s.now, resets := 0, cause := 0, sendEpoch := 0, swapEpoch := 0, recovering := false,
               frameAt := none, frameT0 := 0, assignAt := 0, hotAt := 0 }

def State.partResetCmd (s : State) (p : Nat) : WriteM := guarded true ((s.part p).st == .ready) (s.partReset p 1)

/-- Whether a part of R345 is a die or a stack of a partition. -/
def State.unitIn (s : State) (p unit : Nat) : Bool :=
  (unit / 4096 == 2 && (s.diesOf p).contains (unit % 4096)) || (unit / 4096 == 3 && (s.stacksOf p).contains (unit % 4096))

/-- The reset and its built-in tests are over, or, outside a partition reset, the recovery of units (R447); `failed` has failed
its test again (R341, R346, R447). -/
def State.partResetDone (s : State) (p : Nat) (failed : Option Nat) : State :=
  let x := s.part p
  match failed with
  | none =>
    if s.pwr.shutdown then s
    else if x.st == .resetting && x.health == 0 then
      let table := s.cfgBytes (0x3020 + p) 2
      (s.stacksOf p).foldl (fun s k => s.modStack k fun y => { y with selfRefresh := false })
        (s.modPart p fun y => { y with st := .ready, tableNext := table })
    else s.modPart p fun y => { y with recovering := false }
  | some u =>
    if !s.unitIn p u then s
    else
      match x.st with
      | .resetting => if x.health = 0 then s.partFailed p u else s
      | .creating | .activating => if x.recovering && x.health == 0 then s.partFailed p u else s
      | .absent => s.unitFailed u
      | .destroying => if u / 4096 = 3 then s.unitFailed u else s
      | .ready => s

def State.partDestroy (s : State) (p : Nat) : WriteM :=
  guarded true ((s.part p).st == .creating || (s.part p).st == .ready) (s.destroy p)

def State.destroyDone (s : State) (p : Nat) : State := if (s.part p).st = .destroying then s.destroyed p else s

/-- PART_COMMAND. -/
def State.partCommand (s : State) (p v : Nat) : WriteM :=
  match v with
  | 1 => s.partCreate p
  | 2 => s.partActivate p
  | 3 => s.partResetCmd p
  | _ => s.partDestroy p

/-- A partition destroyed under R408 in one piece (R407, R409). -/
def State.destroyNow (s : State) (p : Nat) : State := if (s.part p).st = .absent then s else (s.destroy p).destroyed p

/-! ### Contexts (R329 to R332, R342) -/

/-- CREATE: configuration written while the context was FREE is kept (R331, R445). -/
def State.ctxCreate (s : State) (g : Nat) : WriteM :=
  guarded true ((s.part (partOfCtx g)).st == .ready && (s.ctx g).st == .free)
    (((s.modCtx g fun c =>
      { c with st := .active, ctr := [], queues := [], busyNs := 0, createdAt := s.ctxTime g, signalRejects := 0, attempt := 0,
               faultStatus := 0, faultAt := 0 }).dropXlat g).initStash g)

/-- What a context's teardown stops at once: dispatch, engines and speculative replays. A replay that a get waits for ends with
the work tiles it has on cores. -/
def Ctx.fold (c : Ctx) : Ctx :=
  { c with
    st := .teardown
    kv := { c.kv with waiting := none, order := [] }
    colls := []
    stash := { c.stash with specs := c.stash.specs.filter (·.owner.isSome) }
    secure := { c.secure with op := none, build := none, holds := [], serving := [], phase := 0 } }

/-- The cores forget the pairs of a context (R148). -/
def State.dropPairs (s : State) (g : Nat) : State :=
  ((List.range 144).filter fun c => match (s.core c).pair with | some x => x.1 == g | none => false).foldl
    (fun s c => s.modCore c fun k => { k with pair := none }) s

def State.ctxTeardown (s : State) (g : Nat) : WriteM :=
  if (s.part (partOfCtx g)).st != .ready then .error abState
  else
    match (s.ctx g).st with
    | .free => .error abState
    | .teardown => .ok s
    | _ => .ok ((((((s.cutSpeculative g).modCtx g Ctx.fold).dropXlat g).dropPairs g).dropWaiting g).stopQueues g)

/-- Every entry of a context at its default, and the context FREE. -/
def State.freeCtx (s : State) (g : Nat) : State :=
  let s := { s with ctxs := s.ctxs.filter fun kv => kv.1 != g }
  s.dropCfg fun k => [0x3200, 0x3400, 0x3600, 0x5100].any fun b => k / 256 == b + g

def State.teardownDone (s : State) (g : Nat) : State :=
  if (s.ctx g).st == .teardown && (s.coresWith fun t => t.g == g) == [] then s.freeCtx g else s

def State.invalidate (s : State) (g : Nat) : WriteM :=
  guarded true ((s.part (partOfCtx g)).st == .ready) (s.dropXlat g)

/-- CTX_COMMAND. -/
def State.ctxCommand (s : State) (g v : Nat) : WriteM :=
  match v with
  | 1 => s.ctxCreate g
  | 2 => s.ctxTeardown g
  | _ => s.invalidate g

/-! ### Queue configuration (R29 to R31) -/

/-- The record's fields within their ranges, its reserved bits zero, and an interface that serves the partition. -/
def State.queueValueOk (s : State) (g r : Nat) : Bool :=
  bitsOf r 57 7 == 0 && bitsOf r 121 7 == 0 && bitsOf r 137 7 == 0 && bitsOf r 161 15 == 0 && bitsOf r 224 32 == 0 &&
  recRingBase r % 4096 == 0 && recCplBase r % 4096 == 0 && 6 ≤ recLog2 r && recLog2 r ≤ 16 && recVector r ≤ 2047 &&
  recHoldoff r ≤ 1000 && 1 ≤ recWaitLimit r && recWaitLimit r ≤ 600000 && s.hostServes (recHostSel r) (partOfCtx g)

/-- Whether the queue's state accepts a record over the stored one: ENABLE 1 only in an ACTIVE context whose queue is neither
DRAINING nor STOPPED (log 78), and no other field may change while ENABLE reads 1. -/
def State.queueStateOk (s : State) (g q old new : Nat) : Bool :=
  if recEnable new then
    (s.ctx g).st == .active && if recEnable old then (s.queue g q).st == .running && new == old else (s.queue g q).st == .disabled
  else !recEnable old || new + 2 ^ 136 == old

/-- The queue after an accepted write. ENABLE 1 starts it afresh but for an interrupt still due and the holdoff (R63). ENABLE 0
stops dispatch: a descriptor that still waits never starts (R31, log 77). -/
def Queue.configured (u : Queue) (old new : Nat) : Queue :=
  if recEnable new && !recEnable old then { st := .running, lastInt := u.lastInt, intDue := u.intDue }
  else if !recEnable new && recEnable old && u.st == .running then
    Queue.settle { u with st := .draining, inForce := some (leBytes 32 old), taken := [], runs := u.runs.filter (·.waitDone) }
  else u

def State.queueWrite (s : State) (g q : Nat) (rec : Bytes) : WriteM :=
  let old := s.queueRec g q
  let new := leNat rec
  guarded (s.queueValueOk g new) (s.queueStateOk g q old new)
    ((s.setCfg (0x3200 + g) (q + 1) rec).modQueue g q fun u => u.configured old new)

/-! ### Context entries (R153, R166, R219, R220, R330) -/

/-- The word of a context's address or size that must be a multiple of n. -/
def ctxAlign (s : State) (sub : Nat) : Nat :=
  match sub with
  | 0x06 | 0x10 | 0x20 | 0x24 | 0x25 | 0x30 | 0x36 => 4096
  | 0x22 | 0x32 => 2 ^ 21
  | 0x23 => s.dieCount * 2 ^ 21
  | _ => 1

def kvGeometryOk (v : Nat) : Bool := !v.testBit 3 && bitsOf v 24 8 == 0 && (kvGeoOf v).isSome

/-- The field rules of a context entry. -/
def State.ctxValueOk (s : State) (g sub v : Nat) : Bool :=
  v % ctxAlign s sub == 0 &&
    match sub with
    | 0x08 => s.hostServes v (partOfCtx g)
    | 0x34 => kvGeometryOk v
    | _ => true

/-- A sequence record that does not say otherwise counts as IDLE. -/
def State.seqIdleAt (s : State) (g n : Nat) : Bool :=
  match s.readRaw g (s.seqAddr g n) 64 with
  | .ok b => (seqOf b).st == seqIdle
  | .error _ => true

def State.allIdle (s : State) (g : Nat) : Bool := (List.range (s.kvCfg g 0x31)).all (s.seqIdleAt g)

/-- When a context entry may be written. -/
def State.ctxStateOk (s : State) (g sub : Nat) : Bool :=
  if sub = 0x05 then true
  else if 0x30 ≤ sub ∧ sub ≤ 0x36 then !(s.ctx g).hasWork && s.allIdle g
  else !(s.ctx g).hasWork

/-- The cache started afresh (R220). Records that cannot be written are left from the first of them on, as those of the stash
table are (DESIGN CHOICE, log 31). -/
def State.startCache (s : State) (g : Nat) : State :=
  let n := s.kvCfg g 0x33
  if s.kvCfg g 0x31 = 0 ∨ n = 0 then s
  else
    let s := (s.writeAll g ((List.range (s.kvCfg g 0x31)).map fun i => (s.seqAddr g i, zeros 32))).1
    s.modKv g fun k => { k with fifo := (List.range n).map fun f => (f, none), available := n, swaps := [] }

/-- What an accepted write of a context entry does beyond being stored. -/
def State.ctxEffect (s : State) (g sub : Nat) : State :=
  match sub with
  | 0x06 | 0x07 | 0x08 => s.dropXlat g
  | 0x20 | 0x21 => s.initStash g
  | 0x31 | 0x32 | 0x33 | 0x34 | 0x36 => s.startCache g
  | _ => s

def State.ctxWrite (s : State) (g sub : Nat) (data : Bytes) : WriteM :=
  if sub = 0x35 ∧ s.kvCfg g 0x33 < leNat data then .error abAboveRange
  else if !s.ctxValueOk g sub (leNat data) then .error abBadValue
  else if !s.ctxStateOk g sub then .error abState
  else .ok ((s.setCfg (0x3600 + g) sub data).ctxEffect g sub)

/-! ### The schedule (R333 to R335) -/

/-- Schedule entries are written while the partition exists (log 36). -/
def State.schedOpen (s : State) (p : Nat) : Bool := (s.part p).st != .absent && (s.part p).st != .destroying

/-- FRAME_US: the frames that follow begin at the next multiple of it. -/
def State.frameWrite (s : State) (p : Nat) (data : Bytes) : WriteM :=
  let v := leNat data
  if 0 < v ∧ v < 100 then .error abBelowRange
  else if !s.schedOpen p then .error abState
  else
    let now := if (s.part p).st = .ready ∨ (s.part p).st = .resetting then s.partTime p else 0
    .ok (((s.setCfg (0x3020 + p) 1 data).modPart p fun x =>
      { x with frameAt := none, frameT0 := roundUp now (max 1 (v * 1000)) }).assignPart p)

/-- One slot within its fields and its frame. -/
def slotFits (frameUs dies : Nat) (table : Bytes) (i : Nat) : Bool :=
  let x := slotOf table i
  bitsOf (fld table (16 * i + 9) 1) 6 2 == 0 && fld table (16 * i + 11) 5 == 0 &&
    (x.len == 0 || (20 ≤ x.len && x.start + x.len ≤ frameUs && x.n ≤ 63 && 1 ≤ x.cores && x.cores ≤ 16 &&
      x.mask / 2 ^ dies == 0))

/-- The cores that the slots covering an instant reserve on a die. -/
def coresAt (table : Bytes) (t die : Nat) : Nat :=
  (((List.range 64).map (slotOf table)).filter fun x => x.len != 0 && x.start ≤ t && t < x.start + x.len && x.mask.testBit die).foldl
    (fun n x => n + x.cores) 0

/-- A table that R334 accepts; the cores reserved are most at some slot's start. -/
def tableOk (frameUs dies : Nat) (table : Bytes) : Bool :=
  (List.range 64).all (slotFits frameUs dies table) &&
    ((List.range 64).filter fun i => (slotOf table i).len != 0).all fun i =>
      (List.range dies).all fun d => coresAt table (slotOf table i).start d ≤ 16

/-- SLOT_TABLE: it governs from the next frame start on, or, written during a partition reset, from the first after READY
(R335, R342). -/
def State.slotTableWrite (s : State) (p : Nat) (table : Bytes) : WriteM :=
  guarded (tableOk (s.cfg (0x3020 + p) 1) s.dieCount table) (s.schedOpen p)
    ((s.setCfg (0x3020 + p) 2 table).modPart p fun x =>
      { x with tableNext := if x.st = .resetting then x.tableNext else table })

/-! ### Role masks, SHAPE, memory, clocks (R14, R254, R323, R424) -/

def State.roleMaskWrite (s : State) (d : Nat) (data : Bytes) : WriteM :=
  let v := leNat data
  guarded (v / 2 ^ 18 == 0 && popcount 18 v == 16 && v &&& (s.die d).fenced.toNat == 0) (!s.partHasWork (s.partOfDie d))
    ((s.setCfg 0x2010 (d + 1) data).assignDie (s.partOfDie d) d)

/-- SHAPE: the indices of partitions and contexts that no longer exist are forgotten. -/
def State.shapeWrite (s : State) (data : Bytes) : WriteM :=
  let parts := partsOf (leNat data)
  guarded true ((List.range 8).all fun p => (s.part p).st == .absent)
    ((s.setCfg 0x3000 1 data).dropCfg fun k =>
      match groupOf 0 (k / 256) with
      | some (.sched, i) => decide (parts ≤ i)
      | some (.qcfg, i) | some (.ctx, i) => decide (64 * parts ≤ i)
      | _ => false)

def State.memWrite (s : State) (p sub : Nat) (data : Bytes) : WriteM :=
  if sub = 1 ∧ usable s.variant / 2 ^ 30 < leNat data then .error abAboveRange
  else guarded true ((s.part p).st == .creating) (s.setCfg (0x3800 + p) sub data)

def State.clockWrite (s : State) (d : Nat) (data : Bytes) : WriteM :=
  guarded (leNat data % 25 == 0) true (s.setCfg (0x2400 + d) 1 data)

/-! ### Ports, routes and ranks (R281, R293) -/

/-- A port taken down and, unless OFF, retrained in its mode; the cluster is off while all four are OFF (R410). -/
def State.applyMode (s : State) (p : Nat) : State :=
  let d := dieOfPort p
  let off := s.portMode p == 0
  let s := s.dropPort p (if off then .off else .down)
  if (List.range 4).all fun i => s.portMode (4 * d + i) == 0 then s.powerOff (176 + d)
  else
    let s := if s.pwr.diePass.getLsbD d || s.pwr.dieFail.getLsbD d then s.powerOn (176 + d) else s
    if off || !s.pwr.diePass.getLsbD d then s else s.modPort p fun x => { x with st := .training }

def State.portWrite (s : State) (p sub : Nat) (data : Bytes) : WriteM :=
  let v := leNat data
  if sub = 1 then .ok ((s.setCfg (0x4000 + p) 1 data).applyMode p)
  else
    guarded (sub != 3 || v ≤ 15 || v == 0xFF) (sub == 6 || s.portMode p == 0) (s.setCfg (0x4000 + p) sub data)

def dimOk (b : Bytes) : Bool := (List.range 48).all fun i => fld b (8 * i) 8 / 2 ^ 33 == 0
def exceptionsOk (b : Bytes) : Bool := (List.range (b.length / 8)).all fun i => bitsOf (fld b (8 * i) 8) 19 13 == 0

def State.routeWrite (s : State) (sub : Nat) (data : Bytes) : WriteM :=
  match sub with
  | 1 => guarded true ((List.range 32).all fun p => !(s.port p).live) (s.setCfg 0x4100 1 data)
  | 2 => guarded (dimOk data) true (s.setCfg 0x4100 2 data)
  | 3 => guarded (exceptionsOk data) true (s.setCfg 0x4100 3 data)
  | _ => .ok (s.setCfg 0x4100 sub data)

def rankEntryOk (e : Nat) : Bool := bitsOf e 21 10 == 0
def rankMapOk (b : Bytes) : Bool := (List.range (b.length / 4)).all fun i => rankEntryOk (fld b (4 * i) 4)

/-- What follows a change of a partition's ranks: MISSING at once, and the securing of its groups (R318, R366). -/
def State.ranksChanged (s : State) (p : Nat) : State := (s.collRanks p).secureRanks p

/-- RANK_MAP as it stands: RANKS entries. -/
def State.rankBytes (s : State) (p : Nat) : Bytes := sized (4 * s.ranks p) (s.cfgBytes (0x4110 + p) 3)

/-- RANK_SET: one entry replaced. -/
def State.rankSet (s : State) (p v : Nat) : WriteM :=
  let r := v % 2 ^ 18
  let e := v / 2 ^ 32
  guarded (bitsOf v 18 14 == 0 && r < s.ranks p && rankEntryOk e) true
    ((s.setCfg (0x4110 + p) 3 (putBytes (s.rankBytes p) (4 * r) (leBytes 4 e))).ranksChanged p)

def State.rankWrite (s : State) (p sub : Nat) (data : Bytes) : WriteM :=
  match sub with
  | 3 => guarded (rankMapOk data) true ((s.setCfg (0x4110 + p) 3 data).ranksChanged p)
  | 4 => s.rankSet p (leNat data)
  | _ => .ok ((s.setCfg (0x4110 + p) sub data).ranksChanged p)

/-! ### MD's own entries (R349, R350, R376, R383, R384) -/

/-- A changed node ID or PLCA count takes effect 10 ms later. -/
def State.linkWrite (s : State) (sub : Nat) (data : Bytes) : WriteM :=
  let v := leNat data
  let node := sub = 1 ∨ sub = 2 ∨ sub = 3
  let changed := s.cfg 0x1200 sub ≠ v
  guarded (!(sub == 8 || sub == 9) || v == 0 || v == 2 || v == 4) true
    (let s := s.setCfg 0x1200 sub data
     if node ∧ changed then s.fieldChange else s)

/-- The changes whose 10 ms are over take effect in their order. -/
def State.nodeIdApply (s : State) : State :=
  match (s.field.changes.filter (·.1 ≤ s.now)).getLast? with
  | some (_, n, c) =>
    { s with field :=
        { s.field with nodeId := n, plcaCount := c, changes := s.field.changes.filter (s.now < ·.1) } }
  | none => s

def State.domainEvent (s : State) : State := (s.event evDomainEvent (partCode 0 0) noPart []).qualify

def State.healthWrite (s : State) (sub : Nat) (data : Bytes) : WriteM :=
  if sub = 6 then .ok s.domainEvent
  else
    let t := s.setCfg 0x5000 sub data
    guarded (sub != 2 || [2, 4, 8, 16, 32, 64].contains (leNat data)) true (if sub = 8 then t.ceSweep else t)

def State.budgetWrite (s : State) (sub : Nat) (data : Bytes) : WriteM :=
  if sub = 2 then .ok (s.modPwr fun w => { w with resetAt := some (w.time + 1000000) })
  else .ok (s.setCfg 0x2000 sub data)

/-! ### The commands that no write carries -/

def execActivateComplete (p : Nat) (s : State) : Host.Outcome State Fault Refusal := .next (s.activated p)
def execPartResetComplete (p : Nat) (failed : Option Nat) (s : State) : Host.Outcome State Fault Refusal :=
  .next (s.partResetDone p failed)
def execDestroyComplete (p : Nat) (s : State) : Host.Outcome State Fault Refusal := .next (s.destroyDone p)
def execTeardownComplete (g : Nat) (s : State) : Host.Outcome State Fault Refusal := .next (s.teardownDone g)
def execNodeIdApply (s : State) : Host.Outcome State Fault Refusal := .next s.nodeIdApply

end Sys2Proof.Machine
end

