-- ==== Sys2Proof/Machine/Trust.lean ====
section
/-! DEFINITION. Sys2Proof/Machine/Trust.lean: firmware banks (R397, R399), measurements (R398), sessions and the SPDM messages
MD answers (R401 to R403), anchors and release (R404, R407), and the debug lock (R409). -/
namespace Sys2Proof.Machine

/-! ### Firmware (R397 to R399) -/

def State.setFwStatus (s : State) (v : Nat) : State := s.modSec fun x => { x with fwStatus := v }

/-- APPLY: signature and SVN verified, and the package written to the bank not running, for the next module reset. A
package that fails leaves the banks as they are and says so in FW_STATUS. -/
def State.fwApply (s : State) : Nat × State :=
  match s.sec.fwStaged with
  | none => (abState, s)
  | some pkg =>
    if !Config.packageSigned pkg then (abNone, s.setFwStatus 2)
    else if Config.packageSvn pkg < s.sec.svn then (abBadValue, s.setFwStatus 3)
    else
      let b := 1 - s.sec.bank
      (abNone, (s.setFwStatus 1).modSec fun x => { x with banks := mapSet x.banks b pkg, nextBank := b })

/-- COMMIT_SVN: FW_SVN raised to that of the running image, 64 increments at most. -/
def State.commitSvn (s : State) : Nat × State :=
  let v := Config.packageSvn s.running
  if s.pwr.phase != .serving || 64 < v then (abState, s)
  else (abNone, s.modSec fun x => { x with svn := max x.svn v })

/-- Measurement i of R398. -/
def State.measure (s : State) (i : Nat) : Bytes :=
  match i with
  | 6 => s.sec.meas6
  | 7 => if s.sec.lock then s.sec.debugHash else zeros 48
  | _ => s.bootMeasure i

/-! ### Sessions (R401, R403) -/

/-- The role a chain's root gives: the first anchor that equals its SHA-384. -/
def State.whoOf (s : State) (root : Bytes) : Who :=
  let h := sha384 root
  let is (b : Bytes) : Bool := !allZero b && b == h
  if is (s.cfgBytes 0x5800 1) then { role := .owner }
  else if is (s.cfgBytes 0x5800 2) then { role := .operator }
  else
    match (List.range 8).find? fun p => is (s.cfgBytes (0x5810 + p) 1) with
    | some p => { role := .tenant, part := p }
    | none => if is (s.cfgBytes 0x5800 3) then { role := .observer } else { role := .none }

/-- Sessions end, with their keys, their channels and the nonces they have read. -/
def State.endSessions (s : State) (p : Session → Bool) : State :=
  let gone := s.sec.sessions.filter p
  let s := s.modSec fun x =>
    { x with sessions := x.sessions.filter fun y => !p y
             asking := x.asking.filter fun a => !gone.any fun y => y.requester && y.id == a.session
             nonces := x.nonces.filter fun n => !gone.any fun y => y.id == n.2.1 }
  { s with chans := s.chans.filter fun c => !gone.any fun y => y.conn == .dict c.src && y.id == c.session }

/-- Whether a session is a dictionary session: on a dictionary carrier, and not one that MD has opened as requester. -/
def Session.isDict (x : Session) : Bool := !x.requester && match x.conn with | .dict _ => true | .port _ => false

/-- An open dictionary session by its SPDM session ID. -/
def State.sessionById (s : State) (id : BitVec 32) : Option Session :=
  s.sec.sessions.find? fun x => x.isOpen && x.id == id && x.isDict

/-! ### Anchors (R403, R404, R407) -/

/-- An anchor other than OWNER_ANCHOR, or OWNER_ANCHOR to a value that is not zero: sessions that hold a role through a
changed anchor end. -/
def State.setAnchor (s : State) (index sub : Nat) (who : Who) (data : Bytes) : State :=
  let same := s.cfgBytes index sub == data
  let s := s.setCfg index sub data
  if same then s else (s.endSessions fun x => x.who == who).remeasure

/-- The anchors that accept sessions: the role each gives. -/
def anchorRole (index sub : Nat) : Who :=
  if index = 0x5800 then
    match sub with
    | 1 => { role := .owner }
    | 2 => { role := .operator }
    | 3 => { role := .observer }
    | _ => { role := .none, part := 8 }
  else { role := .tenant, part := index - 0x5810 }

/-- Every partition destroyed under R408. -/
def State.destroyAll (s : State) : State := (List.range 8).foldl (·.destroyNow ·) s

/-- The entries of R395 at their defaults, with what a change of them does. -/
def State.keptDefaults (s : State) : State :=
  let ports := (List.range 32).filter fun p => s.portMode p != 1
  let node := s.fieldNode
  let count := s.cfg 0x1200 3
  let s := match s.shapeWrite [3] with | .ok s => s | .error _ => s
  let s := s.dropCfg keyKept
  let s := ports.foldl (·.applyMode ·) s
  if s.fieldNode = node ∧ s.cfg 0x1200 3 = count then s
  else s.fieldChange

/-- OWNER_ANCHOR written with zero: the module is released. -/
def State.releaseModule (s : State) : State := (((s.destroyAll).keptDefaults).endSessions fun _ => true).remeasure

/-- OWNER_ANCHOR; a session without a role that claims the module becomes OWNER. -/
def State.ownerAnchor (s : State) (session : BitVec 32) (who : Who) (data : Bytes) : State :=
  if allZero data then s.releaseModule
  else
    let s := s.setAnchor 0x5800 1 { role := .owner } data
    if who.role = .none then
      s.modSec fun x =>
        { x with sessions := modWhere (fun y => y.isOpen && y.id == session) (fun y => { y with who := { role := .owner } }) x.sessions }
    else s

/-! ### The debug lock (R404, R409) -/

/-- A read of DEBUG_NONCE: a fresh nonce, kept with the session that read it for 60 s; other nonces keep their own time. -/
def State.readNonce (s : State) (session : BitVec 32) : Bytes × State :=
  let d := s.draw
  let v : BitVec 128 := d.1.truncate 128
  (leBytes 16 v.toNat, d.2.modSec fun x => { x with
    nonces := (x.nonces.filter fun y => s.now ≤ y.2.2 + 60000000000) ++ [(v, session, s.now)] })

/-- Whether a token is signed over the serial number and a nonce the same session read within 60 s. -/
def State.tokenOk (s : State) (session : BitVec 32) (token : Bytes) : Bool :=
  s.sec.nonces.any fun y =>
    y.2.1 == session && s.now ≤ y.2.2 + 60000000000 && Config.debugTokenValid Config.serial y.1 token

/-- DEBUG_TOKEN: every partition destroyed, debug unlocked, every port DOWN. -/
def State.debugToken (s : State) (session : BitVec 32) (token : Bytes) : WriteM :=
  if s.tokenOk session token then
    let s := (s.destroyAll).modSec fun x => { x with lock := true, debugHash := sha384 token, nonces := [] }
    .ok ((List.range 32).foldl (·.dropPort · .down) s)
  else .error abBadValue

/-! ### SPDM (R401, R402) -/

/-- SPDM error codes of SPDM 1.3. -/
def spdmInvalidRequest : Nat := 0x01
def spdmInvalidSession : Nat := 0x02
def spdmUnexpected : Nat := 0x04
def spdmUnspecified : Nat := 0x05
def spdmDecryptError : Nat := 0x06
def spdmSessionLimit : Nat := 0x0A

/-- A link-local IPv6 address (R383). -/
def isLinkLocal (addr : Nat) : Bool := addr / 2 ^ 118 == 0x3FA && addr / 2 ^ 128 == 0

/-- Whether a carrier reaches MD. -/
def State.connUp (s : State) (c : Conn) : Bool :=
  s.serving &&
    match c with
    | .dict (.host h) => (s.hif h).ready
    | .dict (.field a _ dport) => s.pwr.fieldReady && isLinkLocal a && dport == s.cfg 0x1200 6
    | .dict (.fabric _ _) => true
    | .port p => (s.port p).st == .auth || (s.port p).live

/-- An answer on a carrier that reaches MD. -/
def State.spdmOn (s : State) (c : Conn) (f : State → State) : State := if s.connUp c then f s else s

/-- An answer that needs agreed algorithms. -/
def State.spdmAgreed (s : State) (c : Conn) (f : State → State) : State :=
  s.spdmOn c fun s => if s.sec.negotiated.contains (connChannel c) then f s else s.spdmSend (.error c spdmUnexpected)

def State.getVersion (s : State) (c : Conn) : State :=
  s.spdmOn c fun s => (s.modSec fun x => { x with negotiated := x.negotiated.filter (· != (connChannel c)) }).spdmSend (.version c)

/-- The algorithms of R401: 1 ECDSA P-384, 2 SHA-384, 3 secp384r1 ECDHE, 4 AES-256-GCM. -/
def State.negotiate (s : State) (c : Conn) (offered : List Nat) : State :=
  s.spdmOn c fun s =>
    if [1, 2, 3, 4].all offered.contains then
      (s.modSec fun x => { x with negotiated := (x.negotiated.filter (· != (connChannel c))) ++ [(connChannel c)] }).spdmSend (.algorithms c)
    else s.spdmSend (.error c spdmInvalidRequest)

def State.getDigests (s : State) (c : Conn) : State :=
  s.spdmAgreed c fun s => s.spdmSend (.digests c (sha384 s.chainBytes))

def State.getCertificate (s : State) (c : Conn) (offset length : Nat) : State :=
  s.spdmAgreed c fun s => s.spdmSend (.certificate c (slice s.chainBytes offset length))

def State.challenge (s : State) (c : Conn) (nonce : BitVec 256) : State :=
  s.spdmAgreed c fun s => s.spdmSend (.challengeAuth c (s.sign (leBytes 32 nonce.toNat)))

/-- The blocks a measurement request asks for: index 0 asks for their number only, 0xFF for all. -/
def State.blocks (s : State) (index : Nat) : List (Nat × Bytes) :=
  if index = 0 then []
  else if index = 0xFF then ((List.range 7).map (· + 1)).map fun i => (i, s.measure i)
  else [(index, s.measure index)]

def State.getMeasurements (s : State) (c : Conn) (index : Nat) (nonce : BitVec 256) : State :=
  s.spdmAgreed c fun s =>
    if 7 < index ∧ index ≠ 0xFF then s.spdmSend (.error c spdmInvalidRequest)
    else
      let b := s.blocks index
      s.spdmSend (.measurements c b (s.sign (leBytes 32 nonce.toNat ++ b.flatMap (·.2))))

/-- Whether another session would pass the limits of R401. -/
def State.sessionsFull (s : State) (c : Conn) : Bool :=
  match c with
  | .dict _ => 16 ≤ (s.sec.sessions.filter (·.isDict)).length
  | .port p => s.sec.sessions.any (·.conn == .port p)

def State.keyExchange (s : State) (c : Conn) (session : BitVec 32) (key txKey : BitVec 256) : State :=
  s.spdmAgreed c fun s =>
    if session = 0 ∨ session.toNat = spdmSession ∨ s.sec.sessions.any (·.id == session) then
      s.spdmSend (.error c spdmInvalidRequest)
    else if s.sessionsFull c then s.spdmSend (.error c spdmSessionLimit)
    else if !s.sec.rngOk then s.spdmSend (.error c spdmUnspecified)
    else
      let x : Session := { id := session, conn := (connChannel c), key := key, txKey := txKey, lastAt := s.now }
      (s.modSec fun y => { y with sessions := y.sessions ++ [x] }).spdmSend
        (.keyExchangeRsp c session (s.sign (sessionMessage session key txKey)))

def State.sessionOn (s : State) (c : Conn) (id : BitVec 32) : Option Session :=
  s.sec.sessions.find? fun x => x.conn == (connChannel c) && x.id == id

def State.modSession (s : State) (c : Conn) (id : BitVec 32) (f : Session → Session) : State :=
  s.modSec fun x => { x with sessions := modWhere (fun y => y.conn == (connChannel c) && y.id == id) f x.sessions }

/-- A message of an open session; another is answered InvalidSession. -/
def State.spdmIn (s : State) (c : Conn) (id : BitVec 32) (f : State → State) : State :=
  s.spdmOn c fun s =>
    match s.sessionOn c id with
    | some x => if x.isOpen then f s else s.spdmSend (.error c spdmInvalidSession)
    | none => s.spdmSend (.error c spdmInvalidSession)

/-- The requester's chain, fetched by MD inside the key exchange. -/
def State.encapsulated (s : State) (c : Conn) (id : BitVec 32) (chain : CertChain) : State :=
  s.spdmOn c fun s =>
    match s.sessionOn c id with
    | some x =>
      if x.isOpen then s.spdmSend (.error c spdmUnexpected)
      else (s.modSession c id fun y => { y with chain := some chain, root := chain.root }).spdmSend (.encapsulatedAck c id)
    | none => s.spdmSend (.error c spdmInvalidSession)

/-- A session opens once the requester's signature verifies under the chain it presented, and takes its role; a port's installs
the first link keys (R405). -/
def State.opened (s : State) (c : Conn) (id : BitVec 32) (x : Session) : State :=
  let t := s.modSession c id fun y =>
    { y with isOpen := true, who := (match c with | .dict _ => s.whoOf y.root | .port _ => { role := .none }), lastAt := s.now }
  (match c with | .dict _ => t | .port p => t.installKeys p x.key x.txKey).spdmSend (.finishRsp c id)

def State.spdmFinish (s : State) (c : Conn) (id : BitVec 32) (signature : Bytes) : State :=
  s.spdmOn c fun s =>
    match s.sessionOn c id with
    | none => s.spdmSend (.error c spdmInvalidSession)
    | some x =>
      match x.isOpen, x.chain with
      | false, some ch =>
        if Config.chainVerify ch.bytes (sessionMessage id x.key x.txKey) signature then s.opened c id x
        else
          let s := (s.endSessions fun y => y.conn == (connChannel c) && y.id == id).spdmSend (.error c spdmDecryptError)
          match c with
          | .port p => s.dropPort p .down
          | .dict _ => s
      | _, _ => s.spdmSend (.error c spdmUnexpected)

/-- KEY_UPDATE in an open session: its new keys, or the next key of a port's receiving direction (R290); no key is drawn
while the random source has failed (R406). -/
def State.keyUpdate (s : State) (c : Conn) (id : BitVec 32) (key txKey : BitVec 256) : State :=
  s.spdmIn c id fun s =>
    if !s.sec.rngOk then s.spdmSend (.error c spdmUnspecified)
    else
      match c with
      | .dict _ => (s.modSession c id fun y => { y with key := key, txKey := txKey, lastAt := s.now }).spdmSend (.keyUpdateAck c id)
      | .port p => (s.modPort p fun x => if x.live then { x with rxNext := some key } else x).spdmSend (.keyUpdateAck c id)

def State.spdmHeartbeat (s : State) (c : Conn) (id : BitVec 32) : State :=
  s.spdmIn c id fun s => (s.modSession c id fun y => { y with lastAt := s.now }).spdmSend (.heartbeatAck c id)

def State.endSession (s : State) (c : Conn) (id : BitVec 32) : State :=
  s.spdmIn c id fun s => (s.endSessions fun y => y.conn == (connChannel c) && y.id == id).spdmSend (.endSessionAck c id)

/-- A dictionary session that has seen no request for 600 s ends. -/
def State.sessionTimeout (s : State) (id : BitVec 32) : State :=
  s.endSessions fun x =>
    x.id == id && x.isDict && x.lastAt + 600000000000 ≤ s.now

/-! ### The commands -/

def execGetVersion (c : Conn) (s : State) : Host.Outcome State Fault Refusal := .next (s.getVersion c)
def execGetCapabilities (c : Conn) (s : State) : Host.Outcome State Fault Refusal :=
  .next (s.spdmOn c (·.spdmSend (.capabilities c)))
def execNegotiateAlgorithms (c : Conn) (offered : List Nat) (s : State) : Host.Outcome State Fault Refusal :=
  .next (s.negotiate c offered)
def execGetDigests (c : Conn) (s : State) : Host.Outcome State Fault Refusal := .next (s.getDigests c)
def execGetCertificate (c : Conn) (offset length : Nat) (s : State) : Host.Outcome State Fault Refusal :=
  .next (s.getCertificate c offset length)
def execChallenge (c : Conn) (nonce : BitVec 256) (s : State) : Host.Outcome State Fault Refusal := .next (s.challenge c nonce)
def execGetMeasurements (c : Conn) (index : Nat) (nonce : BitVec 256) (s : State) : Host.Outcome State Fault Refusal :=
  .next (s.getMeasurements c index nonce)
def execKeyExchange (c : Conn) (session : BitVec 32) (key txKey : BitVec 256) (s : State) : Host.Outcome State Fault Refusal :=
  .next (s.keyExchange c session key txKey)
def execSpdmFinish (c : Conn) (session : BitVec 32) (signature : Bytes) (s : State) : Host.Outcome State Fault Refusal :=
  .next (s.spdmFinish c session signature)
def execKeyUpdate (c : Conn) (session : BitVec 32) (key txKey : BitVec 256) (s : State) : Host.Outcome State Fault Refusal :=
  .next (s.keyUpdate c session key txKey)
def execSpdmHeartbeat (c : Conn) (session : BitVec 32) (s : State) : Host.Outcome State Fault Refusal :=
  .next (s.spdmHeartbeat c session)
def execEndSession (c : Conn) (session : BitVec 32) (s : State) : Host.Outcome State Fault Refusal := .next (s.endSession c session)
def execSessionTimeout (session : BitVec 32) (s : State) : Host.Outcome State Fault Refusal := .next (s.sessionTimeout session)
def execEncapsulatedRequest (c : Conn) (session : BitVec 32) (chain : CertChain) (s : State) : Host.Outcome State Fault Refusal :=
  .next (s.encapsulated c session chain)

end Sys2Proof.Machine
end

