-- ==== Sys2Proof/Machine/Values.lean ====
section
/-! DEFINITION. Sys2Proof/Machine/Values.lean: the value of every readable entry of the object dictionary, place by place, as
the entry tables of the chapters give it. An entry of the store reads as written, or its default. -/
namespace Sys2Proof.Machine

/-- Bit i of a word for each i that satisfies p. -/
def bitsWhere (n : Nat) (p : Nat → Bool) : Nat := ((List.range n).filter p).foldl (fun a i => a + 2 ^ i) 0

def boolByte (b : Bool) : Bytes := [if b then 1 else 0]

/-- A string's bytes. -/
def strBytes (x : String) : Bytes := x.toList.map fun c => BitVec.ofNat 8 c.toNat

/-- FIELD_MAC, first byte first. -/
def macBytes : Bytes := beBytes 6 Config.fieldMac.toNat

/-- The modified EUI-64 of a MAC address. -/
def eui64 (mac : Bytes) : Bytes := mac.zipIdx.flatMap fun x => if x.2 = 0 then [x.1 ^^^ 2] else if x.2 = 2 then [x.1, 0xFF, 0xFE] else [x.1]

/-- The link-local address of the field port (R383). -/
def linkLocal : Bytes := [0xFE, 0x80, 0, 0, 0, 0, 0, 0] ++ eui64 macBytes

/-- 0x1000 (R390). -/
def State.identityValue (s : State) (sub : Nat) : Bytes :=
  match sub with
  | 1 => strBytes "Linquel"
  | 2 => strBytes (match s.variant with | .h48 => "F724-H48" | .h64 => "F724-H64")
  | 3 => beBytes 16 Config.serial.toNat
  | 4 => leBytes 2 (match s.variant with | .h48 => 48 | .h64 => 64)
  | 5 => macBytes
  | 6 => leBytes 2 Config.stepping.toNat
  | 7 => leBytes 4 (Config.packageVersion s.running).toNat
  | 8 => leBytes 2 0x0100
  | _ => leBytes 4 Config.pciIds.toNat

/-- 0x1100 (R391). -/
def State.readyValue (s : State) (sub : Nat) : Bytes :=
  match sub with
  | 1 => leBytes 8 s.pwr.bootNs
  | 2 => boolByte s.pwr.fieldReady
  | 3 => leBytes 1 (bitsWhere 2 fun h => (s.hif h).ready)
  | 4 => leBytes 1 s.pwr.diePass.toNat
  | 5 => leBytes 4 s.pwr.stackReady.toNat
  | 6 => leBytes 4 (bitsWhere 32 fun p => (s.port p).live)
  | 7 => leBytes 1 (bitsWhere 8 fun p => (s.part p).st == .ready)
  | 8 => leBytes 1 s.pwr.dieFail.toNat
  | _ => leBytes 4 s.pwr.stackFail.toNat

/-- The link of a host interface: speed and width (R384). -/
def State.hostLink (s : State) (h : Nat) : Nat := (s.hif h).speed + 16 * (s.hif h).width

/-- 0x1200 (R384). -/
def State.linkValue (s : State) (sub : Nat) : Bytes :=
  match sub with
  | 4 => leBytes 1 s.pwr.straps.toNat
  | 5 => linkLocal
  | 7 => leBytes 4 s.field.discards
  | 0x0A => leBytes 2 (s.hostLink 0)
  | 0x0B => leBytes 2 (s.hostLink 1)
  | _ => s.cfgBytes 0x1200 sub

/-- 0x2000, 0x2020 + d, 0x2100 + n (R411, R420). -/
def State.powerValue (s : State) (grp : Grp) (i sub : Nat) : Bytes :=
  match grp, sub with
  | .budget, 3 => leBytes 2 s.baseline
  | .budget, 4 => leBytes 2 (total ((List.range 8).map fun d => (s.die d).granted))
  | .ledger, 1 => leBytes 2 (s.die i).allot
  | .ledger, 2 => leBytes 2 (s.die i).granted
  | .ledger, _ => leBytes 2 (s.die i).waiting.length
  | .domain, 1 => leBytes 1 (s.domain i).st
  | .domain, _ => leBytes 2 (baselineOf i)
  | _, _ => s.cfgBytes 0x2000 sub

/-- 0x2400 + d, 0x2500 + n (R424). -/
def State.clockValue (s : State) (grp : Grp) (i sub : Nat) : Bytes :=
  match grp, sub with
  | .clock, 2 => leBytes 2 (s.clockOf i)
  | .clock, 3 => leBytes 4 (f32Milli (s.die i).temp).toNat
  | .dale, 1 => leBytes 4 (s.dale i).stretches
  | .dale, 2 => boolByte (!(s.dale i).overruns.isEmpty)
  | .dale, _ => leBytes 4 (s.dale i).timeouts
  | _, _ => s.cfgBytes (0x2400 + i) sub

/-- The code of PART_STATE (R324). -/
def PartState.code : PartState → Nat
  | .absent => 0 | .creating => 1 | .activating => 2 | .ready => 3 | .resetting => 4 | .destroying => 5

/-- The code of CTX_STATE (R330). -/
def CtxState.code : CtxState → Nat
  | .free => 0 | .active => 1 | .faulted => 2 | .teardown => 3

/-- The code of STATE of a queue (R32). -/
def QState.code : QState → Nat
  | .disabled => 0 | .running => 1 | .draining => 2 | .stopped => 3

/-- The code of STATE of a port (R281). -/
def PortState.code : PortState → Nat
  | .off => 0 | .training => 1 | .auth => 2 | .up => 3 | .degraded => 4 | .down => 5

/-- Whether partition time runs (R326). -/
def PartState.timed : PartState → Bool
  | .ready | .resetting | .destroying => true
  | .absent | .creating | .activating => false

/-- 0x3010 + p (R323). -/
def State.partValue (s : State) (p sub : Nat) : Bytes :=
  let x := s.part p
  match sub with
  | 1 => leBytes 1 x.st.code
  | 3 => leBytes 8 (if x.st.timed then s.partTime p else 0)
  | 4 => leBytes 4 x.resets
  | 5 => leBytes 1 x.cause
  | _ => leBytes 1 ((ctxsOfPart p).filter fun g => (s.ctx g).st != .free).length

/-- 0x3020 + p (R333). -/
def State.schedValue (s : State) (p sub : Nat) : Bytes :=
  match sub with
  | 3 => leBytes 8 (s.part p).frameCount
  | 4 => leBytes 4 (s.part p).slotLate
  | 5 => leBytes 4 (s.part p).slotShort
  | 6 => sized 1024 (s.part p).tableInForce
  | _ => s.cfgBytes (0x3020 + p) sub

/-- 0x3400 + g (R32). -/
def State.queueValue (s : State) (g sub : Nat) : Bytes :=
  let u := s.queue g (sub - 1)
  leBytes 8 u.finished ++ leBytes 1 u.st.code ++ leBytes 2 u.rejects ++ leBytes 1 u.lastReject ++ zeros 4

/-- 0x3600 + g (R37, R64, R166, R219, R267, R322, R330). -/
def State.ctxValue (s : State) (g sub : Nat) : Bytes :=
  let x := s.ctx g
  match sub with
  | 0x01 => leBytes 8 x.busyNs
  | 0x02 => leBytes 8 (if x.st = .free then 0 else s.ctxTime g - x.createdAt)
  | 0x03 => leBytes 1 x.st.code
  | 0x09 => leBytes 1 x.faultStatus
  | 0x0A => leBytes 8 x.faultAt
  | 0x0B => leBytes 4 x.signalRejects
  | 0x28 => boolByte x.planOver
  | 0x37 => leBytes 4 x.kv.available
  | 0x38 => leBytes 8 x.kv.epoch
  | 0x41 => leBytes 8 x.faultTile
  | 0x42 => leBytes 8 x.tornReads
  | 0x50 => leBytes 1 x.attempt.toNat
  | _ => s.cfgBytes (0x3600 + g) sub

/-- 0x3800 + p, 0x3810 + s (R254, R267, R270). An ABSENT partition has no memory, and reads the defaults. -/
def State.memValue (s : State) (grp : Grp) (i sub : Nat) : Bytes :=
  match grp, sub with
  | .mem, 3 => leBytes 8 (if (s.part i).st = .absent then 0 else s.localBytes i)
  | .mem, 4 => leBytes 8 (if (s.part i).st = .absent then 0 else s.spreadBytes i)
  | .mem, 5 => leBytes 8 (s.part i).torn
  | .stack, 1 => leBytes 8 (rawCapacity s.variant)
  | .stack, 2 => leBytes 4 (f32Milli (s.stack i).temp).toNat
  | .stack, 3 => leBytes 1 (s.stack i).thermal
  | .stack, 4 => leBytes 4 (s.stack i).hot
  | .stack, _ => leBytes 4 (s.stack i).ce
  | _, _ => s.cfgBytes (0x3800 + i) sub

/-- 0x4000 + p (R281). -/
def State.portValue (s : State) (p sub : Nat) : Bytes :=
  let x := s.port p
  match sub with
  | 2 => leBytes 1 x.st.code
  | 4 => leBytes 2 x.lanesEntry
  | 5 => leBytes 4 x.peer.toNat
  | 7 => leBytes 8 x.fec
  | 8 => leBytes 8 x.replayed
  | 9 => leBytes 4 x.tagFails
  | 0x0A => leBytes 8 x.discards
  | _ => s.cfgBytes (0x4000 + p) sub

/-- SECURE_REQUEST reads 1 while any context's latch is set (R352). -/
def State.secureRequested (s : State) : Bool := s.ctxs.any fun kv => kv.2.secure.latch

/-- 0x5000, 0x5008 + d, 0x5010 + p (R349). -/
def State.healthValue (s : State) (grp : Grp) (i sub : Nat) : Bytes :=
  match grp, sub with
  | .health, 1 => leBytes 1 s.doubler.risk
  | .health, 5 => boolByte s.secureRequested
  | .health, 9 => leBytes 4 s.doubler.events
  | .dieHealth, _ => leBytes 4 (s.die i).fenced.toNat
  | .partHealth, _ => leBytes 1 (s.part i).health
  | _, _ => s.cfgBytes 0x5000 sub

/-- 0x5100 + g (R356). -/
def State.secureValue (s : State) (g sub : Nat) : Bytes :=
  let x := (s.ctx g).secure
  match sub with
  | 1 => leBytes 4 (match x.newest with | some p => p.step.toNat | none => 0)
  | 2 => leBytes 4 (match x.newest with | some p => p.stopSeq | none => 0)
  | 3 => leBytes 1 x.phase
  | 4 => leBytes 8 x.commitNs
  | _ => leBytes 4 x.erased.toNat

/-- 0x5800 (R404); DEBUG_NONCE has a read of its own. -/
def State.securityValue (s : State) (sub : Nat) : Bytes :=
  match sub with
  | 5 => boolByte s.sec.lock
  | 8 => leBytes 2 s.sec.svn
  | 0x0B => leBytes 1 s.sec.fwStatus
  | _ => s.cfgBytes 0x5800 sub

/-! ### The event log (R393) -/

def LogRec.bytes (r : LogRec) : Bytes :=
  leBytes 8 r.seq ++ leBytes 8 r.time ++ leBytes 2 r.cls ++ leBytes 2 r.part ++ leBytes 1 r.p ++ sized 11 r.detail

/-- OLDEST_SEQ. -/
def Log.oldest (l : Log) : Nat := match l.recs with | r :: _ => r.seq | [] => l.next

/-- The record in slot i of LOG, or zeros. -/
def Log.slotBytes (l : Log) (i : Nat) : Bytes :=
  match l.recs.find? fun r => r.seq % 16384 == i with
  | some r => r.bytes
  | none => zeros 32

/-- `n` bytes of LOG from an offset: the records that lie there. -/
def Log.window (l : Log) (off n : Nat) : Bytes :=
  let first := off / 32
  slice ((List.range (ceilDiv (off % 32 + n) 32)).flatMap fun i => if first + i < 16384 then l.slotBytes (first + i) else []) (off % 32) n

/-- The value of an entry, as it stands. -/
def State.value (s : State) (grp : Grp) (i index sub : Nat) : Bytes :=
  if sub = 0 then [BitVec.ofNat 8 (topSub grp)]
  else
    match grp with
    | .identity => s.identityValue sub
    | .ready => s.readyValue sub
    | .link => s.linkValue sub
    | .budget | .ledger | .domain => s.powerValue grp i sub
    | .clock | .dale => s.clockValue grp i sub
    | .part => s.partValue i sub
    | .sched => s.schedValue i sub
    | .qstat => s.queueValue i sub
    | .ctx => s.ctxValue i sub
    | .mem | .stack => s.memValue grp i sub
    | .port => s.portValue i sub
    | .rankMap => if sub = 3 then s.rankBytes i else s.cfgBytes index sub
    | .coll => if sub = 2 then leBytes 8 (s.part i).missing else s.cfgBytes index sub
    | .health | .dieHealth | .partHealth => s.healthValue grp i sub
    | .ctxHealth => s.secureValue i sub
    | .security => s.securityValue sub
    | .time => if sub = 1 then leBytes 8 s.now else s.cfgBytes index sub
    | .origin => leBytes 8 (s.part i).origin
    | .log => if sub = 1 then leBytes 8 s.log.next else leBytes 8 s.log.oldest
    | .mask | .shape | .qcfg | .routing | .tenant => s.cfgBytes index sub

/-! ### What a host reads of its interface (R386, R387) -/

/-- The class code of the PCIe function: processing accelerator (R386). -/
def pciClass : Nat := 0x12

/-- A BAR of the function: its number, its bytes, and its kind. -/
structure Bar where
  number : Nat
  bytes : Nat
  wide : Bool := true
  prefetchable : Bool := false
  deriving DecidableEq, Repr

/-- The BARs of R386, each 64-bit and non-prefetchable. -/
def pciBars : List Bar := [{ number := 0, bytes := 65536 }, { number := 2, bytes := 2097152 }, { number := 4, bytes := 65536 }]

/-- Entries of the MSI-X table in BAR4, and where its pending-bit array begins. -/
def msixEntries : Nat := 2048
def msixPendingAt : Nat := 0x8000

/-- Bit i of word w of the pending-bit array: vector 64 . w + i is held while MSI-X is disabled (R57, R386). -/
def HostIf.pendingBits (x : HostIf) (w : Nat) : BitVec 64 := BitVec.ofNat 64 (bitsWhere 64 fun i => x.heldInts.contains (64 * w + i))

/-- Entry i of the MSI-X table as 16 bytes: address, data, and the mask in bit 0 of the last word (log 102). -/
def HostIf.msixBytes (x : HostIf) (i : Nat) : Bytes :=
  let e := mapGet {} x.msix i
  leBytes 8 e.addr.toNat ++ leBytes 4 e.data.toNat ++ leBytes 4 (if e.masked then 1 else 0)

/-- What a read of a word of BAR4 at an offset returns: the table, then the pending-bit array (R386). -/
def HostIf.bar4 (x : HostIf) (off : Nat) : BitVec 32 :=
  if off < 16 * msixEntries then BitVec.ofNat 32 (fld (x.msixBytes (off / 16)) (off % 16) 4)
  else if msixPendingAt ≤ off ∧ off < msixPendingAt + msixEntries / 8 then
    BitVec.ofNat 32 ((x.pendingBits ((off - msixPendingAt) / 8)).toNat / 2 ^ (8 * ((off - msixPendingAt) % 8)))
  else 0

/-- What a read of BAR0 at an offset returns (R387); MODULE_TIME_LO, whose read latches, is a command of its own. -/
def State.bar0 (s : State) (h off : Nat) : BitVec 32 :=
  let x := s.hif h
  if off = 0x0000 then 0x00010000
  else if off = 0x0004 then
    BitVec.ofNat 32 ((if s.serving then 1 else 0) + (if x.ready then 2 else 0) + (if (s.hif (1 - h)).ready then 4 else 0) +
      8 * s.pwr.diePass.toNat)
  else if off = 0x0008 then BitVec.ofNat 32 s.pwr.stackReady.toNat
  else if off = 0x000C then BitVec.ofNat 32 (bitsWhere 32 fun p => (s.port p).live)
  else if off = 0x0010 then x.readOut
  else if off = 0x0014 then x.timeHi
  else if off = 0x0024 then
    BitVec.ofNat 32 (x.respLen % 2 ^ 12 + (if x.overrun then 2 ^ 29 else 0) + (if x.busy then 2 ^ 30 else 0) +
      (if x.statusToggle then 2 ^ 31 else 0))
  else if off = 0x0028 then BitVec.ofNat 32 (x.ansVec % 2048 + (if x.ansInt then 2 ^ 16 else 0))
  else if 0x1800 ≤ off ∧ off < 0x2000 then BitVec.ofNat 32 (fld x.respBuf (off - 0x1800) 4)
  else 0

end Sys2Proof.Machine
end

