-- ==== Sys2Proof/Machine/Apply.lean ====
section
/-! DEFINITION. Sys2Proof/Machine/Apply.lean: one access to one entry: the checks of R382 in the order of its table, and the
effect of an accepted write (R371 to R375); and the commands that are each the write of one entry. -/
namespace Sys2Proof.Machine

/-! ### Who may reach an entry (R373, R377, R403) -/

/-- OWNER, OPERATOR and OBSERVER. -/
def isStaff : Role → Bool
  | .owner | .operator | .observer => true
  | .tenant | .none => false

def mayRead (role : Role) (rd : Readers) : Bool :=
  match rd with
  | .all => true
  | .ready => role != .tenant
  | .staff => isStaff role
  | .partition => isStaff role || role == .tenant

def mayWrite (role : Role) (wr : Writers) : Bool :=
  match wr with
  | .owner => role == .owner
  | .staff => role == .owner || role == .operator
  | .tenants => role == .owner || role == .operator || role == .tenant

/-- A TENANT outside its partition. -/
def outOfScope (who : Who) (grp : Grp) (i : Nat) : Bool :=
  who.role == .tenant && match scopeOf grp i with | some p => p != who.part | none => false

/-- A session without a role may claim the module while OWNER_ANCHOR is zero. -/
def State.mayClaim (s : State) (who : Who) (session : BitVec 32) (grp : Grp) (sub : Nat) : Bool :=
  grp == .security && sub == 1 && who.role == .none && session != 0 && allZero (s.cfgBytes 0x5800 1)

/-- A management frame from the fabric manager may write DOMAIN_EVENT (R349). -/
def fmMay (fm : Bool) (grp : Grp) (sub : Nat) : Bool := fm && grp == .health && sub == 6

/-! ### Finding an entry -/

structure Target where
  grp : Grp
  inst : Nat
  entry : Entry
  deriving DecidableEq, Repr

/-- The entry at an index and subindex, or the abort code. R394 lays down no index from 0xF000 on, which answer LOCKED while
debug is locked and do not exist once it is unlocked (log 72). -/
def State.locate (s : State) (index sub : Nat) : Except Nat Target :=
  if 0xF000 ≤ index then .error (if s.sec.lock then abNoEntry else abLocked)
  else
    match groupOf s.shape index with
    | none => .error abNoEntry
    | some gi =>
      match entryOf gi.1 sub with
      | none => .error abNoSubindex
      | some e => .ok { grp := gi.1, inst := gi.2, entry := e }

/-- The entries MD serves while both firmware banks fail (R397). -/
def servedLimited (grp : Grp) (sub : Nat) : Bool :=
  match grp with
  | .identity | .ready => true
  | .security => sub == 0 || (8 ≤ sub && sub ≤ 0x0B)
  | _ => false

def State.notServed (s : State) (t : Target) (sub : Nat) : Bool := s.pwr.phase == .limited && !servedLimited t.grp sub

/-! ### Reading -/

/-- The checks of a read. -/
def State.readTarget (s : State) (who : Who) (index sub : Nat) : Except Nat Target :=
  match s.locate index sub with
  | .error a => .error a
  | .ok t =>
    if t.entry.acc = .wo then .error abNotReadable
    else if outOfScope who t.grp t.inst then .error abScope
    else if !mayRead who.role t.entry.rd then .error abRole
    else if s.notServed t sub then .error abNotReady
    else .ok t

/-- The value a permitted read returns; DEBUG_NONCE is drawn afresh. -/
def State.readValue (s : State) (session : BitVec 32) (t : Target) (index sub : Nat) : Bytes × State :=
  if t.grp = .security ∧ sub = 6 then s.readNonce session else (s.value t.grp t.inst index sub, s)

/-! ### Writing -/

/-- Whether a length is that of the type (R372); EXCEPTIONS holds whole entries, RANK_MAP as many as RANKS. -/
def State.lengthOk (s : State) (t : Target) (n : Nat) : Bool :=
  match t.entry.typ with
  | .domainTo m =>
    match t.grp with
    | .rankMap => n == 4 * s.ranks t.inst
    | .routing => n ≤ m && n % 8 == 0
    | _ => 1 ≤ n && n ≤ m
  | .str => n ≤ 255
  | typ => typLen typ == some n

/-- Whether a type has a range. -/
def ranged : Typ → Bool
  | .bool | .u8 | .u16 | .u32 | .u64 | .f32 => true
  | .str | .blob _ | .domain _ | .domainTo _ => false

/-- The checks of a write up to the role. -/
def State.writePerm (s : State) (who : Who) (session : BitVec 32) (fm : Bool) (index sub : Nat) : Except Nat Target :=
  match s.locate index sub with
  | .error a => .error a
  | .ok t =>
    if t.entry.acc = .const ∨ t.entry.acc = .ro then .error abNotWritable
    else if outOfScope who t.grp t.inst then .error abScope
    else if !(mayWrite who.role t.entry.wr || s.mayClaim who session t.grp sub || fmMay fm t.grp sub) then .error abRole
    else .ok t

/-- The checks of a write up to its length. -/
def State.writeTarget (s : State) (who : Who) (session : BitVec 32) (fm : Bool) (index sub n : Nat) : Except Nat Target :=
  match s.writePerm who session fm index sub with
  | .error a => .error a
  | .ok t => if s.lengthOk t n then .ok t else .error abLength

/-- The entry's own range. -/
def rangeAbort (e : Entry) (data : Bytes) : Option Nat :=
  if !ranged e.typ then none
  else if e.hi < leNat data then some abAboveRange
  else if leNat data < e.lo then some abBelowRange
  else none

/-- ACTIVATE that MD could not complete leaves a record that names the cause (R382, R406). -/
def State.internalEvent (s : State) : State :=
  s.event evMdInternal (partCode 0 0) noPart (leBytes 2 abInternal ++ [0])

/-- The answer and the state of a write that may be rejected. -/
def State.answer (s : State) (m : WriteM) : Nat × State :=
  match m with
  | .ok t => (abNone, t)
  | .error a => (a, if a = abInternal then s.internalEvent else s)

/-- A write of the security range. -/
def State.securityWrite (s : State) (who : Who) (session : BitVec 32) (sub : Nat) (data : Bytes) : Nat × State :=
  match sub with
  | 1 => (abNone, s.ownerAnchor session who data)
  | 7 => s.answer (s.debugToken session data)
  | 9 => (abNone, s.modSec fun x => { x with fwStaged := some data })
  | 0x0A => if leNat data = 1 then s.fwApply else s.commitSvn
  | _ => (abNone, s.setAnchor 0x5800 sub (anchorRole 0x5800 sub) data)

/-- What an entry's chapter makes of a write that has passed every check before BAD_VALUE. -/
def State.applyWrite (s : State) (who : Who) (session : BitVec 32) (t : Target) (index sub : Nat) (data : Bytes) : Nat × State :=
  let i := t.inst
  match t.grp with
  | .link => s.answer (s.linkWrite sub data)
  | .budget => s.answer (s.budgetWrite sub data)
  | .mask => s.answer (s.roleMaskWrite (sub - 1) data)
  | .clock => s.answer (s.clockWrite i data)
  | .shape => s.answer (s.shapeWrite data)
  | .part => s.answer (s.partCommand i (leNat data))
  | .sched => s.answer (if sub = 1 then s.frameWrite i data else s.slotTableWrite i data)
  | .qcfg => s.answer (s.queueWrite i (sub - 1) data)
  | .ctx => s.answer (if sub = 4 then s.ctxCommand i (leNat data) else s.ctxWrite i sub data)
  | .mem => s.answer (s.memWrite i sub data)
  | .port => s.answer (s.portWrite i sub data)
  | .routing => s.answer (s.routeWrite sub data)
  | .rankMap => s.answer (s.rankWrite i sub data)
  | .health => s.answer (s.healthWrite sub data)
  | .security => s.securityWrite who session sub data
  | .tenant => (abNone, s.setAnchor index sub (anchorRole index sub) data)
  | .coll | .time => (abNone, s.setCfg index sub data)
  | .identity | .ready | .ledger | .domain | .dale | .qstat | .stack | .dieHealth | .partHealth | .ctxHealth | .origin | .log =>
    (abNotWritable, s)

/-- A write of an entry's whole value: its abort code, and the state it leaves (R374). An entry that is not served is NOT_READY
after every check that comes before it. -/
def State.writeEntry (s : State) (who : Who) (session : BitVec 32) (fm : Bool) (index sub : Nat) (data : Bytes) : Nat × State :=
  match s.writeTarget who session fm index sub data.length with
  | .error a => (a, s)
  | .ok t =>
    match rangeAbort t.entry data with
    | some a => (a, s)
    | none =>
      let r := s.applyWrite who session t index sub data
      if s.notServed t sub then (if r.1 = abNone ∨ r.1 = abInternal then abNotReady else r.1, s) else r

/-! ### The commands that are each the write of one entry -/

/-- A write that a command carries, with its answer latched. -/
def State.latch (r : Nat × State) : State := { r.2 with lastAbort := r.1 }

/-- A write by a role, while MD serves the dictionary. -/
def State.writeBy (s : State) (who : Who) (index sub : Nat) (data : Bytes) : State :=
  if s.serving then State.latch (s.writeEntry who 0 false index sub data) else s

/-- A write in a session, which sees a request (R401). -/
def State.writeIn (s : State) (session : BitVec 32) (index sub : Nat) (data : Bytes) : State :=
  if !s.serving then s
  else
    match s.sessionById session with
    | none => { s with lastAbort := abAuth }
    | some x =>
      State.latch ((s.modSession x.conn session fun y => { y with lastAt := s.now }).writeEntry x.who session false index sub data)

/-- A read of DEBUG_NONCE in a session. -/
def State.nonceIn (s : State) (session : BitVec 32) : State :=
  if !s.serving then s
  else
    match s.sessionById session with
    | none => { s with lastAbort := abAuth }
    | some x =>
      let s := s.modSession x.conn session fun y => { y with lastAt := s.now }
      match s.readTarget x.who 0x5800 6 with
      | .error a => { s with lastAbort := a }
      | .ok _ => { (s.readNonce session).2 with lastAbort := abNone }

/-- MODULE_RESET: answered, and a millisecond later the module resets (R376). -/
def State.moduleResetRow (s : State) (who : Who) : State :=
  let t := s.writeBy who 0x2000 2 [0x5A]
  if s.serving && t.lastAbort == abNone then (t.modPwr fun w => { w with time := w.time + 1000000 }).resetNow
  else t

def execConfigWrite (who : Who) (index sub : Nat) (data : Bytes) (s : State) : Host.Outcome State Fault Refusal :=
  .next (s.writeBy who index sub data)
def execPartCreate (who : Who) (p : Nat) (s : State) : Host.Outcome State Fault Refusal := .next (s.writeBy who (0x3010 + p) 2 [1])
def execPartActivate (who : Who) (p : Nat) (s : State) : Host.Outcome State Fault Refusal :=
  .next (s.writeBy who (0x3010 + p) 2 [2])
def execPartReset (who : Who) (p : Nat) (s : State) : Host.Outcome State Fault Refusal := .next (s.writeBy who (0x3010 + p) 2 [3])
def execPartDestroy (who : Who) (p : Nat) (s : State) : Host.Outcome State Fault Refusal :=
  .next (s.writeBy who (0x3010 + p) 2 [4])
def execCtxCreate (who : Who) (g : Nat) (s : State) : Host.Outcome State Fault Refusal := .next (s.writeBy who (0x3600 + g) 4 [1])
def execCtxTeardown (who : Who) (g : Nat) (s : State) : Host.Outcome State Fault Refusal :=
  .next (s.writeBy who (0x3600 + g) 4 [2])
def execInvalidate (who : Who) (g : Nat) (s : State) : Host.Outcome State Fault Refusal := .next (s.writeBy who (0x3600 + g) 4 [3])
def execQueueConfigWrite (who : Who) (g q : Nat) (rec : Bytes) (s : State) : Host.Outcome State Fault Refusal :=
  .next (s.writeBy who (0x3200 + g) (q + 1) rec)
def execRoleMaskWrite (who : Who) (d : Nat) (v : BitVec 32) (s : State) : Host.Outcome State Fault Refusal :=
  .next (s.writeBy who 0x2010 (d + 1) (leBytes 4 v.toNat))

/-- STASH_TABLE, or STASH_ENTRIES in 16 bits. -/
def execStashTableWrite (who : Who) (g : Nat) (entries : Bool) (v : BitVec 64) (s : State) : Host.Outcome State Fault Refusal :=
  .next (if entries then s.writeBy who (0x3600 + g) 0x21 (leBytes 2 v.toNat) else s.writeBy who (0x3600 + g) 0x20 (leBytes 8 v.toNat))

/-- SEQ_TABLE to KV_WORK_BASE, each in its own width. -/
def execKvConfigWrite (who : Who) (g sub : Nat) (v : BitVec 64) (s : State) : Host.Outcome State Fault Refusal :=
  .next (s.writeBy who (0x3600 + g) sub (leBytes (match ctxEntry sub with | some e => (typLen e.typ).getD 8 | none => 8) v.toNat))

def execShapeWrite (who : Who) (v : BitVec 8) (s : State) : Host.Outcome State Fault Refusal := .next (s.writeBy who 0x3000 1 [v])
def execSlotTableWrite (who : Who) (p : Nat) (table : Bytes) (s : State) : Host.Outcome State Fault Refusal :=
  .next (s.writeBy who (0x3020 + p) 2 table)
def execPipBudgetWrite (who : Who) (v : BitVec 16) (s : State) : Host.Outcome State Fault Refusal :=
  .next (s.writeBy who 0x2000 1 (leBytes 2 v.toNat))
def execCoreMhzWrite (who : Who) (d : Nat) (v : BitVec 16) (s : State) : Host.Outcome State Fault Refusal :=
  .next (s.writeBy who (0x2400 + d) 1 (leBytes 2 v.toNat))
def execPortModeWrite (who : Who) (port mode : Nat) (s : State) : Host.Outcome State Fault Refusal :=
  .next (s.writeBy who (0x4000 + port) 1 (leBytes 1 mode))
def execRankSet (who : Who) (p : Nat) (v : BitVec 64) (s : State) : Host.Outcome State Fault Refusal :=
  .next (s.writeBy who (0x4110 + p) 4 (leBytes 8 v.toNat))
def execDomainEvent (who : Who) (s : State) : Host.Outcome State Fault Refusal := .next (s.writeBy who 0x5000 6 [1])
def execModuleReset (who : Who) (s : State) : Host.Outcome State Fault Refusal := .next (s.moduleResetRow who)
def execFwApply (who : Who) (s : State) : Host.Outcome State Fault Refusal := .next (s.writeBy who 0x5800 0x0A [1])
def execCommitSvn (who : Who) (s : State) : Host.Outcome State Fault Refusal := .next (s.writeBy who 0x5800 0x0A [2])
def execDebugNonce (session : BitVec 32) (s : State) : Host.Outcome State Fault Refusal := .next (s.nonceIn session)
def execDebugToken (session : BitVec 32) (token : Bytes) (s : State) : Host.Outcome State Fault Refusal :=
  .next (s.writeIn session 0x5800 7 token)
def execOwnerAnchor (session : BitVec 32) (anchor : Bytes) (s : State) : Host.Outcome State Fault Refusal :=
  .next (s.writeIn session 0x5800 1 anchor)
def execAnchorWrite (who : Who) (index sub : Nat) (anchor : Bytes) (s : State) : Host.Outcome State Fault Refusal :=
  .next (s.writeBy who index sub anchor)

end Sys2Proof.Machine
end

