-- ==== Sys2Proof/Machine/Dict.lean ====
section
/-! DEFINITION. Sys2Proof/Machine/Dict.lean: dictionary requests and responses: wrappers and sessions (R377), frames (R378, R451,
R379), long transfers (R380), repetitions (R381) and the three carriers (R383, R385, R388). -/
namespace Sys2Proof.Machine

/-! ### Frames (R378, R451) -/

structure Frame where
  version : Nat
  op : Nat
  reqId : Nat
  index : Nat
  sub : Nat
  reserved : Nat
  offset : Nat
  length : Nat
  abort : Nat
  data : Bytes
  /-- the 16 bytes of the header are there -/
  whole : Bool
  deriving DecidableEq, Repr

def frameOf (b : Bytes) : Frame :=
  { version := fld b 0 1, op := fld b 1 1, reqId := fld b 2 2, index := fld b 4 2, sub := fld b 6 1, reserved := fld b 7 1
    offset := fld b 8 4, length := fld b 12 2, abort := fld b 14 2, data := b.drop 16, whole := 16 ≤ b.length }

def opRead : Nat := 1
def opWrite : Nat := 2
def opBegin : Nat := 3
def opPart : Nat := 4
def opEnd : Nat := 5
def opCancel : Nat := 6

/-- The fields a request code uses, and the zeros R451 asks for elsewhere. -/
def Frame.ok (f : Frame) : Bool :=
  f.whole && f.version == 1 && f.reserved == 0 && f.abort == 0 && f.length ≤ 1024 &&
    match f.op with
    | 1 => f.data.length == 0
    | 2 => f.data.length == f.length && f.offset == 0
    | 3 => f.data.length == 0 && f.length == 0
    | 4 => f.data.length == f.length
    | 5 => f.data.length == 0 && f.offset == 0 && f.length == 0
    | 6 => f.data.length == 0 && f.offset == 0 && f.length == 0 && f.index == 0 && f.sub == 0
    | _ => false

/-- A response frame: the request code plus 0x80, the header echoed, and the data. -/
def responseFrame (f : Frame) (abort : Nat) (data : Bytes) : Bytes :=
  [1, BitVec.ofNat 8 (f.op + 0x80)] ++ leBytes 2 f.reqId ++ leBytes 2 f.index ++ leBytes 1 f.sub ++ [0] ++ leBytes 4 f.offset ++
    leBytes 2 data.length ++ leBytes 2 abort ++ data

/-! ### Wrappers (R377, R402) -/

/-- A request whose wrapper has been opened: its session and role, the key its answer goes under, and the frame. -/
structure Opened where
  sid : BitVec 32
  seq : Nat
  who : Who
  txKey : Option (BitVec 256)
  body : Bytes
  deriving DecidableEq, Repr

def wrapNonce (seq : Nat) : Bytes := zeros 4 ++ beBytes 8 seq

/-- The role of the clear channel of a source. -/
def State.clearWho (s : State) (src : Source) : Who :=
  match src with
  | .host h => { role := if s.cfg 0x1200 (8 + h) = 2 then .operator else if s.cfg 0x1200 (8 + h) = 4 then .observer else .none }
  | .field _ _ _ | .fabric _ _ => { role := .none }

/-- A wrapper opened; none where its session is not open or its tag fails. -/
def State.unwrap (s : State) (src : Source) (w : Bytes) : Option Opened :=
  let sid : BitVec 32 := BitVec.ofNat 32 (fld w 0 4)
  let seq := fld w 4 8
  let body := w.drop 12
  if sid = 0 then some { sid := sid, seq := seq, who := s.clearWho src, txKey := none, body := body }
  else
    match s.sessionOn (.dict src) sid with
    | none => none
    | some x =>
      if !x.isOpen then none
      else
        match gcmOpen x.key (wrapNonce seq) (w.take 12) (body.take (body.length - 16)) (body.drop (body.length - 16)) with
        | none => none
        | some frame => some { sid := sid, seq := seq, who := x.who, txKey := some x.txKey, body := frame }

/-- A response in its wrapper, under the session's key where there is one. -/
def wrap (sid : BitVec 32) (seq : Nat) (key : Option (BitVec 256)) (frame : Bytes) : Bytes :=
  let head := leBytes 4 sid.toNat ++ leBytes 8 seq
  match key with
  | none => head ++ frame
  | some k =>
    let r := gcmSeal k (wrapNonce seq) head frame
    head ++ r.1 ++ r.2

/-! ### Requests as they arrive (R383, R385, R388) -/

/-- Frames a source has sent in the current second. -/
def FieldPort.sent (f : FieldPort) (addr sec : Nat) : Nat :=
  match f.rate.find? fun x => x.1 == addr && x.2.1 == sec with
  | some x => x.2.2
  | none => 0

def FieldPort.count (f : FieldPort) (addr sec : Nat) : FieldPort :=
  { f with rate := f.rate.filter (fun x => x.1 != addr) ++ [(addr, sec, f.sent addr sec + 1)] }

/-- A datagram the field port discards (R383). -/
def State.fieldDrops (s : State) (addr : Nat) (w : Bytes) : Bool :=
  !isLinkLocal addr || w.length < 28 || 1068 < w.length || 1000 ≤ s.field.sent addr (s.now / 1000000000)

/-- The request a wrapper from a source is, and the state once MD has taken it: a field datagram is received on DICT_PORT and may
be discarded, a mailbox must hold the request, and a management frame must be the next one waiting. -/
def State.arrive (s : State) (src : Source) (w : Bytes) : Option (State × Option MdReq) :=
  match src with
  | .host h =>
    let i := s.hif h
    if i.ready && i.busy && i.reqBuf.take i.reqLen == w then some (s, some { src := src, part := 0, wrapper := w, route := false })
    else none
  | .field a _ dport =>
    if !s.pwr.fieldReady || dport != s.cfg 0x1200 6 then none
    else if s.fieldDrops a w then some ({ s with field := { s.field with discards := satAdd 32 s.field.discards 1 } }, none)
    else some ({ s with field := s.field.count a (s.now / 1000000000) }, some { src := src, part := 0, wrapper := w, route := false })
  | .fabric _ _ =>
    match s.fab.mdQueue with
    | r :: rest => if r.src = src ∧ r.wrapper = w then some (s.modFab fun f => { f with mdQueue := rest }, some r) else none
    | [] => none

/-! ### Answers -/

/-- A response on the channel that carried the request. -/
def State.respond (s : State) (r : MdReq) (resp : Bytes) : State :=
  match r.src with
  | .host h =>
    let s := s.modHif h fun i => { i with respBuf := resp, respLen := resp.length, statusToggle := i.lastToggle, busy := false }
    if (s.hif h).ansInt then s.raiseVec h (s.hif h).ansVec else s
  | .field _ _ _ => { s with answers := s.answers ++ [(r.src, resp)] }
  | .fabric dev part =>
    let s := { s with answers := s.answers ++ [(r.src, resp)] }
    s.sendMgmt r.part dev part resp

/-! ### Channels (R380, R381) -/

def State.chan (s : State) (src : Source) (sid : BitVec 32) : Chan :=
  (s.chans.find? fun c => c.src == sourceChannel src && c.session == sid).getD { src := sourceChannel src, session := sid }

/-- A channel kept, while its session lasts. -/
def State.setChan (s : State) (c : Chan) : State :=
  if c.session = 0 ∨ (s.sessionOn (.dict c.src) c.session).isSome then
    { s with chans := upsert (fun x => x.src == c.src && x.session == c.session) c s.chans }
  else s

/-- What a request does: its abort code, the data it returns, the state and the channel it leaves. -/
structure Done where
  abort : Nat
  data : Bytes := []
  state : State
  chan : Chan

/-- TIMEOUT once for a staged write of the entry that was discarded, else SEQUENCE. -/
def Chan.noStaged (c : Chan) (f : Frame) : Nat × Chan :=
  if c.stagedGone = some (f.index, f.sub) then (abTimeout, { c with stagedGone := none }) else (abSequence, c)

/-- The same for a snapshot. -/
def Chan.noSnap (c : Chan) (f : Frame) : Nat × Chan :=
  if c.snapGone = some (f.index, f.sub) then (abTimeout, { c with snapGone := none }) else (abSequence, c)

/-- The snapshot of an entry, if the channel holds one. -/
def Chan.snapOf (c : Chan) (index sub : Nat) : Option Snap := c.snap.filter fun x => x.index == index && x.sub == sub

/-- The whole records of the log that a read returns. -/
def State.logRead (s : State) (off len : Nat) : Bytes := s.log.window off (min (len - len % 32) (524288 - off))

/-- READ once its entry may be read. -/
def State.readData (s : State) (o : Opened) (c : Chan) (t : Target) (f : Frame) : Done :=
  if t.grp = .log ∧ f.sub = 3 then { abort := abNone, data := s.logRead f.offset f.length, state := s, chan := c }
  else
    match (if f.offset = 0 then none else c.snapOf f.index f.sub) with
    | some x =>
      { abort := abNone, data := slice x.value f.offset f.length, state := s, chan := { c with snap := some { x with lastAt := s.now } } }
    | none =>
      let v := s.readValue o.sid t f.index f.sub
      if v.1.length ≤ 1024 then { abort := abNone, data := slice v.1 f.offset f.length, state := v.2, chan := c }
      else if f.offset = 0 then
        { abort := abNone, data := v.1.take f.length, state := v.2
          chan := { c with snap := some { index := f.index, sub := f.sub, value := v.1, lastAt := s.now }, snapGone := none } }
      else { abort := (c.noSnap f).1, state := s, chan := (c.noSnap f).2 }

def State.doRead (s : State) (o : Opened) (c : Chan) (f : Frame) : Done :=
  match s.readTarget o.who f.index f.sub with
  | .error a => { abort := a, state := s, chan := c }
  | .ok t => s.readData o c t f

/-- A frame from the fabric manager (R349). -/
def State.isFm (s : State) (src : Source) : Bool :=
  match src with
  | .fabric dev _ => dev == s.cfg 0x1200 0x0C
  | .host _ | .field _ _ _ => false

def State.doWrite (s : State) (r : MdReq) (o : Opened) (c : Chan) (f : Frame) : Done :=
  let w := s.writeEntry o.who o.sid (s.isFm r.src) f.index f.sub f.data
  { abort := w.1, state := w.2, chan := c }

/-- WRITE_BEGIN: a staged write opens in place of any other. -/
def State.doBegin (s : State) (r : MdReq) (o : Opened) (c : Chan) (f : Frame) : Done :=
  match s.writeTarget o.who o.sid (s.isFm r.src) f.index f.sub f.offset with
  | .error a => { abort := a, state := s, chan := c }
  | .ok t =>
    if s.notServed t f.sub then { abort := abNotReady, state := s, chan := c }
    else
      { abort := abNone, state := s
        chan := { c with staged := some { index := f.index, sub := f.sub, total := f.offset, lastAt := s.now }, stagedGone := none } }

/-- The staged write that a WRITE_PART or WRITE_END names, once the entry may be written. -/
def State.stagedFor (s : State) (r : MdReq) (o : Opened) (c : Chan) (f : Frame) : Except (Nat × Chan) Staged :=
  match s.writePerm o.who o.sid (s.isFm r.src) f.index f.sub with
  | .error a => .error (a, c)
  | .ok _ =>
    match c.staged with
    | none => .error (c.noStaged f)
    | some x => if x.index = f.index ∧ x.sub = f.sub then .ok x else .error (abSequence, c)

/-- Whether n bytes at an offset lie within the total and overlap no part. -/
def Staged.fits (x : Staged) (off n : Nat) : Bool :=
  off + n ≤ x.total && x.parts.all fun y => !(y.1 < off + n && off < y.1 + y.2.length)

def State.doPart (s : State) (r : MdReq) (o : Opened) (c : Chan) (f : Frame) : Done :=
  match s.stagedFor r o c f with
  | .error e => { abort := e.1, state := s, chan := e.2 }
  | .ok x =>
    if x.fits f.offset f.data.length then
      { abort := abNone, state := s
        chan := { c with staged := some { x with parts := x.parts ++ [(f.offset, f.data)], lastAt := s.now } } }
    else { abort := abSequence, state := s, chan := { c with staged := some { x with lastAt := s.now } } }

/-- The staged value: its parts in place. -/
def Staged.value (x : Staged) : Bytes := x.parts.foldl (fun v y => putBytes v y.1 y.2) (zeros x.total)

/-- WRITE_END: the staged write closes, and applies as one write if its parts cover it. -/
def State.doEnd (s : State) (r : MdReq) (o : Opened) (c : Chan) (f : Frame) : Done :=
  match s.stagedFor r o c f with
  | .error e => { abort := e.1, state := s, chan := e.2 }
  | .ok x =>
    let c := { c with staged := none }
    if (x.parts.map fun y => y.2.length).foldl (· + ·) 0 = x.total then
      let w := s.writeEntry o.who o.sid (s.isFm r.src) f.index f.sub x.value
      { abort := w.1, state := w.2, chan := c }
    else { abort := abSequence, state := s, chan := c }

/-- A ROUTE packet may only WRITE entries of 0x4100 and 0x4110 + p (R385). -/
def routeMay (f : Frame) : Bool := f.op == opWrite && (f.index == 0x4100 || (0x4110 ≤ f.index && f.index < 0x4118))

/-- The codes of R382 that come before ROLE. -/
def beforeRole : List Nat := [abLocked, abNoEntry, abNoSubindex, abNotReadable, abNotWritable, abScope]

/-- The answer to a frame that a ROUTE packet may not carry: ROLE, after the checks that come before it. -/
def State.barred (s : State) (r : MdReq) (o : Opened) (f : Frame) : Nat :=
  let found := if f.op = opRead then s.readTarget o.who f.index f.sub else s.writePerm o.who o.sid (s.isFm r.src) f.index f.sub
  match found with
  | .error a => if f.op ≠ opCancel ∧ beforeRole.contains a then a else abRole
  | .ok _ => abRole

/-- What a request does once its frame and session are valid. -/
def State.perform (s : State) (r : MdReq) (o : Opened) (c : Chan) (f : Frame) : Done :=
  if r.route && !routeMay f then { abort := s.barred r o f, state := s, chan := c }
  else if f.op = opCancel then { abort := abNone, state := s, chan := { c with staged := none, snap := none } }
  else if f.op = opRead then s.doRead o c f
  else if f.op = opWrite then s.doWrite r o c f
  else if f.op = opBegin then s.doBegin r o c f
  else if f.op = opPart then s.doPart r o c f
  else s.doEnd r o c f

/-! ### One request -/

/-- The answer to a request that MD has executed, kept against repetitions. -/
def reply (r : MdReq) (o : Opened) (f : Frame) (d : Done) : State :=
  let resp := wrap o.sid o.seq o.txKey (responseFrame f d.abort d.data)
  { ((d.state.setChan { d.chan with lastReq := some (f.reqId, resp) }).respond r resp) with lastAbort := d.abort }

/-- A refusal that no channel keeps. -/
def State.refuse (s : State) (r : MdReq) (o : Opened) (f : Frame) (abort : Nat) : State :=
  { (s.respond r (wrap o.sid o.seq o.txKey (responseFrame f abort []))) with lastAbort := abort }

/-- The answer in clear to a wrapper that names no open session or whose tag fails: AUTH, under SESSION_ID 0. -/
def State.refuseAuth (s : State) (r : MdReq) : State :=
  s.refuse r { sid := 0, seq := fld r.wrapper 4 8, who := { role := .none }, txKey := none, body := [] } (frameOf []) abAuth

/-- The stored response to a repetition of the last request answered: the same REQ_ID and, in a session, the same SEQ. -/
def Chan.stored (c : Chan) (o : Opened) (f : Frame) : Option Bytes :=
  match c.lastReq with
  | some (id, resp) => if id = f.reqId ∧ (o.sid = 0 ∨ fld resp 4 8 = o.seq) then some resp else none
  | none => none

/-- Whether a request's SEQ is above the last one its session accepted; the clear channel has no SEQ rule. -/
def State.seqOk (s : State) (src : Source) (o : Opened) : Bool :=
  match s.sessionOn (.dict src) o.sid with
  | some x => x.rxSeq ≤ o.seq
  | none => true

/-- Whether the clear channel of a source is refused (R377). -/
def clearRefused (src : Source) (o : Opened) : Bool :=
  o.sid == 0 && match src with | .fabric _ _ => true | .host _ | .field _ _ _ => false

/-- A session has seen a request; one that is accepted takes its SEQ. -/
def State.seen (s : State) (src : Source) (o : Opened) (accept : Bool) : State :=
  s.modSession (.dict src) o.sid fun y => { y with lastAt := s.now, rxSeq := if accept then o.seq + 1 else y.rxSeq }

/-- A request that is no repetition: checked, executed and answered. -/
def State.serve (s : State) (r : MdReq) (o : Opened) (f : Frame) : State :=
  if clearRefused r.src o || !s.seqOk r.src o then (s.seen r.src o false).refuse r o f (if f.ok then abAuth else abBadFrame)
  else
    let s := s.seen r.src o true
    let c := s.chan r.src o.sid
    if !f.ok then reply r o f { abort := abBadFrame, state := s, chan := c } else reply r o f (s.perform r o c f)

/-- The command whose code a frame bears; READ also stands for a frame without a valid code. -/
def rowOp (f : Frame) : Nat := if 1 ≤ f.op ∧ f.op ≤ 6 then f.op else opRead

/-- Whether a source is the field port. -/
def isField : Source → Bool
  | .field _ _ _ => true
  | .host _ | .fabric _ _ => false

/-- A request that MD has taken, if it is one of the command's own code; otherwise nothing has happened. -/
def State.take (s : State) (t : State) (r : MdReq) (op : Nat) : State :=
  if isField r.src && fld r.wrapper 0 4 == spdmSession then (if op = opRead then t.mctpArrive (.dict r.src) r.wrapper else s)
  else
    match t.unwrap r.src r.wrapper with
    | none => if op = opRead then t.refuseAuth r else s
    | some o =>
      let f := frameOf o.body
      if rowOp f ≠ op then s
      else
        match (if clearRefused r.src o then none else (t.chan r.src o.sid).stored o f) with
        | some resp => (t.seen r.src o false).respond r resp
        | none => t.serve r o f

/-- A dictionary request of a code, from a source. -/
def State.dictRow (s : State) (op : Nat) (src : Source) (w : Bytes) : State :=
  if !s.serving then s
  else
    match s.arrive src w with
    | none => s
    | some (t, none) => t
    | some (t, some r) => s.take t r op

/-! ### Requests in MGMT and ROUTE packets (R385, R381) -/

/-- The answer to a request on a channel that has another one in progress: BUSY, after the checks that come before it, and
with no effect. -/
def State.busyAbort (s : State) (r : MdReq) (o : Opened) (f : Frame) : Nat :=
  if !f.ok then abBadFrame
  else if clearRefused r.src o || !s.seqOk r.src o then abAuth
  else
    let a := (s.perform r o (s.chan r.src o.sid) f).abort
    if [abNone, abSequence, abTimeout, abInternal].contains a then abBusy else a

/-- Whether a waiting request is on the same channel and has another REQ_ID. -/
def State.otherOn (s : State) (src : Source) (o : Opened) (f : Frame) (w : MdReq) : Bool :=
  sourceChannel w.src == sourceChannel src &&
    match s.unwrap w.src w.wrapper with
    | some p => p.sid == o.sid && (frameOf p.body).reqId != f.reqId
    | none => false

/-- A request for MD: answered BUSY while its channel has another in progress, which is any that waits (log 62); else it waits
its turn, a ROUTE request ahead of every MGMT request. -/
def State.mdArrive (s : State) (r : MdReq) : State :=
  let wait := s.modFab fun f =>
    { f with mdQueue := if r.route then f.mdQueue.takeWhile (·.route) ++ [r] ++ f.mdQueue.dropWhile (·.route) else f.mdQueue ++ [r] }
  match s.unwrap r.src r.wrapper with
  | none => wait
  | some o =>
    let f := frameOf o.body
    if s.serving && s.fab.mdQueue.any (s.otherOn r.src o f) then s.refuse r o f (s.busyAbort r o f) else wait

/-- A MGMT packet taken by MD: a request, or the MCTP packet of an SPDM message. -/
def State.mgmtIn (s : State) (k : Packet) : State :=
  if s.fab.handed.contains k && k.type == 0x10 then
    let s := s.takeHanded k
    if fld k.payload 0 4 = spdmSession then s.mctpArrive (.dict (.fabric k.srcId k.srcPart)) k.payload
    else s.mdArrive (mdReq k false)
  else s

/-- A ROUTE packet taken by MD. -/
def State.routeIn (s : State) (k : Packet) : State :=
  if s.fab.handed.contains k && k.type == 0x11 then (s.takeHanded k).mdArrive (mdReq k true) else s

/-! ### The time-out of R380 -/

/-- A staged write or snapshot that has seen no request for 1 s is discarded. -/
def Chan.expire (c : Chan) (now : Nat) : Chan :=
  let c := match c.staged with
    | some x => if x.lastAt + 1000000000 ≤ now then { c with staged := none, stagedGone := some (x.index, x.sub) } else c
    | none => c
  match c.snap with
  | some x => if x.lastAt + 1000000000 ≤ now then { c with snap := none, snapGone := some (x.index, x.sub) } else c
  | none => c

def State.stagedTimeout (s : State) (src : Source) (sid : BitVec 32) : State :=
  { s with chans := modWhere (fun c => c.src == sourceChannel src && c.session == sid) (·.expire s.now) s.chans }

/-! ### The commands -/

def execMgmtPacket (pkt : Packet) (s : State) : Host.Outcome State Fault Refusal := .next (s.mgmtIn pkt)
def execRoutePacket (pkt : Packet) (s : State) : Host.Outcome State Fault Refusal := .next (s.routeIn pkt)

def execRead (src : Source) (wrapper : Bytes) (s : State) : Host.Outcome State Fault Refusal :=
  .next (s.dictRow opRead src wrapper)
def execWrite (src : Source) (wrapper : Bytes) (s : State) : Host.Outcome State Fault Refusal :=
  .next (s.dictRow opWrite src wrapper)
def execWriteBegin (src : Source) (wrapper : Bytes) (s : State) : Host.Outcome State Fault Refusal :=
  .next (s.dictRow opBegin src wrapper)
def execWritePart (src : Source) (wrapper : Bytes) (s : State) : Host.Outcome State Fault Refusal :=
  .next (s.dictRow opPart src wrapper)
def execWriteEnd (src : Source) (wrapper : Bytes) (s : State) : Host.Outcome State Fault Refusal :=
  .next (s.dictRow opEnd src wrapper)
def execCancel (src : Source) (wrapper : Bytes) (s : State) : Host.Outcome State Fault Refusal :=
  .next (s.dictRow opCancel src wrapper)
def execStagedTimeout (src : Source) (session : BitVec 32) (s : State) : Host.Outcome State Fault Refusal :=
  .next (s.stagedTimeout src session)

end Sys2Proof.Machine
end

