-- ==== Sys2Proof/Machine/Doorbell.lean ====
section
/-! DEFINITION. Sys2Proof/Machine/Doorbell.lean: the doorbell page of a context and the registers of BAR0 (R33 to R38,
R387 to R389, R57). -/
namespace Sys2Proof.Machine

/-- Whether a doorbell page is live on an interface (R389): the interface is ready and serves a die of the
context's partition, no link on the path to it is out of service (R446), and the context exists under SHAPE. -/
def State.pageLive (s : State) (h g : Nat) : Bool :=
  s.hostOk (partOfCtx g) h && g < 64 * s.partCount && s.hostServes h (partOfCtx g)

/-- A rejected doorbell (R34): counted, its cause kept, and logged naming the queue. -/
def State.rejectDoorbell (s : State) (g q cause v : Nat) : State :=
  (s.modQueue g q fun u => { u with rejects := satAdd 16 u.rejects 1, lastReject := cause }).event
    evDoorbellReject (partCode 9 (8 * g + q)) (partOfCtx g) (BitVec.ofNat 8 cause :: leBytes 4 v)

/-- A difference of two 32-bit counts, modulo 2^32 (R34). -/
def ahead (a b : Nat) : Nat := (a + 2 ^ 32 - b % 2 ^ 32) % 2 ^ 32

/-- SQ_TAIL under R34 in a RUNNING queue. Where a value fails both conditions, LAST_REJECT reads backwards: R34 names no
order (DESIGN CHOICE, log 91). The first descriptor made ready in an empty queue is at its head from here on (R47). -/
def State.acceptTail (s : State) (g q v : Nat) : State :=
  let u := s.queue g q
  let d := ahead v u.tail
  if d = 0 then s
  else if 2 ^ 31 ≤ d then s.rejectDoorbell g q 1 v
  else if 2 ^ recLog2 (s.queueRec g q) < ahead v u.finished then s.rejectDoorbell g q 2 v
  else
    s.modQueue g q fun u =>
      { u with tail := u.tail + d, headAt := if u.startedSeq = u.tail then s.ctxTime g else u.headAt }

def State.sqTail (s : State) (h g q : Nat) (v : BitVec 32) : State :=
  if s.pageLive h g && (s.ctx g).st == .active && (s.queue g q).st == .running then s.acceptTail g q v.toNat else s

/-- CQ_HEAD under R35. -/
def State.acceptHead (s : State) (g q v : Nat) : State :=
  let u := s.queue g q
  let d := ahead v u.cqHead
  if 2 ^ 31 ≤ d then s.rejectDoorbell g q 3 v
  else if u.written < u.cqHead + d then s.rejectDoorbell g q 4 v
  else s.modQueue g q fun u => { u with cqHead := u.cqHead + d }

def State.cqHead (s : State) (h g q : Nat) (v : BitVec 32) : State :=
  if s.pageLive h g && ((s.ctx g).st == .active || (s.ctx g).st == .faulted) && (s.queue g q).st != .disabled then
    s.acceptHead g q v.toNat
  else s

/-- HOST_SIGNAL under R37: the signal applied, nothing, or a reject counted. -/
def State.acceptSignal (s : State) (g v : Nat) : State :=
  let op := bitsOf v 28 4
  if op = 0 ∧ v % 2 ^ 28 = 0 then s
  else if 1 ≤ op ∧ op ≤ 3 then s.signal g op (bitsOf v 16 12) (v % 65536)
  else s.modCtx g fun c => { c with signalRejects := satAdd 32 c.signalRejects 1 }

def State.hostSignal (s : State) (h g : Nat) (v : BitVec 32) : State :=
  if s.pageLive h g && (s.ctx g).st == .active then s.acceptSignal g v.toNat else s

/-- MBOX_DOORBELL (R388): a new TOGGLE with a LENGTH of 28 to 2,048 submits the request buffer; one written while
BUSY sets OVERRUN, and the bytes written with it are discarded. -/
def HostIf.doorbell (i : HostIf) (buf : Bytes) (v : Nat) : HostIf :=
  if i.busy then { i with overrun := true }
  else
    let i := { i with reqBuf := sized 2048 buf }
    let len := v % 4096
    if 28 ≤ len && len ≤ 2048 && v.testBit 31 != i.lastToggle then
      { i with busy := true, reqLen := len, lastToggle := v.testBit 31 }
    else i

/-- Offset 0x0028: the interrupt on an answer and its vector (R387). -/
def HostIf.answerBy (i : HostIf) (v : BitVec 32) : HostIf := { i with ansInt := v.getLsbD 16, ansVec := v.toNat % 2048 }

/-- MODULE_TIME_LO (R387): the low word is returned and the high word latched. -/
def HostIf.readTime (i : HostIf) (t : Nat) : HostIf :=
  if i.ready then { i with readOut := BitVec.ofNat 32 t, timeHi := BitVec.ofNat 32 (t / 2 ^ 32) } else i

/-- MSI-X enabled again: the interrupts held meanwhile are raised (R57). -/
def HostIf.enableMsix (i : HostIf) : HostIf :=
  if i.ready then { i with msixOn := true, raised := i.raised ++ i.heldInts, heldInts := [] } else i

/-! ### The commands -/

def execSqTail (h g q : Nat) (v : BitVec 32) (s : State) : Host.Outcome State Fault Refusal := .next (s.sqTail h g q v)

def execCqHead (h g q : Nat) (v : BitVec 32) (s : State) : Host.Outcome State Fault Refusal := .next (s.cqHead h g q v)

def execHostSignal (h g : Nat) (v : BitVec 32) (s : State) : Host.Outcome State Fault Refusal :=
  .next (s.hostSignal h g v)

def execMboxDoorbell (h : Nat) (buf : MboxIn) (v : BitVec 32) (s : State) : Host.Outcome State Fault Refusal :=
  .next (s.modHif h fun i => if i.ready then (i.answerBy buf.answer).doorbell buf.data v.toNat else i)

/-- The W1C bit OVERRUN cleared (R387). -/
def execOverrunClear (h : Nat) (s : State) : Host.Outcome State Fault Refusal :=
  .next (s.modHif h fun i => if i.ready then { i with overrun := false } else i)

def execModuleTimeLo (h : Nat) (s : State) : Host.Outcome State Fault Refusal := .next (s.modHif h (·.readTime s.now))

def execMsixEnable (h : Nat) (s : State) : Host.Outcome State Fault Refusal := .next (s.modHif h (·.enableMsix))

end Sys2Proof.Machine
end

