-- ==== Sys2Proof/Machine/Hbm.lean ====
section
/-! DEFINITION. Sys2Proof/Machine/Hbm.lean: run-ahead prefetch (R259 to R261), the hot-channel window (R268) and the
re-training of a stack's PHY (R272). -/
namespace Sys2Proof.Machine

/-- Whether two neighbouring addresses lie in one mapping run: the lower page has RUN, both lie in HBM (R257). -/
def sameRun (lo hi : Xlat) : Bool := lo.attr.testBit 5 && !lo.host && !hi.host

/-- Whether a prefetch may enter a page (R260). -/
def mayEnter (x : Xlat) : Bool := x.attr.testBit 0 && !x.attr.testBit 4 && !x.host

/-- Whether a prefetch may go from one line's address to the next one's (R260). -/
def State.mayAdvance (s : State) (g va next : Nat) : Bool :=
  match s.xlate g va, s.xlate g next with
  | some x, some y =>
    mayEnter y &&
      (va / 2 ^ 21 == next / 2 ^ 21 ||
        (!x.attr.testBit 4 && (if va < next then sameRun x y else sameRun y x)))
  | _, _ => false

/-- The virtual addresses of the lines ahead of a stream, until the first that R260 forbids. -/
def State.aheadLines (s : State) (g : Nat) (desc : Bool) : Nat → Nat → List Nat
  | 0, _ => []
  | fuel + 1, va =>
    if desc ∧ va < 128 then []
    else
      let next := if desc then va - 128 else va + 128
      if s.mayAdvance g va next then next :: s.aheadLines g desc fuel next else []

/-- Whether a hub has seen a line of a context read, and the one before it in the stream's direction. How a stream is
detected is open: two neighbouring lines among the reads seen make one (DESIGN CHOICE, log 7). -/
def Die.detects (d : Die) (g line : Nat) (desc : Bool) : Bool :=
  let seen (l : Nat) : Bool := d.demand.any fun x => x.1 == g && x.2.1 / 128 ≤ l && 128 * l < x.2.1 + x.2.2
  seen line && if desc then seen (line + 1) else line != 0 && seen (line - 1)

/-- A hub's streams, at most 64 at once; the oldest leaves (DESIGN CHOICE, log 7). -/
def pushStream (st : Stream) (ss : List Stream) : List Stream :=
  let rest := ss.filter (· != st)
  rest.drop (rest.length - 63) ++ [st]

/-- The lines ahead of a detected stream are read to their home die caches (R260); nothing else changes (R261). -/
def State.prefetch (s : State) (d g va : Nat) (desc : Bool) : State :=
  if (s.ctx g).st == .active && s.partOfDie d == partOfCtx g && (s.xlate g va).isSome && (s.die d).detects g (va / 128) desc then
    let va := va / 128 * 128
    let lines := s.aheadLines g desc 256 va
    let s := lines.foldl (fun s a => s.fillLine (partOfCtx g) (s.dpaOf g a)) s
    let last := (lines.getLast?).getD va
    s.modDie d fun x => { x with streams := pushStream { g := g, line := last / 128, descending := desc } x.streams }
  else s

/-- A HOT_CHANNEL record raised for a stack (R268, R269). -/
def State.hotRecord (s : State) (p k n mean : Nat) : State :=
  (s.modStack k fun st => { st with hot := satAdd 32 st.hot 1, lastHot := some s.now }).event
    evHotChannel (partCode 3 k) p (leBytes 4 n ++ leBytes 4 mean)

/-- At most one record per stack and second (R268). -/
def State.hotStack (s : State) (p k n mean : Nat) : State :=
  match (s.stack k).lastHot with
  | some t => if s.now < t + 10 ^ 9 then s else s.hotRecord p k n mean
  | none => s.hotRecord p k n mean

/-- The window of 10 ms that an instant of partition time lies in. -/
def hotWindowOf (t : Nat) : Nat := t / 10000000

/-- The requests of each stack in a window that has ended, held against their mean; each window is compared once. -/
def State.hotWindow (s : State) (p : Nat) (counts : List Nat) : State :=
  let ks := s.stacksOf p
  let w := hotWindowOf (s.partTime p)
  if p < s.partCount && (s.part p).st == .ready && counts.length == ks.length && (s.part p).hotAt < w then
    let total := counts.foldl (· + ·) 0
    let s := s.modPart p fun x => { x with hotAt := w }
    (ks.zip counts).foldl
      (fun s kc =>
        let s := s.modStack kc.1 fun st => { st with requests := kc.2 }
        if 2 * total < kc.2 * ks.length then s.hotStack p kc.1 kc.2 (total / ks.length) else s) s
  else s

/-- A channel of a trained stack re-trains; requests wait, and nothing else is seen of it (R272). -/
def State.retrain (s : State) (k ch : Nat) : State :=
  if s.pwr.stackReady.getLsbD k && ch < 32 then s.modStack k fun st => { st with retrained := ch } else s

def execPrefetchIssue (d g va : Nat) (descending : Bool) (s : State) : Host.Outcome State Fault Refusal :=
  .next (s.prefetch d g va descending)
def execHotChannelWindow (p : Nat) (counts : List Nat) (s : State) : Host.Outcome State Fault Refusal :=
  .next (s.hotWindow p counts)
def execPhyRetrain (stack channel : Nat) (s : State) : Host.Outcome State Fault Refusal := .next (s.retrain stack channel)

end Sys2Proof.Machine
end

