-- ==== Sys2Proof/Machine/Dispatch.lean ====
section
/-! DEFINITION. Sys2Proof/Machine/Dispatch.lean: one arm for each row of spec/opcode_table.json, each one call of the
command's own meaning. -/
namespace Sys2Proof.Machine

def exec (i : Instr) (s : State) : Host.Outcome State Fault Refusal :=
  match i with
  | .sqTail h g q v => Sys2Proof.Machine.execSqTail h g q v s
  | .cqHead h g q v => Sys2Proof.Machine.execCqHead h g q v s
  | .hostSignal h g v => Sys2Proof.Machine.execHostSignal h g v s
  | .mboxDoorbell h buf v => Sys2Proof.Machine.execMboxDoorbell h buf v s
  | .overrunClear h => Sys2Proof.Machine.execOverrunClear h s
  | .moduleTimeLo h => Sys2Proof.Machine.execModuleTimeLo h s
  | .descriptorTake g q => Sys2Proof.Machine.execDescriptorTake g q s
  | .descriptorStart g q => Sys2Proof.Machine.execDescriptorStart g q s
  | .waitSatisfied g q seq => Sys2Proof.Machine.execWaitSatisfied g q seq s
  | .waitTimeout g q seq => Sys2Proof.Machine.execWaitTimeout g q seq s
  | .workTileSelect core => Sys2Proof.Machine.execWorkTileSelect core s
  | .pipGrant die => Sys2Proof.Machine.execPipGrant die s
  | .workTileEnd core => Sys2Proof.Machine.execWorkTileEnd core s
  | .watchdog core => Sys2Proof.Machine.execWatchdog core s
  | .descriptorFinish g q seq => Sys2Proof.Machine.execDescriptorFinish g q seq s
  | .completionRecordWrite g q => Sys2Proof.Machine.execCompletionRecordWrite g q s
  | .intHoldoffExpiry g q => Sys2Proof.Machine.execIntHoldoffExpiry g q s
  | .moveCopy g q seq => Sys2Proof.Machine.execMoveCopy g q seq s
  | .moveFill g q seq => Sys2Proof.Machine.execMoveFill g q seq s
  | .moveZero g q seq => Sys2Proof.Machine.execMoveZero g q seq s
  | .check g q seq => Sys2Proof.Machine.execCheck g q seq s
  | .gemm g q seq => Sys2Proof.Machine.execGemm g q seq s
  | .gemmBwd g q seq => Sys2Proof.Machine.execGemmBwd g q seq s
  | .dist g q seq => Sys2Proof.Machine.execDist g q seq s
  | .convFwd g q seq => Sys2Proof.Machine.execConvFwd g q seq s
  | .convBwdData g q seq => Sys2Proof.Machine.execConvBwdData g q seq s
  | .convBwdWeight g q seq => Sys2Proof.Machine.execConvBwdWeight g q seq s
  | .haloWaitTimeout g q seq => Sys2Proof.Machine.execHaloWaitTimeout g q seq s
  | .convDw g q seq => Sys2Proof.Machine.execConvDw g q seq s
  | .maxPool g q seq => Sys2Proof.Machine.execMaxPool g q seq s
  | .avgValid g q seq => Sys2Proof.Machine.execAvgValid g q seq s
  | .avgAll g q seq => Sys2Proof.Machine.execAvgAll g q seq s
  | .crop g q seq => Sys2Proof.Machine.execCrop g q seq s
  | .attnFwd g q seq => Sys2Proof.Machine.execAttnFwd g q seq s
  | .attnBwd g q seq => Sys2Proof.Machine.execAttnBwd g q seq s
  | .kvAppend g q seq => Sys2Proof.Machine.execKvAppend g q seq s
  | .kvAllocResume g => Sys2Proof.Machine.execKvAllocResume g s
  | .kvBufferResume g => Sys2Proof.Machine.execKvBufferResume g s
  | .truncate g q seq => Sys2Proof.Machine.execTruncate g q seq s
  | .setPriority g q seq => Sys2Proof.Machine.execSetPriority g q seq s
  | .boundary g q seq => Sys2Proof.Machine.execBoundary g q seq s
  | .kvFree g q seq => Sys2Proof.Machine.execKvFree g q seq s
  | .vec g q seq => Sys2Proof.Machine.execVec g q seq s
  | .layer g q seq => Sys2Proof.Machine.execLayer g q seq s
  | .rms g q seq => Sys2Proof.Machine.execRms g q seq s
  | .stats g q seq => Sys2Proof.Machine.execStats g q seq s
  | .splitSum g q seq => Sys2Proof.Machine.execSplitSum g q seq s
  | .stashPut g q seq => Sys2Proof.Machine.execStashPut g q seq s
  | .stashGet g q seq => Sys2Proof.Machine.execStashGet g q seq s
  | .recipe g q seq => Sys2Proof.Machine.execRecipe g q seq s
  | .specReplayStart g slice => Sys2Proof.Machine.execSpecReplayStart g slice s
  | .specReplayDone g handle => Sys2Proof.Machine.execSpecReplayDone g handle s
  | .uniform g q seq => Sys2Proof.Machine.execUniform g q seq s
  | .normal g q seq => Sys2Proof.Machine.execNormal g q seq s
  | .bits g q seq => Sys2Proof.Machine.execBits g q seq s
  | .dropout g q seq => Sys2Proof.Machine.execDropout g q seq s
  | .noiseAdd g q seq => Sys2Proof.Machine.execNoiseAdd g q seq s
  | .stepCommit g q seq => Sys2Proof.Machine.execStepCommit g q seq s
  | .stepRepeat g q seq => Sys2Proof.Machine.execStepRepeat g q seq s
  | .allReduce g q seq => Sys2Proof.Machine.execAllReduce g q seq s
  | .reduceScatter g q seq => Sys2Proof.Machine.execReduceScatter g q seq s
  | .allGather g q seq => Sys2Proof.Machine.execAllGather g q seq s
  | .broadcast g q seq => Sys2Proof.Machine.execBroadcast g q seq s
  | .secure g q seq => Sys2Proof.Machine.execSecure g q seq s
  | .restore g q seq => Sys2Proof.Machine.execRestore g q seq s
  | .fill g q seq => Sys2Proof.Machine.execFill g q seq s
  | .register g q seq => Sys2Proof.Machine.execRegister g q seq s
  | .sync g q seq => Sys2Proof.Machine.execSync g q seq s
  | .syncClear g q seq => Sys2Proof.Machine.execSyncClear g q seq s
  | .nop g q seq => Sys2Proof.Machine.execNop g q seq s
  | .tileReread g q seq va delta => Sys2Proof.Machine.execTileReread g q seq va delta s
  | .prefetchIssue d g va descending => Sys2Proof.Machine.execPrefetchIssue d g va descending s
  | .hotChannelWindow p counts => Sys2Proof.Machine.execHotChannelWindow p counts s
  | .phyRetrain stack channel => Sys2Proof.Machine.execPhyRetrain stack channel s
  | .collData pkt => Sys2Proof.Machine.execCollData pkt s
  | .collResult pkt => Sys2Proof.Machine.execCollResult pkt s
  | .collSparse pkt => Sys2Proof.Machine.execCollSparse pkt s
  | .collSign pkt => Sys2Proof.Machine.execCollSign pkt s
  | .collBs16 pkt => Sys2Proof.Machine.execCollBs16 pkt s
  | .collMeta pkt => Sys2Proof.Machine.execCollMeta pkt s
  | .collBs16Result pkt => Sys2Proof.Machine.execCollBs16Result pkt s
  | .collSignature pkt => Sys2Proof.Machine.execCollSignature pkt s
  | .collMissing pkt => Sys2Proof.Machine.execCollMissing pkt s
  | .stragglerTimeout g q seq => Sys2Proof.Machine.execStragglerTimeout g q seq s
  | .secureVoteMessage g pkt => Sys2Proof.Machine.execSecureVoteMessage g pkt s
  | .parityPacket g pkt => Sys2Proof.Machine.execParityPacket g pkt s
  | .holderDone g pkt => Sys2Proof.Machine.execHolderDone g pkt s
  | .fillPacket g pkt => Sys2Proof.Machine.execFillPacket g pkt s
  | .groupKeyRequest g asker => Sys2Proof.Machine.execGroupKeyRequest g asker s
  | .quietIntervalExpiry => Sys2Proof.Machine.execQuietIntervalExpiry s
  | .maxIntervalExpiry => Sys2Proof.Machine.execMaxIntervalExpiry s
  | .ceWindowEnd => Sys2Proof.Machine.execCeWindowEnd s
  | .hbmCorrectedError onDie unit => Sys2Proof.Machine.execHbmCorrectedError onDie unit s
  | .domainEvent who => Sys2Proof.Machine.execDomainEvent who s
  | .flitReceive port flit => Sys2Proof.Machine.execFlitReceive port flit s
  | .packetReceive port => Sys2Proof.Machine.execPacketReceive port s
  | .nak port seq => Sys2Proof.Machine.execNak port seq s
  | .laneReady port => Sys2Proof.Machine.execLaneReady port s
  | .switch port => Sys2Proof.Machine.execSwitch port s
  | .keyPhase port => Sys2Proof.Machine.execKeyPhase port s
  | .heartbeat port dev counter => Sys2Proof.Machine.execHeartbeat port dev counter s
  | .heartbeatSend port => Sys2Proof.Machine.execHeartbeatSend port s
  | .peerSilent port => Sys2Proof.Machine.execPeerSilent port s
  | .mgmtPacket pkt => Sys2Proof.Machine.execMgmtPacket pkt s
  | .routePacket pkt => Sys2Proof.Machine.execRoutePacket pkt s
  | .calWindowOpen port => Sys2Proof.Machine.execCalWindowOpen port s
  | .calWindowEnd port adapted => Sys2Proof.Machine.execCalWindowEnd port adapted s
  | .laneFailure port lane => Sys2Proof.Machine.execLaneFailure port lane s
  | .lossOfSignal port => Sys2Proof.Machine.execLossOfSignal port s
  | .portRetrain port => Sys2Proof.Machine.execPortRetrain port s
  | .portTrained port peerId peerPort => Sys2Proof.Machine.execPortTrained port peerId peerPort s
  | .portAuthComplete port peer => Sys2Proof.Machine.execPortAuthComplete port peer s
  | .linkKeyRollover port key => Sys2Proof.Machine.execLinkKeyRollover port key s
  | .ethRetryTimeout port => Sys2Proof.Machine.execEthRetryTimeout port s
  | .portModeWrite who port mode => Sys2Proof.Machine.execPortModeWrite who port mode s
  | .rankSet who p v => Sys2Proof.Machine.execRankSet who p v s
  | .read src wrapper => Sys2Proof.Machine.execRead src wrapper s
  | .write src wrapper => Sys2Proof.Machine.execWrite src wrapper s
  | .writeBegin src wrapper => Sys2Proof.Machine.execWriteBegin src wrapper s
  | .writePart src wrapper => Sys2Proof.Machine.execWritePart src wrapper s
  | .writeEnd src wrapper => Sys2Proof.Machine.execWriteEnd src wrapper s
  | .cancel src wrapper => Sys2Proof.Machine.execCancel src wrapper s
  | .stagedTimeout src session => Sys2Proof.Machine.execStagedTimeout src session s
  | .configWrite who index sub data => Sys2Proof.Machine.execConfigWrite who index sub data s
  | .partCreate who p => Sys2Proof.Machine.execPartCreate who p s
  | .partActivate who p => Sys2Proof.Machine.execPartActivate who p s
  | .activateComplete p => Sys2Proof.Machine.execActivateComplete p s
  | .partReset who p => Sys2Proof.Machine.execPartReset who p s
  | .partResetComplete p failed => Sys2Proof.Machine.execPartResetComplete p failed s
  | .partDestroy who p => Sys2Proof.Machine.execPartDestroy who p s
  | .destroyComplete p => Sys2Proof.Machine.execDestroyComplete p s
  | .ctxCreate who g => Sys2Proof.Machine.execCtxCreate who g s
  | .ctxTeardown who g => Sys2Proof.Machine.execCtxTeardown who g s
  | .teardownComplete g => Sys2Proof.Machine.execTeardownComplete g s
  | .invalidate who g => Sys2Proof.Machine.execInvalidate who g s
  | .queueConfigWrite who g q rec => Sys2Proof.Machine.execQueueConfigWrite who g q rec s
  | .roleMaskWrite who d v => Sys2Proof.Machine.execRoleMaskWrite who d v s
  | .stashTableWrite who g entries v => Sys2Proof.Machine.execStashTableWrite who g entries v s
  | .kvConfigWrite who g sub v => Sys2Proof.Machine.execKvConfigWrite who g sub v s
  | .shapeWrite who v => Sys2Proof.Machine.execShapeWrite who v s
  | .slotTableWrite who p table => Sys2Proof.Machine.execSlotTableWrite who p table s
  | .pipBudgetWrite who v => Sys2Proof.Machine.execPipBudgetWrite who v s
  | .coreMhzWrite who d v => Sys2Proof.Machine.execCoreMhzWrite who d v s
  | .nodeIdApply => Sys2Proof.Machine.execNodeIdApply s
  | .moduleReset who => Sys2Proof.Machine.execModuleReset who s
  | .fwApply who => Sys2Proof.Machine.execFwApply who s
  | .commitSvn who => Sys2Proof.Machine.execCommitSvn who s
  | .debugNonce session => Sys2Proof.Machine.execDebugNonce session s
  | .debugToken session token => Sys2Proof.Machine.execDebugToken session token s
  | .ownerAnchor session anchor => Sys2Proof.Machine.execOwnerAnchor session anchor s
  | .anchorWrite who index sub anchor => Sys2Proof.Machine.execAnchorWrite who index sub anchor s
  | .getVersion c => Sys2Proof.Machine.execGetVersion c s
  | .getCapabilities c => Sys2Proof.Machine.execGetCapabilities c s
  | .negotiateAlgorithms c offered => Sys2Proof.Machine.execNegotiateAlgorithms c offered s
  | .getDigests c => Sys2Proof.Machine.execGetDigests c s
  | .getCertificate c offset length => Sys2Proof.Machine.execGetCertificate c offset length s
  | .challenge c nonce => Sys2Proof.Machine.execChallenge c nonce s
  | .getMeasurements c index nonce => Sys2Proof.Machine.execGetMeasurements c index nonce s
  | .keyExchange c session key txKey => Sys2Proof.Machine.execKeyExchange c session key txKey s
  | .spdmFinish c session signature => Sys2Proof.Machine.execSpdmFinish c session signature s
  | .keyUpdate c session key txKey => Sys2Proof.Machine.execKeyUpdate c session key txKey s
  | .spdmHeartbeat c session => Sys2Proof.Machine.execSpdmHeartbeat c session s
  | .endSession c session => Sys2Proof.Machine.execEndSession c session s
  | .sessionTimeout session => Sys2Proof.Machine.execSessionTimeout session s
  | .powerGood straps => Sys2Proof.Machine.execPowerGood straps s
  | .powerGoodLoss => Sys2Proof.Machine.execPowerGoodLoss s
  | .resetNAssert => Sys2Proof.Machine.execResetNAssert s
  | .resetNRelease => Sys2Proof.Machine.execResetNRelease s
  | .bootComplete bank0 bank1 store => Sys2Proof.Machine.execBootComplete bank0 bank1 store s
  | .builtInTestDone d passed coresOk => Sys2Proof.Machine.execBuiltInTestDone d passed coresOk s
  | .stackTrained stk ok => Sys2Proof.Machine.execStackTrained stk ok s
  | .perstAssert h => Sys2Proof.Machine.execPerstAssert h s
  | .hostLinkDown h => Sys2Proof.Machine.execHostLinkDown h s
  | .hostLinkUp h speed width => Sys2Proof.Machine.execHostLinkUp h speed width s
  | .sensorSample sensor reading rating => Sys2Proof.Machine.execSensorSample sensor reading rating s
  | .sensorTimeout sensor => Sys2Proof.Machine.execSensorTimeout sensor s
  | .thermalCapStep d => Sys2Proof.Machine.execThermalCapStep d s
  | .thermalShutdown onStack unit => Sys2Proof.Machine.execThermalShutdown onStack unit s
  | .droopTrip dale => Sys2Proof.Machine.execDroopTrip dale s
  | .droopStretchEnd dale lowestMv => Sys2Proof.Machine.execDroopStretchEnd dale lowestMv s
  | .droopCalibration core => Sys2Proof.Machine.execDroopCalibration core s
  | .calibrationStepEnd core droopPermille => Sys2Proof.Machine.execCalibrationStepEnd core droopPermille s
  | .pipDivision => Sys2Proof.Machine.execPipDivision s
  | .rampInterval => Sys2Proof.Machine.execRampInterval s
  | .domainOn n rose => Sys2Proof.Machine.execDomainOn n rose s
  | .colOverrun sender receiver => Sys2Proof.Machine.execColOverrun sender receiver s
  | .colTimeout requester far => Sys2Proof.Machine.execColTimeout requester far s
  | .colHoldTimeout requester far => Sys2Proof.Machine.execColHoldTimeout requester far s
  | .coreFault core cause => Sys2Proof.Machine.execCoreFault core cause s
  | .spareCoreTest core passed => Sys2Proof.Machine.execSpareCoreTest core passed s
  | .dieCacheParity d line => Sys2Proof.Machine.execDieCacheParity d line s
  | .regulatorPhaseFailure domain phase => Sys2Proof.Machine.execRegulatorPhaseFailure domain phase s
  | .dieHubFault d unit => Sys2Proof.Machine.execDieHubFault d unit s
  | .mcFault stack kind => Sys2Proof.Machine.execMcFault stack kind s
  | .d2dLinkFault link cause => Sys2Proof.Machine.execD2dLinkFault link cause s
  | .rngHealthFail test => Sys2Proof.Machine.execRngHealthFail test s
  | .frameStart p => Sys2Proof.Machine.execFrameStart p s
  | .slotBoundary p => Sys2Proof.Machine.execSlotBoundary p s
  | .perstRelease h => Sys2Proof.Machine.execPerstRelease h s
  | .msixEnable h => Sys2Proof.Machine.execMsixEnable h s
  | .d2dLinkRetrained link ok => Sys2Proof.Machine.execD2dLinkRetrained link ok s
  | .lsLocked port => Sys2Proof.Machine.execLsLocked port s
  | .fieldPortReady => Sys2Proof.Machine.execFieldPortReady s
  | .hotSwapOpen => Sys2Proof.Machine.execHotSwapOpen s
  | .queuedWritesComplete stk => Sys2Proof.Machine.execQueuedWritesComplete stk s
  | .encapsulatedRequest c session chain => Sys2Proof.Machine.execEncapsulatedRequest c session chain s
  | .spdmResponse what reply key tableHash => Sys2Proof.Machine.execSpdmResponse what reply key tableHash s
  | .pointExchange g pkt => Sys2Proof.Machine.execPointExchange g pkt s
  | .secureVoteTimeout g => Sys2Proof.Machine.execSecureVoteTimeout g s

end Sys2Proof.Machine
end

