-- ==== Sys2Proof/Safety.lean ====
section
/-! DEFINITION. Sys2Proof/Safety.lean: what counts as a safe run, and what a command may change, in the terms the statements
use. -/
namespace Sys2Proof.Machine

/-- A command answers a next state. -/
def Completes (i : Instr) (s : State) : Prop := ∃ t, exec i s = .next t

/-- A step answers a next state. -/
def StepCompletes (s : State) : Prop := ∃ t, step s = .next t

/-- `n` steps from a state, none of which stops. -/
def runsTo : Nat → State → Option State
  | 0, s => some s
  | n + 1, s =>
    match step s with
    | .next t => runsTo n t
    | .fault _ => none
    | .refused _ => none

/-! ### Frames -/

/-- Only context g may differ. -/
def OnlyCtx (g : Nat) (s t : State) : Prop := t = { s with ctxs := t.ctxs } ∧ ∀ k, k ≠ g → t.ctx k = s.ctx k

/-- Only what the work of descriptors changes may differ: memories and their sums, contexts, cores, dies, the log, and the
model's own count of free values drawn (log 4). -/
def OnlyWork (s t : State) : Prop :=
  t = { s with hbm := t.hbm, sumDelta := t.sumDelta, host0 := t.host0, host1 := t.host1, ctxs := t.ctxs, cores := t.cores,
               dies := t.dies, log := t.log, free := t.free }

/-- The same, and in every partition the note of whom its engines served last (R336). -/
def OnlyEngine (s t : State) : Prop :=
  t = { s with hbm := t.hbm, sumDelta := t.sumDelta, host0 := t.host0, host1 := t.host1, ctxs := t.ctxs, cores := t.cores,
               dies := t.dies, log := t.log, free := t.free, parts := t.parts } ∧
  ∀ p, t.part p = { s.part p with engineLast := (t.part p).engineLast }

/-- Only port p may differ. -/
def OnlyPort (p : Nat) (s t : State) : Prop := t = { s with ports := t.ports } ∧ ∀ i, i ≠ p → t.port i = s.port i

/-- A command ends with a port changed to a value, and with nothing else changed. -/
def PortBecomes (i : Instr) (s : State) (p : Nat) (x : Port) : Prop :=
  ∃ t, exec i s = .next t ∧ OnlyPort p s t ∧ t.port p = x

/-- A command takes a port DOWN for a cause of R345: PORT_DOWN is logged and the port's keys are gone. -/
def FallsFor (i : Instr) (s : State) (p cause : Nat) : Prop :=
  ∃ t, exec i s = .next t ∧ (t.port p).st = .down ∧ (t.port p).txKey = none ∧ (t.port p).rxKey = none ∧
    (t.port p).replay = [] ∧ (t.port p).sentq = [] ∧ (t.port p).txq = [] ∧ (t.port p).asm = [] ∧ (t.port p).downAt = s.now ∧ t.hbm = s.hbm ∧ t.parts = s.parts ∧
    t.log = (s.event 0x0031 (partCode 4 p) 0xFF (BitVec.ofNat 8 cause :: leBytes 4 ((s.port p).peer.toNat % 2 ^ 18))).log

/-- Every other context is as it was. -/
def OthersKept (g : Nat) (s t : State) : Prop := ∀ k, k ≠ g → t.ctx k = s.ctx k

/-! ### The bytes a context's writes go to -/

/-- n bytes of a memory: 0 HBM, 1 the host memory behind H0, 2 that behind H1. -/
structure Stored where
  mem : Nat
  addr : Nat
  n : Nat
  deriving DecidableEq, Repr

/-- Where one segment of a context's write goes; none where it is not made. -/
def State.storedSeg (s : State) (g va n : Nat) : Option Stored :=
  match s.xlate g va with
  | none => none
  | some x =>
    if !x.attr.testBit 1 then none
    else if x.host then
      if s.hostOk (partOfCtx g) (s.hostIfOf g) then
        some { mem := if s.hostIfOf g = 0 then 1 else 2, addr := hostKey (s.cfg (0x3600 + g) 7) x.addr, n := n }
      else none
    else some { mem := 0, addr := hbmKey (partOfCtx g) x.addr, n := n }

/-- Where the segments of a write go, each translated in the state it meets. -/
def storedSegs (s : State) (g : Nat) : List (Nat × Nat) → Bytes → List Stored
  | [], _ => []
  | (va, n) :: rest, bs =>
    match s.writeSeg g va (bs.take n) with
    | .error _ => []
    | .ok t => (s.storedSeg g va n).toList ++ storedSegs t g rest (bs.drop n)

/-- Where a list of writes goes, up to the first that fails. -/
def storedAll (s : State) (g : Nat) : List (Nat × Bytes) → List Stored
  | [] => []
  | (va, bs) :: rest =>
    storedSegs s g (segsOf va bs.length) bs ++
      match s.writeVa g va bs with
      | (_, some _) => []
      | (t, none) => storedAll t g rest

/-- Whether a byte of a memory lies outside stored runs. -/
def Outside (l : List Stored) (mem a : Nat) : Prop := ∀ x ∈ l, x.mem = mem → a < x.addr ∨ x.addr + x.n ≤ a

/-- Every byte of every memory outside the stored runs reads as before. -/
def SameOutside (l : List Stored) (s t : State) : Prop :=
  (∀ a, Outside l 0 a → cellGet t.hbm a = cellGet s.hbm a) ∧
  (∀ a, Outside l 1 a → cellGet t.host0 a = cellGet s.host0 a) ∧
  (∀ a, Outside l 2 a → cellGet t.host1 a = cellGet s.host1 a)

/-! ### Work ready to be carried out -/

/-- A work tile that a core runs and that has not been carried out, the first such of its descriptor in ascending core
order, in a context that is not FREE, for begun work goes on in FAULTED and TEARDOWN (R56, R332), and a module that is not shut
down. -/
structure OnCore (g q seq : Nat) (s : State) (r : Run) (t : Nat) : Prop where
  run : s.run g q seq = some r
  going : (s.ctx g).st ≠ .free
  powered : s.pwr.shutdown = false
  tile : s.dueTile g q seq r = some t

/-- A started descriptor whose wait is satisfied and whose work has not ended, in an ACTIVE context of a module that is not
shut down. -/
structure Ready (g q seq : Nat) (s : State) (r : Run) : Prop where
  run : s.run g q seq = some r
  active : (s.ctx g).st = .active
  powered : s.pwr.shutdown = false
  waited : r.waitDone = true
  fresh : r.ran = false
  going : r.aborting = false

/-- The turn of engine u, which is of kind e, has come to a context (R336); `ready` says which of its descriptors can go on. -/
def State.turnOf (s : State) (u e g : Nat) (ready : Nat → Nat → Run → Bool) : Prop :=
  s.engineChoice u e (g / 64) ready = some g

/-- A work tile that fails: it has been carried out, and its descriptor faults. -/
def State.tileFaults (s : State) (g q seq t : Nat) (e : Fail) : State :=
  (s.modRun g q seq fun r => { r with carried := t :: r.carried }).jobFault g q seq e.status e.tile

/-- A work tile carried out, with its tallies. -/
def State.tileCarried (s : State) (g q seq t : Nat) (ts : List Tally) : State :=
  s.modRun g q seq fun r => { r with carried := t :: r.carried, tallies := r.tallies ++ ts }

/-- What a work tile leaves: its writes made, joined where they meet, the work tile marked as carried out with its tallies,
its reads and writes seen by the hub of its core's die, and its core's memories as it leaves them (R18, R337); a job fault at the
write that fails, or by its own status. -/
def State.worked (s : State) (g q seq t : Nat) (w : Work) : State :=
  match s.writeAll g (joinRuns w.writes) with
  | (u, some e) => u.tileFaults g q seq t e
  | (u, none) =>
    if isJobFault w.status then u.tileFaults g q seq t { status := w.status, tile := w.tile }
    else
      ((u.accessed (u.tileDie g q seq t) g w.reads (w.writes.map fun x => (x.1, x.2.length))).leftIn s g q seq t w).tileCarried g q seq
        t w.tallies

/-- A command carries out the due work tile of a descriptor of a kind, and does nothing to a descriptor of another kind. -/
def CarriesOut (i : Nat → Nat → Nat → Instr) (kind : Run → Bool) (work : State → Nat → Nat → Nat → Run → Nat → Work) : Prop :=
  ∀ s g q seq r t, OnCore g q seq s r t →
    (kind r = true → exec (i g q seq) s = .next (s.worked g q seq t (work s g q seq r t))) ∧
    (kind r = false → exec (i g q seq) s = .next s)

/-- Where no work tile of the descriptor is due, a command changes nothing. -/
def Waits (i : Nat → Nat → Nat → Instr) : Prop :=
  ∀ s g q seq, (¬ ∃ r t, OnCore g q seq s r t) → exec (i g q seq) s = .next s

/-- What a row that carries out work tiles may change: the bytes its work stores to, and otherwise only what the work of
descriptors changes; no other context. -/
def FramedBy (i : Nat → Nat → Nat → Instr) (kind : Run → Bool) (work : State → Nat → Nat → Nat → Run → Nat → Work) : Prop :=
  ∀ s g q seq r t, OnCore g q seq s r t → kind r = true →
    ∃ u, exec (i g q seq) s = .next u ∧ SameOutside (storedAll s g (joinRuns (work s g q seq r t).writes)) s u ∧ OnlyWork s u ∧
      OthersKept g s u

/-- A row carries out the work tiles of its kind of descriptor, and otherwise waits. -/
def DataRow (i : Nat → Nat → Nat → Instr) (kind : Run → Bool) (work : State → Nat → Nat → Nat → Run → Nat → Work) : Prop :=
  CarriesOut i kind work ∧ Waits i

end Sys2Proof.Machine
end

