-- ==== Sys2Proof/Certificates/Slice0/Obligations.lean ====
section
/-! DEFINITION. Sys2Proof/Certificates/Slice0/Obligations.lean: the statements for the provers. -/
open Sys2Proof Sys2Proof.Machine

/-! ### The block as a whole -/

/-- A step takes the command at the front of the queue and runs it on the state with the queue's rest. -/
def Obligations.StepRunsFront : Prop :=
  ∀ c rest (s : State), step { s with pending := c :: rest } = exec c { s with pending := rest }

/-- With nothing waiting, a step is one nanosecond of module time while power-good holds, and none without it; a reset
that an answered MODULE_RESET has armed begins when its time has come. The model's reading of time is log 2. -/
def Obligations.IdleStep : Prop :=
  ∀ s : State, s.pending = [] →
    (s.pwr.good = false → s.pwr.resetAt = none → step s = .next s) ∧
    (s.pwr.good = true → s.pwr.resetAt = none → step s = .next { s with pwr := { s.pwr with time := s.pwr.time + 1 } }) ∧
    (∀ t, s.pwr.good = true → s.pwr.resetAt = some t → s.pwr.time + 1 < t →
      step s = .next { s with pwr := { s.pwr with time := s.pwr.time + 1 } }) ∧
    (∀ t, s.pwr.good = true → s.pwr.resetAt = some t → t ≤ s.pwr.time + 1 →
      ∃ u, step s = .next u ∧ u.pwr.phase = .booting ∧ u.pwr.resetAt = none ∧ u.pwr.time = s.pwr.time + 1 ∧
        u.ctxs = [] ∧ u.parts = [] ∧ u.ports = [] ∧ u.sec.sessions = [] ∧ u.log = {})

/-- Before its first power-good the module has no partition, no active context, no queue that is not DISABLED and no port
that is not OFF; RISK is 1, module time 0, and nothing waits. The model's choices in it: log 3, log 11. -/
def Obligations.ResetLeaves : Prop :=
  State.reset.pending = [] ∧ State.reset.now = 0 ∧ State.reset.doubler.risk = 1 ∧ State.reset.sec.svn = 0 ∧
  State.reset.sec.sessions = [] ∧ State.reset.log.recs = [] ∧ State.reset.memOk ∧
  (∀ p, (State.reset.part p).st = .absent) ∧ (∀ g, (State.reset.ctx g).st = .free) ∧
  (∀ g q, (State.reset.queue g q).st = .disabled) ∧ (∀ p, (State.reset.port p).st = .off) ∧
  (∀ n, (State.reset.domain n).st = 0) ∧ (∀ g n, State.reset.counter g n = 0)

/-- No command, whatever the state, makes a memory leave its canonical form, and neither does an idle step. -/
def Obligations.EveryStepKeepsMemory : Prop :=
  ∀ s t : State, s.memOk → step s = .next t → t.memOk

/-- The fused security version number never falls and never passes 64, whatever a step does. -/
def Obligations.SvnNeverFalls : Prop :=
  ∀ s t : State, s.sec.svn ≤ 64 → step s = .next t → s.sec.svn ≤ t.sec.svn ∧ t.sec.svn ≤ 64

/-- No command adds to the queue of waiting commands or takes from it, and none changes the ordering code.
The model's choice in it: log 14. -/
def Obligations.ExecKeepsQueue : Prop :=
  ∀ i s t, exec i s = .next t → t.pending = s.pending ∧ t.variant = s.variant

/-- Each of the 209 commands answers a next state from every state, whatever its operands, and so does every step: no command
ends the block in a fault or a refusal. What each command's effect is, the other statements say. -/
def Obligations.EveryCommandCompletes : Prop :=
  (∀ (i : Instr) (s : State), Completes i s) ∧ (∀ s : State, StepCompletes s) ∧
  ∀ (n : Nat) (s : State), ∃ t, runsTo n s = some t

/-- The bytes written to HBM read back, every other byte of HBM reads as before, and the host memories are untouched; the sum of
every data tile the write covers whole is set to match, and no other tile's difference changes. -/
def Obligations.HbmWrites : Prop :=
  ∀ (s : State) p dpa bs,
    (s.hbmWrite p dpa bs).hbmRead p dpa bs.length = bs ∧
    (∀ a, a < hbmKey p dpa ∨ hbmKey p dpa + bs.length ≤ a → cellGet (s.hbmWrite p dpa bs).hbm a = cellGet s.hbm a) ∧
    (s.hbmWrite p dpa bs).host0 = s.host0 ∧ (s.hbmWrite p dpa bs).host1 = s.host1 ∧
    ∀ t, (s.hbmWrite p dpa bs).tileDelta t = if t ∈ wholeTiles (hbmKey p dpa) bs.length then 0 else s.tileDelta t

/-! ### Doorbells, the BAR0 page and the queues -/

/-- A newly written SQ_TAIL is accepted, ignored or rejected by its distance modulo 2^32 from the last accepted one and from
FINISHED_SEQ; a reject is counted, kept and logged and changes nothing else. The descriptor of sequence number n is taken
from ring slot (n - 1) mod 2^RING_LOG2. An accepted tail of a queue that has started all it had dates the descriptor now at its
head. Completes: SQ_TAIL, DESCRIPTOR_TAKE. The model's choices in it: log 77, log 91 (backwards is tested first; a descriptor
that waits is not yet dispatched). -/
def Obligations.SqTailRule : Prop :=
  ∀ (s : State) h g q (v : BitVec 32),
    (exec (.sqTail h g q v) s = .next (
      let u := s.queue g q
      let fromTail := (v - BitVec.ofNat 32 u.tail).toNat
      let fromFinished := (v - BitVec.ofNat 32 u.finished).toNat
      let reject (cause : Nat) :=
        (s.modQueue g q fun u => { u with rejects := min (u.rejects + 1) 0xFFFF, lastReject := cause }).event 0x0001
          (partCode 9 (8 * g + q)) (g / 64) (BitVec.ofNat 8 cause :: leBytes 4 v.toNat)
      if s.pageLive h g ∧ (s.ctx g).st = .active ∧ u.st = .running ∧ fromTail ≠ 0 then
        if 2 ^ 31 ≤ fromTail then reject 1
        else if 2 ^ recLog2 (s.queueRec g q) < fromFinished then reject 2
        else s.modQueue g q fun u =>
          { u with tail := u.tail + fromTail, headAt := if u.startedSeq = u.tail then s.ctxTime g else u.headAt }
      else s)) ∧
    (exec (.descriptorTake g q) s = .next (
      let u := s.queue g q
      let n := u.takenSeq + 1
      let r := s.queueRec g q
      let dispatched := u.startedSeq - (u.runs.filter fun x => !x.waitDone).length
      if (s.ctx g).st = .active ∧ s.pwr.shutdown = false ∧ u.st = .running ∧ n ≤ u.tail ∧ n ≤ dispatched + 32 then
        match s.readVa g (recRingBase r + 64 * ((n - 1) % 2 ^ recLog2 r)) 64 with
        | .ok d => s.modQueue g q fun u => { u with taken := u.taken ++ [{ seq := n, raw := d }], takenSeq := n }
        | .error e => s.faultCtx g q n e.status e.tile
      else s))

/-- CQ_HEAD moves forward only, and not past the records written; otherwise it is rejected as an SQ_TAIL is. HOST_SIGNAL
applies its signal, does nothing, or counts a reject. Completes: CQ_HEAD, HOST_SIGNAL. -/
def Obligations.CqHeadAndHostSignal : Prop :=
  ∀ (s : State) h g q (v : BitVec 32),
    (exec (.cqHead h g q v) s = .next (
      let u := s.queue g q
      let d := (v - BitVec.ofNat 32 u.cqHead).toNat
      let reject (cause : Nat) :=
        (s.modQueue g q fun u => { u with rejects := min (u.rejects + 1) 0xFFFF, lastReject := cause }).event 0x0001
          (partCode 9 (8 * g + q)) (g / 64) (BitVec.ofNat 8 cause :: leBytes 4 v.toNat)
      if s.pageLive h g ∧ ((s.ctx g).st = .active ∨ (s.ctx g).st = .faulted) ∧ u.st ≠ .disabled then
        if 2 ^ 31 ≤ d then reject 3
        else if u.written < u.cqHead + d then reject 4
        else s.modQueue g q fun u => { u with cqHead := u.cqHead + d }
      else s)) ∧
    (exec (.hostSignal h g v) s = .next (
      let op := v.toNat / 2 ^ 28
      let n := v.toNat / 2 ^ 16 % 2 ^ 12
      let inc := BitVec.ofNat 32 (v.toNat % 2 ^ 16)
      if s.pageLive h g ∧ (s.ctx g).st = .active then
        if v = 0 then s
        else if op = 1 then s.setCounter g n (s.counter g n + inc)
        else if op = 2 then s.setCounter g n inc
        else if op = 3 then s.setCounter g n (s.counter g n ||| inc)
        else s.modCtx g fun c => { c with signalRejects := min (c.signalRejects + 1) 0xFFFFFFFF }
      else s))

/-- The BAR0 page while its interface is ready: MBOX_DOORBELL submits a request of 28 to 2,048 bytes under a new TOGGLE and sets
OVERRUN while BUSY, and the word 0x0028 written before it says whether an answer interrupts and by which vector; OVERRUN clears;
a read of MODULE_TIME_LO latches the high word; enabling MSI-X raises what was held. An interface that is not ready ignores all
four. Completes: MBOX_DOORBELL, OVERRUN_CLEAR, MODULE_TIME_LO, MSIX_ENABLE. The model's choices in it: log 10, log 57. -/
def Obligations.Bar0Page : Prop :=
  ∀ (s : State) h buf (a v : BitVec 32),
    let on (f : HostIf → HostIf) := if (s.hif h).ready then s.modHif h f else s.modHif h id
    (exec (.mboxDoorbell h ⟨buf, a⟩ v) s = .next (on fun i =>
      let len := v.toNat % 4096
      let j : HostIf := { i with ansInt := a.getLsbD 16, ansVec := a.toNat % 2048 }
      if i.busy then { j with overrun := true }
      else if 28 ≤ len ∧ len ≤ 2048 ∧ v.msb ≠ i.lastToggle then
        { j with reqBuf := sized 2048 buf, reqLen := len, lastToggle := v.msb, busy := true }
      else { j with reqBuf := sized 2048 buf })) ∧
    (exec (.overrunClear h) s = .next (on fun i => { i with overrun := false })) ∧
    (exec (.moduleTimeLo h) s = .next (on fun i =>
      { i with readOut := BitVec.ofNat 32 s.now, timeHi := BitVec.ofNat 32 (s.now / 2 ^ 32) })) ∧
    (exec (.msixEnable h) s = .next (on fun i =>
      { i with msixOn := true, raised := i.raised ++ i.heldInts, heldInts := [] }))

/-- The descriptor at the head of a queue starts when its context dispatches and the queue's fences, the earlier waits, the limit
of 64 and a completion slot allow it: a descriptor that passes its checks becomes a started run, one that fails them becomes a job
fault with the status of the first check it fails. Completes: DESCRIPTOR_START. The model's choice in it: log 91 (the checks are
made once slot and fences are clear). -/
def Obligations.DescriptorStarts : Prop :=
  ∀ (s : State) g q,
    exec (.descriptorStart g q) s = .next (
      let u := s.queue g q
      match u.taken with
      | [] => s
      | d :: rest =>
        let full := dComplete d.raw ∧ 2 ^ recLog2 (s.queueRec g q) - 1 < u.written - u.cqHead + u.reserved + 1
        let fenced := (dFenceBefore d.raw ∧ u.runs ≠ []) ∨ ∃ r ∈ u.runs, dFenceAfter r.raw ∨ ¬ r.waitDone
        let started (blk tab : Bytes) := s.modQueue g q fun u =>
          { u with taken := rest, startedSeq := d.seq,
                   runs := u.runs ++ [{ seq := d.seq, raw := d.raw, block := blk, table := tab, headAt := u.headAt,
                                        slotKept := dComplete d.raw }],
                   reserved := if dComplete d.raw then u.reserved + 1 else u.reserved }
        if (s.ctx g).st = .active ∧ s.pwr.shutdown = false ∧ (s.ctx g).held = false ∧ u.st = .running ∧ u.runs.length < 64 ∧ ¬ full ∧
            ¬ fenced then
          match s.validate g d.raw with
          | .ok (blk, tab) => started blk tab
          | .error e => (started [] []).jobFault g q d.seq e.status e.tile
        else s)

/-- A started descriptor waits for its counter. Once the wait is met its work begins; while it is not met, WAIT_LIMIT_MS of
partition time after the descriptor reached the head of its queue is a job fault WAIT_TIMEOUT. The limit is the one in force: a
value written while the queue drains does not act. Completes: WAIT_SATISFIED, WAIT_TIMEOUT. -/
def Obligations.WaitsEnd : Prop :=
  ∀ (s : State) g q seq r, s.run g q seq = some r → (s.ctx g).st = .active → s.pwr.shutdown = false → r.waitDone = false →
    (s.queue g q).mayWait r = true →
    let c := s.counter g (dWaitCtr r.raw)
    let v := BitVec.ofNat 32 (dWaitValue r.raw)
    let met : Prop := match dWaitOp r.raw with
      | 1 => (c - v).toNat < 2 ^ 31
      | 2 => c = v
      | 3 => c ≠ v
      | 4 => c &&& v = v
      | _ => True
    let due := r.headAt + recWaitLimit (s.forceRec g q) * 1000000 ≤ s.ctxTime g
    (met → (s.ctx g).held = false → exec (.waitSatisfied g q seq) s = .next (s.release1 g q seq r)) ∧
    (met → (s.ctx g).held = false → ∀ n gg gd, s.fixRun g r = .ok (n, gg, gd) → ∃ t r', exec (.waitSatisfied g q seq) s = .next t ∧
      t.run g q seq = some r' ∧ r'.waitDone = true ∧ r'.tiles = n ∧ r'.waitAt = s.ctxTime g ∧ OnlyCtx g s t) ∧
    (¬ met → exec (.waitSatisfied g q seq) s = .next s) ∧
    (met → exec (.waitTimeout g q seq) s = .next s) ∧
    (¬ met → ¬ due → exec (.waitTimeout g q seq) s = .next s) ∧
    (¬ met → due → exec (.waitTimeout g q seq) s = .next (s.jobFault g q seq 0x18 0))

/-- A descriptor whose work is over finishes: its signal is applied once to its counter, it leaves the started descriptors and
its record is held with its status; the engine's time is charged for MOVE, CHECK, codec, COLL and SECURE work. A STASH_GET first
ends its get. Nothing else finishes. Completes: DESCRIPTOR_FINISH. The model's choice in it: log 91 (the engine interval). -/
def Obligations.DescriptorFinishes : Prop :=
  ∀ (s : State) g q seq,
    exec (.descriptorFinish g q seq) s = .next (
      match s.run g q seq with
      | none => s
      | some r =>
        if (s.ctx g).st = .active ∧ s.pwr.shutdown = false ∧ r.waitDone ∧ ¬ r.aborting ∧ r.onCores = 0 ∧ r.done.length = r.tiles ∧
            (r.tiles ≠ 0 ∨ r.ran) then
          let close (s : State) : State :=
            let charged := dOpcode r.raw ∈ [0x01, 0x02, 0x30, 0x31, 0x40, 0x48]
            let s := if charged then s.chargeBusy g (s.ctxTime g - r.waitAt) else s
            let n := dSignalCtr r.raw
            let inc := BitVec.ofNat 32 (dSignalInc r.raw)
            let s := match dSignalOp r.raw with
              | 0 => s
              | 1 => s.setCounter g n (s.counter g n + inc)
              | 2 => s.setCounter g n inc
              | 3 => s.setCounter g n (s.counter g n ||| inc)
              | _ => s.setCounter g n (s.counter g n)
            s.finish g q seq r.status
          if dOpcode r.raw = 0x31 then
            match s.endGet g q seq r.raw with
            | (s, none) => close s
            | (s, some e) => s.jobFault g q seq e.status e.tile
          else close s
        else s)

/-- The record due next, once every earlier descriptor has finished and its slot is free, goes to slot (k - 1) mod
2^RING_LOG2 with the phase of pass k, in two writes: all 32 bytes with the complement of that phase, then byte 13 alone; the
queue's interrupt is raised where its interface can be reached, or left due until the holdoff ends. A record that cannot be
written is lost, and an unmapped slot faults an ACTIVE context. Completes: COMPLETION_RECORD_WRITE, INT_HOLDOFF_EXPIRY. -/
def Obligations.RecordsWritten : Prop :=
  ∀ (s : State) g q,
    let u := s.queue g q
    let r := s.forceRec g q
    let elapsed := ∀ t, u.lastInt = some t → t + recHoldoff r * 1000 ≤ s.ctxTime g
    (∀ x, u.nextDue = some x → (s.ctx g).st = .active ∨ (s.ctx g).st = .faulted → s.pwr.shutdown = false → x.seq ≤ u.finished →
      u.written - u.cqHead < 2 ^ recLog2 r →
      let k := u.written + 1
      let slot := recCplBase r + 32 * ((k - 1) % 2 ^ recLog2 r)
      let phase := if ((k - 1) / 2 ^ recLog2 r) % 2 = 0 then 1 else 0
      let rec32 (p : Nat) := leBytes 8 x.seq ++ leBytes 4 x.tag.toNat ++ leBytes 1 x.status ++ leBytes 1 p ++ zeros 2 ++
        leBytes 8 x.endNs ++ leBytes 8 (s.ctx g).busyNs
      let lost (e : Fail) (s : State) : State :=
        let t := s.modQueue g q (·.dropRec x false)
        (if e.status = 0x14 ∧ (s.ctx g).st = .active then t.faultCtx g q x.seq 0x14 0 else t).modQueue g q Queue.settle
      exec (.completionRecordWrite g q) s = .next (
        match s.writeVa g slot (rec32 (1 - phase)) with
        | (_, some e) => lost e s
        | (t, none) =>
          match t.writeVa g (slot + 13) (leBytes 1 phase) with
          | (_, some e) => lost e s
          | (t, none) => ((t.modQueue g q (·.dropRec x true)).interrupt g q).modQueue g q Queue.settle)) ∧
    (u.nextDue = none → exec (.completionRecordWrite g q) s = .next s) ∧
    (u.intDue = true → elapsed →
      exec (.intHoldoffExpiry g q) s = .next (
        (if s.hostOk (g / 64) (recHostSel r) then s.raiseVec (recHostSel r) (recVector r) else s).modQueue g q fun u =>
          { u with lastInt := some (s.ctxTime g), intDue := false, inForce := if u.st = .disabled then none else u.inForce })) ∧
    (u.intDue = false ∨ ¬ elapsed → exec (.intHoldoffExpiry g q) s = .next s)

/-- A SYNC descriptor is valid when bytes 21 to 63 are zero, COUNTER_FIRST + COUNTER_COUNT is at most 4,096 and ACTION at most 1; a
NOP when its whole body is zero; neither has a work tile. On a ready descriptor SYNC with ACTION 0 and NOP only mark the work as
done; SYNC with ACTION 1 also sets the counters it names to zero, before any signal, and leaves every other counter as it was.
Completes: SYNC, SYNC_CLEAR, NOP. -/
def Obligations.SyncAndNop : Prop :=
  (∀ (s : State) g (d : Bytes), headerStatus d = 0 →
    let whole : Prop := ∀ i, 21 ≤ i → i < 64 → nth 0 d i = 0
    let body : Prop := ∀ i, 16 ≤ i → i < 64 → nth 0 d i = 0
    let ok : Prop := whole ∧ fld d 16 2 + fld d 18 2 ≤ 4096 ∧ fld d 20 1 ≤ 1
    (dOpcode d = 0x50 → ok → s.validate g d = .ok ([], [])) ∧
    (dOpcode d = 0x50 → ¬ ok → s.validate g d = .error { status := 0x13 }) ∧
    (dOpcode d = 0x51 → body → s.validate g d = .ok ([], [])) ∧
    (dOpcode d = 0x51 → ¬ body → s.validate g d = .error { status := 0x13 })) ∧
  ∀ s g q seq r, Ready g q seq s r →
    let done := s.modRun g q seq fun r => { r with ran := true, status := 0 }
    (dOpcode r.raw = 0x50 ∨ dOpcode r.raw = 0x51 → s.fixRun g r = .ok (0, (0, 0), (0, 0))) ∧
    (dOpcode r.raw = 0x50 → fld r.raw 20 1 = 0 → exec (.sync g q seq) s = .next done) ∧
    (dOpcode r.raw = 0x51 → exec (.nop g q seq) s = .next done) ∧
    (dOpcode r.raw = 0x50 → fld r.raw 20 1 = 1 →
      ∃ t, exec (.syncClear g q seq) s = .next t ∧ OnlyCtx g s t ∧
        (∃ r', t.run g q seq = some r' ∧ r'.ran = true ∧ r'.status = 0) ∧
        ∀ n, t.counter g n =
          if fld r.raw 16 2 ≤ n ∧ n < fld r.raw 16 2 + fld r.raw 18 2 then 0 else s.counter g n)

/-- A job fault of an ACTIVE context leaves it FAULTED with the faulting status and descriptor, each of its eight queues reads
STOPPED with nothing taken and nothing that still waits (that a descriptor which still waits is dropped and writes no record is the
model's choice, log 77), what its engines were doing is charged and ends, none of its counters is
signalled, and every other context, every memory and the other partitions' keys and tables are as before. -/
def Obligations.JobFault : Prop :=
  ∀ (s : State) g q seq status tile, (s.ctx g).st = .active →
    let t := s.jobFault g q seq status tile
    (t.ctx g).st = .faulted ∧ (t.ctx g).faultStatus = status ∧ (t.ctx g).faultAt = q * 2 ^ 61 + seq ∧
    (status = 0x1A → (t.ctx g).faultTile = tile) ∧ (t.ctx g).colls = [] ∧ (s.ctx g).busyNs ≤ (t.ctx g).busyNs ∧
    (∀ k, k < 8 → (t.queue g k).st = .stopped ∧ (t.queue g k).taken = [] ∧
      ∀ r ∈ (t.queue g k).runs, r.waitDone = true ∧ r.aborting = true) ∧
    (∀ n, t.counter g n = s.counter g n) ∧ OthersKept g s t ∧
    t.hbm = s.hbm ∧ t.host0 = s.host0 ∧ t.host1 = s.host1 ∧ t.store = s.store ∧ t.parts = s.parts ∧ t.sec = s.sec

/-! ### Work tiles on cores -/

/-- A core that may take work takes, from the context R336 chooses and the queue R52 chooses there, the next work tile: it
waits in its die's ledger, behind the requests that came earlier and those of this instant from lower cores (R416), at its cost
at the present clock, which it keeps, and no memory and no other core changes, nor any other context
unless the core gives up a pair. The second work tile of a pair follows the first on the same core. A core that R336 leaves idle
takes the next work tile of a speculative replay, where there is one; a core that may take no work does nothing.
Completes: WORK_TILE_SELECT. The model's choices in it: log 8, log 29. -/
def Obligations.WorkTileTaken : Prop :=
  ∀ (s : State) c,
    let earlier := (s.die (c / 18)).waiting.takeWhile (s.asksBefore c)
    let asked := earlier ++ c :: (s.die (c / 18)).waiting.drop earlier.length
    (s.coreFree c = false → exec (.workTileSelect c) s = .next s) ∧
    (s.coreFree c = true → s.choice c = none → (s.core c).pair = none → s.specChoice c = none →
      exec (.workTileSelect c) s = .next s) ∧
    (∀ g x n, s.coreFree c = true → s.choice c = none → (s.core c).pair = none → s.specChoice c = some g →
      s.specReady g = some x → x.next = some n →
      ∃ t k, exec (.workTileSelect c) s = .next t ∧ OnlyWork s t ∧ OthersKept g s t ∧ (t.core c).tile = some k ∧ k.g = g ∧
        k.replay = some x.no ∧ k.idx = n ∧ k.startAt = none ∧ k.takenAt = s.ctxTime g ∧
        (t.die (c / 18)).waiting = asked ∧
        t.hbm = s.hbm ∧ t.host0 = s.host0 ∧ t.host1 = s.host1 ∧ ∀ m, m ≠ c → t.core m = s.core m) ∧
    (∀ g free, s.coreFree c = true → s.choice c = some (g, free) →
      ∃ t, exec (.workTileSelect c) s = .next t ∧ OnlyWork s t ∧
        ((∀ x, s.pairLive c = some x → x.1 = g) → OthersKept g s t) ∧
        t.hbm = s.hbm ∧ t.host0 = s.host0 ∧ t.host1 = s.host1 ∧ (∀ k, k ≠ c → t.core k = s.core k) ∧
        (∀ q r n, s.pairLive c = none → inTurnAfter (s.ctx g).lastQueue (s.bestQueues g) = some q →
          s.readyIn g q = some (r, n) → dOpcode r.raw ≠ 0x31 →
          let base := tileBase r.raw r.block r.govG r.govDx n
          (t.core c).tile = some { g := g, q := q, seq := r.seq, idx := n, base := base,
                                   cost := costAt base (s.clockOf (c / 18)), mhz := s.clockOf (c / 18), askedAt := s.now,
                                   takenAt := s.ctxTime g } ∧
          (t.die (c / 18)).waiting = asked ∧ (t.ctx g).lastQueue = q) ∧
        (∀ q r n x, s.pairLive c = none → inTurnAfter (s.ctx g).lastQueue (s.bestQueues g) = some q →
          s.readyIn g q = some (r, n) → dOpcode r.raw = 0x31 → s.replayFor g q r.seq = some x →
          ∃ k, (t.core c).tile = some k ∧ k.g = g ∧ k.q = q ∧ k.seq = r.seq ∧ k.idx = n ∧ k.replay = some x.no) ∧
        (∀ q seq n r, s.pairLive c = some (g, q, seq, n) → s.run g q seq = some r →
          (t.core c).pair = none ∧ ∃ x, (t.core c).tile = some x ∧ x.g = g ∧ x.q = q ∧ x.seq = r.seq ∧ x.idx = n))

/-- A die's ledger serves the first request of a slot-assigned core, or else the first of all, and grants it when the die's
granted pips plus the cost exceed neither its allotment nor the ramp of 25 pips in the interval, once the interval's start has
been taken up: the work tile starts, and the core holds its context's contents from here on, its memories zero where another's
work ran there last. Otherwise nothing happens. Completes: PIP_GRANT. The model's choices in it: log 8, log 97. -/
def Obligations.PipsGranted : Prop :=
  ∀ (s : State) d,
    let x := s.die d
    (∀ c k, s.nextWaiting d = some c → (s.core c).tile = some k →
      (s.pwr.rampedAt = some (s.now / 10000) → x.granted + k.cost ≤ x.allot →
        x.granted + k.cost + x.ramped ≤ x.intervalBase + 25 →
        ∃ t, exec (.pipGrant d) s = .next t ∧ (t.core c).tile = some { k with startAt := some (s.ctxTime k.g) } ∧
          (t.core c).residue = some k.g ∧ (t.core c).mem = (if (s.core c).residue = some k.g then (s.core c).mem else {}) ∧
          (t.die d).granted = x.granted + k.cost ∧
          (t.die d).waiting = x.waiting.filter (· != c) ∧ (∀ m, m ≠ c → t.core m = s.core m) ∧
          (∀ m, m ≠ d → t.die m = s.die m) ∧ OthersKept k.g s t ∧ t.hbm = s.hbm ∧ t.host0 = s.host0 ∧ t.host1 = s.host1) ∧
      (s.pwr.rampedAt ≠ some (s.now / 10000) ∨ x.allot < x.granted + k.cost ∨
          x.intervalBase + 25 < x.granted + k.cost + x.ramped →
        exec (.pipGrant d) s = .next s)) ∧
    (s.nextWaiting d = none → exec (.pipGrant d) s = .next s)

/-- At its end a granted work tile that has been carried out leaves its core and returns its pips; it counts as finished for its
descriptor, and where it holds no tally of a governor slot no byte of memory changes. The last work tile of a descriptor that is
stopping ends that descriptor ABORTED. Before it is carried out a work tile does not end (log 94), unless its context is gone or the
module shut down. A replay's work tile ends too. The model's choice in it: log 94 (one command between grant and end carries the
work tile out). Completes: WORK_TILE_END. -/
def Obligations.WorkTileEnds : Prop :=
  ∀ (s : State) c k a, (s.core c).tile = some k → k.startAt = some a →
    let works := (s.ctx k.g).st ≠ .free ∧ s.pwr.shutdown = false
    let leaves (t : State) := (t.core c).tile = none ∧ OthersKept k.g s t ∧
      (t.die (c / 18)).granted = (s.die (c / 18)).granted - k.cost
    (¬ works → ∃ t, exec (.workTileEnd c) s = .next t ∧ leaves t ∧ t.hbm = s.hbm ∧ t.host0 = s.host0 ∧ t.host1 = s.host1) ∧
    (∀ no, works → k.replay = some no → ∃ t, exec (.workTileEnd c) s = .next t ∧ (t.core c).tile = none ∧ OthersKept k.g s t) ∧
    (∀ r, works → k.replay = none → s.run k.g k.q k.seq = some r →
      (k.idx ∉ r.carried → exec (.workTileEnd c) s = .next s) ∧
      (k.idx ∈ r.carried →
        ∃ t, exec (.workTileEnd c) s = .next t ∧ leaves t ∧
          ((∀ y ∈ r.tallies, y.tile ≠ k.idx) → t.hbm = s.hbm ∧ t.host0 = s.host0 ∧ t.host1 = s.host1 ∧
            (r.aborting = false → ∃ r', t.run k.g k.q k.seq = some r' ∧ r'.done = k.idx :: r.done ∧
              r'.onCores = r.onCores - 1)) ∧
          (r.aborting = true → r.onCores = 1 → (∀ y ∈ r.tallies, y.tile ≠ k.idx) →
            t.run k.g k.q k.seq = none ∧ ∃ x ∈ (t.queue k.g k.q).held, x.seq = r.seq ∧ x.status = 0x02)))

/-- A work tile whose run time has passed 200 microseconds is stopped and its ACTIVE context faults with WATCHDOG; one of a
speculative replay is stopped and the replay discarded; one that has not run so long is left alone. A halo wait of the next work
tile that outlasts WAIT_LIMIT_MS faults with WAIT_TIMEOUT, of a STASH_GET that waits for a replay too. Completes: WATCHDOG,
HALO_WAIT_TIMEOUT. The model's choices in it: log 48, log 98. -/
def Obligations.WorkTileLimits : Prop :=
  (∀ (s : State) c k a, (s.core c).tile = some k → k.startAt = some a →
    (200000 < s.runTime c k a → (s.ctx k.g).st = .active → k.replay = none →
      ∃ t, exec (.watchdog c) s = .next t ∧ (t.core c).tile = none ∧ (t.ctx k.g).st = .faulted ∧
        (t.ctx k.g).faultStatus = 0x19 ∧ (t.ctx k.g).faultAt = k.q * 2 ^ 61 + k.seq ∧ OthersKept k.g s t ∧
        t.hbm = s.hbm ∧ t.host0 = s.host0 ∧ t.host1 = s.host1) ∧
    (∀ no x, 200000 < s.runTime c k a → (s.ctx k.g).st = .active → k.replay = some no → s.specNo k.g no = some x →
      x.owner = none → x.staged = false → (∀ y ∈ (s.ctx k.g).stash.specs, y.handle = x.handle → y = x) →
      ∃ t, exec (.watchdog c) s = .next t ∧ (t.core c).tile = none ∧ (t.ctx k.g).st = .active ∧
        (t.ctx k.g).stash.specs = (s.ctx k.g).stash.specs.filter (fun y => y.handle != x.handle) ∧ OthersKept k.g s t ∧
        t.hbm = s.hbm ∧ t.host0 = s.host0 ∧ t.host1 = s.host1) ∧
    (s.runTime c k a ≤ 200000 → exec (.watchdog c) s = .next s)) ∧
  (∀ (s : State) g q seq r n a, s.run g q seq = some r → r.next = some n → r.haloAt = some a → r.waitDone = true →
    r.aborting = false → (s.ctx g).st = .active → s.replayFor g q seq = none →
    (s.haloOk g r n = false → a + recWaitLimit (s.forceRec g q) * 1000000 ≤ s.ctxTime g →
      exec (.haloWaitTimeout g q seq) s = .next (s.jobFault g q seq 0x18 0)) ∧
    (s.haloOk g r n = true ∨ s.ctxTime g < a + recWaitLimit (s.forceRec g q) * 1000000 →
      exec (.haloWaitTimeout g q seq) s = .next s)) ∧
  (∀ (s : State) g q seq r x n d out, s.run g q seq = some r → r.waitDone = true → r.aborting = false →
    (s.ctx g).st = .active → s.replayFor g q seq = some x → x.next = some n → x.step = some (d, out) →
    let late := s.haloMet g d x.block n = false ∧ x.haloAt + recWaitLimit (s.forceRec g q) * 1000000 ≤ s.ctxTime g
    (late → exec (.haloWaitTimeout g q seq) s = .next (s.replayFail g x { status := 0x18 })) ∧
    (¬ late → exec (.haloWaitTimeout g q seq) s = .next s))

/-- A frame of a READY or RESETTING partition begins at T0 plus a whole number of FRAME_US: it is counted, the slot table last
accepted outside a reset is in force, and the cores are assigned afresh; so are they at every start and end of a slot. Nothing
happens at any other time. Completes: FRAME_START, SLOT_BOUNDARY. The model's choice in it: log 59. -/
def Obligations.FramesAndSlots : Prop :=
  ∀ (s : State) p,
    let x := s.part p
    let frame := s.cfg (0x3020 + p) 1 * 1000
    let now := s.partTime p
    let begins := x.frameT0 + (now - x.frameT0) / frame * frame
    let fresh := p < s.partCount ∧ 0 < frame ∧ x.frameT0 ≤ now ∧ ∀ a, x.frameAt = some a → a < begins
    let runs := x.st = .ready ∨ x.st = .resetting
    let edge := ∃ f i, x.frameAt = some f ∧ i < 64 ∧ (slotOf x.tableInForce i).len ≠ 0 ∧
      ∃ e, (e = f + (slotOf x.tableInForce i).start * 1000 ∨
            e = f + ((slotOf x.tableInForce i).start + (slotOf x.tableInForce i).len) * 1000) ∧ x.assignAt < e ∧ e ≤ now
    (runs → fresh → exec (.frameStart p) s = .next ((s.modPart p fun x =>
      { x with frameAt := some begins, frameCount := min (x.frameCount + 1) 0xFFFFFFFFFFFFFFFF,
               tableInForce := sized 1024 x.tableNext }).assignPart p)) ∧
    (¬ runs ∨ ¬ fresh → exec (.frameStart p) s = .next s) ∧
    (p < s.partCount → runs → edge → exec (.slotBoundary p) s = .next (s.assignPart p)) ∧
    (¬ runs ∨ ¬ edge → exec (.slotBoundary p) s = .next s)

/-- Slots take the cores a die offers in ascending slot index and in the cores' order: each slot gets the first of those that the
earlier slots leave, as many as it reserves, every core that the slots leave over reads none, and a core that is not offered is as
it was; nothing else changes but the partition's tallies of slots and the log (R335, R338). -/
def Obligations.SlotAssignment : Prop :=
  ∀ (s : State) p d now frame slots cores, cores.Nodup →
    let t := State.assignSlots p d now frame slots cores s
    let taken (n : Nat) := ((slots.take n).map (·.2.cores)).sum
    (∀ c, c ∉ cores → t.core c = s.core c) ∧
    (∀ n i sl, slots[n]? = some (i, sl) → ∀ c ∈ (cores.drop (taken n)).take sl.cores, (t.core c).slot = some i) ∧
    (∀ c ∈ cores.drop (taken slots.length), (t.core c).slot = none ∧ (t.core c).slotAt = none) ∧
    t = { s with cores := t.cores, parts := t.parts, log := t.log }

/-! ### Descriptors carried out -/

/-- The matrix, distance, convolution, pooling, crop, attention, normalization and Dice rows: each carries out the due work tile of
the descriptors of its own opcode, and of its own MODE or OP, writing what the unit computes for that work tile, and does nothing
to any other. Completes: GEMM, GEMM_BWD, DIST, CONV_FWD, CONV_BWD_DATA, CONV_BWD_WEIGHT, CONV_DW, MAX_POOL, AVG_VALID, AVG_ALL, CROP, ATTN_FWD, ATTN_BWD, LAYER,
RMS, STATS, SPLIT_SUM, UNIFORM, NORMAL, BITS, DROPOUT, NOISE_ADD.
The model's choices in it: log 20, log 24, log 25, log 26, log 27, log 82, log 83,
log 86, log 94. -/
def Obligations.DataRows : Prop :=
  DataRow .gemm (fun r => dOpcode r.raw == 0x10) (fun s g _ _ r t => s.gemmWork g r.raw t) ∧
  DataRow .gemmBwd (fun r => dOpcode r.raw == 0x11) (fun s g _ _ r t => s.bwdWork g r.block r.govG r.govDx t) ∧
  DataRow .dist (fun r => dOpcode r.raw == 0x12) (fun s g _ _ r t => s.distWork g r.raw t) ∧
  DataRow .convFwd (fun r => dOpcode r.raw == 0x18 && convMode r.block == 0) (fun s g _ _ r t => s.convWork g false r.block t) ∧
  DataRow .convBwdData (fun r => dOpcode r.raw == 0x18 && convMode r.block == 1) (fun s g _ _ r t => s.convWork g false r.block t) ∧
  DataRow .convBwdWeight (fun r => dOpcode r.raw == 0x18 && convMode r.block == 2) (fun s g _ _ r t => s.convWork g false r.block t) ∧
  DataRow .convDw (fun r => dOpcode r.raw == 0x19 && convOp r.block == 0) (fun s g _ _ r t => s.convWork g true r.block t) ∧
  DataRow .maxPool (fun r => dOpcode r.raw == 0x19 && convOp r.block == 1) (fun s g _ _ r t => s.convWork g true r.block t) ∧
  DataRow .avgValid (fun r => dOpcode r.raw == 0x19 && convOp r.block == 2) (fun s g _ _ r t => s.convWork g true r.block t) ∧
  DataRow .avgAll (fun r => dOpcode r.raw == 0x19 && convOp r.block == 3) (fun s g _ _ r t => s.convWork g true r.block t) ∧
  DataRow .crop (fun r => dOpcode r.raw == 0x1A) (fun s g _ _ r t => s.cropWork g r.raw t) ∧
  DataRow .attnFwd (fun r => dOpcode r.raw == 0x20) (fun s g q seq r t => s.attnWork g false r.block (s.walkersOf g q seq t) t) ∧
  DataRow .attnBwd (fun r => dOpcode r.raw == 0x21) (fun s g _ _ r t => s.attnWork g true r.block [] t) ∧
  DataRow .layer (isNorm 0) (fun s g _ _ r t => s.normWork g r.raw t) ∧
  DataRow .rms (isNorm 1) (fun s g _ _ r t => s.normWork g r.raw t) ∧
  DataRow .stats (isNorm 2) (fun s g _ _ r t => s.normWork g r.raw t) ∧
  DataRow .splitSum (isNorm 3) (fun s g _ _ r t => s.normWork g r.raw t) ∧
  DataRow .uniform (isDice 0) (fun s g _ _ r t => s.diceWork g r.raw t) ∧
  DataRow .normal (isDice 1) (fun s g _ _ r t => s.diceWork g r.raw t) ∧
  DataRow .bits (isDice 2) (fun s g _ _ r t => s.diceWork g r.raw t) ∧
  DataRow .dropout (isDice 3) (fun s g _ _ r t => s.diceWork g r.raw t) ∧
  DataRow .noiseAdd (isDice 4) (fun s g _ _ r t => s.diceWork g r.raw t)

/-- A data row changes no byte of HBM or of a host memory outside the bytes its work tile stores to, each translated where the
write meets it; it changes no queue of commands, no partition, no entry of the dictionary and no other context.
The model's choice in it: log 94. -/
def Obligations.DataRowFrame : Prop :=
  FramedBy .gemm (fun r => dOpcode r.raw == 0x10) (fun s g _ _ r t => s.gemmWork g r.raw t) ∧
  FramedBy .gemmBwd (fun r => dOpcode r.raw == 0x11) (fun s g _ _ r t => s.bwdWork g r.block r.govG r.govDx t) ∧
  FramedBy .dist (fun r => dOpcode r.raw == 0x12) (fun s g _ _ r t => s.distWork g r.raw t) ∧
  FramedBy .convFwd (fun r => dOpcode r.raw == 0x18 && convMode r.block == 0) (fun s g _ _ r t => s.convWork g false r.block t) ∧
  FramedBy .convBwdData (fun r => dOpcode r.raw == 0x18 && convMode r.block == 1) (fun s g _ _ r t => s.convWork g false r.block t) ∧
  FramedBy .convBwdWeight (fun r => dOpcode r.raw == 0x18 && convMode r.block == 2) (fun s g _ _ r t => s.convWork g false r.block t) ∧
  FramedBy .convDw (fun r => dOpcode r.raw == 0x19 && convOp r.block == 0) (fun s g _ _ r t => s.convWork g true r.block t) ∧
  FramedBy .maxPool (fun r => dOpcode r.raw == 0x19 && convOp r.block == 1) (fun s g _ _ r t => s.convWork g true r.block t) ∧
  FramedBy .avgValid (fun r => dOpcode r.raw == 0x19 && convOp r.block == 2) (fun s g _ _ r t => s.convWork g true r.block t) ∧
  FramedBy .avgAll (fun r => dOpcode r.raw == 0x19 && convOp r.block == 3) (fun s g _ _ r t => s.convWork g true r.block t) ∧
  FramedBy .crop (fun r => dOpcode r.raw == 0x1A) (fun s g _ _ r t => s.cropWork g r.raw t) ∧
  FramedBy .attnFwd (fun r => dOpcode r.raw == 0x20) (fun s g q seq r t => s.attnWork g false r.block (s.walkersOf g q seq t) t) ∧
  FramedBy .attnBwd (fun r => dOpcode r.raw == 0x21) (fun s g _ _ r t => s.attnWork g true r.block [] t) ∧
  FramedBy .layer (isNorm 0) (fun s g _ _ r t => s.normWork g r.raw t) ∧
  FramedBy .rms (isNorm 1) (fun s g _ _ r t => s.normWork g r.raw t) ∧
  FramedBy .stats (isNorm 2) (fun s g _ _ r t => s.normWork g r.raw t) ∧
  FramedBy .splitSum (isNorm 3) (fun s g _ _ r t => s.normWork g r.raw t) ∧
  FramedBy .uniform (isDice 0) (fun s g _ _ r t => s.diceWork g r.raw t) ∧
  FramedBy .normal (isDice 1) (fun s g _ _ r t => s.diceWork g r.raw t) ∧
  FramedBy .bits (isDice 2) (fun s g _ _ r t => s.diceWork g r.raw t) ∧
  FramedBy .dropout (isDice 3) (fun s g _ _ r t => s.diceWork g r.raw t) ∧
  FramedBy .noiseAdd (isDice 4) (fun s g _ _ r t => s.diceWork g r.raw t)

/-- A MOVE writes, work tile after work tile, the rows of its source (COPY), of its pattern repeated from each row's start (FILL) or
of zeros (ZERO): the pieces of its rows that lie in the next aligned 2 MiB of the destination. The last work tile carries it out; a
row that cannot be read or written is a job fault after the rows before it, and no byte outside those pieces changes. A MOVE whose
turn has not come waits. Completes: MOVE_COPY, MOVE_FILL, MOVE_ZERO. The model's choice in it: log 76. -/
def Obligations.MoveRows : Prop :=
  ∀ s g q seq r, Ready g q seq s r →
    let b := moveBody r.raw
    let ps := b.pieces (b.rows + 1) r.cursor
    let n := (ps.map (·.n)).sum
    let done (t : State) : State := (t.accessed (t.engineDie g) g (b.srcRanges r.cursor) []).modRun g q seq fun r =>
      { r with cursor := r.cursor + n, ran := b.bytes ≤ r.cursor + n, status := if b.bytes ≤ r.cursor + n then 0 else r.status }
    let wrote (ws : List (Nat × Bytes)) (ds : List (Nat × BitVec 32)) (fail : Option Fail) : State :=
      match s.moveWrites g ds (joinRuns ws), fail with
      | (t, some e), _ => t.jobFault g q seq e.status e.tile
      | (t, none), some e => t.jobFault g q seq e.status e.tile
      | (t, none), none => done t
    let filled (pattern : Nat) : List (Nat × Bytes) := ps.map fun p =>
      (p.dst, (List.range p.n).map fun j => BitVec.ofNat 8 (pattern >>> (8 * ((p.col + j) % 4))))
    let plan := s.moveReads g b.verifyAll (joinPieces ps)
    let runs (i : Instr) (ws : List (Nat × Bytes)) (ds : List (Nat × BitVec 32)) (fail : Option Fail) : Prop :=
      exec i s = .next ((wrote ws ds fail).engineServed 0 g) ∧
      (∀ t, fail = none → s.moveWrites g ds (joinRuns ws) = (t, none) → ∃ u r', exec i s = .next u ∧ u.run g q seq = some r' ∧
        r'.cursor = r.cursor + n ∧ (b.bytes ≤ r.cursor + n → r'.ran = true ∧ r'.status = 0) ∧ u.hbm = t.hbm) ∧
      SameOutside (storedAll s g (joinRuns ws)) s (wrote ws ds fail) ∧
      OnlyEngine s ((wrote ws ds fail).engineServed 0 g) ∧ OthersKept g s (wrote ws ds fail)
    (dOpcode r.raw = 0x01 → s.turnOf 0 0 g anyRun →
      (fld r.raw 48 1 = 0 → runs (.moveCopy g q seq) plan.writes plan.sums plan.fail) ∧
      (fld r.raw 48 1 = 1 → runs (.moveFill g q seq) (filled b.fill) [] none) ∧
      (fld r.raw 48 1 = 2 → runs (.moveZero g q seq) (filled 0) [] none)) ∧
    (¬ s.turnOf 0 0 g anyRun → exec (.moveCopy g q seq) s = .next s ∧ exec (.moveFill g q seq) s = .next s ∧
      exec (.moveZero g q seq) s = .next s)

/-- A CHECK of readable HBM verifies 2 MiB of its range at a time: each corrupt data tile is logged and counted, and the last part
writes a record with the data tiles verified, the torn reads, the corrupt ones and the first of them; one of anything else faults.
A re-read under hold that shows a matching sum counts a torn read; one that does not makes the data tile corrupt, which faults every
started descriptor but a CHECK and a STASH_GET. Completes: CHECK, TILE_REREAD. The model's choice in it: log 76. -/
def Obligations.ChecksAndRereads : Prop :=
  (∀ s g q seq r, Ready g q seq s r →
    let all := fld r.raw 24 8
    let va := dAddr r.raw 16 + r.cursor
    let n := min (2 ^ 21) (all - r.cursor)
    let bad := ((List.range (n / 4096)).map fun i => va + 4096 * i).filter fun t => s.deltaAt g t != 0
    let noted := ((bad.foldl (fun s t => s.corruptEvent g t) s).modRun g q seq fun r =>
      { r with bad := r.bad + bad.length, firstBad := if r.bad = 0 then bad.headD 0 else r.firstBad }).accessed (s.engineDie g) g
        [(va, n)] []
    let count := r.bad + bad.length
    let first := if r.bad = 0 then bad.headD 0 else r.firstBad
    let rec64 := leBytes 8 (all / 4096) ++ leBytes 8 r.torn ++ leBytes 8 count ++ leBytes 8 first ++ zeros 32
    (dOpcode r.raw = 0x02 → s.turnOf 0 0 g anyRun → s.hbmReadable g va n = true →
      (r.cursor + n < all → exec (.check g q seq) s = .next ((noted.modRun g q seq fun r =>
        { r with cursor := r.cursor + n, ran := all ≤ r.cursor + n, status := if all ≤ r.cursor + n then 0 else r.status }).engineServed 0 g)) ∧
      (all ≤ r.cursor + n → exec (.check g q seq) s = .next (State.engineServed (
        match noted.writeVa g (dAddr r.raw 32) rec64 with
        | (t, some e) => t.jobFault g q seq e.status e.tile
        | (t, none) => t.modRun g q seq fun r =>
          { r with cursor := r.cursor + n, ran := all ≤ r.cursor + n,
                   status := if all ≤ r.cursor + n then (if count = 0 then 0x00 else 0x40) else r.status }) 0 g))) ∧
    (dOpcode r.raw = 0x02 → s.turnOf 0 0 g anyRun → s.hbmReadable g va n = false →
      exec (.check g q seq) s = .next ((s.jobFault g q seq 0x14 0).engineServed 0 g)) ∧
    (dOpcode r.raw ≠ 0x02 ∨ ¬ s.turnOf 0 0 g anyRun → exec (.check g q seq) s = .next s)) ∧
  (∀ s g q seq a delta, s.readsNow g q seq = true → s.inHbm g a = true →
    let tile := a / 4096 * 4096
    let found := if delta = 0 then s.deltaAt g tile else delta
    let spoilt := { s with sumDelta := setDelta s.sumDelta (hbmKey (g / 64) (s.dpaOf g tile) / 4096) found }
    (found = 0 → ∃ t, exec (.tileReread g q seq a delta) s = .next t ∧ t.hbm = s.hbm ∧ t.sumDelta = s.sumDelta ∧
      (t.ctx g).tornReads = (s.ctx g).tornReads + 1 ∧ (t.part (g / 64)).torn = (s.part (g / 64)).torn + 1 ∧
      (t.ctx g).st = (s.ctx g).st ∧ OthersKept g s t ∧
      ∀ r, s.run g q seq = some r → ∃ r', t.run g q seq = some r' ∧ r'.torn = r.torn + 1) ∧
    (found ≠ 0 → (∀ r, s.run g q seq = some r → dOpcode r.raw = 0x02 ∨ dOpcode r.raw = 0x31) →
      exec (.tileReread g q seq a delta) s = .next spoilt) ∧
    (∀ r, found ≠ 0 → (s.ctx g).st = .active → s.run g q seq = some r → dOpcode r.raw ≠ 0x02 → dOpcode r.raw ≠ 0x31 →
      exec (.tileReread g q seq a delta) s = .next (spoilt.jobFault g q seq 0x1A tile)))

/-- A work tile of a VEC reads the argument block and runs the kernel once, with A0 the work tile's number and A1 to A31 the words
of the argument block: what it wrote stays, and it faults with what the kernel met. Completes: VEC. The model's choices in it:
log 20, log 88. -/
def Obligations.VecRuns : Prop :=
  ∀ s g q seq r t, OnCore g q seq s r t →
    (dOpcode r.raw ≠ 0x28 → exec (.vec g q seq) s = .next s) ∧
    (∀ e, dOpcode r.raw = 0x28 → s.readVa g (dAddr r.raw 24) 128 = .error e →
      exec (.vec g q seq) s = .next (s.tileFaults g q seq t e)) ∧
    (∀ arg, dOpcode r.raw = 0x28 → s.readVa g (dAddr r.raw 24) 128 = .ok arg →
      let regs := startRegs ((s.tileCore g q seq t).getD 0) arg t
      (regs.areg 0 = BitVec.ofNat 32 t ∧ ∀ i, 1 ≤ i → i < 32 → regs.areg i = BitVec.ofNat 32 (fld arg (4 * i) 4)) ∧
      let ran := s.vecTile g (fld r.raw 40 4) (kernelWords r.block) vecFuel regs
      (∀ u, ran = (u, none) → ∃ v r', exec (.vec g q seq) s = .next v ∧ v.hbm = u.hbm ∧ v.host0 = u.host0 ∧ v.host1 = u.host1 ∧
        v.run g q seq = some r' ∧ t ∈ r'.carried) ∧
      (∀ u e, ran = (u, some e) → exec (.vec g q seq) s = .next (u.tileFaults g q seq t e)))

/-- The key-value descriptors of a context are applied whole and in the order they started, each by its work tile: one that succeeds
is carried out with its status and leaves the order, one that must wait for a frame or a buffer is remembered as waiting, one that
faults is a job fault. While one waits no other is applied, and it goes on only when what it waits for is there.
Completes: KV_APPEND, TRUNCATE, SET_PRIORITY, BOUNDARY, KV_FREE, KV_ALLOC_RESUME, KV_BUFFER_RESUME.
The model's choices in it: log 28, log 29. -/
def Obligations.KvDescriptors : Prop :=
  ∀ s g q seq r t, OnCore g q seq s r t → (s.ctx g).st = .active →
    let applied : State := match s.kvApply g r.raw with
      | .ok (u, status) => ((((u.kvSeen s g q seq t r.raw).noteIdle g q seq).modKv g fun k =>
          { k with waiting := none, order := k.order.erase (q, seq) }).tileCarried g q seq t []).modRun g q seq fun r =>
            { r with status := status }
      | .error (.wait b) => s.modKv g fun k =>
          { k with waiting := some (if b then .buffer q seq else .alloc q seq),
                   waitAt := if k.waiting = none then s.ctxTime g else k.waitAt }
      | .error (.fault f left) => (left.getD s).tileFaults g q seq t f
    let first := (s.ctx g).kv.waiting = none ∧ (s.ctx g).kv.order.head? = some (q, seq)
    let edit (op : Nat) := dOpcode r.raw = 0x23 ∧ fld r.raw 28 1 = op
    (dOpcode r.raw = 0x22 → exec (.kvAppend g q seq) s = .next (if first then applied else s)) ∧
    (edit 0 → exec (.truncate g q seq) s = .next (if first then applied else s)) ∧
    (edit 1 → exec (.setPriority g q seq) s = .next (if first then applied else s)) ∧
    (edit 2 → exec (.boundary g q seq) s = .next (if first then applied else s)) ∧
    (dOpcode r.raw = 0x24 → exec (.kvFree g q seq) s = .next (if first then applied else s)) ∧
    ((s.ctx g).kv.waiting = some (.alloc q seq) →
      exec (.kvAllocResume g) s = .next applied ∧ exec (.kvBufferResume g) s = .next s) ∧
    ((s.ctx g).kv.waiting = some (.buffer q seq) →
      exec (.kvBufferResume g) s = .next applied ∧ exec (.kvAllocResume g) s = .next s)

/-- A STASH_PUT of an entry that is not empty, or whose recipe is missing, faults; one planned REPLAY stores nothing; any other reads
2 MiB of its source at a time and with the last part stores its form: one planned SEND goes to the send region where it has room;
any other goes to its slice, with staged results discarded for it, and escalates to REPLAY or SEND where the slice overruns.
Completes: STASH_PUT. The model's choices in it: log 41, log 44. -/
def Obligations.StashPuts : Prop :=
  ∀ s g q seq r e, Ready g q seq s r → dOpcode r.raw = 0x30 → s.entryOk g (putHandle r.raw) = .ok e →
    s.turnOf (codecUnit e.sliceNo) 1 g (s.codecReadyAt e.sliceNo) →
    let h := putHandle r.raw
    let lacks := e.allows polReplay = true ∧ e.recipeValid = false
    let out (t : State) := exec (.stashPut g q seq) s = .next (t.engineServed (codecUnit e.sliceNo) g)
    let va := dAddr r.raw 16 + r.cursor
    let n := min (2 ^ 21) (e.keepBytes - r.cursor)
    (e.st ≠ 0 ∨ lacks → out (s.jobFault g q seq stStashState 0)) ∧
    (e.st = 0 → ¬ lacks → e.plan = polReplay → out (s.hold g q seq h polReplay 0 0 0 0)) ∧
    (∀ x, e.st = 0 → ¬ lacks → e.plan ≠ polReplay → s.readVa g va n = .error x → out (s.jobFault g q seq x.status x.tile)) ∧
    (∀ part, e.st = 0 → ¬ lacks → e.plan ≠ polReplay → s.readVa g va n = .ok part →
      let read (t : State) : State := t.accessed (s.sliceDie g e) g [(va, n)] []
      let rows := r.buf ++ part
      let pend := e.pend rows
      let form := e.form e.plan rows
      let sent := e.form e.sendForm rows
      let charge := roundUp form.length 65536
      let t := s.makeRoom g e.sliceNo charge
      (r.cursor + 2 ^ 21 < e.keepBytes → out (read (s.modRun g q seq fun r =>
        { r with cursor := r.cursor + 2 ^ 21, buf := r.buf ++ part }))) ∧
      (e.keepBytes ≤ r.cursor + 2 ^ 21 → out (read (
        if e.plan = polSend then
          if s.sendRoom g sent.length then s.putSend g q seq h e sent pend 0
          else s.putReplay g q seq h e stStashOverrun
        else if charge ≤ t.sliceFree g e.sliceNo then t.putPool g q seq h e form charge pend
        else if e.allows polReplay ∧ e.recipeValid ∧ e.preferReplay then t.hold g q seq h polReplay 0 0 0 stEscalated
        else if e.allows polSend ∧ t.sendRoom g form.length then t.putSend g q seq h e form pend stEscalated
        else t.putReplay g q seq h e stStashOverrun))))

/-- A STASH_GET of a HELD entry fetches the stored form and delivers 2 MiB of it at a time, or runs a replay of its own where USED is
REPLAY; it takes a finished speculative result of its entry instead, and makes one that still runs its own, with the work tiles it
has on cores; its own replay goes on where a GROUP that it waited for is free. A RECIPE of an empty
entry writes the recipe with the present STEP and marks it valid. Completes: STASH_GET, RECIPE. The model's choices in it: log 30,
log 7, log 41, log 42, log 89. -/
def Obligations.StashGetsAndRecipes : Prop :=
  ∀ s g q seq r, Ready g q seq s r →
    let h := putHandle r.raw
    let dst := dAddr r.raw 16
    let mine := s.codecSlice g r
    let out (t : State) := exec (.stashGet g q seq) s = .next (t.engineServed (codecUnit mine) g)
    let may := dOpcode r.raw = 0x31 ∧ s.turnOf (codecUnit mine) 1 g (s.codecReadyAt mine) ∧ s.codecReady g q r = true
    (∀ e, may → s.entryOk g h = .ok e →
      let whole := e.keepBytes ≤ r.cursor + 2 ^ 21
      let advanced (t : State) := t.modRun g q seq fun r => { r with cursor := r.cursor + 2 ^ 21 }
      (e.st ≠ 1 → out (s.jobFault g q seq stStashState 0)) ∧
      (∀ els t, e.st = 1 → s.specOf g h = none → e.used ≠ polReplay → s.fetch g h e = .ok els →
        s.deliver g e dst r.cursor (2 ^ 21) els = (t, none) →
        let u := t.accessed (s.sliceDie g e) g (if r.cursor = 0 then [(e.loc, e.stored)] else []) []
        out (if whole then u.modRun g q seq fun r => { r with ran := true, status := 0 } else advanced u)) ∧
      (∀ els t x, e.st = 1 → s.specOf g h = none → e.used ≠ polReplay → s.fetch g h e = .ok els →
        s.deliver g e dst r.cursor (2 ^ 21) els = (t, some x) → out (t.jobFault g q seq x.status x.tile)) ∧
      (∀ x, e.st = 1 → s.specOf g h = none → e.used ≠ polReplay → s.fetch g h e = .error x → recoverable x = false →
        out (s.jobFault g q seq x.status x.tile)) ∧
      (∀ steps, e.st = 1 → s.specOf g h = none → e.used = polReplay → s.groupBusy g e.group = false →
        s.replaySteps false g h e dst 3 = .ok steps →
        out (s.replayStart g { no := 0, handle := h, slice := none, group := e.group, stage := dst, owner := some (q, seq),
                               steps := steps })) ∧
      (∀ x rows t, e.st = 1 → s.specOf g h = some x → x.owner = none ∨ x.owner = some (q, seq) → x.steps = [] → x.slice ≠ none →
        s.readVa g x.stage e.keepBytes = .ok rows → s.deliver g e dst r.cursor (2 ^ 21) (e.elements rows) = (t, none) →
        let u := t.accessed (s.sliceDie g e) g [(x.stage + r.cursor, min (2 ^ 21) (e.keepBytes - r.cursor))] []
        out (if whole then (u.dropSpec g h).getDone g q seq h x.recovered else advanced u)) ∧
      (∀ x, e.st = 1 → s.specOf g h = some x → x.owner = none → x.steps ≠ [] → e.used = polReplay →
        out ((s.modSpec g x.no fun y =>
          { y with owner := some (q, seq), fetching := false, steps := y.steps.map (RStep.flagged false) }).adoptTiles g x.no q seq)) ∧
      (∀ x, e.st = 1 → s.specOf g h = some x → x.owner = some (q, seq) → s.mayNest g x = true → out (s.replayGo g x))) ∧
    (∀ e, dOpcode r.raw = 0x32 → s.entry g (fld r.raw 48 2) = .ok e →
      let k := fld r.raw 48 2
      let recipe := slice r.raw 16 32 ++ slice r.raw 50 8 ++ leBytes 4 (s.stepNo g) ++ leBytes 4 (crc32c r.block).toNat ++ zeros 16
      exec (.recipe g q seq) s = .next (
        if e.st ≠ 0 then s.jobFault g q seq stStashState 0
        else match s.writeAll g [(s.entryAddr g k + 64, recipe), (s.entryAddr g k + 15, leBytes 1 (e.flags ||| 1))] with
          | (t, some x) => t.jobFault g q seq x.status x.tile
          | (t, none) => (t.modStash g fun u => { u with scratch := mapSet u.scratch k (s.scratchOf g r.raw r.block) }).modRun g q seq
              fun r => { r with ran := true, status := 0 }))

/-- A speculative replay of the highest candidate entry of a slice starts in a context whose gets have begun, below its limit of
speculations, where its slice has room and no other replay of its GROUP runs; one that waited for a GROUP goes on first; it is marked STAGED when its last step is done and no
get has made it its own; otherwise neither row changes anything. Completes: SPEC_REPLAY_START, SPEC_REPLAY_DONE. The model's choices
in it: log 41, log 89. -/
def Obligations.SpeculativeReplays : Prop :=
  ∀ (s : State) g i h,
    (exec (.specReplayStart g i) s = .next (
      let count := ((s.ctx g).stash.specs.filter fun x => x.slice.isSome && x.owner.isNone).length
      let held := (s.ctx g).stash.specs.find? fun x => x.slice == some i && x.owner.isNone && s.mayNest g x
      if (s.ctx g).st ≠ .active ∨ s.pwr.shutdown then s
      else if held.isSome then (held.map (s.replayGo g)).getD s
      else if (s.ctx g).stash.getsBegun ∧ i < s.dieCount ∧ count < s.stashCfg g 0x27 then
        match s.candidate g i with
        | some (k, e) =>
          let stage := s.sliceBase g i + s.sliceSize g - s.stagedIn g i - e.stageBytes
          if e.stageBytes ≤ s.sliceFree g i ∧ s.groupBusy g e.group = false then
            match s.replaySteps true g k e stage 3 with
            | .error _ => s
            | .ok steps => s.replayStart g { no := 0, handle := k, slice := some i, group := e.group, stage := stage, steps := steps }
          else s
        | none => s
      else s)) ∧
    ((∀ x, s.specOf g h = some x → x.steps ≠ [] ∨ x.staged = true ∨ x.owner ≠ none) →
      exec (.specReplayDone g h) s = .next s) ∧
    (∀ x e, s.specOf g h = some x → x.steps = [] → x.staged = false → x.owner = none → s.entry g h = .ok e →
      let t := s.modSpec g x.no fun y => { y with staged := true }
      exec (.specReplayDone g h) s = .next (
        match t.writeAll g [(s.entryAddr g h + 15, leBytes 1 (e.flags ||| 2)), (s.entryAddr g h + 48, leBytes 8 x.stage)] with
        | (u, none) => u
        | (u, some _) => u.dropSpec g h))

/-- A step boundary runs only when no other descriptor of its context has started work. STEP_COMMIT moves the governors' PEND
fields and the stash into the next step, clears ATTEMPT and adds 1 to STEP, and faults where STEP is 0xFFFF_FFFF; STEP_REPEAT
drops what the step has recorded and adds 1 to ATTEMPT, and STEP stays. Completes: STEP_COMMIT, STEP_REPEAT. The model's choice in
it: log 43. -/
def Obligations.StepBoundaries : Prop :=
  ∀ s g q seq r, Ready g q seq s r →
    (s.aloneIn g q seq = false → exec (.stepCommit g q seq) s = .next s ∧ exec (.stepRepeat g q seq) s = .next s) ∧
    (isDice 5 r = true → s.aloneIn g q seq = true → s.stepNo g = 2 ^ 32 - 1 →
      exec (.stepCommit g q seq) s = .next (s.jobFault g q seq 0x60 0)) ∧
    (∀ t u, isDice 5 r = true → s.aloneIn g q seq = true → s.stepNo g < 2 ^ 32 - 1 →
      s.govCommit g = (t, none) → t.stashBoundary g true = (u, none) →
      ∃ v, exec (.stepCommit g q seq) s = .next v ∧ v.stepNo g = s.stepNo g + 1 ∧ (v.ctx g).attempt = 0 ∧
        (v.ctx g).collMissing = false ∧ v.hbm = u.hbm ∧ v.host0 = u.host0 ∧ v.host1 = u.host1) ∧
    (∀ t u, isDice 6 r = true → s.aloneIn g q seq = true → s.govClear g = (t, none) →
      t.stashBoundary g false = (u, none) →
      ∃ v, exec (.stepRepeat g q seq) s = .next v ∧ v.stepNo g = s.stepNo g ∧ (v.ctx g).attempt = (u.ctx g).attempt + 1 ∧
        (v.ctx g).collMissing = false ∧ v.hbm = u.hbm ∧ v.host0 = u.host0 ∧ v.host1 = u.host1)

/-- A PACK stream gives back the elements it was made of, whatever they are. -/
def Obligations.PackRoundTrip : Prop :=
  ∀ fmt b els, fmt < 16 → (b = 1 ∨ b = 2 ∨ b = 4) → els.length ≤ 2 ^ 30 → (∀ e ∈ els, e.length = b) →
    unpackStream fmt b els.length (packStream fmt b els) = some els

/-- Sealed records open under the same key, epoch, context and handle to the form they were made of.
The model's choice in it: log 28. -/
def Obligations.SealedRecordsOpen : Prop :=
  ∀ key epoch g h form, openRecords key epoch g h (sealRecords key epoch g h form).1 (sealRecords key epoch g h form).2 = some form

/-! ### Collectives -/

/-- A COLL whose engine's turn it is reads its source and its exponents once and enters the exchange under the identity of its tag,
STEP and ATTEMPT; one already entered waits. A collective that has waited STRAGGLER_MS since its first send declares MISSING, not
before. Completes: ALL_REDUCE, REDUCE_SCATTER, ALL_GATHER, BROADCAST, STRAGGLER_TIMEOUT. The model's choice in it: log 32. -/
def Obligations.CollectivesBegin : Prop :=
  ∀ s g q seq r, Ready g q seq s r → dOpcode r.raw = 0x40 →
    let b := collBlk r.block
    let begun := ∃ c ∈ (s.ctx g).colls, c.q = q ∧ c.seq = seq
    let turn := s.turnOf 2 2 g s.collReady
    let carried : State :=
      match s.collSource g b (groupTable r.table).n, s.collExps g b with
      | .error x, _ => s.jobFault g q seq x.status x.tile
      | .ok _, .error x => s.jobFault g q seq x.status x.tile
      | .ok vals, .ok exps => (s.accessed (s.engineDie g) g (s.collReads g b (groupTable r.table).n) []).collBegin g
          { q := q, seq := seq, ident := b.tag * 256 + s.stepNo g % 16 * 16 + (s.ctx g).attempt.toNat % 16,
            block := r.block, table := r.table, pos := (groupTable r.table).ranks.idxOf (s.myRank (g / 64)),
            startAt := s.ctxTime g, vals := vals, exps := exps }
    let runs (i : Instr) := exec i s = .next (carried.engineServed 2 g)
    (b.op = 0 → turn → ¬ begun → runs (.allReduce g q seq)) ∧
    (b.op = 1 → turn → ¬ begun → runs (.reduceScatter g q seq)) ∧
    (b.op = 2 → turn → ¬ begun → runs (.allGather g q seq)) ∧
    (b.op = 3 → turn → ¬ begun → runs (.broadcast g q seq)) ∧
    (r.seq = seq → begun ∨ ¬ turn → exec (.allReduce g q seq) s = .next s ∧ exec (.reduceScatter g q seq) s = .next s ∧
      exec (.allGather g q seq) s = .next s ∧ exec (.broadcast g q seq) s = .next s) ∧
    (∀ c, (s.ctx g).colls.find? (fun c => c.q == q && c.seq == seq) = some c →
      let limit := s.cfg (0x4800 + g / 64) 1 * 1000000
      (s.pwr.shutdown = true → exec (.stragglerTimeout g q seq) s = .next s) ∧
      (s.pwr.shutdown = false → c.startAt + limit ≤ s.ctxTime g → exec (.stragglerTimeout g q seq) s = .next (s.missColl g c.key true)) ∧
      (s.ctxTime g < c.startAt + limit → exec (.stragglerTimeout g q seq) s = .next s))

/-- A packet at the engines is taken by the collective its identity and its sender belong to, by its type and KIND, after which
the collective goes on; a contribution waits that is 8 chunks or more ahead of the lowest one due, or that finds no room in the
scratch range (log 90). One that matches none waits for a collective
that may still start, or is discarded and counted. A packet of another type or KIND, or not at the engines, does nothing.
Completes: COLL_DATA, COLL_RESULT, COLL_SPARSE, COLL_SIGN, COLL_BS16, COLL_BS16_RESULT, COLL_META, COLL_SIGNATURE.
The model's choices in it: log 22, log 32, log 90. -/
def Obligations.CollectivePackets : Prop :=
  ∀ (s : State) (k : Packet),
    let rest := s.modFab fun f => { f with handed := f.handed.erase k }
    let lost := if (ctxsOfPart k.dstPart).any fun g => s.mayCome g (k.offset.toNat / 2 ^ 40) then s
      else rest.modPart k.dstPart fun p => { p with missing := p.missing + 1 }
    let adds (kind : Nat) : Prop := kind = 0 ∨ kind = 2 ∨ kind = 3
    let taken (kind type : Nat) (f : Nat → CollRun → Nat → State) : State :=
      let mayTake (c : CollRun) : Prop := adds kind →
        k.offset.toNat % 2 ^ 36 / 65536 < c.lowChunk + 8 ∧ c.arrived.length + c.adds k ≤ c.blk.scratchBytes / 4
      if k ∈ s.fab.handed ∧ k.type = type ∧ k.offset.toNat / 2 ^ 36 % 16 = kind then
        match s.collOf k with
        | some (g, c, i) => if mayTake c then (f g c i).collGoOn g c.key else s
        | none => lost
      else s
    exec (.collData k) s = .next (taken 0 1 fun g c i => rest.onData k g c i) ∧
    exec (.collResult k) s = .next (taken 1 2 fun g c _ => rest.onResult k g c) ∧
    exec (.collSparse k) s = .next (taken 2 1 fun g c i => rest.onSparse k g c i) ∧
    exec (.collSign k) s = .next (taken 3 1 fun g c i => rest.onSign k g c i) ∧
    exec (.collBs16 k) s = .next (taken 4 1 fun g c _ => rest.ringAdd g c (k.offset.toNat % 2 ^ 36) (mantsOf k.payload)) ∧
    exec (.collBs16Result k) s = .next (taken 5 2 fun g c _ => rest.onBsResult k g c) ∧
    exec (.collMeta k) s = .next (taken 6 1 fun g c _ => rest.onMeta k g c) ∧
    exec (.collSignature k) s = .next (taken 7 1 fun g c i =>
      if k.payload = c.signature then
        rest.modColl g c.key fun c => { c with signed := if i ∈ c.signed then c.signed else c.signed ++ [i] }
      else (rest.collSendAll g c 8 1 0 []).jobFault g c.q c.seq stCollMismatch 0)

/-- A MISSING notice ends the collective it names without a notice of its own; one of a collective not yet started is held, with its
sender, by every context that may start it, each of which holds those of at most 64 collectives. Completes: COLL_MISSING. The model's choice in it:
log 32. -/
def Obligations.MissingNotices : Prop :=
  ∀ (s : State) (k : Packet),
    let rest := s.modFab fun f => { f with handed := f.handed.erase k }
    let ident := k.offset.toNat / 2 ^ 40
    let note := (ident, k.srcId, k.srcPart)
    let here := k ∈ s.fab.handed ∧ k.type = 1 ∧ k.offset.toNat / 2 ^ 36 % 16 = 8
    (∀ g c i, here → s.collOf k = some (g, c, i) → exec (.collMissing k) s = .next (rest.missColl g c.key false)) ∧
    (here → s.collOf k = none → (∃ g ∈ ctxsOfPart k.dstPart, s.mayCome g ident = true) →
      ∃ t, exec (.collMissing k) s = .next t ∧ t = { s with ctxs := t.ctxs, fab := rest.fab } ∧
        ∀ g, t.ctx g = if g ∈ ctxsOfPart k.dstPart ∧ s.mayCome g ident = true then
            { s.ctx g with missingHeld := if ((noticesOf (s.ctx g).missingHeld).length < 64 ∨
                ∃ x ∈ (s.ctx g).missingHeld, x.1 = ident) ∧ note ∉ (s.ctx g).missingHeld then
              (s.ctx g).missingHeld ++ [note] else (s.ctx g).missingHeld }
          else s.ctx g) ∧
    (here → s.collOf k = none → (∀ g ∈ ctxsOfPart k.dstPart, s.mayCome g ident = false) →
      exec (.collMissing k) s = .next (rest.modPart k.dstPart fun p => { p with missing := p.missing + 1 })) ∧
    (¬ here → exec (.collMissing k) s = .next s)

/-! ### Securing -/

/-- SECURE, RESTORE and FILL begin when their engine's turn has come, alone in their context and with no other securing operation
running: HOLD groups and the member's own group are taken up, the phase is set, the holders or the other members are asked, and the
operation goes as far as it can. A SECURE whose vote has decided to stop carries the stop out; one that still waits for others does
nothing. REGISTER takes up HOLD groups and nothing else. Completes: SECURE, RESTORE, FILL, REGISTER.
The model's choices in it: log 34, log 46. -/
def Obligations.SecuringBegins : Prop :=
  ∀ s g q seq r, Ready g q seq s r → dOpcode r.raw = 0x48 →
    let k := secBlk r.block
    let ts := cutTables k.addrs r.table
    let op : SecOp := { q := q, seq := seq, op := k.op, force := k.force, startAt := s.ctxTime g }
    let entered (phase : Nat → Nat) : State := s.modSecure g fun x =>
      let y := (x.register k ts).enter k (ts.headD [])
      { y with op := some op, phase := phase (if y.build.isSome then 2 else 0) }
    let turn := s.turnOf 3 3 g s.secReady
    let free := s.aloneIn g q seq = true ∧ (s.secureOf g).op = none
    let waits := exec (.secure g q seq) s = .next s ∧ exec (.restore g q seq) s = .next s ∧ exec (.fill g q seq) s = .next s
    (k.op = 0 → turn → free → exec (.secure g q seq) s =
      .next ((((entered id).askHolders g).advanceSec g).engineServed 3 g)) ∧
    (k.op = 1 → turn → free → exec (.restore g q seq) s = .next (
      let t := entered fun _ => 4
      ((t.sendKnown g (t.peersOf g) true false).advanceSec g).engineServed 3 g)) ∧
    (k.op = 2 → turn → free → exec (.fill g q seq) s = .next (
      let t := entered fun _ => 3
      (((t.sendKnown g (t.peersOf g) true false).askHolders g).advanceSec g).engineServed 3 g)) ∧
    (∀ o key, k.op = 0 → turn → (s.secureOf g).op = some o → o.q = q → o.seq = seq → o.stopping = true →
      (s.secureOf g).key = some key → exec (.secure g q seq) s = .next ((s.doStop g o key).engineServed 3 g)) ∧
    (∀ o, k.op ≠ 3 → (s.secureOf g).op = some o → o.q ≠ q ∨ o.seq ≠ seq ∨ o.stopping = false → waits) ∧
    (k.op ≠ 3 → (s.secureOf g).op = none → s.aloneIn g q seq = false → waits) ∧
    (¬ turn → waits ∧ exec (.register g q seq) s = .next s) ∧
    (k.op = 3 → turn → exec (.register g q seq) s =
      .next (((s.modSecure g fun x => x.register k ts).ranWith g q seq 0).engineServed 3 g))

/-- A vote of another STEP, another table or another position is SECURE_MISMATCH, and any other is recorded in place of the
sender's earlier one; a vote, an exchange or a key still awaited after STRAGGLER_MS ends the operation with MISSING. The last
holder's DONE commits the point: the latch clears, its time is kept, and no build is left; an earlier DONE is only noted.
Completes: SECURE_VOTE_MESSAGE, SECURE_VOTE_TIMEOUT, HOLDER_DONE. The model's choices in it: log 22, log 46. -/
def Obligations.VotesAndCommits : Prop :=
  ∀ (s : State) g (k : Packet),
    let rest := s.modFab fun f => { f with handed := f.handed.erase k }
    (∀ op i, (s.secureOf g).op = some op → s.srcData (g / 64) (s.groupFor g) k = some i → s.secPkt g k [0] = true → op.op = 0 →
      i ≠ s.myPos g →
      let v := voteOf k.payload
      let agrees := v.step.toNat = s.stepNo g ∧ v.position = i ∧ k.payload.drop 32 = (s.secureOf g).table
      (¬ agrees → exec (.secureVoteMessage g k) s = .next (rest.jobFault g op.q op.seq 0x60 0)) ∧
      (agrees → exec (.secureVoteMessage g k) s = .next ((rest.modSecure g fun x =>
        { x with op := some { op with votes := op.votes.filter (·.position != i) ++ [v] } }).advanceSec g))) ∧
    (∀ op, (s.secureOf g).op = some op →
      let waits := (op.op = 0 ∧ op.stopping = false) ∨ (op.op ≠ 0 ∧ ∀ f, op.fill = some f → f.1 ≤ f.2)
      let due := op.startAt + s.cfg (0x4800 + g / 64) 1 * 1000000 ≤ s.ctxTime g
      (waits → due → exec (.secureVoteTimeout g) s = .next (s.endSec g op.q op.seq 0x01)) ∧
      (¬ waits ∨ ¬ due → exec (.secureVoteTimeout g) s = .next s)) ∧
    (∀ b j, (s.secureOf g).build = some b → s.srcHolder (g / 64) (s.groupFor g) k = some j → s.secPkt g k [6] = true →
      secStop k = b.1 → secTag k = s.tagOf g →
      let done := if j ∈ b.2 then b.2 else b.2 ++ [j]
      (done.length ≠ (s.groupFor g).p →
        exec (.holderDone g k) s = .next (rest.modSecure g fun x => { x with build := some (b.1, done) })) ∧
      (done.length = (s.groupFor g).p →
        ∃ t, exec (.holderDone g k) s = .next t ∧ (t.secureOf g).latch = false ∧ (t.secureOf g).build = none ∧
          (t.secureOf g).commitNs = s.ctxTime g ∧ (t.secureOf g).committedOnce = true ∧ (t.secureOf g).maxRaised = false ∧
          (t.secureOf g).points = (s.secureOf g).points.map (fun p => if p.stopSeq = b.1 then { p with committed := true } else p) ∧
          t.hbm = s.hbm ∧ OthersKept g s t))

/-- A PARITY packet from the position before this member goes through its own shard and on along the chain; one from the last
data position of a HOLD group is written into that group's parity slot. A FILL packet that is the next data tile of the fill in
progress lands in the filler's slot; any other is served on. The four point-exchange messages go to their own handlers.
Completes: PARITY_PACKET, FILL_PACKET, POINT_EXCHANGE. The model's choices in it: log 22, log 35. -/
def Obligations.ShardsAndPoints : Prop :=
  ∀ (s : State) g (k : Packet),
    let rest := s.modFab fun f => { f with handed := f.handed.erase k }
    let x := s.secureOf g
    let grp := s.groupFor g
    let i := s.myPos g
    let j := k.flow / 2 % 4
    let last := decide (k.flow % 2 = 1)
    let mine := x.hasGroup = true ∧ s.tagOf g = secTag k ∧ 0 < i ∧ s.fromRank (g / 64) (grp.rank (i - 1)) k = true ∧ j < grp.p
    (∀ b, s.secPkt g k [5] = true → mine → x.build = some b → b.1 = secStop k →
      exec (.parityPacket g k) s = .next (rest.memberTile g (secStop k) i j (secTile k) last k.payload)) ∧
    (∀ h, s.secPkt g k [5] = true → ¬ mine →
      x.holds.find? (fun h => groupTag h.table == secTag k &&
        (secGroup h.table).pos (s.myRank (g / 64)) == (secGroup h.table).k + j &&
        s.fromRank (g / 64) ((secGroup h.table).rank ((secGroup h.table).k - 1)) k) = some h →
      exec (.parityPacket g k) s = .next (rest.holdTile g h (secStop k) (secTile k) last k.payload)) ∧
    (∀ op ss tiles n, s.secPkt g k [7] = true → x.op = some op → s.fillsNext g op k = some (ss, tiles, n) →
      exec (.fillPacket g k) s = .next (rest.fillTile g op ss tiles n k.payload)) ∧
    (s.secPkt g k [7] = true → (∀ op, x.op = some op → s.fillsNext g op k = none) →
      exec (.fillPacket g k) s = .next (s.passFill g k)) ∧
    (s.secPkt g k [1] = true → exec (.pointExchange g k) s = .next (s.onPoints g k)) ∧
    (s.secPkt g k [2] = true → exec (.pointExchange g k) s = .next (s.onAskHolder g k)) ∧
    (s.secPkt g k [3] = true → exec (.pointExchange g k) s = .next (s.onHolder g k)) ∧
    (s.secPkt g k [4] = true → exec (.pointExchange g k) s = .next (s.onServe g k)) ∧
    (k ∉ s.fab.handed → exec (.parityPacket g k) s = .next s ∧ exec (.fillPacket g k) s = .next s ∧
      exec (.pointExchange g k) s = .next s)

/-- The group key is asked for only by a running operation that lacks it, from the lowest reachable member that holds it, in an SPDM
session that MD opens with that member as requester, and given only by one that holds it to a member of the group whose chain roots at
FABRIC_ANCHOR and whose table agrees (one that does not hold it yet remembers who asked); each message goes to the peer in a MGMT
packet. As requester MD asks version, capabilities, algorithms, digests and the chain in turn, sends KEY_EXCHANGE only to a peer whose
chain roots at FABRIC_ANCHOR, which a zero anchor makes none, and takes the key only in the session so opened and only from a table
that agrees; any other answer ends the session. Completes: GROUP_KEY_REQUEST, SPDM_RESPONSE. The model's choices in it: log 21, log 22,
log 101. -/
def Obligations.GroupKeys : Prop :=
  ∀ (s : State) g,
    let x := s.secureOf g
    let p := g / 64
    let rooted (root : Bytes) := (∃ b ∈ s.cfgBytes 0x5800 4, b ≠ 0) ∧ sha384 root = s.cfgBytes 0x5800 4
    let hash := sha384 (slice x.table 64 (4 * fld x.table 0 1))
    let said (s : State) (o : SpdmOut) (dev part : Nat) : State :=
      (s.modSec fun y => { y with out := y.out ++ [o] }).sendMgmt p dev part (mctpWrap (mctpOf o))
    (∀ op i d, x.op = some op → x.key = none → s.keySource g op = some i → s.rankOf p ((s.groupFor g).rank i) = some d →
      let c : Conn := .dict (.fabric d.1 d.2)
      exec (.groupKeyRequest g none) s = .next ((said ((s.endAsk (.groupKey g)).setAsk { what := .groupKey g, conn := c })
        (.request (.groupKey g) c .getVersion) d.1 d.2).modSecure g fun y => { y with keyAsked := true })) ∧
    (x.op = none ∨ x.key ≠ none → exec (.groupKeyRequest g none) s = .next s) ∧
    (∀ a : KeyAsker,
      let admits := rooted a.chainRoot ∧ a.tableHash = hash ∧ ∃ r ∈ (s.groupFor g).data, s.rankOf p r = some (a.dev, a.part)
      (admits → x.key ≠ none → exec (.groupKeyRequest g (some a)) s = .next (said s (.keyDeliver g a.dev a.part) a.dev a.part)) ∧
      (admits → x.key = none → ∃ t, exec (.groupKeyRequest g (some a)) s = .next t ∧ OnlyCtx g s t ∧ a ∈ (t.secureOf g).askers ∧
        (t.secureOf g).key = none) ∧
      (¬ admits → exec (.groupKeyRequest g (some a)) s = .next s)) ∧
    (∀ w r k h, s.askOf w = none → exec (.spdmResponse w r k h) s = .next s) ∧
    (∀ w a k h, s.askOf w = some a →
      let onto (st : AskStage) (r : SpdmRequest) (a : Asking) : State :=
        (s.setAsk { a with stage := st }).spdmSend (.request a.what a.conn r)
      (a.stage = .version → exec (.spdmResponse w .version k h) s = .next (onto .capabilities .getCapabilities a)) ∧
      (a.stage = .capabilities → exec (.spdmResponse w .capabilities k h) s =
        .next (onto .algorithms (.negotiateAlgorithms [1, 2, 3, 4]) a)) ∧
      (a.stage = .algorithms → exec (.spdmResponse w .algorithms k h) s = .next (onto .digests .getDigests a)) ∧
      (a.stage = .digests → exec (.spdmResponse w .digests k h) s = .next (onto .certificate .getCertificate a)) ∧
      (∀ ch, a.stage = .certificate → rooted ch.root →
        exec (.spdmResponse w (.certificate ch) k h) s = .next (onto .keyExchange .keyExchange { a with chain := some ch }))) ∧
    (∀ a, s.askOf (.groupKey g) = some a →
      let failed := (s.endAsk (.groupKey g)).modSecure g fun y => { y with keyAsked := false }
      (∀ ch k h, a.stage = .certificate → ¬ rooted ch.root → exec (.spdmResponse (.groupKey g) (.certificate ch) k h) s = .next failed) ∧
      (∀ k h, exec (.spdmResponse (.groupKey g) .error k h) s = .next failed) ∧
      (∀ dev part k h, a.stage = .finish → a.conn = .dict (.fabric dev part) →
        ∃ t, exec (.spdmResponse (.groupKey g) .finishRsp k h) s = .next t ∧ .keyRequest g dev part ∈ t.sec.out) ∧
      (∀ key h, a.stage = .groupKey → h = hash → exec (.spdmResponse (.groupKey g) .groupKey (some key) h) s = .next (
        ((s.spdmSend (.request (.groupKey g) a.conn (.endSession a.session))).endAsk (.groupKey g)).keyArrived g key)) ∧
      (∀ key h, a.stage ≠ .groupKey ∨ h ≠ hash ∨ key = none →
        exec (.spdmResponse (.groupKey g) .groupKey key h) s = .next failed))

/-! ### The Doubler and corrected errors -/

/-- Each qualifying event sets RISK to min(64, 2 RISK), counts and restarts the quiet interval, and a RISK at the threshold raises
SECURE_REQUEST; two that arrive together double twice. Each QUIET_MIN without one sets RISK to max(1, RISK / 2).
Completes: QUIET_INTERVAL_EXPIRY. -/
def Obligations.RiskDoubles : Prop :=
  ∀ s : State,
    let t := s.qualify
    let risk := min 64 (2 * s.doubler.risk)
    let quiet := s.doubler.quietAt + s.cfg 0x5000 3 * 60000000000 ≤ s.now
    t.doubler.risk = risk ∧ t.doubler.quietAt = s.now ∧ t.doubler.events = min (s.doubler.events + 1) 0xFFFFFFFF ∧
    t.qualify.doubler.risk = min 64 (2 * risk) ∧
    (s.cfg 0x5000 2 ≤ risk → ∀ g, (t.ctx g).secure.latch = ((s.ctx g).secure.hasGroup || (s.ctx g).secure.latch)) ∧
    (risk < s.cfg 0x5000 2 → t.ctxs = s.ctxs ∧ t.log = s.log) ∧
    (s.pwr.good = true → quiet → exec .quietIntervalExpiry s =
      .next { s with doubler := { s.doubler with risk := max 1 (s.doubler.risk / 2), quietAt := s.now } }) ∧
    (s.pwr.good = false ∨ ¬ quiet → exec .quietIntervalExpiry s = .next s)

/-- SECURE_REQUEST is raised when a context with a group and a committed point has passed MAX_INTERVAL_MIN since its last commit,
once for each commit, which every overdue context then notes. The request is logged, the latch of every context with a group is
set, and no other context is touched.
Completes: MAX_INTERVAL_EXPIRY. The model's choice in it: log 51. -/
def Obligations.SecureRequests : Prop :=
  ∀ s : State,
    let overdue (g : Nat) (c : Ctx) := c.secure.hasGroup = true ∧ c.secure.committedOnce = true ∧
      c.secure.maxRaised = false ∧ c.secure.commitNs + s.cfg 0x5000 4 * 60000000000 ≤ s.ctxTime g
    ((∃ kv ∈ s.ctxs, overdue kv.1 kv.2) → ∃ marked : State, marked = { s with ctxs := marked.ctxs } ∧
      (∀ g, overdue g (s.ctx g) → marked.ctx g = { s.ctx g with secure := { (s.ctx g).secure with maxRaised := true } }) ∧
      (∀ g, ¬ overdue g (s.ctx g) → marked.ctx g = s.ctx g) ∧
      exec .maxIntervalExpiry s = .next (marked.secureRequest 1)) ∧
    ((¬ ∃ kv ∈ s.ctxs, overdue kv.1 kv.2) → exec .maxIntervalExpiry s = .next s) ∧
    (∀ cause, (s.secureRequest cause).log =
      (s.event 0x0054 (partCode 0 0) 0xFF [BitVec.ofNat 8 s.doubler.risk, BitVec.ofNat 8 cause]).log) ∧
    (∀ cause g, ((s.secureRequest cause).ctx g).secure.latch = ((s.ctx g).secure.hasGroup || (s.ctx g).secure.latch) ∧
      ((s.secureRequest cause).ctx g).secure.hasGroup = (s.ctx g).secure.hasGroup ∧
      ((s.ctx g).secure.hasGroup = false → (s.secureRequest cause).ctx g = s.ctx g))

/-- The end of an aligned 60 s window makes each count the one the next is held against, and 0 where a whole window has passed
without errors; within a window it does nothing. A corrected error is counted for its stack or die in the window it falls in; the
first in a window that brings the count to CE_MIN or more and to more than twice the window before is logged and is a qualifying
event. Completes: CE_WINDOW_END, HBM_CORRECTED_ERROR. The model's choice in it: log 51. -/
def Obligations.CorrectedErrors : Prop :=
  ∀ s : State,
    let window := s.now / 60000000000
    let closed (prev cur : Nat) : Nat × Nat := if window ≤ s.doubler.window then (prev, cur)
      else (if window = s.doubler.window + 1 then cur else 0, 0)
    ∃ u, exec .ceWindowEnd s = .next u ∧
    u = { s with dies := u.dies, hbmStacks := u.hbmStacks, doubler := { s.doubler with window := max s.doubler.window window } } ∧
    (∀ d, u.die d = { s.die d with cePrev := (closed (s.die d).cePrev (s.die d).ceCur).1,
                                   ceCur := (closed (s.die d).cePrev (s.die d).ceCur).2,
                                   ceRaised := decide (window ≤ s.doubler.window) && (s.die d).ceRaised }) ∧
    (∀ k, u.stack k = { s.stack k with cePrev := (closed (s.stack k).cePrev (s.stack k).ceCur).1,
                                       ceCur := (closed (s.stack k).cePrev (s.stack k).ceCur).2,
                                       ceRaised := decide (window ≤ s.doubler.window) && (s.stack k).ceRaised }) ∧
    (∀ k, k < 24 →
      let x := u.stack k
      let n := min (x.ceCur + 1) 0xFFFFFFFF
      let t := u.modStack k fun y => { y with ce := min (y.ce + 1) 0xFFFFFFFF, ceCur := n }
      let rise := x.ceRaised = false ∧ s.cfg 0x5000 8 ≤ n ∧ 2 * x.cePrev < n
      (¬ rise → exec (.hbmCorrectedError false k) s = .next t) ∧
      (rise → exec (.hbmCorrectedError false k) s = .next (((t.modStack k fun y => { y with ceRaised := true }).event 0x0010
        (partCode 3 k) (s.partByte (k / 3)) (leBytes 4 n ++ leBytes 4 x.cePrev)).qualify))) ∧
    (∀ d, d < 8 →
      let x := u.die d
      let n := min (x.ceCur + 1) 0xFFFFFFFF
      let t := u.modDie d fun y => { y with ceCur := n }
      let rise := x.ceRaised = false ∧ s.cfg 0x5000 8 ≤ n ∧ 2 * x.cePrev < n
      (¬ rise → exec (.hbmCorrectedError true d) s = .next t) ∧
      (rise → exec (.hbmCorrectedError true d) s = .next (((t.modDie d fun y => { y with ceRaised := true }).event 0x0010
        (partCode 2 d) (s.partByte d) (leBytes 4 n ++ leBytes 4 x.cePrev)).qualify)))

/-! ### HBM events -/

/-- The first report of a READY partition's requests in a 10 ms window of its time is kept, and a stack whose requests exceed twice
the mean raises HOT_CHANNEL, in a record with its requests and the mean, at most once a second; a channel of a trained stack re-trains and nothing else is seen of it; a stack in
thermal state 3 that has written what it queued resets its partition. A prefetch brings the lines ahead of its stream, at most 256
and only as far as R260 lets it advance, into the caches of the dies that hold them, and its hub notes the stream, the oldest of 64
going; it changes nothing a program can read; a stream its hub has not detected brings nothing. Completes: HOT_CHANNEL_WINDOW, PHY_RETRAIN,
QUEUED_WRITES_COMPLETE, PREFETCH_ISSUE. The model's choices in it: log 7, log 13. -/
def Obligations.HbmEvents : Prop :=
  ∀ s : State,
    (∀ p counts,
      let w := s.partTime p / 10000000
      let due := p < s.partCount ∧ (s.part p).st = .ready ∧ counts.length = 3 * s.dieCount ∧ (s.part p).hotAt < w
      (due → ∃ t, exec (.hotChannelWindow p counts) s = .next t ∧
        t = { s with parts := t.parts, hbmStacks := t.hbmStacks, log := t.log } ∧
        t = (List.range counts.length).foldl (fun u i =>
          let k := 3 * s.dieCount * p + i
          let v := u.modStack k fun x => { x with requests := nth 0 counts i }
          if 2 * counts.sum < nth 0 counts i * counts.length ∧ ∀ a, (s.stack k).lastHot = some a → a + 10 ^ 9 ≤ s.now then
            (v.modStack k fun x => { x with hot := min (x.hot + 1) 0xFFFFFFFF, lastHot := some s.now }).event 0x0012 (partCode 3 k) p
              (leBytes 4 (nth 0 counts i) ++ leBytes 4 (counts.sum / counts.length))
          else v) (s.modPart p fun x => { x with hotAt := w }) ∧
        t.part p = { s.part p with hotAt := w } ∧ (∀ k, k ≠ p → t.part k = s.part k) ∧
        ∀ i, i < counts.length →
          let k := 3 * s.dieCount * p + i
          let kept : Stack := { s.stack k with requests := nth 0 counts i }
          let hot := 2 * counts.sum < nth 0 counts i * counts.length
          let fresh := ∀ a, (s.stack k).lastHot = some a → a + 10 ^ 9 ≤ s.now
          (hot → fresh → t.stack k = { kept with hot := min ((s.stack k).hot + 1) 0xFFFFFFFF, lastHot := some s.now }) ∧
          (¬ hot ∨ ¬ fresh → t.stack k = kept)) ∧
      (¬ due → exec (.hotChannelWindow p counts) s = .next s)) ∧
    (∀ k ch, exec (.phyRetrain k ch) s = .next (
      if s.pwr.stackReady.getLsbD k ∧ ch < 32 then s.modStack k fun x => { x with retrained := ch } else s)) ∧
    (∀ k, exec (.queuedWritesComplete k) s = .next (
      if (s.stack k).draining then (s.modStack k fun x => { x with draining := false }).causeReset (s.partOfDie (k / 3)) 4
      else s)) ∧
    (∀ d g va desc,
      let detected := (s.ctx g).st = .active ∧ s.partOfDie d = g / 64 ∧ (s.xlate g va).isSome = true ∧
        (s.die d).detects g (va / 128) desc = true
      let base := va / 128 * 128
      let lines := s.aheadLines g desc 256 base
      let filled := lines.foldl (fun u a => u.fillLine (g / 64) (u.dpaOf g a)) s
      (detected → ∃ t, exec (.prefetchIssue d g va desc) s = .next t ∧ t = { s with dies := t.dies } ∧
        t = (filled.modDie d fun x =>
          { x with streams := pushStream { g := g, line := (lines.getLast?.getD base) / 128, descending := desc } x.streams }) ∧
        (∀ n, t.die n = { s.die n with lines := (t.die n).lines, streams := (t.die n).streams }) ∧
        (∀ n, n ≠ d → (t.die n).streams = (s.die n).streams)) ∧
      (lines.length ≤ 256 ∧ ∀ i, i < lines.length →
        lines[i]? = some (if desc then base - 128 * (i + 1) else base + 128 * (i + 1))) ∧
      (∀ (u : State) p dpa, (u.fillLine p dpa).dies = (u.modDie (u.placeOf p dpa).1 fun x => x.fill (hbmKey p dpa / 128)).dies ∧
        hbmKey p dpa / 128 ∈ ((u.fillLine p dpa).die (u.placeOf p dpa).1).lines) ∧
      (¬ detected → exec (.prefetchIssue d g va desc) s = .next s))

/-! ### The links of the fabric -/

/-- A port that passes flits answers one it cannot read by a NAK of the SEQ it expects, and one out of sequence by one NAK; an IDLE
one in sequence returns credit and acknowledges only; the next in sequence begins, continues or ends the packet of its VC. A control
flit takes the next SEQ and a place in the replay buffer. A received packet is handed over, or counted as a discard of the port, or,
with a KIND its TYPE does not have, in MISSING_COUNT; a contribution that finds no room stays in its buffer, and holds up its VC only.
A NAK, or an Ethernet time-out, sends every unacknowledged flit again from the SEQ in order; a sending that could not have been
acknowledged yet has not failed, and the eighth failure in a row takes the port DOWN with cause 1. Completes: FLIT_RECEIVE, PACKET_RECEIVE, NAK,
ETH_RETRY_TIMEOUT. The model's choices in it: log 33, log 49, log 50, log 90. -/
def Obligations.FlitsReceived : Prop :=
  ∀ (s : State) p,
    let x := s.port p
    let e := s.linkEnv p
    let nakked (y : Port) : Port := { y.sendCtl e (.nak x.rxSeq) with nakked := true }
    let fails (y : Port) (seq : Nat) : Nat :=
      match y.replay with
      | [] => y.sendFails
      | f :: _ =>
        let again := y.resentFrom = some seq
        let before := if again then y.sendFails else 0
        if (if again then y.triedAt else f.time) + e.roundTrip ≤ s.now then before + 1 else before
    let waits (k : Packet) : Bool := s.mayDeliver p k && s.collWaits k
    (∀ b fec, x.linked = false → exec (.flitReceive p ⟨b, fec⟩) s = .next s) ∧
    (∀ b, x.linked = true → PortBecomes (.flitReceive p ⟨b, none⟩) s p (nakked x)) ∧
    (∀ b n, x.linked = true →
      let f := flitOf b
      let readable := flitCrcOk b = true ∧ f.kind ≤ 4 ∧ fld b 0 8 / 2 ^ 12 % 2 ^ 8 ≤ 244 ∧ (f.kind = 0 ∨ f.kind = 4 ∨ f.vc < 6)
      let come := s.modPort p fun y => { y with fec := y.fec + n }
      let took := come.modPort p fun y =>
        { y.credits1 f with rxSeq := (y.rxSeq + 1) % 4096, rxAny := true, ackDue := true, nakked := false }
      let runs (t : State) := exec (.flitReceive p ⟨b, some n⟩) s = .next (t.pump p)
      (¬ readable → PortBecomes (.flitReceive p ⟨b, some n⟩) s p (nakked { x with fec := x.fec + n })) ∧
      (readable → f.seq ≠ x.rxSeq → PortBecomes (.flitReceive p ⟨b, some n⟩) s p
        (if x.nakked then { x with fec := x.fec + n } else nakked { x with fec := x.fec + n })) ∧
      (readable → f.seq = x.rxSeq → f.kind = 0 → runs (come.modPort p fun y => y.credits1 f)) ∧
      (readable → f.seq = x.rxSeq → f.kind = 4 → runs took) ∧
      (readable → f.seq = x.rxSeq → f.kind = 1 → runs ((took.endPkt p f.vc).beginPkt p f.vc f.data)) ∧
      (readable → f.seq = x.rxSeq → f.kind = 2 → runs (took.morePkt p f.vc f.data)) ∧
      (readable → f.seq = x.rxSeq → f.kind = 3 → runs (
        if (took.port p).asmOf f.vc = none then (took.beginPkt p f.vc f.data).endPkt p f.vc
        else (took.morePkt p f.vc f.data).endPkt p f.vc))) ∧
    (∀ m, x.ctlq = [] → x.full = false →
      let y := x.sendCtl e m
      y.txSeq = (x.txSeq + 1) % 4096 ∧ y.ctlq = [] ∧ y.txq = x.txq ∧ y.ackDue = false ∧
      ∃ f, y.replay = x.replay ++ [f] ∧ f.kind = 4 ∧ f.seq = x.txSeq ∧ f.ctl = some m ∧ f.no = none) ∧
    (∀ k vc flits rest, x.rxq = (k, vc, flits) :: rest → waits k = false → nextRx waits [] x.rxq = some (k, vc, flits)) ∧
    (∀ k vc flits, x.rxq = [(k, vc, flits)] → waits k = true → nextRx waits [] x.rxq = none) ∧
    (nextRx waits [] x.rxq = none → exec (.packetReceive p) s = .next s) ∧
    (∀ k vc flits, nextRx waits [] x.rxq = some (k, vc, flits) →
      let taken := (s.modPort p fun y => { y with rxq := y.rxq.erase (k, vc, flits) }).freeBuffer p vc flits
      let die := if s.partOfDie (p / 4) = k.dstPart then p / 4 else k.dstPart * s.dieCount
      let good := k.dstPart < s.partCount ∧ (s.part k.dstPart).st = .ready ∧ k.dstRank = s.myRank k.dstPart ∧ k.checkOk = true ∧
        k.tc ≤ 2 ∧ k.type ∈ [0x01, 0x02, 0x08, 0x09, 0x10, 0x11, 0x12] ∧ s.pathOut (p / 4) die = false
      (good → collKnown k = true →
        exec (.packetReceive p) s = .next { taken with fab := { taken.fab with handed := taken.fab.handed ++ [k] } }) ∧
      (good → collKnown k = false →
        exec (.packetReceive p) s = .next (taken.modPart k.dstPart fun y => { y with missing := y.missing + 1 })) ∧
      (¬ good → exec (.packetReceive p) s = .next (taken.modPort p fun y => { y with discards := y.discards + 1 }))) ∧
    (∀ (y : Port) seq,
      let z := y.resendFrom e seq
      let ack := if y.rxAny then some ((y.rxSeq + 4095) % 4096) else none
      z.replayed = y.replayed + y.replay.length ∧ z.sendFails = fails y seq ∧ z.replay.map (·.seq) = y.replay.map (·.seq) ∧
      z.wire = y.wire ++ y.replay.map fun f =>
        { flit := flitBytes f ack, udp := e.udp.map fun u => { u with dscp := u.dscp + f.tc } }) ∧
    (∀ seq,
      let heard := s.modPort p fun y => y.acked ((seq + 4095) % 4096)
      (x.linked = false → exec (.nak p seq) s = .next s) ∧
      (x.linked = true → fails (heard.port p) seq < 8 →
        exec (.nak p seq) s = .next ((heard.modPort p fun y => y.resendFrom e seq).pump p)) ∧
      (x.linked = true → 8 ≤ fails (heard.port p) seq → FallsFor (.nak p seq) s p 1)) ∧
    (x.replay = [] → exec (.ethRetryTimeout p) s = .next s) ∧
    (∀ f rest, x.replay = f :: rest →
      let due := x.linked = true ∧ s.cfg (0x4000 + p) 1 = 2 ∧ f.time + s.cfg (0x4000 + p) 0x14 * 1000 ≤ s.now
      (¬ due → exec (.ethRetryTimeout p) s = .next s) ∧
      (due → fails x f.seq < 8 → exec (.ethRetryTimeout p) s = .next ((s.modPort p fun y => y.resendFrom e f.seq).pump p)) ∧
      (due → 8 ≤ fails x f.seq → FallsFor (.ethRetryTimeout p) s p 1))

/-- Calibration mirrors one lane on LS, hands it over by LANE_READY and SWITCH, and hands it back when it has re-adapted; a window
on a lane that LS has taken re-adapts LS itself. A lane that fails takes LS where LS is free, is logged with the lanes left, and is
a qualifying event; fewer than two lanes left, and any lane of ETHERNET mode, take the port DOWN. A link key of 2^36 packets or one
hour is replaced while the random source works, and KEY_PHASE says so. Completes: CAL_WINDOW_OPEN, LS_LOCKED, LANE_READY, SWITCH,
CAL_WINDOW_END, LANE_FAILURE, LINK_KEY_ROLLOVER, KEY_PHASE. The model's choice in it: log 33. -/
def Obligations.LanesAndKeys : Prop :=
  ∀ (s : State) p,
    let x := s.port p
    let sending (m : Ctl) : Port := x.sendCtl (s.linkEnv p) m
    let grade (l : BitVec 5) : PortState := if l.toNat % 16 = 0 then .up else .degraded
    let openable := x.live = true ∧ s.cfg (0x4000 + p) 1 = 1 ∧ x.laneFail.getLsbD 4 = false ∧ x.cal = none ∧ x.lanesUsed = 4 ∧
      x.calAt + s.cfg (0x4000 + p) 6 * 1000000 ≤ s.now
    let after (j : Option Nat) (old : Option Nat) : Option Nat := if j = none then old else j
    let taken := ∃ l, x.ls = some l ∧ x.laneFail.getLsbD l = true
    (openable → PortBecomes (.calWindowOpen p) s p
      { x with cal := some (x.nextCal, if x.ls = none then .mirroring else .switched), nextCal := (x.nextCal + 1) % 4,
               calAt := s.now }) ∧
    (¬ openable → exec (.calWindowOpen p) s = .next s) ∧
    (x.live = true → s.cfg (0x4000 + p) 1 = 1 → PortBecomes (.lsLocked p) s p { sending .laneReady with rxReady := true }) ∧
    (x.live = false ∨ s.cfg (0x4000 + p) 1 ≠ 1 → exec (.lsLocked p) s = .next s) ∧
    (∀ i, x.live = true → x.cal = some (i, .mirroring) →
      PortBecomes (.laneReady p) s p { sending .switch with cal := some (i, .switched), ls := some i }) ∧
    (∀ i, x.live = true → x.cal = some (i, .returning) →
      PortBecomes (.laneReady p) s p
        { sending .switch with cal := none, calFailed := none, ls := x.calFailed, st := grade x.laneFail }) ∧
    PortBecomes (.switch p) s p (if x.live = true ∧ x.rxReady = true then { x with rxLs := !x.rxLs, rxReady := false } else x) ∧
    (∀ i, x.live = true → x.cal = some (i, .switched) → ¬ taken →
      PortBecomes (.calWindowEnd p true) s p { x with cal := some (i, .returning) }) ∧
    (∀ i, x.live = true → x.cal = some (i, .switched) → taken →
      PortBecomes (.calWindowEnd p true) s p
        { x with cal := none, calFailed := none, ls := after x.calFailed x.ls, st := grade x.laneFail }) ∧
    (∀ i, x.live = true → x.cal = some (i, .switched) →
      let lane := if taken ∧ x.ls = some i then 4 else i
      ∃ t, exec (.calWindowEnd p false) s = .next t ∧ (t.port p).laneFail = x.laneFail ||| BitVec.ofNat 5 (2 ^ lane) ∧
        (t.port p).cal = none ∧ t.doubler.risk = min 64 (2 * s.doubler.risk)) ∧
    (∀ lane, x.live = true → lane ≤ 4 → x.laneFail.getLsbD lane = false → s.cfg (0x4000 + p) 1 = 1 →
      let y := x.failLane 1 lane
      ∃ t, exec (.laneFailure p lane) s = .next t ∧ y.laneFail = x.laneFail ||| BitVec.ofNat 5 (2 ^ lane) ∧
        (∃ e ∈ t.log.recs, e.cls = 0x0030 ∧ e.part = partCode 4 p ∧ e.seq = s.log.next ∧
          e.detail = [BitVec.ofNat 8 lane, BitVec.ofNat 8 y.lanesUsed]) ∧
        (t.port p).laneFail = y.laneFail ∧ t.doubler.risk = min 64 (2 * s.doubler.risk) ∧ t.hbm = s.hbm ∧
        (y.lanesUsed < 2 → (t.port p).st = .down) ∧ (2 ≤ y.lanesUsed → (t.port p).st = grade y.laneFail) ∧
        (lane < 4 → x.cal = none → x.ls = none → x.laneFail = 0 → (t.port p).ls = some lane ∧ (t.port p).st = .degraded)) ∧
    (∀ lane, x.live = true → lane < 4 → x.laneFail.getLsbD lane = false → s.cfg (0x4000 + p) 1 = 2 →
      ∃ t, exec (.laneFailure p lane) s = .next t ∧ (t.port p).st = .down ∧ (t.port p).txKey = none ∧
        t.doubler.risk = min 64 (2 * s.doubler.risk)) ∧
    (∀ k, x.txKey = some k →
      let due := x.live = true ∧ s.sec.rngOk = true ∧ (2 ^ 36 ≤ k.count ∨ k.since + 3600000000000 ≤ s.now)
      (∀ key, due → PortBecomes (.linkKeyRollover p key) s p { sending .keyPhase with
        txKey := some { key := key, keyId := k.keyId + 1, count := 0, phase := !k.phase, since := s.now } }) ∧
      (∀ key, ¬ due → exec (.linkKeyRollover p key) s = .next s)) ∧
    (∀ k n, x.rxKey = some k → x.rxNext = some n → PortBecomes (.keyPhase p) s p { x with
      rxOld := some k, rxNext := none
      rxKey := some { key := n, keyId := k.keyId + 1, count := 0, phase := !k.phase, since := s.now } }) ∧
    (x.rxKey = none ∨ x.rxNext = none → exec (.keyPhase p) s = .next s)

/-- A heartbeat heard is dated, and one is sent every 250 microseconds with the module's counter; a millisecond of silence and a
loss of signal take the port DOWN with causes 3 and 0. A port DOWN for a second resets its dale and trains again; training starts its
counters afresh, after which the module of the lower device ID opens the session; FINISH installs the first key of each direction, and
authentication takes the port UP, or DOWN where it has no open session or no keys, where a condition of R405 fails on either side or
where the random source has failed. MGMT and ROUTE packets join MD's queue, ROUTE ahead, or are answered BUSY while their channel has another request
in progress. Completes: HEARTBEAT, HEARTBEAT_SEND, PEER_SILENT, LOSS_OF_SIGNAL, PORT_RETRAIN, PORT_TRAINED, PORT_AUTH_COMPLETE,
MGMT_PACKET, ROUTE_PACKET. The model's choices in it: log 22, log 49, log 50, log 62, log 101. -/
def Obligations.PortEvents : Prop :=
  ∀ (s : State) p,
    let x := s.port p
    let e := s.linkEnv p
    (∀ dev n, PortBecomes (.heartbeat p dev n) s p (if x.live then { x with heardAt := s.now } else x)) ∧
    (let due := x.live = true ∧ s.pwr.shutdown = false ∧ ∀ t, x.hbAt = some t → t + 250000 ≤ s.now
     (due → ∃ t, exec (.heartbeatSend p) s = .next t ∧
       t = { s with ports := t.ports, fab := { s.fab with hbCounter := s.fab.hbCounter + 1 } } ∧ (∀ i, i ≠ p → t.port i = s.port i) ∧
       t.port p = { x.sendCtl e (.heartbeat s.ownId s.fab.hbCounter) with hbAt := some s.now }) ∧
     (¬ due → exec (.heartbeatSend p) s = .next s)) ∧
    (x.live = true → x.heardAt + 1000000 ≤ s.now → FallsFor (.peerSilent p) s p 3) ∧
    (x.live = false ∨ s.now < x.heardAt + 1000000 → exec (.peerSilent p) s = .next s) ∧
    (x.live = true ∨ x.st = .training ∨ x.st = .auth → FallsFor (.lossOfSignal p) s p 0) ∧
    (x.st = .off ∨ x.st = .down → exec (.lossOfSignal p) s = .next s) ∧
    (let due := x.st = .down ∧ s.cfg (0x4000 + p) 1 ≠ 0 ∧ s.pwr.shutdown = false ∧ x.downAt + 1000000000 ≤ s.now
     (due → exec (.portRetrain p) s = .next ((s.resetDale (176 + p)).modPort p fun y => { y with st := .training })) ∧
     (¬ due → exec (.portRetrain p) s = .next s)) ∧
    (∀ n, (s.resetDale (176 + p)).dale n =
      if n = 176 + p then { s.dale n with overruns := [], droopAt := none, droopRaised := false }
      else { s.dale n with overruns := (s.dale n).overruns.filter (· != 176 + p) }) ∧
    (∀ id port,
      let ready := x.st = .training ∧ (s.domain (176 + p / 4)).st = 2
      let up : Port :=
        { x with st := .auth, peer := BitVec.ofNat 32 (id % 2 ^ 18 + port % 32 * 2 ^ 18), laneFail := 0, ls := none, cal := none,
                 calFailed := none, nextCal := 0, rxSeq := 0, txSeq := 0, rxAny := false, credits := [], share := 0, turns := [],
                 asm := [] }
      let opens := s.ownId < id % 2 ^ 18 ∨ s.ownId = id % 2 ^ 18 ∧ p < port % 32
      (ready → ¬ opens → PortBecomes (.portTrained p id port) s p up) ∧
      (ready → opens → exec (.portTrained p id port) s = .next ((s.modPort p fun _ => up).beginAsk (.port p) (.port p))) ∧
      (¬ ready → exec (.portTrained p id port) s = .next s)) ∧
    (∀ a : PeerAuth,
      let own (y : Session) := y.conn == Conn.port p && y.isOpen
      let trusted := a.accepts = true ∧ (∃ y, s.sec.sessions.find? own = some y ∧ s.atFabric y.root = true) ∧
        allZero a.measurement7 = true ∧ s.sec.svn ≤ a.fwSvn ∧ a.fwSvn ≤ s.sec.measSvn ∧ s.sec.lock = false ∧ s.sec.rngOk = true ∧
        x.txKey ≠ none ∧ x.rxKey ≠ none
      (x.st ≠ .auth → exec (.portAuthComplete p a) s = .next s) ∧
      (x.st = .auth → trusted → PortBecomes (.portAuthComplete p a) s p { x with
        st := .up, heardAt := s.now, calAt := s.now, txq := x.txq.filter (!·.clear), asm := [] }) ∧
      (x.st = .auth → ¬ trusted → ∃ t, exec (.portAuthComplete p a) s = .next t ∧ (t.port p).st = .down ∧
        (t.port p).txKey = none ∧ t.log = s.log)) ∧
    (∀ rx tx, x.st = .auth → ∃ t, t = s.installKeys p rx tx ∧ OnlyPort p s t ∧ t.port p = { x with
      txKey := some { key := tx, keyId := 0, count := 0, phase := false, since := s.now }, rxOld := none, rxNext := none
      rxKey := some { key := rx, keyId := 0, count := 0, phase := false, since := s.now } }) ∧
    (∀ k : Packet,
      let req (route : Bool) : MdReq := { src := .fabric k.srcId k.srcPart, part := k.dstPart, wrapper := k.payload, route := route }
      let rest : State := { s with fab := { s.fab with handed := s.fab.handed.erase k } }
      let queue := s.fab.mdQueue
      let busy := ∃ o, rest.unwrap (.fabric k.srcId k.srcPart) k.payload = some o ∧ s.serving = true ∧
        ∃ w ∈ queue, rest.otherOn (.fabric k.srcId k.srcPart) o (frameOf o.body) w = true
      (k ∈ s.fab.handed → k.type = 0x10 → fld k.payload 0 4 ≠ 0xFFFFFFFF → ¬ busy → exec (.mgmtPacket k) s =
        .next { rest with fab := { rest.fab with mdQueue := queue ++ [req false] } }) ∧
      (k ∈ s.fab.handed → k.type = 0x10 → fld k.payload 0 4 = 0xFFFFFFFF → exec (.mgmtPacket k) s =
        .next { rest with sec := { s.sec with mctpIn := s.sec.mctpIn ++ [(.dict (.fabric k.srcId k.srcPart), k.payload.drop 12)] } }) ∧
      (k ∈ s.fab.handed → k.type = 0x11 → ¬ busy → exec (.routePacket k) s = .next { rest with fab := { rest.fab with
        mdQueue := queue.takeWhile (·.route) ++ [req true] ++ queue.dropWhile (·.route) } }) ∧
      (∀ o, k ∈ s.fab.handed → k.type = 0x10 → fld k.payload 0 4 ≠ 0xFFFFFFFF → busy →
        rest.unwrap (.fabric k.srcId k.srcPart) k.payload = some o → exec (.mgmtPacket k) s =
          .next (rest.refuse (req false) o (frameOf o.body) (rest.busyAbort (req false) o (frameOf o.body)))) ∧
      (k ∉ s.fab.handed → exec (.mgmtPacket k) s = .next s ∧ exec (.routePacket k) s = .next s))

/-! ### The object dictionary -/

/-- Each command that names an entry is the write of that entry. A write meets the checks of R382 in order: no such index,
no such subindex, not writable, out of the TENANT's partition, not the role's, wrong length, outside the range; what passes them
goes to the entry's own chapter, and the answer is latched. An index from 0xF000 on is
LOCKED while debug is locked, and none once it is unlocked. Completes: CONFIG_WRITE. The model's choices in it: log 10, log 72. -/
def Obligations.EntryCommands : Prop :=
  ∀ (s : State) (who : Who) (n : Nat),
    let w (index sub : Nat) (data : Bytes) := exec (.configWrite who index sub data) s
    (exec (.partCreate who n) s = w (0x3010 + n) 2 [1] ∧ exec (.partActivate who n) s = w (0x3010 + n) 2 [2] ∧
     exec (.partReset who n) s = w (0x3010 + n) 2 [3] ∧ exec (.partDestroy who n) s = w (0x3010 + n) 2 [4] ∧
     exec (.ctxCreate who n) s = w (0x3600 + n) 4 [1] ∧ exec (.ctxTeardown who n) s = w (0x3600 + n) 4 [2] ∧
     exec (.invalidate who n) s = w (0x3600 + n) 4 [3]) ∧
    ((∀ q rec, exec (.queueConfigWrite who n q rec) s = w (0x3200 + n) (q + 1) rec) ∧
     (∀ v, exec (.roleMaskWrite who n v) s = w 0x2010 (n + 1) (leBytes 4 v.toNat)) ∧
     (∀ v, exec (.stashTableWrite who n false v) s = w (0x3600 + n) 0x20 (leBytes 8 v.toNat)) ∧
     (∀ v, exec (.stashTableWrite who n true v) s = w (0x3600 + n) 0x21 (leBytes 2 v.toNat)) ∧
     (∀ v, exec (.kvConfigWrite who n 0x31 v) s = w (0x3600 + n) 0x31 (leBytes 4 v.toNat)) ∧
     (∀ v, exec (.kvConfigWrite who n 0x36 v) s = w (0x3600 + n) 0x36 (leBytes 8 v.toNat)) ∧
     (∀ v, exec (.shapeWrite who v) s = w 0x3000 1 [v]) ∧
     (∀ t, exec (.slotTableWrite who n t) s = w (0x3020 + n) 2 t)) ∧
    ((∀ v, exec (.pipBudgetWrite who v) s = w 0x2000 1 (leBytes 2 v.toNat)) ∧
     (∀ v, exec (.coreMhzWrite who n v) s = w (0x2400 + n) 1 (leBytes 2 v.toNat)) ∧
     (∀ m, exec (.portModeWrite who n m) s = w (0x4000 + n) 1 (leBytes 1 m)) ∧
     (∀ v, exec (.rankSet who n v) s = w (0x4110 + n) 4 (leBytes 8 v.toNat)) ∧
     exec (.domainEvent who) s = w 0x5000 6 [1] ∧ exec (.fwApply who) s = w 0x5800 0x0A [1] ∧
     exec (.commitSvn who) s = w 0x5800 0x0A [2] ∧
     (∀ sub a, exec (.anchorWrite who (0x5800 + n) sub a) s = w (0x5800 + n) sub a)) ∧
    (∀ index sub data, 0xF000 ≤ index → s.serving = true →
      w index sub data = .next { s with lastAbort := if s.sec.lock then 0x02 else 0x12 }) ∧
    (∀ index sub data, index < 0xF000 → s.pwr.phase = .serving → w index sub data = .next (
      let turned (a : Nat) : State := { s with lastAbort := a }
      match groupOf s.shape index with
      | none => turned 0x02
      | some x =>
        match entryOf x.1 sub with
        | none => turned 0x03
        | some e =>
          if e.acc = .const ∨ e.acc = .ro then turned 0x05
          else if who.role = .tenant ∧ ∃ p, scopeOf x.1 x.2 = some p ∧ p ≠ who.part then turned 0x07
          else if ¬ (who.role = .owner ∨ (who.role = .operator ∧ e.wr ≠ .owner) ∨ (who.role = .tenant ∧ e.wr = .tenants)) then
            turned 0x06
          else if s.lengthOk ⟨x.1, x.2, e⟩ data.length = false then turned 0x08
          else if ranged e.typ = true ∧ e.hi < leNat data then turned 0x09
          else if ranged e.typ = true ∧ leNat data < e.lo then turned 0x0A
          else
            let r := s.applyWrite who 0 ⟨x.1, x.2, e⟩ index sub data
            { r.2 with lastAbort := r.1 })) ∧
    (∀ index sub data, s.serving = false → w index sub data = .next s)

/-- What OWNER's writes do: a role mask needs weight 16, no fenced core and no unfinished work; an enabled queue runs; the stash
and the cache start afresh; SHAPE needs every partition ABSENT; a schedule needs a table R334 accepts; a port is retrained in its
MODE; one rank is replaced; a domain event is logged and qualifies; a package is applied to the bank not running; FW_SVN never
falls; a changed anchor ends the sessions that hold its role; MODULE_RESET resets a millisecond later; each change of node ID applies 10 ms
after it was made. Completes:
ROLE_MASK_WRITE, QUEUE_CONFIG_WRITE, STASH_TABLE_WRITE, KV_CONFIG_WRITE, SHAPE_WRITE, SLOT_TABLE_WRITE, PIP_BUDGET_WRITE,
CORE_MHZ_WRITE, PORT_MODE_WRITE, RANK_SET, DOMAIN_EVENT, FW_APPLY, COMMIT_SVN, ANCHOR_WRITE, MODULE_RESET, NODE_ID_APPLY.
The model's choices in it: log 10, log 36, log 52, log 58, log 64. -/
def Obligations.EntryEffects : Prop :=
  ∀ s : State, s.pwr.phase = .serving →
    let owner : Who := { role := .owner }
    let done (t : State) : Host.Outcome State Fault Refusal := .next { t with lastAbort := 0 }
    let turned (a : Nat) : Host.Outcome State Fault Refusal := .next { s with lastAbort := a }
    (∀ d v, d < 8 →
      let ok := v.toNat < 2 ^ 18 ∧ popcount 18 v.toNat = 16 ∧ v.toNat &&& (s.die d).fenced.toNat = 0
      let idle := s.partHasWork (s.partOfDie d) = false
      (ok → idle → exec (.roleMaskWrite owner d v) s =
        done ((s.setCfg 0x2010 (d + 1) (leBytes 4 v.toNat)).assignDie (s.partOfDie d) d)) ∧
      (¬ ok → exec (.roleMaskWrite owner d v) s = turned 0x0B) ∧
      (ok → ¬ idle → exec (.roleMaskWrite owner d v) s = turned 0x0C)) ∧
    (∀ g q rec, g < 64 * s.partCount → q < 8 → rec.length = 32 →
      let ok := s.queueValueOk g (leNat rec) = true
      (¬ ok → exec (.queueConfigWrite owner g q rec) s = turned 0x0B) ∧
      (ok → recEnable (s.queueRec g q) = false → recEnable (leNat rec) = true → (s.ctx g).st = .active →
        (s.queue g q).st = .disabled → exec (.queueConfigWrite owner g q rec) s =
          done ((s.setCfg (0x3200 + g) (q + 1) rec).modQueue g q fun u =>
            { st := .running, lastInt := u.lastInt, intDue := u.intDue })) ∧
      (ok → recEnable (s.queueRec g q) = false → recEnable (leNat rec) = true → (s.ctx g).st ≠ .active →
        exec (.queueConfigWrite owner g q rec) s = turned 0x0C)) ∧
    (∀ g (v : BitVec 64), g < 64 * s.partCount → (s.ctx g).hasWork = false →
      (v.toNat % 4096 = 0 → exec (.stashTableWrite owner g false v) s =
        done ((s.setCfg (0x3600 + g) 0x20 (leBytes 8 v.toNat)).initStash g)) ∧
      (v.toNat % 4096 ≠ 0 → exec (.stashTableWrite owner g false v) s = turned 0x0B) ∧
      (v.toNat ≤ 16384 → exec (.stashTableWrite owner g true v) s =
        done ((s.setCfg (0x3600 + g) 0x21 (leBytes 2 v.toNat)).initStash g)) ∧
      (v.toNat ≤ 65536 → s.allIdle g = true → exec (.kvConfigWrite owner g 0x31 v) s =
        done ((s.setCfg (0x3600 + g) 0x31 (leBytes 4 v.toNat)).startCache g)) ∧
      (v.toNat ≤ 65536 → s.allIdle g = false → exec (.kvConfigWrite owner g 0x31 v) s = turned 0x0C)) ∧
    (∀ v : BitVec 8,
      let absent := ∀ p, p < 8 → (s.part p).st = .absent
      (v.toNat ≤ 3 → absent → ∃ t, exec (.shapeWrite owner v) s = .next t ∧ t.lastAbort = 0 ∧ t.shape = v.toNat ∧
        t = { s with store := t.store, lastAbort := 0 }) ∧
      (v.toNat ≤ 3 → ¬ absent → exec (.shapeWrite owner v) s = turned 0x0C) ∧
      (3 < v.toNat → exec (.shapeWrite owner v) s = turned 0x09)) ∧
    (∀ p table, p < s.partCount → table.length = 1024 →
      let ok := tableOk (s.cfg (0x3020 + p) 1) s.dieCount table = true
      let exists_ := (s.part p).st ≠ .absent ∧ (s.part p).st ≠ .destroying
      (ok → exists_ → exec (.slotTableWrite owner p table) s = done ((s.setCfg (0x3020 + p) 2 table).modPart p
        fun x => { x with tableNext := if x.st = .resetting then x.tableNext else table })) ∧
      (¬ ok → exec (.slotTableWrite owner p table) s = turned 0x0B) ∧
      (ok → ¬ exists_ → exec (.slotTableWrite owner p table) s = turned 0x0C)) ∧
    (∀ v : BitVec 16,
      (1600 ≤ v.toNat → v.toNat ≤ 3200 → exec (.pipBudgetWrite owner v) s = done (s.setCfg 0x2000 1 (leBytes 2 v.toNat))) ∧
      (v.toNat < 1600 → exec (.pipBudgetWrite owner v) s = turned 0x0A) ∧
      (3200 < v.toNat → exec (.pipBudgetWrite owner v) s = turned 0x09) ∧
      (∀ d, d < 8 → 500 ≤ v.toNat → v.toNat ≤ 1100 →
        exec (.coreMhzWrite owner d v) s =
          if v.toNat % 25 = 0 then done (s.setCfg (0x2400 + d) 1 (leBytes 2 v.toNat)) else turned 0x0B)) ∧
    (∀ port mode, port < 32 → mode ≤ 2 → ∃ t, exec (.portModeWrite owner port mode) s = .next t ∧ t.lastAbort = 0 ∧
      t.cfg (0x4000 + port) 1 = mode ∧ (t.port port).txKey = none ∧
      (t.port port).st = if mode = 0 then .off else if s.pwr.diePass.getLsbD (port / 4) then .training else .down) ∧
    (∀ p r e, p < 8 → r < s.ranks p → r < 2 ^ 18 → e < 2 ^ 32 → e / 2 ^ 21 % 2 ^ 10 = 0 →
      exec (.rankSet owner p (BitVec.ofNat 64 (r + e * 2 ^ 32))) s =
        done ((s.setCfg (0x4110 + p) 3 (putBytes (s.rankBytes p) (4 * r) (leBytes 4 e))).ranksChanged p)) ∧
    (exec (.domainEvent owner) s = done ((s.event 0x0053 (partCode 0 0) 0xFF []).qualify) ∧
     exec (.domainEvent { role := .observer }) s = turned 0x06) ∧
    ((s.sec.fwStaged = none → exec (.fwApply owner) s = turned 0x0C) ∧
     (∀ pkg, s.sec.fwStaged = some pkg →
       let b := 1 - s.sec.bank
       exec (.fwApply owner) s =
         if Config.packageSigned pkg = false then done { s with sec := { s.sec with fwStatus := 2 } }
         else if Config.packageSvn pkg < s.sec.svn then .next { s with sec := { s.sec with fwStatus := 3 }, lastAbort := 0x0B }
         else done { s with sec := { s.sec with fwStatus := 1, banks := mapSet s.sec.banks b pkg, nextBank := b } }) ∧
     (let v := Config.packageSvn s.running
      exec (.commitSvn owner) s = if 64 < v then turned 0x0C else done { s with sec := { s.sec with svn := max s.sec.svn v } })) ∧
    (∀ sub role, (sub = 2 ∧ role = .operator) ∨ (sub = 3 ∧ role = .observer) → ∀ a : Bytes, a.length = 48 →
      ∃ t, exec (.anchorWrite owner 0x5800 sub a) s = .next t ∧ t.lastAbort = 0 ∧ t.cfgBytes 0x5800 sub = a ∧
        t.sec.sessions = if s.cfgBytes 0x5800 sub = a then s.sec.sessions
          else s.sec.sessions.filter fun x => !(x.who == { role := role })) ∧
    ((∃ t, exec (.moduleReset owner) s = .next t ∧ t.pwr.phase = .booting ∧ t.now = s.now + 1000000 ∧ t.ctxs = [] ∧ t.parts = [] ∧
        t.sec.sessions = [] ∧ t.sec.svn = s.sec.svn ∧ t.log = {}) ∧
     exec (.moduleReset { role := .operator }) s = turned 0x06) ∧
    (∀ at_ n count rest, s.field.changes = (at_, n, count) :: rest → (∀ x ∈ rest, s.now < x.1) → exec .nodeIdApply s = .next (
      if at_ ≤ s.now then { s with field := { s.field with nodeId := n, plcaCount := count, changes := rest } } else s)) ∧
    ((∀ x ∈ s.field.changes, s.now < x.1) → exec .nodeIdApply s = .next s) ∧
    (s.fieldChange.field.changes = s.field.changes ++ [(s.now + 10000000, s.fieldNode, s.cfg 0x1200 3)])

/-- A partition is CREATING from ABSENT, draws its keys on ACTIVATE, is READY when its stacks read zero, RESETTING with its
contexts FREE and its memory kept, DESTROYING with its contexts stopped and its keys kept, and ABSENT with its memory zero, then its
cores' memories, then its keys (R408). A context is ACTIVE with its counters and queues zero from FREE, in TEARDOWN as long as a core
holds its work, and FREE with its entries at their defaults.
Completes: PART_CREATE, PART_ACTIVATE, ACTIVATE_COMPLETE, PART_RESET, PART_RESET_COMPLETE, PART_DESTROY, DESTROY_COMPLETE, CTX_CREATE,
CTX_TEARDOWN, TEARDOWN_COMPLETE, INVALIDATE. The model's choices in it: log 10, log 52, log 53, log 70. -/
def Obligations.Lifecycles : Prop :=
  ∀ s : State, s.pwr.phase = .serving →
    let owner : Who := { role := .owner }
    let turned (a : Nat) : Host.Outcome State Fault Refusal := .next { s with lastAbort := a }
    (∀ p, p < s.partCount →
      let x := s.part p
      let zeroed (t : State) := (∀ a, a / 2 ^ 48 = p → s.pwr.stackFail = 0 → cellGet t.hbm a = 0) ∧
        ∀ a, a / 2 ^ 48 ≠ p → cellGet t.hbm a = cellGet s.hbm a
      let freed (t : State) := ∀ g, (t.ctx g).st = if g / 64 = p then .free else (s.ctx g).st
      (x.st = .absent → ∃ t, exec (.partCreate owner p) s = .next t ∧ t.lastAbort = 0 ∧ t.part p = { x with st := .creating } ∧
        t.hbm = s.hbm ∧ t.ctxs = s.ctxs) ∧
      (x.st ≠ .absent → exec (.partCreate owner p) s = turned 0x0C) ∧
      (x.st = .creating → s.partReady p = true → s.sec.rngOk = true → ∃ t, exec (.partActivate owner p) s = .next t ∧
        t.lastAbort = 0 ∧ t.part p = { x with st := .activating, keys := some s.drawKeys.1 } ∧ t.hbm = s.hbm) ∧
      (x.st = .creating → s.partReady p = false → exec (.partActivate owner p) s = turned 0x0D) ∧
      (x.st = .creating → s.partReady p = true → s.sec.rngOk = false → exec (.partActivate owner p) s =
        .next { s.event 0x0071 (partCode 0 0) 0xFF [0x13, 0, 0] with lastAbort := 0x13 }) ∧
      (x.st ≠ .creating → exec (.partActivate owner p) s = turned 0x0C) ∧
      (x.st = .activating → s.pwr.shutdown = false → ∃ t, exec (.activateComplete p) s = .next t ∧ (t.part p).st = .ready ∧ (t.part p).origin = s.now ∧
        (t.part p).keys = x.keys ∧ (t.part p).resets = 0 ∧ (t.part p).cause = 0 ∧ zeroed t ∧ t.ctxs = s.ctxs) ∧
      (x.st ≠ .activating → exec (.activateComplete p) s = .next s) ∧
      (x.st = .ready → ∃ t, exec (.partReset owner p) s = .next t ∧ t.lastAbort = 0 ∧ (t.part p).st = .resetting ∧
        (t.part p).resets = min (x.resets + 1) 0xFFFFFFFF ∧ (t.part p).cause = 1 ∧ freed t ∧ t.hbm = s.hbm) ∧
      (x.st ≠ .ready → exec (.partReset owner p) s = turned 0x0C) ∧
      (x.st = .resetting → x.health = 0 → s.pwr.shutdown = false → ∃ t, exec (.partResetComplete p none) s = .next t ∧ t.part p = { x with
        st := .ready, tableNext := s.cfgBytes (0x3020 + p) 2 } ∧
        t.hbm = s.hbm) ∧
      (∀ u, x.st = .resetting → x.health = 0 → s.unitIn p u = true → ∃ t, exec (.partResetComplete p (some u)) s = .next t ∧
        t.part p = { x with health := 1 }) ∧
      (x.st = .creating ∨ x.st = .ready → ∃ t, exec (.partDestroy owner p) s = .next t ∧ t.lastAbort = 0 ∧
        (t.part p).st = .destroying ∧ freed t ∧ t.hbm = s.hbm ∧
        (∀ g, g / 64 = p → (t.secureOf g).key = (s.secureOf g).key) ∧
        ∀ d ∈ s.diesOf p, ∀ c ∈ coresOfDie d, (t.domain c).st = 0 ∨ (t.domain c).st = 3) ∧
      (x.st ≠ .creating → x.st ≠ .ready → exec (.partDestroy owner p) s = turned 0x0C) ∧
      (x.st = .destroying → ∃ t, exec (.destroyComplete p) s = .next t ∧ t.part p = { health := x.health } ∧ zeroed t ∧
        (∀ g, g / 64 = p → t.ctx g = {}) ∧
        ∀ d ∈ s.diesOf p, ∀ c ∈ coresOfDie d, (t.core c).mem = {} ∧ (t.core c).residue = none) ∧
      (x.st ≠ .destroying → exec (.destroyComplete p) s = .next s)) ∧
    (∀ g, g < 64 * s.partCount →
      let ready := (s.part (g / 64)).st = .ready
      let x := s.ctx g
      (ready → x.st = .free → ∃ t, exec (.ctxCreate owner g) s = .next t ∧ t.lastAbort = 0 ∧ (t.ctx g).st = .active ∧
        (t.ctx g).queues = [] ∧ (∀ n, t.counter g n = 0) ∧ (t.ctx g).busyNs = 0 ∧ (t.ctx g).createdAt = s.ctxTime g ∧
        (t.ctx g).faultStatus = 0 ∧ OthersKept g s t) ∧
      (¬ ready ∨ x.st ≠ .free → exec (.ctxCreate owner g) s = turned 0x0C) ∧
      (ready → x.st = .active ∨ x.st = .faulted → ∃ t, exec (.ctxTeardown owner g) s = .next t ∧ t.lastAbort = 0 ∧
        (t.ctx g).st = .teardown ∧ (t.ctx g).colls = [] ∧ (∀ n, t.counter g n = s.counter g n) ∧ OthersKept g s t) ∧
      (ready → x.st = .teardown → exec (.ctxTeardown owner g) s = .next { s with lastAbort := 0 }) ∧
      (¬ ready ∨ x.st = .free → exec (.ctxTeardown owner g) s = turned 0x0C) ∧
      (let ended := x.st = .teardown ∧ ∀ kv ∈ s.cores, ∀ k, kv.2.tile = some k → k.g ≠ g
       (ended → ∃ t, exec (.teardownComplete g) s = .next t ∧ t.ctx g = {} ∧ OthersKept g s t ∧
         ∀ base ∈ [0x3200, 0x3400, 0x3600, 0x5100], ∀ sub, sub < 256 →
           t.cfgBytes (base + g) sub = State.reset.cfgBytes (base + g) sub)) ∧
      (∀ kv k, x.st = .teardown → kv ∈ s.cores → kv.2.tile = some k → k.g = g → exec (.teardownComplete g) s = .next s) ∧
      (x.st ≠ .teardown → exec (.teardownComplete g) s = .next s) ∧
      (ready → exec (.invalidate owner g) s = .next { s.dropXlat g with lastAbort := 0 }) ∧
      (¬ ready → exec (.invalidate owner g) s = turned 0x0C))

/-! ### Requests and sessions -/

/-- A request that arrives in no MCTP wrapper, opens, is accepted in its session and is no repetition is executed and answered: READ with a value of up
to 1,024 bytes from its OFFSET, WRITE at once, WRITE_BEGIN, WRITE_PART and WRITE_END through the channel's one staged write, and
CANCEL by forgetting it. A longer value is read from a snapshot that the read from OFFSET 0 takes. A frame that breaks R451 is
BAD_FRAME; a ROUTE packet's frame that it may not carry is ROLE and does nothing; a repetition is answered again without being
executed. A staged write or snapshot without a request for 1 s is gone, and what still names it is TIMEOUT. Completes: READ, WRITE,
WRITE_BEGIN, WRITE_PART, WRITE_END, CANCEL, STAGED_TIMEOUT. The model's choices in it: log 62, log 68, log 69. -/
def Obligations.DictionaryRequests : Prop :=
  ∀ (s t : State) src w r o, s.serving = true → s.arrive src w = some (t, some r) → t.unwrap r.src r.wrapper = some o →
    fld r.wrapper 0 4 ≠ 0xFFFFFFFF → clearRefused r.src o = false →
    let f := frameOf o.body
    let u := t.seen r.src o true
    let c := t.chan r.src o.sid
    let answer (a : Nat) (data : Bytes) (x : State) (k : Chan) : Host.Outcome State Fault Refusal :=
      .next (reply r o f { abort := a, data := data, state := x, chan := k })
    let own := sourceChannel src
    let mayRoute := f.op = 2 ∧ (f.index = 0x4100 ∨ (0x4110 ≤ f.index ∧ f.index < 0x4118))
    let accepted := c.stored o f = none ∧ t.seqOk r.src o = true
    let fresh := accepted ∧ (r.route = true → mayRoute)
    let gone (x : Option (Nat × Nat)) : Nat := if x = some (f.index, f.sub) then 0x10 else 0x0F
    let spent (x : Option (Nat × Nat)) : Option (Nat × Nat) := if x = some (f.index, f.sub) then none else x
    (∀ resp, c.stored o f = some resp → rowOp f = 1 → exec (.read src w) s = .next ((t.seen r.src o false).respond r resp)) ∧
    (accepted → f.ok = false → rowOp f = 1 → exec (.read src w) s = answer 0x01 [] u c) ∧
    (accepted → r.route = true → f.ok = true → f.op = 6 → exec (.cancel src w) s = answer 0x06 [] u c) ∧
    (fresh → f.ok = true → f.op = 1 → ∀ x v y, u.readTarget o.who f.index f.sub = .ok x → (x.grp ≠ .log ∨ f.sub ≠ 3) → c.snap = none →
      u.readValue o.sid x f.index f.sub = (v, y) → v.length ≤ 1024 →
      exec (.read src w) s = answer 0x00 (slice v f.offset f.length) y c) ∧
    (fresh → f.ok = true → f.op = 1 → ∀ x v y, u.readTarget o.who f.index f.sub = .ok x → (x.grp ≠ .log ∨ f.sub ≠ 3) →
      u.readValue o.sid x f.index f.sub = (v, y) → 1024 < v.length →
      (f.offset = 0 → exec (.read src w) s = answer 0x00 (v.take f.length) y { c with
        snap := some { index := f.index, sub := f.sub, value := v, lastAt := u.now }, snapGone := none }) ∧
      (∀ z, f.offset ≠ 0 → c.snap = some z → z.index = f.index → z.sub = f.sub → exec (.read src w) s =
        answer 0x00 (slice z.value f.offset f.length) u { c with snap := some { z with lastAt := u.now } }) ∧
      (f.offset ≠ 0 → c.snap = none → exec (.read src w) s =
        answer (gone c.snapGone) [] u { c with snapGone := spent c.snapGone })) ∧
    (fresh → f.ok = true → f.op = 1 → ∀ a, u.readTarget o.who f.index f.sub = .error a → exec (.read src w) s = answer a [] u c) ∧
    (fresh → f.ok = true → f.op = 2 →
      let m := u.writeEntry o.who o.sid (u.isFm r.src) f.index f.sub f.data
      exec (.write src w) s = answer m.1 [] m.2 c) ∧
    (fresh → f.ok = true → f.op = 3 → ∀ x, u.writeTarget o.who o.sid (u.isFm r.src) f.index f.sub f.offset = .ok x →
      u.notServed x f.sub = false → exec (.writeBegin src w) s = answer 0x00 [] u { c with
        staged := some { index := f.index, sub := f.sub, total := f.offset, lastAt := u.now }, stagedGone := none }) ∧
    (fresh → f.ok = true → f.op = 4 → ∀ x z, u.writePerm o.who o.sid (u.isFm r.src) f.index f.sub = .ok x → c.staged = some z →
      z.index = f.index → z.sub = f.sub →
      (z.fits f.offset f.data.length = true → exec (.writePart src w) s =
        answer 0x00 [] u { c with staged := some { z with parts := z.parts ++ [(f.offset, f.data)], lastAt := u.now } }) ∧
      (z.fits f.offset f.data.length = false → exec (.writePart src w) s =
        answer 0x0F [] u { c with staged := some { z with lastAt := u.now } })) ∧
    (fresh → f.ok = true → f.op = 4 → ∀ x, u.writePerm o.who o.sid (u.isFm r.src) f.index f.sub = .ok x → c.staged = none →
      exec (.writePart src w) s = answer (gone c.stagedGone) [] u { c with stagedGone := spent c.stagedGone }) ∧
    (fresh → f.ok = true → f.op = 5 → ∀ x z, u.writePerm o.who o.sid (u.isFm r.src) f.index f.sub = .ok x → c.staged = some z →
      z.index = f.index → z.sub = f.sub →
      let whole := (z.parts.map fun y => y.2.length).sum = z.total
      let m := u.writeEntry o.who o.sid (u.isFm r.src) f.index f.sub z.value
      (whole → exec (.writeEnd src w) s = answer m.1 [] m.2 { c with staged := none }) ∧
      (¬ whole → exec (.writeEnd src w) s = answer 0x0F [] u { c with staged := none })) ∧
    (fresh → f.ok = true → f.op = 6 → exec (.cancel src w) s = answer 0x00 [] u { c with staged := none, snap := none }) ∧
    (∀ sid, exec (.stagedTimeout src sid) s = .next { s with chans := s.chans.map fun c =>
      if c.src = own ∧ c.session = sid then
        let late (at_ : Nat) : Bool := at_ + 1000000000 ≤ s.now
        let st : Bool := c.staged.any fun x => late x.lastAt
        let sn : Bool := c.snap.any fun x => late x.lastAt
        { c with staged := if st then none else c.staged, stagedGone := if st then c.staged.map fun x => (x.index, x.sub) else c.stagedGone,
                 snap := if sn then none else c.snap, snapGone := if sn then c.snap.map fun x => (x.index, x.sub) else c.snapGone }
      else c })

/-- On a carrier that reaches MD: versions and capabilities are answered, the four algorithms are agreed or refused, and certificates,
challenges, measurements and key exchanges need them agreed. A session opens when its signature verifies and takes the role its
chain's root gives; a session's messages need it open; it ends on END_SESSION, on a bad signature, which takes a port DOWN, and after
600 s of silence. A failed random source gives no key. An answer leaves on the connection's carrier: as it stands on PCIe, in a
wrapper of R402 on the field port. Completes: GET_VERSION, GET_CAPABILITIES, NEGOTIATE_ALGORITHMS, GET_DIGESTS, GET_CERTIFICATE,
CHALLENGE, GET_MEASUREMENTS, KEY_EXCHANGE, ENCAPSULATED_REQUEST, SPDM_FINISH, KEY_UPDATE, SPDM_HEARTBEAT, END_SESSION, SESSION_TIMEOUT.
The model's choices in it: log 1, log 21, log 22, log 67. -/
def Obligations.SpdmMessages : Prop :=
  ∀ (s : State) (c : Conn),
    let say (t : State) (m : SpdmOut) : State := t.spdmSend m
    let k := connChannel c
    let signed (b : Bytes) : Bytes := Config.aliasSign (s.sec.aliasKey.getD 0) b
    let chain := Config.certChain (s.sec.identity.getD 0) (s.sec.aliasKey.getD 0)
    let agreed (m : SpdmOut) : Host.Outcome State Fault Refusal :=
      .next (say s (if k ∈ s.sec.negotiated then m else .error c 0x04))
    let others := s.sec.negotiated.filter (· != k)
    (∀ m h, m.carrier = (none, .dict (.host h)) → s.spdmSend m = { s with sec := { s.sec with out := s.sec.out ++ [m] } }) ∧
    (∀ m a sport dport, m.carrier = (none, .dict (.field a sport dport)) → s.spdmSend m =
      { s with sec := { s.sec with out := s.sec.out ++ [m] }, answers := s.answers ++ [(.field a sport dport, mctpWrap (mctpOf m))] }) ∧
    (s.connUp c = true →
      exec (.getVersion c) s = .next (say { s with sec := { s.sec with negotiated := others } } (.version c)) ∧
      exec (.getCapabilities c) s = .next (say s (.capabilities c)) ∧
      (∀ l, exec (.negotiateAlgorithms c l) s = .next (
        if 1 ∈ l ∧ 2 ∈ l ∧ 3 ∈ l ∧ 4 ∈ l then say { s with sec := { s.sec with negotiated := others ++ [k] } } (.algorithms c)
        else say s (.error c 0x01))) ∧
      exec (.getDigests c) s = agreed (.digests c (sha384 chain)) ∧
      (∀ off n, exec (.getCertificate c off n) s = agreed (.certificate c (slice chain off n))) ∧
      (∀ n, exec (.challenge c n) s = agreed (.challengeAuth c (signed (leBytes 32 n.toNat)))) ∧
      (∀ i n, 1 ≤ i → i ≤ 7 → exec (.getMeasurements c i n) s =
        agreed (.measurements c [(i, s.measure i)] (signed (leBytes 32 n.toNat ++ s.measure i)))) ∧
      (∀ i n, 7 < i → i ≠ 0xFF → exec (.getMeasurements c i n) s = agreed (.error c 0x01)) ∧
      (∀ id key tx,
        let fresh := id ≠ 0 ∧ id.toNat ≠ 0xFFFFFFFF ∧ ∀ x ∈ s.sec.sessions, x.id ≠ id
        (¬ fresh → exec (.keyExchange c id key tx) s = agreed (.error c 0x01)) ∧
        (fresh → s.sessionsFull c = true → exec (.keyExchange c id key tx) s = agreed (.error c 0x0A)) ∧
        (fresh → s.sessionsFull c = false → s.sec.rngOk = false → exec (.keyExchange c id key tx) s = agreed (.error c 0x05)) ∧
        (fresh → s.sessionsFull c = false → s.sec.rngOk = true → k ∈ s.sec.negotiated → exec (.keyExchange c id key tx) s =
          .next (say { s with sec := { s.sec with sessions := s.sec.sessions ++
            [{ id := id, conn := k, key := key, txKey := tx, lastAt := s.now }] } }
            (.keyExchangeRsp c id (signed (sessionMessage id key tx)))))) ∧
      (∀ id x, s.sessionOn c id = some x →
        let change (f : Session → Session) : State :=
          { s with sec := { s.sec with sessions := s.sec.sessions.map fun y => if y.conn = k ∧ y.id = id then f y else y } }
        let gone := s.endSessions fun y => y.conn == k && y.id == id
        (∀ ch, exec (.encapsulatedRequest c id ch) s = .next (
          if x.isOpen then say s (.error c 0x04)
          else say (change fun y => { y with chain := some ch, root := ch.root }) (.encapsulatedAck c id))) ∧
        (∀ sig ch d, x.isOpen = false → x.chain = some ch → c = .dict d → exec (.spdmFinish c id sig) s = .next (
          if Config.chainVerify ch.bytes (sessionMessage id x.key x.txKey) sig then
            say (change fun y => { y with isOpen := true, who := s.whoOf y.root, lastAt := s.now }) (.finishRsp c id)
          else say gone (.error c 0x06))) ∧
        (∀ sig ch p, x.isOpen = false → x.chain = some ch → c = .port p → exec (.spdmFinish c id sig) s = .next (
          if Config.chainVerify ch.bytes (sessionMessage id x.key x.txKey) sig then
            say ((change fun y => { y with isOpen := true, who := { role := .none }, lastAt := s.now }).installKeys p x.key x.txKey)
              (.finishRsp c id)
          else (say gone (.error c 0x06)).dropPort p .down)) ∧
        (∀ d key tx, c = .dict d → exec (.keyUpdate c id key tx) s = .next (
          if x.isOpen then
            if s.sec.rngOk then say (change fun y => { y with key := key, txKey := tx, lastAt := s.now }) (.keyUpdateAck c id)
            else say s (.error c 0x05)
          else say s (.error c 0x02))) ∧
        (∀ p key tx, c = .port p → x.isOpen = true → s.sec.rngOk = true → exec (.keyUpdate c id key tx) s = .next (
          say (s.modPort p fun y => if y.live then { y with rxNext := some key } else y) (.keyUpdateAck c id))) ∧
        exec (.spdmHeartbeat c id) s = .next (
          if x.isOpen then say (change fun y => { y with lastAt := s.now }) (.heartbeatAck c id) else say s (.error c 0x02)) ∧
        exec (.endSession c id) s = .next (if x.isOpen then say gone (.endSessionAck c id) else say s (.error c 0x02)))) ∧
    (s.connUp c = false → exec (.getVersion c) s = .next s ∧ exec (.getCapabilities c) s = .next s ∧
      (∀ l, exec (.negotiateAlgorithms c l) s = .next s) ∧ exec (.getDigests c) s = .next s ∧
      (∀ i n, exec (.getMeasurements c i n) s = .next s) ∧ (∀ id k x, exec (.keyExchange c id k x) s = .next s) ∧
      (∀ id sig, exec (.spdmFinish c id sig) s = .next s) ∧ (∀ id, exec (.endSession c id) s = .next s)) ∧
    (∀ id, ∃ t, exec (.sessionTimeout id) s = .next t ∧ t = { s with sec := t.sec, chans := t.chans } ∧
      ∀ x, x ∈ t.sec.sessions ↔ x ∈ s.sec.sessions ∧
        ¬ (x.id = id ∧ x.requester = false ∧ (∃ d, x.conn = .dict d) ∧ x.lastAt + 600000000000 ≤ s.now))

/-- In an open dictionary session: a read of DEBUG_NONCE by OWNER, OPERATOR or OBSERVER keeps a fresh nonce; a token signed over it
within 60 s destroys every partition, unlocks debug and takes every port DOWN, and any other token is BAD_VALUE; OWNER_ANCHOR is
claimed while it is zero, and a zero write by OWNER releases the module. Outside a session all three are AUTH.
Completes: DEBUG_NONCE, DEBUG_TOKEN, OWNER_ANCHOR. The model's choices in it: log 4 (the free value and its counter), log 61, log 66,
log 71. -/
def Obligations.ClaimsAndDebug : Prop :=
  ∀ (s : State) id, s.pwr.phase = .serving →
    let turned : Host.Outcome State Fault Refusal := .next { s with lastAbort := 0x11 }
    (s.sessionById id = none → exec (.debugNonce id) s = turned ∧ (∀ b, exec (.debugToken id b) s = turned) ∧
      ∀ a, exec (.ownerAnchor id a) s = turned) ∧
    (∀ x, s.sessionById id = some x →
      (isStaff x.who.role = true → ∃ t, exec (.debugNonce id) s = .next t ∧ t.lastAbort = 0 ∧ t.free = s.free + 1 ∧
        t.sec.nonces = (s.sec.nonces.filter fun y => s.now ≤ y.2.2 + 60000000000) ++ [((Config.freeValue s.free).truncate 128, id, s.now)] ∧ t.hbm = s.hbm) ∧
      (∀ b, x.who.role = .owner → b.length = 96 → s.tokenOk id b = true → ∃ t, exec (.debugToken id b) s = .next t ∧
        t.lastAbort = 0 ∧ t.sec.lock = true ∧ t.sec.debugHash = sha384 b ∧ t.sec.nonces = [] ∧
        (∀ p, p < 8 → (t.part p).st = .absent) ∧ ∀ p, p < 32 → (t.port p).st = .down) ∧
      (∀ b, x.who.role = .owner → b.length = 96 → s.tokenOk id b = false → ∃ t, exec (.debugToken id b) s = .next t ∧
        t.lastAbort = 0x0B ∧ t.sec.lock = s.sec.lock ∧ t.parts = s.parts ∧ t.ports = s.ports ∧ t.hbm = s.hbm) ∧
      (∀ a : Bytes, x.who.role = .none → id ≠ 0 → allZero (s.cfgBytes 0x5800 1) = true → a.length = 48 → allZero a = false →
        ∃ t, exec (.ownerAnchor id a) s = .next t ∧ t.lastAbort = 0 ∧ t.cfgBytes 0x5800 1 = a ∧
          ∃ y ∈ t.sec.sessions, y.id = id ∧ y.who.role = .owner) ∧
      (∀ a : Bytes, x.who.role = .owner → a.length = 48 → allZero a = true → ∃ t, exec (.ownerAnchor id a) s = .next t ∧
        t.lastAbort = 0 ∧ t.sec.sessions = [] ∧ (∀ p, p < 8 → (t.part p).st = .absent)))

/-! ### Power, start-up and the pins -/

/-- Power-good starts module time at 0 and the boot; its loss, and RESET_N, leave what R395 keeps and nothing else. Boot serves the
dictionary from the bank that verifies, or the few entries of R397 when neither does. A die that passes its test counts and its
failing cores are fenced; a die or a stack that fails is recorded and logged. The field port takes its node ID. PERST# resets an interface; a link that
comes up makes it ready, and one that goes down is logged and faults each context on it that has descriptors left to fetch from host
memory, at the first of them (R57); a boot measures its anchors and derives its keys whichever bank it takes.
Completes:
POWER_GOOD, POWER_GOOD_LOSS, HOT_SWAP_OPEN, RESET_N_ASSERT, RESET_N_RELEASE, BOOT_COMPLETE, BUILT_IN_TEST_DONE, STACK_TRAINED,
FIELD_PORT_READY, PERST_ASSERT, PERST_RELEASE, HOST_LINK_DOWN, HOST_LINK_UP. The model's choices in it: log 21 (the alias key), log 37,
log 53, log 57, log 63 (what measurement 6 covers), log 65. -/
def Obligations.PowerAndStartUp : Prop :=
  ∀ s : State,
    let wiped (t : State) := t.ctxs = [] ∧ t.parts = [] ∧ t.ports = [] ∧ t.sec.sessions = [] ∧ t.log = {} ∧
      t.sec.svn = s.sec.svn ∧ t.doubler.risk = 1 ∧
      ∀ index sub, keyKept (key index sub) = true → t.cfgBytes index sub = s.cfgBytes index sub
    (∀ v, s.pwr.good = false → exec (.powerGood v) s = .next { s with pwr := { s.pwr with
      good := true, opened := false, time := 0, straps := v, phase := if s.pwr.resetHeld then s.pwr.phase else .booting,
      startedAt := if s.pwr.resetHeld then s.pwr.startedAt else 0 } }) ∧
    (∀ v, s.pwr.good = true → exec (.powerGood v) s = .next s) ∧
    (s.pwr.good = true → ∃ t, exec .powerGoodLoss s = .next t ∧ t.pwr.good = false ∧ t.now = 0 ∧ wiped t) ∧
    (s.pwr.good = false → exec .powerGoodLoss s = .next s) ∧
    (∃ t, exec .hotSwapOpen s = .next t ∧ t.pwr.good = false ∧ t.pwr.opened = true) ∧
    (∃ t, exec .resetNAssert s = .next t ∧ t.pwr.resetHeld = true ∧ t.now = s.now ∧
      (s.pwr.good = true → t.pwr.phase = .off ∧ wiped t)) ∧
    (exec .resetNRelease s = .next (
      if s.pwr.resetHeld then { s with pwr := { s.pwr with
        resetHeld := false, phase := if s.pwr.good then .booting else s.pwr.phase,
        startedAt := if s.pwr.good then s.now else s.pwr.startedAt } }
      else s)) ∧
    (∀ b0 b1 store, s.pwr.phase ≠ .booting → exec (.bootComplete b0 b1 store) s = .next s) ∧
    (∀ b0 b1, s.pwr.phase = .booting →
      let first := s.sec.nextBank % 2
      (∀ b, (if first = 0 then b0 else b1) = none → b = first →
        ∃ t, exec (.bootComplete b0 b1 true) s = .next t ∧ t.pwr.phase = .serving ∧ t.sec.bank = b ∧ t.sec.nextBank = b ∧
          t.pwr.bootNs = s.now ∧ t.pwr.ledgerOn = true ∧ t.log = s.log ∧ t.sec.identity = some Config.identityKey ∧
          t.sec.aliasKey = some (Config.aliasKey Config.identityKey ([1, 2, 3, 4, 5].map t.measure)) ∧
          t.measure 6 = sha384 (([1, 2, 3, 4].flatMap fun i => s.cfgBytes 0x5800 i) ++ leBytes 2 s.sec.svn) ∧
          (s.pwr.shutdown = false → ∀ n, n < 152 ∨ n = 184 ∨ n = 185 → (s.domain n).st = 0 → (t.domain n).st = 1)) ∧
      (∀ i, (if first = 0 then b0 else b1) = some i → (if first = 0 then b1 else b0) = none →
        ∃ t, exec (.bootComplete b0 b1 true) s = .next t ∧ t.pwr.phase = .serving ∧ t.sec.bank = 1 - first ∧
          t.pwr.bootNs = s.now ∧ t.log.next = s.log.next + 1) ∧
      (∀ i j, b0 = some i → b1 = some j → ∃ t, exec (.bootComplete b0 b1 true) s = .next t ∧ t.pwr.phase = .limited ∧
        t.pwr.bootNs = s.pwr.bootNs ∧ t.log.next = s.log.next + 2 ∧ t.sec.bank = s.sec.bank ∧
        t.sec.identity = some Config.identityKey ∧
        t.sec.aliasKey = some (Config.aliasKey Config.identityKey ([1, 2, 3, 4, 5].map t.measure)) ∧
        t.measure 6 = sha384 (([1, 2, 3, 4].flatMap fun i => s.cfgBytes 0x5800 i) ++ leBytes 2 s.sec.svn))) ∧
    (∀ d ok, d < 8 → s.pwr.phase = .serving → s.pwr.shutdown = false → s.pwr.diePass.getLsbD d = false →
      s.pwr.dieFail.getLsbD d = false →
      ((s.domain (144 + d)).st = 2 → ∃ t, exec (.builtInTestDone d true ok) s = .next t ∧ t.pwr.diePass = setBit s.pwr.diePass d ∧
        t.pwr.dieFail = s.pwr.dieFail ∧ ∀ i, i < 18 → ok.getLsbD i = false → t.isFenced (18 * d + i) = true) ∧
      (∃ t, exec (.builtInTestDone d false ok) s = .next t ∧ t.pwr.dieFail = setBit s.pwr.dieFail d ∧
        t.pwr.diePass = s.pwr.diePass ∧ (d % 4 = 0 → (t.hif (d / 4)).failed = true) ∧
        ∃ r, t.log.recs.getLast? = some r ∧ r.cls = 0x0022 ∧ r.part = partCode 2 d)) ∧
    (∀ k, k < 24 → s.pwr.phase = .serving → s.pwr.shutdown = false → s.pwr.stackReady.getLsbD k = false →
      s.pwr.stackFail.getLsbD k = false →
      ((s.domain (152 + k)).st = 2 → ∃ t, exec (.stackTrained k true) s = .next t ∧
        t.pwr.stackReady = setBit s.pwr.stackReady k ∧ (t.stack k).selfRefresh = true) ∧
      exec (.stackTrained k false) s = .next (({ s with pwr := { s.pwr with stackFail := setBit s.pwr.stackFail k } }).event 0x0014
        (partCode 3 k) (s.partByte (k / 3)) [2])) ∧
    (exec .fieldPortReady s = .next (
      if s.serving ∧ s.pwr.fieldReady = false then
        { s with pwr := { s.pwr with fieldReady := true },
                 field := { s.field with nodeId := s.fieldNode, plcaCount := s.cfg 0x1200 3 } }
      else s)) ∧
    (∀ h, h < 2 →
      let i := s.hif h
      let may := i.ready = false ∧ i.perst = false ∧ i.failed = false ∧ s.pwr.phase = .serving ∧ (s.domain (184 + h)).st = 2 ∧
        s.pwr.diePass.getLsbD (4 * h) = true
      (∃ t, exec (.perstAssert h) s = .next t ∧ (t.hif h).perst = true ∧ (t.hif h).ready = false ∧ (t.hif h).busy = false ∧
        ∀ c ∈ t.chans, c.src = .host h → c.staged = none ∧ c.snap = none) ∧
      exec (.perstRelease h) s = .next (s.modHif h fun i => { i with perst := false }) ∧
      (i.ready = false → exec (.hostLinkDown h) s = .next s) ∧
      (i.ready = true → ∃ t, exec (.hostLinkDown h) s = .next t ∧ (t.hif h).ready = false ∧ (t.hif h).linkUp = false ∧
        (t.hif h).heldInts = [] ∧ (∃ r, t.log.recs.getLast? = some r ∧ r.cls = 0x0060 ∧ r.part = partCode 5 h) ∧
        (∀ g q, (∃ kv ∈ s.ctxs, kv.1 = g) → s.hostIfOf g = h → g / 64 < 8 → (List.range 8).find? (s.unfetched g) = some q →
          (t.ctx g).st = .faulted ∧ (t.ctx g).faultStatus = 0x1B ∧
          (t.ctx g).faultAt = q * 2 ^ 61 + (s.queue g q).takenSeq + 1) ∧
        (∀ g, s.hostIfOf g ≠ h → t.ctx g = s.ctx g) ∧
        (∀ g, (∀ q, q < 8 → s.unfetched g q = false) → (t.ctx g).st = (s.ctx g).st)) ∧
      (∀ speed width, may → 1 ≤ speed → speed ≤ 6 → 1 ≤ width → width ≤ 16 → ∃ t, exec (.hostLinkUp h speed width) s = .next t ∧
        (t.hif h).ready = true ∧ (t.hif h).speed = speed ∧ (t.hif h).width = width ∧ t.hbm = s.hbm ∧
        ∀ g, (t.ctx g).st = (s.ctx g).st) ∧
      (∀ speed width, ¬ may → exec (.hostLinkUp h speed width) s = .next s))

/-! ### Temperatures -/

/-- The median of the last three samples of a sensor is what its consumers see; a median out of its range, or 5 ms of silence
since its last sample or the start of start-up, fails the sensor, is logged and qualifies. A die at 110 degrees is capped at 500 MHz
with its alert; a stack's thermal state rises at once and falls past each state whose bound less 3 degrees it has reached; each
millisecond the cap falls by
25 MHz at 100 degrees and rises by 25 below 97. A die or stack that has read 115 degrees or more for 1 ms switches every domain off, after
which no queue does anything. Completes: SENSOR_SAMPLE, SENSOR_TIMEOUT, THERMAL_CAP_STEP, THERMAL_SHUTDOWN. The model's choices in it: log 9, log 38. -/
def Obligations.SensorsAndHeat : Prop :=
  ∀ s : State,
    let told (t : State) (x : Sensor) (cause : Nat) := ∃ r ∈ t.log.recs, r.seq = s.log.next ∧ r.cls = 0x0048 ∧
      r.part = (sensorPart x).1 ∧ r.detail = [BitVec.ofNat 8 (sensorPart x).2, BitVec.ofNat 8 cause]
    (∀ x reading rating,
      let y := s.sensorSt x
      let dead := s.pwr.good = false ∨ sensorExists x = false ∨ y.failed = true
      let z := { y with samples := (reading :: y.samples).take 3, lastAt := s.now }
      (dead → exec (.sensorSample x reading rating) s = .next s) ∧
      (¬ dead → y.samples.length < 2 →
        exec (.sensorSample x reading rating) s = .next (s.setSensor x z)) ∧
      (∀ a b rest, y.samples = a :: b :: rest → ¬ dead → inRange x (median3 reading a b) rating = false →
        ∃ t, exec (.sensorSample x reading rating) s = .next t ∧ t.doubler.risk = min 64 (2 * s.doubler.risk) ∧
          (t.sensorSt x).failed = true ∧ told t x 0) ∧
      (∀ a b rest m, y.samples = a :: b :: rest → ¬ dead → m = median3 reading a b → inRange x m rating = true →
        (∀ d, x = .dieTemp d → ∃ t, exec (.sensorSample x reading rating) s = .next t ∧ (t.die d).temp = m ∧
          (m < 115000 → (t.die d).hotSince = none) ∧
          (115000 ≤ m → (t.die d).hotSince = some ((s.die d).hotSince.getD s.now)) ∧
          (d < 8 → 110000 ≤ m → (t.die d).cap = 500 ∧ (t.die d).alert = true) ∧
          (d < 8 → m < 110000 → (t.die d).cap = (s.die d).cap ∧ (t.die d).alert = ((s.die d).alert && decide (97000 ≤ m)))) ∧
        (∀ k, x = .stackTemp k →
          let old := (s.stack k).thermal
          ∃ t, exec (.sensorSample x reading rating) s = .next t ∧ (t.stack k).temp = m ∧
            (m < 115000 → (t.stack k).hotSince = none) ∧
            (115000 ≤ m → (t.stack k).hotSince = some ((s.stack k).hotSince.getD s.now)) ∧
            (old ≤ thermalRaw m → (t.stack k).thermal = thermalRaw m) ∧
            (thermalRaw m < old →
              let new := (t.stack k).thermal
              thermalRaw m ≤ new ∧ new ≤ old ∧ (new = thermalRaw m ∨ thermalFloor new - 3000 < m) ∧
              ∀ n, new < n → n ≤ old → m ≤ thermalFloor n - 3000)))) ∧
    (∀ x,
      let y := s.sensorSt x
      let due := s.pwr.good = true ∧ s.pwr.phase ≠ .off ∧ sensorExists x = true ∧ y.failed = false ∧
        y.lastAt + 5000000 ≤ s.now ∧ s.pwr.startedAt + 5000000 ≤ s.now
      (due → ∃ t, exec (.sensorTimeout x) s = .next t ∧ (t.sensorSt x).failed = true ∧
        t.doubler.risk = min 64 (2 * s.doubler.risk) ∧ told t x 1) ∧
      (∀ d, due → x = .dieTemp d → d < 8 → ∃ t, exec (.sensorTimeout x) s = .next t ∧ (t.die d).cap = 500 ∧ (t.die d).temp = 150000) ∧
      (¬ due → exec (.sensorTimeout x) s = .next s)) ∧
    (∀ d, d < 8 →
      let x := s.die d
      let mhz := s.cfg (0x2400 + d) 1
      let due := ∀ a, x.capAt = some a → a + 1000000 ≤ s.now
      let capped (n : Nat) : State := s.modDie d fun y => { y with cap := n, capAt := some s.now }
      (due → 100000 ≤ x.temp → exec (.thermalCapStep d) s = .next (capped (max 500 (min x.cap mhz - 25)))) ∧
      (due → x.temp < 97000 → exec (.thermalCapStep d) s = .next (capped (if mhz ≤ x.cap + 25 then 1100 else x.cap + 25))) ∧
      (97000 ≤ x.temp → x.temp < 100000 → exec (.thermalCapStep d) s = .next s) ∧
      (¬ due → exec (.thermalCapStep d) s = .next s)) ∧
    (∀ onStack unit,
      let x : Sensor := if onStack then .stackTemp unit else .dieTemp unit
      let hot := s.pwr.good = true ∧ s.pwr.shutdown = false ∧ sensorExists x = true ∧ (s.sensorSt x).failed = false ∧
        ∃ a, (if onStack then (s.stack unit).hotSince else (s.die unit).hotSince) = some a ∧ a + 1000000 ≤ s.now
      (hot → ∃ t, exec (.thermalShutdown onStack unit) s = .next t ∧ t.pwr.shutdown = true ∧ t.pwr.ledgerOn = false ∧
        (∀ n, n < 186 → (t.domain n).st = 0 ∨ (t.domain n).st = 3) ∧ (∀ p, p < 32 → (t.port p).live = false) ∧ t.hbm = s.hbm) ∧
      (¬ hot → exec (.thermalShutdown onStack unit) s = .next s)) ∧
    (s.pwr.shutdown = true → ∀ g q seq, exec (.descriptorTake g q) s = .next s ∧ exec (.descriptorStart g q) s = .next s ∧
      exec (.waitSatisfied g q seq) s = .next s ∧ exec (.waitTimeout g q seq) s = .next s ∧
      exec (.descriptorFinish g q seq) s = .next s ∧ exec (.completionRecordWrite g q) s = .next s)

/-! ### Power delivery -/

/-- The pips of the pool, divided by demand: the allotments together do not pass the pool, and every die has its minimum when the
minimums fit. PIP_DIVISION gives each die its allotment and changes nothing else, once in each aligned 100 microseconds of module
time. Completes: PIP_DIVISION. -/
def Obligations.PipsDivided : Prop :=
  (∀ (pool : Nat) demand mins, demand.length = 8 → mins.length = 8 →
    let a := divide pool demand mins
    a.length = 8 ∧ a.sum ≤ pool ∧ (mins.sum ≤ pool → ∀ d, d < 8 → nth 0 mins d ≤ nth 0 a d)) ∧
  (∀ s : State,
    let a := divide s.pool ((List.range 8).map s.demand) ((List.range 8).map s.minimum)
    let window := s.now / 100000
    let due := s.pwr.ledgerOn = true ∧ s.pwr.dividedAt ≠ some window
    (due → ∃ t, exec .pipDivision s = .next t ∧ t = { s with dies := t.dies, pwr := { s.pwr with dividedAt := some window } } ∧
      ∀ d, t.die d = if d < 8 then { s.die d with allot := nth 0 a d } else s.die d) ∧
    (¬ due → exec .pipDivision s = .next s))

/-- A droop stretches the clock of a clocked dale, and the first of its rail in a second qualifies; the stretch ends after 100 ns above the threshold. A
calibration step takes 8 pips of an idle, unassigned core for 2 microseconds, 10 s after the core's last one, and trims its
threshold to 90 to 95 per cent. In each aligned 10 microsecond interval a die admits at most 25 pips of ramping domains; a domain whose baseline is admitted is ON, and one whose rail does not rise has FAILED.
Completes: DROOP_TRIP, DROOP_STRETCH_END, DROOP_CALIBRATION, CALIBRATION_STEP_END, RAMP_INTERVAL, DOMAIN_ON.
The model's choices in it: log 40, log 60, log 97. -/
def Obligations.DroopAndRamps : Prop :=
  ∀ s : State,
    (∀ n,
      let x := s.dale n
      let runs := s.daleRuns n = true ∧ x.droopAt = none
      let rail := if n < 176 then n else if n < 208 then n / 4 * 4 else if n < 210 then n else 210
      let fresh := ∀ a, (s.dale rail).lastEvent = some a → a + 1000000000 ≤ s.now
      let t (first : Bool) : State := s.modDale n fun x =>
        { x with stretches := min (x.stretches + 1) 0xFFFFFFFF, droopAt := some s.now, droopRaised := first }
      (¬ runs → exec (.droopTrip n) s = .next s) ∧
      (runs → ¬ fresh → exec (.droopTrip n) s = .next (t false)) ∧
      (runs → fresh → exec (.droopTrip n) s = .next ((t true).modDale rail fun x => { x with lastEvent := some s.now }).qualify) ∧
      (∀ mv a, x.droopAt = some a → s.now < a + 100 → exec (.droopStretchEnd n mv) s = .next s) ∧
      (∀ mv a, x.droopAt = some a → a + 100 ≤ s.now → ∃ t, exec (.droopStretchEnd n mv) s = .next t ∧
        t.dale n = { x with droopAt := none, droopRaised := false } ∧ (x.droopRaised = false → t.log = s.log) ∧
        (x.droopRaised = true → t.log.next = s.log.next + 1)) ∧
      (∀ mv, x.droopAt = none → exec (.droopStretchEnd n mv) s = .next s)) ∧
    (∀ c,
      let k := s.core c
      let d := s.die (c / 18)
      let may := c < 144 ∧ (∀ a, k.calAt = some a → a + 10000000000 ≤ s.now) ∧ s.isFenced c = false ∧ (s.domain c).st = 2 ∧
        s.inHold c = false ∧ k.tile = none ∧ k.slot = none ∧ k.cal = none ∧ s.pwr.rampedAt = some (s.now / 10000) ∧
        d.granted + 8 ≤ d.allot ∧
        d.granted + 8 + d.ramped ≤ d.intervalBase + 25
      (may → ∃ t, exec (.droopCalibration c) s = .next t ∧ t.core c = { k with cal := some 8, calFrom := s.now } ∧
        t.die (c / 18) = { d with granted := d.granted + 8 }) ∧
      (¬ may → exec (.droopCalibration c) s = .next s) ∧
      (∀ droop pips, k.cal = some pips → k.calFrom + 2000 ≤ s.now → ∃ t, exec (.calibrationStepEnd c droop) s = .next t ∧
        t.core c = { k with cal := none, calAt := some s.now } ∧ (t.die (c / 18)).granted = d.granted - pips ∧
        (t.dale c).calDroop = droop ∧ 900 ≤ (t.dale c).threshold ∧ (t.dale c).threshold ≤ 950 ∧ t.hbm = s.hbm) ∧
      (∀ droop, k.cal = none ∨ s.now < k.calFrom + 2000 → exec (.calibrationStepEnd c droop) s = .next s)) ∧
    (let window := s.now / 10000
     let due := s.pwr.good = true ∧ s.pwr.shutdown = false ∧ s.pwr.rampedAt ≠ some window
     (due → ∃ t, exec .rampInterval s = .next t ∧ t.pwr.rampedAt = some window ∧
      (∀ d, d < 8 → (t.die d).ramped ≤ 25 ∧ (t.die d).granted = (s.die d).granted ∧ (t.die d).intervalBase = (s.die d).granted) ∧
      (∀ n, (t.domain n).st = (s.domain n).st ∧ (s.domain n).admitted ≤ (t.domain n).admitted ∧
        ((s.domain n).admitted ≤ baselineOf n → (t.domain n).admitted ≤ baselineOf n) ∧
        ((s.domain n).st ≠ 1 → t.domain n = s.domain n))) ∧
     (¬ due → exec .rampInterval s = .next s)) ∧
    (∀ n,
      let x := s.domain n
      let ramping := n < 186 ∧ x.st = 1
      (∀ rose, ¬ ramping → exec (.domainOn n rose) s = .next s) ∧
      (ramping → x.admitted = baselineOf n → exec (.domainOn n true) s = .next (s.modDomain n fun x => { x with st := 2 })) ∧
      (ramping → x.admitted ≠ baselineOf n → exec (.domainOn n true) s = .next s) ∧
      (ramping → ∃ t, exec (.domainOn n false) s = .next t ∧ (t.domain n).st = 3))

/-! ### Faults of units -/

/-- A core that detects its own fault is fenced: its work tile leaves it, its domain goes off, and a qualifying event is counted. A
hub, memory controller or die-to-die fault resets the partition it lies in with causes 2, 5 and 3; a link between two partitions
leaves service. A second regulator phase is FAILED. A col's overrun or time-out counts against its unit. A failed random source is
kept. Completes: CORE_FAULT, SPARE_CORE_TEST, DIE_CACHE_PARITY, DIE_HUB_FAULT, MC_FAULT, D2D_LINK_FAULT, D2D_LINK_RETRAINED,
REGULATOR_PHASE_FAILURE, RNG_HEALTH_FAIL, COL_OVERRUN, COL_TIMEOUT, COL_HOLD_TIMEOUT. The model's choices in it: log 37, log 39,
log 51, log 55, log 56, log 100. -/
def Obligations.UnitFaults : Prop :=
  ∀ s : State,
    (∀ c cause,
      let hit := c < 144 ∧ cause ≤ 2 ∧ (s.domain c).st ≠ 0 ∧ s.isFenced c = false
      (hit → ∃ t, exec (.coreFault c cause) s = .next t ∧ t.isFenced c = true ∧ (t.core c).tile = none ∧ t.isActive c = false ∧
        t.doubler.risk = min 64 (2 * s.doubler.risk) ∧ ((s.domain c).st ≠ 3 → (t.domain c).st = 0)) ∧
      (¬ hit → exec (.coreFault c cause) s = .next s) ∧
      (let spare := c < 144 ∧ s.isActive c = false ∧ s.isFenced c = false
       (spare → exec (.spareCoreTest c true) s = .next (s.modCore c fun k => { k with testOk := true })) ∧
       (spare → ∃ t, exec (.spareCoreTest c false) s = .next t ∧ t.isFenced c = true ∧ (t.core c).testOk = false) ∧
       (∀ ok, ¬ spare → exec (.spareCoreTest c ok) s = .next s))) ∧
    (∀ d line, ∃ t, exec (.dieCacheParity d line) s = .next t ∧ t = { s with dies := t.dies } ∧ (∀ k, k ≠ d → t.die k = s.die k) ∧
      t.die d = { s.die d with lines := (t.die d).lines } ∧ ∀ l, l ∈ (t.die d).lines ↔ l ∈ (s.die d).lines) ∧
    (∀ d unit, d < 8 → (s.part (s.partOfDie d)).st = .ready →
      (unit ≤ 12 ∨ unit = 15 → (s.domain (144 + d)).st ≠ 0 → ∃ t, exec (.dieHubFault d unit) s = .next t ∧
        (t.part (s.partOfDie d)).st = .resetting ∧ (t.part (s.partOfDie d)).cause = 2 ∧ t.hbm = s.hbm)) ∧
    (∀ d unit, d < 8 → unit = 13 ∨ unit = 14 ∨ 15 < unit ∨ (s.domain (144 + d)).st = 0 → exec (.dieHubFault d unit) s = .next s) ∧
    (∀ k kind, k < 24 → kind ≤ 2 → (s.domain (152 + k)).st ≠ 0 → (s.part (s.partOfDie (k / 3))).st = .ready →
      ∃ t, exec (.mcFault k kind) s = .next t ∧ (t.part (s.partOfDie (k / 3))).st = .resetting ∧
        (t.part (s.partOfDie (k / 3))).cause = 5 ∧ t.hbm = s.hbm) ∧
    (∀ n cause, n < 10 → cause ≤ 1 →
      let ds := diesOfLink n
      let p := s.partOfDie ds.1
      (p = s.partOfDie ds.2 → (s.part p).st = .ready → ∃ t, exec (.d2dLinkFault n cause) s = .next t ∧
        (t.part p).st = .resetting ∧ (t.part p).cause = 3) ∧
      (p ≠ s.partOfDie ds.2 → (s.link n).out = false → ∃ t, exec (.d2dLinkFault n cause) s = .next t ∧ (t.link n).out = true ∧
        (t.link n).retraining = true ∧ t.parts = s.parts) ∧
      (p ≠ s.partOfDie ds.2 → (s.link n).out = true → exec (.d2dLinkFault n cause) s = .next s)) ∧
    (∀ n,
      ((s.link n).retraining = false → ∀ ok, exec (.d2dLinkRetrained n ok) s = .next s) ∧
      ((s.link n).retraining = true → ∃ t, exec (.d2dLinkRetrained n true) s = .next t ∧ (t.link n).out = false ∧
        (t.link n).retraining = false ∧ t.hbm = s.hbm ∧ ∀ g, (t.ctx g).st = (s.ctx g).st) ∧
      ((s.link n).retraining = true → exec (.d2dLinkRetrained n false) s =
        .next ((s.modLink n fun x => { x with retraining := false }).event 0x0023 (partCode 8 n) 0xFF [1]))) ∧
    (∀ n phase, n < 186 → (s.domain n).st = 1 ∨ (s.domain n).st = 2 → phase ∉ (s.domain n).phases →
      let t := (s.modDomain n fun x => { x with phases := x.phases ++ [phase] }).event 0x0041 (partCode 6 n) 0xFF
        [BitVec.ofNat 8 phase]
      ((s.domain n).phases = [] → exec (.regulatorPhaseFailure n phase) s = .next t) ∧
      ((s.domain n).phases ≠ [] → ∃ u, exec (.regulatorPhaseFailure n phase) s = .next u ∧ (u.domain n).st = 3)) ∧
    (∀ test, exec (.rngHealthFail test) s =
      .next ({ s with sec := { s.sec with rngOk := false } }.event 0x0070 (partCode 2 8) 0xFF [BitVec.ofNat 8 test])) ∧
    (∀ a b, a < 214 → b < 214 → a ≠ b →
      let runs := s.daleRuns a = true ∧ s.daleRuns b = true
      (¬ runs → exec (.colOverrun a b) s = .next s) ∧
      (runs → 210 ≤ b → ∃ t, exec (.colOverrun a b) s = .next t ∧
        t.dale b = { s.dale b with overruns := a :: (s.dale b).overruns.erase a } ∧ t.log.next = s.log.next + 1) ∧
      (runs → b < 144 → s.isFenced b = false → ∃ t, exec (.colOverrun a b) s = .next t ∧ t.isFenced b = true) ∧
      (s.inHold a = false → s.inHold b = false → 210 ≤ b → ∃ t, exec (.colTimeout a b) s = .next t ∧
        t.dale b = { s.dale b with timeouts := min ((s.dale b).timeouts + 1) 0xFFFFFFFF } ∧ t.log.next = s.log.next + 1) ∧
      (s.inHold a = true ∨ s.inHold b = true → exec (.colTimeout a b) s = .next s) ∧
      (s.inHold a = false → s.inHold b = false → exec (.colHoldTimeout a b) s = .next s) ∧
      (s.inHold a = true ∨ s.inHold b = true → 208 ≤ b → b < 210 → ∃ t, exec (.colHoldTimeout a b) s = .next t ∧
        (t.hif (b - 208)).failed = true) ∧
      (s.inHold a = true ∨ s.inHold b = true → b < 144 → s.isFenced b = false → ∃ t, exec (.colHoldTimeout a b) s = .next t ∧
        t.isFenced b = true))
end

