-- ==== Sys2Proof/Laws/Maps.lean ====
section
/-! SUPPORT. Sys2Proof/Laws/Maps.lean: a collection read after a write, and little-endian bytes read back. -/
namespace Sys2Proof.Machine

@[simp] theorem mapGet_mapSet_same {α : Type} (d : α) (m : SMap α) (k : Nat) (v : α) : mapGet d (mapSet m k v) k = v := by
  induction m with
  | nil => simp [mapSet, mapGet]
  | cons e m ih =>
    obtain ⟨j, w⟩ := e
    by_cases h1 : k < j
    · simp [mapSet, mapGet, h1]
    · by_cases h2 : k = j
      · simp [mapSet, mapGet, h2]
      · simp [mapSet, mapGet, h1, h2, ih]

theorem mapGet_mapSet_ne {α : Type} (d : α) (m : SMap α) (k j : Nat) (v : α) (h : j ≠ k) :
    mapGet d (mapSet m k v) j = mapGet d m j := by
  induction m with
  | nil => simp [mapSet, mapGet, h]
  | cons e m ih =>
    obtain ⟨i, w⟩ := e
    by_cases h1 : k < i
    · simp [mapSet, mapGet, h1, h]
    · by_cases h2 : k = i
      · subst h2; simp [mapSet, mapGet, h]
      · simp [mapSet, mapGet, h1, h2, ih]

@[simp] theorem leBytes_length (n v : Nat) : (leBytes n v).length = n := by
  induction n generalizing v with
  | zero => rfl
  | succ n ih => simp [leBytes, ih]

@[simp] theorem leNat_leBytes (n v : Nat) : leNat (leBytes n v) = v % 2 ^ (8 * n) := by
  induction n generalizing v with
  | zero => simp [leBytes, leNat, Nat.mod_one]
  | succ n ih =>
    have h : 2 ^ (8 * (n + 1)) = 256 * 2 ^ (8 * n) := by rw [Nat.mul_succ, Nat.pow_add]; ring
    simp only [leBytes, leNat, ih, BitVec.toNat_ofNat, h]
    rw [Nat.mod_mul]

end Sys2Proof.Machine
end

