-- ==== Sys2Proof/Laws/State.lean ====
section
/-! SUPPORT. Sys2Proof/Laws/State.lean: what each update of the state leaves alone, one lemma for each field, and what each
accessor reads after an update. -/
namespace Sys2Proof.Machine

variable (s : State)

@[simp] theorem State.setCtx_pending (g : Nat) (c : Ctx) : (s.setCtx g c).pending = s.pending := rfl
@[simp] theorem State.setCtx_free (g : Nat) (c : Ctx) : (s.setCtx g c).free = s.free := rfl
@[simp] theorem State.setCtx_variant (g : Nat) (c : Ctx) : (s.setCtx g c).variant = s.variant := rfl
@[simp] theorem State.setCtx_hbm (g : Nat) (c : Ctx) : (s.setCtx g c).hbm = s.hbm := rfl
@[simp] theorem State.setCtx_sumDelta (g : Nat) (c : Ctx) : (s.setCtx g c).sumDelta = s.sumDelta := rfl
@[simp] theorem State.setCtx_host0 (g : Nat) (c : Ctx) : (s.setCtx g c).host0 = s.host0 := rfl
@[simp] theorem State.setCtx_host1 (g : Nat) (c : Ctx) : (s.setCtx g c).host1 = s.host1 := rfl
@[simp] theorem State.setCtx_parts (g : Nat) (c : Ctx) : (s.setCtx g c).parts = s.parts := rfl
@[simp] theorem State.setCtx_cores (g : Nat) (c : Ctx) : (s.setCtx g c).cores = s.cores := rfl
@[simp] theorem State.setCtx_dies (g : Nat) (c : Ctx) : (s.setCtx g c).dies = s.dies := rfl
@[simp] theorem State.setCtx_hbmStacks (g : Nat) (c : Ctx) : (s.setCtx g c).hbmStacks = s.hbmStacks := rfl
@[simp] theorem State.setCtx_links (g : Nat) (c : Ctx) : (s.setCtx g c).links = s.links := rfl
@[simp] theorem State.setCtx_pwr (g : Nat) (c : Ctx) : (s.setCtx g c).pwr = s.pwr := rfl
@[simp] theorem State.setCtx_log (g : Nat) (c : Ctx) : (s.setCtx g c).log = s.log := rfl
@[simp] theorem State.setCtx_doubler (g : Nat) (c : Ctx) : (s.setCtx g c).doubler = s.doubler := rfl
@[simp] theorem State.setCtx_sec (g : Nat) (c : Ctx) : (s.setCtx g c).sec = s.sec := rfl
@[simp] theorem State.setCtx_store (g : Nat) (c : Ctx) : (s.setCtx g c).store = s.store := rfl
@[simp] theorem State.setCtx_chans (g : Nat) (c : Ctx) : (s.setCtx g c).chans = s.chans := rfl
@[simp] theorem State.setCtx_answers (g : Nat) (c : Ctx) : (s.setCtx g c).answers = s.answers := rfl
@[simp] theorem State.setCtx_lastAbort (g : Nat) (c : Ctx) : (s.setCtx g c).lastAbort = s.lastAbort := rfl
@[simp] theorem State.setCtx_hifs (g : Nat) (c : Ctx) : (s.setCtx g c).hifs = s.hifs := rfl
@[simp] theorem State.setCtx_field (g : Nat) (c : Ctx) : (s.setCtx g c).field = s.field := rfl
@[simp] theorem State.setCtx_ports (g : Nat) (c : Ctx) : (s.setCtx g c).ports = s.ports := rfl
@[simp] theorem State.setCtx_fab (g : Nat) (c : Ctx) : (s.setCtx g c).fab = s.fab := rfl

@[simp] theorem State.modCtx_pending (g : Nat) (f : Ctx → Ctx) : (s.modCtx g f).pending = s.pending := rfl
@[simp] theorem State.modCtx_free (g : Nat) (f : Ctx → Ctx) : (s.modCtx g f).free = s.free := rfl
@[simp] theorem State.modCtx_variant (g : Nat) (f : Ctx → Ctx) : (s.modCtx g f).variant = s.variant := rfl
@[simp] theorem State.modCtx_hbm (g : Nat) (f : Ctx → Ctx) : (s.modCtx g f).hbm = s.hbm := rfl
@[simp] theorem State.modCtx_sumDelta (g : Nat) (f : Ctx → Ctx) : (s.modCtx g f).sumDelta = s.sumDelta := rfl
@[simp] theorem State.modCtx_host0 (g : Nat) (f : Ctx → Ctx) : (s.modCtx g f).host0 = s.host0 := rfl
@[simp] theorem State.modCtx_host1 (g : Nat) (f : Ctx → Ctx) : (s.modCtx g f).host1 = s.host1 := rfl
@[simp] theorem State.modCtx_parts (g : Nat) (f : Ctx → Ctx) : (s.modCtx g f).parts = s.parts := rfl
@[simp] theorem State.modCtx_cores (g : Nat) (f : Ctx → Ctx) : (s.modCtx g f).cores = s.cores := rfl
@[simp] theorem State.modCtx_dies (g : Nat) (f : Ctx → Ctx) : (s.modCtx g f).dies = s.dies := rfl
@[simp] theorem State.modCtx_hbmStacks (g : Nat) (f : Ctx → Ctx) : (s.modCtx g f).hbmStacks = s.hbmStacks := rfl
@[simp] theorem State.modCtx_links (g : Nat) (f : Ctx → Ctx) : (s.modCtx g f).links = s.links := rfl
@[simp] theorem State.modCtx_pwr (g : Nat) (f : Ctx → Ctx) : (s.modCtx g f).pwr = s.pwr := rfl
@[simp] theorem State.modCtx_log (g : Nat) (f : Ctx → Ctx) : (s.modCtx g f).log = s.log := rfl
@[simp] theorem State.modCtx_doubler (g : Nat) (f : Ctx → Ctx) : (s.modCtx g f).doubler = s.doubler := rfl
@[simp] theorem State.modCtx_sec (g : Nat) (f : Ctx → Ctx) : (s.modCtx g f).sec = s.sec := rfl
@[simp] theorem State.modCtx_store (g : Nat) (f : Ctx → Ctx) : (s.modCtx g f).store = s.store := rfl
@[simp] theorem State.modCtx_chans (g : Nat) (f : Ctx → Ctx) : (s.modCtx g f).chans = s.chans := rfl
@[simp] theorem State.modCtx_answers (g : Nat) (f : Ctx → Ctx) : (s.modCtx g f).answers = s.answers := rfl
@[simp] theorem State.modCtx_lastAbort (g : Nat) (f : Ctx → Ctx) : (s.modCtx g f).lastAbort = s.lastAbort := rfl
@[simp] theorem State.modCtx_hifs (g : Nat) (f : Ctx → Ctx) : (s.modCtx g f).hifs = s.hifs := rfl
@[simp] theorem State.modCtx_field (g : Nat) (f : Ctx → Ctx) : (s.modCtx g f).field = s.field := rfl
@[simp] theorem State.modCtx_ports (g : Nat) (f : Ctx → Ctx) : (s.modCtx g f).ports = s.ports := rfl
@[simp] theorem State.modCtx_fab (g : Nat) (f : Ctx → Ctx) : (s.modCtx g f).fab = s.fab := rfl

@[simp] theorem State.setQueue_pending (g q : Nat) (u : Queue) : (s.setQueue g q u).pending = s.pending := rfl
@[simp] theorem State.setQueue_free (g q : Nat) (u : Queue) : (s.setQueue g q u).free = s.free := rfl
@[simp] theorem State.setQueue_variant (g q : Nat) (u : Queue) : (s.setQueue g q u).variant = s.variant := rfl
@[simp] theorem State.setQueue_hbm (g q : Nat) (u : Queue) : (s.setQueue g q u).hbm = s.hbm := rfl
@[simp] theorem State.setQueue_sumDelta (g q : Nat) (u : Queue) : (s.setQueue g q u).sumDelta = s.sumDelta := rfl
@[simp] theorem State.setQueue_host0 (g q : Nat) (u : Queue) : (s.setQueue g q u).host0 = s.host0 := rfl
@[simp] theorem State.setQueue_host1 (g q : Nat) (u : Queue) : (s.setQueue g q u).host1 = s.host1 := rfl
@[simp] theorem State.setQueue_parts (g q : Nat) (u : Queue) : (s.setQueue g q u).parts = s.parts := rfl
@[simp] theorem State.setQueue_cores (g q : Nat) (u : Queue) : (s.setQueue g q u).cores = s.cores := rfl
@[simp] theorem State.setQueue_dies (g q : Nat) (u : Queue) : (s.setQueue g q u).dies = s.dies := rfl
@[simp] theorem State.setQueue_hbmStacks (g q : Nat) (u : Queue) : (s.setQueue g q u).hbmStacks = s.hbmStacks := rfl
@[simp] theorem State.setQueue_links (g q : Nat) (u : Queue) : (s.setQueue g q u).links = s.links := rfl
@[simp] theorem State.setQueue_pwr (g q : Nat) (u : Queue) : (s.setQueue g q u).pwr = s.pwr := rfl
@[simp] theorem State.setQueue_log (g q : Nat) (u : Queue) : (s.setQueue g q u).log = s.log := rfl
@[simp] theorem State.setQueue_doubler (g q : Nat) (u : Queue) : (s.setQueue g q u).doubler = s.doubler := rfl
@[simp] theorem State.setQueue_sec (g q : Nat) (u : Queue) : (s.setQueue g q u).sec = s.sec := rfl
@[simp] theorem State.setQueue_store (g q : Nat) (u : Queue) : (s.setQueue g q u).store = s.store := rfl
@[simp] theorem State.setQueue_chans (g q : Nat) (u : Queue) : (s.setQueue g q u).chans = s.chans := rfl
@[simp] theorem State.setQueue_answers (g q : Nat) (u : Queue) : (s.setQueue g q u).answers = s.answers := rfl
@[simp] theorem State.setQueue_lastAbort (g q : Nat) (u : Queue) : (s.setQueue g q u).lastAbort = s.lastAbort := rfl
@[simp] theorem State.setQueue_hifs (g q : Nat) (u : Queue) : (s.setQueue g q u).hifs = s.hifs := rfl
@[simp] theorem State.setQueue_field (g q : Nat) (u : Queue) : (s.setQueue g q u).field = s.field := rfl
@[simp] theorem State.setQueue_ports (g q : Nat) (u : Queue) : (s.setQueue g q u).ports = s.ports := rfl
@[simp] theorem State.setQueue_fab (g q : Nat) (u : Queue) : (s.setQueue g q u).fab = s.fab := rfl

@[simp] theorem State.modQueue_pending (g q : Nat) (f : Queue → Queue) : (s.modQueue g q f).pending = s.pending := rfl
@[simp] theorem State.modQueue_free (g q : Nat) (f : Queue → Queue) : (s.modQueue g q f).free = s.free := rfl
@[simp] theorem State.modQueue_variant (g q : Nat) (f : Queue → Queue) : (s.modQueue g q f).variant = s.variant := rfl
@[simp] theorem State.modQueue_hbm (g q : Nat) (f : Queue → Queue) : (s.modQueue g q f).hbm = s.hbm := rfl
@[simp] theorem State.modQueue_sumDelta (g q : Nat) (f : Queue → Queue) : (s.modQueue g q f).sumDelta = s.sumDelta := rfl
@[simp] theorem State.modQueue_host0 (g q : Nat) (f : Queue → Queue) : (s.modQueue g q f).host0 = s.host0 := rfl
@[simp] theorem State.modQueue_host1 (g q : Nat) (f : Queue → Queue) : (s.modQueue g q f).host1 = s.host1 := rfl
@[simp] theorem State.modQueue_parts (g q : Nat) (f : Queue → Queue) : (s.modQueue g q f).parts = s.parts := rfl
@[simp] theorem State.modQueue_cores (g q : Nat) (f : Queue → Queue) : (s.modQueue g q f).cores = s.cores := rfl
@[simp] theorem State.modQueue_dies (g q : Nat) (f : Queue → Queue) : (s.modQueue g q f).dies = s.dies := rfl
@[simp] theorem State.modQueue_hbmStacks (g q : Nat) (f : Queue → Queue) : (s.modQueue g q f).hbmStacks = s.hbmStacks := rfl
@[simp] theorem State.modQueue_links (g q : Nat) (f : Queue → Queue) : (s.modQueue g q f).links = s.links := rfl
@[simp] theorem State.modQueue_pwr (g q : Nat) (f : Queue → Queue) : (s.modQueue g q f).pwr = s.pwr := rfl
@[simp] theorem State.modQueue_log (g q : Nat) (f : Queue → Queue) : (s.modQueue g q f).log = s.log := rfl
@[simp] theorem State.modQueue_doubler (g q : Nat) (f : Queue → Queue) : (s.modQueue g q f).doubler = s.doubler := rfl
@[simp] theorem State.modQueue_sec (g q : Nat) (f : Queue → Queue) : (s.modQueue g q f).sec = s.sec := rfl
@[simp] theorem State.modQueue_store (g q : Nat) (f : Queue → Queue) : (s.modQueue g q f).store = s.store := rfl
@[simp] theorem State.modQueue_chans (g q : Nat) (f : Queue → Queue) : (s.modQueue g q f).chans = s.chans := rfl
@[simp] theorem State.modQueue_answers (g q : Nat) (f : Queue → Queue) : (s.modQueue g q f).answers = s.answers := rfl
@[simp] theorem State.modQueue_lastAbort (g q : Nat) (f : Queue → Queue) : (s.modQueue g q f).lastAbort = s.lastAbort := rfl
@[simp] theorem State.modQueue_hifs (g q : Nat) (f : Queue → Queue) : (s.modQueue g q f).hifs = s.hifs := rfl
@[simp] theorem State.modQueue_field (g q : Nat) (f : Queue → Queue) : (s.modQueue g q f).field = s.field := rfl
@[simp] theorem State.modQueue_ports (g q : Nat) (f : Queue → Queue) : (s.modQueue g q f).ports = s.ports := rfl
@[simp] theorem State.modQueue_fab (g q : Nat) (f : Queue → Queue) : (s.modQueue g q f).fab = s.fab := rfl

@[simp] theorem State.modRun_pending (g q seq : Nat) (f : Run → Run) : (s.modRun g q seq f).pending = s.pending := rfl
@[simp] theorem State.modRun_free (g q seq : Nat) (f : Run → Run) : (s.modRun g q seq f).free = s.free := rfl
@[simp] theorem State.modRun_variant (g q seq : Nat) (f : Run → Run) : (s.modRun g q seq f).variant = s.variant := rfl
@[simp] theorem State.modRun_hbm (g q seq : Nat) (f : Run → Run) : (s.modRun g q seq f).hbm = s.hbm := rfl
@[simp] theorem State.modRun_sumDelta (g q seq : Nat) (f : Run → Run) : (s.modRun g q seq f).sumDelta = s.sumDelta := rfl
@[simp] theorem State.modRun_host0 (g q seq : Nat) (f : Run → Run) : (s.modRun g q seq f).host0 = s.host0 := rfl
@[simp] theorem State.modRun_host1 (g q seq : Nat) (f : Run → Run) : (s.modRun g q seq f).host1 = s.host1 := rfl
@[simp] theorem State.modRun_parts (g q seq : Nat) (f : Run → Run) : (s.modRun g q seq f).parts = s.parts := rfl
@[simp] theorem State.modRun_cores (g q seq : Nat) (f : Run → Run) : (s.modRun g q seq f).cores = s.cores := rfl
@[simp] theorem State.modRun_dies (g q seq : Nat) (f : Run → Run) : (s.modRun g q seq f).dies = s.dies := rfl
@[simp] theorem State.modRun_hbmStacks (g q seq : Nat) (f : Run → Run) : (s.modRun g q seq f).hbmStacks = s.hbmStacks := rfl
@[simp] theorem State.modRun_links (g q seq : Nat) (f : Run → Run) : (s.modRun g q seq f).links = s.links := rfl
@[simp] theorem State.modRun_pwr (g q seq : Nat) (f : Run → Run) : (s.modRun g q seq f).pwr = s.pwr := rfl
@[simp] theorem State.modRun_log (g q seq : Nat) (f : Run → Run) : (s.modRun g q seq f).log = s.log := rfl
@[simp] theorem State.modRun_doubler (g q seq : Nat) (f : Run → Run) : (s.modRun g q seq f).doubler = s.doubler := rfl
@[simp] theorem State.modRun_sec (g q seq : Nat) (f : Run → Run) : (s.modRun g q seq f).sec = s.sec := rfl
@[simp] theorem State.modRun_store (g q seq : Nat) (f : Run → Run) : (s.modRun g q seq f).store = s.store := rfl
@[simp] theorem State.modRun_chans (g q seq : Nat) (f : Run → Run) : (s.modRun g q seq f).chans = s.chans := rfl
@[simp] theorem State.modRun_answers (g q seq : Nat) (f : Run → Run) : (s.modRun g q seq f).answers = s.answers := rfl
@[simp] theorem State.modRun_lastAbort (g q seq : Nat) (f : Run → Run) : (s.modRun g q seq f).lastAbort = s.lastAbort := rfl
@[simp] theorem State.modRun_hifs (g q seq : Nat) (f : Run → Run) : (s.modRun g q seq f).hifs = s.hifs := rfl
@[simp] theorem State.modRun_field (g q seq : Nat) (f : Run → Run) : (s.modRun g q seq f).field = s.field := rfl
@[simp] theorem State.modRun_ports (g q seq : Nat) (f : Run → Run) : (s.modRun g q seq f).ports = s.ports := rfl
@[simp] theorem State.modRun_fab (g q seq : Nat) (f : Run → Run) : (s.modRun g q seq f).fab = s.fab := rfl

@[simp] theorem State.setCounter_pending (g n : Nat) (v : BitVec 32) : (s.setCounter g n v).pending = s.pending := rfl
@[simp] theorem State.setCounter_free (g n : Nat) (v : BitVec 32) : (s.setCounter g n v).free = s.free := rfl
@[simp] theorem State.setCounter_variant (g n : Nat) (v : BitVec 32) : (s.setCounter g n v).variant = s.variant := rfl
@[simp] theorem State.setCounter_hbm (g n : Nat) (v : BitVec 32) : (s.setCounter g n v).hbm = s.hbm := rfl
@[simp] theorem State.setCounter_sumDelta (g n : Nat) (v : BitVec 32) : (s.setCounter g n v).sumDelta = s.sumDelta := rfl
@[simp] theorem State.setCounter_host0 (g n : Nat) (v : BitVec 32) : (s.setCounter g n v).host0 = s.host0 := rfl
@[simp] theorem State.setCounter_host1 (g n : Nat) (v : BitVec 32) : (s.setCounter g n v).host1 = s.host1 := rfl
@[simp] theorem State.setCounter_parts (g n : Nat) (v : BitVec 32) : (s.setCounter g n v).parts = s.parts := rfl
@[simp] theorem State.setCounter_cores (g n : Nat) (v : BitVec 32) : (s.setCounter g n v).cores = s.cores := rfl
@[simp] theorem State.setCounter_dies (g n : Nat) (v : BitVec 32) : (s.setCounter g n v).dies = s.dies := rfl
@[simp] theorem State.setCounter_hbmStacks (g n : Nat) (v : BitVec 32) : (s.setCounter g n v).hbmStacks = s.hbmStacks := rfl
@[simp] theorem State.setCounter_links (g n : Nat) (v : BitVec 32) : (s.setCounter g n v).links = s.links := rfl
@[simp] theorem State.setCounter_pwr (g n : Nat) (v : BitVec 32) : (s.setCounter g n v).pwr = s.pwr := rfl
@[simp] theorem State.setCounter_log (g n : Nat) (v : BitVec 32) : (s.setCounter g n v).log = s.log := rfl
@[simp] theorem State.setCounter_doubler (g n : Nat) (v : BitVec 32) : (s.setCounter g n v).doubler = s.doubler := rfl
@[simp] theorem State.setCounter_sec (g n : Nat) (v : BitVec 32) : (s.setCounter g n v).sec = s.sec := rfl
@[simp] theorem State.setCounter_store (g n : Nat) (v : BitVec 32) : (s.setCounter g n v).store = s.store := rfl
@[simp] theorem State.setCounter_chans (g n : Nat) (v : BitVec 32) : (s.setCounter g n v).chans = s.chans := rfl
@[simp] theorem State.setCounter_answers (g n : Nat) (v : BitVec 32) : (s.setCounter g n v).answers = s.answers := rfl
@[simp] theorem State.setCounter_lastAbort (g n : Nat) (v : BitVec 32) : (s.setCounter g n v).lastAbort = s.lastAbort := rfl
@[simp] theorem State.setCounter_hifs (g n : Nat) (v : BitVec 32) : (s.setCounter g n v).hifs = s.hifs := rfl
@[simp] theorem State.setCounter_field (g n : Nat) (v : BitVec 32) : (s.setCounter g n v).field = s.field := rfl
@[simp] theorem State.setCounter_ports (g n : Nat) (v : BitVec 32) : (s.setCounter g n v).ports = s.ports := rfl
@[simp] theorem State.setCounter_fab (g n : Nat) (v : BitVec 32) : (s.setCounter g n v).fab = s.fab := rfl

@[simp] theorem State.modPart_pending (p : Nat) (f : Part → Part) : (s.modPart p f).pending = s.pending := rfl
@[simp] theorem State.modPart_free (p : Nat) (f : Part → Part) : (s.modPart p f).free = s.free := rfl
@[simp] theorem State.modPart_variant (p : Nat) (f : Part → Part) : (s.modPart p f).variant = s.variant := rfl
@[simp] theorem State.modPart_hbm (p : Nat) (f : Part → Part) : (s.modPart p f).hbm = s.hbm := rfl
@[simp] theorem State.modPart_sumDelta (p : Nat) (f : Part → Part) : (s.modPart p f).sumDelta = s.sumDelta := rfl
@[simp] theorem State.modPart_host0 (p : Nat) (f : Part → Part) : (s.modPart p f).host0 = s.host0 := rfl
@[simp] theorem State.modPart_host1 (p : Nat) (f : Part → Part) : (s.modPart p f).host1 = s.host1 := rfl
@[simp] theorem State.modPart_ctxs (p : Nat) (f : Part → Part) : (s.modPart p f).ctxs = s.ctxs := rfl
@[simp] theorem State.modPart_cores (p : Nat) (f : Part → Part) : (s.modPart p f).cores = s.cores := rfl
@[simp] theorem State.modPart_dies (p : Nat) (f : Part → Part) : (s.modPart p f).dies = s.dies := rfl
@[simp] theorem State.modPart_hbmStacks (p : Nat) (f : Part → Part) : (s.modPart p f).hbmStacks = s.hbmStacks := rfl
@[simp] theorem State.modPart_links (p : Nat) (f : Part → Part) : (s.modPart p f).links = s.links := rfl
@[simp] theorem State.modPart_pwr (p : Nat) (f : Part → Part) : (s.modPart p f).pwr = s.pwr := rfl
@[simp] theorem State.modPart_log (p : Nat) (f : Part → Part) : (s.modPart p f).log = s.log := rfl
@[simp] theorem State.modPart_doubler (p : Nat) (f : Part → Part) : (s.modPart p f).doubler = s.doubler := rfl
@[simp] theorem State.modPart_sec (p : Nat) (f : Part → Part) : (s.modPart p f).sec = s.sec := rfl
@[simp] theorem State.modPart_store (p : Nat) (f : Part → Part) : (s.modPart p f).store = s.store := rfl
@[simp] theorem State.modPart_chans (p : Nat) (f : Part → Part) : (s.modPart p f).chans = s.chans := rfl
@[simp] theorem State.modPart_answers (p : Nat) (f : Part → Part) : (s.modPart p f).answers = s.answers := rfl
@[simp] theorem State.modPart_lastAbort (p : Nat) (f : Part → Part) : (s.modPart p f).lastAbort = s.lastAbort := rfl
@[simp] theorem State.modPart_hifs (p : Nat) (f : Part → Part) : (s.modPart p f).hifs = s.hifs := rfl
@[simp] theorem State.modPart_field (p : Nat) (f : Part → Part) : (s.modPart p f).field = s.field := rfl
@[simp] theorem State.modPart_ports (p : Nat) (f : Part → Part) : (s.modPart p f).ports = s.ports := rfl
@[simp] theorem State.modPart_fab (p : Nat) (f : Part → Part) : (s.modPart p f).fab = s.fab := rfl

@[simp] theorem State.modCore_pending (c : Nat) (f : Core → Core) : (s.modCore c f).pending = s.pending := rfl
@[simp] theorem State.modCore_free (c : Nat) (f : Core → Core) : (s.modCore c f).free = s.free := rfl
@[simp] theorem State.modCore_variant (c : Nat) (f : Core → Core) : (s.modCore c f).variant = s.variant := rfl
@[simp] theorem State.modCore_hbm (c : Nat) (f : Core → Core) : (s.modCore c f).hbm = s.hbm := rfl
@[simp] theorem State.modCore_sumDelta (c : Nat) (f : Core → Core) : (s.modCore c f).sumDelta = s.sumDelta := rfl
@[simp] theorem State.modCore_host0 (c : Nat) (f : Core → Core) : (s.modCore c f).host0 = s.host0 := rfl
@[simp] theorem State.modCore_host1 (c : Nat) (f : Core → Core) : (s.modCore c f).host1 = s.host1 := rfl
@[simp] theorem State.modCore_ctxs (c : Nat) (f : Core → Core) : (s.modCore c f).ctxs = s.ctxs := rfl
@[simp] theorem State.modCore_parts (c : Nat) (f : Core → Core) : (s.modCore c f).parts = s.parts := rfl
@[simp] theorem State.modCore_dies (c : Nat) (f : Core → Core) : (s.modCore c f).dies = s.dies := rfl
@[simp] theorem State.modCore_hbmStacks (c : Nat) (f : Core → Core) : (s.modCore c f).hbmStacks = s.hbmStacks := rfl
@[simp] theorem State.modCore_links (c : Nat) (f : Core → Core) : (s.modCore c f).links = s.links := rfl
@[simp] theorem State.modCore_pwr (c : Nat) (f : Core → Core) : (s.modCore c f).pwr = s.pwr := rfl
@[simp] theorem State.modCore_log (c : Nat) (f : Core → Core) : (s.modCore c f).log = s.log := rfl
@[simp] theorem State.modCore_doubler (c : Nat) (f : Core → Core) : (s.modCore c f).doubler = s.doubler := rfl
@[simp] theorem State.modCore_sec (c : Nat) (f : Core → Core) : (s.modCore c f).sec = s.sec := rfl
@[simp] theorem State.modCore_store (c : Nat) (f : Core → Core) : (s.modCore c f).store = s.store := rfl
@[simp] theorem State.modCore_chans (c : Nat) (f : Core → Core) : (s.modCore c f).chans = s.chans := rfl
@[simp] theorem State.modCore_answers (c : Nat) (f : Core → Core) : (s.modCore c f).answers = s.answers := rfl
@[simp] theorem State.modCore_lastAbort (c : Nat) (f : Core → Core) : (s.modCore c f).lastAbort = s.lastAbort := rfl
@[simp] theorem State.modCore_hifs (c : Nat) (f : Core → Core) : (s.modCore c f).hifs = s.hifs := rfl
@[simp] theorem State.modCore_field (c : Nat) (f : Core → Core) : (s.modCore c f).field = s.field := rfl
@[simp] theorem State.modCore_ports (c : Nat) (f : Core → Core) : (s.modCore c f).ports = s.ports := rfl
@[simp] theorem State.modCore_fab (c : Nat) (f : Core → Core) : (s.modCore c f).fab = s.fab := rfl

@[simp] theorem State.modDie_pending (d : Nat) (f : Die → Die) : (s.modDie d f).pending = s.pending := rfl
@[simp] theorem State.modDie_free (d : Nat) (f : Die → Die) : (s.modDie d f).free = s.free := rfl
@[simp] theorem State.modDie_variant (d : Nat) (f : Die → Die) : (s.modDie d f).variant = s.variant := rfl
@[simp] theorem State.modDie_hbm (d : Nat) (f : Die → Die) : (s.modDie d f).hbm = s.hbm := rfl
@[simp] theorem State.modDie_sumDelta (d : Nat) (f : Die → Die) : (s.modDie d f).sumDelta = s.sumDelta := rfl
@[simp] theorem State.modDie_host0 (d : Nat) (f : Die → Die) : (s.modDie d f).host0 = s.host0 := rfl
@[simp] theorem State.modDie_host1 (d : Nat) (f : Die → Die) : (s.modDie d f).host1 = s.host1 := rfl
@[simp] theorem State.modDie_ctxs (d : Nat) (f : Die → Die) : (s.modDie d f).ctxs = s.ctxs := rfl
@[simp] theorem State.modDie_parts (d : Nat) (f : Die → Die) : (s.modDie d f).parts = s.parts := rfl
@[simp] theorem State.modDie_cores (d : Nat) (f : Die → Die) : (s.modDie d f).cores = s.cores := rfl
@[simp] theorem State.modDie_hbmStacks (d : Nat) (f : Die → Die) : (s.modDie d f).hbmStacks = s.hbmStacks := rfl
@[simp] theorem State.modDie_links (d : Nat) (f : Die → Die) : (s.modDie d f).links = s.links := rfl
@[simp] theorem State.modDie_pwr (d : Nat) (f : Die → Die) : (s.modDie d f).pwr = s.pwr := rfl
@[simp] theorem State.modDie_log (d : Nat) (f : Die → Die) : (s.modDie d f).log = s.log := rfl
@[simp] theorem State.modDie_doubler (d : Nat) (f : Die → Die) : (s.modDie d f).doubler = s.doubler := rfl
@[simp] theorem State.modDie_sec (d : Nat) (f : Die → Die) : (s.modDie d f).sec = s.sec := rfl
@[simp] theorem State.modDie_store (d : Nat) (f : Die → Die) : (s.modDie d f).store = s.store := rfl
@[simp] theorem State.modDie_chans (d : Nat) (f : Die → Die) : (s.modDie d f).chans = s.chans := rfl
@[simp] theorem State.modDie_answers (d : Nat) (f : Die → Die) : (s.modDie d f).answers = s.answers := rfl
@[simp] theorem State.modDie_lastAbort (d : Nat) (f : Die → Die) : (s.modDie d f).lastAbort = s.lastAbort := rfl
@[simp] theorem State.modDie_hifs (d : Nat) (f : Die → Die) : (s.modDie d f).hifs = s.hifs := rfl
@[simp] theorem State.modDie_field (d : Nat) (f : Die → Die) : (s.modDie d f).field = s.field := rfl
@[simp] theorem State.modDie_ports (d : Nat) (f : Die → Die) : (s.modDie d f).ports = s.ports := rfl
@[simp] theorem State.modDie_fab (d : Nat) (f : Die → Die) : (s.modDie d f).fab = s.fab := rfl

@[simp] theorem State.modStack_pending (k : Nat) (f : Stack → Stack) : (s.modStack k f).pending = s.pending := rfl
@[simp] theorem State.modStack_free (k : Nat) (f : Stack → Stack) : (s.modStack k f).free = s.free := rfl
@[simp] theorem State.modStack_variant (k : Nat) (f : Stack → Stack) : (s.modStack k f).variant = s.variant := rfl
@[simp] theorem State.modStack_hbm (k : Nat) (f : Stack → Stack) : (s.modStack k f).hbm = s.hbm := rfl
@[simp] theorem State.modStack_sumDelta (k : Nat) (f : Stack → Stack) : (s.modStack k f).sumDelta = s.sumDelta := rfl
@[simp] theorem State.modStack_host0 (k : Nat) (f : Stack → Stack) : (s.modStack k f).host0 = s.host0 := rfl
@[simp] theorem State.modStack_host1 (k : Nat) (f : Stack → Stack) : (s.modStack k f).host1 = s.host1 := rfl
@[simp] theorem State.modStack_ctxs (k : Nat) (f : Stack → Stack) : (s.modStack k f).ctxs = s.ctxs := rfl
@[simp] theorem State.modStack_parts (k : Nat) (f : Stack → Stack) : (s.modStack k f).parts = s.parts := rfl
@[simp] theorem State.modStack_cores (k : Nat) (f : Stack → Stack) : (s.modStack k f).cores = s.cores := rfl
@[simp] theorem State.modStack_dies (k : Nat) (f : Stack → Stack) : (s.modStack k f).dies = s.dies := rfl
@[simp] theorem State.modStack_links (k : Nat) (f : Stack → Stack) : (s.modStack k f).links = s.links := rfl
@[simp] theorem State.modStack_pwr (k : Nat) (f : Stack → Stack) : (s.modStack k f).pwr = s.pwr := rfl
@[simp] theorem State.modStack_log (k : Nat) (f : Stack → Stack) : (s.modStack k f).log = s.log := rfl
@[simp] theorem State.modStack_doubler (k : Nat) (f : Stack → Stack) : (s.modStack k f).doubler = s.doubler := rfl
@[simp] theorem State.modStack_sec (k : Nat) (f : Stack → Stack) : (s.modStack k f).sec = s.sec := rfl
@[simp] theorem State.modStack_store (k : Nat) (f : Stack → Stack) : (s.modStack k f).store = s.store := rfl
@[simp] theorem State.modStack_chans (k : Nat) (f : Stack → Stack) : (s.modStack k f).chans = s.chans := rfl
@[simp] theorem State.modStack_answers (k : Nat) (f : Stack → Stack) : (s.modStack k f).answers = s.answers := rfl
@[simp] theorem State.modStack_lastAbort (k : Nat) (f : Stack → Stack) : (s.modStack k f).lastAbort = s.lastAbort := rfl
@[simp] theorem State.modStack_hifs (k : Nat) (f : Stack → Stack) : (s.modStack k f).hifs = s.hifs := rfl
@[simp] theorem State.modStack_field (k : Nat) (f : Stack → Stack) : (s.modStack k f).field = s.field := rfl
@[simp] theorem State.modStack_ports (k : Nat) (f : Stack → Stack) : (s.modStack k f).ports = s.ports := rfl
@[simp] theorem State.modStack_fab (k : Nat) (f : Stack → Stack) : (s.modStack k f).fab = s.fab := rfl

@[simp] theorem State.modLink_pending (n : Nat) (f : D2d → D2d) : (s.modLink n f).pending = s.pending := rfl
@[simp] theorem State.modLink_free (n : Nat) (f : D2d → D2d) : (s.modLink n f).free = s.free := rfl
@[simp] theorem State.modLink_variant (n : Nat) (f : D2d → D2d) : (s.modLink n f).variant = s.variant := rfl
@[simp] theorem State.modLink_hbm (n : Nat) (f : D2d → D2d) : (s.modLink n f).hbm = s.hbm := rfl
@[simp] theorem State.modLink_sumDelta (n : Nat) (f : D2d → D2d) : (s.modLink n f).sumDelta = s.sumDelta := rfl
@[simp] theorem State.modLink_host0 (n : Nat) (f : D2d → D2d) : (s.modLink n f).host0 = s.host0 := rfl
@[simp] theorem State.modLink_host1 (n : Nat) (f : D2d → D2d) : (s.modLink n f).host1 = s.host1 := rfl
@[simp] theorem State.modLink_ctxs (n : Nat) (f : D2d → D2d) : (s.modLink n f).ctxs = s.ctxs := rfl
@[simp] theorem State.modLink_parts (n : Nat) (f : D2d → D2d) : (s.modLink n f).parts = s.parts := rfl
@[simp] theorem State.modLink_cores (n : Nat) (f : D2d → D2d) : (s.modLink n f).cores = s.cores := rfl
@[simp] theorem State.modLink_dies (n : Nat) (f : D2d → D2d) : (s.modLink n f).dies = s.dies := rfl
@[simp] theorem State.modLink_hbmStacks (n : Nat) (f : D2d → D2d) : (s.modLink n f).hbmStacks = s.hbmStacks := rfl
@[simp] theorem State.modLink_pwr (n : Nat) (f : D2d → D2d) : (s.modLink n f).pwr = s.pwr := rfl
@[simp] theorem State.modLink_log (n : Nat) (f : D2d → D2d) : (s.modLink n f).log = s.log := rfl
@[simp] theorem State.modLink_doubler (n : Nat) (f : D2d → D2d) : (s.modLink n f).doubler = s.doubler := rfl
@[simp] theorem State.modLink_sec (n : Nat) (f : D2d → D2d) : (s.modLink n f).sec = s.sec := rfl
@[simp] theorem State.modLink_store (n : Nat) (f : D2d → D2d) : (s.modLink n f).store = s.store := rfl
@[simp] theorem State.modLink_chans (n : Nat) (f : D2d → D2d) : (s.modLink n f).chans = s.chans := rfl
@[simp] theorem State.modLink_answers (n : Nat) (f : D2d → D2d) : (s.modLink n f).answers = s.answers := rfl
@[simp] theorem State.modLink_lastAbort (n : Nat) (f : D2d → D2d) : (s.modLink n f).lastAbort = s.lastAbort := rfl
@[simp] theorem State.modLink_hifs (n : Nat) (f : D2d → D2d) : (s.modLink n f).hifs = s.hifs := rfl
@[simp] theorem State.modLink_field (n : Nat) (f : D2d → D2d) : (s.modLink n f).field = s.field := rfl
@[simp] theorem State.modLink_ports (n : Nat) (f : D2d → D2d) : (s.modLink n f).ports = s.ports := rfl
@[simp] theorem State.modLink_fab (n : Nat) (f : D2d → D2d) : (s.modLink n f).fab = s.fab := rfl

@[simp] theorem State.modPwr_pending (f : Power → Power) : (s.modPwr f).pending = s.pending := rfl
@[simp] theorem State.modPwr_free (f : Power → Power) : (s.modPwr f).free = s.free := rfl
@[simp] theorem State.modPwr_variant (f : Power → Power) : (s.modPwr f).variant = s.variant := rfl
@[simp] theorem State.modPwr_hbm (f : Power → Power) : (s.modPwr f).hbm = s.hbm := rfl
@[simp] theorem State.modPwr_sumDelta (f : Power → Power) : (s.modPwr f).sumDelta = s.sumDelta := rfl
@[simp] theorem State.modPwr_host0 (f : Power → Power) : (s.modPwr f).host0 = s.host0 := rfl
@[simp] theorem State.modPwr_host1 (f : Power → Power) : (s.modPwr f).host1 = s.host1 := rfl
@[simp] theorem State.modPwr_ctxs (f : Power → Power) : (s.modPwr f).ctxs = s.ctxs := rfl
@[simp] theorem State.modPwr_parts (f : Power → Power) : (s.modPwr f).parts = s.parts := rfl
@[simp] theorem State.modPwr_cores (f : Power → Power) : (s.modPwr f).cores = s.cores := rfl
@[simp] theorem State.modPwr_dies (f : Power → Power) : (s.modPwr f).dies = s.dies := rfl
@[simp] theorem State.modPwr_hbmStacks (f : Power → Power) : (s.modPwr f).hbmStacks = s.hbmStacks := rfl
@[simp] theorem State.modPwr_links (f : Power → Power) : (s.modPwr f).links = s.links := rfl
@[simp] theorem State.modPwr_log (f : Power → Power) : (s.modPwr f).log = s.log := rfl
@[simp] theorem State.modPwr_doubler (f : Power → Power) : (s.modPwr f).doubler = s.doubler := rfl
@[simp] theorem State.modPwr_sec (f : Power → Power) : (s.modPwr f).sec = s.sec := rfl
@[simp] theorem State.modPwr_store (f : Power → Power) : (s.modPwr f).store = s.store := rfl
@[simp] theorem State.modPwr_chans (f : Power → Power) : (s.modPwr f).chans = s.chans := rfl
@[simp] theorem State.modPwr_answers (f : Power → Power) : (s.modPwr f).answers = s.answers := rfl
@[simp] theorem State.modPwr_lastAbort (f : Power → Power) : (s.modPwr f).lastAbort = s.lastAbort := rfl
@[simp] theorem State.modPwr_hifs (f : Power → Power) : (s.modPwr f).hifs = s.hifs := rfl
@[simp] theorem State.modPwr_field (f : Power → Power) : (s.modPwr f).field = s.field := rfl
@[simp] theorem State.modPwr_ports (f : Power → Power) : (s.modPwr f).ports = s.ports := rfl
@[simp] theorem State.modPwr_fab (f : Power → Power) : (s.modPwr f).fab = s.fab := rfl

@[simp] theorem State.modDomain_pending (n : Nat) (f : Domain → Domain) : (s.modDomain n f).pending = s.pending := rfl
@[simp] theorem State.modDomain_free (n : Nat) (f : Domain → Domain) : (s.modDomain n f).free = s.free := rfl
@[simp] theorem State.modDomain_variant (n : Nat) (f : Domain → Domain) : (s.modDomain n f).variant = s.variant := rfl
@[simp] theorem State.modDomain_hbm (n : Nat) (f : Domain → Domain) : (s.modDomain n f).hbm = s.hbm := rfl
@[simp] theorem State.modDomain_sumDelta (n : Nat) (f : Domain → Domain) : (s.modDomain n f).sumDelta = s.sumDelta := rfl
@[simp] theorem State.modDomain_host0 (n : Nat) (f : Domain → Domain) : (s.modDomain n f).host0 = s.host0 := rfl
@[simp] theorem State.modDomain_host1 (n : Nat) (f : Domain → Domain) : (s.modDomain n f).host1 = s.host1 := rfl
@[simp] theorem State.modDomain_ctxs (n : Nat) (f : Domain → Domain) : (s.modDomain n f).ctxs = s.ctxs := rfl
@[simp] theorem State.modDomain_parts (n : Nat) (f : Domain → Domain) : (s.modDomain n f).parts = s.parts := rfl
@[simp] theorem State.modDomain_cores (n : Nat) (f : Domain → Domain) : (s.modDomain n f).cores = s.cores := rfl
@[simp] theorem State.modDomain_dies (n : Nat) (f : Domain → Domain) : (s.modDomain n f).dies = s.dies := rfl
@[simp] theorem State.modDomain_hbmStacks (n : Nat) (f : Domain → Domain) : (s.modDomain n f).hbmStacks = s.hbmStacks := rfl
@[simp] theorem State.modDomain_links (n : Nat) (f : Domain → Domain) : (s.modDomain n f).links = s.links := rfl
@[simp] theorem State.modDomain_log (n : Nat) (f : Domain → Domain) : (s.modDomain n f).log = s.log := rfl
@[simp] theorem State.modDomain_doubler (n : Nat) (f : Domain → Domain) : (s.modDomain n f).doubler = s.doubler := rfl
@[simp] theorem State.modDomain_sec (n : Nat) (f : Domain → Domain) : (s.modDomain n f).sec = s.sec := rfl
@[simp] theorem State.modDomain_store (n : Nat) (f : Domain → Domain) : (s.modDomain n f).store = s.store := rfl
@[simp] theorem State.modDomain_chans (n : Nat) (f : Domain → Domain) : (s.modDomain n f).chans = s.chans := rfl
@[simp] theorem State.modDomain_answers (n : Nat) (f : Domain → Domain) : (s.modDomain n f).answers = s.answers := rfl
@[simp] theorem State.modDomain_lastAbort (n : Nat) (f : Domain → Domain) : (s.modDomain n f).lastAbort = s.lastAbort := rfl
@[simp] theorem State.modDomain_hifs (n : Nat) (f : Domain → Domain) : (s.modDomain n f).hifs = s.hifs := rfl
@[simp] theorem State.modDomain_field (n : Nat) (f : Domain → Domain) : (s.modDomain n f).field = s.field := rfl
@[simp] theorem State.modDomain_ports (n : Nat) (f : Domain → Domain) : (s.modDomain n f).ports = s.ports := rfl
@[simp] theorem State.modDomain_fab (n : Nat) (f : Domain → Domain) : (s.modDomain n f).fab = s.fab := rfl

@[simp] theorem State.modDale_pending (n : Nat) (f : Dale → Dale) : (s.modDale n f).pending = s.pending := rfl
@[simp] theorem State.modDale_free (n : Nat) (f : Dale → Dale) : (s.modDale n f).free = s.free := rfl
@[simp] theorem State.modDale_variant (n : Nat) (f : Dale → Dale) : (s.modDale n f).variant = s.variant := rfl
@[simp] theorem State.modDale_hbm (n : Nat) (f : Dale → Dale) : (s.modDale n f).hbm = s.hbm := rfl
@[simp] theorem State.modDale_sumDelta (n : Nat) (f : Dale → Dale) : (s.modDale n f).sumDelta = s.sumDelta := rfl
@[simp] theorem State.modDale_host0 (n : Nat) (f : Dale → Dale) : (s.modDale n f).host0 = s.host0 := rfl
@[simp] theorem State.modDale_host1 (n : Nat) (f : Dale → Dale) : (s.modDale n f).host1 = s.host1 := rfl
@[simp] theorem State.modDale_ctxs (n : Nat) (f : Dale → Dale) : (s.modDale n f).ctxs = s.ctxs := rfl
@[simp] theorem State.modDale_parts (n : Nat) (f : Dale → Dale) : (s.modDale n f).parts = s.parts := rfl
@[simp] theorem State.modDale_cores (n : Nat) (f : Dale → Dale) : (s.modDale n f).cores = s.cores := rfl
@[simp] theorem State.modDale_dies (n : Nat) (f : Dale → Dale) : (s.modDale n f).dies = s.dies := rfl
@[simp] theorem State.modDale_hbmStacks (n : Nat) (f : Dale → Dale) : (s.modDale n f).hbmStacks = s.hbmStacks := rfl
@[simp] theorem State.modDale_links (n : Nat) (f : Dale → Dale) : (s.modDale n f).links = s.links := rfl
@[simp] theorem State.modDale_log (n : Nat) (f : Dale → Dale) : (s.modDale n f).log = s.log := rfl
@[simp] theorem State.modDale_doubler (n : Nat) (f : Dale → Dale) : (s.modDale n f).doubler = s.doubler := rfl
@[simp] theorem State.modDale_sec (n : Nat) (f : Dale → Dale) : (s.modDale n f).sec = s.sec := rfl
@[simp] theorem State.modDale_store (n : Nat) (f : Dale → Dale) : (s.modDale n f).store = s.store := rfl
@[simp] theorem State.modDale_chans (n : Nat) (f : Dale → Dale) : (s.modDale n f).chans = s.chans := rfl
@[simp] theorem State.modDale_answers (n : Nat) (f : Dale → Dale) : (s.modDale n f).answers = s.answers := rfl
@[simp] theorem State.modDale_lastAbort (n : Nat) (f : Dale → Dale) : (s.modDale n f).lastAbort = s.lastAbort := rfl
@[simp] theorem State.modDale_hifs (n : Nat) (f : Dale → Dale) : (s.modDale n f).hifs = s.hifs := rfl
@[simp] theorem State.modDale_field (n : Nat) (f : Dale → Dale) : (s.modDale n f).field = s.field := rfl
@[simp] theorem State.modDale_ports (n : Nat) (f : Dale → Dale) : (s.modDale n f).ports = s.ports := rfl
@[simp] theorem State.modDale_fab (n : Nat) (f : Dale → Dale) : (s.modDale n f).fab = s.fab := rfl

@[simp] theorem State.modHif_pending (h : Nat) (f : HostIf → HostIf) : (s.modHif h f).pending = s.pending := rfl
@[simp] theorem State.modHif_free (h : Nat) (f : HostIf → HostIf) : (s.modHif h f).free = s.free := rfl
@[simp] theorem State.modHif_variant (h : Nat) (f : HostIf → HostIf) : (s.modHif h f).variant = s.variant := rfl
@[simp] theorem State.modHif_hbm (h : Nat) (f : HostIf → HostIf) : (s.modHif h f).hbm = s.hbm := rfl
@[simp] theorem State.modHif_sumDelta (h : Nat) (f : HostIf → HostIf) : (s.modHif h f).sumDelta = s.sumDelta := rfl
@[simp] theorem State.modHif_host0 (h : Nat) (f : HostIf → HostIf) : (s.modHif h f).host0 = s.host0 := rfl
@[simp] theorem State.modHif_host1 (h : Nat) (f : HostIf → HostIf) : (s.modHif h f).host1 = s.host1 := rfl
@[simp] theorem State.modHif_ctxs (h : Nat) (f : HostIf → HostIf) : (s.modHif h f).ctxs = s.ctxs := rfl
@[simp] theorem State.modHif_parts (h : Nat) (f : HostIf → HostIf) : (s.modHif h f).parts = s.parts := rfl
@[simp] theorem State.modHif_cores (h : Nat) (f : HostIf → HostIf) : (s.modHif h f).cores = s.cores := rfl
@[simp] theorem State.modHif_dies (h : Nat) (f : HostIf → HostIf) : (s.modHif h f).dies = s.dies := rfl
@[simp] theorem State.modHif_hbmStacks (h : Nat) (f : HostIf → HostIf) : (s.modHif h f).hbmStacks = s.hbmStacks := rfl
@[simp] theorem State.modHif_links (h : Nat) (f : HostIf → HostIf) : (s.modHif h f).links = s.links := rfl
@[simp] theorem State.modHif_pwr (h : Nat) (f : HostIf → HostIf) : (s.modHif h f).pwr = s.pwr := rfl
@[simp] theorem State.modHif_log (h : Nat) (f : HostIf → HostIf) : (s.modHif h f).log = s.log := rfl
@[simp] theorem State.modHif_doubler (h : Nat) (f : HostIf → HostIf) : (s.modHif h f).doubler = s.doubler := rfl
@[simp] theorem State.modHif_sec (h : Nat) (f : HostIf → HostIf) : (s.modHif h f).sec = s.sec := rfl
@[simp] theorem State.modHif_store (h : Nat) (f : HostIf → HostIf) : (s.modHif h f).store = s.store := rfl
@[simp] theorem State.modHif_chans (h : Nat) (f : HostIf → HostIf) : (s.modHif h f).chans = s.chans := rfl
@[simp] theorem State.modHif_answers (h : Nat) (f : HostIf → HostIf) : (s.modHif h f).answers = s.answers := rfl
@[simp] theorem State.modHif_lastAbort (h : Nat) (f : HostIf → HostIf) : (s.modHif h f).lastAbort = s.lastAbort := rfl
@[simp] theorem State.modHif_field (h : Nat) (f : HostIf → HostIf) : (s.modHif h f).field = s.field := rfl
@[simp] theorem State.modHif_ports (h : Nat) (f : HostIf → HostIf) : (s.modHif h f).ports = s.ports := rfl
@[simp] theorem State.modHif_fab (h : Nat) (f : HostIf → HostIf) : (s.modHif h f).fab = s.fab := rfl

@[simp] theorem State.modPort_pending (p : Nat) (f : Port → Port) : (s.modPort p f).pending = s.pending := rfl
@[simp] theorem State.modPort_free (p : Nat) (f : Port → Port) : (s.modPort p f).free = s.free := rfl
@[simp] theorem State.modPort_variant (p : Nat) (f : Port → Port) : (s.modPort p f).variant = s.variant := rfl
@[simp] theorem State.modPort_hbm (p : Nat) (f : Port → Port) : (s.modPort p f).hbm = s.hbm := rfl
@[simp] theorem State.modPort_sumDelta (p : Nat) (f : Port → Port) : (s.modPort p f).sumDelta = s.sumDelta := rfl
@[simp] theorem State.modPort_host0 (p : Nat) (f : Port → Port) : (s.modPort p f).host0 = s.host0 := rfl
@[simp] theorem State.modPort_host1 (p : Nat) (f : Port → Port) : (s.modPort p f).host1 = s.host1 := rfl
@[simp] theorem State.modPort_ctxs (p : Nat) (f : Port → Port) : (s.modPort p f).ctxs = s.ctxs := rfl
@[simp] theorem State.modPort_parts (p : Nat) (f : Port → Port) : (s.modPort p f).parts = s.parts := rfl
@[simp] theorem State.modPort_cores (p : Nat) (f : Port → Port) : (s.modPort p f).cores = s.cores := rfl
@[simp] theorem State.modPort_dies (p : Nat) (f : Port → Port) : (s.modPort p f).dies = s.dies := rfl
@[simp] theorem State.modPort_hbmStacks (p : Nat) (f : Port → Port) : (s.modPort p f).hbmStacks = s.hbmStacks := rfl
@[simp] theorem State.modPort_links (p : Nat) (f : Port → Port) : (s.modPort p f).links = s.links := rfl
@[simp] theorem State.modPort_pwr (p : Nat) (f : Port → Port) : (s.modPort p f).pwr = s.pwr := rfl
@[simp] theorem State.modPort_log (p : Nat) (f : Port → Port) : (s.modPort p f).log = s.log := rfl
@[simp] theorem State.modPort_doubler (p : Nat) (f : Port → Port) : (s.modPort p f).doubler = s.doubler := rfl
@[simp] theorem State.modPort_sec (p : Nat) (f : Port → Port) : (s.modPort p f).sec = s.sec := rfl
@[simp] theorem State.modPort_store (p : Nat) (f : Port → Port) : (s.modPort p f).store = s.store := rfl
@[simp] theorem State.modPort_chans (p : Nat) (f : Port → Port) : (s.modPort p f).chans = s.chans := rfl
@[simp] theorem State.modPort_answers (p : Nat) (f : Port → Port) : (s.modPort p f).answers = s.answers := rfl
@[simp] theorem State.modPort_lastAbort (p : Nat) (f : Port → Port) : (s.modPort p f).lastAbort = s.lastAbort := rfl
@[simp] theorem State.modPort_hifs (p : Nat) (f : Port → Port) : (s.modPort p f).hifs = s.hifs := rfl
@[simp] theorem State.modPort_field (p : Nat) (f : Port → Port) : (s.modPort p f).field = s.field := rfl
@[simp] theorem State.modPort_fab (p : Nat) (f : Port → Port) : (s.modPort p f).fab = s.fab := rfl

@[simp] theorem State.modFab_pending (f : Fabric → Fabric) : (s.modFab f).pending = s.pending := rfl
@[simp] theorem State.modFab_free (f : Fabric → Fabric) : (s.modFab f).free = s.free := rfl
@[simp] theorem State.modFab_variant (f : Fabric → Fabric) : (s.modFab f).variant = s.variant := rfl
@[simp] theorem State.modFab_hbm (f : Fabric → Fabric) : (s.modFab f).hbm = s.hbm := rfl
@[simp] theorem State.modFab_sumDelta (f : Fabric → Fabric) : (s.modFab f).sumDelta = s.sumDelta := rfl
@[simp] theorem State.modFab_host0 (f : Fabric → Fabric) : (s.modFab f).host0 = s.host0 := rfl
@[simp] theorem State.modFab_host1 (f : Fabric → Fabric) : (s.modFab f).host1 = s.host1 := rfl
@[simp] theorem State.modFab_ctxs (f : Fabric → Fabric) : (s.modFab f).ctxs = s.ctxs := rfl
@[simp] theorem State.modFab_parts (f : Fabric → Fabric) : (s.modFab f).parts = s.parts := rfl
@[simp] theorem State.modFab_cores (f : Fabric → Fabric) : (s.modFab f).cores = s.cores := rfl
@[simp] theorem State.modFab_dies (f : Fabric → Fabric) : (s.modFab f).dies = s.dies := rfl
@[simp] theorem State.modFab_hbmStacks (f : Fabric → Fabric) : (s.modFab f).hbmStacks = s.hbmStacks := rfl
@[simp] theorem State.modFab_links (f : Fabric → Fabric) : (s.modFab f).links = s.links := rfl
@[simp] theorem State.modFab_pwr (f : Fabric → Fabric) : (s.modFab f).pwr = s.pwr := rfl
@[simp] theorem State.modFab_log (f : Fabric → Fabric) : (s.modFab f).log = s.log := rfl
@[simp] theorem State.modFab_doubler (f : Fabric → Fabric) : (s.modFab f).doubler = s.doubler := rfl
@[simp] theorem State.modFab_sec (f : Fabric → Fabric) : (s.modFab f).sec = s.sec := rfl
@[simp] theorem State.modFab_store (f : Fabric → Fabric) : (s.modFab f).store = s.store := rfl
@[simp] theorem State.modFab_chans (f : Fabric → Fabric) : (s.modFab f).chans = s.chans := rfl
@[simp] theorem State.modFab_answers (f : Fabric → Fabric) : (s.modFab f).answers = s.answers := rfl
@[simp] theorem State.modFab_lastAbort (f : Fabric → Fabric) : (s.modFab f).lastAbort = s.lastAbort := rfl
@[simp] theorem State.modFab_hifs (f : Fabric → Fabric) : (s.modFab f).hifs = s.hifs := rfl
@[simp] theorem State.modFab_field (f : Fabric → Fabric) : (s.modFab f).field = s.field := rfl
@[simp] theorem State.modFab_ports (f : Fabric → Fabric) : (s.modFab f).ports = s.ports := rfl

@[simp] theorem State.modSec_pending (f : Security → Security) : (s.modSec f).pending = s.pending := rfl
@[simp] theorem State.modSec_free (f : Security → Security) : (s.modSec f).free = s.free := rfl
@[simp] theorem State.modSec_variant (f : Security → Security) : (s.modSec f).variant = s.variant := rfl
@[simp] theorem State.modSec_hbm (f : Security → Security) : (s.modSec f).hbm = s.hbm := rfl
@[simp] theorem State.modSec_sumDelta (f : Security → Security) : (s.modSec f).sumDelta = s.sumDelta := rfl
@[simp] theorem State.modSec_host0 (f : Security → Security) : (s.modSec f).host0 = s.host0 := rfl
@[simp] theorem State.modSec_host1 (f : Security → Security) : (s.modSec f).host1 = s.host1 := rfl
@[simp] theorem State.modSec_ctxs (f : Security → Security) : (s.modSec f).ctxs = s.ctxs := rfl
@[simp] theorem State.modSec_parts (f : Security → Security) : (s.modSec f).parts = s.parts := rfl
@[simp] theorem State.modSec_cores (f : Security → Security) : (s.modSec f).cores = s.cores := rfl
@[simp] theorem State.modSec_dies (f : Security → Security) : (s.modSec f).dies = s.dies := rfl
@[simp] theorem State.modSec_hbmStacks (f : Security → Security) : (s.modSec f).hbmStacks = s.hbmStacks := rfl
@[simp] theorem State.modSec_links (f : Security → Security) : (s.modSec f).links = s.links := rfl
@[simp] theorem State.modSec_pwr (f : Security → Security) : (s.modSec f).pwr = s.pwr := rfl
@[simp] theorem State.modSec_log (f : Security → Security) : (s.modSec f).log = s.log := rfl
@[simp] theorem State.modSec_doubler (f : Security → Security) : (s.modSec f).doubler = s.doubler := rfl
@[simp] theorem State.modSec_store (f : Security → Security) : (s.modSec f).store = s.store := rfl
@[simp] theorem State.modSec_chans (f : Security → Security) : (s.modSec f).chans = s.chans := rfl
@[simp] theorem State.modSec_answers (f : Security → Security) : (s.modSec f).answers = s.answers := rfl
@[simp] theorem State.modSec_lastAbort (f : Security → Security) : (s.modSec f).lastAbort = s.lastAbort := rfl
@[simp] theorem State.modSec_hifs (f : Security → Security) : (s.modSec f).hifs = s.hifs := rfl
@[simp] theorem State.modSec_field (f : Security → Security) : (s.modSec f).field = s.field := rfl
@[simp] theorem State.modSec_ports (f : Security → Security) : (s.modSec f).ports = s.ports := rfl
@[simp] theorem State.modSec_fab (f : Security → Security) : (s.modSec f).fab = s.fab := rfl

@[simp] theorem State.setCfg_pending (i j : Nat) (v : Bytes) : (s.setCfg i j v).pending = s.pending := rfl
@[simp] theorem State.setCfg_free (i j : Nat) (v : Bytes) : (s.setCfg i j v).free = s.free := rfl
@[simp] theorem State.setCfg_variant (i j : Nat) (v : Bytes) : (s.setCfg i j v).variant = s.variant := rfl
@[simp] theorem State.setCfg_hbm (i j : Nat) (v : Bytes) : (s.setCfg i j v).hbm = s.hbm := rfl
@[simp] theorem State.setCfg_sumDelta (i j : Nat) (v : Bytes) : (s.setCfg i j v).sumDelta = s.sumDelta := rfl
@[simp] theorem State.setCfg_host0 (i j : Nat) (v : Bytes) : (s.setCfg i j v).host0 = s.host0 := rfl
@[simp] theorem State.setCfg_host1 (i j : Nat) (v : Bytes) : (s.setCfg i j v).host1 = s.host1 := rfl
@[simp] theorem State.setCfg_ctxs (i j : Nat) (v : Bytes) : (s.setCfg i j v).ctxs = s.ctxs := rfl
@[simp] theorem State.setCfg_parts (i j : Nat) (v : Bytes) : (s.setCfg i j v).parts = s.parts := rfl
@[simp] theorem State.setCfg_cores (i j : Nat) (v : Bytes) : (s.setCfg i j v).cores = s.cores := rfl
@[simp] theorem State.setCfg_dies (i j : Nat) (v : Bytes) : (s.setCfg i j v).dies = s.dies := rfl
@[simp] theorem State.setCfg_hbmStacks (i j : Nat) (v : Bytes) : (s.setCfg i j v).hbmStacks = s.hbmStacks := rfl
@[simp] theorem State.setCfg_links (i j : Nat) (v : Bytes) : (s.setCfg i j v).links = s.links := rfl
@[simp] theorem State.setCfg_pwr (i j : Nat) (v : Bytes) : (s.setCfg i j v).pwr = s.pwr := rfl
@[simp] theorem State.setCfg_log (i j : Nat) (v : Bytes) : (s.setCfg i j v).log = s.log := rfl
@[simp] theorem State.setCfg_doubler (i j : Nat) (v : Bytes) : (s.setCfg i j v).doubler = s.doubler := rfl
@[simp] theorem State.setCfg_sec (i j : Nat) (v : Bytes) : (s.setCfg i j v).sec = s.sec := rfl
@[simp] theorem State.setCfg_chans (i j : Nat) (v : Bytes) : (s.setCfg i j v).chans = s.chans := rfl
@[simp] theorem State.setCfg_answers (i j : Nat) (v : Bytes) : (s.setCfg i j v).answers = s.answers := rfl
@[simp] theorem State.setCfg_lastAbort (i j : Nat) (v : Bytes) : (s.setCfg i j v).lastAbort = s.lastAbort := rfl
@[simp] theorem State.setCfg_hifs (i j : Nat) (v : Bytes) : (s.setCfg i j v).hifs = s.hifs := rfl
@[simp] theorem State.setCfg_field (i j : Nat) (v : Bytes) : (s.setCfg i j v).field = s.field := rfl
@[simp] theorem State.setCfg_ports (i j : Nat) (v : Bytes) : (s.setCfg i j v).ports = s.ports := rfl
@[simp] theorem State.setCfg_fab (i j : Nat) (v : Bytes) : (s.setCfg i j v).fab = s.fab := rfl

@[simp] theorem State.dropCfg_pending (p : Nat → Bool) : (s.dropCfg p).pending = s.pending := rfl
@[simp] theorem State.dropCfg_free (p : Nat → Bool) : (s.dropCfg p).free = s.free := rfl
@[simp] theorem State.dropCfg_variant (p : Nat → Bool) : (s.dropCfg p).variant = s.variant := rfl
@[simp] theorem State.dropCfg_hbm (p : Nat → Bool) : (s.dropCfg p).hbm = s.hbm := rfl
@[simp] theorem State.dropCfg_sumDelta (p : Nat → Bool) : (s.dropCfg p).sumDelta = s.sumDelta := rfl
@[simp] theorem State.dropCfg_host0 (p : Nat → Bool) : (s.dropCfg p).host0 = s.host0 := rfl
@[simp] theorem State.dropCfg_host1 (p : Nat → Bool) : (s.dropCfg p).host1 = s.host1 := rfl
@[simp] theorem State.dropCfg_ctxs (p : Nat → Bool) : (s.dropCfg p).ctxs = s.ctxs := rfl
@[simp] theorem State.dropCfg_parts (p : Nat → Bool) : (s.dropCfg p).parts = s.parts := rfl
@[simp] theorem State.dropCfg_cores (p : Nat → Bool) : (s.dropCfg p).cores = s.cores := rfl
@[simp] theorem State.dropCfg_dies (p : Nat → Bool) : (s.dropCfg p).dies = s.dies := rfl
@[simp] theorem State.dropCfg_hbmStacks (p : Nat → Bool) : (s.dropCfg p).hbmStacks = s.hbmStacks := rfl
@[simp] theorem State.dropCfg_links (p : Nat → Bool) : (s.dropCfg p).links = s.links := rfl
@[simp] theorem State.dropCfg_pwr (p : Nat → Bool) : (s.dropCfg p).pwr = s.pwr := rfl
@[simp] theorem State.dropCfg_log (p : Nat → Bool) : (s.dropCfg p).log = s.log := rfl
@[simp] theorem State.dropCfg_doubler (p : Nat → Bool) : (s.dropCfg p).doubler = s.doubler := rfl
@[simp] theorem State.dropCfg_sec (p : Nat → Bool) : (s.dropCfg p).sec = s.sec := rfl
@[simp] theorem State.dropCfg_chans (p : Nat → Bool) : (s.dropCfg p).chans = s.chans := rfl
@[simp] theorem State.dropCfg_answers (p : Nat → Bool) : (s.dropCfg p).answers = s.answers := rfl
@[simp] theorem State.dropCfg_lastAbort (p : Nat → Bool) : (s.dropCfg p).lastAbort = s.lastAbort := rfl
@[simp] theorem State.dropCfg_hifs (p : Nat → Bool) : (s.dropCfg p).hifs = s.hifs := rfl
@[simp] theorem State.dropCfg_field (p : Nat → Bool) : (s.dropCfg p).field = s.field := rfl
@[simp] theorem State.dropCfg_ports (p : Nat → Bool) : (s.dropCfg p).ports = s.ports := rfl
@[simp] theorem State.dropCfg_fab (p : Nat → Bool) : (s.dropCfg p).fab = s.fab := rfl

@[simp] theorem State.event_pending (a b c : Nat) (d : Bytes) : (s.event a b c d).pending = s.pending := rfl
@[simp] theorem State.event_free (a b c : Nat) (d : Bytes) : (s.event a b c d).free = s.free := rfl
@[simp] theorem State.event_variant (a b c : Nat) (d : Bytes) : (s.event a b c d).variant = s.variant := rfl
@[simp] theorem State.event_hbm (a b c : Nat) (d : Bytes) : (s.event a b c d).hbm = s.hbm := rfl
@[simp] theorem State.event_sumDelta (a b c : Nat) (d : Bytes) : (s.event a b c d).sumDelta = s.sumDelta := rfl
@[simp] theorem State.event_host0 (a b c : Nat) (d : Bytes) : (s.event a b c d).host0 = s.host0 := rfl
@[simp] theorem State.event_host1 (a b c : Nat) (d : Bytes) : (s.event a b c d).host1 = s.host1 := rfl
@[simp] theorem State.event_ctxs (a b c : Nat) (d : Bytes) : (s.event a b c d).ctxs = s.ctxs := rfl
@[simp] theorem State.event_parts (a b c : Nat) (d : Bytes) : (s.event a b c d).parts = s.parts := rfl
@[simp] theorem State.event_cores (a b c : Nat) (d : Bytes) : (s.event a b c d).cores = s.cores := rfl
@[simp] theorem State.event_dies (a b c : Nat) (d : Bytes) : (s.event a b c d).dies = s.dies := rfl
@[simp] theorem State.event_hbmStacks (a b c : Nat) (d : Bytes) : (s.event a b c d).hbmStacks = s.hbmStacks := rfl
@[simp] theorem State.event_links (a b c : Nat) (d : Bytes) : (s.event a b c d).links = s.links := rfl
@[simp] theorem State.event_pwr (a b c : Nat) (d : Bytes) : (s.event a b c d).pwr = s.pwr := rfl
@[simp] theorem State.event_doubler (a b c : Nat) (d : Bytes) : (s.event a b c d).doubler = s.doubler := rfl
@[simp] theorem State.event_sec (a b c : Nat) (d : Bytes) : (s.event a b c d).sec = s.sec := rfl
@[simp] theorem State.event_store (a b c : Nat) (d : Bytes) : (s.event a b c d).store = s.store := rfl
@[simp] theorem State.event_chans (a b c : Nat) (d : Bytes) : (s.event a b c d).chans = s.chans := rfl
@[simp] theorem State.event_answers (a b c : Nat) (d : Bytes) : (s.event a b c d).answers = s.answers := rfl
@[simp] theorem State.event_lastAbort (a b c : Nat) (d : Bytes) : (s.event a b c d).lastAbort = s.lastAbort := rfl
@[simp] theorem State.event_hifs (a b c : Nat) (d : Bytes) : (s.event a b c d).hifs = s.hifs := rfl
@[simp] theorem State.event_field (a b c : Nat) (d : Bytes) : (s.event a b c d).field = s.field := rfl
@[simp] theorem State.event_ports (a b c : Nat) (d : Bytes) : (s.event a b c d).ports = s.ports := rfl
@[simp] theorem State.event_fab (a b c : Nat) (d : Bytes) : (s.event a b c d).fab = s.fab := rfl

@[simp] theorem State.hbmWrite_pending (p a : Nat) (bs : Bytes) : (s.hbmWrite p a bs).pending = s.pending := rfl
@[simp] theorem State.hbmWrite_free (p a : Nat) (bs : Bytes) : (s.hbmWrite p a bs).free = s.free := rfl
@[simp] theorem State.hbmWrite_variant (p a : Nat) (bs : Bytes) : (s.hbmWrite p a bs).variant = s.variant := rfl
@[simp] theorem State.hbmWrite_host0 (p a : Nat) (bs : Bytes) : (s.hbmWrite p a bs).host0 = s.host0 := rfl
@[simp] theorem State.hbmWrite_host1 (p a : Nat) (bs : Bytes) : (s.hbmWrite p a bs).host1 = s.host1 := rfl
@[simp] theorem State.hbmWrite_ctxs (p a : Nat) (bs : Bytes) : (s.hbmWrite p a bs).ctxs = s.ctxs := rfl
@[simp] theorem State.hbmWrite_parts (p a : Nat) (bs : Bytes) : (s.hbmWrite p a bs).parts = s.parts := rfl
@[simp] theorem State.hbmWrite_cores (p a : Nat) (bs : Bytes) : (s.hbmWrite p a bs).cores = s.cores := rfl
@[simp] theorem State.hbmWrite_hbmStacks (p a : Nat) (bs : Bytes) : (s.hbmWrite p a bs).hbmStacks = s.hbmStacks := rfl
@[simp] theorem State.hbmWrite_links (p a : Nat) (bs : Bytes) : (s.hbmWrite p a bs).links = s.links := rfl
@[simp] theorem State.hbmWrite_pwr (p a : Nat) (bs : Bytes) : (s.hbmWrite p a bs).pwr = s.pwr := rfl
@[simp] theorem State.hbmWrite_log (p a : Nat) (bs : Bytes) : (s.hbmWrite p a bs).log = s.log := rfl
@[simp] theorem State.hbmWrite_doubler (p a : Nat) (bs : Bytes) : (s.hbmWrite p a bs).doubler = s.doubler := rfl
@[simp] theorem State.hbmWrite_sec (p a : Nat) (bs : Bytes) : (s.hbmWrite p a bs).sec = s.sec := rfl
@[simp] theorem State.hbmWrite_store (p a : Nat) (bs : Bytes) : (s.hbmWrite p a bs).store = s.store := rfl
@[simp] theorem State.hbmWrite_chans (p a : Nat) (bs : Bytes) : (s.hbmWrite p a bs).chans = s.chans := rfl
@[simp] theorem State.hbmWrite_answers (p a : Nat) (bs : Bytes) : (s.hbmWrite p a bs).answers = s.answers := rfl
@[simp] theorem State.hbmWrite_lastAbort (p a : Nat) (bs : Bytes) : (s.hbmWrite p a bs).lastAbort = s.lastAbort := rfl
@[simp] theorem State.hbmWrite_hifs (p a : Nat) (bs : Bytes) : (s.hbmWrite p a bs).hifs = s.hifs := rfl
@[simp] theorem State.hbmWrite_field (p a : Nat) (bs : Bytes) : (s.hbmWrite p a bs).field = s.field := rfl
@[simp] theorem State.hbmWrite_ports (p a : Nat) (bs : Bytes) : (s.hbmWrite p a bs).ports = s.ports := rfl
@[simp] theorem State.hbmWrite_fab (p a : Nat) (bs : Bytes) : (s.hbmWrite p a bs).fab = s.fab := rfl

@[simp] theorem State.ctx_modCtx_same (k : Nat) (f : Ctx → Ctx) : (s.modCtx k f).ctx k = f (s.ctx k) := mapGet_mapSet_same _ _ _ _
theorem State.ctx_modCtx_ne (k j : Nat) (f : Ctx → Ctx) (h : j ≠ k) : (s.modCtx k f).ctx j = s.ctx j := mapGet_mapSet_ne _ _ _ _ _ h
@[simp] theorem State.part_modPart_same (k : Nat) (f : Part → Part) : (s.modPart k f).part k = f (s.part k) := mapGet_mapSet_same _ _ _ _
theorem State.part_modPart_ne (k j : Nat) (f : Part → Part) (h : j ≠ k) : (s.modPart k f).part j = s.part j := mapGet_mapSet_ne _ _ _ _ _ h
@[simp] theorem State.core_modCore_same (k : Nat) (f : Core → Core) : (s.modCore k f).core k = f (s.core k) := mapGet_mapSet_same _ _ _ _
theorem State.core_modCore_ne (k j : Nat) (f : Core → Core) (h : j ≠ k) : (s.modCore k f).core j = s.core j := mapGet_mapSet_ne _ _ _ _ _ h
@[simp] theorem State.die_modDie_same (k : Nat) (f : Die → Die) : (s.modDie k f).die k = f (s.die k) := mapGet_mapSet_same _ _ _ _
theorem State.die_modDie_ne (k j : Nat) (f : Die → Die) (h : j ≠ k) : (s.modDie k f).die j = s.die j := mapGet_mapSet_ne _ _ _ _ _ h
@[simp] theorem State.stack_modStack_same (k : Nat) (f : Stack → Stack) : (s.modStack k f).stack k = f (s.stack k) := mapGet_mapSet_same _ _ _ _
theorem State.stack_modStack_ne (k j : Nat) (f : Stack → Stack) (h : j ≠ k) : (s.modStack k f).stack j = s.stack j := mapGet_mapSet_ne _ _ _ _ _ h
@[simp] theorem State.link_modLink_same (k : Nat) (f : D2d → D2d) : (s.modLink k f).link k = f (s.link k) := mapGet_mapSet_same _ _ _ _
theorem State.link_modLink_ne (k j : Nat) (f : D2d → D2d) (h : j ≠ k) : (s.modLink k f).link j = s.link j := mapGet_mapSet_ne _ _ _ _ _ h
@[simp] theorem State.hif_modHif_same (k : Nat) (f : HostIf → HostIf) : (s.modHif k f).hif k = f (s.hif k) := mapGet_mapSet_same _ _ _ _
theorem State.hif_modHif_ne (k j : Nat) (f : HostIf → HostIf) (h : j ≠ k) : (s.modHif k f).hif j = s.hif j := mapGet_mapSet_ne _ _ _ _ _ h
@[simp] theorem State.port_modPort_same (k : Nat) (f : Port → Port) : (s.modPort k f).port k = f (s.port k) := mapGet_mapSet_same _ _ _ _
theorem State.port_modPort_ne (k j : Nat) (f : Port → Port) (h : j ≠ k) : (s.modPort k f).port j = s.port j := mapGet_mapSet_ne _ _ _ _ _ h
@[simp] theorem State.domain_modDomain_same (k : Nat) (f : Domain → Domain) : (s.modDomain k f).domain k = f (s.domain k) := mapGet_mapSet_same _ _ _ _
theorem State.domain_modDomain_ne (k j : Nat) (f : Domain → Domain) (h : j ≠ k) : (s.modDomain k f).domain j = s.domain j := mapGet_mapSet_ne _ _ _ _ _ h
@[simp] theorem State.dale_modDale_same (k : Nat) (f : Dale → Dale) : (s.modDale k f).dale k = f (s.dale k) := mapGet_mapSet_same _ _ _ _
theorem State.dale_modDale_ne (k j : Nat) (f : Dale → Dale) (h : j ≠ k) : (s.modDale k f).dale j = s.dale j := mapGet_mapSet_ne _ _ _ _ _ h

@[simp] theorem State.queue_modQueue_same (g q : Nat) (f : Queue → Queue) : (s.modQueue g q f).queue g q = f (s.queue g q) := by
  simp [State.modQueue, State.setQueue, State.queue, Ctx.queue, mapGet_mapSet_same]
theorem State.queue_modQueue_ne (g q q' : Nat) (f : Queue → Queue) (h : q' ≠ q) : (s.modQueue g q f).queue g q' = s.queue g q' := by
  simp [State.modQueue, State.setQueue, State.queue, Ctx.queue, mapGet_mapSet_ne _ _ _ _ _ h]
theorem State.queue_modQueue_other (g q g' q' : Nat) (f : Queue → Queue) (h : g' ≠ g) : (s.modQueue g q f).queue g' q' = s.queue g' q' := by
  simp [State.modQueue, State.setQueue, State.queue, State.ctx_modCtx_ne _ _ _ _ h]
@[simp] theorem State.modCtx_part_read (g : Nat) (f : Ctx → Ctx) (x : Nat) : (s.modCtx g f).part x = s.part x := rfl
@[simp] theorem State.modCtx_core_read (g : Nat) (f : Ctx → Ctx) (x : Nat) : (s.modCtx g f).core x = s.core x := rfl
@[simp] theorem State.modCtx_die_read (g : Nat) (f : Ctx → Ctx) (x : Nat) : (s.modCtx g f).die x = s.die x := rfl
@[simp] theorem State.modCtx_stack_read (g : Nat) (f : Ctx → Ctx) (x : Nat) : (s.modCtx g f).stack x = s.stack x := rfl
@[simp] theorem State.modCtx_link_read (g : Nat) (f : Ctx → Ctx) (x : Nat) : (s.modCtx g f).link x = s.link x := rfl
@[simp] theorem State.modCtx_hif_read (g : Nat) (f : Ctx → Ctx) (x : Nat) : (s.modCtx g f).hif x = s.hif x := rfl
@[simp] theorem State.modCtx_port_read (g : Nat) (f : Ctx → Ctx) (x : Nat) : (s.modCtx g f).port x = s.port x := rfl
@[simp] theorem State.modCtx_domain_read (g : Nat) (f : Ctx → Ctx) (x : Nat) : (s.modCtx g f).domain x = s.domain x := rfl
@[simp] theorem State.modCtx_dale_read (g : Nat) (f : Ctx → Ctx) (x : Nat) : (s.modCtx g f).dale x = s.dale x := rfl
@[simp] theorem State.modCtx_cfgBytes_read (g : Nat) (f : Ctx → Ctx) (x y : Nat) : (s.modCtx g f).cfgBytes x y = s.cfgBytes x y := rfl
@[simp] theorem State.modCtx_cfg_read (g : Nat) (f : Ctx → Ctx) (x y : Nat) : (s.modCtx g f).cfg x y = s.cfg x y := rfl
@[simp] theorem State.modCtx_now_read (g : Nat) (f : Ctx → Ctx) : (s.modCtx g f).now = s.now := rfl
@[simp] theorem State.modCtx_serving_read (g : Nat) (f : Ctx → Ctx) : (s.modCtx g f).serving = s.serving := rfl
@[simp] theorem State.modQueue_part_read (g q : Nat) (f : Queue → Queue) (x : Nat) : (s.modQueue g q f).part x = s.part x := rfl
@[simp] theorem State.modQueue_core_read (g q : Nat) (f : Queue → Queue) (x : Nat) : (s.modQueue g q f).core x = s.core x := rfl
@[simp] theorem State.modQueue_die_read (g q : Nat) (f : Queue → Queue) (x : Nat) : (s.modQueue g q f).die x = s.die x := rfl
@[simp] theorem State.modQueue_stack_read (g q : Nat) (f : Queue → Queue) (x : Nat) : (s.modQueue g q f).stack x = s.stack x := rfl
@[simp] theorem State.modQueue_link_read (g q : Nat) (f : Queue → Queue) (x : Nat) : (s.modQueue g q f).link x = s.link x := rfl
@[simp] theorem State.modQueue_hif_read (g q : Nat) (f : Queue → Queue) (x : Nat) : (s.modQueue g q f).hif x = s.hif x := rfl
@[simp] theorem State.modQueue_port_read (g q : Nat) (f : Queue → Queue) (x : Nat) : (s.modQueue g q f).port x = s.port x := rfl
@[simp] theorem State.modQueue_domain_read (g q : Nat) (f : Queue → Queue) (x : Nat) : (s.modQueue g q f).domain x = s.domain x := rfl
@[simp] theorem State.modQueue_dale_read (g q : Nat) (f : Queue → Queue) (x : Nat) : (s.modQueue g q f).dale x = s.dale x := rfl
@[simp] theorem State.modQueue_cfgBytes_read (g q : Nat) (f : Queue → Queue) (x y : Nat) : (s.modQueue g q f).cfgBytes x y = s.cfgBytes x y := rfl
@[simp] theorem State.modQueue_cfg_read (g q : Nat) (f : Queue → Queue) (x y : Nat) : (s.modQueue g q f).cfg x y = s.cfg x y := rfl
@[simp] theorem State.modQueue_now_read (g q : Nat) (f : Queue → Queue) : (s.modQueue g q f).now = s.now := rfl
@[simp] theorem State.modQueue_serving_read (g q : Nat) (f : Queue → Queue) : (s.modQueue g q f).serving = s.serving := rfl
@[simp] theorem State.modRun_part_read (g q seq : Nat) (f : Run → Run) (x : Nat) : (s.modRun g q seq f).part x = s.part x := rfl
@[simp] theorem State.modRun_core_read (g q seq : Nat) (f : Run → Run) (x : Nat) : (s.modRun g q seq f).core x = s.core x := rfl
@[simp] theorem State.modRun_die_read (g q seq : Nat) (f : Run → Run) (x : Nat) : (s.modRun g q seq f).die x = s.die x := rfl
@[simp] theorem State.modRun_stack_read (g q seq : Nat) (f : Run → Run) (x : Nat) : (s.modRun g q seq f).stack x = s.stack x := rfl
@[simp] theorem State.modRun_link_read (g q seq : Nat) (f : Run → Run) (x : Nat) : (s.modRun g q seq f).link x = s.link x := rfl
@[simp] theorem State.modRun_hif_read (g q seq : Nat) (f : Run → Run) (x : Nat) : (s.modRun g q seq f).hif x = s.hif x := rfl
@[simp] theorem State.modRun_port_read (g q seq : Nat) (f : Run → Run) (x : Nat) : (s.modRun g q seq f).port x = s.port x := rfl
@[simp] theorem State.modRun_domain_read (g q seq : Nat) (f : Run → Run) (x : Nat) : (s.modRun g q seq f).domain x = s.domain x := rfl
@[simp] theorem State.modRun_dale_read (g q seq : Nat) (f : Run → Run) (x : Nat) : (s.modRun g q seq f).dale x = s.dale x := rfl
@[simp] theorem State.modRun_cfgBytes_read (g q seq : Nat) (f : Run → Run) (x y : Nat) : (s.modRun g q seq f).cfgBytes x y = s.cfgBytes x y := rfl
@[simp] theorem State.modRun_cfg_read (g q seq : Nat) (f : Run → Run) (x y : Nat) : (s.modRun g q seq f).cfg x y = s.cfg x y := rfl
@[simp] theorem State.modRun_now_read (g q seq : Nat) (f : Run → Run) : (s.modRun g q seq f).now = s.now := rfl
@[simp] theorem State.modRun_serving_read (g q seq : Nat) (f : Run → Run) : (s.modRun g q seq f).serving = s.serving := rfl
@[simp] theorem State.setCounter_part_read (g n : Nat) (v : BitVec 32) (x : Nat) : (s.setCounter g n v).part x = s.part x := rfl
@[simp] theorem State.setCounter_core_read (g n : Nat) (v : BitVec 32) (x : Nat) : (s.setCounter g n v).core x = s.core x := rfl
@[simp] theorem State.setCounter_die_read (g n : Nat) (v : BitVec 32) (x : Nat) : (s.setCounter g n v).die x = s.die x := rfl
@[simp] theorem State.setCounter_stack_read (g n : Nat) (v : BitVec 32) (x : Nat) : (s.setCounter g n v).stack x = s.stack x := rfl
@[simp] theorem State.setCounter_link_read (g n : Nat) (v : BitVec 32) (x : Nat) : (s.setCounter g n v).link x = s.link x := rfl
@[simp] theorem State.setCounter_hif_read (g n : Nat) (v : BitVec 32) (x : Nat) : (s.setCounter g n v).hif x = s.hif x := rfl
@[simp] theorem State.setCounter_port_read (g n : Nat) (v : BitVec 32) (x : Nat) : (s.setCounter g n v).port x = s.port x := rfl
@[simp] theorem State.setCounter_domain_read (g n : Nat) (v : BitVec 32) (x : Nat) : (s.setCounter g n v).domain x = s.domain x := rfl
@[simp] theorem State.setCounter_dale_read (g n : Nat) (v : BitVec 32) (x : Nat) : (s.setCounter g n v).dale x = s.dale x := rfl
@[simp] theorem State.setCounter_cfgBytes_read (g n : Nat) (v : BitVec 32) (x y : Nat) : (s.setCounter g n v).cfgBytes x y = s.cfgBytes x y := rfl
@[simp] theorem State.setCounter_cfg_read (g n : Nat) (v : BitVec 32) (x y : Nat) : (s.setCounter g n v).cfg x y = s.cfg x y := rfl
@[simp] theorem State.setCounter_now_read (g n : Nat) (v : BitVec 32) : (s.setCounter g n v).now = s.now := rfl
@[simp] theorem State.setCounter_serving_read (g n : Nat) (v : BitVec 32) : (s.setCounter g n v).serving = s.serving := rfl
@[simp] theorem State.modPart_ctx_read (p : Nat) (f : Part → Part) (x : Nat) : (s.modPart p f).ctx x = s.ctx x := rfl
@[simp] theorem State.modPart_core_read (p : Nat) (f : Part → Part) (x : Nat) : (s.modPart p f).core x = s.core x := rfl
@[simp] theorem State.modPart_die_read (p : Nat) (f : Part → Part) (x : Nat) : (s.modPart p f).die x = s.die x := rfl
@[simp] theorem State.modPart_stack_read (p : Nat) (f : Part → Part) (x : Nat) : (s.modPart p f).stack x = s.stack x := rfl
@[simp] theorem State.modPart_link_read (p : Nat) (f : Part → Part) (x : Nat) : (s.modPart p f).link x = s.link x := rfl
@[simp] theorem State.modPart_hif_read (p : Nat) (f : Part → Part) (x : Nat) : (s.modPart p f).hif x = s.hif x := rfl
@[simp] theorem State.modPart_port_read (p : Nat) (f : Part → Part) (x : Nat) : (s.modPart p f).port x = s.port x := rfl
@[simp] theorem State.modPart_domain_read (p : Nat) (f : Part → Part) (x : Nat) : (s.modPart p f).domain x = s.domain x := rfl
@[simp] theorem State.modPart_dale_read (p : Nat) (f : Part → Part) (x : Nat) : (s.modPart p f).dale x = s.dale x := rfl
@[simp] theorem State.modPart_queue_read (p : Nat) (f : Part → Part) (x y : Nat) : (s.modPart p f).queue x y = s.queue x y := rfl
@[simp] theorem State.modPart_cfgBytes_read (p : Nat) (f : Part → Part) (x y : Nat) : (s.modPart p f).cfgBytes x y = s.cfgBytes x y := rfl
@[simp] theorem State.modPart_cfg_read (p : Nat) (f : Part → Part) (x y : Nat) : (s.modPart p f).cfg x y = s.cfg x y := rfl
@[simp] theorem State.modPart_now_read (p : Nat) (f : Part → Part) : (s.modPart p f).now = s.now := rfl
@[simp] theorem State.modPart_serving_read (p : Nat) (f : Part → Part) : (s.modPart p f).serving = s.serving := rfl
@[simp] theorem State.modCore_ctx_read (c : Nat) (f : Core → Core) (x : Nat) : (s.modCore c f).ctx x = s.ctx x := rfl
@[simp] theorem State.modCore_part_read (c : Nat) (f : Core → Core) (x : Nat) : (s.modCore c f).part x = s.part x := rfl
@[simp] theorem State.modCore_die_read (c : Nat) (f : Core → Core) (x : Nat) : (s.modCore c f).die x = s.die x := rfl
@[simp] theorem State.modCore_stack_read (c : Nat) (f : Core → Core) (x : Nat) : (s.modCore c f).stack x = s.stack x := rfl
@[simp] theorem State.modCore_link_read (c : Nat) (f : Core → Core) (x : Nat) : (s.modCore c f).link x = s.link x := rfl
@[simp] theorem State.modCore_hif_read (c : Nat) (f : Core → Core) (x : Nat) : (s.modCore c f).hif x = s.hif x := rfl
@[simp] theorem State.modCore_port_read (c : Nat) (f : Core → Core) (x : Nat) : (s.modCore c f).port x = s.port x := rfl
@[simp] theorem State.modCore_domain_read (c : Nat) (f : Core → Core) (x : Nat) : (s.modCore c f).domain x = s.domain x := rfl
@[simp] theorem State.modCore_dale_read (c : Nat) (f : Core → Core) (x : Nat) : (s.modCore c f).dale x = s.dale x := rfl
@[simp] theorem State.modCore_queue_read (c : Nat) (f : Core → Core) (x y : Nat) : (s.modCore c f).queue x y = s.queue x y := rfl
@[simp] theorem State.modCore_cfgBytes_read (c : Nat) (f : Core → Core) (x y : Nat) : (s.modCore c f).cfgBytes x y = s.cfgBytes x y := rfl
@[simp] theorem State.modCore_cfg_read (c : Nat) (f : Core → Core) (x y : Nat) : (s.modCore c f).cfg x y = s.cfg x y := rfl
@[simp] theorem State.modCore_now_read (c : Nat) (f : Core → Core) : (s.modCore c f).now = s.now := rfl
@[simp] theorem State.modCore_serving_read (c : Nat) (f : Core → Core) : (s.modCore c f).serving = s.serving := rfl
@[simp] theorem State.modDie_ctx_read (d : Nat) (f : Die → Die) (x : Nat) : (s.modDie d f).ctx x = s.ctx x := rfl
@[simp] theorem State.modDie_part_read (d : Nat) (f : Die → Die) (x : Nat) : (s.modDie d f).part x = s.part x := rfl
@[simp] theorem State.modDie_core_read (d : Nat) (f : Die → Die) (x : Nat) : (s.modDie d f).core x = s.core x := rfl
@[simp] theorem State.modDie_stack_read (d : Nat) (f : Die → Die) (x : Nat) : (s.modDie d f).stack x = s.stack x := rfl
@[simp] theorem State.modDie_link_read (d : Nat) (f : Die → Die) (x : Nat) : (s.modDie d f).link x = s.link x := rfl
@[simp] theorem State.modDie_hif_read (d : Nat) (f : Die → Die) (x : Nat) : (s.modDie d f).hif x = s.hif x := rfl
@[simp] theorem State.modDie_port_read (d : Nat) (f : Die → Die) (x : Nat) : (s.modDie d f).port x = s.port x := rfl
@[simp] theorem State.modDie_domain_read (d : Nat) (f : Die → Die) (x : Nat) : (s.modDie d f).domain x = s.domain x := rfl
@[simp] theorem State.modDie_dale_read (d : Nat) (f : Die → Die) (x : Nat) : (s.modDie d f).dale x = s.dale x := rfl
@[simp] theorem State.modDie_queue_read (d : Nat) (f : Die → Die) (x y : Nat) : (s.modDie d f).queue x y = s.queue x y := rfl
@[simp] theorem State.modDie_cfgBytes_read (d : Nat) (f : Die → Die) (x y : Nat) : (s.modDie d f).cfgBytes x y = s.cfgBytes x y := rfl
@[simp] theorem State.modDie_cfg_read (d : Nat) (f : Die → Die) (x y : Nat) : (s.modDie d f).cfg x y = s.cfg x y := rfl
@[simp] theorem State.modDie_now_read (d : Nat) (f : Die → Die) : (s.modDie d f).now = s.now := rfl
@[simp] theorem State.modDie_serving_read (d : Nat) (f : Die → Die) : (s.modDie d f).serving = s.serving := rfl
@[simp] theorem State.modStack_ctx_read (k : Nat) (f : Stack → Stack) (x : Nat) : (s.modStack k f).ctx x = s.ctx x := rfl
@[simp] theorem State.modStack_part_read (k : Nat) (f : Stack → Stack) (x : Nat) : (s.modStack k f).part x = s.part x := rfl
@[simp] theorem State.modStack_core_read (k : Nat) (f : Stack → Stack) (x : Nat) : (s.modStack k f).core x = s.core x := rfl
@[simp] theorem State.modStack_die_read (k : Nat) (f : Stack → Stack) (x : Nat) : (s.modStack k f).die x = s.die x := rfl
@[simp] theorem State.modStack_link_read (k : Nat) (f : Stack → Stack) (x : Nat) : (s.modStack k f).link x = s.link x := rfl
@[simp] theorem State.modStack_hif_read (k : Nat) (f : Stack → Stack) (x : Nat) : (s.modStack k f).hif x = s.hif x := rfl
@[simp] theorem State.modStack_port_read (k : Nat) (f : Stack → Stack) (x : Nat) : (s.modStack k f).port x = s.port x := rfl
@[simp] theorem State.modStack_domain_read (k : Nat) (f : Stack → Stack) (x : Nat) : (s.modStack k f).domain x = s.domain x := rfl
@[simp] theorem State.modStack_dale_read (k : Nat) (f : Stack → Stack) (x : Nat) : (s.modStack k f).dale x = s.dale x := rfl
@[simp] theorem State.modStack_queue_read (k : Nat) (f : Stack → Stack) (x y : Nat) : (s.modStack k f).queue x y = s.queue x y := rfl
@[simp] theorem State.modStack_cfgBytes_read (k : Nat) (f : Stack → Stack) (x y : Nat) : (s.modStack k f).cfgBytes x y = s.cfgBytes x y := rfl
@[simp] theorem State.modStack_cfg_read (k : Nat) (f : Stack → Stack) (x y : Nat) : (s.modStack k f).cfg x y = s.cfg x y := rfl
@[simp] theorem State.modStack_now_read (k : Nat) (f : Stack → Stack) : (s.modStack k f).now = s.now := rfl
@[simp] theorem State.modStack_serving_read (k : Nat) (f : Stack → Stack) : (s.modStack k f).serving = s.serving := rfl
@[simp] theorem State.modLink_ctx_read (n : Nat) (f : D2d → D2d) (x : Nat) : (s.modLink n f).ctx x = s.ctx x := rfl
@[simp] theorem State.modLink_part_read (n : Nat) (f : D2d → D2d) (x : Nat) : (s.modLink n f).part x = s.part x := rfl
@[simp] theorem State.modLink_core_read (n : Nat) (f : D2d → D2d) (x : Nat) : (s.modLink n f).core x = s.core x := rfl
@[simp] theorem State.modLink_die_read (n : Nat) (f : D2d → D2d) (x : Nat) : (s.modLink n f).die x = s.die x := rfl
@[simp] theorem State.modLink_stack_read (n : Nat) (f : D2d → D2d) (x : Nat) : (s.modLink n f).stack x = s.stack x := rfl
@[simp] theorem State.modLink_hif_read (n : Nat) (f : D2d → D2d) (x : Nat) : (s.modLink n f).hif x = s.hif x := rfl
@[simp] theorem State.modLink_port_read (n : Nat) (f : D2d → D2d) (x : Nat) : (s.modLink n f).port x = s.port x := rfl
@[simp] theorem State.modLink_domain_read (n : Nat) (f : D2d → D2d) (x : Nat) : (s.modLink n f).domain x = s.domain x := rfl
@[simp] theorem State.modLink_dale_read (n : Nat) (f : D2d → D2d) (x : Nat) : (s.modLink n f).dale x = s.dale x := rfl
@[simp] theorem State.modLink_queue_read (n : Nat) (f : D2d → D2d) (x y : Nat) : (s.modLink n f).queue x y = s.queue x y := rfl
@[simp] theorem State.modLink_cfgBytes_read (n : Nat) (f : D2d → D2d) (x y : Nat) : (s.modLink n f).cfgBytes x y = s.cfgBytes x y := rfl
@[simp] theorem State.modLink_cfg_read (n : Nat) (f : D2d → D2d) (x y : Nat) : (s.modLink n f).cfg x y = s.cfg x y := rfl
@[simp] theorem State.modLink_now_read (n : Nat) (f : D2d → D2d) : (s.modLink n f).now = s.now := rfl
@[simp] theorem State.modLink_serving_read (n : Nat) (f : D2d → D2d) : (s.modLink n f).serving = s.serving := rfl
@[simp] theorem State.modPwr_ctx_read (f : Power → Power) (x : Nat) : (s.modPwr f).ctx x = s.ctx x := rfl
@[simp] theorem State.modPwr_part_read (f : Power → Power) (x : Nat) : (s.modPwr f).part x = s.part x := rfl
@[simp] theorem State.modPwr_core_read (f : Power → Power) (x : Nat) : (s.modPwr f).core x = s.core x := rfl
@[simp] theorem State.modPwr_die_read (f : Power → Power) (x : Nat) : (s.modPwr f).die x = s.die x := rfl
@[simp] theorem State.modPwr_stack_read (f : Power → Power) (x : Nat) : (s.modPwr f).stack x = s.stack x := rfl
@[simp] theorem State.modPwr_link_read (f : Power → Power) (x : Nat) : (s.modPwr f).link x = s.link x := rfl
@[simp] theorem State.modPwr_hif_read (f : Power → Power) (x : Nat) : (s.modPwr f).hif x = s.hif x := rfl
@[simp] theorem State.modPwr_port_read (f : Power → Power) (x : Nat) : (s.modPwr f).port x = s.port x := rfl
@[simp] theorem State.modPwr_queue_read (f : Power → Power) (x y : Nat) : (s.modPwr f).queue x y = s.queue x y := rfl
@[simp] theorem State.modPwr_cfgBytes_read (f : Power → Power) (x y : Nat) : (s.modPwr f).cfgBytes x y = s.cfgBytes x y := rfl
@[simp] theorem State.modPwr_cfg_read (f : Power → Power) (x y : Nat) : (s.modPwr f).cfg x y = s.cfg x y := rfl
@[simp] theorem State.modDomain_ctx_read (n : Nat) (f : Domain → Domain) (x : Nat) : (s.modDomain n f).ctx x = s.ctx x := rfl
@[simp] theorem State.modDomain_part_read (n : Nat) (f : Domain → Domain) (x : Nat) : (s.modDomain n f).part x = s.part x := rfl
@[simp] theorem State.modDomain_core_read (n : Nat) (f : Domain → Domain) (x : Nat) : (s.modDomain n f).core x = s.core x := rfl
@[simp] theorem State.modDomain_die_read (n : Nat) (f : Domain → Domain) (x : Nat) : (s.modDomain n f).die x = s.die x := rfl
@[simp] theorem State.modDomain_stack_read (n : Nat) (f : Domain → Domain) (x : Nat) : (s.modDomain n f).stack x = s.stack x := rfl
@[simp] theorem State.modDomain_link_read (n : Nat) (f : Domain → Domain) (x : Nat) : (s.modDomain n f).link x = s.link x := rfl
@[simp] theorem State.modDomain_hif_read (n : Nat) (f : Domain → Domain) (x : Nat) : (s.modDomain n f).hif x = s.hif x := rfl
@[simp] theorem State.modDomain_port_read (n : Nat) (f : Domain → Domain) (x : Nat) : (s.modDomain n f).port x = s.port x := rfl
@[simp] theorem State.modDomain_queue_read (n : Nat) (f : Domain → Domain) (x y : Nat) : (s.modDomain n f).queue x y = s.queue x y := rfl
@[simp] theorem State.modDomain_cfgBytes_read (n : Nat) (f : Domain → Domain) (x y : Nat) : (s.modDomain n f).cfgBytes x y = s.cfgBytes x y := rfl
@[simp] theorem State.modDomain_cfg_read (n : Nat) (f : Domain → Domain) (x y : Nat) : (s.modDomain n f).cfg x y = s.cfg x y := rfl
@[simp] theorem State.modDale_ctx_read (n : Nat) (f : Dale → Dale) (x : Nat) : (s.modDale n f).ctx x = s.ctx x := rfl
@[simp] theorem State.modDale_part_read (n : Nat) (f : Dale → Dale) (x : Nat) : (s.modDale n f).part x = s.part x := rfl
@[simp] theorem State.modDale_core_read (n : Nat) (f : Dale → Dale) (x : Nat) : (s.modDale n f).core x = s.core x := rfl
@[simp] theorem State.modDale_die_read (n : Nat) (f : Dale → Dale) (x : Nat) : (s.modDale n f).die x = s.die x := rfl
@[simp] theorem State.modDale_stack_read (n : Nat) (f : Dale → Dale) (x : Nat) : (s.modDale n f).stack x = s.stack x := rfl
@[simp] theorem State.modDale_link_read (n : Nat) (f : Dale → Dale) (x : Nat) : (s.modDale n f).link x = s.link x := rfl
@[simp] theorem State.modDale_hif_read (n : Nat) (f : Dale → Dale) (x : Nat) : (s.modDale n f).hif x = s.hif x := rfl
@[simp] theorem State.modDale_port_read (n : Nat) (f : Dale → Dale) (x : Nat) : (s.modDale n f).port x = s.port x := rfl
@[simp] theorem State.modDale_queue_read (n : Nat) (f : Dale → Dale) (x y : Nat) : (s.modDale n f).queue x y = s.queue x y := rfl
@[simp] theorem State.modDale_cfgBytes_read (n : Nat) (f : Dale → Dale) (x y : Nat) : (s.modDale n f).cfgBytes x y = s.cfgBytes x y := rfl
@[simp] theorem State.modDale_cfg_read (n : Nat) (f : Dale → Dale) (x y : Nat) : (s.modDale n f).cfg x y = s.cfg x y := rfl
@[simp] theorem State.modHif_ctx_read (h : Nat) (f : HostIf → HostIf) (x : Nat) : (s.modHif h f).ctx x = s.ctx x := rfl
@[simp] theorem State.modHif_part_read (h : Nat) (f : HostIf → HostIf) (x : Nat) : (s.modHif h f).part x = s.part x := rfl
@[simp] theorem State.modHif_core_read (h : Nat) (f : HostIf → HostIf) (x : Nat) : (s.modHif h f).core x = s.core x := rfl
@[simp] theorem State.modHif_die_read (h : Nat) (f : HostIf → HostIf) (x : Nat) : (s.modHif h f).die x = s.die x := rfl
@[simp] theorem State.modHif_stack_read (h : Nat) (f : HostIf → HostIf) (x : Nat) : (s.modHif h f).stack x = s.stack x := rfl
@[simp] theorem State.modHif_link_read (h : Nat) (f : HostIf → HostIf) (x : Nat) : (s.modHif h f).link x = s.link x := rfl
@[simp] theorem State.modHif_port_read (h : Nat) (f : HostIf → HostIf) (x : Nat) : (s.modHif h f).port x = s.port x := rfl
@[simp] theorem State.modHif_domain_read (h : Nat) (f : HostIf → HostIf) (x : Nat) : (s.modHif h f).domain x = s.domain x := rfl
@[simp] theorem State.modHif_dale_read (h : Nat) (f : HostIf → HostIf) (x : Nat) : (s.modHif h f).dale x = s.dale x := rfl
@[simp] theorem State.modHif_queue_read (h : Nat) (f : HostIf → HostIf) (x y : Nat) : (s.modHif h f).queue x y = s.queue x y := rfl
@[simp] theorem State.modHif_cfgBytes_read (h : Nat) (f : HostIf → HostIf) (x y : Nat) : (s.modHif h f).cfgBytes x y = s.cfgBytes x y := rfl
@[simp] theorem State.modHif_cfg_read (h : Nat) (f : HostIf → HostIf) (x y : Nat) : (s.modHif h f).cfg x y = s.cfg x y := rfl
@[simp] theorem State.modHif_now_read (h : Nat) (f : HostIf → HostIf) : (s.modHif h f).now = s.now := rfl
@[simp] theorem State.modHif_serving_read (h : Nat) (f : HostIf → HostIf) : (s.modHif h f).serving = s.serving := rfl
@[simp] theorem State.modPort_ctx_read (p : Nat) (f : Port → Port) (x : Nat) : (s.modPort p f).ctx x = s.ctx x := rfl
@[simp] theorem State.modPort_part_read (p : Nat) (f : Port → Port) (x : Nat) : (s.modPort p f).part x = s.part x := rfl
@[simp] theorem State.modPort_core_read (p : Nat) (f : Port → Port) (x : Nat) : (s.modPort p f).core x = s.core x := rfl
@[simp] theorem State.modPort_die_read (p : Nat) (f : Port → Port) (x : Nat) : (s.modPort p f).die x = s.die x := rfl
@[simp] theorem State.modPort_stack_read (p : Nat) (f : Port → Port) (x : Nat) : (s.modPort p f).stack x = s.stack x := rfl
@[simp] theorem State.modPort_link_read (p : Nat) (f : Port → Port) (x : Nat) : (s.modPort p f).link x = s.link x := rfl
@[simp] theorem State.modPort_hif_read (p : Nat) (f : Port → Port) (x : Nat) : (s.modPort p f).hif x = s.hif x := rfl
@[simp] theorem State.modPort_domain_read (p : Nat) (f : Port → Port) (x : Nat) : (s.modPort p f).domain x = s.domain x := rfl
@[simp] theorem State.modPort_dale_read (p : Nat) (f : Port → Port) (x : Nat) : (s.modPort p f).dale x = s.dale x := rfl
@[simp] theorem State.modPort_queue_read (p : Nat) (f : Port → Port) (x y : Nat) : (s.modPort p f).queue x y = s.queue x y := rfl
@[simp] theorem State.modPort_cfgBytes_read (p : Nat) (f : Port → Port) (x y : Nat) : (s.modPort p f).cfgBytes x y = s.cfgBytes x y := rfl
@[simp] theorem State.modPort_cfg_read (p : Nat) (f : Port → Port) (x y : Nat) : (s.modPort p f).cfg x y = s.cfg x y := rfl
@[simp] theorem State.modPort_now_read (p : Nat) (f : Port → Port) : (s.modPort p f).now = s.now := rfl
@[simp] theorem State.modPort_serving_read (p : Nat) (f : Port → Port) : (s.modPort p f).serving = s.serving := rfl
@[simp] theorem State.modFab_ctx_read (f : Fabric → Fabric) (x : Nat) : (s.modFab f).ctx x = s.ctx x := rfl
@[simp] theorem State.modFab_part_read (f : Fabric → Fabric) (x : Nat) : (s.modFab f).part x = s.part x := rfl
@[simp] theorem State.modFab_core_read (f : Fabric → Fabric) (x : Nat) : (s.modFab f).core x = s.core x := rfl
@[simp] theorem State.modFab_die_read (f : Fabric → Fabric) (x : Nat) : (s.modFab f).die x = s.die x := rfl
@[simp] theorem State.modFab_stack_read (f : Fabric → Fabric) (x : Nat) : (s.modFab f).stack x = s.stack x := rfl
@[simp] theorem State.modFab_link_read (f : Fabric → Fabric) (x : Nat) : (s.modFab f).link x = s.link x := rfl
@[simp] theorem State.modFab_hif_read (f : Fabric → Fabric) (x : Nat) : (s.modFab f).hif x = s.hif x := rfl
@[simp] theorem State.modFab_port_read (f : Fabric → Fabric) (x : Nat) : (s.modFab f).port x = s.port x := rfl
@[simp] theorem State.modFab_domain_read (f : Fabric → Fabric) (x : Nat) : (s.modFab f).domain x = s.domain x := rfl
@[simp] theorem State.modFab_dale_read (f : Fabric → Fabric) (x : Nat) : (s.modFab f).dale x = s.dale x := rfl
@[simp] theorem State.modFab_queue_read (f : Fabric → Fabric) (x y : Nat) : (s.modFab f).queue x y = s.queue x y := rfl
@[simp] theorem State.modFab_cfgBytes_read (f : Fabric → Fabric) (x y : Nat) : (s.modFab f).cfgBytes x y = s.cfgBytes x y := rfl
@[simp] theorem State.modFab_cfg_read (f : Fabric → Fabric) (x y : Nat) : (s.modFab f).cfg x y = s.cfg x y := rfl
@[simp] theorem State.modFab_now_read (f : Fabric → Fabric) : (s.modFab f).now = s.now := rfl
@[simp] theorem State.modFab_serving_read (f : Fabric → Fabric) : (s.modFab f).serving = s.serving := rfl
@[simp] theorem State.modSec_ctx_read (f : Security → Security) (x : Nat) : (s.modSec f).ctx x = s.ctx x := rfl
@[simp] theorem State.modSec_part_read (f : Security → Security) (x : Nat) : (s.modSec f).part x = s.part x := rfl
@[simp] theorem State.modSec_core_read (f : Security → Security) (x : Nat) : (s.modSec f).core x = s.core x := rfl
@[simp] theorem State.modSec_die_read (f : Security → Security) (x : Nat) : (s.modSec f).die x = s.die x := rfl
@[simp] theorem State.modSec_stack_read (f : Security → Security) (x : Nat) : (s.modSec f).stack x = s.stack x := rfl
@[simp] theorem State.modSec_link_read (f : Security → Security) (x : Nat) : (s.modSec f).link x = s.link x := rfl
@[simp] theorem State.modSec_hif_read (f : Security → Security) (x : Nat) : (s.modSec f).hif x = s.hif x := rfl
@[simp] theorem State.modSec_port_read (f : Security → Security) (x : Nat) : (s.modSec f).port x = s.port x := rfl
@[simp] theorem State.modSec_domain_read (f : Security → Security) (x : Nat) : (s.modSec f).domain x = s.domain x := rfl
@[simp] theorem State.modSec_dale_read (f : Security → Security) (x : Nat) : (s.modSec f).dale x = s.dale x := rfl
@[simp] theorem State.modSec_queue_read (f : Security → Security) (x y : Nat) : (s.modSec f).queue x y = s.queue x y := rfl
@[simp] theorem State.modSec_cfgBytes_read (f : Security → Security) (x y : Nat) : (s.modSec f).cfgBytes x y = s.cfgBytes x y := rfl
@[simp] theorem State.modSec_cfg_read (f : Security → Security) (x y : Nat) : (s.modSec f).cfg x y = s.cfg x y := rfl
@[simp] theorem State.modSec_now_read (f : Security → Security) : (s.modSec f).now = s.now := rfl
@[simp] theorem State.modSec_serving_read (f : Security → Security) : (s.modSec f).serving = s.serving := rfl
@[simp] theorem State.setCfg_ctx_read (i j : Nat) (v : Bytes) (x : Nat) : (s.setCfg i j v).ctx x = s.ctx x := rfl
@[simp] theorem State.setCfg_part_read (i j : Nat) (v : Bytes) (x : Nat) : (s.setCfg i j v).part x = s.part x := rfl
@[simp] theorem State.setCfg_core_read (i j : Nat) (v : Bytes) (x : Nat) : (s.setCfg i j v).core x = s.core x := rfl
@[simp] theorem State.setCfg_die_read (i j : Nat) (v : Bytes) (x : Nat) : (s.setCfg i j v).die x = s.die x := rfl
@[simp] theorem State.setCfg_stack_read (i j : Nat) (v : Bytes) (x : Nat) : (s.setCfg i j v).stack x = s.stack x := rfl
@[simp] theorem State.setCfg_link_read (i j : Nat) (v : Bytes) (x : Nat) : (s.setCfg i j v).link x = s.link x := rfl
@[simp] theorem State.setCfg_hif_read (i j : Nat) (v : Bytes) (x : Nat) : (s.setCfg i j v).hif x = s.hif x := rfl
@[simp] theorem State.setCfg_port_read (i j : Nat) (v : Bytes) (x : Nat) : (s.setCfg i j v).port x = s.port x := rfl
@[simp] theorem State.setCfg_domain_read (i j : Nat) (v : Bytes) (x : Nat) : (s.setCfg i j v).domain x = s.domain x := rfl
@[simp] theorem State.setCfg_dale_read (i j : Nat) (v : Bytes) (x : Nat) : (s.setCfg i j v).dale x = s.dale x := rfl
@[simp] theorem State.setCfg_queue_read (i j : Nat) (v : Bytes) (x y : Nat) : (s.setCfg i j v).queue x y = s.queue x y := rfl
@[simp] theorem State.setCfg_now_read (i j : Nat) (v : Bytes) : (s.setCfg i j v).now = s.now := rfl
@[simp] theorem State.setCfg_serving_read (i j : Nat) (v : Bytes) : (s.setCfg i j v).serving = s.serving := rfl
@[simp] theorem State.dropCfg_ctx_read (p : Nat → Bool) (x : Nat) : (s.dropCfg p).ctx x = s.ctx x := rfl
@[simp] theorem State.dropCfg_part_read (p : Nat → Bool) (x : Nat) : (s.dropCfg p).part x = s.part x := rfl
@[simp] theorem State.dropCfg_core_read (p : Nat → Bool) (x : Nat) : (s.dropCfg p).core x = s.core x := rfl
@[simp] theorem State.dropCfg_die_read (p : Nat → Bool) (x : Nat) : (s.dropCfg p).die x = s.die x := rfl
@[simp] theorem State.dropCfg_stack_read (p : Nat → Bool) (x : Nat) : (s.dropCfg p).stack x = s.stack x := rfl
@[simp] theorem State.dropCfg_link_read (p : Nat → Bool) (x : Nat) : (s.dropCfg p).link x = s.link x := rfl
@[simp] theorem State.dropCfg_hif_read (p : Nat → Bool) (x : Nat) : (s.dropCfg p).hif x = s.hif x := rfl
@[simp] theorem State.dropCfg_port_read (p : Nat → Bool) (x : Nat) : (s.dropCfg p).port x = s.port x := rfl
@[simp] theorem State.dropCfg_domain_read (p : Nat → Bool) (x : Nat) : (s.dropCfg p).domain x = s.domain x := rfl
@[simp] theorem State.dropCfg_dale_read (p : Nat → Bool) (x : Nat) : (s.dropCfg p).dale x = s.dale x := rfl
@[simp] theorem State.dropCfg_queue_read (p : Nat → Bool) (x y : Nat) : (s.dropCfg p).queue x y = s.queue x y := rfl
@[simp] theorem State.dropCfg_now_read (p : Nat → Bool) : (s.dropCfg p).now = s.now := rfl
@[simp] theorem State.dropCfg_serving_read (p : Nat → Bool) : (s.dropCfg p).serving = s.serving := rfl
@[simp] theorem State.event_ctx_read (a b c : Nat) (d : Bytes) (x : Nat) : (s.event a b c d).ctx x = s.ctx x := rfl
@[simp] theorem State.event_part_read (a b c : Nat) (d : Bytes) (x : Nat) : (s.event a b c d).part x = s.part x := rfl
@[simp] theorem State.event_core_read (a b c : Nat) (d : Bytes) (x : Nat) : (s.event a b c d).core x = s.core x := rfl
@[simp] theorem State.event_die_read (a b c : Nat) (d : Bytes) (x : Nat) : (s.event a b c d).die x = s.die x := rfl
@[simp] theorem State.event_stack_read (a b c : Nat) (d : Bytes) (x : Nat) : (s.event a b c d).stack x = s.stack x := rfl
@[simp] theorem State.event_link_read (a b c : Nat) (d : Bytes) (x : Nat) : (s.event a b c d).link x = s.link x := rfl
@[simp] theorem State.event_hif_read (a b c : Nat) (d : Bytes) (x : Nat) : (s.event a b c d).hif x = s.hif x := rfl
@[simp] theorem State.event_port_read (a b c : Nat) (d : Bytes) (x : Nat) : (s.event a b c d).port x = s.port x := rfl
@[simp] theorem State.event_domain_read (a b c : Nat) (d : Bytes) (x : Nat) : (s.event a b c d).domain x = s.domain x := rfl
@[simp] theorem State.event_dale_read (a b c : Nat) (d : Bytes) (x : Nat) : (s.event a b c d).dale x = s.dale x := rfl
@[simp] theorem State.event_queue_read (a b c : Nat) (d : Bytes) (x y : Nat) : (s.event a b c d).queue x y = s.queue x y := rfl
@[simp] theorem State.event_cfgBytes_read (a b c : Nat) (d : Bytes) (x y : Nat) : (s.event a b c d).cfgBytes x y = s.cfgBytes x y := rfl
@[simp] theorem State.event_cfg_read (a b c : Nat) (d : Bytes) (x y : Nat) : (s.event a b c d).cfg x y = s.cfg x y := rfl
@[simp] theorem State.event_now_read (a b c : Nat) (d : Bytes) : (s.event a b c d).now = s.now := rfl
@[simp] theorem State.event_serving_read (a b c : Nat) (d : Bytes) : (s.event a b c d).serving = s.serving := rfl
@[simp] theorem State.hbmWrite_ctx_read (p a : Nat) (bs : Bytes) (x : Nat) : (s.hbmWrite p a bs).ctx x = s.ctx x := rfl
@[simp] theorem State.hbmWrite_part_read (p a : Nat) (bs : Bytes) (x : Nat) : (s.hbmWrite p a bs).part x = s.part x := rfl
@[simp] theorem State.hbmWrite_core_read (p a : Nat) (bs : Bytes) (x : Nat) : (s.hbmWrite p a bs).core x = s.core x := rfl
@[simp] theorem State.hbmWrite_stack_read (p a : Nat) (bs : Bytes) (x : Nat) : (s.hbmWrite p a bs).stack x = s.stack x := rfl
@[simp] theorem State.hbmWrite_link_read (p a : Nat) (bs : Bytes) (x : Nat) : (s.hbmWrite p a bs).link x = s.link x := rfl
@[simp] theorem State.hbmWrite_hif_read (p a : Nat) (bs : Bytes) (x : Nat) : (s.hbmWrite p a bs).hif x = s.hif x := rfl
@[simp] theorem State.hbmWrite_port_read (p a : Nat) (bs : Bytes) (x : Nat) : (s.hbmWrite p a bs).port x = s.port x := rfl
@[simp] theorem State.hbmWrite_domain_read (p a : Nat) (bs : Bytes) (x : Nat) : (s.hbmWrite p a bs).domain x = s.domain x := rfl
@[simp] theorem State.hbmWrite_dale_read (p a : Nat) (bs : Bytes) (x : Nat) : (s.hbmWrite p a bs).dale x = s.dale x := rfl
@[simp] theorem State.hbmWrite_queue_read (p a : Nat) (bs : Bytes) (x y : Nat) : (s.hbmWrite p a bs).queue x y = s.queue x y := rfl
@[simp] theorem State.hbmWrite_cfgBytes_read (p a : Nat) (bs : Bytes) (x y : Nat) : (s.hbmWrite p a bs).cfgBytes x y = s.cfgBytes x y := rfl
@[simp] theorem State.hbmWrite_cfg_read (p a : Nat) (bs : Bytes) (x y : Nat) : (s.hbmWrite p a bs).cfg x y = s.cfg x y := rfl
@[simp] theorem State.hbmWrite_now_read (p a : Nat) (bs : Bytes) : (s.hbmWrite p a bs).now = s.now := rfl
@[simp] theorem State.hbmWrite_serving_read (p a : Nat) (bs : Bytes) : (s.hbmWrite p a bs).serving = s.serving := rfl

end Sys2Proof.Machine
end

