-- ==== Sys2Proof/Laws/Memory.lean ====
section
/-! SUPPORT. Sys2Proof/Laws/Memory.lean: every memory operation keeps the canonical form, and what a byte reads as after it. -/
namespace Sys2Proof.Machine

/-! ### The canonical form -/

theorem cellsWfFrom_weaken {lo hi : Nat} (cs : List Host.Cell) (h : lo ≤ hi) (w : cellsWfFrom hi cs = true) : cellsWfFrom lo cs = true := by
  cases cs with
  | nil => rfl
  | cons c cs =>
    simp only [cellsWfFrom, Bool.and_eq_true, decide_eq_true_eq] at w ⊢
    exact ⟨⟨by omega, w.1.2⟩, w.2⟩

theorem cellsWfFrom_filter (p : Host.Cell → Bool) (lo : Nat) (cs : List Host.Cell) (w : cellsWfFrom lo cs = true) :
    cellsWfFrom lo (cs.filter p) = true := by
  induction cs generalizing lo with
  | nil => rfl
  | cons c cs ih =>
    simp only [cellsWfFrom, Bool.and_eq_true, decide_eq_true_eq] at w
    by_cases hp : p c
    · simp only [List.filter, hp, cellsWfFrom, Bool.and_eq_true, decide_eq_true_eq]; exact ⟨w.1, ih _ w.2⟩
    · simp only [List.filter, hp]; exact cellsWfFrom_weaken _ (by omega) (ih _ w.2)

/-- A list whose keys end below `mid`, followed by one in form from `mid` on. -/
theorem cellsWfFrom_append (lo mid : Nat) (as bs : List Host.Cell) (ha : cellsWfFrom lo as = true)
    (hk : ∀ c ∈ as, c.1 < mid) (hm : lo ≤ mid) (hb : cellsWfFrom mid bs = true) : cellsWfFrom lo (as ++ bs) = true := by
  induction as generalizing lo with
  | nil => exact cellsWfFrom_weaken _ hm hb
  | cons c as ih =>
    simp only [cellsWfFrom, Bool.and_eq_true, decide_eq_true_eq, List.cons_append] at ha ⊢
    exact ⟨ha.1, ih _ ha.2 (fun d hd => hk d (List.mem_cons_of_mem _ hd)) (hk c (List.mem_cons_self ..))⟩

theorem cellsOf_wf (a : Nat) (bs : Bytes) : cellsWfFrom a (cellsOf a bs) = true := by
  induction bs generalizing a with
  | nil => rfl
  | cons b bs ih =>
    by_cases h : b = 0
    · simp only [cellsOf, h, if_true]; exact cellsWfFrom_weaken _ (by omega) (ih (a + 1))
    · have e : cellsOf a (b :: bs) = (a, b) :: cellsOf (a + 1) bs := if_neg h
      simp only [e, cellsWfFrom, ih (a + 1), Bool.and_true, Bool.and_eq_true, decide_eq_true_eq, le_refl, true_and]
      exact bne_iff_ne.2 h

theorem cellsOf_below (a : Nat) (bs : Bytes) : ∀ c ∈ cellsOf a bs, c.1 < a + bs.length := by
  induction bs generalizing a with
  | nil => simp [cellsOf]
  | cons b bs ih =>
    intro c hc
    by_cases h : b = 0
    · simp only [cellsOf, h, if_true] at hc; have := ih _ c hc; simp; omega
    · simp only [cellsOf, h, if_false, List.mem_cons] at hc
      rcases hc with rfl | hc
      · simp
      · have := ih _ c hc; simp; omega

/-- Keys of a list in form from `lo` on are at least `lo`. -/
theorem cellsWfFrom_ge (lo : Nat) (cs : List Host.Cell) (w : cellsWfFrom lo cs = true) : ∀ c ∈ cs, lo ≤ c.1 := by
  induction cs generalizing lo with
  | nil => simp
  | cons d cs ih =>
    intro c hc
    simp only [cellsWfFrom, Bool.and_eq_true, decide_eq_true_eq] at w
    rcases List.mem_cons.1 hc with rfl | hc
    · exact w.1.1
    · have := ih _ w.2 c hc; omega

theorem cellsWfFrom_raise (lo mid : Nat) (cs : List Host.Cell) (h : cellsWfFrom lo cs = true) (hk : ∀ c ∈ cs, mid ≤ c.1) :
    cellsWfFrom mid cs = true := by
  cases cs with
  | nil => rfl
  | cons c cs =>
    simp only [cellsWfFrom, Bool.and_eq_true, decide_eq_true_eq] at h ⊢
    exact ⟨⟨hk c (List.mem_cons_self ..), h.1.2⟩, h.2⟩

theorem cellsWrite_wf (cs : List Host.Cell) (a : Nat) (bs : Bytes) (w : Memory.wf cs = true) :
    Memory.wf (cellsWrite cs a bs) = true := by
  unfold Memory.wf cellsWrite at *
  refine cellsWfFrom_append 0 (a + bs.length) _ _ ?_ ?_ (by omega) ?_
  · refine cellsWfFrom_append 0 a _ _ (cellsWfFrom_filter _ _ _ w) ?_ (by omega) (cellsOf_wf a bs)
    intro c hc; simp at hc; exact hc.2
  · intro c hc
    rcases List.mem_append.1 hc with hc | hc
    · simp at hc; omega
    · exact cellsOf_below a bs c hc
  · refine cellsWfFrom_raise 0 _ _ (cellsWfFrom_filter _ _ _ w) ?_
    intro c hc; simp at hc; exact hc.2

theorem cellsZero_wf (cs : List Host.Cell) (a n : Nat) (w : Memory.wf cs = true) : Memory.wf (cellsZero cs a n) = true :=
  cellsWfFrom_filter _ _ _ w

theorem cellsFilter_wf (p : Host.Cell → Bool) (cs : List Host.Cell) (w : Memory.wf cs = true) : Memory.wf (cs.filter p) = true :=
  cellsWfFrom_filter _ _ _ w

/-! ### A byte after a write -/

theorem cellGet_append (as bs : List Host.Cell) (x : Nat) (h : ∀ c ∈ as, c.1 ≠ x) : cellGet (as ++ bs) x = cellGet bs x := by
  induction as with
  | nil => rfl
  | cons c as ih =>
    obtain ⟨k, v⟩ := c
    have hk : x ≠ k := fun e => h (k, v) (List.mem_cons_self ..) e.symm
    simp [cellGet, hk, ih fun c hc => h c (List.mem_cons_of_mem _ hc)]

theorem cellGet_append_left (as bs : List Host.Cell) (x : Nat) (h : ∀ c ∈ bs, c.1 ≠ x) : cellGet (as ++ bs) x = cellGet as x := by
  induction as with
  | nil =>
    induction bs with
    | nil => rfl
    | cons c bs ih =>
      obtain ⟨k, v⟩ := c
      have hk : x ≠ k := fun e => h (k, v) (List.mem_cons_self ..) e.symm
      simp only [List.nil_append] at ih ⊢
      simp only [cellGet, hk, if_false]
      exact ih fun c hc => h c (List.mem_cons_of_mem _ hc)
  | cons c as ih => obtain ⟨k, v⟩ := c; simp [cellGet, ih]

theorem cellGet_filter (p : Nat → Bool) (cs : List Host.Cell) (x : Nat) (h : p x = true) :
    cellGet (cs.filter fun c => p c.1) x = cellGet cs x := by
  induction cs with
  | nil => rfl
  | cons c cs ih =>
    obtain ⟨k, v⟩ := c
    by_cases hk : x = k
    · subst hk; simp [List.filter, h, cellGet]
    · by_cases hp : p k
      · simp [List.filter, hp, cellGet, hk, ih]
      · simp [List.filter, hp, cellGet, hk, ih]

theorem cellGet_cellsOf (a : Nat) (bs : Bytes) (i : Nat) (h : i < bs.length) : cellGet (cellsOf a bs) (a + i) = bs[i] := by
  induction bs generalizing a i with
  | nil => simp at h
  | cons b bs ih =>
    cases i with
    | zero =>
      by_cases hb : b = 0
      · subst hb
        have : ∀ c ∈ cellsOf (a + 1) bs, c.1 ≠ a := by
          intro c hc e
          have := cellsWfFrom_ge _ _ (cellsOf_wf (a + 1) bs) c hc
          omega
        have h2 := cellGet_append (cellsOf (a + 1) bs) [] a this
        simp only [List.append_nil] at h2
        simp [cellsOf, h2, cellGet]
      · have e : cellsOf a (b :: bs) = (a, b) :: cellsOf (a + 1) bs := if_neg hb
        simp [e, cellGet]
    | succ j =>
      have hj : j < bs.length := by simpa using h
      have e : a + (j + 1) = a + 1 + j := by omega
      by_cases hb : b = 0
      · simp only [cellsOf, hb, if_true, e]; simpa using ih (a + 1) j hj
      · have : a + 1 + j ≠ a := by omega
        simp only [cellsOf, hb, if_false, e, cellGet, this]; simpa using ih (a + 1) j hj

/-- A byte outside the bytes written reads as before. -/
theorem cellGet_cellsWrite_out (cs : List Host.Cell) (a : Nat) (bs : Bytes) (x : Nat) (h : x < a ∨ a + bs.length ≤ x) :
    cellGet (cellsWrite cs a bs) x = cellGet cs x := by
  unfold cellsWrite
  have hof : ∀ c ∈ cellsOf a bs, a ≤ c.1 ∧ c.1 < a + bs.length := by
    intro c hc
    refine ⟨?_, cellsOf_below a bs c hc⟩
    exact cellsWfFrom_ge _ _ (cellsOf_wf a bs) c hc
  rcases h with h | h
  · rw [cellGet_append_left _ _ _ (fun c hc => by simp at hc; omega),
      cellGet_append_left _ _ _ (fun c hc => by have := hof c hc; omega)]
    exact cellGet_filter (fun k => decide (k < a)) cs x (by simpa using h)
  · rw [cellGet_append _ _ _ (fun c hc => by
      rcases List.mem_append.1 hc with hc | hc
      · simp at hc; omega
      · have := hof c hc; omega)]
    exact cellGet_filter (fun k => decide (a + bs.length ≤ k)) cs x (by simpa using h)

/-- A byte inside the bytes written reads as written. -/
theorem cellGet_cellsWrite_in (cs : List Host.Cell) (a : Nat) (bs : Bytes) (i : Nat) (h : i < bs.length) :
    cellGet (cellsWrite cs a bs) (a + i) = bs[i] := by
  unfold cellsWrite
  rw [cellGet_append_left _ _ _ (fun c hc => by simp at hc; omega),
    cellGet_append _ _ _ (fun c hc => by simp at hc; omega)]
  exact cellGet_cellsOf a bs i h

/-! ### The state's memories -/

theorem State.hbmWrite_ok (s : State) (p a : Nat) (bs : Bytes) (h : s.memOk) : (s.hbmWrite p a bs).memOk :=
  ⟨cellsWrite_wf _ _ _ h.1, h.2⟩

theorem State.hostWrite_ok (s : State) (k a : Nat) (bs : Bytes) (h : s.memOk) : (s.hostWrite k a bs).memOk := by
  unfold State.hostWrite; split
  · exact ⟨h.1, cellsWrite_wf _ _ _ h.2.1, h.2.2⟩
  · exact ⟨h.1, h.2.1, cellsWrite_wf _ _ _ h.2.2⟩

/-- What a written segment is: one write to HBM or to host memory. -/
theorem State.writeSeg_cases (s t : State) (g va : Nat) (bs : Bytes) (h : s.writeSeg g va bs = .ok t) :
    (∃ x, s.xlate g va = some x ∧ x.host = false ∧ t = s.hbmWrite (partOfCtx g) x.addr bs) ∨
    (∃ x, s.xlate g va = some x ∧ x.host = true ∧
      t = s.hostWrite (s.hostIfOf g) (hostKey (s.cfg (0x3600 + g) 7) x.addr) bs) := by
  unfold State.writeSeg at h
  split at h
  · cases h
  · rename_i x hx
    split at h
    · cases h
    · split at h
      · rename_i hh
        split at h
        · cases h; exact .inr ⟨x, hx, hh, rfl⟩
        · cases h
      · rename_i hh; cases h; exact .inl ⟨x, hx, by simpa using hh, rfl⟩

theorem State.writeSeg_ok (s t : State) (g va : Nat) (bs : Bytes) (h : s.writeSeg g va bs = .ok t) (w : s.memOk) : t.memOk := by
  rcases s.writeSeg_cases t g va bs h with ⟨x, -, -, rfl⟩ | ⟨x, -, -, rfl⟩
  · exact s.hbmWrite_ok _ _ _ w
  · exact s.hostWrite_ok _ _ _ w

theorem State.writeSegs_ok (g : Nat) (segs : List (Nat × Nat)) (s : State) (bs : Bytes) (w : s.memOk) : (s.writeSegs g segs bs).1.memOk := by
  induction segs generalizing s bs with
  | nil => exact w
  | cons e rest ih =>
    obtain ⟨va, n⟩ := e
    simp only [State.writeSegs]
    split
    · exact w
    · rename_i t h; exact ih t _ (s.writeSeg_ok t g va _ h w)

theorem State.writeVa_ok (s : State) (g va : Nat) (bs : Bytes) (w : s.memOk) : (s.writeVa g va bs).1.memOk := s.writeSegs_ok g _ bs w

theorem State.writeAll_ok (g : Nat) (ws : List (Nat × Bytes)) (s : State) (w : s.memOk) : (s.writeAll g ws).1.memOk := by
  induction ws generalizing s with
  | nil => exact w
  | cons e rest ih =>
    obtain ⟨va, bs⟩ := e
    have h1 := s.writeVa_ok g va bs w
    simp only [State.writeAll]
    split
    · rename_i h; rw [h] at h1; exact h1
    · rename_i t h; rw [h] at h1; exact ih t h1

/-! ### What a write to memory leaves alone -/

/-- The parts of the state that no write to memory changes. -/
def State.sameButMem (s t : State) : Prop :=
  ∃ hbm sums dies h0 h1, t = { s with hbm := hbm, sumDelta := sums, dies := dies, host0 := h0, host1 := h1 }

theorem State.sameButMem_refl (s : State) : s.sameButMem s := ⟨s.hbm, s.sumDelta, s.dies, s.host0, s.host1, rfl⟩

theorem State.sameButMem_trans {s t u : State} (h1 : s.sameButMem t) (h2 : t.sameButMem u) : s.sameButMem u := by
  obtain ⟨a, b, c, d, e, rfl⟩ := h1
  obtain ⟨a', b', c', d', e', rfl⟩ := h2
  exact ⟨a', b', c', d', e', rfl⟩

theorem State.hbmWrite_same (s : State) (p a : Nat) (bs : Bytes) : s.sameButMem (s.hbmWrite p a bs) := ⟨_, _, _, s.host0, s.host1, rfl⟩

theorem State.hostWrite_same (s : State) (k a : Nat) (bs : Bytes) : s.sameButMem (s.hostWrite k a bs) := by
  unfold State.hostWrite; split
  · exact ⟨s.hbm, s.sumDelta, s.dies, _, s.host1, rfl⟩
  · exact ⟨s.hbm, s.sumDelta, s.dies, s.host0, _, rfl⟩

theorem State.writeSeg_same (s t : State) (g va : Nat) (bs : Bytes) (h : s.writeSeg g va bs = .ok t) : s.sameButMem t := by
  rcases s.writeSeg_cases t g va bs h with ⟨x, -, -, rfl⟩ | ⟨x, -, -, rfl⟩
  · exact s.hbmWrite_same _ _ _
  · exact s.hostWrite_same _ _ _

theorem State.writeSegs_same (g : Nat) (segs : List (Nat × Nat)) (s : State) (bs : Bytes) : s.sameButMem (s.writeSegs g segs bs).1 := by
  induction segs generalizing s bs with
  | nil => exact s.sameButMem_refl
  | cons e rest ih =>
    obtain ⟨va, n⟩ := e
    simp only [State.writeSegs]
    split
    · exact s.sameButMem_refl
    · rename_i t h; exact State.sameButMem_trans (s.writeSeg_same t g va _ h) (ih t _)

theorem State.writeVa_same (s : State) (g va : Nat) (bs : Bytes) : s.sameButMem (s.writeVa g va bs).1 := State.writeSegs_same g _ s bs

theorem State.writeAll_same (g : Nat) (ws : List (Nat × Bytes)) (s : State) : s.sameButMem (s.writeAll g ws).1 := by
  induction ws generalizing s with
  | nil => exact s.sameButMem_refl
  | cons e rest ih =>
    obtain ⟨va, bs⟩ := e
    have h1 := s.writeVa_same g va bs
    simp only [State.writeAll]
    split
    · rename_i h; rw [h] at h1; exact h1
    · rename_i t h; rw [h] at h1; exact State.sameButMem_trans h1 (ih t)

end Sys2Proof.Machine
end

