-- ==== Sys2Proof/Laws/Good.lean ====
section
/-! SUPPORT. Sys2Proof/Laws/Good.lean: every operation keeps the canonical form of the memories: one lemma for each. -/
set_option linter.all false
namespace Sys2Proof.Machine

/-- The canonical form, as a definition that simp does not open. -/
def State.memGood (s : State) : Prop := s.memOk

theorem foldl_memGood {α : Type} (f : State → α → State) (h : ∀ s a, s.memGood → (f s a).memGood) (l : List α) (s : State)
    (hs : s.memGood) : (l.foldl f s).memGood := by
  induction l generalizing s with
  | nil => exact hs
  | cons a l ih => exact ih _ (h s a hs)
theorem foldl1_memGood {α β : Type} (f : State × β → α → State × β) (h : ∀ s a, s.1.memGood → (f s a).1.memGood) (l : List α)
    (s : State × β) (hs : s.1.memGood) : (l.foldl f s).1.memGood := by
  induction l generalizing s with
  | nil => exact hs
  | cons a l ih => exact ih _ (h s a hs)

/-! ### Access -/

theorem State.modCtx_memGood (s : State) (g : Nat) (f : Ctx → Ctx) (hG : s.memGood) :
    (State.modCtx s g f).memGood := by exact hG

theorem State.setQueue_memGood (s : State) (g q : Nat) (u : Queue) (hG : s.memGood) :
    (State.setQueue s g q u).memGood := by ((unfold State.setQueue; (try dsimp only); (repeat' split) <;> simp only [State.modCtx_memGood, hG]); done)

theorem State.modQueue_memGood (s : State) (g q : Nat) (f : Queue → Queue) (hG : s.memGood) :
    (State.modQueue s g q f).memGood := by ((unfold State.modQueue; (try dsimp only); (repeat' split) <;> simp only [State.setQueue_memGood, hG]); done)

theorem State.modRun_memGood (s : State) (g q seq : Nat) (f : Run → Run) (hG : s.memGood) :
    (State.modRun s g q seq f).memGood := by ((unfold State.modRun; (try dsimp only); (repeat' split) <;> simp only [State.modQueue_memGood, hG]); done)

theorem State.setCounter_memGood (s : State) (g n : Nat) (v : BitVec 32) (hG : s.memGood) :
    (State.setCounter s g n v).memGood := by ((unfold State.setCounter; (try dsimp only); (repeat' split) <;> simp only [State.modCtx_memGood, hG]); done)

theorem State.modPart_memGood (s : State) (p : Nat) (f : Part → Part) (hG : s.memGood) :
    (State.modPart s p f).memGood := by exact hG

theorem State.modCore_memGood (s : State) (c : Nat) (f : Core → Core) (hG : s.memGood) :
    (State.modCore s c f).memGood := by exact hG

theorem State.modDie_memGood (s : State) (d : Nat) (f : Die → Die) (hG : s.memGood) :
    (State.modDie s d f).memGood := by exact hG

theorem State.modStack_memGood (s : State) (k : Nat) (f : Stack → Stack) (hG : s.memGood) :
    (State.modStack s k f).memGood := by exact hG

theorem State.modLink_memGood (s : State) (n : Nat) (f : D2d → D2d) (hG : s.memGood) :
    (State.modLink s n f).memGood := by exact hG

theorem State.modPwr_memGood (s : State) (f : Power → Power) (hG : s.memGood) :
    (State.modPwr s f).memGood := by exact hG

theorem State.modDomain_memGood (s : State) (n : Nat) (f : Domain → Domain) (hG : s.memGood) :
    (State.modDomain s n f).memGood := by ((unfold State.modDomain; (try dsimp only); (repeat' split) <;> simp only [State.modPwr_memGood, hG]); done)

theorem State.modDale_memGood (s : State) (n : Nat) (f : Dale → Dale) (hG : s.memGood) :
    (State.modDale s n f).memGood := by ((unfold State.modDale; (try dsimp only); (repeat' split) <;> simp only [State.modPwr_memGood, hG]); done)

theorem State.modHif_memGood (s : State) (h : Nat) (f : HostIf → HostIf) (hG : s.memGood) :
    (State.modHif s h f).memGood := by (unfold State.modHif; (repeat' split) <;> first | exact hG | assumption | grind | grind [State.memGood, State.memOk])

theorem State.modPort_memGood (s : State) (p : Nat) (f : Port → Port) (hG : s.memGood) :
    (State.modPort s p f).memGood := by exact hG

theorem State.modFab_memGood (s : State) (f : Fabric → Fabric) (hG : s.memGood) :
    (State.modFab s f).memGood := by exact hG

theorem State.modSec_memGood (s : State) (f : Security → Security) (hG : s.memGood) :
    (State.modSec s f).memGood := by exact hG

theorem State.setCfg_memGood (s : State) (index sub : Nat) (v : Bytes) (hG : s.memGood) :
    (State.setCfg s index sub v).memGood := by exact hG

theorem State.setCfgNat_memGood (s : State) (index sub n v : Nat) (hG : s.memGood) :
    (State.setCfgNat s index sub n v).memGood := by ((unfold State.setCfgNat; (try dsimp only); (repeat' split) <;> simp only [State.setCfg_memGood, hG]); done)

theorem State.dropCfg_memGood (s : State) (p : Nat → Bool) (hG : s.memGood) :
    (State.dropCfg s p).memGood := by exact hG

theorem State.draw_memGood (s : State) (hG : s.memGood) :
    (State.draw s).2.memGood := by exact hG

/-! ### Memory -/

theorem State.hbmWrite_memGood (s : State) (p a : Nat) (bs : Bytes) (hs : s.memGood) : (s.hbmWrite p a bs).memGood := s.hbmWrite_ok p a bs hs

theorem State.hostWrite_memGood (s : State) (k a : Nat) (bs : Bytes) (hs : s.memGood) : (s.hostWrite k a bs).memGood := s.hostWrite_ok k a bs hs

theorem State.writeSeg_memGood (s : State) (g va : Nat) (bs : Bytes) (hs : s.memGood) (t : State) (h : s.writeSeg g va bs = .ok t) : t.memGood :=
  s.writeSeg_ok t g va bs h hs

theorem State.writeSegs_memGood (s : State) (g : Nat) (l : List (Nat × Nat)) (bs : Bytes) (hs : s.memGood) : (s.writeSegs g l bs).1.memGood :=
  State.writeSegs_ok g l s bs hs

theorem State.writeVa_memGood (s : State) (g va : Nat) (bs : Bytes) (hs : s.memGood) : (s.writeVa g va bs).1.memGood := s.writeVa_ok g va bs hs

theorem State.writeAll_memGood (s : State) (g : Nat) (ws : List (Nat × Bytes)) (hs : s.memGood) : (s.writeAll g ws).1.memGood :=
  State.writeAll_ok g ws s hs

/-! ### Ops -/

theorem State.tick_memGood (s : State) (hG : s.memGood) :
    (State.tick s).memGood := by ((unfold State.tick; (try dsimp only); (repeat' split) <;> simp only [State.modPwr_memGood, hG]); done)

theorem State.event_memGood (s : State) (cls pt p : Nat) (detail : Bytes) (hG : s.memGood) :
    (State.event s cls pt p detail).memGood := by exact hG

theorem State.secureRequest_memGood (s : State) (cause : Nat) (hG : s.memGood) :
    (State.secureRequest s cause).memGood := by (unfold State.secureRequest; (repeat' split) <;> first | exact hG | assumption | grind [State.event_memGood] | grind [State.event_memGood, State.memGood, State.memOk])

theorem State.qualify_memGood (s : State) (hs : s.memGood) : s.qualify.memGood := by
  unfold State.qualify; dsimp only; split <;> exact hs

theorem State.raiseVec_memGood (s : State) (h v : Nat) (hG : s.memGood) :
    (State.raiseVec s h v).memGood := by ((unfold State.raiseVec; (try dsimp only); (repeat' split) <;> simp only [State.modHif_memGood, hG]); done)

theorem State.raiseFor_memGood (s : State) (p h v : Nat) (hG : s.memGood) :
    (State.raiseFor s p h v).memGood := by ((unfold State.raiseFor; (try dsimp only); (repeat' split) <;> simp only [State.raiseVec_memGood, hG]); done)

theorem State.freeCore_memGood (s : State) (c : Nat) (hG : s.memGood) :
    (State.freeCore s c).memGood := by ((unfold State.freeCore; (try dsimp only); (repeat' split) <;> simp only [State.modCore_memGood, State.modDie_memGood, hG]); done)

theorem State.resetDale_memGood (s : State) (n : Nat) (hG : s.memGood) :
    (State.resetDale s n).memGood := by ((unfold State.resetDale; (try dsimp only); (repeat' split) <;> simp only [State.modPwr_memGood, hG]); done)

theorem State.finish_memGood (s : State) (g q seq status : Nat) (hG : s.memGood) :
    (State.finish s g q seq status).memGood := by ((unfold State.finish; (try dsimp only); (repeat' split) <;> simp only [State.modQueue_memGood, hG]); done)

theorem State.chargeBusy_memGood (s : State) (g ns : Nat) (hG : s.memGood) :
    (State.chargeBusy s g ns).memGood := by ((unfold State.chargeBusy; (try dsimp only); (repeat' split) <;> simp only [State.modCtx_memGood, hG]); done)

theorem State.returnTile_memGood (s : State) (t : TileRun) (hG : s.memGood) :
    (State.returnTile s t).memGood := by ((unfold State.returnTile; (try dsimp only); (repeat' split) <;> simp only [State.modCtx_memGood, State.modRun_memGood, hG]); done)

theorem State.dropWaiting_memGood (s : State) (g : Nat) (hG : s.memGood) :
    (State.dropWaiting s g).memGood := by (unfold State.dropWaiting; grind [State.freeCore_memGood, State.returnTile_memGood, foldl_memGood])

theorem State.stopQueues_memGood (s : State) (g : Nat) (hG : s.memGood) :
    (State.stopQueues s g).memGood := by (unfold State.stopQueues; grind [State.modQueue_memGood, foldl_memGood])

theorem State.corruptEvent_memGood (s : State) (g tile : Nat) (hG : s.memGood) :
    (State.corruptEvent s g tile).memGood := by ((unfold State.corruptEvent; (try dsimp only); (repeat' split) <;> simp only [State.event_memGood, hG]); done)

theorem State.faultCtx_memGood (s : State) (g q seq status tile : Nat) (hG : s.memGood) :
    (State.faultCtx s g q seq status tile).memGood := by (unfold State.faultCtx; grind [State.chargeBusy_memGood, State.corruptEvent_memGood, State.dropWaiting_memGood, State.modCtx_memGood, State.stopQueues_memGood])

theorem State.jobFault_memGood (s : State) (g q seq status tile : Nat) (hG : s.memGood) :
    (State.jobFault s g q seq status tile).memGood := by
  unfold State.jobFault
  split
  · exact hG
  · exact State.faultCtx_memGood _ _ _ _ _ _ (State.finish_memGood _ _ _ _ _ (State.chargeBusy_memGood _ _ _ hG))

theorem State.conclude_memGood (s : State) (g q seq status tile : Nat) (hG : s.memGood) :
    (State.conclude s g q seq status tile).memGood := by ((unfold State.conclude; (try dsimp only); (repeat' split) <;> simp only [State.finish_memGood, State.jobFault_memGood, hG]); done)

theorem State.signal_memGood (s : State) (g op n i : Nat) (hG : s.memGood) :
    (State.signal s g op n i).memGood := by ((unfold State.signal; (try dsimp only); (repeat' split) <;> simp only [State.setCounter_memGood, hG]); done)

theorem State.dropXlat_memGood (s : State) (g : Nat) (hG : s.memGood) :
    (State.dropXlat s g).memGood := by exact hG

/-! ### Cache -/

theorem State.fillLine_memGood (s : State) (p dpa : Nat) (hG : s.memGood) :
    (State.fillLine s p dpa).memGood := by ((unfold State.fillLine; (try dsimp only); (repeat' split) <;> simp only [State.modDie_memGood, hG]); done)

theorem State.readLine_memGood (s : State) (g va : Nat) (hG : s.memGood) :
    (State.readLine s g va).memGood := hG

theorem State.keepXlat_memGood (s : State) (g va : Nat) (hG : s.memGood) :
    (State.keepXlat s g va).memGood := by ((unfold State.keepXlat; (try dsimp only); (repeat' split) <;> simp only [State.modCtx_memGood, hG]); done)

theorem State.forgetXlat_memGood (s : State) (g : Nat) (hG : s.memGood) :
    (State.forgetXlat s g).memGood := by ((unfold State.forgetXlat; (try dsimp only); (repeat' split) <;> simp only [State.draw_memGood, State.modCtx_memGood, hG]); done)

theorem State.demandReads_memGood (s : State) (d g : Nat) (reads : List (Nat × Nat)) (hG : s.memGood) :
    (State.demandReads s d g reads).memGood := by (unfold State.demandReads; grind [State.modDie_memGood, State.readLine_memGood, foldl_memGood])

theorem State.keepRange_memGood (s : State) (g : Nat) (r : Nat × Nat) (hG : s.memGood) :
    (State.keepRange s g r).memGood := by (unfold State.keepRange; grind [State.keepXlat_memGood, foldl_memGood])

theorem State.accessed_memGood (s : State) (d g : Nat) (reads writes : List (Nat × Nat)) (hG : s.memGood) :
    (State.accessed s d g reads writes).memGood := by (unfold State.accessed; grind [State.demandReads_memGood, State.forgetXlat_memGood, State.keepRange_memGood, foldl_memGood])

/-! ### Doorbell -/

theorem State.rejectDoorbell_memGood (s : State) (g q cause v : Nat) (hG : s.memGood) :
    (State.rejectDoorbell s g q cause v).memGood := by ((unfold State.rejectDoorbell; (try dsimp only); (repeat' split) <;> simp only [State.event_memGood, State.modQueue_memGood, hG]); done)

theorem State.acceptTail_memGood (s : State) (g q v : Nat) (hG : s.memGood) :
    (State.acceptTail s g q v).memGood := by ((unfold State.acceptTail; (try dsimp only); (repeat' split) <;> simp only [State.modQueue_memGood, State.rejectDoorbell_memGood, hG]); done)

theorem State.sqTail_memGood (s : State) (h g q : Nat) (v : BitVec 32) (hG : s.memGood) :
    (State.sqTail s h g q v).memGood := by ((unfold State.sqTail; (try dsimp only); (repeat' split) <;> simp only [State.acceptTail_memGood, hG]); done)

theorem State.acceptHead_memGood (s : State) (g q v : Nat) (hG : s.memGood) :
    (State.acceptHead s g q v).memGood := by ((unfold State.acceptHead; (try dsimp only); (repeat' split) <;> simp only [State.modQueue_memGood, State.rejectDoorbell_memGood, hG]); done)

theorem State.cqHead_memGood (s : State) (h g q : Nat) (v : BitVec 32) (hG : s.memGood) :
    (State.cqHead s h g q v).memGood := by ((unfold State.cqHead; (try dsimp only); (repeat' split) <;> simp only [State.acceptHead_memGood, hG]); done)

theorem State.acceptSignal_memGood (s : State) (g v : Nat) (hG : s.memGood) :
    (State.acceptSignal s g v).memGood := by ((unfold State.acceptSignal; (try dsimp only); (repeat' split) <;> simp only [State.modCtx_memGood, State.signal_memGood, hG]); done)

theorem State.hostSignal_memGood (s : State) (h g : Nat) (v : BitVec 32) (hG : s.memGood) :
    (State.hostSignal s h g v).memGood := by ((unfold State.hostSignal; (try dsimp only); (repeat' split) <;> simp only [State.acceptSignal_memGood, hG]); done)

/-! ### Operands -/

theorem State.coreLeft_memGood (s old : State) (c g : Nat) (w : Work) (hG : s.memGood) :
    (State.coreLeft s old c g w).memGood := by ((unfold State.coreLeft; (try dsimp only); (repeat' split) <;> simp only [State.modCore_memGood, hG]); done)

theorem State.leftIn_memGood (s old : State) (g q seq t : Nat) (w : Work) (hG : s.memGood) :
    (State.leftIn s old g q seq t w).memGood := by ((unfold State.leftIn; (try dsimp only); (repeat' split) <;> simp only [State.coreLeft_memGood, hG]); done)

theorem State.markTile_memGood (s : State) (g q seq t : Nat) (ts : List Tally) (hG : s.memGood) :
    (State.markTile s g q seq t ts).memGood := by ((unfold State.markTile; (try dsimp only); (repeat' split) <;> simp only [State.modRun_memGood, hG]); done)

theorem State.failTile_memGood (s : State) (g q seq t status tile : Nat) (hG : s.memGood) :
    (State.failTile s g q seq t status tile).memGood := by ((unfold State.failTile; (try dsimp only); (repeat' split) <;> simp only [State.jobFault_memGood, State.markTile_memGood, hG]); done)

theorem State.carry_memGood (s : State) (g q seq t : Nat) (w : Work) (hG : s.memGood) :
    (State.carry s g q seq t w).memGood := by (unfold State.carry; grind [State.accessed_memGood, State.failTile_memGood, State.leftIn_memGood, State.markTile_memGood, State.writeAll_memGood])

theorem State.dataRow_memGood (s : State) (g q seq : Nat) (kind : Run → Bool) (work : Run → Nat → Work) (hG : s.memGood) :
    (State.dataRow s g q seq kind work).memGood := by ((unfold State.dataRow; (try dsimp only); (repeat' split) <;> simp only [State.carry_memGood, hG]); done)

theorem State.engineServed_memGood (s : State) (e g : Nat) (hG : s.memGood) :
    (State.engineServed s e g).memGood := by ((unfold State.engineServed; (try dsimp only); (repeat' split) <;> simp only [State.modPart_memGood, hG]); done)

theorem State.ranWith_memGood (s : State) (g q seq status : Nat) (hG : s.memGood) :
    (State.ranWith s g q seq status).memGood := by ((unfold State.ranWith; (try dsimp only); (repeat' split) <;> simp only [State.modRun_memGood, hG]); done)

/-! ### Norm -/

theorem State.normRow_memGood (s : State) (g q seq op : Nat) (hG : s.memGood) :
    (State.normRow s g q seq op).memGood := by ((unfold State.normRow; (try dsimp only); (repeat' split) <;> simp only [State.dataRow_memGood, hG]); done)

/-! ### Move -/

theorem State.putDeltas_memGood (s : State) (g va n : Nat) (ds : List (Nat × BitVec 32)) (hG : s.memGood) :
    (State.putDeltas s g va n ds).memGood := by (unfold State.putDeltas; refine foldl_memGood _ ?_ _ _ hG; intros; (repeat' split) <;> first | assumption | grind [foldl_memGood])

theorem State.putDeltas_memGood' (s : State) (g va n : Nat) (ds : List (Nat × BitVec 32)) (hs : s.memGood) : (s.putDeltas g va n ds).memGood := by
  unfold State.putDeltas; refine foldl_memGood _ ?_ _ _ hs; intro s a h; split <;> exact h
theorem State.moveSegs_memGood (s : State) (g : Nat) (ds : List (Nat × BitVec 32)) (l : List (Nat × Nat)) (bs : Bytes) (hs : s.memGood) :
    (s.moveSegs g ds l bs).1.memGood := by
  induction l generalizing s bs with
  | nil => exact hs
  | cons e rest ih =>
    obtain ⟨va, n⟩ := e
    unfold State.moveSegs
    grind [State.writeSeg_memGood, State.putDeltas_memGood']

theorem State.moveWrites_memGood (s : State) (g : Nat) (ds : List (Nat × BitVec 32)) (l : List (Nat × Bytes)) (hs : s.memGood) :
    (s.moveWrites g ds l).1.memGood := by
  induction l generalizing s with
  | nil => exact hs
  | cons e rest ih =>
    obtain ⟨va, bs⟩ := e
    unfold State.moveWrites
    grind [State.moveSegs_memGood]

theorem State.moveTile_memGood (s : State) (g : Nat) (b : MoveBody) (at' : Nat) (hG : s.memGood) :
    (State.moveTile s g b at').1.memGood := by (unfold State.moveTile; grind [State.moveWrites_memGood])

theorem State.engineTile_memGood (s : State) (g q seq n total status : Nat) (hG : s.memGood) :
    (State.engineTile s g q seq n total status).memGood := by ((unfold State.engineTile; (try dsimp only); (repeat' split) <;> simp only [State.modRun_memGood, hG]); done)

theorem State.moveAll_memGood (s : State) (g : Nat) (b : MoveBody) (n at' : Nat) (hG : s.memGood) : (s.moveAll g b n at').1.memGood := by
  induction n generalizing s at' with
  | zero => exact hG
  | succ n ih =>
    unfold State.moveAll
    have h := s.moveTile_memGood g b at' hG
    split
    · exact hG
    · split
      · rename_i e; rw [e] at h; exact h
      · rename_i e; rw [e] at h; exact ih _ _ (State.accessed_memGood _ _ _ _ _ h)

theorem State.moveDo_memGood (s : State) (g q seq : Nat) (r : Run) (hG : s.memGood) :
    (State.moveDo s g q seq r).memGood := by (unfold State.moveDo; grind [State.accessed_memGood, State.engineTile_memGood, State.jobFault_memGood, State.moveTile_memGood])

theorem State.moveRow_memGood (s : State) (g q seq mode : Nat) (hG : s.memGood) :
    (State.moveRow s g q seq mode).memGood := by ((unfold State.moveRow; (try dsimp only); (repeat' split) <;> simp only [State.engineServed_memGood, State.moveDo_memGood, hG]); done)

theorem State.noteBad_memGood (s : State) (g q seq : Nat) (bad : List Nat) (hG : s.memGood) :
    (State.noteBad s g q seq bad).memGood := by (unfold State.noteBad; grind [State.corruptEvent_memGood, State.modRun_memGood, foldl_memGood])

theorem State.checkEnd_memGood (s : State) (g q seq : Nat) (r : Run) (n : Nat) (hG : s.memGood) :
    (State.checkEnd s g q seq r n).memGood := by (unfold State.checkEnd; grind [State.engineTile_memGood, State.jobFault_memGood, State.writeVa_memGood])

theorem State.checkDo_memGood (s : State) (g q seq : Nat) (r : Run) (hG : s.memGood) :
    (State.checkDo s g q seq r).memGood := by (unfold State.checkDo; grind [State.accessed_memGood, State.checkEnd_memGood, State.engineTile_memGood, State.jobFault_memGood, State.noteBad_memGood])

theorem State.checkRow_memGood (s : State) (g q seq : Nat) (hG : s.memGood) :
    (State.checkRow s g q seq).memGood := by ((unfold State.checkRow; (try dsimp only); (repeat' split) <;> simp only [State.checkDo_memGood, State.engineServed_memGood, hG]); done)

theorem State.tornRead_memGood (s : State) (g q seq : Nat) (hG : s.memGood) :
    (State.tornRead s g q seq).memGood := by exact hG

theorem State.corruptTile_memGood (s : State) (g q seq va : Nat) (op : Nat) (delta : BitVec 32) (hG : s.memGood) :
    (State.corruptTile s g q seq va op delta).memGood := by (unfold State.corruptTile; (try dsimp only); (repeat' split) <;> first | exact hG | (apply State.jobFault_memGood <;> exact hG) | grind [State.jobFault_memGood])

theorem State.rereadBad_memGood (s : State) (g q seq va : Nat) (delta : BitVec 32) (hG : s.memGood) :
    (State.rereadBad s g q seq va delta).memGood := by ((unfold State.rereadBad; (try dsimp only); (repeat' split) <;> simp only [State.corruptTile_memGood, hG]); done)

theorem State.reread_memGood (s : State) (g q seq va : Nat) (delta : BitVec 32) (hG : s.memGood) :
    (State.reread s g q seq va delta).memGood := by ((unfold State.reread; (try dsimp only); (repeat' split) <;> simp only [State.rereadBad_memGood, State.tornRead_memGood, hG]); done)

/-! ### Hbm -/

theorem State.prefetch_memGood (s : State) (d g va : Nat) (desc : Bool) (hG : s.memGood) :
    (State.prefetch s d g va desc).memGood := by (unfold State.prefetch; grind [State.fillLine_memGood, State.modDie_memGood, foldl_memGood])

theorem State.hotRecord_memGood (s : State) (p k n mean : Nat) (hG : s.memGood) :
    (State.hotRecord s p k n mean).memGood := by ((unfold State.hotRecord; (try dsimp only); (repeat' split) <;> simp only [State.event_memGood, State.modStack_memGood, hG]); done)

theorem State.hotStack_memGood (s : State) (p k n mean : Nat) (hG : s.memGood) :
    (State.hotStack s p k n mean).memGood := by ((unfold State.hotStack; (try dsimp only); (repeat' split) <;> simp only [State.hotRecord_memGood, hG]); done)

theorem State.hotWindow_memGood (s : State) (p : Nat) (counts : List Nat) (hG : s.memGood) :
    (State.hotWindow s p counts).memGood := by (unfold State.hotWindow; grind [State.hotStack_memGood, State.modPart_memGood, State.modStack_memGood, foldl_memGood])

theorem State.retrain_memGood (s : State) (k ch : Nat) (hG : s.memGood) :
    (State.retrain s k ch).memGood := by ((unfold State.retrain; (try dsimp only); (repeat' split) <;> simp only [State.modStack_memGood, hG]); done)

/-! ### Bwd -/

theorem State.mergeTally_memGood (s : State) (g : Nat) (t : Tally) (hG : s.memGood) :
    (State.mergeTally s g t).1.memGood := by ((unfold State.mergeTally; (try dsimp only); (repeat' split) <;> simp only [State.writeVa_memGood, hG]); done)

theorem State.eachSlot_memGood (s : State) (g : Nat) (f : Bytes → Bytes) (hG : s.memGood) :
    (State.eachSlot s g f).1.memGood := by (unfold State.eachSlot; refine foldl1_memGood _ ?_ _ _ hG; intros; first | exact hG | assumption | grind [State.writeVa_memGood, foldl_memGood] | grind [State.writeVa_memGood, foldl_memGood, State.memGood, State.memOk])

theorem State.govCommit_memGood (s : State) (g : Nat) (hG : s.memGood) :
    (State.govCommit s g).1.memGood := by ((unfold State.govCommit; (try dsimp only); (repeat' split) <;> simp only [State.eachSlot_memGood, hG]); done)

theorem State.govClear_memGood (s : State) (g : Nat) (hG : s.memGood) :
    (State.govClear s g).1.memGood := by ((unfold State.govClear; (try dsimp only); (repeat' split) <;> simp only [State.eachSlot_memGood, hG]); done)

/-! ### Conv -/

theorem State.convRow_memGood (s : State) (g q seq : Nat) (dw : Bool) (kind : Bytes → Bool) (hG : s.memGood) :
    (State.convRow s g q seq dw kind).memGood := by ((unfold State.convRow; (try dsimp only); (repeat' split) <;> simp only [State.dataRow_memGood, hG]); done)

/-! ### Kv -/

/-- An outcome of the cache's operations: a predicate of its value, and the fixed part kept where a fault leaves a state. -/
def KvGood {α : Type} (P : α → Prop) (m : KvM α) : Prop :=
  (∀ a, m = .ok a → P a) ∧ ∀ f t, m = .error (.fault f (some t)) → t.memGood
theorem KvGood.ok {α : Type} {P : α → Prop} {a : α} (h : P a) : KvGood P (.ok a : KvM α) :=
  ⟨fun b e => by cases e; exact h, fun _ _ e => by cases e⟩
theorem KvGood.pure {α : Type} {P : α → Prop} {a : α} (h : P a) : KvGood P (Pure.pure a : KvM α) := KvGood.ok h
theorem KvGood.bind {α β : Type} {P : α → Prop} {Q : β → Prop} {m : KvM α} {f : α → KvM β} (hm : KvGood P m)
    (hf : ∀ a, P a → KvGood Q (f a)) : KvGood Q (m >>= f) := by
  cases m with
  | ok a => exact hf a (hm.1 a rfl)
  | error e =>
    refine ⟨fun _ h => (nomatch h), fun x t h => ?_⟩
    cases h; exact hm.2 x t rfl
theorem KvGood.fault {α : Type} {P : α → Prop} {st : Nat} : KvGood P (kvFault st : KvM α) :=
  ⟨fun _ e => (nomatch e), fun _ _ e => by unfold kvFault at e; cases e⟩
theorem KvGood.wait {α : Type} {P : α → Prop} {b : Bool} : KvGood P (.error (.wait b) : KvM α) :=
  ⟨fun _ e => (nomatch e), fun _ _ e => by cases e⟩
theorem KvGood.err {α : Type} {P : α → Prop} {f : Fail} {t : State} (h : t.memGood) : KvGood P (.error (.fault f (some t)) : KvM α) :=
  ⟨fun _ e => (nomatch e), fun _ _ e => by cases e; exact h⟩
theorem KvGood.lift {α : Type} {s : State} {e : Except Fail α} (h : s.memGood) : KvGood (fun _ => True) (kvLift s e) := by
  cases e with
  | ok a => exact KvGood.ok trivial
  | error e => exact KvGood.err h
theorem KvGood.map {α β : Type} {Q : β → Prop} {m : KvM α} {f : α → β} (hm : KvGood (fun a => Q (f a)) m) : KvGood Q (m.map f) := by
  cases m with
  | ok a => exact KvGood.ok (hm.1 a rfl)
  | error e =>
    refine ⟨fun _ h => (nomatch h), fun x t h => ?_⟩
    cases h; exact hm.2 x t rfl
theorem KvGood.mono {α : Type} {P Q : α → Prop} {m : KvM α} (hm : KvGood P m) (h : ∀ a, P a → Q a) : KvGood Q m :=
  ⟨fun a e => h a (hm.1 a e), hm.2⟩
/-- A fold of fallible updates. -/
theorem KvGood.foldl {α β : Type} {P : β → Prop} (f : KvM β → α → KvM β) (h : ∀ m a, KvGood P m → KvGood P (f m a)) (l : List α)
    (m : KvM β) (hm : KvGood P m) : KvGood P (l.foldl f m) := by
  induction l generalizing m with
  | nil => exact hm
  | cons a l ih => exact ih _ (h m a hm)
theorem KvGood.over {α : Type} (f : State → α → KvM State) (h : ∀ s a, s.memGood → KvGood (fun t => t.memGood) (f s a)) (s : State)
    (l : List α) (hs : s.memGood) : KvGood (fun t => t.memGood) (overList f s l) := by
  unfold overList
  exact KvGood.foldl _ (fun m a hm => KvGood.bind hm fun t ht => h t a ht) l _ (KvGood.ok hs)
theorem State.kvWrite_memGood (s : State) (g va : Nat) (bs : Bytes) (hs : s.memGood) : KvGood (fun t => t.memGood) (s.kvWrite g va bs) := by
  have h := s.writeVa_memGood g va bs hs
  unfold State.kvWrite
  split
  · rename_i e; rw [e] at h; exact KvGood.ok h
  · rename_i e; rw [e] at h; exact KvGood.err h

theorem State.seqRead_memGood (s : State) (g n : Nat) (hs : s.memGood) : KvGood (fun _ => True) (s.seqRead g n) := by
  unfold State.seqRead
  split
  · exact KvGood.map ((KvGood.lift hs).mono fun _ _ => trivial)
  · exact KvGood.fault

theorem State.seqWrite_memGood (s : State) (g n : Nat) (old r : SeqRec) (hs : s.memGood) :
    KvGood (fun t => t.memGood) (s.seqWrite g n old r) := s.kvWrite_memGood g _ _ hs

theorem State.modKv_memGood (s : State) (g : Nat) (f : Kv → Kv) (hG : s.memGood) :
    (State.modKv s g f).memGood := by ((unfold State.modKv; (try dsimp only); (repeat' split) <;> simp only [State.modCtx_memGood, hG]); done)

theorem State.takeFrames_memGood (s : State) (g n : Nat) (hs : s.memGood) : KvGood (fun p => p.2.memGood) (s.takeFrames g n) := by
  unfold State.takeFrames
  dsimp only
  split
  · exact KvGood.wait
  · split
    · exact KvGood.fault
    · exact KvGood.ok hs

theorem State.putFrames_memGood (s : State) (g : Nat) (k : KvGeo) (table row : Nat) (frames : List Nat) (hs : s.memGood) :
    KvGood (fun t => t.memGood) (s.putFrames g k table row frames) := by
  unfold State.putFrames
  split
  · exact KvGood.ok hs
  · exact s.kvWrite_memGood g _ _ hs

theorem State.getFrames_memGood (s : State) (g : Nat) (k : KvGeo) (table lo hi : Nat) (hs : s.memGood) :
    KvGood (fun _ => True) (s.getFrames g k table lo hi) := by
  unfold State.getFrames
  split
  · exact KvGood.ok trivial
  · exact KvGood.map ((KvGood.lift hs).mono fun _ _ => trivial)

theorem State.growRows_memGood (s : State) (g n : Nat) (k : KvGeo) (r : SeqRec) (m : Nat) (hs : s.memGood) :
    KvGood (fun p => p.1.memGood) (s.growRows g n k r m) := by
  induction m generalizing s r with
  | zero => exact KvGood.ok hs
  | succ m ih =>
    unfold State.growRows
    split
    · exact KvGood.fault
    · refine KvGood.bind (s.takeFrames_memGood g _ hs) fun p hp => ?_
      refine KvGood.bind (p.2.putFrames_memGood g k _ _ _ hp) fun t ht => ?_
      refine KvGood.bind (t.kvWrite_memGood g _ _ ht) fun u hu => ?_
      exact ih u _ hu

theorem State.release_memGood (s : State) (g : Nat) (l : List Nat) (hs : s.memGood) : (s.release g l).memGood := hs

theorem State.detach_memGood (s : State) (g n : Nat) (k : KvGeo) (old r : SeqRec) (keep : Nat) (hs : s.memGood) :
    KvGood (fun t => t.memGood) (s.detach g n k old r keep) := by
  unfold State.detach
  split
  · exact s.seqWrite_memGood g n _ _ hs
  · split
    · exact KvGood.wait
    · refine KvGood.bind (s.getFrames_memGood g k _ _ _ hs) fun a _ => ?_
      refine KvGood.bind (s.getFrames_memGood g k _ _ _ hs) fun b _ => ?_
      refine KvGood.bind (s.putFrames_memGood g k _ _ _ hs) fun t ht => ?_
      refine KvGood.bind (t.seqWrite_memGood g n _ _ ht) fun u hu => ?_
      exact KvGood.pure hu

theorem State.unreserve_memGood (s : State) (g : Nat) (k : KvGeo) (rows : Nat) : s.memGood → (s.unreserve g k rows).memGood := id

theorem AppRec.check_memGood (a : AppRec) (k : KvGeo) (r : SeqRec) (seen : List Nat) : KvGood (fun _ => True) (a.check k r seen) := by
  unfold AppRec.check
  repeat' split
  all_goals first | exact KvGood.fault | exact KvGood.ok trivial

theorem State.appCheck_memGood (s : State) (g : Nat) (k : KvGeo) (l : List AppRec) (seen : List Nat) (hs : s.memGood) :
    KvGood (fun _ => True) (s.appCheck g k l seen) := by
  induction l generalizing seen with
  | nil => exact KvGood.ok trivial
  | cons a rest ih =>
    unfold State.appCheck
    refine KvGood.bind (s.seqRead_memGood g _ hs) fun r _ => ?_
    exact KvGood.bind (a.check_memGood k r seen) fun _ _ => ih _

theorem State.putTokens_memGood (s : State) (g : Nat) (k : KvGeo) (layer : Nat) (r : SeqRec) (keys vals : Bytes) (ntok : Nat) (hs : s.memGood) :
    KvGood (fun t => t.memGood) (s.putTokens g k layer r keys vals ntok) := by
  unfold State.putTokens
  refine KvGood.foldl _ (fun m a hm => ?_) _ _ (KvGood.ok hs)
  refine KvGood.bind hm fun t ht => ?_
  refine KvGood.bind (KvGood.lift ht) fun _ _ => ?_
  exact KvGood.bind (t.kvWrite_memGood g _ _ ht) fun u hu => u.kvWrite_memGood g _ _ hu

theorem State.appOne_memGood (s : State) (g : Nat) (k : KvGeo) (d : Bytes) (a : AppRec) (hs : s.memGood) :
    KvGood (fun t => t.memGood) (s.appOne g k d a) := by
  unfold State.appOne
  refine KvGood.bind (s.seqRead_memGood g _ hs) fun r _ => ?_
  refine KvGood.bind (KvGood.lift hs) fun _ _ => ?_
  refine KvGood.bind (KvGood.lift hs) fun _ _ => ?_
  refine KvGood.bind (s.growRows_memGood g _ k r _ hs) fun p hp => ?_
  refine KvGood.bind (p.1.putTokens_memGood g k _ _ _ _ _ hp) fun u hu => ?_
  split
  · exact u.seqWrite_memGood g _ _ _ hu
  · exact KvGood.pure hu

theorem State.appAll_memGood (s : State) (g : Nat) (k : KvGeo) (d : Bytes) (l : List AppRec) (hs : s.memGood) :
    KvGood (fun t => t.memGood) (s.appAll g k d l) := by
  induction l generalizing s with
  | nil => exact KvGood.ok hs
  | cons a rest ih => exact KvGood.bind (s.appOne_memGood g k d a hs) fun t ht => ih t ht

theorem State.kvAppend_memGood (s : State) (g : Nat) (d : Bytes) (hs : s.memGood) : KvGood (fun p => p.1.memGood) (s.kvAppend g d) := by
  unfold State.kvAppend
  split
  · exact KvGood.fault
  · refine KvGood.bind (KvGood.lift hs) fun _ _ => ?_
    refine KvGood.bind (s.appCheck_memGood g _ _ _ hs) fun _ _ => ?_
    exact KvGood.bind (s.appAll_memGood g _ d _ hs) fun t ht => KvGood.pure ht

theorem State.truncOne_memGood (s : State) (g : Nat) (k : KvGeo) (e : EditRec) (hs : s.memGood) :
    KvGood (fun t => t.memGood) (s.truncOne g k e) := by
  unfold State.truncOne
  refine KvGood.bind (s.seqRead_memGood g _ hs) fun r _ => ?_
  split
  · exact KvGood.fault
  · split
    · exact KvGood.fault
    · exact s.detach_memGood g _ k _ _ _ hs

theorem State.prioOne_memGood (s : State) (g : Nat) (e : EditRec) (hs : s.memGood) : KvGood (fun t => t.memGood) (s.prioOne g e) := by
  unfold State.prioOne
  exact KvGood.bind (s.seqRead_memGood g _ hs) fun r _ => s.seqWrite_memGood g _ _ _ hs

theorem State.freeOne_memGood (s : State) (g n : Nat) (k : KvGeo) (hs : s.memGood) : KvGood (fun t => t.memGood) (s.freeOne g n k) := by
  unfold State.freeOne
  refine KvGood.bind (s.seqRead_memGood g _ hs) fun r _ => ?_
  split
  · exact KvGood.fault
  · exact KvGood.bind (s.detach_memGood g n k _ _ _ hs) fun t ht => KvGood.pure ht

theorem State.kvFree_memGood (s : State) (g : Nat) (d : Bytes) (hs : s.memGood) : KvGood (fun p => p.1.memGood) (s.kvFree g d) := by
  unfold State.kvFree
  split
  · exact KvGood.fault
  · refine KvGood.bind (KvGood.lift hs) fun _ _ => ?_
    exact KvGood.bind (KvGood.over _ (fun t a ht => t.freeOne_memGood g _ _ ht) s _ hs) fun t ht => KvGood.pure ht

theorem State.allSeqs_memGood (s : State) (g n : Nat) (hs : s.memGood) : KvGood (fun _ => True) (s.allSeqs g n) := by
  induction n with
  | zero => exact KvGood.ok trivial
  | succ n ih =>
    unfold State.allSeqs
    exact KvGood.bind ih fun _ _ => KvGood.bind (s.seqRead_memGood g _ hs) fun _ _ => KvGood.pure trivial

theorem boundaryCheck_memGood (k : KvGeo) (seqs : List (Nat × SeqRec)) (recs : List EditRec) : KvGood (fun _ => True) (boundaryCheck k seqs recs) := by
  unfold boundaryCheck
  dsimp only
  repeat' split
  all_goals first | exact KvGood.fault | exact KvGood.ok trivial

theorem State.swapPage_memGood (s : State) (g n : Nat) (k : KvGeo) (r : SeqRec) (epoch i frame : Nat) (hs : s.memGood) :
    KvGood (fun t => t.memGood) (s.swapPage g n k r epoch i frame) := by
  unfold State.swapPage
  refine KvGood.bind (KvGood.lift hs) fun _ _ => ?_
  exact KvGood.bind (s.kvWrite_memGood g _ _ hs) fun u hu => u.kvWrite_memGood g _ _ hu

theorem State.swapOut_memGood (s : State) (g n : Nat) (k : KvGeo) (r : SeqRec) (epoch : Nat) (hs : s.memGood) :
    KvGood (fun t => t.memGood) (s.swapOut g n k r epoch) := by
  unfold State.swapOut
  refine KvGood.bind (s.getFrames_memGood g k _ _ _ hs) fun _ _ => ?_
  exact KvGood.over _ (fun t a ht => t.swapPage_memGood g n k r epoch _ _ ht) s _ hs

theorem State.evict_memGood (s : State) (g n : Nat) (k : KvGeo) (hs : s.memGood) : KvGood (fun p => p.1.memGood) (s.evict g n k) := by
  unfold State.evict
  refine KvGood.bind (s.seqRead_memGood g _ hs) fun r _ => ?_
  dsimp only
  have h1 : ∀ e, (s.modPart (partOfCtx g) fun p => { p with swapEpoch := e }).memGood := fun e => hs
  split
  · have h2 := State.swapOut_memGood _ g n k r ((s.part (partOfCtx g)).swapEpoch + 1) (h1 ((s.part (partOfCtx g)).swapEpoch + 1))
    split
    · rename_i t e
      exact KvGood.bind (State.detach_memGood t g n k _ _ _ (h2.1 t e)) fun u hu => KvGood.pure hu
    · rename_i f l e
      split
      · exact KvGood.bind (State.detach_memGood _ g n k _ _ _ (h1 _)) fun u hu => KvGood.pure hu
      · exact ⟨fun _ x => (nomatch x), fun x t y => by cases y; exact h2.2 _ _ e⟩
    · rename_i w e he
      exact ⟨fun _ x => (nomatch x), fun x t y => by cases y; exact absurd rfl (e _ _)⟩
  · exact KvGood.bind (State.detach_memGood s g n k _ _ _ hs) fun u hu => KvGood.pure hu

theorem Bound.reserve_memGood (b : Bound) (g n : Nat) (k : KvGeo) (r : SeqRec) (need : Nat) (hb : b.s.memGood) :
    KvGood (fun b => b.s.memGood) (b.reserve g n k r need) := by
  unfold Bound.reserve
  exact KvGood.bind (State.seqWrite_memGood _ g n _ _ hb) fun t ht => KvGood.pure ht

theorem Bound.run_memGood (b : Bound) (g count : Nat) (k : KvGeo) (e : EditRec) (n : Nat) (hb : b.s.memGood) :
    KvGood (fun b => b.s.memGood) (b.run g count k e n) := by
  induction n generalizing b with
  | zero => exact KvGood.ok hb
  | succ n ih =>
    unfold Bound.run
    refine KvGood.bind (b.s.seqRead_memGood g _ hb) fun r _ => ?_
    split
    · exact KvGood.pure hb
    · dsimp only
      split
      · exact b.reserve_memGood g _ k _ _ hb
      · refine KvGood.bind (b.s.allSeqs_memGood g _ hb) fun seqs _ => ?_
        split
        · exact KvGood.pure hb
        · refine KvGood.bind (b.s.evict_memGood g _ k hb) fun p hp => ?_
          split
          · exact KvGood.pure hp
          · exact ih _ hp

theorem State.swapIn_memGood (s : State) (g n : Nat) (k : KvGeo) (r : SeqRec) (epoch count : Nat) (hs : s.memGood) :
    KvGood (fun _ => True) (s.swapIn g n k r epoch count) := by
  unfold State.swapIn
  refine KvGood.foldl _ (fun m a hm => ?_) _ _ (KvGood.ok trivial)
  refine KvGood.bind hm fun x _ => ?_
  repeat' split
  all_goals first | exact KvGood.pure trivial | exact KvGood.err hs

theorem Bound.accept_memGood (b : Bound) (g : Nat) (k : KvGeo) (e : EditRec) (r : SeqRec) (need : Nat) (hb : b.s.memGood) :
    KvGood (fun b => b.s.memGood) (b.accept g k e r need) := by
  unfold Bound.accept
  dsimp only
  have put : ∀ (t : State) (res : Nat), t.memGood → KvGood (fun b => b.s.memGood)
      ((do
        let s ← t.seqWrite g e.n r { r with length := 0, rows := 0, resv := need, st := seqRunning, prio := e.prio }
        return { b with s := s, done := e.n :: b.done, results := (e.n, res) :: b.results }) : KvM Bound) := fun t res ht =>
    KvGood.bind (t.seqWrite_memGood g _ _ _ ht) fun u hu => KvGood.pure hu
  have h0 : (b.s.modKv g fun v => { v with available := v.available - need * k.rowPages }).memGood := hb
  split
  · exact put _ _ h0
  · split
    · exact put _ _ h0
    · refine KvGood.bind (State.swapIn_memGood _ g _ k r _ _ h0) fun x _ => ?_
      split
      · exact put _ _ h0
      · refine KvGood.bind (State.takeFrames_memGood _ g _ h0) fun p hp => ?_
        refine KvGood.bind (KvGood.over _ (fun t a ht => t.kvWrite_memGood g _ _ ht) p.2 _ hp) fun t ht => ?_
        refine KvGood.bind (t.putFrames_memGood g k _ _ _ ht) fun u hu => ?_
        exact KvGood.bind (u.seqWrite_memGood g _ _ _ hu) fun v hv => KvGood.pure hv

theorem Bound.joins_memGood (b : Bound) (g : Nat) (k : KvGeo) (l : List EditRec) (hb : b.s.memGood) :
    KvGood (fun b => b.s.memGood) (b.joins g k l) := by
  induction l generalizing b with
  | nil => exact KvGood.ok hb
  | cons e rest ih =>
    unfold Bound.joins
    refine KvGood.bind (b.s.seqRead_memGood g _ hb) fun r _ => ?_
    dsimp only
    split
    · exact KvGood.bind (b.accept_memGood g k e r _ hb) fun c hc => ih c hc
    · exact KvGood.pure hb

theorem Bound.runs_memGood (b : Bound) (g count : Nat) (k : KvGeo) (l : List EditRec) (hb : b.s.memGood) :
    KvGood (fun b => b.s.memGood) (b.runs g count k l) := by
  induction l generalizing b with
  | nil => exact KvGood.ok hb
  | cons e rest ih => exact KvGood.bind (b.run_memGood g count k e _ hb) fun c hc => ih c hc

theorem State.clearResv_memGood (s : State) (g : Nat) (k : KvGeo) (p : Nat × SeqRec) (hs : s.memGood) :
    KvGood (fun t => t.memGood) (s.clearResv g k p) := by
  unfold State.clearResv
  split
  · exact KvGood.ok hs
  · exact KvGood.bind (s.seqWrite_memGood g _ _ _ hs) fun t ht => KvGood.pure ht

theorem State.putResults_memGood (s : State) (g addr : Nat) (recs : List EditRec) (res : List (Nat × Nat)) (hs : s.memGood) :
    KvGood (fun t => t.memGood) (s.putResults g addr recs res) :=
  KvGood.over _ (fun t a ht => t.kvWrite_memGood g _ _ ht) s _ hs

theorem State.boundary_memGood (s : State) (g : Nat) (k : KvGeo) (addr : Nat) (recs : List EditRec) (hs : s.memGood) :
    KvGood (fun p => p.1.memGood) (s.boundary g k addr recs) := by
  unfold State.boundary
  dsimp only
  refine KvGood.bind (s.allSeqs_memGood g _ hs) fun seqs _ => ?_
  refine KvGood.bind (boundaryCheck_memGood k seqs recs) fun _ _ => ?_
  refine KvGood.bind (KvGood.over _ (fun t a ht => t.clearResv_memGood g k a ht) s _ hs) fun t ht => ?_
  refine KvGood.bind (KvGood.over _ (fun t a ht => t.freeOne_memGood g _ k ht) t _ ht) fun u hu => ?_
  refine KvGood.bind (Bound.runs_memGood { s := u } g _ k _ hu) fun b hb => ?_
  refine KvGood.bind (b.joins_memGood g k _ hb) fun c hc => ?_
  exact KvGood.bind (c.s.putResults_memGood g _ _ _ hc) fun v hv => KvGood.pure hv

theorem State.kvEditRows_memGood (s : State) (g : Nat) (d : Bytes) (recs : List EditRec) (hs : s.memGood) :
    KvGood (fun p => p.1.memGood) (s.kvEditRows g d recs) := by
  unfold State.kvEditRows
  split
  · exact KvGood.fault
  · split
    · exact KvGood.bind (KvGood.over _ (fun t a ht => t.truncOne_memGood g _ a ht) s _ hs) fun t ht => KvGood.pure ht
    · exact s.boundary_memGood g _ _ _ hs

theorem State.kvEdit_memGood (s : State) (g : Nat) (d : Bytes) (hs : s.memGood) : KvGood (fun p => p.1.memGood) (s.kvEdit g d) := by
  unfold State.kvEdit
  refine KvGood.bind (KvGood.lift hs) fun lst _ => ?_
  dsimp only
  split
  · exact KvGood.bind (KvGood.over _ (fun t a ht => t.prioOne_memGood g a ht) s _ hs) fun t ht => KvGood.pure ht
  · exact s.kvEditRows_memGood g d _ hs

theorem State.kvApply_memGood (s : State) (g : Nat) (d : Bytes) (hs : s.memGood) : KvGood (fun p => p.1.memGood) (s.kvApply g d) := by
  unfold State.kvApply
  split
  · exact s.kvAppend_memGood g d hs
  · exact s.kvEdit_memGood g d hs
  · exact s.kvFree_memGood g d hs

theorem State.kvSeen_memGood (s' s : State) (g q seq t : Nat) (d : Bytes) (hG : s'.memGood) :
    (State.kvSeen s' s g q seq t d).memGood := by ((unfold State.kvSeen; (try dsimp only); (repeat' split) <;> simp only [State.accessed_memGood, State.leftIn_memGood, hG]); done)

theorem State.noteIdle_memGood (s : State) (g q seq : Nat) (hs : s.memGood) : (s.noteIdle g q seq).memGood := by
  unfold State.noteIdle
  split
  · exact hs
  · dsimp only; refine foldl_memGood _ ?_ _ _ hs; intros; assumption

theorem State.kvDo_memGood (s : State) (g q seq t : Nat) (d : Bytes) (hG : s.memGood) :
    (State.kvDo s g q seq t d).memGood := by
  have h := s.kvApply_memGood g d hG
  unfold State.kvDo
  split
  · rename_i u st e
    exact State.modRun_memGood _ g q seq _ (State.markTile_memGood _ g q seq t [] (State.modKv_memGood _ g _
      (State.noteIdle_memGood _ g q seq (State.kvSeen_memGood u s g q seq t d (h.1 _ e)))))
  · exact hG
  · rename_i f l e
    refine State.failTile_memGood _ g q seq t _ _ ?_
    cases l with
    | none => exact hG
    | some t => exact h.2 _ _ e

theorem State.kvRow_memGood (s : State) (g q seq : Nat) (kind : Run → Bool) (hG : s.memGood) :
    (State.kvRow s g q seq kind).memGood := by
  (unfold State.kvRow; (try dsimp only); (repeat' split) <;> simp only [State.kvDo_memGood, State.markTile_memGood, hG])

theorem State.kvAgain_memGood (s : State) (g q seq : Nat) (hG : s.memGood) :
    (State.kvAgain s g q seq).memGood := by
  (unfold State.kvAgain; (try dsimp only); (repeat' split) <;> simp only [State.kvDo_memGood, hG])

theorem State.kvResume_memGood (s : State) (g : Nat) (buffer : Bool) (hG : s.memGood) :
    (State.kvResume s g buffer).memGood := by ((unfold State.kvResume; (try dsimp only); (repeat' split) <;> simp only [State.kvAgain_memGood, hG]); done)

/-! ### Vec -/

/-- The state a step of a kernel leaves. -/
def VNext.after : VNext → State
  | .go s _ => s
  | .stop s => s
  | .fault s _ => s
theorem State.vecStep_memGood (s : State) (g stream : Nat) (ks : List VWord) (r : VRegs) (hs : s.memGood) : (s.vecStep g stream ks r).after.memGood := by
  unfold State.vecStep State.vecLoad State.vecStore
  repeat' split
  all_goals first | exact hs | exact State.accessed_memGood _ _ _ _ _ hs | grind [VNext.after, State.writeAll_memGood] | (dsimp only; split <;> grind [VNext.after, State.writeAll_memGood])

theorem VRegs.seen_memGood (r : VRegs) (s : State) (g : Nat) (hG : s.memGood) :
    (VRegs.seen r s g).memGood := by ((unfold VRegs.seen; (try dsimp only); (repeat' split) <;> simp only [State.accessed_memGood, State.modCore_memGood, hG]); done)

theorem State.vecTile_memGood (s : State) (g stream : Nat) (ks : List VWord) (n : Nat) (r : VRegs) (hs : s.memGood) :
    (s.vecTile g stream ks n r).1.memGood := by
  induction n generalizing s r with
  | zero => exact State.accessed_memGood _ _ _ _ _ hs
  | succ n ih =>
    have h := s.vecStep_memGood g stream ks r hs
    unfold State.vecTile
    split
    · rename_i e; rw [e] at h; exact State.accessed_memGood _ _ _ _ _ h
    · rename_i e; rw [e] at h; exact State.accessed_memGood _ _ _ _ _ h
    · rename_i e; rw [e] at h; exact ih _ _ h

theorem State.vecRun_memGood (s : State) (g die : Nat) (d k : Bytes) (t : Nat) (hG : s.memGood) :
    (State.vecRun s g die d k t).1.memGood := by ((unfold State.vecRun; (try dsimp only); (repeat' split) <;> simp only [State.vecTile_memGood, hG]); done)

theorem State.vecDo_memGood (s : State) (g q seq : Nat) (r : Run) (t : Nat) (hG : s.memGood) :
    (State.vecDo s g q seq r t).memGood := by (unfold State.vecDo; grind [State.failTile_memGood, State.markTile_memGood, State.vecRun_memGood])

theorem State.vecRow_memGood (s : State) (g q seq : Nat) (hG : s.memGood) :
    (State.vecRow s g q seq).memGood := by ((unfold State.vecRow; (try dsimp only); (repeat' split) <;> simp only [State.vecDo_memGood, hG]); done)

/-! ### Dice -/

theorem State.diceRow_memGood (s : State) (g q seq action : Nat) (hG : s.memGood) :
    (State.diceRow s g q seq action).memGood := by ((unfold State.diceRow; (try dsimp only); (repeat' split) <;> simp only [State.dataRow_memGood, hG]); done)

/-! ### Forward -/

theorem State.chainMove_memGood (s : State) (g : Nat) (d : Bytes) (out : Option (Nat × Nat)) (hG : s.memGood) :
    (State.chainMove s g d out).1.memGood := by
  unfold State.chainMove; exact s.moveAll_memGood g _ _ _ hG

theorem State.chainVec_memGood (s : State) (c g : Nat) (d blk : Bytes) (out : Option (Nat × Nat)) (t : Nat) (hG : s.memGood) :
    (State.chainVec s c g d blk out t).1.memGood := by ((unfold State.chainVec; (try dsimp only); (repeat' split) <;> simp only [State.vecTile_memGood, hG]); done)

theorem State.makeWork_memGood (s : State) (c g : Nat) (w : Work) (hG : s.memGood) :
    (State.makeWork s c g w).1.memGood := by (unfold State.makeWork; grind [State.accessed_memGood, State.coreLeft_memGood, State.writeAll_memGood])

theorem State.chainTile_memGood (s : State) (c g : Nat) (d blk : Bytes) (out : Option (Nat × Nat)) (ws : List Walker) (t : Nat) (hG : s.memGood) :
    (State.chainTile s c g d blk out ws t).1.memGood := by ((unfold State.chainTile; (try dsimp only); (repeat' split) <;> simp only [State.chainVec_memGood, State.makeWork_memGood, hG]); done)

/-! ### Stash -/

theorem State.modStash_memGood (s : State) (g : Nat) (f : Stash → Stash) (hG : s.memGood) :
    (State.modStash s g f).memGood := by ((unfold State.modStash; (try dsimp only); (repeat' split) <;> simp only [State.modCtx_memGood, hG]); done)

theorem State.modSpec_memGood (s : State) (g no : Nat) (f : Spec → Spec) (hG : s.memGood) :
    (State.modSpec s g no f).memGood := by ((unfold State.modSpec; (try dsimp only); (repeat' split) <;> simp only [State.modStash_memGood, hG]); done)

theorem State.leaveTile_memGood (s : State) (c : Nat) (t : TileRun) (hG : s.memGood) :
    (State.leaveTile s c t).memGood := by (unfold State.leaveTile; grind [State.chargeBusy_memGood, State.freeCore_memGood, State.modKv_memGood])

theorem State.stopTile_memGood (s : State) (c : Nat) (t : TileRun) (hG : s.memGood) :
    (State.stopTile s c t).memGood := by ((unfold State.stopTile; (try dsimp only); (repeat' split) <;> simp only [State.leaveTile_memGood, State.modRun_memGood, hG]); done)

theorem State.cutReplay_memGood (s : State) (g : Nat) (p : Nat → Bool) (hG : s.memGood) :
    (State.cutReplay s g p).memGood := by (unfold State.cutReplay; grind [State.stopTile_memGood, foldl_memGood])

theorem State.cutSpeculative_memGood (s : State) (g : Nat) (hG : s.memGood) :
    (State.cutSpeculative s g).memGood := by (unfold State.cutSpeculative; grind [State.cutReplay_memGood])

theorem State.forgetSpec_memGood (s : State) (g h : Nat) (hG : s.memGood) :
    (State.forgetSpec s g h).memGood := by (unfold State.forgetSpec; grind [State.modStash_memGood])

theorem State.dropSpec_memGood (s : State) (g h : Nat) (hG : s.memGood) :
    (State.dropSpec s g h).memGood := by (unfold State.dropSpec; grind [State.cutReplay_memGood, State.forgetSpec_memGood, State.writeVa_memGood])

theorem State.makeRoom_memGood (s : State) (g i charge : Nat) (hG : s.memGood) :
    (State.makeRoom s g i charge).memGood := by (unfold State.makeRoom; grind [State.dropSpec_memGood, foldl_memGood])

theorem State.hold_memGood (s : State) (g q seq h used loc stored pend status : Nat) (hG : s.memGood) :
    (State.hold s g q seq h used loc stored pend status).memGood := by (unfold State.hold; grind [State.jobFault_memGood, State.ranWith_memGood, State.writeAll_memGood])

theorem State.putReplay_memGood (s : State) (g q seq h : Nat) (e : StashEntry) (status : Nat) (hG : s.memGood) :
    (State.putReplay s g q seq h e status).memGood := by ((unfold State.putReplay; (try dsimp only); (repeat' split) <;> simp only [State.hold_memGood, State.jobFault_memGood, hG]); done)

theorem State.putSend_memGood (s : State) (g q seq h : Nat) (e : StashEntry) (form : Bytes) (pend status : Nat) (hG : s.memGood) :
    (State.putSend s g q seq h e form pend status).memGood := by (unfold State.putSend; grind [State.hold_memGood, State.jobFault_memGood, State.modStash_memGood, State.putReplay_memGood, State.writeAll_memGood])

theorem State.putPool_memGood (s : State) (g q seq h : Nat) (e : StashEntry) (form : Bytes) (charge pend : Nat) (hG : s.memGood) :
    (State.putPool s g q seq h e form charge pend).memGood := by (unfold State.putPool; grind [State.hold_memGood, State.jobFault_memGood, State.modStash_memGood, State.writeVa_memGood])

theorem State.putPlanned_memGood (s : State) (g q seq h : Nat) (e : StashEntry) (form : Bytes) (pend : Nat) (hG : s.memGood) :
    (State.putPlanned s g q seq h e form pend).memGood := by ((unfold State.putPlanned; (try dsimp only); (repeat' split) <;> simp only [State.hold_memGood, State.makeRoom_memGood, State.putPool_memGood, State.putReplay_memGood, State.putSend_memGood, hG]); done)

theorem State.putRows_memGood (s : State) (g q seq h : Nat) (e : StashEntry) (rows : Bytes) (hG : s.memGood) :
    (State.putRows s g q seq h e rows).memGood := by ((unfold State.putRows; (try dsimp only); (repeat' split) <;> simp only [State.putPlanned_memGood, State.putReplay_memGood, State.putSend_memGood, hG]); done)

theorem State.put_memGood (s : State) (g q seq : Nat) (r : Run) (hG : s.memGood) :
    (State.put s g q seq r).memGood := by ((unfold State.put; (try dsimp only); (repeat' split) <;> simp only [State.accessed_memGood, State.hold_memGood, State.jobFault_memGood, State.modRun_memGood, State.putRows_memGood, hG]); done)

theorem State.deliver_memGood (s : State) (g : Nat) (e : StashEntry) (dst at0 n : Nat) (els : List Bytes) (hG : s.memGood) :
    (State.deliver s g e dst at0 n els).1.memGood := by ((unfold State.deliver; (try dsimp only); (repeat' split) <;> simp only [State.writeAll_memGood, hG]); done)

theorem State.squeezeInPlace_memGood (s : State) (g : Nat) (e : StashEntry) (dst : Nat) (hG : s.memGood) :
    (State.squeezeInPlace s g e dst).1.memGood := by ((unfold State.squeezeInPlace; (try dsimp only); (repeat' split) <;> simp only [State.deliver_memGood, hG]); done)

theorem inTurn_memGood {α β : Type} (f : State → α → State × Option β) (h : ∀ s a, s.memGood → (f s a).1.memGood) (s : State) (l : List α)
    (hs : s.memGood) : (inTurn f s l).1.memGood := by
  induction l generalizing s with
  | nil => exact hs
  | cons a l ih =>
    unfold inTurn
    grind

theorem State.placeStep_memGood (s : State) (g : Nat) (x : Spec) (h dst k : Nat) (hG : s.memGood) :
    (State.placeStep s g x h dst k).1.memGood := by (unfold State.placeStep; grind [State.accessed_memGood, State.deliver_memGood])

theorem State.replayFail_memGood (s : State) (g : Nat) (x : Spec) (e : Fail) (hG : s.memGood) :
    (State.replayFail s g x e).memGood := by ((unfold State.replayFail; (try dsimp only); (repeat' split) <;> simp only [State.forgetSpec_memGood, State.dropSpec_memGood, State.jobFault_memGood, hG]); done)

theorem State.stepNow_memGood (s : State) (g : Nat) (x : Spec) (st : RStep) (hG : s.memGood) : (s.stepNow g x st).1.memGood := by
  cases st <;> unfold State.stepNow <;> (repeat' split) <;>
    grind [State.placeStep_memGood, State.squeezeInPlace_memGood, State.chainMove_memGood, State.accessed_memGood]

theorem State.replayOn_memGood (s : State) (g n : Nat) (x : Spec) (hG : s.memGood) : (s.replayOn g n x).1.memGood := by
  induction n generalizing s x with
  | zero => exact hG
  | succ n ih =>
    unfold State.replayOn
    dsimp only
    split
    · exact hG
    · rename_i st rest _
      have h := s.stepNow_memGood g x st hG
      split
      · exact hG
      · exact ih _ _ hG
      · exact hG
      · split
        · rename_i e; rw [e] at h; exact h
        · rename_i e; rw [e] at h
          split
          · exact ih _ _ h
          · exact h

theorem State.replayGo_memGood (s : State) (g : Nat) (x : Spec) (hG : s.memGood) :
    (State.replayGo s g x).memGood := by
  have h := s.replayOn_memGood g replayFuel x hG
  unfold State.replayGo
  split <;> (rename_i e; rw [e] at h)
  · exact State.modSpec_memGood _ _ _ _ h
  · exact State.replayFail_memGood _ _ _ _ h

theorem State.replayStart_memGood (s : State) (g : Nat) (x : Spec) (hG : s.memGood) :
    (State.replayStart s g x).memGood := by ((unfold State.replayStart; (try dsimp only); (repeat' split) <;> simp only [State.modStash_memGood, State.replayGo_memGood, hG]); done)

theorem State.replayTile_memGood (s : State) (c g : Nat) (x : Spec) (ws : List Walker) (t : Nat) (hG : s.memGood) :
    (State.replayTile s c g x ws t).memGood := by (unfold State.replayTile; grind [State.chainTile_memGood, State.modSpec_memGood, State.replayFail_memGood, State.replayGo_memGood])

theorem State.markRecovered_memGood (s : State) (g h : Nat) (hG : s.memGood) :
    (State.markRecovered s g h).1.memGood := by ((unfold State.markRecovered; (try dsimp only); (repeat' split) <;> simp only [State.writeVa_memGood, hG]); done)

theorem State.getDone_memGood (s : State) (g q seq h : Nat) (rec : Bool) (hG : s.memGood) :
    (State.getDone s g q seq h rec).memGood := by (unfold State.getDone; grind [State.jobFault_memGood, State.markRecovered_memGood, State.ranWith_memGood])

theorem State.getTile_memGood (s : State) (g q seq : Nat) (r : Run) (e : StashEntry) (src : List (Nat × Nat)) (els : List Bytes) (fin : State → State) (hfin : ∀ a0, a0.memGood → (fin a0).memGood) (hG : s.memGood) :
    (State.getTile s g q seq r e src els fin).memGood := by (unfold State.getTile; grind [State.accessed_memGood, State.deliver_memGood, State.jobFault_memGood, State.modRun_memGood])

theorem State.getReplay_memGood (s : State) (g q seq h : Nat) (r : Run) (e : StashEntry) (rec : Bool) (hG : s.memGood) :
    (State.getReplay s g q seq h r e rec).memGood := by ((unfold State.getReplay; (try dsimp only); (repeat' split) <;> simp only [State.jobFault_memGood, State.replayStart_memGood, hG]); done)

theorem State.getStored_memGood (s : State) (g q seq h : Nat) (r : Run) (e : StashEntry) (hG : s.memGood) :
    (State.getStored s g q seq h r e).memGood := by (unfold State.getStored; grind [State.getDone_memGood, State.getReplay_memGood, State.getTile_memGood, State.jobFault_memGood])

theorem State.adoptTiles_memGood (s : State) (g no q seq : Nat) (hG : s.memGood) :
    (State.adoptTiles s g no q seq).memGood := by (unfold State.adoptTiles; grind [State.modCore_memGood, State.modRun_memGood, foldl_memGood])

theorem State.claimSpec_memGood (s : State) (g q seq : Nat) (e : StashEntry) (x : Spec) (hG : s.memGood) :
    (State.claimSpec s g q seq e x).memGood := by ((unfold State.claimSpec; (try dsimp only); (repeat' split) <;> simp only [State.adoptTiles_memGood, State.modSpec_memGood, hG]); done)

theorem State.getBeside_memGood (s : State) (g q seq h : Nat) (r : Run) (e : StashEntry) (x : Spec) (hG : s.memGood) :
    (State.getBeside s g q seq h r e x).memGood := by (unfold State.getBeside; grind [State.claimSpec_memGood, State.dropSpec_memGood, State.getDone_memGood, State.getTile_memGood, State.jobFault_memGood, State.modSpec_memGood])

theorem State.getFinished_memGood (s : State) (g q seq h : Nat) (r : Run) (e : StashEntry) (x : Spec) (hG : s.memGood) :
    (State.getFinished s g q seq h r e x).memGood := by (unfold State.getFinished; grind [State.dropSpec_memGood, State.getDone_memGood, State.getTile_memGood, State.modRun_memGood])

theorem State.get_memGood (s : State) (g q seq : Nat) (r : Run) (hG : s.memGood) :
    (State.get s g q seq r).memGood := by ((unfold State.get; (try dsimp only); (repeat' split) <;> simp only [State.getBeside_memGood, State.getFinished_memGood, State.getStored_memGood, State.jobFault_memGood, State.replayGo_memGood, hG]); done)

theorem State.endGet_memGood (s : State) (g q seq : Nat) (d : Bytes) (hG : s.memGood) :
    (State.endGet s g q seq d).1.memGood := by (unfold State.endGet; grind [State.dropSpec_memGood, State.modStash_memGood, State.writeVa_memGood])

theorem State.record_memGood (s : State) (g q seq : Nat) (r : Run) (hG : s.memGood) :
    (State.record s g q seq r).memGood := by (unfold State.record; grind [State.jobFault_memGood, State.modStash_memGood, State.ranWith_memGood, State.writeAll_memGood])

theorem State.specRun_memGood (s : State) (g i h : Nat) (e : StashEntry) (hG : s.memGood) :
    (State.specRun s g i h e).memGood := by ((unfold State.specRun; (try dsimp only); (repeat' split) <;> simp only [State.replayStart_memGood, hG]); done)

theorem State.specNext_memGood (s : State) (g i : Nat) (hG : s.memGood) :
    (State.specNext s g i).memGood := by ((unfold State.specNext; (try dsimp only); (repeat' split) <;> simp only [State.specRun_memGood, hG]); done)

theorem State.specStart_memGood (s : State) (g i : Nat) (hG : s.memGood) :
    (State.specStart s g i).memGood := by ((unfold State.specStart; (try dsimp only); (repeat' split) <;> simp only [State.replayGo_memGood, State.specNext_memGood, hG]); done)

theorem State.specDone_memGood (s : State) (g h : Nat) (hG : s.memGood) :
    (State.specDone s g h).memGood := by (unfold State.specDone; grind [State.dropSpec_memGood, State.modSpec_memGood, State.writeAll_memGood])

theorem State.takeEpoch_memGood (s : State) (g : Nat) (hG : s.memGood) :
    (State.takeEpoch s g).memGood := by ((unfold State.takeEpoch; (try dsimp only); (repeat' split) <;> simp only [State.modPart_memGood, State.modStash_memGood, hG]); done)

theorem State.emptyStash_memGood (s : State) (g : Nat) (hG : s.memGood) :
    (State.emptyStash s g).memGood := by ((unfold State.emptyStash; (try dsimp only); (repeat' split) <;> simp only [State.cutSpeculative_memGood, State.modStash_memGood, hG]); done)

theorem State.stashBoundary_memGood (s : State) (g : Nat) (commit : Bool) (hG : s.memGood) :
    (State.stashBoundary s g commit).1.memGood := by (unfold State.stashBoundary; grind [State.emptyStash_memGood, State.modCtx_memGood, State.takeEpoch_memGood, State.writeAll_memGood])

theorem State.initStash_memGood (s : State) (g : Nat) (hG : s.memGood) :
    (State.initStash s g).memGood := by (unfold State.initStash; grind [State.emptyStash_memGood, State.takeEpoch_memGood, State.writeAll_memGood])

theorem State.codecRow_memGood (s : State) (g q seq op : Nat) (f : Run → State) (hf : ∀ a0, (f a0).memGood) (hG : s.memGood) :
    (State.codecRow s g q seq op f).memGood := by (unfold State.codecRow; grind [State.engineServed_memGood])

theorem State.recipeRow_memGood (s : State) (g q seq : Nat) (hG : s.memGood) :
    (State.recipeRow s g q seq).memGood := by ((unfold State.recipeRow; (try dsimp only); (repeat' split) <;> simp only [State.record_memGood, hG]); done)

/-! ### Link -/

theorem State.sendCtl_memGood (s : State) (p : Nat) (m : Ctl) (hG : s.memGood) :
    (State.sendCtl s p m).memGood := by ((unfold State.sendCtl; (try dsimp only); (repeat' split) <;> simp only [State.modPort_memGood, hG]); done)

theorem State.freeBuffer_memGood (s : State) (p vc n : Nat) (hG : s.memGood) :
    (State.freeBuffer s p vc n).memGood := by ((unfold State.freeBuffer; (try dsimp only); (repeat' split) <;> simp only [State.modPort_memGood, hG]); done)

theorem State.pump_memGood (s : State) (p : Nat) (hG : s.memGood) :
    (State.pump s p).memGood := by (unfold State.pump; grind [State.freeBuffer_memGood, State.modPort_memGood, foldl_memGood])

theorem State.queuePkt_memGood (s : State) (p : Nat) (x : TxPkt) (hG : s.memGood) :
    (State.queuePkt s p x).memGood := by (unfold State.queuePkt; grind [State.modFab_memGood, State.modPort_memGood, State.pump_memGood])

theorem State.enqueue_memGood (s : State) (r : Route) (x : TxPkt) (hG : s.memGood) :
    (State.enqueue s r x).memGood := by ((unfold State.enqueue; (try dsimp only); (repeat' split) <;> simp only [State.queuePkt_memGood, hG]); done)

theorem State.handOver_memGood (s : State) (k : Packet) (hG : s.memGood) :
    (State.handOver s k).memGood := by ((unfold State.handOver; (try dsimp only); (repeat' split) <;> simp only [State.modFab_memGood, hG]); done)

theorem State.countDiscard_memGood (s : State) (arrival : Option Nat) (hG : s.memGood) :
    (State.countDiscard s arrival).memGood := by ((unfold State.countDiscard; (try dsimp only); (repeat' split) <;> simp only [State.modPort_memGood, hG]); done)

theorem State.send_memGood (s : State) (k : Packet) (hG : s.memGood) :
    (State.send s k).memGood := by ((unfold State.send; (try dsimp only); (repeat' split) <;> simp only [State.enqueue_memGood, State.handOver_memGood, hG]); done)

theorem State.sendRank_memGood (s : State) (p rank type tc flow : Nat) (offset : BitVec 64) (payload : Bytes) (hG : s.memGood) :
    (State.sendRank s p rank type tc flow offset payload).memGood := by ((unfold State.sendRank; (try dsimp only); (repeat' split) <;> simp only [State.send_memGood, hG]); done)

theorem State.sendMgmt_memGood (s : State) (p dev part : Nat) (payload : Bytes) (hG : s.memGood) :
    (State.sendMgmt s p dev part payload).memGood := by ((unfold State.sendMgmt; (try dsimp only); (repeat' split) <;> simp only [State.send_memGood, hG]); done)

theorem State.sendPeer_memGood (s : State) (p : Nat) (payload : Bytes) (hG : s.memGood) :
    (State.sendPeer s p payload).memGood := by ((unfold State.sendPeer; (try dsimp only); (repeat' split) <;> simp only [State.queuePkt_memGood, hG]); done)

theorem State.takeHanded_memGood (s : State) (k : Packet) (hG : s.memGood) :
    (State.takeHanded s k).memGood := by ((unfold State.takeHanded; (try dsimp only); (repeat' split) <;> simp only [State.modFab_memGood, hG]); done)

theorem State.freeBytes_memGood (s : State) (n : Nat) (hG : s.memGood) :
    (State.freeBytes s n).2.memGood := by exact hG

/-! ### Coll -/

theorem State.collSend_memGood (s : State) (g : Nat) (c : CollRun) (dest kind type e : Nat) (payload : Bytes) (hG : s.memGood) :
    (State.collSend s g c dest kind type e payload).memGood := by ((unfold State.collSend; (try dsimp only); (repeat' split) <;> simp only [State.sendRank_memGood, hG]); done)

theorem State.collSendAll_memGood (s : State) (g : Nat) (c : CollRun) (kind type e : Nat) (payload : Bytes) (hG : s.memGood) :
    (State.collSendAll s g c kind type e payload).memGood := by (unfold State.collSendAll; grind [State.collSend_memGood, foldl_memGood])

theorem State.modColl_memGood (s : State) (g key : Nat) (f : CollRun → CollRun) (hG : s.memGood) :
    (State.modColl s g key f).memGood := by ((unfold State.modColl; (try dsimp only); (repeat' split) <;> simp only [State.modCtx_memGood, hG]); done)

theorem State.spoil_memGood (s : State) (g : Nat) (r : Nat × Nat) (hG : s.memGood) :
    (State.spoil s g r).memGood := by ((unfold State.spoil; (try dsimp only); (repeat' split) <;> simp only [State.freeBytes_memGood, State.writeVa_memGood, hG]); done)

theorem State.missOne_memGood (s : State) (g : Nat) (notify : Bool) (c : CollRun) (hG : s.memGood) :
    (State.missOne s g notify c).memGood := by (unfold State.missOne; grind [State.collSendAll_memGood, State.modPart_memGood, State.ranWith_memGood, State.spoil_memGood, foldl_memGood])

theorem State.missColl_memGood (s : State) (g key : Nat) (notify : Bool) (hG : s.memGood) :
    (State.missColl s g key notify).memGood := by (unfold State.missColl; grind [State.missOne_memGood, State.modCtx_memGood, foldl_memGood])

theorem State.collFinish_memGood (s : State) (g key : Nat) (hG : s.memGood) :
    (State.collFinish s g key).memGood := by (unfold State.collFinish; grind [State.jobFault_memGood, State.modCtx_memGood, State.ranWith_memGood, State.writeAll_memGood])

theorem State.collHold_memGood (s : State) (g key level sub first : Nat) (vals : List F32) (hG : s.memGood) :
    (State.collHold s g key level sub first vals).memGood := by (unfold State.collHold; grind [State.hold_memGood, State.jobFault_memGood, State.modColl_memGood, State.writeAll_memGood])

theorem State.collResults_memGood (s : State) (g : Nat) (c : CollRun) (first : Nat) (sums : List F32) (hG : s.memGood) :
    (State.collResults s g c first sums).memGood := by (unfold State.collResults; grind [State.collSend_memGood, State.modColl_memGood, foldl_memGood])

theorem State.collRise_memGood (s : State) (g key first n level : Nat) (hs : s.memGood) : (s.collRise g key first n level).memGood := by
  induction n generalizing s level with
  | zero => exact hs
  | succ n ih =>
    unfold State.collRise
    grind [State.modColl_memGood, State.collResults_memGood, State.collSend_memGood, State.collHold_memGood, State.jobFault_memGood]

theorem State.collArrive_memGood (s : State) (g key level sub first : Nat) (vals : List F32) (hG : s.memGood) :
    (State.collArrive s g key level sub first vals).memGood := by (unfold State.collArrive; grind [State.collHold_memGood, State.collRise_memGood, foldl_memGood])

theorem State.collContribute_memGood (s : State) (g : Nat) (c : CollRun) (first : Nat) (vals : List F32) (hG : s.memGood) :
    (State.collContribute s g c first vals).memGood := by (unfold State.collContribute; grind [State.collArrive_memGood, State.collSend_memGood, foldl_memGood])

theorem State.sendSparse_memGood (s : State) (g : Nat) (c : CollRun) (dest k : Nat) (hG : s.memGood) :
    (State.sendSparse s g c dest k).memGood := by (unfold State.sendSparse; grind [State.collSend_memGood, foldl_memGood])

theorem State.sendSign_memGood (s : State) (g : Nat) (c : CollRun) (dest k : Nat) (hG : s.memGood) :
    (State.sendSign s g c dest k).memGood := by (unfold State.sendSign; grind [State.collSend_memGood, foldl_memGood])

theorem State.collCompressed_memGood (s : State) (g : Nat) (c : CollRun) (k : Nat) (hG : s.memGood) :
    (State.collCompressed s g c k).memGood := by ((unfold State.collCompressed; (try dsimp only); (repeat' split) <;> simp only [State.collArrive_memGood, State.sendSign_memGood, State.sendSparse_memGood, hG]); done)

theorem State.sendMants_memGood (s : State) (g : Nat) (c : CollRun) (kind type k : Nat) (l : List Int) (hG : s.memGood) :
    (State.sendMants s g c kind type k l).memGood := by (unfold State.sendMants; grind [State.collSend_memGood, foldl_memGood])

theorem State.ringStart_memGood (s : State) (g : Nat) (c : CollRun) (k : Nat) (hG : s.memGood) :
    (State.ringStart s g c k).memGood := by (unfold State.ringStart; grind [State.collSend_memGood, State.modColl_memGood, State.sendMants_memGood])

theorem State.ringPass_memGood (s : State) (g key k : Nat) (hG : s.memGood) :
    (State.ringPass s g key k).memGood := by (unfold State.ringPass; grind [State.collSend_memGood, State.modColl_memGood, State.sendMants_memGood])

theorem State.ringAdd_memGood (s : State) (g : Nat) (c : CollRun) (first : Nat) (ms : List Int) (hG : s.memGood) :
    (State.ringAdd s g c first ms).memGood := by (unfold State.ringAdd; grind [State.collSend_memGood, State.modColl_memGood, State.ringPass_memGood, foldl_memGood])

theorem State.ringsEnd_memGood (s : State) (g key : Nat) (hG : s.memGood) :
    (State.ringsEnd s g key).memGood := by (unfold State.ringsEnd; grind [State.collContribute_memGood, State.modColl_memGood, foldl_memGood])

theorem State.collChunk_memGood (s : State) (g : Nat) (c : CollRun) (k : Nat) (hG : s.memGood) :
    (State.collChunk s g c k).memGood := by ((unfold State.collChunk; (try dsimp only); (repeat' split) <;> simp only [State.collCompressed_memGood, State.collContribute_memGood, State.ringStart_memGood, hG]); done)

theorem State.collAgain_memGood (s : State) (g : Nat) (c : CollRun) (k : Nat) (hG : s.memGood) :
    (State.collAgain s g c k).memGood := by (unfold State.collAgain; grind [State.collContribute_memGood, foldl_memGood])

theorem State.collPump_memGood (s : State) (g key n : Nat) (hs : s.memGood) : (s.collPump g key n).memGood := by
  induction n generalizing s with
  | zero => exact hs
  | succ n ih =>
    unfold State.collPump
    split
    · exact hs
    · split
      · exact ih _ (State.collChunk_memGood _ _ _ _ (State.modColl_memGood _ _ _ _ hs))
      · split
        · exact ih _ (State.collAgain_memGood _ _ _ _ (State.modColl_memGood _ _ _ _ hs))
        · exact hs

theorem State.collGoOn_memGood (s : State) (g key : Nat) (hG : s.memGood) :
    (State.collGoOn s g key).memGood := by
  unfold State.collGoOn
  exact State.collFinish_memGood _ _ _ (State.collPump_memGood _ _ _ _ (State.ringsEnd_memGood _ _ _ hG))

theorem State.collGather_memGood (s : State) (g : Nat) (c : CollRun) (hG : s.memGood) :
    (State.collGather s g c).memGood := by (unfold State.collGather; grind [State.collSendAll_memGood, State.modColl_memGood, foldl_memGood])

theorem State.dropNotices_memGood (s : State) (p : Nat) (c : CollRun) (hG : s.memGood) :
    (State.dropNotices s p c).memGood := by (unfold State.dropNotices; grind [State.modCtx_memGood, foldl_memGood])

theorem State.collBegin_memGood (s : State) (g : Nat) (c : CollRun) (hG : s.memGood) :
    (State.collBegin s g c).memGood := by (unfold State.collBegin; grind [State.collGather_memGood, State.collGoOn_memGood, State.collSendAll_memGood, State.dropNotices_memGood, State.missColl_memGood, State.modCtx_memGood])

theorem State.collStart_memGood (s : State) (g q seq : Nat) (r : Run) (hG : s.memGood) :
    (State.collStart s g q seq r).memGood := by ((unfold State.collStart; (try dsimp only); (repeat' split) <;> simp only [State.accessed_memGood, State.collBegin_memGood, State.jobFault_memGood, hG]); done)

theorem State.collRow_memGood (s : State) (g q seq op : Nat) (hG : s.memGood) :
    (State.collRow s g q seq op).memGood := by ((unfold State.collRow; (try dsimp only); (repeat' split) <;> simp only [State.collStart_memGood, State.engineServed_memGood, hG]); done)

theorem State.collUnmatched_memGood (s : State) (k : Packet) (hG : s.memGood) :
    (State.collUnmatched s k).memGood := by ((unfold State.collUnmatched; (try dsimp only); (repeat' split) <;> simp only [State.modPart_memGood, State.takeHanded_memGood, hG]); done)

theorem State.collPacket_memGood (s : State) (k : Packet) (kind type : Nat) (f : State → Nat → CollRun → Nat → State) (hf : ∀ a0 a1 a2 a3, a0.memGood → (f a0 a1 a2 a3).memGood) (hG : s.memGood) :
    (State.collPacket s k kind type f).memGood := by (unfold State.collPacket; grind [State.collGoOn_memGood, State.collUnmatched_memGood, State.takeHanded_memGood])

theorem State.onData_memGood (s : State) (k : Packet) (g : Nat) (c : CollRun) (i : Nat) (hG : s.memGood) :
    (State.onData s k g c i).memGood := by ((unfold State.onData; (try dsimp only); (repeat' split) <;> simp only [State.collArrive_memGood, hG]); done)

theorem State.onResult_memGood (s : State) (k : Packet) (g : Nat) (c : CollRun) (hG : s.memGood) :
    (State.onResult s k g c).memGood := by ((unfold State.onResult; (try dsimp only); (repeat' split) <;> simp only [State.modColl_memGood, hG]); done)

theorem State.onSparse_memGood (s : State) (k : Packet) (g : Nat) (c : CollRun) (i : Nat) (hG : s.memGood) :
    (State.onSparse s k g c i).memGood := by ((unfold State.onSparse; (try dsimp only); (repeat' split) <;> simp only [State.collArrive_memGood, State.modColl_memGood, foldl_memGood, hG]); done)

theorem State.onSign_memGood (s : State) (k : Packet) (g : Nat) (c : CollRun) (i : Nat) (hG : s.memGood) :
    (State.onSign s k g c i).memGood := by (unfold State.onSign; grind [State.collArrive_memGood, foldl_memGood])

theorem State.onMeta_memGood (s : State) (k : Packet) (g : Nat) (c : CollRun) (hG : s.memGood) :
    (State.onMeta s k g c).memGood := by ((unfold State.onMeta; (try dsimp only); (repeat' split) <;> simp only [State.collSend_memGood, State.modColl_memGood, State.ringPass_memGood, hG]); done)

theorem State.onBsResult_memGood (s : State) (k : Packet) (g : Nat) (c : CollRun) (hG : s.memGood) :
    (State.onBsResult s k g c).memGood := by ((unfold State.onBsResult; (try dsimp only); (repeat' split) <;> simp only [State.collSend_memGood, State.modColl_memGood, foldl_memGood, hG]); done)

theorem State.onSignature_memGood (s : State) (k : Packet) (g : Nat) (c : CollRun) (i : Nat) (hG : s.memGood) :
    (State.onSignature s k g c i).memGood := by ((unfold State.onSignature; (try dsimp only); (repeat' split) <;> simp only [State.collSendAll_memGood, State.jobFault_memGood, State.modColl_memGood, hG]); done)

theorem State.holdMissing_memGood (s : State) (k : Packet) (hG : s.memGood) :
    (State.holdMissing s k).memGood := by (unfold State.holdMissing; grind [State.collUnmatched_memGood, State.modCtx_memGood, State.takeHanded_memGood, foldl_memGood])

theorem State.onMissing_memGood (s : State) (k : Packet) (hG : s.memGood) :
    (State.onMissing s k).memGood := by ((unfold State.onMissing; (try dsimp only); (repeat' split) <;> simp only [State.holdMissing_memGood, State.missColl_memGood, State.takeHanded_memGood, hG]); done)

theorem State.straggle_memGood (s : State) (g q seq : Nat) (hG : s.memGood) :
    (State.straggle s g q seq).memGood := by ((unfold State.straggle; (try dsimp only); (repeat' split) <;> simp only [State.missColl_memGood, hG]); done)

theorem State.collRanks_memGood (s : State) (p : Nat) (hG : s.memGood) :
    (State.collRanks s p).memGood := by (unfold State.collRanks; grind [State.missColl_memGood, foldl_memGood])

theorem State.collBoundary_memGood (s : State) (g : Nat) (commit : Bool) (hG : s.memGood) :
    (State.collBoundary s g commit).memGood := by ((unfold State.collBoundary; (try dsimp only); (repeat' split) <;> simp only [State.modCtx_memGood, hG]); done)

/-! ### Boundary -/

theorem andThen_memGood (r : State × Option Fail) (f : State → State × Option Fail) (h : ∀ s, s.memGood → (f s).1.memGood) (hr : r.1.memGood) :
    (andThen r f).1.memGood := by
  unfold andThen
  split
  · exact hr
  · exact h _ hr

theorem endBoundary_memGood (g q seq : Nat) (r : State × Option Fail) (hr : r.1.memGood) : (endBoundary g q seq r).memGood := by
  unfold endBoundary
  split
  · exact State.jobFault_memGood _ _ _ _ _ _ hr
  · exact hr

theorem State.commitActions_memGood (s : State) (g : Nat) (hs : s.memGood) : (s.commitActions g).1.memGood := by
  unfold State.commitActions
  exact andThen_memGood _ _ (fun t h => h) (andThen_memGood _ _ (fun t h => t.stashBoundary_memGood g true h) (s.govCommit_memGood g hs))

theorem State.stepCommit_memGood (s : State) (g q seq : Nat) (hG : s.memGood) :
    (State.stepCommit s g q seq).memGood := by ((unfold State.stepCommit; (try dsimp only); (repeat' split) <;> simp only [State.commitActions_memGood, State.jobFault_memGood, endBoundary_memGood, hG]); done)

theorem State.repeatActions_memGood (s : State) (g : Nat) (hs : s.memGood) : (s.repeatActions g).1.memGood := by
  unfold State.repeatActions
  exact andThen_memGood _ _ (fun t h => h) (andThen_memGood _ _ (fun t h => t.stashBoundary_memGood g false h) (s.govClear_memGood g hs))

theorem State.stepRepeat_memGood (s : State) (g q seq : Nat) (hG : s.memGood) :
    (State.stepRepeat s g q seq).memGood := by ((unfold State.stepRepeat; (try dsimp only); (repeat' split) <;> simp only [State.repeatActions_memGood, endBoundary_memGood, hG]); done)

theorem State.boundaryRow_memGood (s : State) (g q seq action : Nat) (f : State → State) (hf : ∀ a0, a0.memGood → (f a0).memGood) (hG : s.memGood) :
    (State.boundaryRow s g q seq action f).memGood := by (unfold State.boundaryRow; grind)

/-! ### Secure -/

theorem State.modSecure_memGood (s : State) (g : Nat) (f : Secure → Secure) (hG : s.memGood) :
    (State.modSecure s g f).memGood := by ((unfold State.modSecure; (try dsimp only); (repeat' split) <;> simp only [State.modCtx_memGood, hG]); done)

theorem State.modSecOp_memGood (s : State) (g : Nat) (f : SecOp → SecOp) (hG : s.memGood) :
    (State.modSecOp s g f).memGood := by ((unfold State.modSecOp; (try dsimp only); (repeat' split) <;> simp only [State.modSecure_memGood, hG]); done)

theorem State.sendSec_memGood (s : State) (g rank kind low : Nat) (offset : BitVec 64) (payload : Bytes) (hG : s.memGood) :
    (State.sendSec s g rank kind low offset payload).memGood := by ((unfold State.sendSec; (try dsimp only); (repeat' split) <;> simp only [State.sendRank_memGood, hG]); done)

theorem State.sendSecAll_memGood (s : State) (g : Nat) (ranks : List Nat) (kind : Nat) (offset : BitVec 64) (payload : Bytes) (hG : s.memGood) :
    (State.sendSecAll s g ranks kind offset payload).memGood := by (unfold State.sendSecAll; grind [State.sendSec_memGood, foldl_memGood])

theorem State.endSec_memGood (s : State) (g q seq status : Nat) (hG : s.memGood) :
    (State.endSec s g q seq status).memGood := by ((unfold State.endSec; (try dsimp only); (repeat' split) <;> simp only [State.modSecure_memGood, State.ranWith_memGood, hG]); done)

theorem State.sendParity_memGood (s : State) (g stopSeq i j t : Nat) (last : Bool) (bs : Bytes) (hG : s.memGood) :
    (State.sendParity s g stopSeq i j t last bs).memGood := by ((unfold State.sendParity; (try dsimp only); (repeat' split) <;> simp only [State.sendSec_memGood, hG]); done)

theorem State.startBuild_memGood (s : State) (g stopSeq slot used tiles : Nat) (hG : s.memGood) :
    (State.startBuild s g stopSeq slot used tiles).memGood := by (unfold State.startBuild; grind [State.sendParity_memGood, foldl_memGood])

theorem State.abandonBuild_memGood (s : State) (g : Nat) (hG : s.memGood) :
    (State.abandonBuild s g).memGood := by ((unfold State.abandonBuild; (try dsimp only); (repeat' split) <;> simp only [State.modSecure_memGood, hG]); done)

theorem State.stopWith_memGood (s : State) (g : Nat) (op : SecOp) (key : BitVec 256) (stopSeq : Nat) (region : Bytes) (hG : s.memGood) :
    (State.stopWith s g op key stopSeq region).memGood := by (unfold State.stopWith; grind [State.abandonBuild_memGood, State.endSec_memGood, State.jobFault_memGood, State.modSecure_memGood, State.startBuild_memGood, State.writeVa_memGood, foldl_memGood])

theorem State.doStop_memGood (s : State) (g : Nat) (op : SecOp) (key : BitVec 256) (hG : s.memGood) :
    (State.doStop s g op key).memGood := by ((unfold State.doStop; (try dsimp only); (repeat' split) <;> simp only [State.jobFault_memGood, State.stopWith_memGood, foldl_memGood, hG]); done)

theorem State.spdmSend_memGood (s : State) (o : SpdmOut) (hG : s.memGood) :
    (State.spdmSend s o).memGood := by (unfold State.spdmSend; (repeat' split) <;> first | exact hG | assumption | grind [State.modSec_memGood, State.sendMgmt_memGood, State.sendPeer_memGood] | grind [State.modSec_memGood, State.sendMgmt_memGood, State.sendPeer_memGood, State.memGood, State.memOk])

theorem State.setAsk_memGood (s : State) (a : Asking) (hG : s.memGood) :
    (State.setAsk s a).memGood := by ((unfold State.setAsk; (try dsimp only); (repeat' split) <;> simp only [State.modSec_memGood, hG]); done)

theorem State.endAsk_memGood (s : State) (what : Asked) (hG : s.memGood) :
    (State.endAsk s what).memGood := by ((unfold State.endAsk; (try dsimp only); (repeat' split) <;> simp only [State.modSec_memGood, hG]); done)

theorem State.beginAsk_memGood (s : State) (what : Asked) (c : Conn) (hG : s.memGood) :
    (State.beginAsk s what c).memGood := by (unfold State.beginAsk; grind [State.endAsk_memGood, State.setAsk_memGood, State.spdmSend_memGood])

theorem State.giveKey_memGood (s : State) (g : Nat) (a : KeyAsker) (hG : s.memGood) :
    (State.giveKey s g a).memGood := by ((unfold State.giveKey; (try dsimp only); (repeat' split) <;> simp only [State.modSecure_memGood, State.spdmSend_memGood, hG]); done)

theorem State.drawKey_memGood (s : State) (g : Nat) (hG : s.memGood) :
    (State.drawKey s g).memGood := by (unfold State.drawKey; grind [State.draw_memGood, State.giveKey_memGood, State.modSecure_memGood, foldl_memGood])

theorem State.stopNext_memGood (s : State) (g : Nat) (hG : s.memGood) :
    (State.stopNext s g).memGood := by ((unfold State.stopNext; (try dsimp only); (repeat' split) <;> simp only [State.modSecure_memGood, hG]); done)

theorem State.decideVote_memGood (s : State) (g : Nat) (op : SecOp) (hG : s.memGood) :
    (State.decideVote s g op).memGood := by ((unfold State.decideVote; (try dsimp only); (repeat' split) <;> simp only [State.drawKey_memGood, State.endSec_memGood, State.stopNext_memGood, hG]); done)

theorem State.tryVote_memGood (s : State) (g : Nat) (op : SecOp) (hG : s.memGood) :
    (State.tryVote s g op).memGood := by (unfold State.tryVote; grind [State.decideVote_memGood, State.modSecOp_memGood, State.sendSecAll_memGood])

theorem State.applyRegion_memGood (s : State) (g : Nat) (region : Bytes) (hG : s.memGood) :
    (State.applyRegion s g region).1.memGood := by (unfold State.applyRegion; grind [State.modCtx_memGood, State.setCfgNat_memGood, State.writeAll_memGood])

theorem State.endRestore_memGood (s : State) (g : Nat) (op : SecOp) (region : Bytes) (status : Nat) (hG : s.memGood) :
    (State.endRestore s g op region status).memGood := by (unfold State.endRestore; grind [State.applyRegion_memGood, State.endSec_memGood, State.jobFault_memGood])

theorem State.sendKnown_memGood (s : State) (g : Nat) (positions : List Nat) (ask rebuilt : Bool) (hG : s.memGood) :
    (State.sendKnown s g positions ask rebuilt).memGood := by ((unfold State.sendKnown; (try dsimp only); (repeat' split) <;> simp only [State.sendSecAll_memGood, hG]); done)

theorem State.askHolders_memGood (s : State) (g : Nat) (hG : s.memGood) :
    (State.askHolders s g).memGood := by ((unfold State.askHolders; (try dsimp only); (repeat' split) <;> simp only [State.sendSecAll_memGood, hG]); done)

theorem State.slotCorrupt_memGood (s : State) (g pos ss : Nat) (hG : s.memGood) :
    (State.slotCorrupt s g pos ss).memGood := by ((unfold State.slotCorrupt; (try dsimp only); (repeat' split) <;> simp only [State.event_memGood, hG]); done)

theorem State.logRebuilt_memGood (s : State) (g base n : Nat) (hG : s.memGood) :
    (State.logRebuilt s g base n).memGood := by ((unfold State.logRebuilt; (try dsimp only); (repeat' split) <;> simp only [State.corruptEvent_memGood, hG]); done)

theorem State.fillDone_memGood (s : State) (g : Nat) (op : SecOp) (ss : Nat) (hG : s.memGood) :
    (State.fillDone s g op ss).memGood := by ((unfold State.fillDone; (try dsimp only); (repeat' split) <;> simp only [State.endRestore_memGood, State.jobFault_memGood, State.modSecure_memGood, State.slotCorrupt_memGood, hG]); done)

theorem State.startChains_memGood (s : State) (g : Nat) (op : SecOp) (ss : Nat) (es hs : List Nat) (hG : s.memGood) :
    (State.startChains s g op ss es hs).memGood := by (unfold State.startChains; grind [State.fillDone_memGood, State.logRebuilt_memGood, State.modSecure_memGood, State.sendSecAll_memGood])

theorem State.tryFill_memGood (s : State) (g : Nat) (op : SecOp) (ss : Nat) (hG : s.memGood) :
    (State.tryFill s g op ss).memGood := by ((unfold State.tryFill; (try dsimp only); (repeat' split) <;> simp only [State.jobFault_memGood, State.startChains_memGood, hG]); done)

theorem State.selfErase_memGood (s : State) (g : Nat) (op : SecOp) (ss : Nat) (hG : s.memGood) : (s.selfErase g op ss).memGood := by
  have h1 := State.modSecure_memGood (s.slotCorrupt g (s.myPos g) ss) g (fun x => { x with rebuilt := true, phase := 3 }) (State.slotCorrupt_memGood s g (s.myPos g) ss hG)
  exact State.tryFill_memGood _ g op ss (State.askHolders_memGood _ g (State.sendKnown_memGood _ g _ _ _ h1))

theorem State.restoreOwn_memGood (s : State) (g : Nat) (op : SecOp) (ss : Nat) (hG : s.memGood) :
    (State.restoreOwn s g op ss).memGood := by ((unfold State.restoreOwn; (try dsimp only); (repeat' split) <;> simp only [State.endRestore_memGood, State.jobFault_memGood, State.selfErase_memGood, hG]); done)

theorem State.choosePoint_memGood (s : State) (g : Nat) (op : SecOp) (hG : s.memGood) :
    (State.choosePoint s g op).memGood := by ((unfold State.choosePoint; (try dsimp only); (repeat' split) <;> simp only [State.jobFault_memGood, State.modSecOp_memGood, State.restoreOwn_memGood, State.tryFill_memGood, hG]); done)

theorem State.advanceSec_memGood (s : State) (g : Nat) (hG : s.memGood) :
    (State.advanceSec s g).memGood := by ((unfold State.advanceSec; (try dsimp only); (repeat' split) <;> simp only [State.choosePoint_memGood, State.tryFill_memGood, State.tryVote_memGood, hG]); done)

theorem State.beginSec_memGood (s : State) (g q seq : Nat) (r : Run) (hG : s.memGood) :
    (State.beginSec s g q seq r).memGood := by (unfold State.beginSec; grind [State.advanceSec_memGood, State.askHolders_memGood, State.modSecure_memGood, State.sendKnown_memGood])

theorem State.secureDo_memGood (s : State) (g q seq : Nat) (r : Run) (hG : s.memGood) :
    (State.secureDo s g q seq r).memGood := by ((unfold State.secureDo; (try dsimp only); (repeat' split) <;> simp only [State.beginSec_memGood, State.doStop_memGood, hG]); done)

theorem State.secureRow_memGood (s : State) (g q seq op : Nat) (hG : s.memGood) :
    (State.secureRow s g q seq op).memGood := by ((unfold State.secureRow; (try dsimp only); (repeat' split) <;> simp only [State.engineServed_memGood, State.secureDo_memGood, hG]); done)

theorem State.registerRow_memGood (s : State) (g q seq : Nat) (hG : s.memGood) :
    (State.registerRow s g q seq).memGood := by (unfold State.registerRow; grind [State.engineServed_memGood, State.modSecure_memGood, State.ranWith_memGood])

theorem State.onVote_memGood (s : State) (g : Nat) (op : SecOp) (i : Nat) (k : Packet) (hG : s.memGood) :
    (State.onVote s g op i k).memGood := by (unfold State.onVote; grind [State.advanceSec_memGood, State.jobFault_memGood, State.modSecOp_memGood, State.takeHanded_memGood])

theorem State.voteMessage_memGood (s : State) (g : Nat) (k : Packet) (hG : s.memGood) :
    (State.voteMessage s g k).memGood := by ((unfold State.voteMessage; (try dsimp only); (repeat' split) <;> simp only [State.onVote_memGood, hG]); done)

theorem State.voteTimeout_memGood (s : State) (g : Nat) (hG : s.memGood) :
    (State.voteTimeout s g).memGood := by ((unfold State.voteTimeout; (try dsimp only); (repeat' split) <;> simp only [State.endSec_memGood, hG]); done)

theorem State.holdTile_memGood (s : State) (g : Nat) (h : Hold) (ss t : Nat) (last : Bool) (bs : Bytes) (hG : s.memGood) :
    (State.holdTile s g h ss t last bs).memGood := by (unfold State.holdTile; grind [State.modSecure_memGood, State.sendSecAll_memGood, State.writeVa_memGood])

theorem State.memberTile_memGood (s : State) (g ss i j t : Nat) (last : Bool) (bs : Bytes) (hG : s.memGood) :
    (State.memberTile s g ss i j t last bs).memGood := by ((unfold State.memberTile; (try dsimp only); (repeat' split) <;> simp only [State.corruptEvent_memGood, State.sendParity_memGood, hG]); done)

theorem State.parityPacket_memGood (s : State) (g : Nat) (k : Packet) (hG : s.memGood) :
    (State.parityPacket s g k).memGood := by ((unfold State.parityPacket; (try dsimp only); (repeat' split) <;> simp only [State.holdTile_memGood, State.memberTile_memGood, State.takeHanded_memGood, hG]); done)

theorem State.holderDone_memGood (s : State) (g : Nat) (k : Packet) (hG : s.memGood) :
    (State.holderDone s g k).memGood := by ((unfold State.holderDone; (try dsimp only); (repeat' split) <;> simp only [State.modSecure_memGood, State.takeHanded_memGood, hG]); done)

theorem State.serveTile_memGood (s : State) (g : Nat) (v : Serve) (h : Shard) (t : Nat) (bs : Bytes) (hG : s.memGood) :
    (State.serveTile s g v h t bs).1.memGood := by ((unfold State.serveTile; (try dsimp only); (repeat' split) <;> simp only [State.sendSec_memGood, hG]); done)

theorem State.serveFailed_memGood (s : State) (g : Nat) (v : Serve) (h : Shard) (e : Fail) (hG : s.memGood) :
    (State.serveFailed s g v h e).memGood := by (unfold State.serveFailed; grind [State.corruptEvent_memGood, State.modSecure_memGood, State.sendKnown_memGood, State.sendSec_memGood, State.slotCorrupt_memGood])

theorem State.serveErased_memGood (s : State) (g : Nat) (v : Serve) (served : Bool) (hG : s.memGood) :
    (State.serveErased s g v served).memGood := by ((unfold State.serveErased; (try dsimp only); (repeat' split) <;> simp only [State.modSecure_memGood, hG]); done)

theorem State.streamServe_memGood (s : State) (g : Nat) (v : Serve) (h : Shard) (hG : s.memGood) :
    (State.streamServe s g v h).memGood := by (unfold State.streamServe; grind [State.serveErased_memGood, State.serveFailed_memGood, State.serveTile_memGood, inTurn_memGood])

theorem State.onServe_memGood (s : State) (g : Nat) (k : Packet) (hG : s.memGood) :
    (State.onServe s g k).memGood := by (unfold State.onServe; grind [State.modSecure_memGood, State.serveErased_memGood, State.streamServe_memGood, State.takeHanded_memGood])

theorem State.fillTile_memGood (s : State) (g : Nat) (op : SecOp) (ss tiles n : Nat) (bs : Bytes) (hG : s.memGood) :
    (State.fillTile s g op ss tiles n bs).memGood := by (unfold State.fillTile; grind [State.fillDone_memGood, State.jobFault_memGood, State.modSecOp_memGood, State.writeVa_memGood])

theorem State.passFill_memGood (s : State) (g : Nat) (k : Packet) (hG : s.memGood) :
    (State.passFill s g k).memGood := by (unfold State.passFill; grind [State.serveErased_memGood, State.serveFailed_memGood, State.serveTile_memGood, State.takeHanded_memGood])

theorem State.fillPacket_memGood (s : State) (g : Nat) (k : Packet) (hG : s.memGood) :
    (State.fillPacket s g k).memGood := by ((unfold State.fillPacket; (try dsimp only); (repeat' split) <;> simp only [State.fillTile_memGood, State.passFill_memGood, State.takeHanded_memGood, hG]); done)

theorem State.onPoints_memGood (s : State) (g : Nat) (k : Packet) (hG : s.memGood) :
    (State.onPoints s g k).memGood := by (unfold State.onPoints; grind [State.advanceSec_memGood, State.modSecOp_memGood, State.sendKnown_memGood, State.takeHanded_memGood])

theorem State.onAskHolder_memGood (s : State) (g : Nat) (k : Packet) (hG : s.memGood) :
    (State.onAskHolder s g k).memGood := by ((unfold State.onAskHolder; (try dsimp only); (repeat' split) <;> simp only [State.sendSec_memGood, State.takeHanded_memGood, hG]); done)

theorem State.onHolder_memGood (s : State) (g : Nat) (k : Packet) (hG : s.memGood) :
    (State.onHolder s g k).memGood := by (unfold State.onHolder; grind [State.advanceSec_memGood, State.modSecOp_memGood, State.takeHanded_memGood])

theorem State.pointExchange_memGood (s : State) (g : Nat) (k : Packet) (hG : s.memGood) :
    (State.pointExchange s g k).memGood := by ((unfold State.pointExchange; (try dsimp only); (repeat' split) <;> simp only [State.onAskHolder_memGood, State.onHolder_memGood, State.onPoints_memGood, State.onServe_memGood, hG]); done)

theorem State.askKey_memGood (s : State) (g : Nat) (hG : s.memGood) :
    (State.askKey s g).memGood := by ((unfold State.askKey; (try dsimp only); (repeat' split) <;> simp only [State.beginAsk_memGood, State.modSecure_memGood, hG]); done)

theorem State.keyRequest_memGood (s : State) (g : Nat) (asker : Option KeyAsker) (hG : s.memGood) :
    (State.keyRequest s g asker).memGood := by ((unfold State.keyRequest; (try dsimp only); (repeat' split) <;> simp only [State.askKey_memGood, State.giveKey_memGood, hG]); done)

theorem State.keyArrived_memGood (s : State) (g : Nat) (key : BitVec 256) (hG : s.memGood) :
    (State.keyArrived s g key).memGood := by ((unfold State.keyArrived; (try dsimp only); (repeat' split) <;> simp only [State.advanceSec_memGood, State.fillDone_memGood, State.modSecure_memGood, hG]); done)

theorem State.secureRanks_memGood (s : State) (p : Nat) (hG : s.memGood) :
    (State.secureRanks s p).memGood := by (unfold State.secureRanks; grind [State.abandonBuild_memGood, State.advanceSec_memGood, State.modSecOp_memGood, foldl_memGood])

/-! ### Queue -/

theorem State.takeNext_memGood (s : State) (g q : Nat) (hG : s.memGood) :
    (State.takeNext s g q).memGood := by ((unfold State.takeNext; (try dsimp only); (repeat' split) <;> simp only [State.faultCtx_memGood, State.modQueue_memGood, hG]); done)

theorem State.startNext_memGood (s : State) (g q : Nat) (hG : s.memGood) :
    (State.startNext s g q).memGood := by ((unfold State.startNext; (try dsimp only); (repeat' split) <;> simp only [State.jobFault_memGood, State.modQueue_memGood, hG]); done)

theorem State.noteStart_memGood (s : State) (g q seq : Nat) (d : Bytes) (hG : s.memGood) :
    (State.noteStart s g q seq d).memGood := by ((unfold State.noteStart; (try dsimp only); (repeat' split) <;> simp only [State.modCtx_memGood, State.modStash_memGood, hG]); done)

theorem State.release1_memGood (s : State) (g q seq : Nat) (r : Run) (hG : s.memGood) :
    (State.release1 s g q seq r).memGood := by (unfold State.release1; grind [State.jobFault_memGood, State.modQueue_memGood, State.modRun_memGood, State.noteStart_memGood])

theorem State.waitSatisfied_memGood (s : State) (g q seq : Nat) (hG : s.memGood) :
    (State.waitSatisfied s g q seq).memGood := by ((unfold State.waitSatisfied; (try dsimp only); (repeat' split) <;> simp only [State.release1_memGood, hG]); done)

theorem State.waitTimeout_memGood (s : State) (g q seq : Nat) (hG : s.memGood) :
    (State.waitTimeout s g q seq).memGood := by ((unfold State.waitTimeout; (try dsimp only); (repeat' split) <;> simp only [State.jobFault_memGood, hG]); done)

theorem State.clearCounters_memGood (s : State) (g first n : Nat) (hG : s.memGood) :
    (State.clearCounters s g first n).memGood := by (unfold State.clearCounters; grind [State.setCounter_memGood, foldl_memGood])

theorem State.frontRow_memGood (s : State) (g q seq : Nat) (kind : Run → Bool) (f : State → Bytes → State) (hf : ∀ a0 a1, a0.memGood → (f a0 a1).memGood) (hG : s.memGood) :
    (State.frontRow s g q seq kind f).memGood := by (unfold State.frontRow; grind [State.ranWith_memGood])

theorem State.complete_memGood (s : State) (g q seq : Nat) (r : Run) (hG : s.memGood) :
    (State.complete s g q seq r).memGood := by (unfold State.complete; grind [State.chargeBusy_memGood, State.finish_memGood, State.signal_memGood])

theorem State.descriptorFinish_memGood (s : State) (g q seq : Nat) (hG : s.memGood) :
    (State.descriptorFinish s g q seq).memGood := by (unfold State.descriptorFinish; grind [State.complete_memGood, State.endGet_memGood, State.jobFault_memGood])

theorem State.raiseQueue_memGood (s : State) (g q : Nat) (hG : s.memGood) :
    (State.raiseQueue s g q).memGood := by ((unfold State.raiseQueue; (try dsimp only); (repeat' split) <;> simp only [State.modQueue_memGood, State.raiseFor_memGood, hG]); done)

theorem State.interrupt_memGood (s : State) (g q : Nat) (hG : s.memGood) :
    (State.interrupt s g q).memGood := by ((unfold State.interrupt; (try dsimp only); (repeat' split) <;> simp only [State.modQueue_memGood, State.raiseQueue_memGood, hG]); done)

theorem State.putRecord_memGood (s : State) (g slot : Nat) (h : HeldRec) (phase : Nat) (hG : s.memGood) :
    (State.putRecord s g slot h phase).1.memGood := by (unfold State.putRecord; grind [State.writeVa_memGood])

theorem State.writeRec_memGood (s : State) (g q : Nat) (h : HeldRec) (hG : s.memGood) :
    (State.writeRec s g q h).memGood := by (unfold State.writeRec; grind [State.faultCtx_memGood, State.interrupt_memGood, State.modQueue_memGood, State.putRecord_memGood])

theorem State.loseRecs_memGood (s : State) (g : Nat) (hG : s.memGood) :
    (State.loseRecs s g).memGood := by (unfold State.loseRecs; grind [State.modQueue_memGood, foldl_memGood])

theorem State.recordWrite_memGood (s : State) (g q : Nat) (hG : s.memGood) :
    (State.recordWrite s g q).memGood := by ((unfold State.recordWrite; (try dsimp only); (repeat' split) <;> simp only [State.cqHead_memGood, State.writeRec_memGood, hG]); done)

theorem State.holdoffExpiry_memGood (s : State) (g q : Nat) (hG : s.memGood) :
    (State.holdoffExpiry s g q).memGood := by ((unfold State.holdoffExpiry; (try dsimp only); (repeat' split) <;> simp only [State.raiseQueue_memGood, hG]); done)

/-! ### Tiles -/

theorem State.endCal_memGood (s : State) (c : Nat) (hG : s.memGood) :
    (State.endCal s c).memGood := by ((unfold State.endCal; (try dsimp only); (repeat' split) <;> simp only [State.modCore_memGood, State.modDie_memGood, hG]); done)

theorem State.enlist_memGood (s : State) (c : Nat) (hG : s.memGood) :
    (State.enlist s c).memGood := by ((unfold State.enlist; (try dsimp only); (repeat' split) <;> simp only [State.modDie_memGood, hG]); done)

theorem State.ask_memGood (s : State) (c g q seq t : Nat) (j : Job) (replay : Option Nat) (hG : s.memGood) :
    (State.ask s c g q seq t j replay).memGood := by exact hG

theorem State.takeReplay_memGood (s : State) (c g q seq : Nat) (x : Spec) (hG : s.memGood) :
    (State.takeReplay s c g q seq x).memGood := by ((unfold State.takeReplay; (try dsimp only); (repeat' split) <;> simp only [State.ask_memGood, State.modSpec_memGood, hG]); done)

theorem State.takeFrom_memGood (s : State) (c g : Nat) (hG : s.memGood) :
    (State.takeFrom s c g).memGood := by (unfold State.takeFrom; grind [State.ask_memGood, State.modCore_memGood, State.modCtx_memGood, State.modRun_memGood, State.takeReplay_memGood])

theorem State.dropPair_memGood (s : State) (c : Nat) (hG : s.memGood) :
    (State.dropPair s c).memGood := by ((unfold State.dropPair; (try dsimp only); (repeat' split) <;> simp only [State.modCore_memGood, State.modRun_memGood, hG]); done)

theorem State.takePair_memGood (s : State) (c g q seq t : Nat) (hG : s.memGood) :
    (State.takePair s c g q seq t).memGood := by ((unfold State.takePair; (try dsimp only); (repeat' split) <;> simp only [State.ask_memGood, State.modCore_memGood, hG]); done)

theorem State.served_memGood (s : State) (c g : Nat) (free : Bool) (hG : s.memGood) :
    (State.served s c g free).memGood := by ((unfold State.served; (try dsimp only); (repeat' split) <;> simp only [State.modDie_memGood, hG]); done)

theorem State.idleSelect_memGood (s : State) (c : Nat) (hG : s.memGood) :
    (State.idleSelect s c).memGood := by (unfold State.idleSelect; grind [State.dropPair_memGood, State.endCal_memGood, State.takeReplay_memGood])

theorem State.tileSelect_memGood (s : State) (c : Nat) (hG : s.memGood) :
    (State.tileSelect s c).memGood := by (unfold State.tileSelect; grind [State.dropPair_memGood, State.endCal_memGood, State.idleSelect_memGood, State.modCore_memGood, State.served_memGood, State.takeFrom_memGood, State.takePair_memGood])

theorem State.registerWalkers_memGood (s : State) (c : Nat) (t : TileRun) (hG : s.memGood) :
    (State.registerWalkers s c t).memGood := by (unfold State.registerWalkers; grind [State.modKv_memGood, foldl_memGood])

theorem State.countLate_memGood (s : State) (p c : Nat) (hG : s.memGood) :
    (State.countLate s p c).memGood := by ((unfold State.countLate; (try dsimp only); (repeat' split) <;> simp only [State.modPart_memGood, hG]); done)

theorem State.noteLate_memGood (s : State) (c g : Nat) (hG : s.memGood) :
    (State.noteLate s c g).memGood := by ((unfold State.noteLate; (try dsimp only); (repeat' split) <;> simp only [State.countLate_memGood, State.modCore_memGood, hG]); done)

theorem State.startTile_memGood (s : State) (d c : Nat) (t : TileRun) (hG : s.memGood) :
    (State.startTile s d c t).memGood := by (unfold State.startTile; grind [State.modCore_memGood, State.modDie_memGood, State.noteLate_memGood, State.registerWalkers_memGood])

theorem State.pipGrant_memGood (s : State) (d : Nat) (hG : s.memGood) :
    (State.pipGrant s d).memGood := by ((unfold State.pipGrant; (try dsimp only); (repeat' split) <;> simp only [State.startTile_memGood, hG]); done)

theorem State.noteProgress_memGood (s : State) (g q seq : Nat) (r : Run) (hG : s.memGood) :
    (State.noteProgress s g q seq r).memGood := by ((unfold State.noteProgress; (try dsimp only); (repeat' split) <;> simp only [State.modRun_memGood, State.signal_memGood, hG]); done)

theorem State.mergeTile_memGood (s : State) (g : Nat) (ts : List Tally) (hG : s.memGood) :
    (State.mergeTile s g ts).1.memGood := by (unfold State.mergeTile; grind [State.mergeTally_memGood, inTurn_memGood])

theorem State.abortNow_memGood (s : State) (g q : Nat) (hG : s.memGood) :
    (State.abortNow s g q).memGood := by ((unfold State.abortNow; (try dsimp only); (repeat' split) <;> simp only [State.modQueue_memGood, hG]); done)

theorem State.tileDone_memGood (s : State) (t : TileRun) (r : Run) (hG : s.memGood) :
    (State.tileDone s t r).memGood := by (unfold State.tileDone; grind [State.abortNow_memGood, State.jobFault_memGood, State.mergeTile_memGood, State.modRun_memGood, State.noteProgress_memGood])

theorem State.replayEnd_memGood (s : State) (c : Nat) (ws : List Walker) (t : TileRun) (no : Nat) (hG : s.memGood) :
    (State.replayEnd s c ws t no).memGood := by (unfold State.replayEnd; grind [State.abortNow_memGood, State.chainTile_memGood, State.modRun_memGood, State.replayTile_memGood])

theorem State.tileEnd_memGood (s : State) (c : Nat) (hG : s.memGood) :
    (State.tileEnd s c).memGood := by ((unfold State.tileEnd; (try dsimp only); (repeat' split) <;> simp only [State.leaveTile_memGood, State.replayEnd_memGood, State.tileDone_memGood, hG]); done)

theorem State.overtime_memGood (s : State) (t : TileRun) (hG : s.memGood) :
    (State.overtime s t).memGood := by ((unfold State.overtime; (try dsimp only); (repeat' split) <;> simp only [State.dropSpec_memGood, State.jobFault_memGood, State.replayFail_memGood, hG]); done)

theorem State.watchdog_memGood (s : State) (c : Nat) (hG : s.memGood) :
    (State.watchdog s c).memGood := by ((unfold State.watchdog; (try dsimp only); (repeat' split) <;> simp only [State.abortNow_memGood, State.overtime_memGood, State.stopTile_memGood, hG]); done)

theorem State.haloReplay_memGood (s : State) (g q : Nat) (x : Spec) (hG : s.memGood) :
    (State.haloReplay s g q x).memGood := by ((unfold State.haloReplay; (try dsimp only); (repeat' split) <;> simp only [State.replayFail_memGood, hG]); done)

theorem State.haloTimeout_memGood (s : State) (g q seq : Nat) (hG : s.memGood) :
    (State.haloTimeout s g q seq).memGood := by ((unfold State.haloTimeout; (try dsimp only); (repeat' split) <;> simp only [State.haloReplay_memGood, State.jobFault_memGood, hG]); done)

theorem State.assignCore_memGood (s : State) (now g i start c : Nat) (hG : s.memGood) :
    (State.assignCore s now g i start c).memGood := by ((unfold State.assignCore; (try dsimp only); (repeat' split) <;> simp only [State.countLate_memGood, State.modCore_memGood, hG]); done)

theorem State.unslot_memGood (s : State) (p c : Nat) (hG : s.memGood) :
    (State.unslot s p c).memGood := by ((unfold State.unslot; (try dsimp only); (repeat' split) <;> simp only [State.countLate_memGood, State.modCore_memGood, hG]); done)

theorem State.slotShort_memGood (s : State) (p d i want found : Nat) (hG : s.memGood) :
    (State.slotShort s p d i want found).memGood := by ((unfold State.slotShort; (try dsimp only); (repeat' split) <;> simp only [State.event_memGood, State.modPart_memGood, hG]); done)

theorem State.assignSlots_memGood (p d now frame : Nat) (l : List (Nat × Slot)) (free : List Nat) (s : State) (hs : s.memGood) :
    (State.assignSlots p d now frame l free s).memGood := by
  induction l generalizing free s with
  | nil => unfold State.assignSlots; exact foldl_memGood _ (fun s c h => s.unslot_memGood p c h) _ _ hs
  | cons e rest ih =>
    unfold State.assignSlots
    refine ih _ _ ?_
    have h := foldl_memGood (fun s c => s.assignCore now (64 * p + e.2.n) e.1 (frame + e.2.start * 1000) c)
      (fun s c h => s.assignCore_memGood _ _ _ _ c h) (free.take e.2.cores) s hs
    split
    · exact State.slotShort_memGood _ _ _ _ _ _ h
    · exact h

theorem State.assignDie_memGood (s : State) (p d : Nat) (hG : s.memGood) :
    (State.assignDie s p d).memGood := by
  unfold State.assignDie
  exact State.assignSlots_memGood _ _ _ _ _ _ _ (foldl_memGood _ (fun s c h => s.unslot_memGood p c h) _ _ hG)

theorem State.assignPart_memGood (s : State) (p : Nat) (hG : s.memGood) :
    (State.assignPart s p).memGood := by (unfold State.assignPart; grind [State.assignDie_memGood, State.modPart_memGood, foldl_memGood])

theorem State.frameStart_memGood (s : State) (p : Nat) (hG : s.memGood) :
    (State.frameStart s p).memGood := by ((unfold State.frameStart; (try dsimp only); (repeat' split) <;> simp only [State.assignPart_memGood, State.modPart_memGood, hG]); done)

theorem State.slotBoundary_memGood (s : State) (p : Nat) (hG : s.memGood) :
    (State.slotBoundary s p).memGood := by ((unfold State.slotBoundary; (try dsimp only); (repeat' split) <;> simp only [State.assignPart_memGood, hG]); done)

/-! ### Fabric -/

theorem State.requeue_memGood (s : State) (p : Nat) (x : TxPkt) (hG : s.memGood) :
    (State.requeue s p x).memGood := by ((unfold State.requeue; (try dsimp only); (repeat' split) <;> simp only [State.modPort_memGood, State.pump_memGood, hG]); done)

theorem State.resendOn_memGood (s : State) (ports : List Nat) (x : TxPkt) (hG : s.memGood) :
    (State.resendOn s ports x).memGood := by ((unfold State.resendOn; (try dsimp only); (repeat' split) <;> simp only [State.freeBuffer_memGood, State.requeue_memGood, hG]); done)

theorem State.feed_memGood (s : State) (no p vc : Nat) (payload : Bytes) (hG : s.memGood) :
    (State.feed s no p vc payload).memGood := by ((unfold State.feed; (try dsimp only); (repeat' split) <;> simp only [State.freeBuffer_memGood, State.modPort_memGood, State.pump_memGood, hG]); done)

theorem State.endTx_memGood (s : State) (no : Nat) (st : TxState) (hG : s.memGood) :
    (State.endTx s no st).memGood := by (unfold State.endTx; grind [State.freeBuffer_memGood, State.modPort_memGood, State.pump_memGood])

theorem State.forgetSrc_memGood (s : State) (p : Nat) (hG : s.memGood) :
    (State.forgetSrc s p).memGood := by (unfold State.forgetSrc; (repeat' split) <;> first | exact hG | assumption | grind | grind [State.memGood, State.memOk])

theorem State.dropPort_memGood (s : State) (p : Nat) (st : PortState) (hG : s.memGood) :
    (State.dropPort s p st).memGood := by (unfold State.dropPort; grind [State.resetDale_memGood, State.endTx_memGood, State.forgetSrc_memGood, State.modPort_memGood, State.modSec_memGood, State.resendOn_memGood, foldl_memGood])

theorem State.portDown_memGood (s : State) (p cause : Nat) (hG : s.memGood) :
    (State.portDown s p cause).memGood := by ((unfold State.portDown; (try dsimp only); (repeat' split) <;> simp only [State.dropPort_memGood, State.event_memGood, hG]); done)

theorem State.resend_memGood (s : State) (p seq : Nat) (hG : s.memGood) :
    (State.resend s p seq).memGood := by ((unfold State.resend; (try dsimp only); (repeat' split) <;> simp only [State.modPort_memGood, State.portDown_memGood, State.pump_memGood, hG]); done)

theorem State.onNak_memGood (s : State) (p seq : Nat) (hG : s.memGood) :
    (State.onNak s p seq).memGood := by ((unfold State.onNak; (try dsimp only); (repeat' split) <;> simp only [State.modPort_memGood, State.resend_memGood, hG]); done)

theorem State.ethRetry_memGood (s : State) (p : Nat) (hG : s.memGood) :
    (State.ethRetry s p).memGood := by ((unfold State.ethRetry; (try dsimp only); (repeat' split) <;> simp only [State.resend_memGood, hG]); done)

theorem State.tagFailed_memGood (s : State) (p : Nat) (hG : s.memGood) :
    (State.tagFailed s p).memGood := by ((unfold State.tagFailed; (try dsimp only); (repeat' split) <;> simp only [State.modPort_memGood, State.portDown_memGood, hG]); done)

theorem State.acceptSeq_memGood (s : State) (p : Nat) (k : Packet) (hG : s.memGood) :
    (State.acceptSeq s p k).memGood := by ((unfold State.acceptSeq; (try dsimp only); (repeat' split) <;> simp only [State.modFab_memGood, hG]); done)

theorem State.passOn_memGood (s : State) (p vc : Nat) (a : Asm) (hG : s.memGood) :
    (State.passOn s p vc a).memGood := by ((unfold State.passOn; (try dsimp only); (repeat' split) <;> simp only [State.countDiscard_memGood, State.enqueue_memGood, State.modPort_memGood, hG]); done)

theorem State.beginPkt_memGood (s : State) (p vc : Nat) (b : Bytes) (hG : s.memGood) :
    (State.beginPkt s p vc b).memGood := by ((unfold State.beginPkt; (try dsimp only); (repeat' split) <;> simp only [State.modPort_memGood, State.passOn_memGood, hG]); done)

theorem State.morePkt_memGood (s : State) (p vc : Nat) (b : Bytes) (hG : s.memGood) :
    (State.morePkt s p vc b).memGood := by ((unfold State.morePkt; (try dsimp only); (repeat' split) <;> simp only [State.feed_memGood, State.freeBuffer_memGood, State.modPort_memGood, hG]); done)

theorem State.mctpArrive_memGood (s : State) (c : Conn) (wrapper : Bytes) (hG : s.memGood) :
    (State.mctpArrive s c wrapper).memGood := by ((unfold State.mctpArrive; (try dsimp only); (repeat' split) <;> simp only [State.modSec_memGood, hG]); done)

theorem State.endPkt_memGood (s : State) (p vc : Nat) (hG : s.memGood) :
    (State.endPkt s p vc).memGood := by (unfold State.endPkt; grind [State.acceptSeq_memGood, State.endTx_memGood, State.freeBuffer_memGood, State.mctpArrive_memGood, State.modPort_memGood, State.tagFailed_memGood])

theorem State.flitData_memGood (s : State) (p : Nat) (f : Flit) (hG : s.memGood) :
    (State.flitData s p f).memGood := by ((unfold State.flitData; (try dsimp only); (repeat' split) <;> simp only [State.beginPkt_memGood, State.endPkt_memGood, State.morePkt_memGood, hG]); done)

theorem State.rejectFlit_memGood (s : State) (p : Nat) (unread : Bool) (hG : s.memGood) :
    (State.rejectFlit s p unread).memGood := by ((unfold State.rejectFlit; (try dsimp only); (repeat' split) <;> simp only [State.modPort_memGood, State.sendCtl_memGood, hG]); done)

theorem State.flitIn_memGood (s : State) (p : Nat) (b : Bytes) (fec : Option Nat) (hG : s.memGood) :
    (State.flitIn s p b fec).memGood := by (unfold State.flitIn; grind [State.flitData_memGood, State.modPort_memGood, State.pump_memGood, State.rejectFlit_memGood])

theorem State.toEngine_memGood (s : State) (k : Packet) (hG : s.memGood) :
    (State.toEngine s k).memGood := by ((unfold State.toEngine; (try dsimp only); (repeat' split) <;> simp only [State.handOver_memGood, State.modPart_memGood, hG]); done)

theorem State.packetReceive_memGood (s : State) (p : Nat) (hG : s.memGood) :
    (State.packetReceive s p).memGood := by (unfold State.packetReceive; grind [State.countDiscard_memGood, State.freeBuffer_memGood, State.modPort_memGood, State.toEngine_memGood])

theorem State.heartbeat_memGood (s : State) (p : Nat) (hG : s.memGood) :
    (State.heartbeat s p).memGood := by ((unfold State.heartbeat; (try dsimp only); (repeat' split) <;> simp only [State.modPort_memGood, hG]); done)

theorem State.heartbeatSend_memGood (s : State) (p : Nat) (hG : s.memGood) :
    (State.heartbeatSend s p).memGood := by (unfold State.heartbeatSend; grind [State.heartbeat_memGood, State.modFab_memGood, State.modPort_memGood, State.sendCtl_memGood])

theorem State.peerLost_memGood (s : State) (p : Nat) (peer : BitVec 32) (hG : s.memGood) :
    (State.peerLost s p peer).memGood := by ((unfold State.peerLost; (try dsimp only); (repeat' split) <;> simp only [State.send_memGood, hG]); done)

theorem State.peerSilent_memGood (s : State) (p : Nat) (hG : s.memGood) :
    (State.peerSilent s p).memGood := by ((unfold State.peerSilent; (try dsimp only); (repeat' split) <;> simp only [State.peerLost_memGood, State.portDown_memGood, hG]); done)

theorem State.calOpen_memGood (s : State) (p : Nat) (hG : s.memGood) :
    (State.calOpen s p).memGood := by ((unfold State.calOpen; (try dsimp only); (repeat' split) <;> simp only [State.modPort_memGood, hG]); done)

theorem State.lsLock_memGood (s : State) (p : Nat) (hG : s.memGood) :
    (State.lsLock s p).memGood := by ((unfold State.lsLock; (try dsimp only); (repeat' split) <;> simp only [State.modPort_memGood, State.sendCtl_memGood, hG]); done)

theorem State.laneReady_memGood (s : State) (p : Nat) (hG : s.memGood) :
    (State.laneReady s p).memGood := by ((unfold State.laneReady; (try dsimp only); (repeat' split) <;> simp only [State.modPort_memGood, hG]); done)

theorem State.switchIn_memGood (s : State) (p : Nat) (hG : s.memGood) :
    (State.switchIn s p).memGood := by ((unfold State.switchIn; (try dsimp only); (repeat' split) <;> simp only [State.modPort_memGood, hG]); done)

theorem State.laneEvent_memGood (s : State) (p lane : Nat) (hG : s.memGood) :
    (State.laneEvent s p lane).memGood := by (unfold State.laneEvent; grind [State.event_memGood, State.modPort_memGood, State.portDown_memGood, State.qualify_memGood])

theorem State.laneFailure_memGood (s : State) (p lane : Nat) (hG : s.memGood) :
    (State.laneFailure s p lane).memGood := by ((unfold State.laneFailure; (try dsimp only); (repeat' split) <;> simp only [State.laneEvent_memGood, State.modPort_memGood, hG]); done)

theorem State.calEnd_memGood (s : State) (p : Nat) (adapted : Bool) (hG : s.memGood) :
    (State.calEnd s p adapted).memGood := by ((unfold State.calEnd; (try dsimp only); (repeat' split) <;> simp only [State.laneEvent_memGood, State.modPort_memGood, hG]); done)

theorem State.lossOfSignal_memGood (s : State) (p : Nat) (hG : s.memGood) :
    (State.lossOfSignal s p).memGood := by ((unfold State.lossOfSignal; (try dsimp only); (repeat' split) <;> simp only [State.portDown_memGood, hG]); done)

theorem State.portRetrain_memGood (s : State) (p : Nat) (hG : s.memGood) :
    (State.portRetrain s p).memGood := by ((unfold State.portRetrain; (try dsimp only); (repeat' split) <;> simp only [State.resetDale_memGood, State.modPort_memGood, hG]); done)

theorem State.portTrained_memGood (s : State) (p peerId peerPort : Nat) (hG : s.memGood) :
    (State.portTrained s p peerId peerPort).memGood := by ((unfold State.portTrained; (try dsimp only); (repeat' split) <;> simp only [State.beginAsk_memGood, State.modPort_memGood, hG]); done)

theorem State.installKeys_memGood (s : State) (p : Nat) (rx tx : BitVec 256) (hG : s.memGood) :
    (State.installKeys s p rx tx).memGood := by ((unfold State.installKeys; (try dsimp only); (repeat' split) <;> simp only [State.modPort_memGood, hG]); done)

theorem State.portAuth_memGood (s : State) (p : Nat) (a : PeerAuth) (hG : s.memGood) :
    (State.portAuth s p a).memGood := by
  (unfold State.portAuth; (try dsimp only); (repeat' split) <;> simp only [State.dropPort_memGood, State.modPort_memGood, hG])

theorem State.askNext_memGood (s : State) (a : Asking) (st : AskStage) (r : SpdmRequest) (hG : s.memGood) :
    (State.askNext s a st r).memGood := by ((unfold State.askNext; (try dsimp only); (repeat' split) <;> simp only [State.setAsk_memGood, State.spdmSend_memGood, hG]); done)

theorem State.askFailed_memGood (s : State) (a : Asking) (hG : s.memGood) :
    (State.askFailed s a).memGood := by ((unfold State.askFailed; (try dsimp only); (repeat' split) <;> simp only [State.dropPort_memGood, State.endAsk_memGood, State.modSecure_memGood, hG]); done)

theorem State.askSession_memGood (s : State) (a : Asking) (id : BitVec 32) (key txKey : BitVec 256) (signature : Bytes) (hG : s.memGood) :
    (State.askSession s a id key txKey signature).memGood := by (unfold State.askSession; grind [State.askFailed_memGood, State.askNext_memGood, State.finish_memGood, State.modSec_memGood, State.spdmSend_memGood])

theorem State.askOpened_memGood (s : State) (a : Asking) (hG : s.memGood) :
    (State.askOpened s a).memGood := by (unfold State.askOpened; grind [State.installKeys_memGood, State.keyRequest_memGood, State.modSec_memGood, State.setAsk_memGood, State.spdmSend_memGood])

theorem State.askGiven_memGood (s : State) (a : Asking) (key : BitVec 256) (hash : Bytes) (hG : s.memGood) :
    (State.askGiven s a key hash).memGood := by (unfold State.askGiven; grind [State.askFailed_memGood, State.endAsk_memGood, State.keyArrived_memGood, State.spdmSend_memGood])

theorem State.spdmReply_memGood (s : State) (what : Asked) (r : SpdmReply) (key : Option (BitVec 256)) (hash : Bytes) (hG : s.memGood) :
    (State.spdmReply s what r key hash).memGood := by ((unfold State.spdmReply; (try dsimp only); (repeat' split) <;> simp only [State.askFailed_memGood, State.askGiven_memGood, State.askNext_memGood, State.askOpened_memGood, State.askSession_memGood, State.finish_memGood, hG]); done)

theorem State.keyRollover_memGood (s : State) (p : Nat) (key : BitVec 256) (hG : s.memGood) :
    (State.keyRollover s p key).memGood := by ((unfold State.keyRollover; (try dsimp only); (repeat' split) <;> simp only [State.modPort_memGood, State.sendCtl_memGood, hG]); done)

theorem State.keyPhaseIn_memGood (s : State) (p : Nat) (hG : s.memGood) :
    (State.keyPhaseIn s p).memGood := by ((unfold State.keyPhaseIn; (try dsimp only); (repeat' split) <;> simp only [State.modPort_memGood, hG]); done)

/-! ### Reset -/

theorem State.resetDomain_memGood (s : State) (n : Nat) (hG : s.memGood) :
    (State.resetDomain s n).memGood := by (unfold State.resetDomain; grind [State.resetDale_memGood, foldl_memGood])

theorem State.powerOn_memGood (s : State) (n : Nat) (hG : s.memGood) :
    (State.powerOn s n).memGood := by ((unfold State.powerOn; (try dsimp only); (repeat' split) <;> simp only [State.modDomain_memGood, hG]); done)

theorem State.powerOff_memGood (s : State) (n : Nat) (hG : s.memGood) :
    (State.powerOff s n).memGood := by ((unfold State.powerOff; (try dsimp only); (repeat' split) <;> simp only [State.modDomain_memGood, State.resetDomain_memGood, hG]); done)

theorem State.powerAll_memGood (s : State) (ns : List Nat) (on : Bool) (hG : s.memGood) :
    (State.powerAll s ns on).memGood := by (unfold State.powerAll; grind [State.powerOff_memGood, State.powerOn_memGood, foldl_memGood])

theorem State.powerCores_memGood (s : State) (p : Nat) (on : Bool) (hG : s.memGood) :
    (State.powerCores s p on).memGood := by ((unfold State.powerCores; (try dsimp only); (repeat' split) <;> simp only [State.powerAll_memGood, hG]); done)

theorem State.haltCore_memGood (s : State) (c : Nat) (hG : s.memGood) :
    (State.haltCore s c).memGood := by (unfold State.haltCore; grind [State.endCal_memGood, State.freeCore_memGood, State.modCore_memGood])

theorem State.resetDies_memGood (s : State) (p : Nat) (hG : s.memGood) :
    (State.resetDies s p).memGood := by (unfold State.resetDies; grind [State.haltCore_memGood, State.modDie_memGood, State.modFab_memGood, State.resetDale_memGood, foldl_memGood])

theorem State.stopUnits_memGood (s : State) (p : Nat) (hG : s.memGood) :
    (State.stopUnits s p).memGood := by (unfold State.stopUnits; grind [State.modStack_memGood, State.resetDale_memGood, State.resetDies_memGood, foldl_memGood])

theorem State.freeContexts_memGood (s : State) (p : Nat) (hG : s.memGood) :
    (State.freeContexts s p).memGood := by exact hG

theorem State.resetEvent_memGood (s : State) (p cause : Nat) (hG : s.memGood) :
    (State.resetEvent s p cause).memGood := by ((unfold State.resetEvent; (try dsimp only); (repeat' split) <;> simp only [State.event_memGood, hG]); done)

theorem State.partReset_memGood (s : State) (p cause : Nat) (hG : s.memGood) :
    (State.partReset s p cause).memGood := by (unfold State.partReset; grind [State.freeContexts_memGood, State.modPart_memGood, State.raiseFor_memGood, State.resetEvent_memGood, State.stopUnits_memGood, foldl_memGood])

theorem State.causeReset_memGood (s : State) (p cause : Nat) (hG : s.memGood) :
    (State.causeReset s p cause).memGood := by (unfold State.causeReset; grind [State.modPart_memGood, State.partReset_memGood, State.resetEvent_memGood, State.stopUnits_memGood])

theorem State.stopContexts_memGood (s : State) (p : Nat) (hG : s.memGood) :
    (State.stopContexts s p).memGood := by (unfold State.stopContexts; (repeat' split) <;> first | exact hG | assumption | grind [State.dropCfg_memGood] | grind [State.dropCfg_memGood, State.memGood, State.memOk])

theorem State.destroy_memGood (s : State) (p : Nat) (hG : s.memGood) :
    (State.destroy s p).memGood := by (unfold State.destroy; grind [State.modCore_memGood, State.modPart_memGood, State.powerCores_memGood, State.stopContexts_memGood, State.stopUnits_memGood, foldl_memGood])

theorem State.zeroStacks_memGood (s : State) (p : Nat) (hs : s.memGood) : (s.zeroStacks p).memGood := ⟨cellsFilter_wf _ _ hs.1, hs.2⟩

theorem State.clearCores_memGood (s : State) (p : Nat) (hG : s.memGood) :
    (State.clearCores s p).memGood := by (unfold State.clearCores; grind [State.modCore_memGood, State.modDie_memGood, foldl_memGood])

theorem State.destroyed_memGood (s : State) (p : Nat) (hG : s.memGood) :
    (State.destroyed s p).memGood := by
  have h := State.clearCores_memGood _ p (State.zeroStacks_memGood s p hG)
  unfold State.destroyed
  generalize (s.zeroStacks p).clearCores p = u at h
  exact State.dropCfg_memGood { u with ctxs := u.ctxs.filter fun kv => partOfCtx kv.1 != p } (partIndex p) h

theorem State.moduleReset_memGood (s : State) (hs : s.memGood) : s.moduleReset.memGood := ⟨rfl, hs.2⟩

theorem State.remeasure_memGood (s : State) (hG : s.memGood) :
    (State.remeasure s).memGood := by ((unfold State.remeasure; (try dsimp only); (repeat' split) <;> simp only [State.modSec_memGood, hG]); done)

theorem State.deriveKeys_memGood (s : State) (hG : s.memGood) :
    (State.deriveKeys s).memGood := by ((unfold State.deriveKeys; (try dsimp only); (repeat' split) <;> simp only [State.modSec_memGood, hG]); done)

theorem State.startUp_memGood (s : State) (hG : s.memGood) :
    (State.startUp s).memGood := by ((unfold State.startUp; (try dsimp only); (repeat' split) <;> simp only [State.modPwr_memGood, hG]); done)

theorem State.resetNow_memGood (s : State) (hG : s.memGood) :
    (State.resetNow s).memGood := by ((unfold State.resetNow; (try dsimp only); (repeat' split) <;> simp only [State.moduleReset_memGood, State.startUp_memGood, hG]); done)

theorem State.powerLost_memGood (s : State) (hG : s.memGood) :
    (State.powerLost s).memGood := by ((unfold State.powerLost; (try dsimp only); (repeat' split) <;> simp only [State.modPwr_memGood, State.moduleReset_memGood, hG]); done)

theorem idle_memGood (s : State) (hG : s.memGood) :
    (idle s).memGood := by ((unfold idle; (try dsimp only); (repeat' split) <;> simp only [State.resetNow_memGood, State.tick_memGood, hG]); done)

/-! ### Faults -/

theorem State.discardSpec_memGood (s : State) (t : TileRun) (hG : s.memGood) :
    (State.discardSpec s t).memGood := by ((unfold State.discardSpec; (try dsimp only); (repeat' split) <;> simp only [State.dropSpec_memGood, hG]); done)

theorem State.pullTile_memGood (s : State) (c : Nat) (hG : s.memGood) :
    (State.pullTile s c).memGood := by (unfold State.pullTile; grind [State.abortNow_memGood, State.discardSpec_memGood, State.freeCore_memGood, State.modKv_memGood, State.modRun_memGood, State.returnTile_memGood])

theorem State.setRole_memGood (s : State) (c : Nat) (on : Bool) (hG : s.memGood) :
    (State.setRole s c on).memGood := by ((unfold State.setRole; (try dsimp only); (repeat' split) <;> simp only [State.setCfgNat_memGood, hG]); done)

theorem State.takeOut_memGood (s : State) (c : Nat) (hG : s.memGood) :
    (State.takeOut s c).memGood := by (unfold State.takeOut; grind [State.dropPair_memGood, State.endCal_memGood, State.modCore_memGood, State.modDie_memGood, State.powerOff_memGood, State.pullTile_memGood, State.resetDale_memGood])

theorem State.fenceEvents_memGood (s : State) (c cause g : Nat) (active : Bool) (spare : Option Nat) (hG : s.memGood) :
    (State.fenceEvents s c cause g active spare).memGood := by (unfold State.fenceEvents; grind [State.event_memGood, State.qualify_memGood])

theorem State.fence_memGood (s : State) (c cause : Nat) (hG : s.memGood) :
    (State.fence s c cause).memGood := by (unfold State.fence; grind [State.assignDie_memGood, State.fenceEvents_memGood, State.setRole_memGood, State.takeOut_memGood])

theorem State.coreFault_memGood (s : State) (c cause : Nat) (hG : s.memGood) :
    (State.coreFault s c cause).memGood := by ((unfold State.coreFault; (try dsimp only); (repeat' split) <;> simp only [State.fence_memGood, hG]); done)

theorem State.spareTest_memGood (s : State) (c : Nat) (passed : Bool) (hG : s.memGood) :
    (State.spareTest s c passed).memGood := by ((unfold State.spareTest; (try dsimp only); (repeat' split) <;> simp only [State.fence_memGood, State.modCore_memGood, hG]); done)

theorem State.hubFault_memGood (s : State) (d unit : Nat) (hG : s.memGood) :
    (State.hubFault s d unit).memGood := by ((unfold State.hubFault; (try dsimp only); (repeat' split) <;> simp only [State.causeReset_memGood, State.event_memGood, hG]); done)

theorem State.dieHubFault_memGood (s : State) (d unit : Nat) (hG : s.memGood) :
    (State.dieHubFault s d unit).memGood := by ((unfold State.dieHubFault; (try dsimp only); (repeat' split) <;> simp only [State.hubFault_memGood, hG]); done)

theorem State.mcFault_memGood (s : State) (k kind : Nat) (hG : s.memGood) :
    (State.mcFault s k kind).memGood := by ((unfold State.mcFault; (try dsimp only); (repeat' split) <;> simp only [State.causeReset_memGood, State.event_memGood, hG]); done)

theorem State.memFault_memGood (s : State) (k kind : Nat) (hG : s.memGood) :
    (State.memFault s k kind).memGood := by ((unfold State.memFault; (try dsimp only); (repeat' split) <;> simp only [State.mcFault_memGood, hG]); done)

theorem State.cacheParity_memGood (s : State) (d line : Nat) (hG : s.memGood) :
    (State.cacheParity s d line).memGood := by ((unfold State.cacheParity; (try dsimp only); (repeat' split) <;> simp only [State.modDie_memGood, hG]); done)

theorem State.loseRings_memGood (s : State) (g : Nat) (hG : s.memGood) :
    (State.loseRings s g).memGood := by ((unfold State.loseRings; (try dsimp only); (repeat' split) <;> simp only [State.faultCtx_memGood, hG]); done)

theorem State.loseCtxs_memGood (s : State) (h : Nat) (parts : List Nat) (hG : s.memGood) :
    (State.loseCtxs s h parts).memGood := by (unfold State.loseCtxs; grind [State.loseRecs_memGood, State.loseRings_memGood, foldl_memGood])

theorem State.hostDown_memGood (s : State) (h cause : Nat) (hG : s.memGood) :
    (State.hostDown s h cause).memGood := by (unfold State.hostDown; grind [State.event_memGood, State.loseCtxs_memGood, State.modHif_memGood])

theorem State.hostLinkDown_memGood (s : State) (h : Nat) (hG : s.memGood) :
    (State.hostLinkDown s h).memGood := by ((unfold State.hostLinkDown; (try dsimp only); (repeat' split) <;> simp only [State.hostDown_memGood, hG]); done)

theorem State.regain_memGood (s : State) (h : Nat) (parts : List Nat) (hG : s.memGood) :
    (State.regain s h parts).memGood := by (unfold State.regain; grind [State.loseRecs_memGood, State.raiseQueue_memGood, foldl_memGood])

theorem State.linkOut_memGood (s : State) (n : Nat) (hG : s.memGood) :
    (State.linkOut s n).memGood := by (unfold State.linkOut; grind [State.loseCtxs_memGood, State.modLink_memGood, foldl_memGood])

theorem State.linkFault_memGood (s : State) (n cause : Nat) (hG : s.memGood) :
    (State.linkFault s n cause).memGood := by ((unfold State.linkFault; (try dsimp only); (repeat' split) <;> simp only [State.causeReset_memGood, State.event_memGood, State.linkOut_memGood, hG]); done)

theorem State.linkRetrained_memGood (s : State) (n : Nat) (ok : Bool) (hG : s.memGood) :
    (State.linkRetrained s n ok).memGood := by (unfold State.linkRetrained; grind [State.event_memGood, State.modLink_memGood, State.regain_memGood, foldl_memGood])

theorem State.daleFault_memGood (s : State) (n hub core : Nat) (hG : s.memGood) :
    (State.daleFault s n hub core).memGood := by ((unfold State.daleFault; (try dsimp only); (repeat' split) <;> simp only [State.fence_memGood, State.hostLinkDown_memGood, State.hubFault_memGood, State.lossOfSignal_memGood, State.mcFault_memGood, hG]); done)

theorem State.domainUnit_memGood (s : State) (n : Nat) (hG : s.memGood) :
    (State.domainUnit s n).memGood := by (unfold State.domainUnit; grind [State.daleFault_memGood, State.draw_memGood, State.fence_memGood, State.hostLinkDown_memGood, State.lossOfSignal_memGood, foldl_memGood])

theorem State.domainFailed_memGood (s : State) (n : Nat) (hG : s.memGood) :
    (State.domainFailed s n).memGood := by (unfold State.domainFailed; grind [State.domainUnit_memGood, State.event_memGood, State.modDomain_memGood])

theorem State.phaseFailure_memGood (s : State) (n phase : Nat) (hG : s.memGood) :
    (State.phaseFailure s n phase).memGood := by (unfold State.phaseFailure; grind [State.domainFailed_memGood, State.event_memGood, State.modDomain_memGood])

theorem State.colOverrun_memGood (s : State) (sender receiver : Nat) (hG : s.memGood) :
    (State.colOverrun s sender receiver).memGood := by (unfold State.colOverrun; grind [State.daleFault_memGood, State.event_memGood, State.modDale_memGood])

theorem State.colTimeout_memGood (s : State) (requester far : Nat) (hG : s.memGood) :
    (State.colTimeout s requester far).memGood := by (unfold State.colTimeout; grind [State.daleFault_memGood, State.event_memGood, State.modDale_memGood])

theorem State.partFailed_memGood (s : State) (p unit : Nat) (hG : s.memGood) :
    (State.partFailed s p unit).memGood := by ((unfold State.partFailed; (try dsimp only); (repeat' split) <;> simp only [State.event_memGood, State.modPart_memGood, hG]); done)

theorem State.unitFailed_memGood (s : State) (unit : Nat) (hG : s.memGood) :
    (State.unitFailed s unit).memGood := by ((unfold State.unitFailed; (try dsimp only); (repeat' split) <;> simp only [State.modPwr_memGood, hG]); done)

theorem State.holdFailed_memGood (s : State) (d unit : Nat) (hG : s.memGood) :
    (State.holdFailed s d unit).memGood := by ((unfold State.holdFailed; (try dsimp only); (repeat' split) <;> simp only [State.partFailed_memGood, State.unitFailed_memGood, hG]); done)

theorem State.colHoldTimeout_memGood (s : State) (requester far : Nat) (hG : s.memGood) :
    (State.colHoldTimeout s requester far).memGood := by ((unfold State.colHoldTimeout; (try dsimp only); (repeat' split) <;> simp only [State.event_memGood, State.fence_memGood, State.holdFailed_memGood, State.lossOfSignal_memGood, State.modHif_memGood, hG]); done)

theorem State.rngFail_memGood (s : State) (test : Nat) (hG : s.memGood) :
    (State.rngFail s test).memGood := by ((unfold State.rngFail; (try dsimp only); (repeat' split) <;> simp only [State.event_memGood, State.modSec_memGood, hG]); done)

theorem State.ceEvent_memGood (s : State) (unit d cur prev : Nat) (hG : s.memGood) :
    (State.ceEvent s unit d cur prev).memGood := by ((unfold State.ceEvent; (try dsimp only); (repeat' split) <;> simp only [State.event_memGood, State.qualify_memGood, hG]); done)

theorem State.ceRoll_memGood (s : State) (hG : s.memGood) :
    (State.ceRoll s).memGood := by (unfold State.ceRoll; (try dsimp only); (repeat' split) <;> first | exact hG | exact hG | grind)

theorem State.ceStack_memGood (s : State) (k : Nat) (hG : s.memGood) :
    (State.ceStack s k).memGood := by ((unfold State.ceStack; (try dsimp only); (repeat' split) <;> simp only [State.ceEvent_memGood, State.modStack_memGood, hG]); done)

theorem State.ceDie_memGood (s : State) (d : Nat) (hG : s.memGood) :
    (State.ceDie s d).memGood := by ((unfold State.ceDie; (try dsimp only); (repeat' split) <;> simp only [State.ceEvent_memGood, State.modDie_memGood, hG]); done)

theorem State.stackError_memGood (s : State) (k : Nat) (hG : s.memGood) :
    (State.stackError s k).memGood := by ((unfold State.stackError; (try dsimp only); (repeat' split) <;> simp only [State.ceStack_memGood, State.modStack_memGood, hG]); done)

theorem State.dieError_memGood (s : State) (d : Nat) (hG : s.memGood) :
    (State.dieError s d).memGood := by ((unfold State.dieError; (try dsimp only); (repeat' split) <;> simp only [State.ceDie_memGood, State.modDie_memGood, hG]); done)

theorem State.ceSweep_memGood (s : State) (hG : s.memGood) :
    (State.ceSweep s).memGood := by (unfold State.ceSweep; grind [State.ceDie_memGood, State.ceRoll_memGood, State.ceStack_memGood, foldl_memGood])

theorem State.corrected_memGood (s : State) (onDie : Bool) (unit : Nat) (hG : s.memGood) :
    (State.corrected s onDie unit).memGood := by ((unfold State.corrected; (try dsimp only); (repeat' split) <;> simp only [State.ceRoll_memGood, State.dieError_memGood, State.stackError_memGood, hG]); done)

theorem State.quietExpiry_memGood (s : State) (hG : s.memGood) :
    (State.quietExpiry s).memGood := by (unfold State.quietExpiry; (repeat' split) <;> first | exact hG | assumption | grind | grind [State.memGood, State.memOk])

theorem State.maxExpiry_memGood (s : State) (hG : s.memGood) :
    (State.maxExpiry s).memGood := by (unfold State.maxExpiry; (repeat' split) <;> first | exact hG | assumption | grind [State.secureRequest_memGood] | grind [State.secureRequest_memGood, State.memGood, State.memOk])

/-! ### Power -/

theorem State.powerGood_memGood (s : State) (straps : BitVec 4) (hG : s.memGood) :
    (State.powerGood s straps).memGood := by ((unfold State.powerGood; (try dsimp only); (repeat' split) <;> simp only [State.modPwr_memGood, State.startUp_memGood, hG]); done)

theorem State.powerGoodLoss_memGood (s : State) (hG : s.memGood) :
    (State.powerGoodLoss s).memGood := by ((unfold State.powerGoodLoss; (try dsimp only); (repeat' split) <;> simp only [State.powerLost_memGood, hG]); done)

theorem State.hotSwapOpen_memGood (s : State) (hG : s.memGood) :
    (State.hotSwapOpen s).memGood := by ((unfold State.hotSwapOpen; (try dsimp only); (repeat' split) <;> simp only [State.modPwr_memGood, State.powerGoodLoss_memGood, hG]); done)

theorem State.resetAssert_memGood (s : State) (hG : s.memGood) :
    (State.resetAssert s).memGood := by ((unfold State.resetAssert; (try dsimp only); (repeat' split) <;> simp only [State.modPwr_memGood, State.moduleReset_memGood, hG]); done)

theorem State.resetRelease_memGood (s : State) (hG : s.memGood) :
    (State.resetRelease s).memGood := by ((unfold State.resetRelease; (try dsimp only); (repeat' split) <;> simp only [State.modPwr_memGood, State.startUp_memGood, hG]); done)

theorem State.bankEvent_memGood (s : State) (bank image : Nat) (hG : s.memGood) :
    (State.bankEvent s bank image).memGood := by ((unfold State.bankEvent; (try dsimp only); (repeat' split) <;> simp only [State.event_memGood, hG]); done)

theorem State.storeLost_memGood (s : State) (hG : s.memGood) :
    (State.storeLost s).memGood := by ((unfold State.storeLost; (try dsimp only); (repeat' split) <;> simp only [State.dropCfg_memGood, State.event_memGood, hG]); done)

theorem State.booted_memGood (s : State) (bank : Nat) (hG : s.memGood) :
    (State.booted s bank).memGood := by
  unfold State.booted
  exact State.powerAll_memGood _ _ true (State.modPwr_memGood _ _ (State.deriveKeys_memGood _ (State.modSec_memGood s _ hG)))

theorem State.bootComplete_memGood (s : State) (bank0 bank1 : Option Nat) (store : Bool) (hG : s.memGood) :
    (State.bootComplete s bank0 bank1 store).memGood := by (unfold State.bootComplete; grind [State.bankEvent_memGood, State.booted_memGood, State.deriveKeys_memGood, State.modPwr_memGood, State.remeasure_memGood, State.storeLost_memGood])

theorem State.powerPorts_memGood (s : State) (d : Nat) (hG : s.memGood) :
    (State.powerPorts s d).memGood := by ((unfold State.powerPorts; (try dsimp only); (repeat' split) <;> simp only [State.powerOn_memGood, hG]); done)

theorem State.trainPorts_memGood (s : State) (d : Nat) (hG : s.memGood) :
    (State.trainPorts s d).memGood := by (unfold State.trainPorts; grind [State.modPort_memGood, State.powerOn_memGood, foldl_memGood])

theorem State.coreResults_memGood (s : State) (d : Nat) (ok : BitVec 18) (hG : s.memGood) :
    (State.coreResults s d ok).memGood := by (unfold State.coreResults; grind [State.draw_memGood, State.fence_memGood, State.modCore_memGood, foldl_memGood])

theorem State.testDone_memGood (s : State) (d : Nat) (passed : Bool) (coresOk : BitVec 18) (hG : s.memGood) :
    (State.testDone s d passed coresOk).memGood := by (unfold State.testDone; grind [State.coreResults_memGood, State.event_memGood, State.modHif_memGood, State.modPwr_memGood, State.powerAll_memGood, State.powerPorts_memGood, State.trainPorts_memGood])

theorem State.stackTrained_memGood (s : State) (k : Nat) (ok : Bool) (hG : s.memGood) :
    (State.stackTrained s k ok).memGood := by ((unfold State.stackTrained; (try dsimp only); (repeat' split) <;> simp only [State.event_memGood, State.modPwr_memGood, State.modStack_memGood, hG]); done)

theorem State.fieldChange_memGood (s : State) (hG : s.memGood) :
    (State.fieldChange s).memGood := by exact hG

theorem State.fieldUp_memGood (s : State) (hG : s.memGood) :
    (State.fieldUp s).memGood := by (unfold State.fieldUp; (repeat' split) <;> first | exact hG | assumption | grind [State.modPwr_memGood] | grind [State.modPwr_memGood, State.memGood, State.memOk])

theorem State.perstAssert_memGood (s : State) (h : Nat) (hG : s.memGood) : (s.perstAssert h).memGood := by
  unfold State.perstAssert
  split
  · exact hG
  · have h1 : (if (s.hif h).ready then s.hostDown h 1 else s).memGood := by
      split
      · exact State.hostDown_memGood s h 1 hG
      · exact hG
    have h2 := State.resetDale_memGood _ (208 + h) (State.modHif_memGood _ h (fun i => { perst := true, failed := i.failed, raised := i.raised }) h1)
    exact h2

theorem State.perstRelease_memGood (s : State) (h : Nat) (hG : s.memGood) :
    (State.perstRelease s h).memGood := by ((unfold State.perstRelease; (try dsimp only); (repeat' split) <;> simp only [State.modHif_memGood, hG]); done)

theorem State.hostUp_memGood (s : State) (h speed width : Nat) (hG : s.memGood) :
    (State.hostUp s h speed width).memGood := by ((unfold State.hostUp; (try dsimp only); (repeat' split) <;> simp only [State.modHif_memGood, State.regain_memGood, hG]); done)

theorem State.lowerGrant_memGood (s : State) (mhz c : Nat) (hG : s.memGood) :
    (State.lowerGrant s mhz c).memGood := by ((unfold State.lowerGrant; (try dsimp only); (repeat' split) <;> simp only [State.modCore_memGood, State.modDie_memGood, hG]); done)

theorem State.emergency_memGood (s : State) (d : Nat) (hG : s.memGood) :
    (State.emergency s d).memGood := by (unfold State.emergency; grind [State.lowerGrant_memGood, State.modDie_memGood, foldl_memGood])

theorem State.marginEvent_memGood (s : State) (unit p : Nat) (t limit : Int) (hG : s.memGood) :
    (State.marginEvent s unit p t limit).memGood := by ((unfold State.marginEvent; (try dsimp only); (repeat' split) <;> simp only [State.event_memGood, State.qualify_memGood, hG]); done)

theorem State.dieTemp_memGood (s : State) (d : Nat) (t : Int) (hG : s.memGood) :
    (State.dieTemp s d t).memGood := by ((unfold State.dieTemp; (try dsimp only); (repeat' split) <;> simp only [State.emergency_memGood, State.modDie_memGood, hG]); done)

theorem State.dieMargin_memGood (s : State) (d : Nat) (t : Int) (hG : s.memGood) :
    (State.dieMargin s d t).memGood := by ((unfold State.dieMargin; (try dsimp only); (repeat' split) <;> simp only [State.marginEvent_memGood, State.modDie_memGood, hG]); done)

theorem State.setThermal_memGood (s : State) (k new : Nat) (t : Int) (counts : Bool) (hG : s.memGood) :
    (State.setThermal s k new t counts).memGood := by (unfold State.setThermal; grind [State.event_memGood, State.modStack_memGood, State.qualify_memGood])

theorem State.stackTemp_memGood (s : State) (k : Nat) (t : Int) (hG : s.memGood) :
    (State.stackTemp s k t).memGood := by ((unfold State.stackTemp; (try dsimp only); (repeat' split) <;> simp only [State.modStack_memGood, State.setThermal_memGood, hG]); done)

theorem State.setSensor_memGood (s : State) (x : Sensor) (v : SensorSt) (hG : s.memGood) :
    (State.setSensor s x v).memGood := by ((unfold State.setSensor; (try dsimp only); (repeat' split) <;> simp only [State.modPwr_memGood, hG]); done)

theorem State.domMargin_memGood (s : State) (n : Nat) (t : Int) (hG : s.memGood) :
    (State.domMargin s n t).memGood := by ((unfold State.domMargin; (try dsimp only); (repeat' split) <;> simp only [State.marginEvent_memGood, State.setSensor_memGood, hG]); done)

theorem State.mdTemp_memGood (s : State) (t : Int) (hG : s.memGood) :
    (State.mdTemp s t).memGood := by ((unfold State.mdTemp; (try dsimp only); (repeat' split) <;> simp only [State.modDie_memGood, hG]); done)

theorem State.consume_memGood (s : State) (x : Sensor) (t : Int) (hG : s.memGood) :
    (State.consume s x t).memGood := by ((unfold State.consume; (try dsimp only); (repeat' split) <;> simp only [State.dieMargin_memGood, State.dieTemp_memGood, State.domMargin_memGood, State.mdTemp_memGood, State.stackTemp_memGood, hG]); done)

theorem State.consumeFailed_memGood (s : State) (x : Sensor) (hG : s.memGood) :
    (State.consumeFailed s x).memGood := by ((unfold State.consumeFailed; (try dsimp only); (repeat' split) <;> simp only [State.dieTemp_memGood, State.mdTemp_memGood, State.modDie_memGood, State.modStack_memGood, State.setThermal_memGood, State.stackTemp_memGood, hG]); done)

theorem State.sensorFailed_memGood (s : State) (x : Sensor) (cause : Nat) (hG : s.memGood) :
    (State.sensorFailed s x cause).memGood := by (unfold State.sensorFailed; grind [State.consumeFailed_memGood, State.event_memGood, State.qualify_memGood, State.setSensor_memGood])

theorem State.sample_memGood (s : State) (x : Sensor) (reading rating : Int) (hG : s.memGood) :
    (State.sample s x reading rating).memGood := by ((unfold State.sample; (try dsimp only); (repeat' split) <;> simp only [State.consume_memGood, State.sensorFailed_memGood, State.setSensor_memGood, hG]); done)

theorem State.sensorTimeout_memGood (s : State) (x : Sensor) (hG : s.memGood) :
    (State.sensorTimeout s x).memGood := by ((unfold State.sensorTimeout; (try dsimp only); (repeat' split) <;> simp only [State.sensorFailed_memGood, hG]); done)

theorem State.capStep_memGood (s : State) (d : Nat) (hG : s.memGood) :
    (State.capStep s d).memGood := by ((unfold State.capStep; (try dsimp only); (repeat' split) <;> simp only [State.modDie_memGood, hG]); done)

theorem State.darken_memGood (s : State) (hG : s.memGood) :
    (State.darken s).memGood := by (unfold State.darken; grind [State.dropPort_memGood, State.modFab_memGood, State.modHif_memGood, State.modPwr_memGood, State.powerAll_memGood, State.stopUnits_memGood, foldl_memGood])

theorem State.thermalShutdown_memGood (s : State) (onStack : Bool) (unit : Nat) (hG : s.memGood) :
    (State.thermalShutdown s onStack unit).memGood := by ((unfold State.thermalShutdown; (try dsimp only); (repeat' split) <;> simp only [State.darken_memGood, State.dieTemp_memGood, State.event_memGood, State.stackTemp_memGood, hG]); done)

theorem State.writesDone_memGood (s : State) (k : Nat) (hG : s.memGood) :
    (State.writesDone s k).memGood := by ((unfold State.writesDone; (try dsimp only); (repeat' split) <;> simp only [State.causeReset_memGood, State.modStack_memGood, hG]); done)

theorem State.pipDivision_memGood (s : State) (hG : s.memGood) :
    (State.pipDivision s).memGood := by (unfold State.pipDivision; grind [State.modPwr_memGood, State.modDie_memGood, foldl_memGood])

theorem State.accept_memGood (s : State) (l : List Nat) (room : Nat) (hs : s.memGood) : (s.accept l room).1.memGood := by
  induction l generalizing s room with
  | nil => exact hs
  | cons n rest ih => unfold State.accept; grind [State.modDomain_memGood]

theorem State.rampDie_memGood (s : State) (d : Nat) (hG : s.memGood) :
    (State.rampDie s d).memGood := by ((unfold State.rampDie; (try dsimp only); (repeat' split) <;> simp only [State.accept_memGood, State.modDie_memGood, hG]); done)

theorem State.rampInterval_memGood (s : State) (hG : s.memGood) :
    (State.rampInterval s).memGood := by (unfold State.rampInterval; grind [State.modPwr_memGood, State.rampDie_memGood, foldl_memGood])

theorem State.domainOn_memGood (s : State) (n : Nat) (rose : Bool) (hG : s.memGood) :
    (State.domainOn s n rose).memGood := by ((unfold State.domainOn; (try dsimp only); (repeat' split) <;> simp only [State.domainFailed_memGood, State.modDomain_memGood, hG]); done)

theorem State.droopTrip_memGood (s : State) (n : Nat) (hG : s.memGood) :
    (State.droopTrip s n).memGood := by (unfold State.droopTrip; grind [State.modDale_memGood, State.qualify_memGood])

theorem State.thresholdMv_memGood (s : State) (n : Nat) (hG : s.memGood) :
    (State.thresholdMv s n).2.memGood := by ((unfold State.thresholdMv; (try dsimp only); (repeat' split) <;> simp only [State.draw_memGood, hG]); done)

theorem State.droopEnd_memGood (s : State) (n lowest : Nat) (hG : s.memGood) :
    (State.droopEnd s n lowest).memGood := by (unfold State.droopEnd; grind [State.event_memGood, State.modDale_memGood, State.thresholdMv_memGood])

theorem State.calStart_memGood (s : State) (c : Nat) (hG : s.memGood) :
    (State.calStart s c).memGood := by ((unfold State.calStart; (try dsimp only); (repeat' split) <;> simp only [State.modCore_memGood, State.modDie_memGood, hG]); done)

theorem State.calStop_memGood (s : State) (c droop : Nat) (hG : s.memGood) :
    (State.calStop s c droop).memGood := by (unfold State.calStop; grind [State.modCore_memGood, State.draw_memGood, State.endCal_memGood, State.modDale_memGood])

/-! ### Part -/

theorem guarded_memGood (value state : Bool) (s : State) (hG : s.memGood) :
    ∀ t, (guarded value state s) = .ok t → t.memGood := by (unfold guarded; grind)

theorem State.partCreate_memGood (s : State) (p : Nat) (hG : s.memGood) :
    ∀ t, (State.partCreate s p) = .ok t → t.memGood := by (unfold State.partCreate; grind [State.modPart_memGood, State.powerCores_memGood, guarded_memGood])

theorem State.drawKeys_memGood (s : State) (hG : s.memGood) :
    (State.drawKeys s).2.memGood := by exact hG

theorem State.partActivate_memGood (s : State) (p : Nat) (hG : s.memGood) :
    ∀ t, (State.partActivate s p) = .ok t → t.memGood := by (unfold State.partActivate; grind [State.drawKeys_memGood, State.modPart_memGood])

theorem State.activated_memGood (s : State) (p : Nat) (hG : s.memGood) :
    (State.activated s p).memGood := by (unfold State.activated; grind [State.modPart_memGood, State.modStack_memGood, State.zeroStacks_memGood, foldl_memGood])

theorem State.partResetCmd_memGood (s : State) (p : Nat) (hG : s.memGood) :
    ∀ t, (State.partResetCmd s p) = .ok t → t.memGood := by (unfold State.partResetCmd; grind [State.partReset_memGood, guarded_memGood])

theorem State.partResetDone_memGood (s : State) (p : Nat) (failed : Option Nat) (hG : s.memGood) :
    (State.partResetDone s p failed).memGood := by (unfold State.partResetDone; grind [State.modPart_memGood, State.modStack_memGood, State.partFailed_memGood, State.unitFailed_memGood, foldl_memGood])

theorem State.partDestroy_memGood (s : State) (p : Nat) (hG : s.memGood) :
    ∀ t, (State.partDestroy s p) = .ok t → t.memGood := by (unfold State.partDestroy; grind [State.destroy_memGood, guarded_memGood])

theorem State.destroyDone_memGood (s : State) (p : Nat) (hG : s.memGood) :
    (State.destroyDone s p).memGood := by ((unfold State.destroyDone; (try dsimp only); (repeat' split) <;> simp only [State.destroyed_memGood, hG]); done)

theorem State.partCommand_memGood (s : State) (p v : Nat) (hG : s.memGood) :
    ∀ t, (State.partCommand s p v) = .ok t → t.memGood := by (unfold State.partCommand; grind [State.partActivate_memGood, State.partCreate_memGood, State.partDestroy_memGood, State.partResetCmd_memGood])

theorem State.destroyNow_memGood (s : State) (p : Nat) (hG : s.memGood) :
    (State.destroyNow s p).memGood := by ((unfold State.destroyNow; (try dsimp only); (repeat' split) <;> simp only [State.destroy_memGood, State.destroyed_memGood, hG]); done)

theorem State.ctxCreate_memGood (s : State) (g : Nat) (hG : s.memGood) :
    ∀ t, (State.ctxCreate s g) = .ok t → t.memGood := by (unfold State.ctxCreate; grind [State.dropXlat_memGood, State.initStash_memGood, State.modCtx_memGood, guarded_memGood])

theorem State.dropPairs_memGood (s : State) (g : Nat) (hG : s.memGood) :
    (State.dropPairs s g).memGood := by (unfold State.dropPairs; grind [State.modCore_memGood, foldl_memGood])

theorem State.ctxTeardown_memGood (s : State) (g : Nat) (hG : s.memGood) :
    ∀ t, (State.ctxTeardown s g) = .ok t → t.memGood := by (unfold State.ctxTeardown; grind [State.cutSpeculative_memGood, State.dropPairs_memGood, State.dropWaiting_memGood, State.dropXlat_memGood, State.modCtx_memGood, State.stopQueues_memGood])

theorem State.freeCtx_memGood (s : State) (g : Nat) (hG : s.memGood) :
    (State.freeCtx s g).memGood := by exact hG

theorem State.teardownDone_memGood (s : State) (g : Nat) (hG : s.memGood) :
    (State.teardownDone s g).memGood := by ((unfold State.teardownDone; (try dsimp only); (repeat' split) <;> simp only [State.freeCtx_memGood, hG]); done)

theorem State.invalidate_memGood (s : State) (g : Nat) (hG : s.memGood) :
    ∀ t, (State.invalidate s g) = .ok t → t.memGood := by (unfold State.invalidate; grind [State.dropXlat_memGood, guarded_memGood])

theorem State.ctxCommand_memGood (s : State) (g v : Nat) (hG : s.memGood) :
    ∀ t, (State.ctxCommand s g v) = .ok t → t.memGood := by (unfold State.ctxCommand; grind [State.ctxCreate_memGood, State.ctxTeardown_memGood, State.invalidate_memGood])

theorem State.queueWrite_memGood (s : State) (g q : Nat) (rec : Bytes) (hG : s.memGood) :
    ∀ t, (State.queueWrite s g q rec) = .ok t → t.memGood := by (unfold State.queueWrite; grind [State.modQueue_memGood, State.setCfg_memGood, guarded_memGood])

theorem State.startCache_memGood (s : State) (g : Nat) (hG : s.memGood) :
    (State.startCache s g).memGood := by ((unfold State.startCache; (try dsimp only); (repeat' split) <;> simp only [State.modKv_memGood, State.writeAll_memGood, hG]); done)

theorem State.ctxEffect_memGood (s : State) (g sub : Nat) (hG : s.memGood) :
    (State.ctxEffect s g sub).memGood := by ((unfold State.ctxEffect; (try dsimp only); (repeat' split) <;> simp only [State.dropXlat_memGood, State.initStash_memGood, State.startCache_memGood, hG]); done)

theorem State.ctxWrite_memGood (s : State) (g sub : Nat) (data : Bytes) (hG : s.memGood) :
    ∀ t, (State.ctxWrite s g sub data) = .ok t → t.memGood := by (unfold State.ctxWrite; grind [State.ctxEffect_memGood, State.setCfg_memGood])

theorem State.frameWrite_memGood (s : State) (p : Nat) (data : Bytes) (hG : s.memGood) :
    ∀ t, (State.frameWrite s p data) = .ok t → t.memGood := by (unfold State.frameWrite; grind [State.assignPart_memGood, State.modPart_memGood, State.setCfg_memGood])

theorem State.slotTableWrite_memGood (s : State) (p : Nat) (table : Bytes) (hG : s.memGood) :
    ∀ t, (State.slotTableWrite s p table) = .ok t → t.memGood := by (unfold State.slotTableWrite; grind [State.modPart_memGood, State.setCfg_memGood, guarded_memGood])

theorem State.roleMaskWrite_memGood (s : State) (d : Nat) (data : Bytes) (hG : s.memGood) :
    ∀ t, (State.roleMaskWrite s d data) = .ok t → t.memGood := by (unfold State.roleMaskWrite; grind [State.assignDie_memGood, State.setCfg_memGood, guarded_memGood])

theorem State.shapeWrite_memGood (s : State) (data : Bytes) (hG : s.memGood) :
    ∀ t, (State.shapeWrite s data) = .ok t → t.memGood := by (unfold State.shapeWrite; grind [State.dropCfg_memGood, State.setCfg_memGood, guarded_memGood])

theorem State.memWrite_memGood (s : State) (p sub : Nat) (data : Bytes) (hG : s.memGood) :
    ∀ t, (State.memWrite s p sub data) = .ok t → t.memGood := by (unfold State.memWrite; grind [State.setCfg_memGood, guarded_memGood])

theorem State.clockWrite_memGood (s : State) (d : Nat) (data : Bytes) (hG : s.memGood) :
    ∀ t, (State.clockWrite s d data) = .ok t → t.memGood := by (unfold State.clockWrite; grind [State.setCfg_memGood, guarded_memGood])

theorem State.applyMode_memGood (s : State) (p : Nat) (hG : s.memGood) :
    (State.applyMode s p).memGood := by (unfold State.applyMode; grind [State.dropPort_memGood, State.modPort_memGood, State.powerOff_memGood, State.powerOn_memGood])

theorem State.portWrite_memGood (s : State) (p sub : Nat) (data : Bytes) (hG : s.memGood) :
    ∀ t, (State.portWrite s p sub data) = .ok t → t.memGood := by (unfold State.portWrite; grind [State.applyMode_memGood, State.setCfg_memGood, guarded_memGood])

theorem State.routeWrite_memGood (s : State) (sub : Nat) (data : Bytes) (hG : s.memGood) :
    ∀ t, (State.routeWrite s sub data) = .ok t → t.memGood := by (unfold State.routeWrite; grind [State.setCfg_memGood, guarded_memGood])

theorem State.ranksChanged_memGood (s : State) (p : Nat) (hG : s.memGood) :
    (State.ranksChanged s p).memGood := by ((unfold State.ranksChanged; (try dsimp only); (repeat' split) <;> simp only [State.collRanks_memGood, State.secureRanks_memGood, hG]); done)

theorem State.rankSet_memGood (s : State) (p v : Nat) (hG : s.memGood) :
    ∀ t, (State.rankSet s p v) = .ok t → t.memGood := by (unfold State.rankSet; grind [State.ranksChanged_memGood, State.setCfg_memGood, guarded_memGood])

theorem State.rankWrite_memGood (s : State) (p sub : Nat) (data : Bytes) (hG : s.memGood) :
    ∀ t, (State.rankWrite s p sub data) = .ok t → t.memGood := by (unfold State.rankWrite; grind [State.rankSet_memGood, State.ranksChanged_memGood, State.setCfg_memGood, guarded_memGood])

theorem State.linkWrite_memGood (s : State) (sub : Nat) (data : Bytes) (hs : s.memGood) (t : State) (h : s.linkWrite sub data = .ok t) :
    t.memGood := by
  unfold State.linkWrite at h
  dsimp only at h
  refine guarded_memGood _ _ _ ?_ t h
  split <;> exact hs

theorem State.nodeIdApply_memGood (s : State) (hG : s.memGood) :
    (State.nodeIdApply s).memGood := by (unfold State.nodeIdApply; (repeat' split) <;> first | exact hG | assumption | grind | grind [State.memGood, State.memOk])

theorem State.domainEvent_memGood (s : State) (hG : s.memGood) :
    (State.domainEvent s).memGood := by ((unfold State.domainEvent; (try dsimp only); (repeat' split) <;> simp only [State.event_memGood, State.qualify_memGood, hG]); done)

theorem State.healthWrite_memGood (s : State) (sub : Nat) (data : Bytes) (hG : s.memGood) :
    ∀ t, (State.healthWrite s sub data) = .ok t → t.memGood := by (unfold State.healthWrite; grind [State.ceSweep_memGood, State.domainEvent_memGood, State.setCfg_memGood, guarded_memGood])

theorem State.budgetWrite_memGood (s : State) (sub : Nat) (data : Bytes) (hG : s.memGood) :
    ∀ t, (State.budgetWrite s sub data) = .ok t → t.memGood := by (unfold State.budgetWrite; grind [State.modPwr_memGood, State.setCfg_memGood])

/-! ### Trust -/

theorem State.setFwStatus_memGood (s : State) (v : Nat) (hG : s.memGood) :
    (State.setFwStatus s v).memGood := by ((unfold State.setFwStatus; (try dsimp only); (repeat' split) <;> simp only [State.modSec_memGood, hG]); done)

theorem State.fwApply_memGood (s : State) (hG : s.memGood) :
    (State.fwApply s).2.memGood := by ((unfold State.fwApply; (try dsimp only); (repeat' split) <;> simp only [State.modSec_memGood, State.setFwStatus_memGood, hG]); done)

theorem State.endSessions_memGood (s : State) (p : Session → Bool) (hG : s.memGood) :
    (State.endSessions s p).memGood := by exact hG

theorem State.setAnchor_memGood (s : State) (index sub : Nat) (who : Who) (data : Bytes) (hG : s.memGood) :
    (State.setAnchor s index sub who data).memGood := by (unfold State.setAnchor; grind [State.endSessions_memGood, State.remeasure_memGood, State.setCfg_memGood])

theorem State.destroyAll_memGood (s : State) (hG : s.memGood) :
    (State.destroyAll s).memGood := by (unfold State.destroyAll; grind [State.destroyNow_memGood, foldl_memGood])

theorem State.keptDefaults_memGood (s : State) (hG : s.memGood) : s.keptDefaults.memGood := by
  have key : ∀ t : State, t.memGood → (((List.range 32).filter fun p => s.portMode p != 1).foldl (·.applyMode ·) (t.dropCfg keyKept)).memGood :=
    fun t ht => foldl_memGood (fun s p => s.applyMode p) (fun s p h => State.applyMode_memGood s p h) _ _ (State.dropCfg_memGood _ keyKept ht)
  unfold State.keptDefaults
  dsimp only
  split
  · next t e =>
    have h := key t (State.shapeWrite_memGood s [3] hG t e)
    split
    · exact h
    · exact h
  · have h := key s hG
    split
    · exact h
    · exact h

theorem State.releaseModule_memGood (s : State) (hG : s.memGood) : s.releaseModule.memGood :=
  State.remeasure_memGood _ (State.endSessions_memGood _ _ (State.keptDefaults_memGood _ (State.destroyAll_memGood s hG)))

theorem State.ownerAnchor_memGood (s : State) (session : BitVec 32) (who : Who) (data : Bytes) (hG : s.memGood) :
    (State.ownerAnchor s session who data).memGood := by ((unfold State.ownerAnchor; (try dsimp only); (repeat' split) <;> simp only [State.modSec_memGood, State.releaseModule_memGood, State.setAnchor_memGood, hG]); done)

theorem State.readNonce_memGood (s : State) (session : BitVec 32) (hG : s.memGood) :
    (State.readNonce s session).2.memGood := by ((unfold State.readNonce; (try dsimp only); (repeat' split) <;> simp only [State.draw_memGood, State.modSec_memGood, hG]); done)

theorem State.debugToken_memGood (s : State) (session : BitVec 32) (token : Bytes) (hG : s.memGood) :
    ∀ t, (State.debugToken s session token) = .ok t → t.memGood := by (unfold State.debugToken; grind [State.destroyAll_memGood, State.dropPort_memGood, State.modSec_memGood, foldl_memGood])

theorem State.spdmOn_memGood (s : State) (c : Conn) (f : State → State) (hf : ∀ a0, a0.memGood → (f a0).memGood) (hG : s.memGood) :
    (State.spdmOn s c f).memGood := by (unfold State.spdmOn; grind)

theorem State.spdmAgreed_memGood (s : State) (c : Conn) (f : State → State) (hf : ∀ a0, a0.memGood → (f a0).memGood) (hG : s.memGood) :
    (State.spdmAgreed s c f).memGood := by (unfold State.spdmAgreed; grind [State.spdmOn_memGood, State.spdmSend_memGood])

theorem State.getVersion_memGood (s : State) (c : Conn) (hG : s.memGood) :
    (State.getVersion s c).memGood := by (unfold State.getVersion; grind [State.modSec_memGood, State.spdmOn_memGood, State.spdmSend_memGood])

theorem State.negotiate_memGood (s : State) (c : Conn) (offered : List Nat) (hG : s.memGood) :
    (State.negotiate s c offered).memGood := by (unfold State.negotiate; grind [State.modSec_memGood, State.spdmOn_memGood, State.spdmSend_memGood])

theorem State.getDigests_memGood (s : State) (c : Conn) (hG : s.memGood) :
    (State.getDigests s c).memGood := by (unfold State.getDigests; grind [State.spdmAgreed_memGood, State.spdmSend_memGood])

theorem State.getCertificate_memGood (s : State) (c : Conn) (offset length : Nat) (hG : s.memGood) :
    (State.getCertificate s c offset length).memGood := by (unfold State.getCertificate; grind [State.spdmAgreed_memGood, State.spdmSend_memGood])

theorem State.challenge_memGood (s : State) (c : Conn) (nonce : BitVec 256) (hG : s.memGood) :
    (State.challenge s c nonce).memGood := by (unfold State.challenge; grind [State.spdmAgreed_memGood, State.spdmSend_memGood])

theorem State.getMeasurements_memGood (s : State) (c : Conn) (index : Nat) (nonce : BitVec 256) (hG : s.memGood) :
    (State.getMeasurements s c index nonce).memGood := by (unfold State.getMeasurements; grind [State.spdmAgreed_memGood, State.spdmSend_memGood])

theorem State.keyExchange_memGood (s : State) (c : Conn) (session : BitVec 32) (key txKey : BitVec 256) (hG : s.memGood) :
    (State.keyExchange s c session key txKey).memGood := by (unfold State.keyExchange; grind [State.modSec_memGood, State.spdmAgreed_memGood, State.spdmSend_memGood])

theorem State.modSession_memGood (s : State) (c : Conn) (id : BitVec 32) (f : Session → Session) (hG : s.memGood) :
    (State.modSession s c id f).memGood := by ((unfold State.modSession; (try dsimp only); (repeat' split) <;> simp only [State.modSec_memGood, hG]); done)

theorem State.spdmIn_memGood (s : State) (c : Conn) (id : BitVec 32) (f : State → State) (hf : ∀ a0, a0.memGood → (f a0).memGood) (hG : s.memGood) :
    (State.spdmIn s c id f).memGood := by (unfold State.spdmIn; grind [State.spdmOn_memGood, State.spdmSend_memGood])

theorem State.encapsulated_memGood (s : State) (c : Conn) (id : BitVec 32) (chain : CertChain) (hG : s.memGood) :
    (State.encapsulated s c id chain).memGood := by (unfold State.encapsulated; grind [State.modSession_memGood, State.spdmOn_memGood, State.spdmSend_memGood])

theorem State.opened_memGood (s : State) (c : Conn) (id : BitVec 32) (x : Session) (hG : s.memGood) :
    (State.opened s c id x).memGood := by (unfold State.opened; grind [State.installKeys_memGood, State.modSession_memGood, State.spdmSend_memGood])

theorem State.spdmFinish_memGood (s : State) (c : Conn) (id : BitVec 32) (signature : Bytes) (hG : s.memGood) :
    (State.spdmFinish s c id signature).memGood := by (unfold State.spdmFinish; grind [State.dropPort_memGood, State.endSessions_memGood, State.opened_memGood, State.spdmOn_memGood, State.spdmSend_memGood])

theorem State.keyUpdate_memGood (s : State) (c : Conn) (id : BitVec 32) (key txKey : BitVec 256) (hG : s.memGood) :
    (State.keyUpdate s c id key txKey).memGood := by (unfold State.keyUpdate; grind [State.modPort_memGood, State.modSession_memGood, State.spdmIn_memGood, State.spdmSend_memGood])

theorem State.spdmHeartbeat_memGood (s : State) (c : Conn) (id : BitVec 32) (hG : s.memGood) :
    (State.spdmHeartbeat s c id).memGood := by (unfold State.spdmHeartbeat; grind [State.modSession_memGood, State.spdmIn_memGood, State.spdmSend_memGood])

theorem State.endSession_memGood (s : State) (c : Conn) (id : BitVec 32) (hG : s.memGood) :
    (State.endSession s c id).memGood := by (unfold State.endSession; grind [State.endSessions_memGood, State.spdmIn_memGood, State.spdmSend_memGood])

theorem State.sessionTimeout_memGood (s : State) (id : BitVec 32) (hG : s.memGood) :
    (State.sessionTimeout s id).memGood := by ((unfold State.sessionTimeout; (try dsimp only); (repeat' split) <;> simp only [State.endSessions_memGood, hG]); done)

/-! ### Apply -/

theorem State.readValue_memGood (s : State) (session : BitVec 32) (t : Target) (index sub : Nat) (hG : s.memGood) :
    (State.readValue s session t index sub).2.memGood := by ((unfold State.readValue; (try dsimp only); (repeat' split) <;> simp only [State.readNonce_memGood, hG]); done)

theorem State.internalEvent_memGood (s : State) (hG : s.memGood) :
    (State.internalEvent s).memGood := by ((unfold State.internalEvent; (try dsimp only); (repeat' split) <;> simp only [State.event_memGood, hG]); done)

theorem State.nonceIn_memGood (s : State) (session : BitVec 32) (hG : s.memGood) :
    (State.nonceIn s session).memGood := by (unfold State.nonceIn; (try dsimp only); (repeat' split) <;> first | exact hG | (apply State.modSession_memGood <;> exact hG) | (apply State.readNonce_memGood <;> exact hG) | grind [State.modSession_memGood, State.readNonce_memGood])

/-! ### Dict -/

theorem State.respond_memGood (s : State) (r : MdReq) (resp : Bytes) (hG : s.memGood) :
    (State.respond s r resp).memGood := by (unfold State.respond; (try dsimp only); (repeat' split) <;> first | exact hG | (apply State.modHif_memGood <;> exact hG) | (apply State.raiseVec_memGood <;> exact hG) | (apply State.sendMgmt_memGood <;> exact hG) | grind [State.modHif_memGood, State.raiseVec_memGood, State.sendMgmt_memGood])

theorem State.setChan_memGood (s : State) (c : Chan) (hG : s.memGood) :
    (State.setChan s c).memGood := by (unfold State.setChan; (repeat' split) <;> first | exact hG | assumption | grind | grind [State.memGood, State.memOk])

theorem State.refuse_memGood (s : State) (r : MdReq) (o : Opened) (f : Frame) (abort : Nat) (hG : s.memGood) :
    (State.refuse s r o f abort).memGood := by (unfold State.refuse; (try dsimp only); (repeat' split) <;> first | exact hG | (apply State.respond_memGood <;> exact hG) | grind [State.respond_memGood])

theorem State.refuseAuth_memGood (s : State) (r : MdReq) (hG : s.memGood) :
    (State.refuseAuth s r).memGood := by ((unfold State.refuseAuth; (try dsimp only); (repeat' split) <;> simp only [State.refuse_memGood, hG]); done)

theorem State.seen_memGood (s : State) (src : Source) (o : Opened) (accept : Bool) (hG : s.memGood) :
    (State.seen s src o accept).memGood := by ((unfold State.seen; (try dsimp only); (repeat' split) <;> simp only [State.modSession_memGood, hG]); done)

theorem State.mdArrive_memGood (s : State) (r : MdReq) (hG : s.memGood) :
    (State.mdArrive s r).memGood := by ((unfold State.mdArrive; (try dsimp only); (repeat' split) <;> simp only [State.modFab_memGood, State.refuse_memGood, hG]); done)

theorem State.mgmtIn_memGood (s : State) (k : Packet) (hG : s.memGood) :
    (State.mgmtIn s k).memGood := by ((unfold State.mgmtIn; (try dsimp only); (repeat' split) <;> simp only [State.mctpArrive_memGood, State.mdArrive_memGood, State.takeHanded_memGood, hG]); done)

theorem State.routeIn_memGood (s : State) (k : Packet) (hG : s.memGood) :
    (State.routeIn s k).memGood := by ((unfold State.routeIn; (try dsimp only); (repeat' split) <;> simp only [State.mdArrive_memGood, State.takeHanded_memGood, hG]); done)

theorem State.stagedTimeout_memGood (s : State) (src : Source) (sid : BitVec 32) (hG : s.memGood) :
    (State.stagedTimeout s src sid).memGood := by exact hG

/-! ### The commands that reach the dictionary -/

theorem State.commitSvn_memGood (s : State) (hG : s.memGood) : s.commitSvn.2.memGood := by
  unfold State.commitSvn
  dsimp only
  split
  · exact hG
  · exact hG

theorem State.answer_memGood (s : State) (m : WriteM) (hG : s.memGood) (h : ∀ t, m = .ok t → t.memGood) : (s.answer m).2.memGood := by
  unfold State.answer
  split
  · exact h _ rfl
  · dsimp only; split
    · exact hG
    · exact hG

theorem State.securityWrite_memGood (s : State) (who : Who) (session : BitVec 32) (sub : Nat) (data : Bytes) (hG : s.memGood) :
    (s.securityWrite who session sub data).2.memGood := by
  unfold State.securityWrite
  split
  · exact s.ownerAnchor_memGood session who data hG
  · exact s.answer_memGood _ hG (s.debugToken_memGood session data hG)
  · exact hG
  · split
    · exact s.fwApply_memGood hG
    · exact s.commitSvn_memGood hG
  · exact s.setAnchor_memGood _ _ _ data hG

theorem State.applyWrite_memGood (s : State) (who : Who) (session : BitVec 32) (t : Target) (index sub : Nat) (data : Bytes) (hG : s.memGood) :
    (s.applyWrite who session t index sub data).2.memGood := by
  unfold State.applyWrite
  dsimp only
  split
  all_goals first
    | exact hG
    | exact s.securityWrite_memGood who session sub data hG
    | exact s.setAnchor_memGood _ _ _ data hG
    | exact s.setCfg_memGood _ _ data hG
    | (refine s.answer_memGood _ hG ?_
       first
       | exact s.linkWrite_memGood _ _ hG
       | exact s.budgetWrite_memGood _ _ hG
       | exact s.roleMaskWrite_memGood _ _ hG
       | exact s.clockWrite_memGood _ _ hG
       | exact s.shapeWrite_memGood _ hG
       | exact s.partCommand_memGood _ _ hG
       | exact s.queueWrite_memGood _ _ _ hG
       | exact s.memWrite_memGood _ _ _ hG
       | exact s.portWrite_memGood _ _ _ hG
       | exact s.routeWrite_memGood _ _ hG
       | exact s.rankWrite_memGood _ _ _ hG
       | exact s.healthWrite_memGood _ _ hG
       | (split
          · first | exact s.frameWrite_memGood _ _ hG | exact s.ctxCommand_memGood _ _ hG
          · first | exact s.slotTableWrite_memGood _ _ hG | exact s.ctxWrite_memGood _ _ _ hG))

theorem State.writeEntry_memGood (s : State) (who : Who) (session : BitVec 32) (fm : Bool) (index sub : Nat) (data : Bytes) (hG : s.memGood) :
    (s.writeEntry who session fm index sub data).2.memGood := by
  unfold State.writeEntry
  split
  · exact hG
  · split
    · exact hG
    · dsimp only; split
      · exact hG
      · exact s.applyWrite_memGood who session _ index sub data hG

theorem State.latch_memGood (r : Nat × State) (hG : r.2.memGood) : (State.latch r).memGood := hG

theorem State.writeBy_memGood (s : State) (who : Who) (index sub : Nat) (data : Bytes) (hG : s.memGood) : (s.writeBy who index sub data).memGood := by
  unfold State.writeBy
  split
  · exact State.latch_memGood _ (s.writeEntry_memGood who 0 false index sub data hG)
  · exact hG

theorem State.writeIn_memGood (s : State) (session : BitVec 32) (index sub : Nat) (data : Bytes) (hG : s.memGood) :
    (s.writeIn session index sub data).memGood := by
  unfold State.writeIn
  split
  · exact hG
  · split
    · exact hG
    · exact State.latch_memGood _ (State.writeEntry_memGood _ _ _ _ _ _ _ (State.modSession_memGood s _ _ _ hG))

theorem State.moduleResetRow_memGood (s : State) (who : Who) (hG : s.memGood) : (s.moduleResetRow who).memGood := by
  unfold State.moduleResetRow
  dsimp only
  split
  · exact State.resetNow_memGood _ (State.modPwr_memGood _ _ (s.writeBy_memGood who 0x2000 2 [0x5A] hG))
  · exact s.writeBy_memGood who 0x2000 2 [0x5A] hG

/-! ### Dictionary requests -/

theorem State.perform_memGood (s : State) (r : MdReq) (o : Opened) (c : Chan) (f : Frame) (hG : s.memGood) : (s.perform r o c f).state.memGood := by
  have hr : (s.doRead o c f).state.memGood := by
    unfold State.doRead
    split
    · exact hG
    · unfold State.readData
      split
      · exact hG
      · split
        · exact hG
        · have h := fun t => s.readValue_memGood o.sid t f.index f.sub hG
          dsimp only
          repeat' split
          all_goals first | exact h _ | exact hG
  unfold State.perform
  split
  · exact hG
  · split
    · exact hG
    · split
      · exact hr
      · split
        · exact s.writeEntry_memGood _ _ _ _ _ _ hG
        · split
          · unfold State.doBegin; repeat' split
            all_goals exact hG
          · split
            · unfold State.doPart; repeat' split
              all_goals exact hG
            · unfold State.doEnd
              split
              · exact hG
              · dsimp only; split
                · exact s.writeEntry_memGood _ _ _ _ _ _ hG
                · exact hG

theorem reply_memGood (r : MdReq) (o : Opened) (f : Frame) (d : Done) (hG : d.state.memGood) : (reply r o f d).memGood :=
  State.respond_memGood _ _ _ (State.setChan_memGood _ _ hG)

theorem State.refuse_memGood' (s : State) (r : MdReq) (o : Opened) (f : Frame) (a : Nat) (hG : s.memGood) : (s.refuse r o f a).memGood :=
  State.respond_memGood _ _ _ hG

theorem State.serve_memGood (s : State) (r : MdReq) (o : Opened) (f : Frame) (hG : s.memGood) : (s.serve r o f).memGood := by
  have hs : ∀ a, (s.seen r.src o a).memGood := fun a => s.seen_memGood r.src o a hG
  unfold State.serve
  dsimp only
  split
  · exact State.refuse_memGood' _ _ _ _ _ (hs _)
  · split
    · exact reply_memGood _ _ _ _ (hs _)
    · exact reply_memGood _ _ _ _ (State.perform_memGood _ _ _ _ _ (hs true))

theorem State.take_memGood (s t : State) (r : MdReq) (op : Nat) (hG : s.memGood) (ht : t.memGood) : (s.take t r op).memGood := by
  unfold State.take
  split
  · split
    · exact State.mctpArrive_memGood _ _ _ ht
    · exact hG
  · split
    · split
      · exact State.refuse_memGood' _ _ _ _ _ ht
      · exact hG
    · dsimp only
      split
      · exact hG
      · split
        · exact State.respond_memGood _ _ _ (t.seen_memGood r.src _ _ ht)
        · exact t.serve_memGood r _ _ ht

theorem State.arrive_memGood (s : State) (src : Source) (w : Bytes) (t : State) (m : Option MdReq) (h : s.arrive src w = some (t, m))
    (hG : s.memGood) : t.memGood := by
  unfold State.arrive at h
  split at h
  · dsimp only at h; split at h
    · cases h; exact hG
    · cases h
  · split at h
    · cases h
    · split at h
      · cases h; exact hG
      · cases h; exact hG
  · split at h
    · split at h
      · cases h; exact hG
      · cases h
    · cases h

theorem State.dictRow_memGood (s : State) (op : Nat) (src : Source) (w : Bytes) (hG : s.memGood) : (s.dictRow op src w).memGood := by
  unfold State.dictRow
  split
  · exact hG
  · split
    · exact hG
    · rename_i e; exact s.arrive_memGood src w _ _ e hG
    · rename_i e; exact s.take_memGood _ _ op hG (s.arrive_memGood src w _ _ e hG)


end Sys2Proof.Machine
end

