-- ==== Sys2Proof/Laws/Fixed.lean ====
section
/-! SUPPORT. Sys2Proof/Laws/Fixed.lean: what every operation leaves alone: the queue, the ordering code and the fused security version number. -/
set_option linter.all false
namespace Sys2Proof.Machine

/-- The queue, the ordering code and the fused security version number. -/
def State.fixed (s : State) : List Instr × Variant × Nat := (s.pending, s.variant, s.sec.svn)

theorem foldl_fixed {α : Type} (f : State → α → State) (h : ∀ s a, (f s a).fixed = s.fixed) (l : List α) (s : State) :
    (l.foldl f s).fixed = s.fixed := by
  induction l generalizing s with
  | nil => rfl
  | cons a l ih => exact (ih _).trans (h s a)
theorem foldl1_fixed {α β : Type} (f : State × β → α → State × β) (h : ∀ s a, (f s a).1.fixed = s.1.fixed) (l : List α)
    (s : State × β) : (l.foldl f s).1.fixed = s.1.fixed := by
  induction l generalizing s with
  | nil => rfl
  | cons a l ih => exact (ih _).trans (h s a)

/-! ### Access -/

theorem State.modCtx_fixed (s : State) (g : Nat) (f : Ctx → Ctx) :
    (State.modCtx s g f).fixed = s.fixed := by rfl

theorem State.setQueue_fixed (s : State) (g q : Nat) (u : Queue) :
    (State.setQueue s g q u).fixed = s.fixed := by ((unfold State.setQueue; (try dsimp only); (repeat' split) <;> simp only [State.modCtx_fixed]); done)

theorem State.modQueue_fixed (s : State) (g q : Nat) (f : Queue → Queue) :
    (State.modQueue s g q f).fixed = s.fixed := by ((unfold State.modQueue; (try dsimp only); (repeat' split) <;> simp only [State.setQueue_fixed]); done)

theorem State.modRun_fixed (s : State) (g q seq : Nat) (f : Run → Run) :
    (State.modRun s g q seq f).fixed = s.fixed := by ((unfold State.modRun; (try dsimp only); (repeat' split) <;> simp only [State.modQueue_fixed]); done)

theorem State.setCounter_fixed (s : State) (g n : Nat) (v : BitVec 32) :
    (State.setCounter s g n v).fixed = s.fixed := by ((unfold State.setCounter; (try dsimp only); (repeat' split) <;> simp only [State.modCtx_fixed]); done)

theorem State.modPart_fixed (s : State) (p : Nat) (f : Part → Part) :
    (State.modPart s p f).fixed = s.fixed := by rfl

theorem State.modCore_fixed (s : State) (c : Nat) (f : Core → Core) :
    (State.modCore s c f).fixed = s.fixed := by rfl

theorem State.modDie_fixed (s : State) (d : Nat) (f : Die → Die) :
    (State.modDie s d f).fixed = s.fixed := by rfl

theorem State.modStack_fixed (s : State) (k : Nat) (f : Stack → Stack) :
    (State.modStack s k f).fixed = s.fixed := by rfl

theorem State.modLink_fixed (s : State) (n : Nat) (f : D2d → D2d) :
    (State.modLink s n f).fixed = s.fixed := by rfl

theorem State.modPwr_fixed (s : State) (f : Power → Power) :
    (State.modPwr s f).fixed = s.fixed := by rfl

theorem State.modDomain_fixed (s : State) (n : Nat) (f : Domain → Domain) :
    (State.modDomain s n f).fixed = s.fixed := by ((unfold State.modDomain; (try dsimp only); (repeat' split) <;> simp only [State.modPwr_fixed]); done)

theorem State.modDale_fixed (s : State) (n : Nat) (f : Dale → Dale) :
    (State.modDale s n f).fixed = s.fixed := by ((unfold State.modDale; (try dsimp only); (repeat' split) <;> simp only [State.modPwr_fixed]); done)

theorem State.modHif_fixed (s : State) (h : Nat) (f : HostIf → HostIf) :
    (State.modHif s h f).fixed = s.fixed := by (unfold State.modHif; (repeat' split) <;> first | rfl | grind | grind [State.fixed])

theorem State.modPort_fixed (s : State) (p : Nat) (f : Port → Port) :
    (State.modPort s p f).fixed = s.fixed := by rfl

theorem State.modFab_fixed (s : State) (f : Fabric → Fabric) :
    (State.modFab s f).fixed = s.fixed := by rfl

theorem State.modSec_fixed (s : State) (f : Security → Security) (h : (f s.sec).svn = s.sec.svn) : (s.modSec f).fixed = s.fixed := by
  simp [State.fixed, State.modSec, h]

theorem State.setCfg_fixed (s : State) (index sub : Nat) (v : Bytes) :
    (State.setCfg s index sub v).fixed = s.fixed := by rfl

theorem State.setCfgNat_fixed (s : State) (index sub n v : Nat) :
    (State.setCfgNat s index sub n v).fixed = s.fixed := by ((unfold State.setCfgNat; (try dsimp only); (repeat' split) <;> simp only [State.setCfg_fixed]); done)

theorem State.dropCfg_fixed (s : State) (p : Nat → Bool) :
    (State.dropCfg s p).fixed = s.fixed := by rfl

theorem State.draw_fixed (s : State) :
    (State.draw s).2.fixed = s.fixed := by rfl

/-! ### Memory -/

theorem State.hbmWrite_fixed (s : State) (p a : Nat) (bs : Bytes) : (s.hbmWrite p a bs).fixed = s.fixed := rfl

theorem State.hostWrite_fixed (s : State) (h a : Nat) (bs : Bytes) :
    (State.hostWrite s h a bs).fixed = s.fixed := by (unfold State.hostWrite; (repeat' split) <;> first | rfl | grind | grind [State.fixed])

theorem sameButMem_fixed {s t : State} (h : s.sameButMem t) : t.fixed = s.fixed := by
  obtain ⟨_, _, _, _, _, rfl⟩ := h; rfl
theorem State.writeSeg_fixed (s : State) (g va : Nat) (bs : Bytes) (t : State) (h : s.writeSeg g va bs = .ok t) : t.fixed = s.fixed :=
  sameButMem_fixed (s.writeSeg_same t g va bs h)

theorem State.writeSegs_fixed (s : State) (g : Nat) (l : List (Nat × Nat)) (bs : Bytes) : (s.writeSegs g l bs).1.fixed = s.fixed :=
  sameButMem_fixed (State.writeSegs_same g l s bs)

theorem State.writeVa_fixed (s : State) (g va : Nat) (bs : Bytes) : (s.writeVa g va bs).1.fixed = s.fixed :=
  sameButMem_fixed (s.writeVa_same g va bs)

theorem State.writeAll_fixed (s : State) (g : Nat) (ws : List (Nat × Bytes)) : (s.writeAll g ws).1.fixed = s.fixed :=
  sameButMem_fixed (State.writeAll_same g ws s)

/-! ### Ops -/

theorem State.tick_fixed (s : State) :
    (State.tick s).fixed = s.fixed := by ((unfold State.tick; (try dsimp only); (repeat' split) <;> simp only [State.modPwr_fixed]); done)

theorem State.event_fixed (s : State) (cls pt p : Nat) (detail : Bytes) :
    (State.event s cls pt p detail).fixed = s.fixed := by rfl

theorem State.secureRequest_fixed (s : State) (cause : Nat) :
    (State.secureRequest s cause).fixed = s.fixed := by (unfold State.secureRequest; (repeat' split) <;> first | rfl | grind [State.event_fixed] | grind [State.event_fixed, State.fixed])

theorem State.qualify_fixed (s : State) : s.qualify.fixed = s.fixed := by
  unfold State.qualify; dsimp only; split <;> rfl

theorem State.raiseVec_fixed (s : State) (h v : Nat) :
    (State.raiseVec s h v).fixed = s.fixed := by ((unfold State.raiseVec; (try dsimp only); (repeat' split) <;> simp only [State.modHif_fixed]); done)

theorem State.raiseFor_fixed (s : State) (p h v : Nat) :
    (State.raiseFor s p h v).fixed = s.fixed := by ((unfold State.raiseFor; (try dsimp only); (repeat' split) <;> simp only [State.raiseVec_fixed]); done)

theorem State.freeCore_fixed (s : State) (c : Nat) :
    (State.freeCore s c).fixed = s.fixed := by ((unfold State.freeCore; (try dsimp only); (repeat' split) <;> simp only [State.modCore_fixed, State.modDie_fixed]); done)

theorem State.resetDale_fixed (s : State) (n : Nat) :
    (State.resetDale s n).fixed = s.fixed := by ((unfold State.resetDale; (try dsimp only); (repeat' split) <;> simp only [State.modPwr_fixed]); done)

theorem State.finish_fixed (s : State) (g q seq status : Nat) :
    (State.finish s g q seq status).fixed = s.fixed := by ((unfold State.finish; (try dsimp only); (repeat' split) <;> simp only [State.modQueue_fixed]); done)

theorem State.chargeBusy_fixed (s : State) (g ns : Nat) :
    (State.chargeBusy s g ns).fixed = s.fixed := by ((unfold State.chargeBusy; (try dsimp only); (repeat' split) <;> simp only [State.modCtx_fixed]); done)

theorem State.returnTile_fixed (s : State) (t : TileRun) :
    (State.returnTile s t).fixed = s.fixed := by ((unfold State.returnTile; (try dsimp only); (repeat' split) <;> simp only [State.modCtx_fixed, State.modRun_fixed]); done)

theorem State.dropWaiting_fixed (s : State) (g : Nat) :
    (State.dropWaiting s g).fixed = s.fixed := by (unfold State.dropWaiting; grind [State.freeCore_fixed, State.returnTile_fixed, foldl_fixed])

theorem State.stopQueues_fixed (s : State) (g : Nat) :
    (State.stopQueues s g).fixed = s.fixed := by (unfold State.stopQueues; grind [State.modQueue_fixed, foldl_fixed])

theorem State.corruptEvent_fixed (s : State) (g tile : Nat) :
    (State.corruptEvent s g tile).fixed = s.fixed := by ((unfold State.corruptEvent; (try dsimp only); (repeat' split) <;> simp only [State.event_fixed]); done)

theorem State.faultCtx_fixed (s : State) (g q seq status tile : Nat) :
    (State.faultCtx s g q seq status tile).fixed = s.fixed := by ((unfold State.faultCtx; (try dsimp only); (repeat' split) <;> simp only [State.chargeBusy_fixed, State.corruptEvent_fixed, State.dropWaiting_fixed, State.modCtx_fixed, State.stopQueues_fixed]); done)

theorem State.jobFault_fixed (s : State) (g q seq status tile : Nat) :
    (State.jobFault s g q seq status tile).fixed = s.fixed := by (unfold State.jobFault; grind [State.chargeBusy_fixed, State.faultCtx_fixed, State.finish_fixed])

theorem State.conclude_fixed (s : State) (g q seq status tile : Nat) :
    (State.conclude s g q seq status tile).fixed = s.fixed := by ((unfold State.conclude; (try dsimp only); (repeat' split) <;> simp only [State.finish_fixed, State.jobFault_fixed]); done)

theorem State.signal_fixed (s : State) (g op n i : Nat) :
    (State.signal s g op n i).fixed = s.fixed := by ((unfold State.signal; (try dsimp only); (repeat' split) <;> simp only [State.setCounter_fixed]); done)

theorem State.dropXlat_fixed (s : State) (g : Nat) :
    (State.dropXlat s g).fixed = s.fixed := by rfl

/-! ### Cache -/

theorem State.fillLine_fixed (s : State) (p dpa : Nat) :
    (State.fillLine s p dpa).fixed = s.fixed := by ((unfold State.fillLine; (try dsimp only); (repeat' split) <;> simp only [State.modDie_fixed]); done)

theorem State.readLine_fixed (s : State) (g va : Nat) :
    (State.readLine s g va).fixed = s.fixed := rfl

theorem State.keepXlat_fixed (s : State) (g va : Nat) :
    (State.keepXlat s g va).fixed = s.fixed := by ((unfold State.keepXlat; (try dsimp only); (repeat' split) <;> simp only [State.modCtx_fixed]); done)

theorem State.forgetXlat_fixed (s : State) (g : Nat) :
    (State.forgetXlat s g).fixed = s.fixed := by ((unfold State.forgetXlat; (try dsimp only); (repeat' split) <;> simp only [State.draw_fixed, State.modCtx_fixed]); done)

theorem State.demandReads_fixed (s : State) (d g : Nat) (reads : List (Nat × Nat)) :
    (State.demandReads s d g reads).fixed = s.fixed := by (unfold State.demandReads; grind [State.modDie_fixed, State.readLine_fixed, foldl_fixed])

theorem State.keepRange_fixed (s : State) (g : Nat) (r : Nat × Nat) :
    (State.keepRange s g r).fixed = s.fixed := by (unfold State.keepRange; grind [State.keepXlat_fixed, foldl_fixed])

theorem State.accessed_fixed (s : State) (d g : Nat) (reads writes : List (Nat × Nat)) :
    (State.accessed s d g reads writes).fixed = s.fixed := by (unfold State.accessed; grind [State.demandReads_fixed, State.forgetXlat_fixed, State.keepRange_fixed, foldl_fixed])

/-! ### Doorbell -/

theorem State.rejectDoorbell_fixed (s : State) (g q cause v : Nat) :
    (State.rejectDoorbell s g q cause v).fixed = s.fixed := by ((unfold State.rejectDoorbell; (try dsimp only); (repeat' split) <;> simp only [State.event_fixed, State.modQueue_fixed]); done)

theorem State.acceptTail_fixed (s : State) (g q v : Nat) :
    (State.acceptTail s g q v).fixed = s.fixed := by ((unfold State.acceptTail; (try dsimp only); (repeat' split) <;> simp only [State.modQueue_fixed, State.rejectDoorbell_fixed]); done)

theorem State.sqTail_fixed (s : State) (h g q : Nat) (v : BitVec 32) :
    (State.sqTail s h g q v).fixed = s.fixed := by ((unfold State.sqTail; (try dsimp only); (repeat' split) <;> simp only [State.acceptTail_fixed]); done)

theorem State.acceptHead_fixed (s : State) (g q v : Nat) :
    (State.acceptHead s g q v).fixed = s.fixed := by ((unfold State.acceptHead; (try dsimp only); (repeat' split) <;> simp only [State.modQueue_fixed, State.rejectDoorbell_fixed]); done)

theorem State.cqHead_fixed (s : State) (h g q : Nat) (v : BitVec 32) :
    (State.cqHead s h g q v).fixed = s.fixed := by ((unfold State.cqHead; (try dsimp only); (repeat' split) <;> simp only [State.acceptHead_fixed]); done)

theorem State.acceptSignal_fixed (s : State) (g v : Nat) :
    (State.acceptSignal s g v).fixed = s.fixed := by ((unfold State.acceptSignal; (try dsimp only); (repeat' split) <;> simp only [State.modCtx_fixed, State.signal_fixed]); done)

theorem State.hostSignal_fixed (s : State) (h g : Nat) (v : BitVec 32) :
    (State.hostSignal s h g v).fixed = s.fixed := by ((unfold State.hostSignal; (try dsimp only); (repeat' split) <;> simp only [State.acceptSignal_fixed]); done)

/-! ### Operands -/

theorem State.coreLeft_fixed (s old : State) (c g : Nat) (w : Work) :
    (State.coreLeft s old c g w).fixed = s.fixed := by ((unfold State.coreLeft; (try dsimp only); (repeat' split) <;> simp only [State.modCore_fixed]); done)

theorem State.leftIn_fixed (s old : State) (g q seq t : Nat) (w : Work) :
    (State.leftIn s old g q seq t w).fixed = s.fixed := by ((unfold State.leftIn; (try dsimp only); (repeat' split) <;> simp only [State.coreLeft_fixed]); done)

theorem State.markTile_fixed (s : State) (g q seq t : Nat) (ts : List Tally) :
    (State.markTile s g q seq t ts).fixed = s.fixed := by ((unfold State.markTile; (try dsimp only); (repeat' split) <;> simp only [State.modRun_fixed]); done)

theorem State.failTile_fixed (s : State) (g q seq t status tile : Nat) :
    (State.failTile s g q seq t status tile).fixed = s.fixed := by ((unfold State.failTile; (try dsimp only); (repeat' split) <;> simp only [State.jobFault_fixed, State.markTile_fixed]); done)

theorem State.carry_fixed (s : State) (g q seq t : Nat) (w : Work) :
    (State.carry s g q seq t w).fixed = s.fixed := by (unfold State.carry; grind [State.accessed_fixed, State.failTile_fixed, State.leftIn_fixed, State.markTile_fixed, State.writeAll_fixed])

theorem State.dataRow_fixed (s : State) (g q seq : Nat) (kind : Run → Bool) (work : Run → Nat → Work) :
    (State.dataRow s g q seq kind work).fixed = s.fixed := by ((unfold State.dataRow; (try dsimp only); (repeat' split) <;> simp only [State.carry_fixed]); done)

theorem State.engineServed_fixed (s : State) (e g : Nat) :
    (State.engineServed s e g).fixed = s.fixed := by ((unfold State.engineServed; (try dsimp only); (repeat' split) <;> simp only [State.modPart_fixed]); done)

theorem State.ranWith_fixed (s : State) (g q seq status : Nat) :
    (State.ranWith s g q seq status).fixed = s.fixed := by ((unfold State.ranWith; (try dsimp only); (repeat' split) <;> simp only [State.modRun_fixed]); done)

/-! ### Norm -/

theorem State.normRow_fixed (s : State) (g q seq op : Nat) :
    (State.normRow s g q seq op).fixed = s.fixed := by ((unfold State.normRow; (try dsimp only); (repeat' split) <;> simp only [State.dataRow_fixed]); done)

/-! ### Move -/

theorem State.putDeltas_fixed (s : State) (g va n : Nat) (ds : List (Nat × BitVec 32)) :
    (State.putDeltas s g va n ds).fixed = s.fixed := by (unfold State.putDeltas; (repeat' split) <;> first | rfl | grind [foldl_fixed] | grind [foldl_fixed, State.fixed])

theorem State.putDeltas_fixed' (s : State) (g va n : Nat) (ds : List (Nat × BitVec 32)) : (s.putDeltas g va n ds).fixed = s.fixed := by
  unfold State.putDeltas; apply foldl_fixed; intro s a; split <;> rfl
theorem State.moveSegs_fixed (s : State) (g : Nat) (ds : List (Nat × BitVec 32)) (l : List (Nat × Nat)) (bs : Bytes) :
    (s.moveSegs g ds l bs).1.fixed = s.fixed := by
  induction l generalizing s bs with
  | nil => rfl
  | cons e rest ih =>
    obtain ⟨va, n⟩ := e
    unfold State.moveSegs
    grind [State.writeSeg_fixed, State.putDeltas_fixed']

theorem State.moveWrites_fixed (s : State) (g : Nat) (ds : List (Nat × BitVec 32)) (l : List (Nat × Bytes)) :
    (s.moveWrites g ds l).1.fixed = s.fixed := by
  induction l generalizing s with
  | nil => rfl
  | cons e rest ih =>
    obtain ⟨va, bs⟩ := e
    unfold State.moveWrites
    grind [State.moveSegs_fixed]

theorem State.moveTile_fixed (s : State) (g : Nat) (b : MoveBody) (at' : Nat) :
    (State.moveTile s g b at').1.fixed = s.fixed := by (unfold State.moveTile; grind [State.moveWrites_fixed])

theorem State.engineTile_fixed (s : State) (g q seq n total status : Nat) :
    (State.engineTile s g q seq n total status).fixed = s.fixed := by ((unfold State.engineTile; (try dsimp only); (repeat' split) <;> simp only [State.modRun_fixed]); done)

theorem State.moveDo_fixed (s : State) (g q seq : Nat) (r : Run) :
    (State.moveDo s g q seq r).fixed = s.fixed := by (unfold State.moveDo; grind [State.accessed_fixed, State.engineTile_fixed, State.jobFault_fixed, State.moveTile_fixed])

theorem State.moveRow_fixed (s : State) (g q seq mode : Nat) :
    (State.moveRow s g q seq mode).fixed = s.fixed := by ((unfold State.moveRow; (try dsimp only); (repeat' split) <;> simp only [State.engineServed_fixed, State.moveDo_fixed]); done)

theorem State.noteBad_fixed (s : State) (g q seq : Nat) (bad : List Nat) :
    (State.noteBad s g q seq bad).fixed = s.fixed := by (unfold State.noteBad; grind [State.corruptEvent_fixed, State.modRun_fixed, foldl_fixed])

theorem State.checkEnd_fixed (s : State) (g q seq : Nat) (r : Run) (n : Nat) :
    (State.checkEnd s g q seq r n).fixed = s.fixed := by (unfold State.checkEnd; grind [State.engineTile_fixed, State.jobFault_fixed, State.writeVa_fixed])

theorem State.checkDo_fixed (s : State) (g q seq : Nat) (r : Run) :
    (State.checkDo s g q seq r).fixed = s.fixed := by ((unfold State.checkDo; (try dsimp only); (repeat' split) <;> simp only [State.accessed_fixed, State.checkEnd_fixed, State.engineTile_fixed, State.jobFault_fixed, State.noteBad_fixed]); done)

theorem State.checkRow_fixed (s : State) (g q seq : Nat) :
    (State.checkRow s g q seq).fixed = s.fixed := by ((unfold State.checkRow; (try dsimp only); (repeat' split) <;> simp only [State.checkDo_fixed, State.engineServed_fixed]); done)

theorem State.tornRead_fixed (s : State) (g q seq : Nat) :
    (State.tornRead s g q seq).fixed = s.fixed := by ((unfold State.tornRead; (try dsimp only); (repeat' split) <;> simp only [State.modCtx_fixed, State.modPart_fixed, State.modRun_fixed]); done)

theorem State.corruptTile_fixed (s : State) (g q seq va : Nat) (op : Nat) (delta : BitVec 32) :
    (State.corruptTile s g q seq va op delta).fixed = s.fixed := by (unfold State.corruptTile; (repeat' split) <;> first | rfl | grind [State.jobFault_fixed] | grind [State.jobFault_fixed, State.fixed])

theorem State.rereadBad_fixed (s : State) (g q seq va : Nat) (delta : BitVec 32) :
    (State.rereadBad s g q seq va delta).fixed = s.fixed := by ((unfold State.rereadBad; (try dsimp only); (repeat' split) <;> simp only [State.corruptTile_fixed]); done)

theorem State.reread_fixed (s : State) (g q seq va : Nat) (delta : BitVec 32) :
    (State.reread s g q seq va delta).fixed = s.fixed := by ((unfold State.reread; (try dsimp only); (repeat' split) <;> simp only [State.rereadBad_fixed, State.tornRead_fixed]); done)

/-! ### Hbm -/

theorem State.prefetch_fixed (s : State) (d g va : Nat) (desc : Bool) :
    (State.prefetch s d g va desc).fixed = s.fixed := by (unfold State.prefetch; grind [State.fillLine_fixed, State.modDie_fixed, foldl_fixed])

theorem State.hotRecord_fixed (s : State) (p k n mean : Nat) :
    (State.hotRecord s p k n mean).fixed = s.fixed := by ((unfold State.hotRecord; (try dsimp only); (repeat' split) <;> simp only [State.event_fixed, State.modStack_fixed]); done)

theorem State.hotStack_fixed (s : State) (p k n mean : Nat) :
    (State.hotStack s p k n mean).fixed = s.fixed := by ((unfold State.hotStack; (try dsimp only); (repeat' split) <;> simp only [State.hotRecord_fixed]); done)

theorem State.hotWindow_fixed (s : State) (p : Nat) (counts : List Nat) :
    (State.hotWindow s p counts).fixed = s.fixed := by (unfold State.hotWindow; grind [State.hotStack_fixed, State.modPart_fixed, State.modStack_fixed, foldl_fixed])

theorem State.retrain_fixed (s : State) (k ch : Nat) :
    (State.retrain s k ch).fixed = s.fixed := by ((unfold State.retrain; (try dsimp only); (repeat' split) <;> simp only [State.modStack_fixed]); done)

/-! ### Bwd -/

theorem State.mergeTally_fixed (s : State) (g : Nat) (t : Tally) :
    (State.mergeTally s g t).1.fixed = s.fixed := by ((unfold State.mergeTally; (try dsimp only); (repeat' split) <;> simp only [State.writeVa_fixed]); done)

theorem State.eachSlot_fixed (s : State) (g : Nat) (f : Bytes → Bytes) :
    (State.eachSlot s g f).1.fixed = s.fixed := by (unfold State.eachSlot; refine foldl1_fixed _ ?_ _ _; intros; first | rfl | grind [State.writeVa_fixed, foldl_fixed] | grind [State.writeVa_fixed, foldl_fixed, State.fixed])

theorem State.govCommit_fixed (s : State) (g : Nat) :
    (State.govCommit s g).1.fixed = s.fixed := by ((unfold State.govCommit; (try dsimp only); (repeat' split) <;> simp only [State.eachSlot_fixed]); done)

theorem State.govClear_fixed (s : State) (g : Nat) :
    (State.govClear s g).1.fixed = s.fixed := by ((unfold State.govClear; (try dsimp only); (repeat' split) <;> simp only [State.eachSlot_fixed]); done)

/-! ### Conv -/

theorem State.convRow_fixed (s : State) (g q seq : Nat) (dw : Bool) (kind : Bytes → Bool) :
    (State.convRow s g q seq dw kind).fixed = s.fixed := by ((unfold State.convRow; (try dsimp only); (repeat' split) <;> simp only [State.dataRow_fixed]); done)

/-! ### Kv -/

/-- An outcome of the cache's operations: a predicate of its value, and the fixed part kept where a fault leaves a state. -/
def KvFixed {α : Type} (F : List Instr × Variant × Nat) (P : α → Prop) (m : KvM α) : Prop :=
  (∀ a, m = .ok a → P a) ∧ ∀ f t, m = .error (.fault f (some t)) → t.fixed = F
variable {F : List Instr × Variant × Nat}
theorem KvFixed.ok {α : Type} {P : α → Prop} {a : α} (h : P a) : KvFixed F P (.ok a : KvM α) :=
  ⟨fun b e => by cases e; exact h, fun _ _ e => by cases e⟩
theorem KvFixed.pure {α : Type} {P : α → Prop} {a : α} (h : P a) : KvFixed F P (Pure.pure a : KvM α) := KvFixed.ok h
theorem KvFixed.bind {α β : Type} {P : α → Prop} {Q : β → Prop} {m : KvM α} {f : α → KvM β} (hm : KvFixed F P m)
    (hf : ∀ a, P a → KvFixed F Q (f a)) : KvFixed F Q (m >>= f) := by
  cases m with
  | ok a => exact hf a (hm.1 a rfl)
  | error e =>
    refine ⟨fun _ h => (nomatch h), fun x t h => ?_⟩
    cases h; exact hm.2 x t rfl
theorem KvFixed.fault {α : Type} {P : α → Prop} {st : Nat} : KvFixed F P (kvFault st : KvM α) :=
  ⟨fun _ e => (nomatch e), fun _ _ e => by unfold kvFault at e; cases e⟩
theorem KvFixed.wait {α : Type} {P : α → Prop} {b : Bool} : KvFixed F P (.error (.wait b) : KvM α) :=
  ⟨fun _ e => (nomatch e), fun _ _ e => by cases e⟩
theorem KvFixed.err {α : Type} {P : α → Prop} {f : Fail} {t : State} (h : t.fixed = F) : KvFixed F P (.error (.fault f (some t)) : KvM α) :=
  ⟨fun _ e => (nomatch e), fun _ _ e => by cases e; exact h⟩
theorem KvFixed.lift {α : Type} {s : State} {e : Except Fail α} (h : s.fixed = F) : KvFixed F (fun _ => True) (kvLift s e) := by
  cases e with
  | ok a => exact KvFixed.ok trivial
  | error e => exact KvFixed.err h
theorem KvFixed.map {α β : Type} {Q : β → Prop} {m : KvM α} {f : α → β} (hm : KvFixed F (fun a => Q (f a)) m) : KvFixed F Q (m.map f) := by
  cases m with
  | ok a => exact KvFixed.ok (hm.1 a rfl)
  | error e =>
    refine ⟨fun _ h => (nomatch h), fun x t h => ?_⟩
    cases h; exact hm.2 x t rfl
theorem KvFixed.mono {α : Type} {P Q : α → Prop} {m : KvM α} (hm : KvFixed F P m) (h : ∀ a, P a → Q a) : KvFixed F Q m :=
  ⟨fun a e => h a (hm.1 a e), hm.2⟩
/-- A fold of fallible updates. -/
theorem KvFixed.foldl {α β : Type} {P : β → Prop} (f : KvM β → α → KvM β) (h : ∀ m a, KvFixed F P m → KvFixed F P (f m a)) (l : List α)
    (m : KvM β) (hm : KvFixed F P m) : KvFixed F P (l.foldl f m) := by
  induction l generalizing m with
  | nil => exact hm
  | cons a l ih => exact ih _ (h m a hm)
theorem KvFixed.over {α : Type} (f : State → α → KvM State) (h : ∀ s a, s.fixed = F → KvFixed F (fun t => t.fixed = F) (f s a)) (s : State)
    (l : List α) (hs : s.fixed = F) : KvFixed F (fun t => t.fixed = F) (overList f s l) := by
  unfold overList
  exact KvFixed.foldl _ (fun m a hm => KvFixed.bind hm fun t ht => h t a ht) l _ (KvFixed.ok hs)
theorem State.kvWrite_fixed (s : State) (g va : Nat) (bs : Bytes) (hs : s.fixed = F) : KvFixed F (fun t => t.fixed = F) (s.kvWrite g va bs) := by
  have h := s.writeVa_fixed g va bs
  unfold State.kvWrite
  split
  · rename_i e; rw [e] at h; exact KvFixed.ok (h.trans hs)
  · rename_i e; rw [e] at h; exact KvFixed.err (h.trans hs)

theorem State.seqRead_fixed (s : State) (g n : Nat) (hs : s.fixed = F) : KvFixed F (fun _ => True) (s.seqRead g n) := by
  unfold State.seqRead
  split
  · exact KvFixed.map ((KvFixed.lift hs).mono fun _ _ => trivial)
  · exact KvFixed.fault

theorem State.seqWrite_fixed (s : State) (g n : Nat) (old r : SeqRec) (hs : s.fixed = F) :
    KvFixed F (fun t => t.fixed = F) (s.seqWrite g n old r) := s.kvWrite_fixed g _ _ hs

theorem State.modKv_fixed (s : State) (g : Nat) (f : Kv → Kv) :
    (State.modKv s g f).fixed = s.fixed := by ((unfold State.modKv; (try dsimp only); (repeat' split) <;> simp only [State.modCtx_fixed]); done)

theorem State.takeFrames_fixed (s : State) (g n : Nat) (hs : s.fixed = F) : KvFixed F (fun p => p.2.fixed = F) (s.takeFrames g n) := by
  unfold State.takeFrames
  dsimp only
  split
  · exact KvFixed.wait
  · split
    · exact KvFixed.fault
    · exact KvFixed.ok hs

theorem State.putFrames_fixed (s : State) (g : Nat) (k : KvGeo) (table row : Nat) (frames : List Nat) (hs : s.fixed = F) :
    KvFixed F (fun t => t.fixed = F) (s.putFrames g k table row frames) := by
  unfold State.putFrames
  split
  · exact KvFixed.ok hs
  · exact s.kvWrite_fixed g _ _ hs

theorem State.getFrames_fixed (s : State) (g : Nat) (k : KvGeo) (table lo hi : Nat) (hs : s.fixed = F) :
    KvFixed F (fun _ => True) (s.getFrames g k table lo hi) := by
  unfold State.getFrames
  split
  · exact KvFixed.ok trivial
  · exact KvFixed.map ((KvFixed.lift hs).mono fun _ _ => trivial)

theorem State.growRows_fixed (s : State) (g n : Nat) (k : KvGeo) (r : SeqRec) (m : Nat) (hs : s.fixed = F) :
    KvFixed F (fun p => p.1.fixed = F) (s.growRows g n k r m) := by
  induction m generalizing s r with
  | zero => exact KvFixed.ok hs
  | succ m ih =>
    unfold State.growRows
    split
    · exact KvFixed.fault
    · refine KvFixed.bind (s.takeFrames_fixed g _ hs) fun p hp => ?_
      refine KvFixed.bind (p.2.putFrames_fixed g k _ _ _ hp) fun t ht => ?_
      refine KvFixed.bind (t.kvWrite_fixed g _ _ ht) fun u hu => ?_
      exact ih u _ hu

theorem State.release_fixed (s : State) (g : Nat) (l : List Nat) : (s.release g l).fixed = s.fixed := rfl

theorem State.detach_fixed (s : State) (g n : Nat) (k : KvGeo) (old r : SeqRec) (keep : Nat) (hs : s.fixed = F) :
    KvFixed F (fun t => t.fixed = F) (s.detach g n k old r keep) := by
  unfold State.detach
  split
  · exact s.seqWrite_fixed g n _ _ hs
  · split
    · exact KvFixed.wait
    · refine KvFixed.bind (s.getFrames_fixed g k _ _ _ hs) fun a _ => ?_
      refine KvFixed.bind (s.getFrames_fixed g k _ _ _ hs) fun b _ => ?_
      refine KvFixed.bind (s.putFrames_fixed g k _ _ _ hs) fun t ht => ?_
      refine KvFixed.bind (t.seqWrite_fixed g n _ _ ht) fun u hu => ?_
      exact KvFixed.pure hu

theorem State.unreserve_fixed (s : State) (g : Nat) (k : KvGeo) (rows : Nat) : (s.unreserve g k rows).fixed = s.fixed := rfl

theorem AppRec.check_fixed (a : AppRec) (k : KvGeo) (r : SeqRec) (seen : List Nat) : KvFixed F (fun _ => True) (a.check k r seen) := by
  unfold AppRec.check
  repeat' split
  all_goals first | exact KvFixed.fault | exact KvFixed.ok trivial

theorem State.appCheck_fixed (s : State) (g : Nat) (k : KvGeo) (l : List AppRec) (seen : List Nat) (hs : s.fixed = F) :
    KvFixed F (fun _ => True) (s.appCheck g k l seen) := by
  induction l generalizing seen with
  | nil => exact KvFixed.ok trivial
  | cons a rest ih =>
    unfold State.appCheck
    refine KvFixed.bind (s.seqRead_fixed g _ hs) fun r _ => ?_
    exact KvFixed.bind (a.check_fixed k r seen) fun _ _ => ih _

theorem State.putTokens_fixed (s : State) (g : Nat) (k : KvGeo) (layer : Nat) (r : SeqRec) (keys vals : Bytes) (ntok : Nat) (hs : s.fixed = F) :
    KvFixed F (fun t => t.fixed = F) (s.putTokens g k layer r keys vals ntok) := by
  unfold State.putTokens
  refine KvFixed.foldl _ (fun m a hm => ?_) _ _ (KvFixed.ok hs)
  refine KvFixed.bind hm fun t ht => ?_
  refine KvFixed.bind (KvFixed.lift ht) fun _ _ => ?_
  exact KvFixed.bind (t.kvWrite_fixed g _ _ ht) fun u hu => u.kvWrite_fixed g _ _ hu

theorem State.appOne_fixed (s : State) (g : Nat) (k : KvGeo) (d : Bytes) (a : AppRec) (hs : s.fixed = F) :
    KvFixed F (fun t => t.fixed = F) (s.appOne g k d a) := by
  unfold State.appOne
  refine KvFixed.bind (s.seqRead_fixed g _ hs) fun r _ => ?_
  refine KvFixed.bind (KvFixed.lift hs) fun _ _ => ?_
  refine KvFixed.bind (KvFixed.lift hs) fun _ _ => ?_
  refine KvFixed.bind (s.growRows_fixed g _ k r _ hs) fun p hp => ?_
  refine KvFixed.bind (p.1.putTokens_fixed g k _ _ _ _ _ hp) fun u hu => ?_
  split
  · exact u.seqWrite_fixed g _ _ _ hu
  · exact KvFixed.pure hu

theorem State.appAll_fixed (s : State) (g : Nat) (k : KvGeo) (d : Bytes) (l : List AppRec) (hs : s.fixed = F) :
    KvFixed F (fun t => t.fixed = F) (s.appAll g k d l) := by
  induction l generalizing s with
  | nil => exact KvFixed.ok hs
  | cons a rest ih => exact KvFixed.bind (s.appOne_fixed g k d a hs) fun t ht => ih t ht

theorem State.kvAppend_fixed (s : State) (g : Nat) (d : Bytes) (hs : s.fixed = F) : KvFixed F (fun p => p.1.fixed = F) (s.kvAppend g d) := by
  unfold State.kvAppend
  split
  · exact KvFixed.fault
  · refine KvFixed.bind (KvFixed.lift hs) fun _ _ => ?_
    refine KvFixed.bind (s.appCheck_fixed g _ _ _ hs) fun _ _ => ?_
    exact KvFixed.bind (s.appAll_fixed g _ d _ hs) fun t ht => KvFixed.pure ht

theorem State.truncOne_fixed (s : State) (g : Nat) (k : KvGeo) (e : EditRec) (hs : s.fixed = F) :
    KvFixed F (fun t => t.fixed = F) (s.truncOne g k e) := by
  unfold State.truncOne
  refine KvFixed.bind (s.seqRead_fixed g _ hs) fun r _ => ?_
  split
  · exact KvFixed.fault
  · split
    · exact KvFixed.fault
    · exact s.detach_fixed g _ k _ _ _ hs

theorem State.prioOne_fixed (s : State) (g : Nat) (e : EditRec) (hs : s.fixed = F) : KvFixed F (fun t => t.fixed = F) (s.prioOne g e) := by
  unfold State.prioOne
  exact KvFixed.bind (s.seqRead_fixed g _ hs) fun r _ => s.seqWrite_fixed g _ _ _ hs

theorem State.freeOne_fixed (s : State) (g n : Nat) (k : KvGeo) (hs : s.fixed = F) : KvFixed F (fun t => t.fixed = F) (s.freeOne g n k) := by
  unfold State.freeOne
  refine KvFixed.bind (s.seqRead_fixed g _ hs) fun r _ => ?_
  split
  · exact KvFixed.fault
  · exact KvFixed.bind (s.detach_fixed g n k _ _ _ hs) fun t ht => KvFixed.pure ht

theorem State.kvFree_fixed (s : State) (g : Nat) (d : Bytes) (hs : s.fixed = F) : KvFixed F (fun p => p.1.fixed = F) (s.kvFree g d) := by
  unfold State.kvFree
  split
  · exact KvFixed.fault
  · refine KvFixed.bind (KvFixed.lift hs) fun _ _ => ?_
    exact KvFixed.bind (KvFixed.over _ (fun t a ht => t.freeOne_fixed g _ _ ht) s _ hs) fun t ht => KvFixed.pure ht

theorem State.allSeqs_fixed (s : State) (g n : Nat) (hs : s.fixed = F) : KvFixed F (fun _ => True) (s.allSeqs g n) := by
  induction n with
  | zero => exact KvFixed.ok trivial
  | succ n ih =>
    unfold State.allSeqs
    exact KvFixed.bind ih fun _ _ => KvFixed.bind (s.seqRead_fixed g _ hs) fun _ _ => KvFixed.pure trivial

theorem boundaryCheck_fixed (k : KvGeo) (seqs : List (Nat × SeqRec)) (recs : List EditRec) : KvFixed F (fun _ => True) (boundaryCheck k seqs recs) := by
  unfold boundaryCheck
  dsimp only
  repeat' split
  all_goals first | exact KvFixed.fault | exact KvFixed.ok trivial

theorem State.swapPage_fixed (s : State) (g n : Nat) (k : KvGeo) (r : SeqRec) (epoch i frame : Nat) (hs : s.fixed = F) :
    KvFixed F (fun t => t.fixed = F) (s.swapPage g n k r epoch i frame) := by
  unfold State.swapPage
  refine KvFixed.bind (KvFixed.lift hs) fun _ _ => ?_
  exact KvFixed.bind (s.kvWrite_fixed g _ _ hs) fun u hu => u.kvWrite_fixed g _ _ hu

theorem State.swapOut_fixed (s : State) (g n : Nat) (k : KvGeo) (r : SeqRec) (epoch : Nat) (hs : s.fixed = F) :
    KvFixed F (fun t => t.fixed = F) (s.swapOut g n k r epoch) := by
  unfold State.swapOut
  refine KvFixed.bind (s.getFrames_fixed g k _ _ _ hs) fun _ _ => ?_
  exact KvFixed.over _ (fun t a ht => t.swapPage_fixed g n k r epoch _ _ ht) s _ hs

theorem State.evict_fixed (s : State) (g n : Nat) (k : KvGeo) (hs : s.fixed = F) : KvFixed F (fun p => p.1.fixed = F) (s.evict g n k) := by
  unfold State.evict
  refine KvFixed.bind (s.seqRead_fixed g _ hs) fun r _ => ?_
  dsimp only
  have h1 : ∀ e, (s.modPart (partOfCtx g) fun p => { p with swapEpoch := e }).fixed = F := fun e => hs
  split
  · have h2 := State.swapOut_fixed _ g n k r ((s.part (partOfCtx g)).swapEpoch + 1) (h1 ((s.part (partOfCtx g)).swapEpoch + 1))
    split
    · rename_i t e
      exact KvFixed.bind (State.detach_fixed t g n k _ _ _ (h2.1 t e)) fun u hu => KvFixed.pure hu
    · rename_i f l e
      split
      · exact KvFixed.bind (State.detach_fixed _ g n k _ _ _ (h1 _)) fun u hu => KvFixed.pure hu
      · exact ⟨fun _ x => (nomatch x), fun x t y => by cases y; exact h2.2 _ _ e⟩
    · rename_i w e he
      exact ⟨fun _ x => (nomatch x), fun x t y => by cases y; exact absurd rfl (e _ _)⟩
  · exact KvFixed.bind (State.detach_fixed s g n k _ _ _ hs) fun u hu => KvFixed.pure hu

theorem Bound.reserve_fixed (b : Bound) (g n : Nat) (k : KvGeo) (r : SeqRec) (need : Nat) (hb : b.s.fixed = F) :
    KvFixed F (fun b => b.s.fixed = F) (b.reserve g n k r need) := by
  unfold Bound.reserve
  exact KvFixed.bind (State.seqWrite_fixed _ g n _ _ hb) fun t ht => KvFixed.pure ht

theorem Bound.run_fixed (b : Bound) (g count : Nat) (k : KvGeo) (e : EditRec) (n : Nat) (hb : b.s.fixed = F) :
    KvFixed F (fun b => b.s.fixed = F) (b.run g count k e n) := by
  induction n generalizing b with
  | zero => exact KvFixed.ok hb
  | succ n ih =>
    unfold Bound.run
    refine KvFixed.bind (b.s.seqRead_fixed g _ hb) fun r _ => ?_
    split
    · exact KvFixed.pure hb
    · dsimp only
      split
      · exact b.reserve_fixed g _ k _ _ hb
      · refine KvFixed.bind (b.s.allSeqs_fixed g _ hb) fun seqs _ => ?_
        split
        · exact KvFixed.pure hb
        · refine KvFixed.bind (b.s.evict_fixed g _ k hb) fun p hp => ?_
          split
          · exact KvFixed.pure hp
          · exact ih _ hp

theorem State.swapIn_fixed (s : State) (g n : Nat) (k : KvGeo) (r : SeqRec) (epoch count : Nat) (hs : s.fixed = F) :
    KvFixed F (fun _ => True) (s.swapIn g n k r epoch count) := by
  unfold State.swapIn
  refine KvFixed.foldl _ (fun m a hm => ?_) _ _ (KvFixed.ok trivial)
  refine KvFixed.bind hm fun x _ => ?_
  repeat' split
  all_goals first | exact KvFixed.pure trivial | exact KvFixed.err hs

theorem Bound.accept_fixed (b : Bound) (g : Nat) (k : KvGeo) (e : EditRec) (r : SeqRec) (need : Nat) (hb : b.s.fixed = F) :
    KvFixed F (fun b => b.s.fixed = F) (b.accept g k e r need) := by
  unfold Bound.accept
  dsimp only
  have put : ∀ (t : State) (res : Nat), t.fixed = F → KvFixed F (fun b => b.s.fixed = F)
      ((do
        let s ← t.seqWrite g e.n r { r with length := 0, rows := 0, resv := need, st := seqRunning, prio := e.prio }
        return { b with s := s, done := e.n :: b.done, results := (e.n, res) :: b.results }) : KvM Bound) := fun t res ht =>
    KvFixed.bind (t.seqWrite_fixed g _ _ _ ht) fun u hu => KvFixed.pure hu
  have h0 : (b.s.modKv g fun v => { v with available := v.available - need * k.rowPages }).fixed = F := hb
  split
  · exact put _ _ h0
  · split
    · exact put _ _ h0
    · refine KvFixed.bind (State.swapIn_fixed _ g _ k r _ _ h0) fun x _ => ?_
      split
      · exact put _ _ h0
      · refine KvFixed.bind (State.takeFrames_fixed _ g _ h0) fun p hp => ?_
        refine KvFixed.bind (KvFixed.over _ (fun t a ht => t.kvWrite_fixed g _ _ ht) p.2 _ hp) fun t ht => ?_
        refine KvFixed.bind (t.putFrames_fixed g k _ _ _ ht) fun u hu => ?_
        exact KvFixed.bind (u.seqWrite_fixed g _ _ _ hu) fun v hv => KvFixed.pure hv

theorem Bound.joins_fixed (b : Bound) (g : Nat) (k : KvGeo) (l : List EditRec) (hb : b.s.fixed = F) :
    KvFixed F (fun b => b.s.fixed = F) (b.joins g k l) := by
  induction l generalizing b with
  | nil => exact KvFixed.ok hb
  | cons e rest ih =>
    unfold Bound.joins
    refine KvFixed.bind (b.s.seqRead_fixed g _ hb) fun r _ => ?_
    dsimp only
    split
    · exact KvFixed.bind (b.accept_fixed g k e r _ hb) fun c hc => ih c hc
    · exact KvFixed.pure hb

theorem Bound.runs_fixed (b : Bound) (g count : Nat) (k : KvGeo) (l : List EditRec) (hb : b.s.fixed = F) :
    KvFixed F (fun b => b.s.fixed = F) (b.runs g count k l) := by
  induction l generalizing b with
  | nil => exact KvFixed.ok hb
  | cons e rest ih => exact KvFixed.bind (b.run_fixed g count k e _ hb) fun c hc => ih c hc

theorem State.clearResv_fixed (s : State) (g : Nat) (k : KvGeo) (p : Nat × SeqRec) (hs : s.fixed = F) :
    KvFixed F (fun t => t.fixed = F) (s.clearResv g k p) := by
  unfold State.clearResv
  split
  · exact KvFixed.ok hs
  · exact KvFixed.bind (s.seqWrite_fixed g _ _ _ hs) fun t ht => KvFixed.pure ht

theorem State.putResults_fixed (s : State) (g addr : Nat) (recs : List EditRec) (res : List (Nat × Nat)) (hs : s.fixed = F) :
    KvFixed F (fun t => t.fixed = F) (s.putResults g addr recs res) :=
  KvFixed.over _ (fun t a ht => t.kvWrite_fixed g _ _ ht) s _ hs

theorem State.boundary_fixed (s : State) (g : Nat) (k : KvGeo) (addr : Nat) (recs : List EditRec) (hs : s.fixed = F) :
    KvFixed F (fun p => p.1.fixed = F) (s.boundary g k addr recs) := by
  unfold State.boundary
  dsimp only
  refine KvFixed.bind (s.allSeqs_fixed g _ hs) fun seqs _ => ?_
  refine KvFixed.bind (boundaryCheck_fixed k seqs recs) fun _ _ => ?_
  refine KvFixed.bind (KvFixed.over _ (fun t a ht => t.clearResv_fixed g k a ht) s _ hs) fun t ht => ?_
  refine KvFixed.bind (KvFixed.over _ (fun t a ht => t.freeOne_fixed g _ k ht) t _ ht) fun u hu => ?_
  refine KvFixed.bind (Bound.runs_fixed { s := u } g _ k _ hu) fun b hb => ?_
  refine KvFixed.bind (b.joins_fixed g k _ hb) fun c hc => ?_
  exact KvFixed.bind (c.s.putResults_fixed g _ _ _ hc) fun v hv => KvFixed.pure hv

theorem State.kvEditRows_fixed (s : State) (g : Nat) (d : Bytes) (recs : List EditRec) (hs : s.fixed = F) :
    KvFixed F (fun p => p.1.fixed = F) (s.kvEditRows g d recs) := by
  unfold State.kvEditRows
  split
  · exact KvFixed.fault
  · split
    · exact KvFixed.bind (KvFixed.over _ (fun t a ht => t.truncOne_fixed g _ a ht) s _ hs) fun t ht => KvFixed.pure ht
    · exact s.boundary_fixed g _ _ _ hs

theorem State.kvEdit_fixed (s : State) (g : Nat) (d : Bytes) (hs : s.fixed = F) : KvFixed F (fun p => p.1.fixed = F) (s.kvEdit g d) := by
  unfold State.kvEdit
  refine KvFixed.bind (KvFixed.lift hs) fun lst _ => ?_
  dsimp only
  split
  · exact KvFixed.bind (KvFixed.over _ (fun t a ht => t.prioOne_fixed g a ht) s _ hs) fun t ht => KvFixed.pure ht
  · exact s.kvEditRows_fixed g d _ hs

theorem State.kvApply_fixed (s : State) (g : Nat) (d : Bytes) (hs : s.fixed = F) : KvFixed F (fun p => p.1.fixed = F) (s.kvApply g d) := by
  unfold State.kvApply
  split
  · exact s.kvAppend_fixed g d hs
  · exact s.kvEdit_fixed g d hs
  · exact s.kvFree_fixed g d hs

theorem State.kvSeen_fixed (s' s : State) (g q seq t : Nat) (d : Bytes) :
    (State.kvSeen s' s g q seq t d).fixed = s'.fixed := by ((unfold State.kvSeen; (try dsimp only); (repeat' split) <;> simp only [State.accessed_fixed, State.leftIn_fixed]); done)

theorem State.noteIdle_fixed (s : State) (g q seq : Nat) : (s.noteIdle g q seq).fixed = s.fixed := by
  unfold State.noteIdle
  split
  · rfl
  · dsimp only; refine foldl_fixed _ ?_ _ _; intros; rfl

theorem State.kvDo_fixed (s : State) (g q seq t : Nat) (d : Bytes) :
    (State.kvDo s g q seq t d).fixed = s.fixed := by
  have h := s.kvApply_fixed g d rfl
  unfold State.kvDo
  split
  · rename_i u st e
    exact (State.modRun_fixed _ g q seq _).trans ((State.markTile_fixed _ g q seq t []).trans ((State.modKv_fixed _ g _).trans
      ((State.noteIdle_fixed _ g q seq).trans ((State.kvSeen_fixed u s g q seq t d).trans (h.1 _ e)))))
  · exact State.modKv_fixed _ _ _
  · rename_i f l e
    refine (State.failTile_fixed _ g q seq t _ _).trans ?_
    cases l with
    | none => rfl
    | some t => exact h.2 _ _ e

theorem State.kvRow_fixed (s : State) (g q seq : Nat) (kind : Run → Bool) :
    (State.kvRow s g q seq kind).fixed = s.fixed := by ((unfold State.kvRow; (try dsimp only); (repeat' split) <;> simp only [State.kvDo_fixed, State.markTile_fixed]); done)

theorem State.kvAgain_fixed (s : State) (g q seq : Nat) :
    (State.kvAgain s g q seq).fixed = s.fixed := by ((unfold State.kvAgain; (try dsimp only); (repeat' split) <;> simp only [State.kvDo_fixed]); done)

theorem State.kvResume_fixed (s : State) (g : Nat) (buffer : Bool) :
    (State.kvResume s g buffer).fixed = s.fixed := by ((unfold State.kvResume; (try dsimp only); (repeat' split) <;> simp only [State.kvAgain_fixed]); done)

/-! ### Vec -/

/-- The state a step of a kernel leaves. -/
def VNext.left : VNext → State
  | .go s _ => s
  | .stop s => s
  | .fault s _ => s
theorem State.vecStep_fixed (s : State) (g stream : Nat) (ks : List VWord) (r : VRegs) : (s.vecStep g stream ks r).left.fixed = s.fixed := by
  unfold State.vecStep State.vecLoad State.vecStore
  repeat' split
  all_goals first | rfl | exact State.accessed_fixed _ _ _ _ _ | (rename_i h; have := s.writeAll_fixed g; grind [VNext.left, State.writeAll_fixed]) | (dsimp only; split <;> grind [VNext.left, State.writeAll_fixed])

theorem VRegs.seen_fixed (r : VRegs) (s : State) (g : Nat) :
    (VRegs.seen r s g).fixed = s.fixed := by ((unfold VRegs.seen; (try dsimp only); (repeat' split) <;> simp only [State.accessed_fixed, State.modCore_fixed]); done)

theorem State.vecTile_fixed (s : State) (g stream : Nat) (ks : List VWord) (n : Nat) (r : VRegs) :
    (s.vecTile g stream ks n r).1.fixed = s.fixed := by
  induction n generalizing s r with
  | zero => exact State.accessed_fixed _ _ _ _ _
  | succ n ih =>
    have h := s.vecStep_fixed g stream ks r
    unfold State.vecTile
    split
    · rename_i e; rw [e] at h; exact (State.accessed_fixed _ _ _ _ _).trans h
    · rename_i e; rw [e] at h; exact (State.accessed_fixed _ _ _ _ _).trans h
    · rename_i e; rw [e] at h; exact (ih _ _).trans h

theorem State.vecRun_fixed (s : State) (g die : Nat) (d k : Bytes) (t : Nat) :
    (State.vecRun s g die d k t).1.fixed = s.fixed := by ((unfold State.vecRun; (try dsimp only); (repeat' split) <;> simp only [State.vecTile_fixed]); done)

theorem State.vecDo_fixed (s : State) (g q seq : Nat) (r : Run) (t : Nat) :
    (State.vecDo s g q seq r t).fixed = s.fixed := by (unfold State.vecDo; grind [State.failTile_fixed, State.markTile_fixed, State.vecRun_fixed])

theorem State.vecRow_fixed (s : State) (g q seq : Nat) :
    (State.vecRow s g q seq).fixed = s.fixed := by ((unfold State.vecRow; (try dsimp only); (repeat' split) <;> simp only [State.vecDo_fixed]); done)

/-! ### Dice -/

theorem State.diceRow_fixed (s : State) (g q seq action : Nat) :
    (State.diceRow s g q seq action).fixed = s.fixed := by ((unfold State.diceRow; (try dsimp only); (repeat' split) <;> simp only [State.dataRow_fixed]); done)

/-! ### Forward -/

theorem State.moveAll_fixed (s : State) (g : Nat) (b : MoveBody) (n at' : Nat) : (s.moveAll g b n at').1.fixed = s.fixed := by
  induction n generalizing s at' with
  | zero => rfl
  | succ n ih =>
    unfold State.moveAll
    have h := s.moveTile_fixed g b at'
    split
    · rfl
    · split
      · rename_i e; rw [e] at h; exact h
      · rename_i e; rw [e] at h; exact (ih _ _).trans ((State.accessed_fixed _ _ _ _ _).trans h)

theorem State.chainMove_fixed (s : State) (g : Nat) (d : Bytes) (out : Option (Nat × Nat)) :
    (State.chainMove s g d out).1.fixed = s.fixed := by
  unfold State.chainMove; exact s.moveAll_fixed g _ _ _

theorem State.chainVec_fixed (s : State) (c g : Nat) (d blk : Bytes) (out : Option (Nat × Nat)) (t : Nat) :
    (State.chainVec s c g d blk out t).1.fixed = s.fixed := by ((unfold State.chainVec; (try dsimp only); (repeat' split) <;> simp only [State.vecTile_fixed]); done)

theorem State.makeWork_fixed (s : State) (c g : Nat) (w : Work) :
    (State.makeWork s c g w).1.fixed = s.fixed := by (unfold State.makeWork; grind [State.accessed_fixed, State.coreLeft_fixed, State.writeAll_fixed])

theorem State.chainTile_fixed (s : State) (c g : Nat) (d blk : Bytes) (out : Option (Nat × Nat)) (ws : List Walker) (t : Nat) :
    (State.chainTile s c g d blk out ws t).1.fixed = s.fixed := by ((unfold State.chainTile; (try dsimp only); (repeat' split) <;> simp only [State.chainVec_fixed, State.makeWork_fixed]); done)

/-! ### Stash -/

theorem State.modStash_fixed (s : State) (g : Nat) (f : Stash → Stash) :
    (State.modStash s g f).fixed = s.fixed := by ((unfold State.modStash; (try dsimp only); (repeat' split) <;> simp only [State.modCtx_fixed]); done)

theorem State.modSpec_fixed (s : State) (g no : Nat) (f : Spec → Spec) :
    (State.modSpec s g no f).fixed = s.fixed := by ((unfold State.modSpec; (try dsimp only); (repeat' split) <;> simp only [State.modStash_fixed]); done)

theorem State.leaveTile_fixed (s : State) (c : Nat) (t : TileRun) :
    (State.leaveTile s c t).fixed = s.fixed := by ((unfold State.leaveTile; (try dsimp only); (repeat' split) <;> simp only [State.chargeBusy_fixed, State.freeCore_fixed, State.modKv_fixed]); done)

theorem State.stopTile_fixed (s : State) (c : Nat) (t : TileRun) :
    (State.stopTile s c t).fixed = s.fixed := by ((unfold State.stopTile; (try dsimp only); (repeat' split) <;> simp only [State.leaveTile_fixed, State.modRun_fixed]); done)

theorem State.cutReplay_fixed (s : State) (g : Nat) (p : Nat → Bool) :
    (State.cutReplay s g p).fixed = s.fixed := by (unfold State.cutReplay; grind [State.stopTile_fixed, foldl_fixed])

theorem State.cutSpeculative_fixed (s : State) (g : Nat) :
    (State.cutSpeculative s g).fixed = s.fixed := by (unfold State.cutSpeculative; grind [State.cutReplay_fixed])

theorem State.forgetSpec_fixed (s : State) (g h : Nat) :
    (State.forgetSpec s g h).fixed = s.fixed := by (unfold State.forgetSpec; grind [State.modStash_fixed])

theorem State.dropSpec_fixed (s : State) (g h : Nat) :
    (State.dropSpec s g h).fixed = s.fixed := by (unfold State.dropSpec; grind [State.cutReplay_fixed, State.forgetSpec_fixed, State.writeVa_fixed])

theorem State.makeRoom_fixed (s : State) (g i charge : Nat) :
    (State.makeRoom s g i charge).fixed = s.fixed := by (unfold State.makeRoom; grind [State.dropSpec_fixed, foldl_fixed])

theorem State.hold_fixed (s : State) (g q seq h used loc stored pend status : Nat) :
    (State.hold s g q seq h used loc stored pend status).fixed = s.fixed := by (unfold State.hold; grind [State.jobFault_fixed, State.ranWith_fixed, State.writeAll_fixed])

theorem State.putReplay_fixed (s : State) (g q seq h : Nat) (e : StashEntry) (status : Nat) :
    (State.putReplay s g q seq h e status).fixed = s.fixed := by ((unfold State.putReplay; (try dsimp only); (repeat' split) <;> simp only [State.hold_fixed, State.jobFault_fixed]); done)

theorem State.putSend_fixed (s : State) (g q seq h : Nat) (e : StashEntry) (form : Bytes) (pend status : Nat) :
    (State.putSend s g q seq h e form pend status).fixed = s.fixed := by (unfold State.putSend; grind [State.hold_fixed, State.jobFault_fixed, State.modStash_fixed, State.putReplay_fixed, State.writeAll_fixed])

theorem State.putPool_fixed (s : State) (g q seq h : Nat) (e : StashEntry) (form : Bytes) (charge pend : Nat) :
    (State.putPool s g q seq h e form charge pend).fixed = s.fixed := by (unfold State.putPool; grind [State.hold_fixed, State.jobFault_fixed, State.modStash_fixed, State.writeVa_fixed])

theorem State.putPlanned_fixed (s : State) (g q seq h : Nat) (e : StashEntry) (form : Bytes) (pend : Nat) :
    (State.putPlanned s g q seq h e form pend).fixed = s.fixed := by ((unfold State.putPlanned; (try dsimp only); (repeat' split) <;> simp only [State.hold_fixed, State.makeRoom_fixed, State.putPool_fixed, State.putReplay_fixed, State.putSend_fixed]); done)

theorem State.putRows_fixed (s : State) (g q seq h : Nat) (e : StashEntry) (rows : Bytes) :
    (State.putRows s g q seq h e rows).fixed = s.fixed := by ((unfold State.putRows; (try dsimp only); (repeat' split) <;> simp only [State.putPlanned_fixed, State.putReplay_fixed, State.putSend_fixed]); done)

theorem State.put_fixed (s : State) (g q seq : Nat) (r : Run) :
    (State.put s g q seq r).fixed = s.fixed := by ((unfold State.put; (try dsimp only); (repeat' split) <;> simp only [State.accessed_fixed, State.hold_fixed, State.jobFault_fixed, State.modRun_fixed, State.putRows_fixed]); done)

theorem State.deliver_fixed (s : State) (g : Nat) (e : StashEntry) (dst at0 n : Nat) (els : List Bytes) :
    (State.deliver s g e dst at0 n els).1.fixed = s.fixed := by ((unfold State.deliver; (try dsimp only); (repeat' split) <;> simp only [State.writeAll_fixed]); done)

theorem State.squeezeInPlace_fixed (s : State) (g : Nat) (e : StashEntry) (dst : Nat) :
    (State.squeezeInPlace s g e dst).1.fixed = s.fixed := by ((unfold State.squeezeInPlace; (try dsimp only); (repeat' split) <;> simp only [State.deliver_fixed]); done)

theorem inTurn_fixed {α β : Type} (f : State → α → State × Option β) (h : ∀ s a, (f s a).1.fixed = s.fixed) (s : State) (l : List α) :
    (inTurn f s l).1.fixed = s.fixed := by
  induction l generalizing s with
  | nil => rfl
  | cons a l ih =>
    unfold inTurn
    grind

theorem State.placeStep_fixed (s : State) (g : Nat) (x : Spec) (h dst k : Nat) :
    (State.placeStep s g x h dst k).1.fixed = s.fixed := by (unfold State.placeStep; grind [State.accessed_fixed, State.deliver_fixed])

theorem State.stepNow_fixed (s : State) (g : Nat) (x : Spec) (st : RStep) : (s.stepNow g x st).1.fixed = s.fixed := by
  cases st <;> unfold State.stepNow <;> (repeat' split) <;>
    grind [State.placeStep_fixed, State.squeezeInPlace_fixed, State.chainMove_fixed, State.accessed_fixed]

theorem State.replayOn_fixed (s : State) (g n : Nat) (x : Spec) : (s.replayOn g n x).1.fixed = s.fixed := by
  induction n generalizing s x with
  | zero => rfl
  | succ n ih =>
    unfold State.replayOn
    dsimp only
    split
    · rfl
    · rename_i st rest _
      have h := s.stepNow_fixed g x st
      split
      · rfl
      · exact ih _ _
      · rfl
      · split
        · rename_i e; rw [e] at h; exact h
        · rename_i e; rw [e] at h
          split
          · exact (ih _ _).trans h
          · exact h

theorem State.replayFail_fixed (s : State) (g : Nat) (x : Spec) (e : Fail) :
    (State.replayFail s g x e).fixed = s.fixed := by ((unfold State.replayFail; (try dsimp only); (repeat' split) <;> simp only [State.forgetSpec_fixed, State.dropSpec_fixed, State.jobFault_fixed]); done)

theorem State.replayGo_fixed (s : State) (g : Nat) (x : Spec) :
    (State.replayGo s g x).fixed = s.fixed := by (unfold State.replayGo; grind [State.modSpec_fixed, State.replayFail_fixed, State.replayOn_fixed])

theorem State.replayStart_fixed (s : State) (g : Nat) (x : Spec) :
    (State.replayStart s g x).fixed = s.fixed := by ((unfold State.replayStart; (try dsimp only); (repeat' split) <;> simp only [State.modStash_fixed, State.replayGo_fixed]); done)

theorem State.replayTile_fixed (s : State) (c g : Nat) (x : Spec) (ws : List Walker) (t : Nat) :
    (State.replayTile s c g x ws t).fixed = s.fixed := by (unfold State.replayTile; grind [State.chainTile_fixed, State.modSpec_fixed, State.replayFail_fixed, State.replayGo_fixed])

theorem State.markRecovered_fixed (s : State) (g h : Nat) :
    (State.markRecovered s g h).1.fixed = s.fixed := by ((unfold State.markRecovered; (try dsimp only); (repeat' split) <;> simp only [State.writeVa_fixed]); done)

theorem State.getDone_fixed (s : State) (g q seq h : Nat) (rec : Bool) :
    (State.getDone s g q seq h rec).fixed = s.fixed := by (unfold State.getDone; grind [State.jobFault_fixed, State.markRecovered_fixed, State.ranWith_fixed])

theorem State.getTile_fixed (s : State) (g q seq : Nat) (r : Run) (e : StashEntry) (src : List (Nat × Nat)) (els : List Bytes) (fin : State → State) (hfin : ∀ a0, (fin a0).fixed = a0.fixed) :
    (State.getTile s g q seq r e src els fin).fixed = s.fixed := by (unfold State.getTile; grind [State.accessed_fixed, State.deliver_fixed, State.jobFault_fixed, State.modRun_fixed])

theorem State.getReplay_fixed (s : State) (g q seq h : Nat) (r : Run) (e : StashEntry) (rec : Bool) :
    (State.getReplay s g q seq h r e rec).fixed = s.fixed := by ((unfold State.getReplay; (try dsimp only); (repeat' split) <;> simp only [State.jobFault_fixed, State.replayStart_fixed]); done)

theorem State.getStored_fixed (s : State) (g q seq h : Nat) (r : Run) (e : StashEntry) :
    (State.getStored s g q seq h r e).fixed = s.fixed := by (unfold State.getStored; grind [State.getDone_fixed, State.getReplay_fixed, State.getTile_fixed, State.jobFault_fixed])

theorem State.adoptTiles_fixed (s : State) (g no q seq : Nat) :
    (State.adoptTiles s g no q seq).fixed = s.fixed := by (unfold State.adoptTiles; grind [State.modCore_fixed, State.modRun_fixed, foldl_fixed])

theorem State.claimSpec_fixed (s : State) (g q seq : Nat) (e : StashEntry) (x : Spec) :
    (State.claimSpec s g q seq e x).fixed = s.fixed := by ((unfold State.claimSpec; (try dsimp only); (repeat' split) <;> simp only [State.adoptTiles_fixed, State.modSpec_fixed]); done)

theorem State.getBeside_fixed (s : State) (g q seq h : Nat) (r : Run) (e : StashEntry) (x : Spec) :
    (State.getBeside s g q seq h r e x).fixed = s.fixed := by (unfold State.getBeside; grind [State.claimSpec_fixed, State.dropSpec_fixed, State.getDone_fixed, State.getTile_fixed, State.jobFault_fixed, State.modSpec_fixed])

theorem State.getFinished_fixed (s : State) (g q seq h : Nat) (r : Run) (e : StashEntry) (x : Spec) :
    (State.getFinished s g q seq h r e x).fixed = s.fixed := by (unfold State.getFinished; grind [State.dropSpec_fixed, State.getDone_fixed, State.getTile_fixed, State.modRun_fixed])

theorem State.get_fixed (s : State) (g q seq : Nat) (r : Run) :
    (State.get s g q seq r).fixed = s.fixed := by ((unfold State.get; (try dsimp only); (repeat' split) <;> simp only [State.getBeside_fixed, State.getFinished_fixed, State.getStored_fixed, State.jobFault_fixed, State.replayGo_fixed]); done)

theorem State.endGet_fixed (s : State) (g q seq : Nat) (d : Bytes) :
    (State.endGet s g q seq d).1.fixed = s.fixed := by ((unfold State.endGet; (try dsimp only); (repeat' split) <;> simp only [State.dropSpec_fixed, State.modStash_fixed, State.writeVa_fixed]); done)

theorem State.record_fixed (s : State) (g q seq : Nat) (r : Run) :
    (State.record s g q seq r).fixed = s.fixed := by (unfold State.record; grind [State.jobFault_fixed, State.modStash_fixed, State.ranWith_fixed, State.writeAll_fixed])

theorem State.specRun_fixed (s : State) (g i h : Nat) (e : StashEntry) :
    (State.specRun s g i h e).fixed = s.fixed := by ((unfold State.specRun; (try dsimp only); (repeat' split) <;> simp only [State.replayStart_fixed]); done)

theorem State.specNext_fixed (s : State) (g i : Nat) :
    (State.specNext s g i).fixed = s.fixed := by ((unfold State.specNext; (try dsimp only); (repeat' split) <;> simp only [State.specRun_fixed]); done)

theorem State.specStart_fixed (s : State) (g i : Nat) :
    (State.specStart s g i).fixed = s.fixed := by ((unfold State.specStart; (try dsimp only); (repeat' split) <;> simp only [State.replayGo_fixed, State.specNext_fixed]); done)

theorem State.specDone_fixed (s : State) (g h : Nat) :
    (State.specDone s g h).fixed = s.fixed := by (unfold State.specDone; grind [State.dropSpec_fixed, State.modSpec_fixed, State.writeAll_fixed])

theorem State.takeEpoch_fixed (s : State) (g : Nat) :
    (State.takeEpoch s g).fixed = s.fixed := by ((unfold State.takeEpoch; (try dsimp only); (repeat' split) <;> simp only [State.modPart_fixed, State.modStash_fixed]); done)

theorem State.emptyStash_fixed (s : State) (g : Nat) :
    (State.emptyStash s g).fixed = s.fixed := by ((unfold State.emptyStash; (try dsimp only); (repeat' split) <;> simp only [State.cutSpeculative_fixed, State.modStash_fixed]); done)

theorem State.stashBoundary_fixed (s : State) (g : Nat) (commit : Bool) :
    (State.stashBoundary s g commit).1.fixed = s.fixed := by (unfold State.stashBoundary; grind [State.emptyStash_fixed, State.modCtx_fixed, State.takeEpoch_fixed, State.writeAll_fixed])

theorem State.initStash_fixed (s : State) (g : Nat) :
    (State.initStash s g).fixed = s.fixed := by ((unfold State.initStash; (try dsimp only); (repeat' split) <;> simp only [State.emptyStash_fixed, State.takeEpoch_fixed, State.writeAll_fixed]); done)

theorem State.codecRow_fixed (s : State) (g q seq op : Nat) (f : Run → State) (hf : ∀ a0, (f a0).fixed = s.fixed) :
    (State.codecRow s g q seq op f).fixed = s.fixed := by (unfold State.codecRow; grind [State.engineServed_fixed])

theorem State.recipeRow_fixed (s : State) (g q seq : Nat) :
    (State.recipeRow s g q seq).fixed = s.fixed := by ((unfold State.recipeRow; (try dsimp only); (repeat' split) <;> simp only [State.record_fixed]); done)

/-! ### Link -/

theorem State.sendCtl_fixed (s : State) (p : Nat) (m : Ctl) :
    (State.sendCtl s p m).fixed = s.fixed := by ((unfold State.sendCtl; (try dsimp only); (repeat' split) <;> simp only [State.modPort_fixed]); done)

theorem State.freeBuffer_fixed (s : State) (p vc n : Nat) :
    (State.freeBuffer s p vc n).fixed = s.fixed := by ((unfold State.freeBuffer; (try dsimp only); (repeat' split) <;> simp only [State.modPort_fixed]); done)

theorem State.pump_fixed (s : State) (p : Nat) :
    (State.pump s p).fixed = s.fixed := by (unfold State.pump; grind [State.freeBuffer_fixed, State.modPort_fixed, foldl_fixed])

theorem State.queuePkt_fixed (s : State) (p : Nat) (x : TxPkt) :
    (State.queuePkt s p x).fixed = s.fixed := by ((unfold State.queuePkt; (try dsimp only); (repeat' split) <;> simp only [State.modFab_fixed, State.modPort_fixed, State.pump_fixed]); done)

theorem State.enqueue_fixed (s : State) (r : Route) (x : TxPkt) :
    (State.enqueue s r x).fixed = s.fixed := by ((unfold State.enqueue; (try dsimp only); (repeat' split) <;> simp only [State.queuePkt_fixed]); done)

theorem State.handOver_fixed (s : State) (k : Packet) :
    (State.handOver s k).fixed = s.fixed := by ((unfold State.handOver; (try dsimp only); (repeat' split) <;> simp only [State.modFab_fixed]); done)

theorem State.countDiscard_fixed (s : State) (arrival : Option Nat) :
    (State.countDiscard s arrival).fixed = s.fixed := by ((unfold State.countDiscard; (try dsimp only); (repeat' split) <;> simp only [State.modPort_fixed]); done)

theorem State.send_fixed (s : State) (k : Packet) :
    (State.send s k).fixed = s.fixed := by ((unfold State.send; (try dsimp only); (repeat' split) <;> simp only [State.enqueue_fixed, State.handOver_fixed]); done)

theorem State.sendRank_fixed (s : State) (p rank type tc flow : Nat) (offset : BitVec 64) (payload : Bytes) :
    (State.sendRank s p rank type tc flow offset payload).fixed = s.fixed := by ((unfold State.sendRank; (try dsimp only); (repeat' split) <;> simp only [State.send_fixed]); done)

theorem State.sendMgmt_fixed (s : State) (p dev part : Nat) (payload : Bytes) :
    (State.sendMgmt s p dev part payload).fixed = s.fixed := by ((unfold State.sendMgmt; (try dsimp only); (repeat' split) <;> simp only [State.send_fixed]); done)

theorem State.sendPeer_fixed (s : State) (p : Nat) (payload : Bytes) :
    (State.sendPeer s p payload).fixed = s.fixed := by ((unfold State.sendPeer; (try dsimp only); (repeat' split) <;> simp only [State.queuePkt_fixed]); done)

theorem State.takeHanded_fixed (s : State) (k : Packet) :
    (State.takeHanded s k).fixed = s.fixed := by ((unfold State.takeHanded; (try dsimp only); (repeat' split) <;> simp only [State.modFab_fixed]); done)

theorem State.freeBytes_fixed (s : State) (n : Nat) :
    (State.freeBytes s n).2.fixed = s.fixed := by rfl

/-! ### Coll -/

theorem State.collSend_fixed (s : State) (g : Nat) (c : CollRun) (dest kind type e : Nat) (payload : Bytes) :
    (State.collSend s g c dest kind type e payload).fixed = s.fixed := by ((unfold State.collSend; (try dsimp only); (repeat' split) <;> simp only [State.sendRank_fixed]); done)

theorem State.collSendAll_fixed (s : State) (g : Nat) (c : CollRun) (kind type e : Nat) (payload : Bytes) :
    (State.collSendAll s g c kind type e payload).fixed = s.fixed := by (unfold State.collSendAll; grind [State.collSend_fixed, foldl_fixed])

theorem State.modColl_fixed (s : State) (g key : Nat) (f : CollRun → CollRun) :
    (State.modColl s g key f).fixed = s.fixed := by ((unfold State.modColl; (try dsimp only); (repeat' split) <;> simp only [State.modCtx_fixed]); done)

theorem State.spoil_fixed (s : State) (g : Nat) (r : Nat × Nat) :
    (State.spoil s g r).fixed = s.fixed := by ((unfold State.spoil; (try dsimp only); (repeat' split) <;> simp only [State.freeBytes_fixed, State.writeVa_fixed]); done)

theorem State.missOne_fixed (s : State) (g : Nat) (notify : Bool) (c : CollRun) :
    (State.missOne s g notify c).fixed = s.fixed := by (unfold State.missOne; grind [State.collSendAll_fixed, State.modPart_fixed, State.ranWith_fixed, State.spoil_fixed, foldl_fixed])

theorem State.missColl_fixed (s : State) (g key : Nat) (notify : Bool) :
    (State.missColl s g key notify).fixed = s.fixed := by (unfold State.missColl; grind [State.missOne_fixed, State.modCtx_fixed, foldl_fixed])

theorem State.collFinish_fixed (s : State) (g key : Nat) :
    (State.collFinish s g key).fixed = s.fixed := by (unfold State.collFinish; grind [State.jobFault_fixed, State.modCtx_fixed, State.ranWith_fixed, State.writeAll_fixed])

theorem State.collHold_fixed (s : State) (g key level sub first : Nat) (vals : List F32) :
    (State.collHold s g key level sub first vals).fixed = s.fixed := by (unfold State.collHold; grind [State.hold_fixed, State.jobFault_fixed, State.modColl_fixed, State.writeAll_fixed])

theorem State.collResults_fixed (s : State) (g : Nat) (c : CollRun) (first : Nat) (sums : List F32) :
    (State.collResults s g c first sums).fixed = s.fixed := by (unfold State.collResults; grind [State.collSend_fixed, State.modColl_fixed, foldl_fixed])

theorem State.collRise_fixed (s : State) (g key first n level : Nat) : (s.collRise g key first n level).fixed = s.fixed := by
  induction n generalizing s level with
  | zero => rfl
  | succ n ih =>
    unfold State.collRise
    grind [State.modColl_fixed, State.collResults_fixed, State.collSend_fixed, State.collHold_fixed, State.jobFault_fixed]

theorem State.collArrive_fixed (s : State) (g key level sub first : Nat) (vals : List F32) :
    (State.collArrive s g key level sub first vals).fixed = s.fixed := by (unfold State.collArrive; grind [State.collHold_fixed, State.collRise_fixed, foldl_fixed])

theorem State.collContribute_fixed (s : State) (g : Nat) (c : CollRun) (first : Nat) (vals : List F32) :
    (State.collContribute s g c first vals).fixed = s.fixed := by (unfold State.collContribute; grind [State.collArrive_fixed, State.collSend_fixed, foldl_fixed])

theorem State.sendSparse_fixed (s : State) (g : Nat) (c : CollRun) (dest k : Nat) :
    (State.sendSparse s g c dest k).fixed = s.fixed := by (unfold State.sendSparse; grind [State.collSend_fixed, foldl_fixed])

theorem State.sendSign_fixed (s : State) (g : Nat) (c : CollRun) (dest k : Nat) :
    (State.sendSign s g c dest k).fixed = s.fixed := by (unfold State.sendSign; grind [State.collSend_fixed, foldl_fixed])

theorem State.collCompressed_fixed (s : State) (g : Nat) (c : CollRun) (k : Nat) :
    (State.collCompressed s g c k).fixed = s.fixed := by ((unfold State.collCompressed; (try dsimp only); (repeat' split) <;> simp only [State.collArrive_fixed, State.sendSign_fixed, State.sendSparse_fixed]); done)

theorem State.sendMants_fixed (s : State) (g : Nat) (c : CollRun) (kind type k : Nat) (l : List Int) :
    (State.sendMants s g c kind type k l).fixed = s.fixed := by (unfold State.sendMants; grind [State.collSend_fixed, foldl_fixed])

theorem State.ringStart_fixed (s : State) (g : Nat) (c : CollRun) (k : Nat) :
    (State.ringStart s g c k).fixed = s.fixed := by ((unfold State.ringStart; (try dsimp only); (repeat' split) <;> simp only [State.collSend_fixed, State.modColl_fixed, State.sendMants_fixed]); done)

theorem State.ringPass_fixed (s : State) (g key k : Nat) :
    (State.ringPass s g key k).fixed = s.fixed := by ((unfold State.ringPass; (try dsimp only); (repeat' split) <;> simp only [State.collSend_fixed, State.modColl_fixed, State.sendMants_fixed]); done)

theorem State.ringAdd_fixed (s : State) (g : Nat) (c : CollRun) (first : Nat) (ms : List Int) :
    (State.ringAdd s g c first ms).fixed = s.fixed := by ((unfold State.ringAdd; (try dsimp only); (repeat' split) <;> simp only [State.collSend_fixed, State.modColl_fixed, State.ringPass_fixed, foldl_fixed]); done)

theorem State.ringsEnd_fixed (s : State) (g key : Nat) :
    (State.ringsEnd s g key).fixed = s.fixed := by (unfold State.ringsEnd; grind [State.collContribute_fixed, State.modColl_fixed, foldl_fixed])

theorem State.collChunk_fixed (s : State) (g : Nat) (c : CollRun) (k : Nat) :
    (State.collChunk s g c k).fixed = s.fixed := by ((unfold State.collChunk; (try dsimp only); (repeat' split) <;> simp only [State.collCompressed_fixed, State.collContribute_fixed, State.ringStart_fixed]); done)

theorem State.collAgain_fixed (s : State) (g : Nat) (c : CollRun) (k : Nat) :
    (State.collAgain s g c k).fixed = s.fixed := by (unfold State.collAgain; grind [State.collContribute_fixed, foldl_fixed])

theorem State.collPump_fixed (s : State) (g key n : Nat) : (s.collPump g key n).fixed = s.fixed := by
  induction n generalizing s with
  | zero => rfl
  | succ n ih =>
    unfold State.collPump
    split
    · rfl
    · split
      · exact (ih _).trans ((State.collChunk_fixed _ _ _ _).trans (State.modColl_fixed _ _ _ _))
      · split
        · exact (ih _).trans ((State.collAgain_fixed _ _ _ _).trans (State.modColl_fixed _ _ _ _))
        · rfl

theorem State.collGoOn_fixed (s : State) (g key : Nat) :
    (State.collGoOn s g key).fixed = s.fixed := by
  unfold State.collGoOn
  exact (State.collFinish_fixed _ _ _).trans ((State.collPump_fixed _ _ _ _).trans (State.ringsEnd_fixed _ _ _))

theorem State.collGather_fixed (s : State) (g : Nat) (c : CollRun) :
    (State.collGather s g c).fixed = s.fixed := by (unfold State.collGather; grind [State.collSendAll_fixed, State.modColl_fixed, foldl_fixed])

theorem State.dropNotices_fixed (s : State) (p : Nat) (c : CollRun) :
    (State.dropNotices s p c).fixed = s.fixed := by (unfold State.dropNotices; grind [State.modCtx_fixed, foldl_fixed])

theorem State.collBegin_fixed (s : State) (g : Nat) (c : CollRun) :
    (State.collBegin s g c).fixed = s.fixed := by ((unfold State.collBegin; (try dsimp only); (repeat' split) <;> simp only [State.collGather_fixed, State.collGoOn_fixed, State.collSendAll_fixed, State.dropNotices_fixed, State.missColl_fixed, State.modCtx_fixed]); done)

theorem State.collStart_fixed (s : State) (g q seq : Nat) (r : Run) :
    (State.collStart s g q seq r).fixed = s.fixed := by ((unfold State.collStart; (try dsimp only); (repeat' split) <;> simp only [State.accessed_fixed, State.collBegin_fixed, State.jobFault_fixed]); done)

theorem State.collRow_fixed (s : State) (g q seq op : Nat) :
    (State.collRow s g q seq op).fixed = s.fixed := by ((unfold State.collRow; (try dsimp only); (repeat' split) <;> simp only [State.collStart_fixed, State.engineServed_fixed]); done)

theorem State.collUnmatched_fixed (s : State) (k : Packet) :
    (State.collUnmatched s k).fixed = s.fixed := by ((unfold State.collUnmatched; (try dsimp only); (repeat' split) <;> simp only [State.modPart_fixed, State.takeHanded_fixed]); done)

theorem State.collPacket_fixed (s : State) (k : Packet) (kind type : Nat) (f : State → Nat → CollRun → Nat → State) (hf : ∀ a0 a1 a2 a3, (f a0 a1 a2 a3).fixed = a0.fixed) :
    (State.collPacket s k kind type f).fixed = s.fixed := by (unfold State.collPacket; grind [State.collGoOn_fixed, State.collUnmatched_fixed, State.takeHanded_fixed])

theorem State.onData_fixed (s : State) (k : Packet) (g : Nat) (c : CollRun) (i : Nat) :
    (State.onData s k g c i).fixed = s.fixed := by ((unfold State.onData; (try dsimp only); (repeat' split) <;> simp only [State.collArrive_fixed]); done)

theorem State.onResult_fixed (s : State) (k : Packet) (g : Nat) (c : CollRun) :
    (State.onResult s k g c).fixed = s.fixed := by ((unfold State.onResult; (try dsimp only); (repeat' split) <;> simp only [State.modColl_fixed]); done)

theorem State.onSparse_fixed (s : State) (k : Packet) (g : Nat) (c : CollRun) (i : Nat) :
    (State.onSparse s k g c i).fixed = s.fixed := by ((unfold State.onSparse; (try dsimp only); (repeat' split) <;> simp only [State.collArrive_fixed, State.modColl_fixed, foldl_fixed]); done)

theorem State.onSign_fixed (s : State) (k : Packet) (g : Nat) (c : CollRun) (i : Nat) :
    (State.onSign s k g c i).fixed = s.fixed := by (unfold State.onSign; grind [State.collArrive_fixed, foldl_fixed])

theorem State.onMeta_fixed (s : State) (k : Packet) (g : Nat) (c : CollRun) :
    (State.onMeta s k g c).fixed = s.fixed := by ((unfold State.onMeta; (try dsimp only); (repeat' split) <;> simp only [State.collSend_fixed, State.modColl_fixed, State.ringPass_fixed]); done)

theorem State.onBsResult_fixed (s : State) (k : Packet) (g : Nat) (c : CollRun) :
    (State.onBsResult s k g c).fixed = s.fixed := by ((unfold State.onBsResult; (try dsimp only); (repeat' split) <;> simp only [State.collSend_fixed, State.modColl_fixed, foldl_fixed]); done)

theorem State.onSignature_fixed (s : State) (k : Packet) (g : Nat) (c : CollRun) (i : Nat) :
    (State.onSignature s k g c i).fixed = s.fixed := by ((unfold State.onSignature; (try dsimp only); (repeat' split) <;> simp only [State.collSendAll_fixed, State.jobFault_fixed, State.modColl_fixed]); done)

theorem State.holdMissing_fixed (s : State) (k : Packet) :
    (State.holdMissing s k).fixed = s.fixed := by (unfold State.holdMissing; grind [State.collUnmatched_fixed, State.modCtx_fixed, State.takeHanded_fixed, foldl_fixed])

theorem State.onMissing_fixed (s : State) (k : Packet) :
    (State.onMissing s k).fixed = s.fixed := by ((unfold State.onMissing; (try dsimp only); (repeat' split) <;> simp only [State.holdMissing_fixed, State.missColl_fixed, State.takeHanded_fixed]); done)

theorem State.straggle_fixed (s : State) (g q seq : Nat) :
    (State.straggle s g q seq).fixed = s.fixed := by ((unfold State.straggle; (try dsimp only); (repeat' split) <;> simp only [State.missColl_fixed]); done)

theorem State.collRanks_fixed (s : State) (p : Nat) :
    (State.collRanks s p).fixed = s.fixed := by (unfold State.collRanks; grind [State.missColl_fixed, foldl_fixed])

theorem State.collBoundary_fixed (s : State) (g : Nat) (commit : Bool) :
    (State.collBoundary s g commit).fixed = s.fixed := by ((unfold State.collBoundary; (try dsimp only); (repeat' split) <;> simp only [State.modCtx_fixed]); done)

/-! ### Boundary -/

theorem andThen_fixed (r : State × Option Fail) (f : State → State × Option Fail) (h : ∀ s, (f s).1.fixed = s.fixed) :
    (andThen r f).1.fixed = r.1.fixed := by
  unfold andThen
  split
  · rfl
  · exact h _

theorem endBoundary_fixed (g q seq : Nat) (r : State × Option Fail) : (endBoundary g q seq r).fixed = r.1.fixed := by
  unfold endBoundary
  split
  · exact State.jobFault_fixed _ _ _ _ _ _
  · rfl

theorem State.commitActions_fixed (s : State) (g : Nat) : (s.commitActions g).1.fixed = s.fixed := by
  unfold State.commitActions
  refine (andThen_fixed _ _ fun t => rfl).trans ?_
  exact (andThen_fixed _ _ fun t => t.stashBoundary_fixed g true).trans (s.govCommit_fixed g)

theorem State.stepCommit_fixed (s : State) (g q seq : Nat) :
    (State.stepCommit s g q seq).fixed = s.fixed := by ((unfold State.stepCommit; (try dsimp only); (repeat' split) <;> simp only [State.commitActions_fixed, State.jobFault_fixed, endBoundary_fixed]); done)

theorem State.repeatActions_fixed (s : State) (g : Nat) : (s.repeatActions g).1.fixed = s.fixed := by
  unfold State.repeatActions
  refine (andThen_fixed _ _ fun t => rfl).trans ?_
  exact (andThen_fixed _ _ fun t => t.stashBoundary_fixed g false).trans (s.govClear_fixed g)

theorem State.stepRepeat_fixed (s : State) (g q seq : Nat) :
    (State.stepRepeat s g q seq).fixed = s.fixed := by ((unfold State.stepRepeat; (try dsimp only); (repeat' split) <;> simp only [State.repeatActions_fixed, endBoundary_fixed]); done)

theorem State.boundaryRow_fixed (s : State) (g q seq action : Nat) (f : State → State) (hf : ∀ a0, (f a0).fixed = a0.fixed) :
    (State.boundaryRow s g q seq action f).fixed = s.fixed := by (unfold State.boundaryRow; grind)

/-! ### Secure -/

theorem State.modSecure_fixed (s : State) (g : Nat) (f : Secure → Secure) :
    (State.modSecure s g f).fixed = s.fixed := by ((unfold State.modSecure; (try dsimp only); (repeat' split) <;> simp only [State.modCtx_fixed]); done)

theorem State.modSecOp_fixed (s : State) (g : Nat) (f : SecOp → SecOp) :
    (State.modSecOp s g f).fixed = s.fixed := by ((unfold State.modSecOp; (try dsimp only); (repeat' split) <;> simp only [State.modSecure_fixed]); done)

theorem State.sendSec_fixed (s : State) (g rank kind low : Nat) (offset : BitVec 64) (payload : Bytes) :
    (State.sendSec s g rank kind low offset payload).fixed = s.fixed := by ((unfold State.sendSec; (try dsimp only); (repeat' split) <;> simp only [State.sendRank_fixed]); done)

theorem State.sendSecAll_fixed (s : State) (g : Nat) (ranks : List Nat) (kind : Nat) (offset : BitVec 64) (payload : Bytes) :
    (State.sendSecAll s g ranks kind offset payload).fixed = s.fixed := by (unfold State.sendSecAll; grind [State.sendSec_fixed, foldl_fixed])

theorem State.endSec_fixed (s : State) (g q seq status : Nat) :
    (State.endSec s g q seq status).fixed = s.fixed := by ((unfold State.endSec; (try dsimp only); (repeat' split) <;> simp only [State.modSecure_fixed, State.ranWith_fixed]); done)

theorem State.sendParity_fixed (s : State) (g stopSeq i j t : Nat) (last : Bool) (bs : Bytes) :
    (State.sendParity s g stopSeq i j t last bs).fixed = s.fixed := by ((unfold State.sendParity; (try dsimp only); (repeat' split) <;> simp only [State.sendSec_fixed]); done)

theorem State.startBuild_fixed (s : State) (g stopSeq slot used tiles : Nat) :
    (State.startBuild s g stopSeq slot used tiles).fixed = s.fixed := by (unfold State.startBuild; grind [State.sendParity_fixed, foldl_fixed])

theorem State.abandonBuild_fixed (s : State) (g : Nat) :
    (State.abandonBuild s g).fixed = s.fixed := by ((unfold State.abandonBuild; (try dsimp only); (repeat' split) <;> simp only [State.modSecure_fixed]); done)

theorem State.stopWith_fixed (s : State) (g : Nat) (op : SecOp) (key : BitVec 256) (stopSeq : Nat) (region : Bytes) :
    (State.stopWith s g op key stopSeq region).fixed = s.fixed := by (unfold State.stopWith; grind [State.abandonBuild_fixed, State.endSec_fixed, State.jobFault_fixed, State.modSecure_fixed, State.startBuild_fixed, State.writeVa_fixed, foldl_fixed])

theorem State.doStop_fixed (s : State) (g : Nat) (op : SecOp) (key : BitVec 256) :
    (State.doStop s g op key).fixed = s.fixed := by ((unfold State.doStop; (try dsimp only); (repeat' split) <;> simp only [State.jobFault_fixed, State.stopWith_fixed, foldl_fixed]); done)

theorem State.spdmSend_fixed (s : State) (o : SpdmOut) :
    (State.spdmSend s o).fixed = s.fixed := by (unfold State.spdmSend; (repeat' split) <;> first | rfl | grind [State.modSec_fixed, State.sendMgmt_fixed, State.sendPeer_fixed] | grind [State.modSec_fixed, State.sendMgmt_fixed, State.sendPeer_fixed, State.fixed])

theorem State.setAsk_fixed (s : State) (a : Asking) :
    (State.setAsk s a).fixed = s.fixed := by ((unfold State.setAsk; (try dsimp only); (repeat' split) <;> simp only [State.modSec_fixed]); done)

theorem State.endAsk_fixed (s : State) (what : Asked) :
    (State.endAsk s what).fixed = s.fixed := by ((unfold State.endAsk; (try dsimp only); (repeat' split) <;> simp only [State.modSec_fixed]); done)

theorem State.beginAsk_fixed (s : State) (what : Asked) (c : Conn) :
    (State.beginAsk s what c).fixed = s.fixed := by ((unfold State.beginAsk; (try dsimp only); (repeat' split) <;> simp only [State.endAsk_fixed, State.setAsk_fixed, State.spdmSend_fixed]); done)

theorem State.giveKey_fixed (s : State) (g : Nat) (a : KeyAsker) :
    (State.giveKey s g a).fixed = s.fixed := by ((unfold State.giveKey; (try dsimp only); (repeat' split) <;> simp only [State.modSecure_fixed, State.spdmSend_fixed]); done)

theorem State.drawKey_fixed (s : State) (g : Nat) :
    (State.drawKey s g).fixed = s.fixed := by (unfold State.drawKey; grind [State.draw_fixed, State.giveKey_fixed, State.modSecure_fixed, foldl_fixed])

theorem State.stopNext_fixed (s : State) (g : Nat) :
    (State.stopNext s g).fixed = s.fixed := by ((unfold State.stopNext; (try dsimp only); (repeat' split) <;> simp only [State.modSecure_fixed]); done)

theorem State.decideVote_fixed (s : State) (g : Nat) (op : SecOp) :
    (State.decideVote s g op).fixed = s.fixed := by ((unfold State.decideVote; (try dsimp only); (repeat' split) <;> simp only [State.drawKey_fixed, State.endSec_fixed, State.stopNext_fixed]); done)

theorem State.tryVote_fixed (s : State) (g : Nat) (op : SecOp) :
    (State.tryVote s g op).fixed = s.fixed := by ((unfold State.tryVote; (try dsimp only); (repeat' split) <;> simp only [State.decideVote_fixed, State.modSecOp_fixed, State.sendSecAll_fixed]); done)

theorem State.applyRegion_fixed (s : State) (g : Nat) (region : Bytes) :
    (State.applyRegion s g region).1.fixed = s.fixed := by (unfold State.applyRegion; grind [State.modCtx_fixed, State.setCfgNat_fixed, State.writeAll_fixed])

theorem State.endRestore_fixed (s : State) (g : Nat) (op : SecOp) (region : Bytes) (status : Nat) :
    (State.endRestore s g op region status).fixed = s.fixed := by (unfold State.endRestore; grind [State.applyRegion_fixed, State.endSec_fixed, State.jobFault_fixed])

theorem State.sendKnown_fixed (s : State) (g : Nat) (positions : List Nat) (ask rebuilt : Bool) :
    (State.sendKnown s g positions ask rebuilt).fixed = s.fixed := by ((unfold State.sendKnown; (try dsimp only); (repeat' split) <;> simp only [State.sendSecAll_fixed]); done)

theorem State.askHolders_fixed (s : State) (g : Nat) :
    (State.askHolders s g).fixed = s.fixed := by ((unfold State.askHolders; (try dsimp only); (repeat' split) <;> simp only [State.sendSecAll_fixed]); done)

theorem State.slotCorrupt_fixed (s : State) (g pos ss : Nat) :
    (State.slotCorrupt s g pos ss).fixed = s.fixed := by ((unfold State.slotCorrupt; (try dsimp only); (repeat' split) <;> simp only [State.event_fixed]); done)

theorem State.logRebuilt_fixed (s : State) (g base n : Nat) :
    (State.logRebuilt s g base n).fixed = s.fixed := by ((unfold State.logRebuilt; (try dsimp only); (repeat' split) <;> simp only [State.corruptEvent_fixed]); done)

theorem State.fillDone_fixed (s : State) (g : Nat) (op : SecOp) (ss : Nat) :
    (State.fillDone s g op ss).fixed = s.fixed := by ((unfold State.fillDone; (try dsimp only); (repeat' split) <;> simp only [State.endRestore_fixed, State.jobFault_fixed, State.modSecure_fixed, State.slotCorrupt_fixed]); done)

theorem State.startChains_fixed (s : State) (g : Nat) (op : SecOp) (ss : Nat) (es hs : List Nat) :
    (State.startChains s g op ss es hs).fixed = s.fixed := by ((unfold State.startChains; (try dsimp only); (repeat' split) <;> simp only [State.fillDone_fixed, State.logRebuilt_fixed, State.modSecure_fixed, State.sendSecAll_fixed]); done)

theorem State.tryFill_fixed (s : State) (g : Nat) (op : SecOp) (ss : Nat) :
    (State.tryFill s g op ss).fixed = s.fixed := by ((unfold State.tryFill; (try dsimp only); (repeat' split) <;> simp only [State.jobFault_fixed, State.startChains_fixed]); done)

theorem State.selfErase_fixed (s : State) (g : Nat) (op : SecOp) (ss : Nat) :
    (State.selfErase s g op ss).fixed = s.fixed := by ((unfold State.selfErase; (try dsimp only); (repeat' split) <;> simp only [State.askHolders_fixed, State.modSecure_fixed, State.sendKnown_fixed, State.slotCorrupt_fixed, State.tryFill_fixed]); done)

theorem State.restoreOwn_fixed (s : State) (g : Nat) (op : SecOp) (ss : Nat) :
    (State.restoreOwn s g op ss).fixed = s.fixed := by ((unfold State.restoreOwn; (try dsimp only); (repeat' split) <;> simp only [State.endRestore_fixed, State.jobFault_fixed, State.selfErase_fixed]); done)

theorem State.choosePoint_fixed (s : State) (g : Nat) (op : SecOp) :
    (State.choosePoint s g op).fixed = s.fixed := by ((unfold State.choosePoint; (try dsimp only); (repeat' split) <;> simp only [State.jobFault_fixed, State.modSecOp_fixed, State.restoreOwn_fixed, State.tryFill_fixed]); done)

theorem State.advanceSec_fixed (s : State) (g : Nat) :
    (State.advanceSec s g).fixed = s.fixed := by ((unfold State.advanceSec; (try dsimp only); (repeat' split) <;> simp only [State.choosePoint_fixed, State.tryFill_fixed, State.tryVote_fixed]); done)

theorem State.beginSec_fixed (s : State) (g q seq : Nat) (r : Run) :
    (State.beginSec s g q seq r).fixed = s.fixed := by ((unfold State.beginSec; (try dsimp only); (repeat' split) <;> simp only [State.advanceSec_fixed, State.askHolders_fixed, State.modSecure_fixed, State.sendKnown_fixed]); done)

theorem State.secureDo_fixed (s : State) (g q seq : Nat) (r : Run) :
    (State.secureDo s g q seq r).fixed = s.fixed := by ((unfold State.secureDo; (try dsimp only); (repeat' split) <;> simp only [State.beginSec_fixed, State.doStop_fixed]); done)

theorem State.secureRow_fixed (s : State) (g q seq op : Nat) :
    (State.secureRow s g q seq op).fixed = s.fixed := by ((unfold State.secureRow; (try dsimp only); (repeat' split) <;> simp only [State.engineServed_fixed, State.secureDo_fixed]); done)

theorem State.registerRow_fixed (s : State) (g q seq : Nat) :
    (State.registerRow s g q seq).fixed = s.fixed := by ((unfold State.registerRow; (try dsimp only); (repeat' split) <;> simp only [State.engineServed_fixed, State.modSecure_fixed, State.ranWith_fixed]); done)

theorem State.onVote_fixed (s : State) (g : Nat) (op : SecOp) (i : Nat) (k : Packet) :
    (State.onVote s g op i k).fixed = s.fixed := by ((unfold State.onVote; (try dsimp only); (repeat' split) <;> simp only [State.advanceSec_fixed, State.jobFault_fixed, State.modSecOp_fixed, State.takeHanded_fixed]); done)

theorem State.voteMessage_fixed (s : State) (g : Nat) (k : Packet) :
    (State.voteMessage s g k).fixed = s.fixed := by ((unfold State.voteMessage; (try dsimp only); (repeat' split) <;> simp only [State.onVote_fixed]); done)

theorem State.voteTimeout_fixed (s : State) (g : Nat) :
    (State.voteTimeout s g).fixed = s.fixed := by ((unfold State.voteTimeout; (try dsimp only); (repeat' split) <;> simp only [State.endSec_fixed]); done)

theorem State.holdTile_fixed (s : State) (g : Nat) (h : Hold) (ss t : Nat) (last : Bool) (bs : Bytes) :
    (State.holdTile s g h ss t last bs).fixed = s.fixed := by (unfold State.holdTile; grind [State.modSecure_fixed, State.sendSecAll_fixed, State.writeVa_fixed])

theorem State.memberTile_fixed (s : State) (g ss i j t : Nat) (last : Bool) (bs : Bytes) :
    (State.memberTile s g ss i j t last bs).fixed = s.fixed := by ((unfold State.memberTile; (try dsimp only); (repeat' split) <;> simp only [State.corruptEvent_fixed, State.sendParity_fixed]); done)

theorem State.parityPacket_fixed (s : State) (g : Nat) (k : Packet) :
    (State.parityPacket s g k).fixed = s.fixed := by ((unfold State.parityPacket; (try dsimp only); (repeat' split) <;> simp only [State.holdTile_fixed, State.memberTile_fixed, State.takeHanded_fixed]); done)

theorem State.holderDone_fixed (s : State) (g : Nat) (k : Packet) :
    (State.holderDone s g k).fixed = s.fixed := by ((unfold State.holderDone; (try dsimp only); (repeat' split) <;> simp only [State.modSecure_fixed, State.takeHanded_fixed]); done)

theorem State.serveTile_fixed (s : State) (g : Nat) (v : Serve) (h : Shard) (t : Nat) (bs : Bytes) :
    (State.serveTile s g v h t bs).1.fixed = s.fixed := by ((unfold State.serveTile; (try dsimp only); (repeat' split) <;> simp only [State.sendSec_fixed]); done)

theorem State.serveFailed_fixed (s : State) (g : Nat) (v : Serve) (h : Shard) (e : Fail) :
    (State.serveFailed s g v h e).fixed = s.fixed := by ((unfold State.serveFailed; (try dsimp only); (repeat' split) <;> simp only [State.corruptEvent_fixed, State.modSecure_fixed, State.sendKnown_fixed, State.sendSec_fixed, State.slotCorrupt_fixed]); done)

theorem State.serveErased_fixed (s : State) (g : Nat) (v : Serve) (served : Bool) :
    (State.serveErased s g v served).fixed = s.fixed := by ((unfold State.serveErased; (try dsimp only); (repeat' split) <;> simp only [State.modSecure_fixed]); done)

theorem State.streamServe_fixed (s : State) (g : Nat) (v : Serve) (h : Shard) :
    (State.streamServe s g v h).fixed = s.fixed := by (unfold State.streamServe; grind [State.serveErased_fixed, State.serveFailed_fixed, State.serveTile_fixed, inTurn_fixed])

theorem State.onServe_fixed (s : State) (g : Nat) (k : Packet) :
    (State.onServe s g k).fixed = s.fixed := by ((unfold State.onServe; (try dsimp only); (repeat' split) <;> simp only [State.modSecure_fixed, State.serveErased_fixed, State.streamServe_fixed, State.takeHanded_fixed]); done)

theorem State.fillTile_fixed (s : State) (g : Nat) (op : SecOp) (ss tiles n : Nat) (bs : Bytes) :
    (State.fillTile s g op ss tiles n bs).fixed = s.fixed := by (unfold State.fillTile; grind [State.fillDone_fixed, State.jobFault_fixed, State.modSecOp_fixed, State.writeVa_fixed])

theorem State.passFill_fixed (s : State) (g : Nat) (k : Packet) :
    (State.passFill s g k).fixed = s.fixed := by (unfold State.passFill; grind [State.serveErased_fixed, State.serveFailed_fixed, State.serveTile_fixed, State.takeHanded_fixed])

theorem State.fillPacket_fixed (s : State) (g : Nat) (k : Packet) :
    (State.fillPacket s g k).fixed = s.fixed := by ((unfold State.fillPacket; (try dsimp only); (repeat' split) <;> simp only [State.fillTile_fixed, State.passFill_fixed, State.takeHanded_fixed]); done)

theorem State.onPoints_fixed (s : State) (g : Nat) (k : Packet) :
    (State.onPoints s g k).fixed = s.fixed := by ((unfold State.onPoints; (try dsimp only); (repeat' split) <;> simp only [State.advanceSec_fixed, State.modSecOp_fixed, State.sendKnown_fixed, State.takeHanded_fixed]); done)

theorem State.onAskHolder_fixed (s : State) (g : Nat) (k : Packet) :
    (State.onAskHolder s g k).fixed = s.fixed := by ((unfold State.onAskHolder; (try dsimp only); (repeat' split) <;> simp only [State.sendSec_fixed, State.takeHanded_fixed]); done)

theorem State.onHolder_fixed (s : State) (g : Nat) (k : Packet) :
    (State.onHolder s g k).fixed = s.fixed := by ((unfold State.onHolder; (try dsimp only); (repeat' split) <;> simp only [State.advanceSec_fixed, State.modSecOp_fixed, State.takeHanded_fixed]); done)

theorem State.pointExchange_fixed (s : State) (g : Nat) (k : Packet) :
    (State.pointExchange s g k).fixed = s.fixed := by ((unfold State.pointExchange; (try dsimp only); (repeat' split) <;> simp only [State.onAskHolder_fixed, State.onHolder_fixed, State.onPoints_fixed, State.onServe_fixed]); done)

theorem State.askKey_fixed (s : State) (g : Nat) :
    (State.askKey s g).fixed = s.fixed := by ((unfold State.askKey; (try dsimp only); (repeat' split) <;> simp only [State.beginAsk_fixed, State.modSecure_fixed]); done)

theorem State.keyRequest_fixed (s : State) (g : Nat) (asker : Option KeyAsker) :
    (State.keyRequest s g asker).fixed = s.fixed := by ((unfold State.keyRequest; (try dsimp only); (repeat' split) <;> simp only [State.askKey_fixed, State.giveKey_fixed]); done)

theorem State.keyArrived_fixed (s : State) (g : Nat) (key : BitVec 256) :
    (State.keyArrived s g key).fixed = s.fixed := by ((unfold State.keyArrived; (try dsimp only); (repeat' split) <;> simp only [State.advanceSec_fixed, State.fillDone_fixed, State.modSecure_fixed]); done)

theorem State.secureRanks_fixed (s : State) (p : Nat) :
    (State.secureRanks s p).fixed = s.fixed := by (unfold State.secureRanks; grind [State.abandonBuild_fixed, State.advanceSec_fixed, State.modSecOp_fixed, foldl_fixed])

/-! ### Queue -/

theorem State.takeNext_fixed (s : State) (g q : Nat) :
    (State.takeNext s g q).fixed = s.fixed := by ((unfold State.takeNext; (try dsimp only); (repeat' split) <;> simp only [State.faultCtx_fixed, State.modQueue_fixed]); done)

theorem State.startNext_fixed (s : State) (g q : Nat) :
    (State.startNext s g q).fixed = s.fixed := by ((unfold State.startNext; (try dsimp only); (repeat' split) <;> simp only [State.jobFault_fixed, State.modQueue_fixed]); done)

theorem State.noteStart_fixed (s : State) (g q seq : Nat) (d : Bytes) :
    (State.noteStart s g q seq d).fixed = s.fixed := by ((unfold State.noteStart; (try dsimp only); (repeat' split) <;> simp only [State.modCtx_fixed, State.modStash_fixed]); done)

theorem State.release1_fixed (s : State) (g q seq : Nat) (r : Run) :
    (State.release1 s g q seq r).fixed = s.fixed := by ((unfold State.release1; (try dsimp only); (repeat' split) <;> simp only [State.jobFault_fixed, State.modQueue_fixed, State.modRun_fixed, State.noteStart_fixed]); done)

theorem State.waitSatisfied_fixed (s : State) (g q seq : Nat) :
    (State.waitSatisfied s g q seq).fixed = s.fixed := by ((unfold State.waitSatisfied; (try dsimp only); (repeat' split) <;> simp only [State.release1_fixed]); done)

theorem State.waitTimeout_fixed (s : State) (g q seq : Nat) :
    (State.waitTimeout s g q seq).fixed = s.fixed := by ((unfold State.waitTimeout; (try dsimp only); (repeat' split) <;> simp only [State.jobFault_fixed]); done)

theorem State.clearCounters_fixed (s : State) (g first n : Nat) :
    (State.clearCounters s g first n).fixed = s.fixed := by (unfold State.clearCounters; grind [State.setCounter_fixed, foldl_fixed])

theorem State.frontRow_fixed (s : State) (g q seq : Nat) (kind : Run → Bool) (f : State → Bytes → State) (hf : ∀ a0 a1, (f a0 a1).fixed = a0.fixed) :
    (State.frontRow s g q seq kind f).fixed = s.fixed := by (unfold State.frontRow; grind [State.ranWith_fixed])

theorem State.complete_fixed (s : State) (g q seq : Nat) (r : Run) :
    (State.complete s g q seq r).fixed = s.fixed := by ((unfold State.complete; (try dsimp only); (repeat' split) <;> simp only [State.chargeBusy_fixed, State.finish_fixed, State.signal_fixed]); done)

theorem State.descriptorFinish_fixed (s : State) (g q seq : Nat) :
    (State.descriptorFinish s g q seq).fixed = s.fixed := by (unfold State.descriptorFinish; grind [State.complete_fixed, State.endGet_fixed, State.jobFault_fixed])

theorem State.raiseQueue_fixed (s : State) (g q : Nat) :
    (State.raiseQueue s g q).fixed = s.fixed := by ((unfold State.raiseQueue; (try dsimp only); (repeat' split) <;> simp only [State.modQueue_fixed, State.raiseFor_fixed]); done)

theorem State.interrupt_fixed (s : State) (g q : Nat) :
    (State.interrupt s g q).fixed = s.fixed := by ((unfold State.interrupt; (try dsimp only); (repeat' split) <;> simp only [State.modQueue_fixed, State.raiseQueue_fixed]); done)

theorem State.putRecord_fixed (s : State) (g slot : Nat) (h : HeldRec) (phase : Nat) :
    (State.putRecord s g slot h phase).1.fixed = s.fixed := by (unfold State.putRecord; grind [State.writeVa_fixed])

theorem State.writeRec_fixed (s : State) (g q : Nat) (h : HeldRec) :
    (State.writeRec s g q h).fixed = s.fixed := by (unfold State.writeRec; grind [State.faultCtx_fixed, State.interrupt_fixed, State.modQueue_fixed, State.putRecord_fixed])

theorem State.loseRecs_fixed (s : State) (g : Nat) :
    (State.loseRecs s g).fixed = s.fixed := by (unfold State.loseRecs; grind [State.modQueue_fixed, foldl_fixed])

theorem State.recordWrite_fixed (s : State) (g q : Nat) :
    (State.recordWrite s g q).fixed = s.fixed := by ((unfold State.recordWrite; (try dsimp only); (repeat' split) <;> simp only [State.cqHead_fixed, State.writeRec_fixed]); done)

theorem State.holdoffExpiry_fixed (s : State) (g q : Nat) :
    (State.holdoffExpiry s g q).fixed = s.fixed := by ((unfold State.holdoffExpiry; (try dsimp only); (repeat' split) <;> simp only [State.raiseQueue_fixed]); done)

/-! ### Tiles -/

theorem State.endCal_fixed (s : State) (c : Nat) :
    (State.endCal s c).fixed = s.fixed := by ((unfold State.endCal; (try dsimp only); (repeat' split) <;> simp only [State.modCore_fixed, State.modDie_fixed]); done)

theorem State.enlist_fixed (s : State) (c : Nat) :
    (State.enlist s c).fixed = s.fixed := by ((unfold State.enlist; (try dsimp only); (repeat' split) <;> simp only [State.modDie_fixed]); done)

theorem State.ask_fixed (s : State) (c g q seq t : Nat) (j : Job) (replay : Option Nat) :
    (State.ask s c g q seq t j replay).fixed = s.fixed := by ((unfold State.ask; (try dsimp only); (repeat' split) <;> simp only [State.enlist_fixed, State.modCore_fixed, State.modRun_fixed]); done)

theorem State.takeReplay_fixed (s : State) (c g q seq : Nat) (x : Spec) :
    (State.takeReplay s c g q seq x).fixed = s.fixed := by ((unfold State.takeReplay; (try dsimp only); (repeat' split) <;> simp only [State.ask_fixed, State.modSpec_fixed]); done)

theorem State.takeFrom_fixed (s : State) (c g : Nat) :
    (State.takeFrom s c g).fixed = s.fixed := by ((unfold State.takeFrom; (try dsimp only); (repeat' split) <;> simp only [State.ask_fixed, State.modCore_fixed, State.modCtx_fixed, State.modRun_fixed, State.takeReplay_fixed]); done)

theorem State.dropPair_fixed (s : State) (c : Nat) :
    (State.dropPair s c).fixed = s.fixed := by ((unfold State.dropPair; (try dsimp only); (repeat' split) <;> simp only [State.modCore_fixed, State.modRun_fixed]); done)

theorem State.takePair_fixed (s : State) (c g q seq t : Nat) :
    (State.takePair s c g q seq t).fixed = s.fixed := by ((unfold State.takePair; (try dsimp only); (repeat' split) <;> simp only [State.ask_fixed, State.modCore_fixed]); done)

theorem State.served_fixed (s : State) (c g : Nat) (free : Bool) :
    (State.served s c g free).fixed = s.fixed := by ((unfold State.served; (try dsimp only); (repeat' split) <;> simp only [State.modDie_fixed]); done)

theorem State.idleSelect_fixed (s : State) (c : Nat) :
    (State.idleSelect s c).fixed = s.fixed := by ((unfold State.idleSelect; (try dsimp only); (repeat' split) <;> simp only [State.dropPair_fixed, State.endCal_fixed, State.takeReplay_fixed]); done)

theorem State.tileSelect_fixed (s : State) (c : Nat) :
    (State.tileSelect s c).fixed = s.fixed := by ((unfold State.tileSelect; (try dsimp only); (repeat' split) <;> simp only [State.dropPair_fixed, State.endCal_fixed, State.idleSelect_fixed, State.modCore_fixed, State.served_fixed, State.takeFrom_fixed, State.takePair_fixed]); done)

theorem State.registerWalkers_fixed (s : State) (c : Nat) (t : TileRun) :
    (State.registerWalkers s c t).fixed = s.fixed := by (unfold State.registerWalkers; grind [State.modKv_fixed, foldl_fixed])

theorem State.countLate_fixed (s : State) (p c : Nat) :
    (State.countLate s p c).fixed = s.fixed := by ((unfold State.countLate; (try dsimp only); (repeat' split) <;> simp only [State.modPart_fixed]); done)

theorem State.noteLate_fixed (s : State) (c g : Nat) :
    (State.noteLate s c g).fixed = s.fixed := by ((unfold State.noteLate; (try dsimp only); (repeat' split) <;> simp only [State.countLate_fixed, State.modCore_fixed]); done)

theorem State.startTile_fixed (s : State) (d c : Nat) (t : TileRun) :
    (State.startTile s d c t).fixed = s.fixed := by ((unfold State.startTile; (try dsimp only); (repeat' split) <;> simp only [State.modCore_fixed, State.modDie_fixed, State.noteLate_fixed, State.registerWalkers_fixed]); done)

theorem State.pipGrant_fixed (s : State) (d : Nat) :
    (State.pipGrant s d).fixed = s.fixed := by ((unfold State.pipGrant; (try dsimp only); (repeat' split) <;> simp only [State.startTile_fixed]); done)

theorem State.noteProgress_fixed (s : State) (g q seq : Nat) (r : Run) :
    (State.noteProgress s g q seq r).fixed = s.fixed := by ((unfold State.noteProgress; (try dsimp only); (repeat' split) <;> simp only [State.modRun_fixed, State.signal_fixed]); done)

theorem State.mergeTile_fixed (s : State) (g : Nat) (ts : List Tally) :
    (State.mergeTile s g ts).1.fixed = s.fixed := by (unfold State.mergeTile; grind [State.mergeTally_fixed, inTurn_fixed])

theorem State.abortNow_fixed (s : State) (g q : Nat) :
    (State.abortNow s g q).fixed = s.fixed := by ((unfold State.abortNow; (try dsimp only); (repeat' split) <;> simp only [State.modQueue_fixed]); done)

theorem State.tileDone_fixed (s : State) (t : TileRun) (r : Run) :
    (State.tileDone s t r).fixed = s.fixed := by (unfold State.tileDone; grind [State.abortNow_fixed, State.jobFault_fixed, State.mergeTile_fixed, State.modRun_fixed, State.noteProgress_fixed])

theorem State.replayEnd_fixed (s : State) (c : Nat) (ws : List Walker) (t : TileRun) (no : Nat) :
    (State.replayEnd s c ws t no).fixed = s.fixed := by ((unfold State.replayEnd; (try dsimp only); (repeat' split) <;> simp only [State.abortNow_fixed, State.chainTile_fixed, State.modRun_fixed, State.replayTile_fixed]); done)

theorem State.tileEnd_fixed (s : State) (c : Nat) :
    (State.tileEnd s c).fixed = s.fixed := by ((unfold State.tileEnd; (try dsimp only); (repeat' split) <;> simp only [State.leaveTile_fixed, State.replayEnd_fixed, State.tileDone_fixed]); done)

theorem State.overtime_fixed (s : State) (t : TileRun) :
    (State.overtime s t).fixed = s.fixed := by ((unfold State.overtime; (try dsimp only); (repeat' split) <;> simp only [State.dropSpec_fixed, State.jobFault_fixed, State.replayFail_fixed]); done)

theorem State.watchdog_fixed (s : State) (c : Nat) :
    (State.watchdog s c).fixed = s.fixed := by ((unfold State.watchdog; (try dsimp only); (repeat' split) <;> simp only [State.abortNow_fixed, State.overtime_fixed, State.stopTile_fixed]); done)

theorem State.haloReplay_fixed (s : State) (g q : Nat) (x : Spec) :
    (State.haloReplay s g q x).fixed = s.fixed := by ((unfold State.haloReplay; (try dsimp only); (repeat' split) <;> simp only [State.replayFail_fixed]); done)

theorem State.haloTimeout_fixed (s : State) (g q seq : Nat) :
    (State.haloTimeout s g q seq).fixed = s.fixed := by ((unfold State.haloTimeout; (try dsimp only); (repeat' split) <;> simp only [State.haloReplay_fixed, State.jobFault_fixed]); done)

theorem State.assignCore_fixed (s : State) (now g i start c : Nat) :
    (State.assignCore s now g i start c).fixed = s.fixed := by ((unfold State.assignCore; (try dsimp only); (repeat' split) <;> simp only [State.countLate_fixed, State.modCore_fixed]); done)

theorem State.unslot_fixed (s : State) (p c : Nat) :
    (State.unslot s p c).fixed = s.fixed := by ((unfold State.unslot; (try dsimp only); (repeat' split) <;> simp only [State.countLate_fixed, State.modCore_fixed]); done)

theorem State.slotShort_fixed (s : State) (p d i want found : Nat) :
    (State.slotShort s p d i want found).fixed = s.fixed := by ((unfold State.slotShort; (try dsimp only); (repeat' split) <;> simp only [State.event_fixed, State.modPart_fixed]); done)

theorem State.assignSlots_fixed (p d now frame : Nat) (l : List (Nat × Slot)) (free : List Nat) (s : State) :
    (State.assignSlots p d now frame l free s).fixed = s.fixed := by
  induction l generalizing free s with
  | nil => unfold State.assignSlots; exact foldl_fixed _ (fun s c => s.unslot_fixed p c) _ _
  | cons e rest ih =>
    unfold State.assignSlots
    refine (ih _ _).trans ?_
    have h := foldl_fixed (fun s c => s.assignCore now (64 * p + e.2.n) e.1 (frame + e.2.start * 1000) c)
      (fun s c => s.assignCore_fixed _ _ _ _ c) (free.take e.2.cores) s
    split
    · exact (State.slotShort_fixed _ _ _ _ _ _).trans h
    · exact h

theorem State.assignDie_fixed (s : State) (p d : Nat) :
    (State.assignDie s p d).fixed = s.fixed := by
  unfold State.assignDie
  exact (State.assignSlots_fixed _ _ _ _ _ _ _).trans (foldl_fixed _ (fun s c => s.unslot_fixed p c) _ _)

theorem State.assignPart_fixed (s : State) (p : Nat) :
    (State.assignPart s p).fixed = s.fixed := by (unfold State.assignPart; grind [State.assignDie_fixed, State.modPart_fixed, foldl_fixed])

theorem State.frameStart_fixed (s : State) (p : Nat) :
    (State.frameStart s p).fixed = s.fixed := by ((unfold State.frameStart; (try dsimp only); (repeat' split) <;> simp only [State.assignPart_fixed, State.modPart_fixed]); done)

theorem State.slotBoundary_fixed (s : State) (p : Nat) :
    (State.slotBoundary s p).fixed = s.fixed := by ((unfold State.slotBoundary; (try dsimp only); (repeat' split) <;> simp only [State.assignPart_fixed]); done)

/-! ### Fabric -/

theorem State.requeue_fixed (s : State) (p : Nat) (x : TxPkt) :
    (State.requeue s p x).fixed = s.fixed := by ((unfold State.requeue; (try dsimp only); (repeat' split) <;> simp only [State.modPort_fixed, State.pump_fixed]); done)

theorem State.resendOn_fixed (s : State) (ports : List Nat) (x : TxPkt) :
    (State.resendOn s ports x).fixed = s.fixed := by ((unfold State.resendOn; (try dsimp only); (repeat' split) <;> simp only [State.freeBuffer_fixed, State.requeue_fixed]); done)

theorem State.feed_fixed (s : State) (no p vc : Nat) (payload : Bytes) :
    (State.feed s no p vc payload).fixed = s.fixed := by ((unfold State.feed; (try dsimp only); (repeat' split) <;> simp only [State.freeBuffer_fixed, State.modPort_fixed, State.pump_fixed]); done)

theorem State.endTx_fixed (s : State) (no : Nat) (st : TxState) :
    (State.endTx s no st).fixed = s.fixed := by ((unfold State.endTx; (try dsimp only); (repeat' split) <;> simp only [State.freeBuffer_fixed, State.modPort_fixed, State.pump_fixed]); done)

theorem State.forgetSrc_fixed (s : State) (p : Nat) :
    (State.forgetSrc s p).fixed = s.fixed := by (unfold State.forgetSrc; (repeat' split) <;> first | rfl | grind | grind [State.fixed])

theorem State.dropPort_fixed (s : State) (p : Nat) (st : PortState) :
    (State.dropPort s p st).fixed = s.fixed := by (unfold State.dropPort; grind [State.resetDale_fixed, State.endTx_fixed, State.forgetSrc_fixed, State.modPort_fixed, State.modSec_fixed, State.resendOn_fixed, foldl_fixed])

theorem State.portDown_fixed (s : State) (p cause : Nat) :
    (State.portDown s p cause).fixed = s.fixed := by ((unfold State.portDown; (try dsimp only); (repeat' split) <;> simp only [State.dropPort_fixed, State.event_fixed]); done)

theorem State.resend_fixed (s : State) (p seq : Nat) :
    (State.resend s p seq).fixed = s.fixed := by ((unfold State.resend; (try dsimp only); (repeat' split) <;> simp only [State.modPort_fixed, State.portDown_fixed, State.pump_fixed]); done)

theorem State.onNak_fixed (s : State) (p seq : Nat) :
    (State.onNak s p seq).fixed = s.fixed := by ((unfold State.onNak; (try dsimp only); (repeat' split) <;> simp only [State.modPort_fixed, State.resend_fixed]); done)

theorem State.ethRetry_fixed (s : State) (p : Nat) :
    (State.ethRetry s p).fixed = s.fixed := by ((unfold State.ethRetry; (try dsimp only); (repeat' split) <;> simp only [State.resend_fixed]); done)

theorem State.tagFailed_fixed (s : State) (p : Nat) :
    (State.tagFailed s p).fixed = s.fixed := by ((unfold State.tagFailed; (try dsimp only); (repeat' split) <;> simp only [State.modPort_fixed, State.portDown_fixed]); done)

theorem State.acceptSeq_fixed (s : State) (p : Nat) (k : Packet) :
    (State.acceptSeq s p k).fixed = s.fixed := by ((unfold State.acceptSeq; (try dsimp only); (repeat' split) <;> simp only [State.modFab_fixed]); done)

theorem State.passOn_fixed (s : State) (p vc : Nat) (a : Asm) :
    (State.passOn s p vc a).fixed = s.fixed := by ((unfold State.passOn; (try dsimp only); (repeat' split) <;> simp only [State.countDiscard_fixed, State.enqueue_fixed, State.modPort_fixed]); done)

theorem State.beginPkt_fixed (s : State) (p vc : Nat) (b : Bytes) :
    (State.beginPkt s p vc b).fixed = s.fixed := by ((unfold State.beginPkt; (try dsimp only); (repeat' split) <;> simp only [State.modPort_fixed, State.passOn_fixed]); done)

theorem State.morePkt_fixed (s : State) (p vc : Nat) (b : Bytes) :
    (State.morePkt s p vc b).fixed = s.fixed := by ((unfold State.morePkt; (try dsimp only); (repeat' split) <;> simp only [State.feed_fixed, State.freeBuffer_fixed, State.modPort_fixed]); done)

theorem State.mctpArrive_fixed (s : State) (c : Conn) (wrapper : Bytes) :
    (State.mctpArrive s c wrapper).fixed = s.fixed := by ((unfold State.mctpArrive; (try dsimp only); (repeat' split) <;> simp only [State.modSec_fixed]); done)

theorem State.endPkt_fixed (s : State) (p vc : Nat) :
    (State.endPkt s p vc).fixed = s.fixed := by ((unfold State.endPkt; (try dsimp only); (repeat' split) <;> simp only [State.acceptSeq_fixed, State.endTx_fixed, State.freeBuffer_fixed, State.mctpArrive_fixed, State.modPort_fixed, State.tagFailed_fixed]); done)

theorem State.flitData_fixed (s : State) (p : Nat) (f : Flit) :
    (State.flitData s p f).fixed = s.fixed := by ((unfold State.flitData; (try dsimp only); (repeat' split) <;> simp only [State.beginPkt_fixed, State.endPkt_fixed, State.morePkt_fixed]); done)

theorem State.rejectFlit_fixed (s : State) (p : Nat) (unread : Bool) :
    (State.rejectFlit s p unread).fixed = s.fixed := by ((unfold State.rejectFlit; (try dsimp only); (repeat' split) <;> simp only [State.modPort_fixed, State.sendCtl_fixed]); done)

theorem State.flitIn_fixed (s : State) (p : Nat) (b : Bytes) (fec : Option Nat) :
    (State.flitIn s p b fec).fixed = s.fixed := by ((unfold State.flitIn; (try dsimp only); (repeat' split) <;> simp only [State.flitData_fixed, State.modPort_fixed, State.pump_fixed, State.rejectFlit_fixed]); done)

theorem State.toEngine_fixed (s : State) (k : Packet) :
    (State.toEngine s k).fixed = s.fixed := by ((unfold State.toEngine; (try dsimp only); (repeat' split) <;> simp only [State.handOver_fixed, State.modPart_fixed]); done)

theorem State.packetReceive_fixed (s : State) (p : Nat) :
    (State.packetReceive s p).fixed = s.fixed := by ((unfold State.packetReceive; (try dsimp only); (repeat' split) <;> simp only [State.countDiscard_fixed, State.freeBuffer_fixed, State.modPort_fixed, State.toEngine_fixed]); done)

theorem State.heartbeat_fixed (s : State) (p : Nat) :
    (State.heartbeat s p).fixed = s.fixed := by ((unfold State.heartbeat; (try dsimp only); (repeat' split) <;> simp only [State.modPort_fixed]); done)

theorem State.heartbeatSend_fixed (s : State) (p : Nat) :
    (State.heartbeatSend s p).fixed = s.fixed := by ((unfold State.heartbeatSend; (try dsimp only); (repeat' split) <;> simp only [State.heartbeat_fixed, State.modFab_fixed, State.modPort_fixed, State.sendCtl_fixed]); done)

theorem State.peerLost_fixed (s : State) (p : Nat) (peer : BitVec 32) :
    (State.peerLost s p peer).fixed = s.fixed := by ((unfold State.peerLost; (try dsimp only); (repeat' split) <;> simp only [State.send_fixed]); done)

theorem State.peerSilent_fixed (s : State) (p : Nat) :
    (State.peerSilent s p).fixed = s.fixed := by ((unfold State.peerSilent; (try dsimp only); (repeat' split) <;> simp only [State.peerLost_fixed, State.portDown_fixed]); done)

theorem State.calOpen_fixed (s : State) (p : Nat) :
    (State.calOpen s p).fixed = s.fixed := by ((unfold State.calOpen; (try dsimp only); (repeat' split) <;> simp only [State.modPort_fixed]); done)

theorem State.lsLock_fixed (s : State) (p : Nat) :
    (State.lsLock s p).fixed = s.fixed := by ((unfold State.lsLock; (try dsimp only); (repeat' split) <;> simp only [State.modPort_fixed, State.sendCtl_fixed]); done)

theorem State.laneReady_fixed (s : State) (p : Nat) :
    (State.laneReady s p).fixed = s.fixed := by ((unfold State.laneReady; (try dsimp only); (repeat' split) <;> simp only [State.modPort_fixed]); done)

theorem State.switchIn_fixed (s : State) (p : Nat) :
    (State.switchIn s p).fixed = s.fixed := by ((unfold State.switchIn; (try dsimp only); (repeat' split) <;> simp only [State.modPort_fixed]); done)

theorem State.laneEvent_fixed (s : State) (p lane : Nat) :
    (State.laneEvent s p lane).fixed = s.fixed := by ((unfold State.laneEvent; (try dsimp only); (repeat' split) <;> simp only [State.event_fixed, State.modPort_fixed, State.portDown_fixed, State.qualify_fixed]); done)

theorem State.laneFailure_fixed (s : State) (p lane : Nat) :
    (State.laneFailure s p lane).fixed = s.fixed := by ((unfold State.laneFailure; (try dsimp only); (repeat' split) <;> simp only [State.laneEvent_fixed, State.modPort_fixed]); done)

theorem State.calEnd_fixed (s : State) (p : Nat) (adapted : Bool) :
    (State.calEnd s p adapted).fixed = s.fixed := by ((unfold State.calEnd; (try dsimp only); (repeat' split) <;> simp only [State.laneEvent_fixed, State.modPort_fixed]); done)

theorem State.lossOfSignal_fixed (s : State) (p : Nat) :
    (State.lossOfSignal s p).fixed = s.fixed := by ((unfold State.lossOfSignal; (try dsimp only); (repeat' split) <;> simp only [State.portDown_fixed]); done)

theorem State.portRetrain_fixed (s : State) (p : Nat) :
    (State.portRetrain s p).fixed = s.fixed := by ((unfold State.portRetrain; (try dsimp only); (repeat' split) <;> simp only [State.resetDale_fixed, State.modPort_fixed]); done)

theorem State.portTrained_fixed (s : State) (p peerId peerPort : Nat) :
    (State.portTrained s p peerId peerPort).fixed = s.fixed := by ((unfold State.portTrained; (try dsimp only); (repeat' split) <;> simp only [State.beginAsk_fixed, State.modPort_fixed]); done)

theorem State.installKeys_fixed (s : State) (p : Nat) (rx tx : BitVec 256) :
    (State.installKeys s p rx tx).fixed = s.fixed := by ((unfold State.installKeys; (try dsimp only); (repeat' split) <;> simp only [State.modPort_fixed]); done)

theorem State.portAuth_fixed (s : State) (p : Nat) (a : PeerAuth) :
    (State.portAuth s p a).fixed = s.fixed := by
  (unfold State.portAuth; (try dsimp only); (repeat' split) <;> simp only [State.dropPort_fixed, State.modPort_fixed])

theorem State.askNext_fixed (s : State) (a : Asking) (st : AskStage) (r : SpdmRequest) :
    (State.askNext s a st r).fixed = s.fixed := by ((unfold State.askNext; (try dsimp only); (repeat' split) <;> simp only [State.setAsk_fixed, State.spdmSend_fixed]); done)

theorem State.askFailed_fixed (s : State) (a : Asking) :
    (State.askFailed s a).fixed = s.fixed := by ((unfold State.askFailed; (try dsimp only); (repeat' split) <;> simp only [State.dropPort_fixed, State.endAsk_fixed, State.modSecure_fixed]); done)

theorem State.askSession_fixed (s : State) (a : Asking) (id : BitVec 32) (key txKey : BitVec 256) (signature : Bytes) :
    (State.askSession s a id key txKey signature).fixed = s.fixed := by ((unfold State.askSession; (try dsimp only); (repeat' split) <;> simp only [State.askFailed_fixed, State.askNext_fixed, State.finish_fixed, State.modSec_fixed, State.spdmSend_fixed]); done)

theorem State.askOpened_fixed (s : State) (a : Asking) :
    (State.askOpened s a).fixed = s.fixed := by ((unfold State.askOpened; (try dsimp only); (repeat' split) <;> simp only [State.installKeys_fixed, State.keyRequest_fixed, State.modSec_fixed, State.setAsk_fixed, State.spdmSend_fixed]); done)

theorem State.askGiven_fixed (s : State) (a : Asking) (key : BitVec 256) (hash : Bytes) :
    (State.askGiven s a key hash).fixed = s.fixed := by ((unfold State.askGiven; (try dsimp only); (repeat' split) <;> simp only [State.askFailed_fixed, State.endAsk_fixed, State.keyArrived_fixed, State.spdmSend_fixed]); done)

theorem State.spdmReply_fixed (s : State) (what : Asked) (r : SpdmReply) (key : Option (BitVec 256)) (hash : Bytes) :
    (State.spdmReply s what r key hash).fixed = s.fixed := by ((unfold State.spdmReply; (try dsimp only); (repeat' split) <;> simp only [State.askFailed_fixed, State.askGiven_fixed, State.askNext_fixed, State.askOpened_fixed, State.askSession_fixed, State.finish_fixed]); done)

theorem State.keyRollover_fixed (s : State) (p : Nat) (key : BitVec 256) :
    (State.keyRollover s p key).fixed = s.fixed := by ((unfold State.keyRollover; (try dsimp only); (repeat' split) <;> simp only [State.modPort_fixed, State.sendCtl_fixed]); done)

theorem State.keyPhaseIn_fixed (s : State) (p : Nat) :
    (State.keyPhaseIn s p).fixed = s.fixed := by ((unfold State.keyPhaseIn; (try dsimp only); (repeat' split) <;> simp only [State.modPort_fixed]); done)

/-! ### Reset -/

theorem State.resetDomain_fixed (s : State) (n : Nat) :
    (State.resetDomain s n).fixed = s.fixed := by (unfold State.resetDomain; grind [State.resetDale_fixed, foldl_fixed])

theorem State.powerOn_fixed (s : State) (n : Nat) :
    (State.powerOn s n).fixed = s.fixed := by ((unfold State.powerOn; (try dsimp only); (repeat' split) <;> simp only [State.modDomain_fixed]); done)

theorem State.powerOff_fixed (s : State) (n : Nat) :
    (State.powerOff s n).fixed = s.fixed := by ((unfold State.powerOff; (try dsimp only); (repeat' split) <;> simp only [State.modDomain_fixed, State.resetDomain_fixed]); done)

theorem State.powerAll_fixed (s : State) (ns : List Nat) (on : Bool) :
    (State.powerAll s ns on).fixed = s.fixed := by (unfold State.powerAll; grind [State.powerOff_fixed, State.powerOn_fixed, foldl_fixed])

theorem State.powerCores_fixed (s : State) (p : Nat) (on : Bool) :
    (State.powerCores s p on).fixed = s.fixed := by ((unfold State.powerCores; (try dsimp only); (repeat' split) <;> simp only [State.powerAll_fixed]); done)

theorem State.haltCore_fixed (s : State) (c : Nat) :
    (State.haltCore s c).fixed = s.fixed := by ((unfold State.haltCore; (try dsimp only); (repeat' split) <;> simp only [State.endCal_fixed, State.freeCore_fixed, State.modCore_fixed]); done)

theorem State.resetDies_fixed (s : State) (p : Nat) :
    (State.resetDies s p).fixed = s.fixed := by (unfold State.resetDies; grind [State.haltCore_fixed, State.modDie_fixed, State.modFab_fixed, State.resetDale_fixed, foldl_fixed])

theorem State.stopUnits_fixed (s : State) (p : Nat) :
    (State.stopUnits s p).fixed = s.fixed := by (unfold State.stopUnits; grind [State.modStack_fixed, State.resetDale_fixed, State.resetDies_fixed, foldl_fixed])

theorem State.freeContexts_fixed (s : State) (p : Nat) :
    (State.freeContexts s p).fixed = s.fixed := by rfl

theorem State.resetEvent_fixed (s : State) (p cause : Nat) :
    (State.resetEvent s p cause).fixed = s.fixed := by ((unfold State.resetEvent; (try dsimp only); (repeat' split) <;> simp only [State.event_fixed]); done)

theorem State.partReset_fixed (s : State) (p cause : Nat) :
    (State.partReset s p cause).fixed = s.fixed := by (unfold State.partReset; grind [State.freeContexts_fixed, State.modPart_fixed, State.raiseFor_fixed, State.resetEvent_fixed, State.stopUnits_fixed, foldl_fixed])

theorem State.causeReset_fixed (s : State) (p cause : Nat) :
    (State.causeReset s p cause).fixed = s.fixed := by ((unfold State.causeReset; (try dsimp only); (repeat' split) <;> simp only [State.modPart_fixed, State.partReset_fixed, State.resetEvent_fixed, State.stopUnits_fixed]); done)

theorem State.stopContexts_fixed (s : State) (p : Nat) :
    (State.stopContexts s p).fixed = s.fixed := by (unfold State.stopContexts; (repeat' split) <;> first | rfl | grind [State.dropCfg_fixed] | grind [State.dropCfg_fixed, State.fixed])

theorem State.destroy_fixed (s : State) (p : Nat) :
    (State.destroy s p).fixed = s.fixed := by (unfold State.destroy; grind [State.modCore_fixed, State.modPart_fixed, State.powerCores_fixed, State.stopContexts_fixed, State.stopUnits_fixed, foldl_fixed])

theorem State.zeroStacks_fixed (s : State) (p : Nat) :
    (State.zeroStacks s p).fixed = s.fixed := by rfl

theorem State.clearCores_fixed (s : State) (p : Nat) :
    (State.clearCores s p).fixed = s.fixed := by (unfold State.clearCores; grind [State.modCore_fixed, State.modDie_fixed, foldl_fixed])

theorem State.destroyed_fixed (s : State) (p : Nat) :
    (State.destroyed s p).fixed = s.fixed := by
  have h := (State.clearCores_fixed _ p).trans (State.zeroStacks_fixed s p)
  unfold State.destroyed
  generalize (s.zeroStacks p).clearCores p = u at h
  exact (State.dropCfg_fixed { u with ctxs := u.ctxs.filter fun kv => partOfCtx kv.1 != p } (partIndex p)).trans h

theorem State.moduleReset_fixed (s : State) :
    (State.moduleReset s).fixed = s.fixed := by rfl

theorem State.remeasure_fixed (s : State) :
    (State.remeasure s).fixed = s.fixed := by ((unfold State.remeasure; (try dsimp only); (repeat' split) <;> simp only [State.modSec_fixed]); done)

theorem State.deriveKeys_fixed (s : State) :
    (State.deriveKeys s).fixed = s.fixed := by ((unfold State.deriveKeys; (try dsimp only); (repeat' split) <;> simp only [State.modSec_fixed]); done)

theorem State.startUp_fixed (s : State) :
    (State.startUp s).fixed = s.fixed := by ((unfold State.startUp; (try dsimp only); (repeat' split) <;> simp only [State.modPwr_fixed]); done)

theorem State.resetNow_fixed (s : State) :
    (State.resetNow s).fixed = s.fixed := by ((unfold State.resetNow; (try dsimp only); (repeat' split) <;> simp only [State.moduleReset_fixed, State.startUp_fixed]); done)

theorem State.powerLost_fixed (s : State) :
    (State.powerLost s).fixed = s.fixed := by ((unfold State.powerLost; (try dsimp only); (repeat' split) <;> simp only [State.modPwr_fixed, State.moduleReset_fixed]); done)

theorem idle_fixed (s : State) :
    (idle s).fixed = s.fixed := by ((unfold idle; (try dsimp only); (repeat' split) <;> simp only [State.resetNow_fixed, State.tick_fixed]); done)

/-! ### Faults -/

theorem State.discardSpec_fixed (s : State) (t : TileRun) :
    (State.discardSpec s t).fixed = s.fixed := by ((unfold State.discardSpec; (try dsimp only); (repeat' split) <;> simp only [State.dropSpec_fixed]); done)

theorem State.pullTile_fixed (s : State) (c : Nat) :
    (State.pullTile s c).fixed = s.fixed := by ((unfold State.pullTile; (try dsimp only); (repeat' split) <;> simp only [State.abortNow_fixed, State.discardSpec_fixed, State.freeCore_fixed, State.modKv_fixed, State.modRun_fixed, State.returnTile_fixed]); done)

theorem State.setRole_fixed (s : State) (c : Nat) (on : Bool) :
    (State.setRole s c on).fixed = s.fixed := by ((unfold State.setRole; (try dsimp only); (repeat' split) <;> simp only [State.setCfgNat_fixed]); done)

theorem State.takeOut_fixed (s : State) (c : Nat) :
    (State.takeOut s c).fixed = s.fixed := by ((unfold State.takeOut; (try dsimp only); (repeat' split) <;> simp only [State.dropPair_fixed, State.endCal_fixed, State.modCore_fixed, State.modDie_fixed, State.powerOff_fixed, State.pullTile_fixed, State.resetDale_fixed]); done)

theorem State.fenceEvents_fixed (s : State) (c cause g : Nat) (active : Bool) (spare : Option Nat) :
    (State.fenceEvents s c cause g active spare).fixed = s.fixed := by ((unfold State.fenceEvents; (try dsimp only); (repeat' split) <;> simp only [State.event_fixed, State.qualify_fixed]); done)

theorem State.fence_fixed (s : State) (c cause : Nat) :
    (State.fence s c cause).fixed = s.fixed := by ((unfold State.fence; (try dsimp only); (repeat' split) <;> simp only [State.assignDie_fixed, State.fenceEvents_fixed, State.setRole_fixed, State.takeOut_fixed]); done)

theorem State.coreFault_fixed (s : State) (c cause : Nat) :
    (State.coreFault s c cause).fixed = s.fixed := by ((unfold State.coreFault; (try dsimp only); (repeat' split) <;> simp only [State.fence_fixed]); done)

theorem State.spareTest_fixed (s : State) (c : Nat) (passed : Bool) :
    (State.spareTest s c passed).fixed = s.fixed := by ((unfold State.spareTest; (try dsimp only); (repeat' split) <;> simp only [State.fence_fixed, State.modCore_fixed]); done)

theorem State.hubFault_fixed (s : State) (d unit : Nat) :
    (State.hubFault s d unit).fixed = s.fixed := by ((unfold State.hubFault; (try dsimp only); (repeat' split) <;> simp only [State.causeReset_fixed, State.event_fixed]); done)

theorem State.dieHubFault_fixed (s : State) (d unit : Nat) :
    (State.dieHubFault s d unit).fixed = s.fixed := by ((unfold State.dieHubFault; (try dsimp only); (repeat' split) <;> simp only [State.hubFault_fixed]); done)

theorem State.mcFault_fixed (s : State) (k kind : Nat) :
    (State.mcFault s k kind).fixed = s.fixed := by ((unfold State.mcFault; (try dsimp only); (repeat' split) <;> simp only [State.causeReset_fixed, State.event_fixed]); done)

theorem State.memFault_fixed (s : State) (k kind : Nat) :
    (State.memFault s k kind).fixed = s.fixed := by ((unfold State.memFault; (try dsimp only); (repeat' split) <;> simp only [State.mcFault_fixed]); done)

theorem State.cacheParity_fixed (s : State) (d line : Nat) :
    (State.cacheParity s d line).fixed = s.fixed := by ((unfold State.cacheParity; (try dsimp only); (repeat' split) <;> simp only [State.modDie_fixed]); done)

theorem State.loseRings_fixed (s : State) (g : Nat) :
    (State.loseRings s g).fixed = s.fixed := by ((unfold State.loseRings; (try dsimp only); (repeat' split) <;> simp only [State.faultCtx_fixed]); done)

theorem State.loseCtxs_fixed (s : State) (h : Nat) (parts : List Nat) :
    (State.loseCtxs s h parts).fixed = s.fixed := by (unfold State.loseCtxs; grind [State.loseRecs_fixed, State.loseRings_fixed, foldl_fixed])

theorem State.hostDown_fixed (s : State) (h cause : Nat) :
    (State.hostDown s h cause).fixed = s.fixed := by ((unfold State.hostDown; (try dsimp only); (repeat' split) <;> simp only [State.event_fixed, State.loseCtxs_fixed, State.modHif_fixed]); done)

theorem State.hostLinkDown_fixed (s : State) (h : Nat) :
    (State.hostLinkDown s h).fixed = s.fixed := by ((unfold State.hostLinkDown; (try dsimp only); (repeat' split) <;> simp only [State.hostDown_fixed]); done)

theorem State.regain_fixed (s : State) (h : Nat) (parts : List Nat) :
    (State.regain s h parts).fixed = s.fixed := by (unfold State.regain; grind [State.loseRecs_fixed, State.raiseQueue_fixed, foldl_fixed])

theorem State.linkOut_fixed (s : State) (n : Nat) :
    (State.linkOut s n).fixed = s.fixed := by (unfold State.linkOut; grind [State.loseCtxs_fixed, State.modLink_fixed, foldl_fixed])

theorem State.linkFault_fixed (s : State) (n cause : Nat) :
    (State.linkFault s n cause).fixed = s.fixed := by ((unfold State.linkFault; (try dsimp only); (repeat' split) <;> simp only [State.causeReset_fixed, State.event_fixed, State.linkOut_fixed]); done)

theorem State.linkRetrained_fixed (s : State) (n : Nat) (ok : Bool) :
    (State.linkRetrained s n ok).fixed = s.fixed := by (unfold State.linkRetrained; grind [State.event_fixed, State.modLink_fixed, State.regain_fixed, foldl_fixed])

theorem State.daleFault_fixed (s : State) (n hub core : Nat) :
    (State.daleFault s n hub core).fixed = s.fixed := by ((unfold State.daleFault; (try dsimp only); (repeat' split) <;> simp only [State.fence_fixed, State.hostLinkDown_fixed, State.hubFault_fixed, State.lossOfSignal_fixed, State.mcFault_fixed]); done)

theorem State.domainUnit_fixed (s : State) (n : Nat) :
    (State.domainUnit s n).fixed = s.fixed := by (unfold State.domainUnit; grind [State.daleFault_fixed, State.draw_fixed, State.fence_fixed, State.hostLinkDown_fixed, State.lossOfSignal_fixed, foldl_fixed])

theorem State.domainFailed_fixed (s : State) (n : Nat) :
    (State.domainFailed s n).fixed = s.fixed := by ((unfold State.domainFailed; (try dsimp only); (repeat' split) <;> simp only [State.domainUnit_fixed, State.event_fixed, State.modDomain_fixed]); done)

theorem State.phaseFailure_fixed (s : State) (n phase : Nat) :
    (State.phaseFailure s n phase).fixed = s.fixed := by ((unfold State.phaseFailure; (try dsimp only); (repeat' split) <;> simp only [State.domainFailed_fixed, State.event_fixed, State.modDomain_fixed]); done)

theorem State.colOverrun_fixed (s : State) (sender receiver : Nat) :
    (State.colOverrun s sender receiver).fixed = s.fixed := by ((unfold State.colOverrun; (try dsimp only); (repeat' split) <;> simp only [State.daleFault_fixed, State.event_fixed, State.modDale_fixed]); done)

theorem State.colTimeout_fixed (s : State) (requester far : Nat) :
    (State.colTimeout s requester far).fixed = s.fixed := by ((unfold State.colTimeout; (try dsimp only); (repeat' split) <;> simp only [State.daleFault_fixed, State.event_fixed, State.modDale_fixed]); done)

theorem State.partFailed_fixed (s : State) (p unit : Nat) :
    (State.partFailed s p unit).fixed = s.fixed := by ((unfold State.partFailed; (try dsimp only); (repeat' split) <;> simp only [State.event_fixed, State.modPart_fixed]); done)

theorem State.unitFailed_fixed (s : State) (unit : Nat) :
    (State.unitFailed s unit).fixed = s.fixed := by ((unfold State.unitFailed; (try dsimp only); (repeat' split) <;> simp only [State.modPwr_fixed]); done)

theorem State.holdFailed_fixed (s : State) (d unit : Nat) :
    (State.holdFailed s d unit).fixed = s.fixed := by ((unfold State.holdFailed; (try dsimp only); (repeat' split) <;> simp only [State.partFailed_fixed, State.unitFailed_fixed]); done)

theorem State.colHoldTimeout_fixed (s : State) (requester far : Nat) :
    (State.colHoldTimeout s requester far).fixed = s.fixed := by ((unfold State.colHoldTimeout; (try dsimp only); (repeat' split) <;> simp only [State.event_fixed, State.fence_fixed, State.holdFailed_fixed, State.lossOfSignal_fixed, State.modHif_fixed]); done)

theorem State.rngFail_fixed (s : State) (test : Nat) :
    (State.rngFail s test).fixed = s.fixed := by ((unfold State.rngFail; (try dsimp only); (repeat' split) <;> simp only [State.event_fixed, State.modSec_fixed]); done)

theorem State.ceEvent_fixed (s : State) (unit d cur prev : Nat) :
    (State.ceEvent s unit d cur prev).fixed = s.fixed := by ((unfold State.ceEvent; (try dsimp only); (repeat' split) <;> simp only [State.event_fixed, State.qualify_fixed]); done)

theorem State.ceRoll_fixed (s : State) :
    (State.ceRoll s).fixed = s.fixed := by (unfold State.ceRoll; (repeat' split) <;> first | rfl | grind | grind [State.fixed])

theorem State.ceStack_fixed (s : State) (k : Nat) :
    (State.ceStack s k).fixed = s.fixed := by ((unfold State.ceStack; (try dsimp only); (repeat' split) <;> simp only [State.ceEvent_fixed, State.modStack_fixed]); done)

theorem State.ceDie_fixed (s : State) (d : Nat) :
    (State.ceDie s d).fixed = s.fixed := by ((unfold State.ceDie; (try dsimp only); (repeat' split) <;> simp only [State.ceEvent_fixed, State.modDie_fixed]); done)

theorem State.stackError_fixed (s : State) (k : Nat) :
    (State.stackError s k).fixed = s.fixed := by ((unfold State.stackError; (try dsimp only); (repeat' split) <;> simp only [State.ceStack_fixed, State.modStack_fixed]); done)

theorem State.dieError_fixed (s : State) (d : Nat) :
    (State.dieError s d).fixed = s.fixed := by ((unfold State.dieError; (try dsimp only); (repeat' split) <;> simp only [State.ceDie_fixed, State.modDie_fixed]); done)

theorem State.ceSweep_fixed (s : State) :
    (State.ceSweep s).fixed = s.fixed := by (unfold State.ceSweep; grind [State.ceDie_fixed, State.ceRoll_fixed, State.ceStack_fixed, foldl_fixed])

theorem State.corrected_fixed (s : State) (onDie : Bool) (unit : Nat) :
    (State.corrected s onDie unit).fixed = s.fixed := by ((unfold State.corrected; (try dsimp only); (repeat' split) <;> simp only [State.ceRoll_fixed, State.dieError_fixed, State.stackError_fixed]); done)

theorem State.quietExpiry_fixed (s : State) :
    (State.quietExpiry s).fixed = s.fixed := by (unfold State.quietExpiry; (repeat' split) <;> first | rfl | grind | grind [State.fixed])

theorem State.maxExpiry_fixed (s : State) :
    (State.maxExpiry s).fixed = s.fixed := by (unfold State.maxExpiry; (repeat' split) <;> first | rfl | grind [State.secureRequest_fixed] | grind [State.secureRequest_fixed, State.fixed])

/-! ### Power -/

theorem State.powerGood_fixed (s : State) (straps : BitVec 4) :
    (State.powerGood s straps).fixed = s.fixed := by ((unfold State.powerGood; (try dsimp only); (repeat' split) <;> simp only [State.modPwr_fixed, State.startUp_fixed]); done)

theorem State.powerGoodLoss_fixed (s : State) :
    (State.powerGoodLoss s).fixed = s.fixed := by ((unfold State.powerGoodLoss; (try dsimp only); (repeat' split) <;> simp only [State.powerLost_fixed]); done)

theorem State.hotSwapOpen_fixed (s : State) :
    (State.hotSwapOpen s).fixed = s.fixed := by ((unfold State.hotSwapOpen; (try dsimp only); (repeat' split) <;> simp only [State.modPwr_fixed, State.powerGoodLoss_fixed]); done)

theorem State.resetAssert_fixed (s : State) :
    (State.resetAssert s).fixed = s.fixed := by ((unfold State.resetAssert; (try dsimp only); (repeat' split) <;> simp only [State.modPwr_fixed, State.moduleReset_fixed]); done)

theorem State.resetRelease_fixed (s : State) :
    (State.resetRelease s).fixed = s.fixed := by ((unfold State.resetRelease; (try dsimp only); (repeat' split) <;> simp only [State.modPwr_fixed, State.startUp_fixed]); done)

theorem State.bankEvent_fixed (s : State) (bank image : Nat) :
    (State.bankEvent s bank image).fixed = s.fixed := by ((unfold State.bankEvent; (try dsimp only); (repeat' split) <;> simp only [State.event_fixed]); done)

theorem State.storeLost_fixed (s : State) :
    (State.storeLost s).fixed = s.fixed := by ((unfold State.storeLost; (try dsimp only); (repeat' split) <;> simp only [State.dropCfg_fixed, State.event_fixed]); done)

theorem State.booted_fixed (s : State) (bank : Nat) :
    (State.booted s bank).fixed = s.fixed := by ((unfold State.booted; (try dsimp only); (repeat' split) <;> simp only [State.deriveKeys_fixed, State.modPwr_fixed, State.modSec_fixed, State.powerAll_fixed, State.remeasure_fixed]); done)

theorem State.bootComplete_fixed (s : State) (bank0 bank1 : Option Nat) (store : Bool) :
    (State.bootComplete s bank0 bank1 store).fixed = s.fixed := by ((unfold State.bootComplete; (try dsimp only); (repeat' split) <;> simp only [State.bankEvent_fixed, State.booted_fixed, State.deriveKeys_fixed, State.modPwr_fixed, State.remeasure_fixed, State.storeLost_fixed]); done)

theorem State.powerPorts_fixed (s : State) (d : Nat) :
    (State.powerPorts s d).fixed = s.fixed := by ((unfold State.powerPorts; (try dsimp only); (repeat' split) <;> simp only [State.powerOn_fixed]); done)

theorem State.trainPorts_fixed (s : State) (d : Nat) :
    (State.trainPorts s d).fixed = s.fixed := by (unfold State.trainPorts; grind [State.modPort_fixed, State.powerOn_fixed, foldl_fixed])

theorem State.coreResults_fixed (s : State) (d : Nat) (ok : BitVec 18) :
    (State.coreResults s d ok).fixed = s.fixed := by (unfold State.coreResults; grind [State.draw_fixed, State.fence_fixed, State.modCore_fixed, foldl_fixed])

theorem State.testDone_fixed (s : State) (d : Nat) (passed : Bool) (coresOk : BitVec 18) :
    (State.testDone s d passed coresOk).fixed = s.fixed := by ((unfold State.testDone; (try dsimp only); (repeat' split) <;> simp only [State.coreResults_fixed, State.event_fixed, State.modHif_fixed, State.modPwr_fixed, State.powerAll_fixed, State.powerPorts_fixed, State.trainPorts_fixed]); done)

theorem State.stackTrained_fixed (s : State) (k : Nat) (ok : Bool) :
    (State.stackTrained s k ok).fixed = s.fixed := by ((unfold State.stackTrained; (try dsimp only); (repeat' split) <;> simp only [State.event_fixed, State.modPwr_fixed, State.modStack_fixed]); done)

theorem State.fieldChange_fixed (s : State) :
    (State.fieldChange s).fixed = s.fixed := by rfl

theorem State.fieldUp_fixed (s : State) :
    (State.fieldUp s).fixed = s.fixed := by (unfold State.fieldUp; (repeat' split) <;> first | rfl | grind [State.modPwr_fixed] | grind [State.modPwr_fixed, State.fixed])

theorem State.perstAssert_fixed (s : State) (h : Nat) :
    (State.perstAssert s h).fixed = s.fixed := by (unfold State.perstAssert; (repeat' split) <;> first | rfl | grind [State.hostDown_fixed, State.modHif_fixed, State.resetDale_fixed] | grind [State.hostDown_fixed, State.modHif_fixed, State.resetDale_fixed, State.fixed])

theorem State.perstRelease_fixed (s : State) (h : Nat) :
    (State.perstRelease s h).fixed = s.fixed := by ((unfold State.perstRelease; (try dsimp only); (repeat' split) <;> simp only [State.modHif_fixed]); done)

theorem State.hostUp_fixed (s : State) (h speed width : Nat) :
    (State.hostUp s h speed width).fixed = s.fixed := by ((unfold State.hostUp; (try dsimp only); (repeat' split) <;> simp only [State.modHif_fixed, State.regain_fixed]); done)

theorem State.lowerGrant_fixed (s : State) (mhz c : Nat) :
    (State.lowerGrant s mhz c).fixed = s.fixed := by ((unfold State.lowerGrant; (try dsimp only); (repeat' split) <;> simp only [State.modCore_fixed, State.modDie_fixed]); done)

theorem State.emergency_fixed (s : State) (d : Nat) :
    (State.emergency s d).fixed = s.fixed := by (unfold State.emergency; grind [State.lowerGrant_fixed, State.modDie_fixed, foldl_fixed])

theorem State.marginEvent_fixed (s : State) (unit p : Nat) (t limit : Int) :
    (State.marginEvent s unit p t limit).fixed = s.fixed := by ((unfold State.marginEvent; (try dsimp only); (repeat' split) <;> simp only [State.event_fixed, State.qualify_fixed]); done)

theorem State.dieTemp_fixed (s : State) (d : Nat) (t : Int) :
    (State.dieTemp s d t).fixed = s.fixed := by ((unfold State.dieTemp; (try dsimp only); (repeat' split) <;> simp only [State.emergency_fixed, State.modDie_fixed]); done)

theorem State.dieMargin_fixed (s : State) (d : Nat) (t : Int) :
    (State.dieMargin s d t).fixed = s.fixed := by ((unfold State.dieMargin; (try dsimp only); (repeat' split) <;> simp only [State.marginEvent_fixed, State.modDie_fixed]); done)

theorem State.setThermal_fixed (s : State) (k new : Nat) (t : Int) (counts : Bool) :
    (State.setThermal s k new t counts).fixed = s.fixed := by ((unfold State.setThermal; (try dsimp only); (repeat' split) <;> simp only [State.event_fixed, State.modStack_fixed, State.qualify_fixed]); done)

theorem State.stackTemp_fixed (s : State) (k : Nat) (t : Int) :
    (State.stackTemp s k t).fixed = s.fixed := by ((unfold State.stackTemp; (try dsimp only); (repeat' split) <;> simp only [State.modStack_fixed, State.setThermal_fixed]); done)

theorem State.setSensor_fixed (s : State) (x : Sensor) (v : SensorSt) :
    (State.setSensor s x v).fixed = s.fixed := by ((unfold State.setSensor; (try dsimp only); (repeat' split) <;> simp only [State.modPwr_fixed]); done)

theorem State.domMargin_fixed (s : State) (n : Nat) (t : Int) :
    (State.domMargin s n t).fixed = s.fixed := by ((unfold State.domMargin; (try dsimp only); (repeat' split) <;> simp only [State.marginEvent_fixed, State.setSensor_fixed]); done)

theorem State.mdTemp_fixed (s : State) (t : Int) :
    (State.mdTemp s t).fixed = s.fixed := by ((unfold State.mdTemp; (try dsimp only); (repeat' split) <;> simp only [State.modDie_fixed]); done)

theorem State.consume_fixed (s : State) (x : Sensor) (t : Int) :
    (State.consume s x t).fixed = s.fixed := by ((unfold State.consume; (try dsimp only); (repeat' split) <;> simp only [State.dieMargin_fixed, State.dieTemp_fixed, State.domMargin_fixed, State.mdTemp_fixed, State.stackTemp_fixed]); done)

theorem State.consumeFailed_fixed (s : State) (x : Sensor) :
    (State.consumeFailed s x).fixed = s.fixed := by ((unfold State.consumeFailed; (try dsimp only); (repeat' split) <;> simp only [State.dieTemp_fixed, State.mdTemp_fixed, State.modDie_fixed, State.modStack_fixed, State.setThermal_fixed, State.stackTemp_fixed]); done)

theorem State.sensorFailed_fixed (s : State) (x : Sensor) (cause : Nat) :
    (State.sensorFailed s x cause).fixed = s.fixed := by ((unfold State.sensorFailed; (try dsimp only); (repeat' split) <;> simp only [State.consumeFailed_fixed, State.event_fixed, State.qualify_fixed, State.setSensor_fixed]); done)

theorem State.sample_fixed (s : State) (x : Sensor) (reading rating : Int) :
    (State.sample s x reading rating).fixed = s.fixed := by ((unfold State.sample; (try dsimp only); (repeat' split) <;> simp only [State.consume_fixed, State.sensorFailed_fixed, State.setSensor_fixed]); done)

theorem State.sensorTimeout_fixed (s : State) (x : Sensor) :
    (State.sensorTimeout s x).fixed = s.fixed := by ((unfold State.sensorTimeout; (try dsimp only); (repeat' split) <;> simp only [State.sensorFailed_fixed]); done)

theorem State.capStep_fixed (s : State) (d : Nat) :
    (State.capStep s d).fixed = s.fixed := by ((unfold State.capStep; (try dsimp only); (repeat' split) <;> simp only [State.modDie_fixed]); done)

theorem State.darken_fixed (s : State) :
    (State.darken s).fixed = s.fixed := by (unfold State.darken; grind [State.dropPort_fixed, State.modFab_fixed, State.modHif_fixed, State.modPwr_fixed, State.powerAll_fixed, State.stopUnits_fixed, foldl_fixed])

theorem State.thermalShutdown_fixed (s : State) (onStack : Bool) (unit : Nat) :
    (State.thermalShutdown s onStack unit).fixed = s.fixed := by ((unfold State.thermalShutdown; (try dsimp only); (repeat' split) <;> simp only [State.darken_fixed, State.dieTemp_fixed, State.event_fixed, State.stackTemp_fixed]); done)

theorem State.writesDone_fixed (s : State) (k : Nat) :
    (State.writesDone s k).fixed = s.fixed := by ((unfold State.writesDone; (try dsimp only); (repeat' split) <;> simp only [State.causeReset_fixed, State.modStack_fixed]); done)

theorem State.pipDivision_fixed (s : State) :
    (State.pipDivision s).fixed = s.fixed := by (unfold State.pipDivision; grind [State.modPwr_fixed, State.modDie_fixed, foldl_fixed])

theorem State.accept_fixed (s : State) (l : List Nat) (room : Nat) : (s.accept l room).1.fixed = s.fixed := by
  induction l generalizing s room with
  | nil => rfl
  | cons n rest ih => unfold State.accept; grind [State.modDomain_fixed]

theorem State.rampDie_fixed (s : State) (d : Nat) :
    (State.rampDie s d).fixed = s.fixed := by ((unfold State.rampDie; (try dsimp only); (repeat' split) <;> simp only [State.accept_fixed, State.modDie_fixed]); done)

theorem State.rampInterval_fixed (s : State) :
    (State.rampInterval s).fixed = s.fixed := by (unfold State.rampInterval; grind [State.modPwr_fixed, State.rampDie_fixed, foldl_fixed])

theorem State.domainOn_fixed (s : State) (n : Nat) (rose : Bool) :
    (State.domainOn s n rose).fixed = s.fixed := by ((unfold State.domainOn; (try dsimp only); (repeat' split) <;> simp only [State.domainFailed_fixed, State.modDomain_fixed]); done)

theorem State.droopTrip_fixed (s : State) (n : Nat) :
    (State.droopTrip s n).fixed = s.fixed := by ((unfold State.droopTrip; (try dsimp only); (repeat' split) <;> simp only [State.modDale_fixed, State.qualify_fixed]); done)

theorem State.thresholdMv_fixed (s : State) (n : Nat) :
    (State.thresholdMv s n).2.fixed = s.fixed := by ((unfold State.thresholdMv; (try dsimp only); (repeat' split) <;> simp only [State.draw_fixed]); done)

theorem State.droopEnd_fixed (s : State) (n lowest : Nat) :
    (State.droopEnd s n lowest).fixed = s.fixed := by ((unfold State.droopEnd; (try dsimp only); (repeat' split) <;> simp only [State.event_fixed, State.modDale_fixed, State.thresholdMv_fixed]); done)

theorem State.calStart_fixed (s : State) (c : Nat) :
    (State.calStart s c).fixed = s.fixed := by ((unfold State.calStart; (try dsimp only); (repeat' split) <;> simp only [State.modCore_fixed, State.modDie_fixed]); done)

theorem State.calStop_fixed (s : State) (c droop : Nat) :
    (State.calStop s c droop).fixed = s.fixed := by ((unfold State.calStop; (try dsimp only); (repeat' split) <;> simp only [State.modCore_fixed, State.draw_fixed, State.endCal_fixed, State.modDale_fixed]); done)

/-! ### Part -/

theorem guarded_fixed (value state : Bool) (s : State) :
    ∀ t, (guarded value state s) = .ok t → t.fixed = s.fixed := by (unfold guarded; grind)

theorem State.partCreate_fixed (s : State) (p : Nat) :
    ∀ t, (State.partCreate s p) = .ok t → t.fixed = s.fixed := by (unfold State.partCreate; grind [State.modPart_fixed, State.powerCores_fixed, guarded_fixed])

theorem State.drawKeys_fixed (s : State) :
    (State.drawKeys s).2.fixed = s.fixed := by ((unfold State.drawKeys; (try dsimp only); (repeat' split) <;> simp only [State.draw_fixed]); done)

theorem State.partActivate_fixed (s : State) (p : Nat) :
    ∀ t, (State.partActivate s p) = .ok t → t.fixed = s.fixed := by (unfold State.partActivate; grind [State.drawKeys_fixed, State.modPart_fixed])

theorem State.activated_fixed (s : State) (p : Nat) :
    (State.activated s p).fixed = s.fixed := by (unfold State.activated; grind [State.modPart_fixed, State.modStack_fixed, State.zeroStacks_fixed, foldl_fixed])

theorem State.partResetCmd_fixed (s : State) (p : Nat) :
    ∀ t, (State.partResetCmd s p) = .ok t → t.fixed = s.fixed := by (unfold State.partResetCmd; grind [State.partReset_fixed, guarded_fixed])

theorem State.partResetDone_fixed (s : State) (p : Nat) (failed : Option Nat) :
    (State.partResetDone s p failed).fixed = s.fixed := by (unfold State.partResetDone; grind [State.modPart_fixed, State.modStack_fixed, State.partFailed_fixed, State.unitFailed_fixed, foldl_fixed])

theorem State.partDestroy_fixed (s : State) (p : Nat) :
    ∀ t, (State.partDestroy s p) = .ok t → t.fixed = s.fixed := by (unfold State.partDestroy; grind [State.destroy_fixed, guarded_fixed])

theorem State.destroyDone_fixed (s : State) (p : Nat) :
    (State.destroyDone s p).fixed = s.fixed := by ((unfold State.destroyDone; (try dsimp only); (repeat' split) <;> simp only [State.destroyed_fixed]); done)

theorem State.partCommand_fixed (s : State) (p v : Nat) :
    ∀ t, (State.partCommand s p v) = .ok t → t.fixed = s.fixed := by (unfold State.partCommand; grind [State.partActivate_fixed, State.partCreate_fixed, State.partDestroy_fixed, State.partResetCmd_fixed])

theorem State.destroyNow_fixed (s : State) (p : Nat) :
    (State.destroyNow s p).fixed = s.fixed := by ((unfold State.destroyNow; (try dsimp only); (repeat' split) <;> simp only [State.destroy_fixed, State.destroyed_fixed]); done)

theorem State.ctxCreate_fixed (s : State) (g : Nat) :
    ∀ t, (State.ctxCreate s g) = .ok t → t.fixed = s.fixed := by (unfold State.ctxCreate; grind [State.dropXlat_fixed, State.initStash_fixed, State.modCtx_fixed, guarded_fixed])

theorem State.dropPairs_fixed (s : State) (g : Nat) :
    (State.dropPairs s g).fixed = s.fixed := by (unfold State.dropPairs; grind [State.modCore_fixed, foldl_fixed])

theorem State.ctxTeardown_fixed (s : State) (g : Nat) :
    ∀ t, (State.ctxTeardown s g) = .ok t → t.fixed = s.fixed := by (unfold State.ctxTeardown; grind [State.cutSpeculative_fixed, State.dropPairs_fixed, State.dropWaiting_fixed, State.dropXlat_fixed, State.modCtx_fixed, State.stopQueues_fixed])

theorem State.freeCtx_fixed (s : State) (g : Nat) :
    (State.freeCtx s g).fixed = s.fixed := by rfl

theorem State.teardownDone_fixed (s : State) (g : Nat) :
    (State.teardownDone s g).fixed = s.fixed := by ((unfold State.teardownDone; (try dsimp only); (repeat' split) <;> simp only [State.freeCtx_fixed]); done)

theorem State.invalidate_fixed (s : State) (g : Nat) :
    ∀ t, (State.invalidate s g) = .ok t → t.fixed = s.fixed := by (unfold State.invalidate; grind [State.dropXlat_fixed, guarded_fixed])

theorem State.ctxCommand_fixed (s : State) (g v : Nat) :
    ∀ t, (State.ctxCommand s g v) = .ok t → t.fixed = s.fixed := by (unfold State.ctxCommand; grind [State.ctxCreate_fixed, State.ctxTeardown_fixed, State.invalidate_fixed])

theorem State.queueWrite_fixed (s : State) (g q : Nat) (rec : Bytes) :
    ∀ t, (State.queueWrite s g q rec) = .ok t → t.fixed = s.fixed := by (unfold State.queueWrite; grind [State.modQueue_fixed, State.setCfg_fixed, guarded_fixed])

theorem State.startCache_fixed (s : State) (g : Nat) :
    (State.startCache s g).fixed = s.fixed := by ((unfold State.startCache; (try dsimp only); (repeat' split) <;> simp only [State.modKv_fixed, State.writeAll_fixed]); done)

theorem State.ctxEffect_fixed (s : State) (g sub : Nat) :
    (State.ctxEffect s g sub).fixed = s.fixed := by ((unfold State.ctxEffect; (try dsimp only); (repeat' split) <;> simp only [State.dropXlat_fixed, State.initStash_fixed, State.startCache_fixed]); done)

theorem State.ctxWrite_fixed (s : State) (g sub : Nat) (data : Bytes) :
    ∀ t, (State.ctxWrite s g sub data) = .ok t → t.fixed = s.fixed := by (unfold State.ctxWrite; grind [State.ctxEffect_fixed, State.setCfg_fixed])

theorem State.frameWrite_fixed (s : State) (p : Nat) (data : Bytes) :
    ∀ t, (State.frameWrite s p data) = .ok t → t.fixed = s.fixed := by (unfold State.frameWrite; grind [State.assignPart_fixed, State.modPart_fixed, State.setCfg_fixed])

theorem State.slotTableWrite_fixed (s : State) (p : Nat) (table : Bytes) :
    ∀ t, (State.slotTableWrite s p table) = .ok t → t.fixed = s.fixed := by (unfold State.slotTableWrite; grind [State.modPart_fixed, State.setCfg_fixed, guarded_fixed])

theorem State.roleMaskWrite_fixed (s : State) (d : Nat) (data : Bytes) :
    ∀ t, (State.roleMaskWrite s d data) = .ok t → t.fixed = s.fixed := by (unfold State.roleMaskWrite; grind [State.assignDie_fixed, State.setCfg_fixed, guarded_fixed])

theorem State.shapeWrite_fixed (s : State) (data : Bytes) :
    ∀ t, (State.shapeWrite s data) = .ok t → t.fixed = s.fixed := by (unfold State.shapeWrite; grind [State.dropCfg_fixed, State.setCfg_fixed, guarded_fixed])

theorem State.memWrite_fixed (s : State) (p sub : Nat) (data : Bytes) :
    ∀ t, (State.memWrite s p sub data) = .ok t → t.fixed = s.fixed := by (unfold State.memWrite; grind [State.setCfg_fixed, guarded_fixed])

theorem State.clockWrite_fixed (s : State) (d : Nat) (data : Bytes) :
    ∀ t, (State.clockWrite s d data) = .ok t → t.fixed = s.fixed := by (unfold State.clockWrite; grind [State.setCfg_fixed, guarded_fixed])

theorem State.applyMode_fixed (s : State) (p : Nat) :
    (State.applyMode s p).fixed = s.fixed := by ((unfold State.applyMode; (try dsimp only); (repeat' split) <;> simp only [State.dropPort_fixed, State.modPort_fixed, State.powerOff_fixed, State.powerOn_fixed]); done)

theorem State.portWrite_fixed (s : State) (p sub : Nat) (data : Bytes) :
    ∀ t, (State.portWrite s p sub data) = .ok t → t.fixed = s.fixed := by (unfold State.portWrite; grind [State.applyMode_fixed, State.setCfg_fixed, guarded_fixed])

theorem State.routeWrite_fixed (s : State) (sub : Nat) (data : Bytes) :
    ∀ t, (State.routeWrite s sub data) = .ok t → t.fixed = s.fixed := by (unfold State.routeWrite; grind [State.setCfg_fixed, guarded_fixed])

theorem State.ranksChanged_fixed (s : State) (p : Nat) :
    (State.ranksChanged s p).fixed = s.fixed := by ((unfold State.ranksChanged; (try dsimp only); (repeat' split) <;> simp only [State.collRanks_fixed, State.secureRanks_fixed]); done)

theorem State.rankSet_fixed (s : State) (p v : Nat) :
    ∀ t, (State.rankSet s p v) = .ok t → t.fixed = s.fixed := by (unfold State.rankSet; grind [State.ranksChanged_fixed, State.setCfg_fixed, guarded_fixed])

theorem State.rankWrite_fixed (s : State) (p sub : Nat) (data : Bytes) :
    ∀ t, (State.rankWrite s p sub data) = .ok t → t.fixed = s.fixed := by (unfold State.rankWrite; grind [State.rankSet_fixed, State.ranksChanged_fixed, State.setCfg_fixed, guarded_fixed])

theorem State.linkWrite_fixed (s : State) (sub : Nat) (data : Bytes) (t : State) (h : s.linkWrite sub data = .ok t) :
    t.fixed = s.fixed := by
  unfold State.linkWrite at h
  dsimp only at h
  have e := guarded_fixed _ _ _ t h
  rw [e]
  split <;> rfl

theorem State.nodeIdApply_fixed (s : State) :
    (State.nodeIdApply s).fixed = s.fixed := by (unfold State.nodeIdApply; (repeat' split) <;> first | rfl | grind | grind [State.fixed])

theorem State.domainEvent_fixed (s : State) :
    (State.domainEvent s).fixed = s.fixed := by ((unfold State.domainEvent; (try dsimp only); (repeat' split) <;> simp only [State.event_fixed, State.qualify_fixed]); done)

theorem State.healthWrite_fixed (s : State) (sub : Nat) (data : Bytes) :
    ∀ t, (State.healthWrite s sub data) = .ok t → t.fixed = s.fixed := by (unfold State.healthWrite; grind [State.ceSweep_fixed, State.domainEvent_fixed, State.setCfg_fixed, guarded_fixed])

theorem State.budgetWrite_fixed (s : State) (sub : Nat) (data : Bytes) :
    ∀ t, (State.budgetWrite s sub data) = .ok t → t.fixed = s.fixed := by (unfold State.budgetWrite; grind [State.modPwr_fixed, State.setCfg_fixed])

/-! ### Trust -/

theorem State.setFwStatus_fixed (s : State) (v : Nat) :
    (State.setFwStatus s v).fixed = s.fixed := by ((unfold State.setFwStatus; (try dsimp only); (repeat' split) <;> simp only [State.modSec_fixed]); done)

theorem State.fwApply_fixed (s : State) :
    (State.fwApply s).2.fixed = s.fixed := by ((unfold State.fwApply; (try dsimp only); (repeat' split) <;> simp only [State.modSec_fixed, State.setFwStatus_fixed]); done)

theorem State.endSessions_fixed (s : State) (p : Session → Bool) :
    (State.endSessions s p).fixed = s.fixed := by rfl

theorem State.setAnchor_fixed (s : State) (index sub : Nat) (who : Who) (data : Bytes) :
    (State.setAnchor s index sub who data).fixed = s.fixed := by ((unfold State.setAnchor; (try dsimp only); (repeat' split) <;> simp only [State.endSessions_fixed, State.remeasure_fixed, State.setCfg_fixed]); done)

theorem State.destroyAll_fixed (s : State) :
    (State.destroyAll s).fixed = s.fixed := by (unfold State.destroyAll; grind [State.destroyNow_fixed, foldl_fixed])

theorem State.keptDefaults_fixed (s : State) :
    (State.keptDefaults s).fixed = s.fixed := by (unfold State.keptDefaults; grind [State.applyMode_fixed, State.dropCfg_fixed, State.fieldChange_fixed, State.shapeWrite_fixed, foldl_fixed])

theorem State.releaseModule_fixed (s : State) :
    (State.releaseModule s).fixed = s.fixed := by ((unfold State.releaseModule; (try dsimp only); (repeat' split) <;> simp only [State.destroyAll_fixed, State.endSessions_fixed, State.keptDefaults_fixed, State.remeasure_fixed]); done)

theorem State.ownerAnchor_fixed (s : State) (session : BitVec 32) (who : Who) (data : Bytes) :
    (State.ownerAnchor s session who data).fixed = s.fixed := by ((unfold State.ownerAnchor; (try dsimp only); (repeat' split) <;> simp only [State.modSec_fixed, State.releaseModule_fixed, State.setAnchor_fixed]); done)

theorem State.readNonce_fixed (s : State) (session : BitVec 32) :
    (State.readNonce s session).2.fixed = s.fixed := by ((unfold State.readNonce; (try dsimp only); (repeat' split) <;> simp only [State.draw_fixed, State.modSec_fixed]); done)

theorem State.debugToken_fixed (s : State) (session : BitVec 32) (token : Bytes) :
    ∀ t, (State.debugToken s session token) = .ok t → t.fixed = s.fixed := by (unfold State.debugToken; grind [State.destroyAll_fixed, State.dropPort_fixed, State.modSec_fixed, foldl_fixed])

theorem State.spdmOn_fixed (s : State) (c : Conn) (f : State → State) (hf : ∀ a0, (f a0).fixed = a0.fixed) :
    (State.spdmOn s c f).fixed = s.fixed := by (unfold State.spdmOn; grind)

theorem State.spdmAgreed_fixed (s : State) (c : Conn) (f : State → State) (hf : ∀ a0, (f a0).fixed = a0.fixed) :
    (State.spdmAgreed s c f).fixed = s.fixed := by (unfold State.spdmAgreed; grind [State.spdmOn_fixed, State.spdmSend_fixed])

theorem State.getVersion_fixed (s : State) (c : Conn) :
    (State.getVersion s c).fixed = s.fixed := by (unfold State.getVersion; grind [State.modSec_fixed, State.spdmOn_fixed, State.spdmSend_fixed])

theorem State.negotiate_fixed (s : State) (c : Conn) (offered : List Nat) :
    (State.negotiate s c offered).fixed = s.fixed := by (unfold State.negotiate; grind [State.modSec_fixed, State.spdmOn_fixed, State.spdmSend_fixed])

theorem State.getDigests_fixed (s : State) (c : Conn) :
    (State.getDigests s c).fixed = s.fixed := by (unfold State.getDigests; grind [State.spdmAgreed_fixed, State.spdmSend_fixed])

theorem State.getCertificate_fixed (s : State) (c : Conn) (offset length : Nat) :
    (State.getCertificate s c offset length).fixed = s.fixed := by (unfold State.getCertificate; grind [State.spdmAgreed_fixed, State.spdmSend_fixed])

theorem State.challenge_fixed (s : State) (c : Conn) (nonce : BitVec 256) :
    (State.challenge s c nonce).fixed = s.fixed := by (unfold State.challenge; grind [State.spdmAgreed_fixed, State.spdmSend_fixed])

theorem State.getMeasurements_fixed (s : State) (c : Conn) (index : Nat) (nonce : BitVec 256) :
    (State.getMeasurements s c index nonce).fixed = s.fixed := by (unfold State.getMeasurements; grind [State.spdmAgreed_fixed, State.spdmSend_fixed])

theorem State.keyExchange_fixed (s : State) (c : Conn) (session : BitVec 32) (key txKey : BitVec 256) :
    (State.keyExchange s c session key txKey).fixed = s.fixed := by (unfold State.keyExchange; grind [State.modSec_fixed, State.spdmAgreed_fixed, State.spdmSend_fixed])

theorem State.modSession_fixed (s : State) (c : Conn) (id : BitVec 32) (f : Session → Session) :
    (State.modSession s c id f).fixed = s.fixed := by ((unfold State.modSession; (try dsimp only); (repeat' split) <;> simp only [State.modSec_fixed]); done)

theorem State.spdmIn_fixed (s : State) (c : Conn) (id : BitVec 32) (f : State → State) (hf : ∀ a0, (f a0).fixed = a0.fixed) :
    (State.spdmIn s c id f).fixed = s.fixed := by (unfold State.spdmIn; grind [State.spdmOn_fixed, State.spdmSend_fixed])

theorem State.encapsulated_fixed (s : State) (c : Conn) (id : BitVec 32) (chain : CertChain) :
    (State.encapsulated s c id chain).fixed = s.fixed := by (unfold State.encapsulated; grind [State.modSession_fixed, State.spdmOn_fixed, State.spdmSend_fixed])

theorem State.opened_fixed (s : State) (c : Conn) (id : BitVec 32) (x : Session) :
    (State.opened s c id x).fixed = s.fixed := by ((unfold State.opened; (try dsimp only); (repeat' split) <;> simp only [State.installKeys_fixed, State.modSession_fixed, State.spdmSend_fixed]); done)

theorem State.spdmFinish_fixed (s : State) (c : Conn) (id : BitVec 32) (signature : Bytes) :
    (State.spdmFinish s c id signature).fixed = s.fixed := by (unfold State.spdmFinish; grind [State.dropPort_fixed, State.endSessions_fixed, State.opened_fixed, State.spdmOn_fixed, State.spdmSend_fixed])

theorem State.keyUpdate_fixed (s : State) (c : Conn) (id : BitVec 32) (key txKey : BitVec 256) :
    (State.keyUpdate s c id key txKey).fixed = s.fixed := by (unfold State.keyUpdate; grind [State.modPort_fixed, State.modSession_fixed, State.spdmIn_fixed, State.spdmSend_fixed])

theorem State.spdmHeartbeat_fixed (s : State) (c : Conn) (id : BitVec 32) :
    (State.spdmHeartbeat s c id).fixed = s.fixed := by (unfold State.spdmHeartbeat; grind [State.modSession_fixed, State.spdmIn_fixed, State.spdmSend_fixed])

theorem State.endSession_fixed (s : State) (c : Conn) (id : BitVec 32) :
    (State.endSession s c id).fixed = s.fixed := by (unfold State.endSession; grind [State.endSessions_fixed, State.spdmIn_fixed, State.spdmSend_fixed])

theorem State.sessionTimeout_fixed (s : State) (id : BitVec 32) :
    (State.sessionTimeout s id).fixed = s.fixed := by ((unfold State.sessionTimeout; (try dsimp only); (repeat' split) <;> simp only [State.endSessions_fixed]); done)

/-! ### Apply -/

theorem State.readValue_fixed (s : State) (session : BitVec 32) (t : Target) (index sub : Nat) :
    (State.readValue s session t index sub).2.fixed = s.fixed := by ((unfold State.readValue; (try dsimp only); (repeat' split) <;> simp only [State.readNonce_fixed]); done)

theorem State.internalEvent_fixed (s : State) :
    (State.internalEvent s).fixed = s.fixed := by ((unfold State.internalEvent; (try dsimp only); (repeat' split) <;> simp only [State.event_fixed]); done)

theorem State.nonceIn_fixed (s : State) (session : BitVec 32) :
    (State.nonceIn s session).fixed = s.fixed := by (unfold State.nonceIn; (repeat' split) <;> first | rfl | grind [State.modSession_fixed, State.readNonce_fixed] | grind [State.modSession_fixed, State.readNonce_fixed, State.fixed])

/-! ### Dict -/

theorem State.respond_fixed (s : State) (r : MdReq) (resp : Bytes) :
    (State.respond s r resp).fixed = s.fixed := by (unfold State.respond; (repeat' split) <;> first | rfl | grind [State.modHif_fixed, State.raiseVec_fixed, State.sendMgmt_fixed] | grind [State.modHif_fixed, State.raiseVec_fixed, State.sendMgmt_fixed, State.fixed])

theorem State.setChan_fixed (s : State) (c : Chan) :
    (State.setChan s c).fixed = s.fixed := by (unfold State.setChan; (repeat' split) <;> first | rfl | grind | grind [State.fixed])

theorem State.refuse_fixed (s : State) (r : MdReq) (o : Opened) (f : Frame) (abort : Nat) :
    (State.refuse s r o f abort).fixed = s.fixed := by (unfold State.refuse; (repeat' split) <;> first | rfl | grind [State.respond_fixed] | grind [State.respond_fixed, State.fixed])

theorem State.refuseAuth_fixed (s : State) (r : MdReq) :
    (State.refuseAuth s r).fixed = s.fixed := by ((unfold State.refuseAuth; (try dsimp only); (repeat' split) <;> simp only [State.refuse_fixed]); done)

theorem State.seen_fixed (s : State) (src : Source) (o : Opened) (accept : Bool) :
    (State.seen s src o accept).fixed = s.fixed := by ((unfold State.seen; (try dsimp only); (repeat' split) <;> simp only [State.modSession_fixed]); done)

theorem State.mdArrive_fixed (s : State) (r : MdReq) :
    (State.mdArrive s r).fixed = s.fixed := by ((unfold State.mdArrive; (try dsimp only); (repeat' split) <;> simp only [State.modFab_fixed, State.refuse_fixed]); done)

theorem State.mgmtIn_fixed (s : State) (k : Packet) :
    (State.mgmtIn s k).fixed = s.fixed := by ((unfold State.mgmtIn; (try dsimp only); (repeat' split) <;> simp only [State.mctpArrive_fixed, State.mdArrive_fixed, State.takeHanded_fixed]); done)

theorem State.routeIn_fixed (s : State) (k : Packet) :
    (State.routeIn s k).fixed = s.fixed := by ((unfold State.routeIn; (try dsimp only); (repeat' split) <;> simp only [State.mdArrive_fixed, State.takeHanded_fixed]); done)

theorem State.stagedTimeout_fixed (s : State) (src : Source) (sid : BitVec 32) :
    (State.stagedTimeout s src sid).fixed = s.fixed := by rfl


/-! ### COMMIT_SVN, and the commands that reach it -/

/-- From one state to another: the queue and the ordering code stay, and the fused SVN neither falls nor passes 64. -/
def State.kept (s t : State) : Prop :=
  t.pending = s.pending ∧ t.variant = s.variant ∧ s.sec.svn ≤ t.sec.svn ∧ (s.sec.svn ≤ 64 → t.sec.svn ≤ 64)

theorem State.kept_of_fixed {s t : State} (h : t.fixed = s.fixed) : s.kept t := by
  unfold State.fixed at h
  simp only [Prod.mk.injEq] at h
  obtain ⟨h1, h2, h3⟩ := h
  exact ⟨h1, h2, h3.ge, fun h => h3 ▸ h⟩

theorem State.kept_trans {s t u : State} (h : s.kept t) (k : t.kept u) : s.kept u :=
  ⟨k.1.trans h.1, k.2.1.trans h.2.1, h.2.2.1.trans k.2.2.1, fun e => k.2.2.2 (h.2.2.2 e)⟩

theorem State.kept_refl (s : State) : s.kept s := State.kept_of_fixed rfl

theorem State.commitSvn_kept (s : State) : s.kept s.commitSvn.2 := by
  unfold State.commitSvn
  dsimp only
  split
  · exact s.kept_refl
  · rename_i h
    simp only [Bool.or_eq_true, decide_eq_true_eq, not_or, not_lt] at h
    exact ⟨rfl, rfl, le_max_left _ _, fun e => max_le e h.2⟩

theorem State.answer_kept (s : State) (m : WriteM) (h : ∀ t, m = .ok t → t.fixed = s.fixed) : (s.answer m).2.fixed = s.fixed := by
  unfold State.answer
  split
  · exact h _ rfl
  · dsimp only; split
    · rfl
    · rfl

theorem State.securityWrite_kept (s : State) (who : Who) (session : BitVec 32) (sub : Nat) (data : Bytes) :
    s.kept (s.securityWrite who session sub data).2 := by
  unfold State.securityWrite
  split
  · exact State.kept_of_fixed (s.ownerAnchor_fixed session who data)
  · exact State.kept_of_fixed (s.answer_kept _ (s.debugToken_fixed session data))
  · exact State.kept_of_fixed rfl
  · split
    · exact State.kept_of_fixed s.fwApply_fixed
    · exact s.commitSvn_kept
  · exact State.kept_of_fixed (s.setAnchor_fixed _ _ _ data)

theorem State.applyWrite_kept (s : State) (who : Who) (session : BitVec 32) (t : Target) (index sub : Nat) (data : Bytes) :
    s.kept (s.applyWrite who session t index sub data).2 := by
  unfold State.applyWrite
  dsimp only
  split
  all_goals first
    | exact State.kept_of_fixed rfl
    | exact s.securityWrite_kept who session sub data
    | exact State.kept_of_fixed (s.setAnchor_fixed _ _ _ data)
    | (refine State.kept_of_fixed (s.answer_kept _ ?_)
       first
       | exact s.linkWrite_fixed _ _
       | exact s.budgetWrite_fixed _ _
       | exact s.roleMaskWrite_fixed _ _
       | exact s.clockWrite_fixed _ _
       | exact s.shapeWrite_fixed _
       | exact s.partCommand_fixed _ _
       | exact s.queueWrite_fixed _ _ _
       | exact s.memWrite_fixed _ _ _
       | exact s.portWrite_fixed _ _ _
       | exact s.routeWrite_fixed _ _
       | exact s.rankWrite_fixed _ _ _
       | exact s.healthWrite_fixed _ _
       | (split
          · first | exact s.frameWrite_fixed _ _ | exact s.ctxCommand_fixed _ _
          · first | exact s.slotTableWrite_fixed _ _ | exact s.ctxWrite_fixed _ _ _))

theorem State.writeEntry_kept (s : State) (who : Who) (session : BitVec 32) (fm : Bool) (index sub : Nat) (data : Bytes) :
    s.kept (s.writeEntry who session fm index sub data).2 := by
  unfold State.writeEntry
  split
  · exact s.kept_refl
  · split
    · exact s.kept_refl
    · dsimp only; split
      · exact s.kept_refl
      · exact s.applyWrite_kept who session _ index sub data

theorem State.latch_fixed (r : Nat × State) : (State.latch r).fixed = r.2.fixed := rfl

theorem State.writeBy_kept (s : State) (who : Who) (index sub : Nat) (data : Bytes) : s.kept (s.writeBy who index sub data) := by
  unfold State.writeBy
  split
  · exact State.kept_trans (s.writeEntry_kept who 0 false index sub data) (State.kept_of_fixed (State.latch_fixed _))
  · exact s.kept_refl

theorem State.writeIn_kept (s : State) (session : BitVec 32) (index sub : Nat) (data : Bytes) : s.kept (s.writeIn session index sub data) := by
  unfold State.writeIn
  split
  · exact s.kept_refl
  · split
    · exact State.kept_of_fixed rfl
    · refine State.kept_trans (State.kept_of_fixed ?_) (State.kept_trans (State.writeEntry_kept _ _ _ _ _ _ _) (State.kept_of_fixed (State.latch_fixed _)))
      rfl

theorem State.moduleResetRow_kept (s : State) (who : Who) : s.kept (s.moduleResetRow who) := by
  unfold State.moduleResetRow
  dsimp only
  split
  · exact State.kept_trans (s.writeBy_kept who 0x2000 2 [0x5A]) (State.kept_of_fixed rfl)
  · exact s.writeBy_kept who 0x2000 2 [0x5A]

/-! ### Dictionary requests -/

theorem State.perform_kept (s : State) (r : MdReq) (o : Opened) (c : Chan) (f : Frame) : s.kept (s.perform r o c f).state := by
  have hr : (s.doRead o c f).state.fixed = s.fixed := by
    unfold State.doRead
    split
    · rfl
    · unfold State.readData
      split
      · rfl
      · split
        · rfl
        · have h := fun t => s.readValue_fixed o.sid t f.index f.sub
          dsimp only
          repeat' split
          all_goals first | exact h _ | rfl
  unfold State.perform
  split
  · exact s.kept_refl
  · split
    · exact s.kept_refl
    · split
      · exact State.kept_of_fixed hr
      · split
        · exact s.writeEntry_kept _ _ _ _ _ _
        · split
          · unfold State.doBegin; repeat' split
            all_goals exact s.kept_refl
          · split
            · unfold State.doPart; repeat' split
              all_goals exact s.kept_refl
            · unfold State.doEnd
              split
              · exact s.kept_refl
              · dsimp only; split
                · exact s.writeEntry_kept _ _ _ _ _ _
                · exact s.kept_refl

theorem reply_fixed (r : MdReq) (o : Opened) (f : Frame) (d : Done) : (reply r o f d).fixed = d.state.fixed := by
  unfold reply
  exact (State.respond_fixed _ _ _).trans (State.setChan_fixed _ _)

theorem State.serve_kept (s : State) (r : MdReq) (o : Opened) (f : Frame) : s.kept (s.serve r o f) := by
  have hs : ∀ a, (s.seen r.src o a).fixed = s.fixed := fun a => s.seen_fixed r.src o a
  unfold State.serve
  dsimp only
  split
  · exact State.kept_of_fixed ((State.refuse_fixed _ _ _ _ _).trans (hs _))
  · split
    · exact State.kept_of_fixed ((reply_fixed _ _ _ _).trans (hs _))
    · exact State.kept_trans (State.kept_of_fixed (hs true)) (State.kept_trans (State.perform_kept _ _ _ _ _) (State.kept_of_fixed (reply_fixed _ _ _ _)))

theorem State.take_kept (s t : State) (r : MdReq) (op : Nat) (ht : t.fixed = s.fixed) : s.kept (s.take t r op) := by
  unfold State.take
  split
  · split
    · exact State.kept_of_fixed ((State.mctpArrive_fixed _ _ _).trans ht)
    · exact s.kept_refl
  · split
    · split
      · exact State.kept_of_fixed ((t.refuseAuth_fixed r).trans ht)
      · exact s.kept_refl
    · dsimp only
      split
      · exact s.kept_refl
      · split
        · exact State.kept_of_fixed ((State.respond_fixed _ _ _).trans ((t.seen_fixed r.src _ _).trans ht))
        · exact State.kept_trans (State.kept_of_fixed ht) (t.serve_kept r _ _)

theorem State.arrive_fixed (s : State) (src : Source) (w : Bytes) (t : State) (m : Option MdReq) (h : s.arrive src w = some (t, m)) :
    t.fixed = s.fixed := by
  unfold State.arrive at h
  split at h
  · dsimp only at h; split at h
    · cases h; rfl
    · cases h
  · split at h
    · cases h
    · split at h
      · cases h; rfl
      · cases h; rfl
  · split at h
    · split at h
      · cases h; rfl
      · cases h
    · cases h

theorem State.dictRow_kept (s : State) (op : Nat) (src : Source) (w : Bytes) : s.kept (s.dictRow op src w) := by
  unfold State.dictRow
  split
  · exact s.kept_refl
  · split
    · exact s.kept_refl
    · rename_i e; exact State.kept_of_fixed (s.arrive_fixed src w _ _ e)
    · rename_i e; exact s.take_kept _ _ op (s.arrive_fixed src w _ _ e)

end Sys2Proof.Machine
end

