-- ==== Sys2Proof/WellFormed.lean ====
section
/-! DEFINITION. Sys2Proof/WellFormed.lean: the ranges the operands of a command lie in: contexts and queues by R28, units by R12,
packet fields by R286, ports by R280. -/
namespace Sys2Proof

/-- A role is bound to one of the partitions (R373). -/
def Who.wf (w : Who) : Bool := w.part < 8

def Source.wf : Source → Bool
  | .host h => h < 2
  | .field addr sport dport => addr < 2 ^ 128 && sport < 65536 && dport < 65536
  | .fabric dev part => dev < 2 ^ 18 && part < 8

def Conn.wf : Conn → Bool
  | .dict src => src.wf
  | .port p => p < 32

def Asked.wf : Asked → Bool
  | .groupKey g => g < 512
  | .port p => p < 32

def Sensor.wf : Sensor → Bool
  | .dieTemp d => d < 9
  | .stackTemp s => s < 24
  | .domTemp n | .domVolt n | .domCurr n => n < 186

/-- The fields of R286 in their widths. -/
def Packet.wf (k : Packet) : Bool :=
  k.dstId < 2 ^ 18 && k.dstPart < 8 && k.tc < 4 && k.type < 256 && k.srcId < 2 ^ 18 && k.srcPart < 8 && k.hops < 64 && k.dim < 8 &&
    k.dstRank < 2 ^ 18 && k.flow < 65536 && k.payload.length ≤ 4096

/-- The operands of a command lie in their ranges. -/
def Instr.wf : Instr → Bool
  | .sqTail h g q _ | .cqHead h g q _ =>
    h < 2 && g < 512 && q < 8
  | .hostSignal h g _ =>
    h < 2 && g < 512
  | .mboxDoorbell h buf _ =>
    h < 2 && buf.data.length ≤ 2048
  | .overrunClear h | .moduleTimeLo h | .perstAssert h | .hostLinkDown h | .hostLinkUp h _ _ | .perstRelease h
  | .msixEnable h =>
    h < 2
  | .descriptorTake g q | .descriptorStart g q | .completionRecordWrite g q | .intHoldoffExpiry g q =>
    g < 512 && q < 8
  | .waitSatisfied g q seq | .waitTimeout g q seq | .descriptorFinish g q seq | .moveCopy g q seq | .moveFill g q seq
  | .moveZero g q seq | .check g q seq | .gemm g q seq | .gemmBwd g q seq | .dist g q seq | .convFwd g q seq
  | .convBwdData g q seq | .convBwdWeight g q seq | .haloWaitTimeout g q seq | .convDw g q seq | .maxPool g q seq
  | .avgValid g q seq | .avgAll g q seq | .crop g q seq | .attnFwd g q seq | .attnBwd g q seq | .kvAppend g q seq
  | .truncate g q seq | .setPriority g q seq | .boundary g q seq | .kvFree g q seq | .vec g q seq | .layer g q seq
  | .rms g q seq | .stats g q seq | .splitSum g q seq | .stashPut g q seq | .stashGet g q seq | .recipe g q seq
  | .uniform g q seq | .normal g q seq | .bits g q seq | .dropout g q seq | .noiseAdd g q seq | .stepCommit g q seq
  | .stepRepeat g q seq | .allReduce g q seq | .reduceScatter g q seq | .allGather g q seq | .broadcast g q seq
  | .secure g q seq | .restore g q seq | .fill g q seq | .register g q seq | .sync g q seq | .syncClear g q seq
  | .nop g q seq | .stragglerTimeout g q seq =>
    g < 512 && q < 8 && seq < 2 ^ 64
  | .workTileSelect core | .workTileEnd core | .watchdog core | .droopCalibration core | .calibrationStepEnd core _
  | .spareCoreTest core _ =>
    core < 144
  | .pipGrant die =>
    die < 8
  | .kvAllocResume g | .kvBufferResume g | .groupKeyRequest g _ | .teardownComplete g
  | .secureVoteTimeout g =>
    g < 512
  | .specReplayStart g slice =>
    g < 512 && slice < 8
  | .specReplayDone g handle =>
    g < 512 && handle < 16384
  | .tileReread g q seq va _ =>
    g < 512 && q < 8 && seq < 2 ^ 64 && va < 2 ^ 57
  | .prefetchIssue d g va _ =>
    d < 8 && g < 512 && va < 2 ^ 57
  | .hotChannelWindow p _ | .activateComplete p | .partResetComplete p _ | .destroyComplete p | .frameStart p
  | .slotBoundary p =>
    p < 8
  | .phyRetrain stack channel =>
    stack < 24 && channel < 32
  | .collData pkt | .collResult pkt | .collSparse pkt | .collSign pkt | .collBs16 pkt | .collMeta pkt
  | .collBs16Result pkt | .collSignature pkt | .collMissing pkt | .mgmtPacket pkt | .routePacket pkt =>
    pkt.wf
  | .secureVoteMessage g pkt | .parityPacket g pkt | .holderDone g pkt | .fillPacket g pkt | .pointExchange g pkt =>
    g < 512 && pkt.wf
  | .quietIntervalExpiry | .maxIntervalExpiry | .ceWindowEnd | .nodeIdApply | .debugNonce _ | .debugToken _ _
  | .ownerAnchor _ _ | .sessionTimeout _ | .powerGood _ | .powerGoodLoss | .resetNAssert | .resetNRelease
  | .bootComplete _ _ _ | .pipDivision | .rampInterval | .rngHealthFail _ | .fieldPortReady | .hotSwapOpen =>
    true
  | .hbmCorrectedError onDie unit =>
    unit < (if onDie then 8 else 24)
  | .domainEvent who | .shapeWrite who _ | .pipBudgetWrite who _ | .moduleReset who | .fwApply who | .commitSvn who =>
    who.wf
  | .flitReceive port flit =>
    port < 32 && flit.bytes.length == 256
  | .packetReceive port | .laneReady port | .switch port | .keyPhase port | .heartbeatSend port | .peerSilent port
  | .calWindowOpen port | .calWindowEnd port _ | .lossOfSignal port | .portRetrain port | .portAuthComplete port _
  | .linkKeyRollover port _ | .ethRetryTimeout port | .lsLocked port =>
    port < 32
  | .nak port seq =>
    port < 32 && seq < 4096
  | .heartbeat port dev _ =>
    port < 32 && dev < 2 ^ 18
  | .laneFailure port lane =>
    port < 32 && lane < 5
  | .portTrained port peerId peerPort =>
    port < 32 && peerId < 2 ^ 18 && peerPort < 32
  | .portModeWrite who port mode =>
    who.wf && port < 32 && mode < 256
  | .rankSet who p _ | .partCreate who p | .partActivate who p | .partReset who p | .partDestroy who p
  | .slotTableWrite who p _ =>
    who.wf && p < 8
  | .read src _ | .write src _ | .writeBegin src _ | .writePart src _ | .writeEnd src _ | .cancel src _
  | .stagedTimeout src _ =>
    src.wf
  | .configWrite who index sub _ =>
    who.wf && index < 2 ^ 16 && sub < 256
  | .ctxCreate who g | .ctxTeardown who g | .invalidate who g | .stashTableWrite who g _ _ =>
    who.wf && g < 512
  | .queueConfigWrite who g q _ =>
    who.wf && g < 512 && q < 8
  | .roleMaskWrite who d _ | .coreMhzWrite who d _ =>
    who.wf && d < 8
  | .kvConfigWrite who g sub _ =>
    who.wf && g < 512 && 0x30 ≤ sub && sub ≤ 0x36
  | .anchorWrite who index sub _ =>
    who.wf && ((index == 0x5800 && 2 ≤ sub && sub ≤ 4) || (0x5810 ≤ index && index < 0x5818 && sub == 1))
  | .getVersion c | .getCapabilities c | .negotiateAlgorithms c _ | .getDigests c | .getCertificate c _ _ | .challenge c _
  | .keyExchange c _ _ _ | .spdmFinish c _ _ | .keyUpdate c _ _ _ | .spdmHeartbeat c _ | .endSession c _
  | .encapsulatedRequest c _ _ =>
    c.wf
  | .spdmResponse what _ _ _ =>
    what.wf
  | .getMeasurements c index _ =>
    c.wf && index < 2 ^ 16
  | .builtInTestDone d _ _ | .thermalCapStep d | .dieCacheParity d _ =>
    d < 8
  | .stackTrained stk _ | .queuedWritesComplete stk =>
    stk < 24
  | .sensorSample sensor _ _ | .sensorTimeout sensor =>
    sensor.wf
  | .thermalShutdown onStack unit =>
    unit < (if onStack then 24 else 9)
  | .droopTrip dale | .droopStretchEnd dale _ =>
    dale < 214
  | .domainOn n _ =>
    n < 186
  | .colOverrun sender receiver =>
    sender < 214 && receiver < 214
  | .colTimeout requester far | .colHoldTimeout requester far =>
    requester < 214 && far < 214
  | .coreFault core cause =>
    core < 144 && cause < 256
  | .regulatorPhaseFailure domain _ =>
    domain < 186
  | .dieHubFault d unit =>
    d < 8 && unit < 16
  | .mcFault stack kind =>
    stack < 24 && kind < 4
  | .d2dLinkFault link cause =>
    link < 10 && cause < 256
  | .d2dLinkRetrained link _ =>
    link < 10

end Sys2Proof
end

