-- ==== Sys2Proof/Tests/Slice0.lean ====
section
/-! SUPPORT. Sys2Proof/Tests/Slice0.lean: the model's own tests: ill-formed commands refused, small runs of one command with
results worked out from the spec, and for each statement with hypotheses a state that meets them (witness_<statement>). -/
namespace Sys2Proof.Tests
set_option Elab.async false
open Sys2Proof.Machine

/-! ### The states the tests start from -/

/-- The state a command answers; the reset state where it stops. -/
def after (i : Instr) (s : State) : State :=
  match exec i s with
  | .next t => t
  | _ => State.reset

/-- Everything powered, tested, trained and ON, the dictionary served, both host interfaces ready, and time running. -/
def up : State :=
  { pwr := { good := true, phase := .serving, time := 5000000000, diePass := 0xFF, stackReady := 0xFFFFFF, ledgerOn := true,
             fieldReady := true, rampedAt := some 500000, domains := (List.range 186).map fun n => (n, { st := 2 }) }
    hifs := [(0, { ready := true, linkUp := true, msixOn := true }), (1, { ready := true, linkUp := true })] }

/-- A run of one descriptor, waiting over and work not done. -/
def theRun (raw block : Bytes) : Run := { seq := 1, raw := raw, block := block, waitDone := true }

/-- Translations held by the test context: 64 KiB pages 1 and 2, readable and writable, onto the same addresses of LOCAL. -/
def pages : List (Nat × BitVec 64) := [(1, 0x0300000000010000), (2, 0x0300000000020000)]

/-- One partition READY, its context 0 ACTIVE with queue 0 RUNNING. -/
def live (u : Queue) : State :=
  { up with parts := [(0, { st := .ready, origin := 1000 })]
            ctxs := [(0, { st := .active, queues := [(0, { u with st := .running })], tlb := pages })] }

/-- The same with one descriptor ready to be carried out. -/
def ready (raw block : Bytes) : State :=
  live { tail := 1, takenSeq := 1, startedSeq := 1, runs := [theRun raw block] }

/-- Every descriptor the tests use meets Ready. -/
theorem ready_of (raw block : Bytes) : Ready 0 0 1 (ready raw block) (theRun raw block) :=
  ⟨rfl, rfl, rfl, rfl, rfl, rfl⟩

/-- The work tile idx of queue 0's descriptor 1 in context 0, started at partition time 0. -/
def theTile (idx : Nat) : TileRun := { g := 0, q := 0, seq := 1, idx := idx, base := 6, cost := 6, mhz := 1100, askedAt := 0, takenAt := 0, startAt := some 0 }

/-- A run whose work tile idx core 3 has taken. -/
def tileRun (idx tiles : Nat) (raw block : Bytes) : Run :=
  { theRun raw block with tiles := tiles, nextTile := idx + 1, onCores := 1 }

/-- The work tile idx of one descriptor on core 3. -/
def working (idx tiles : Nat) (raw block : Bytes) : State :=
  { live { tail := 1, takenSeq := 1, startedSeq := 1, runs := [tileRun idx tiles raw block] } with
    cores := [(3, { tile := some (theTile idx) })], dies := [(0, { granted := 10 })] }

/-- Every work tile the tests use meets OnCore. -/
theorem onCore_of (idx tiles : Nat) (raw block : Bytes) :
    OnCore 0 0 1 (working idx tiles raw block) (tileRun idx tiles raw block) idx :=
  ⟨rfl, (fun h => nomatch (show CtxState.active = CtxState.free from h)), rfl, rfl⟩

/-- A 64-byte descriptor: its opcode, and fields as (offset, length, value). -/
def desc (opcode : Nat) (fields : List (Nat × Nat × Nat)) : Bytes :=
  fields.foldl (fun d f => putBytes d f.1 (leBytes f.2.1 f.2.2)) (leBytes 1 opcode ++ zeros 63)

/-- A state with bytes at an address of the test context. -/
def poke (s : State) (a : Nat) (bs : Bytes) : State := s.hbmWrite 0 a bs

def peek (s : State) (a n : Nat) : Bytes := s.hbmRead 0 a n

def owner : Who := { role := .owner }

/-! ### Ill-formed commands, one for each check of Instr.wf -/

def pkt0 : Packet :=
  { dstId := 0, dstPart := 0, tc := 1, type := 1, srcId := 1, srcPart := 0, hops := 0, dim := 0, dstRank := 0, flow := 0,
    offset := 0, bundleSeq := 0, checkOk := true, payload := [] }

theorem test_wf_accepts :
    ([.sqTail 1 511 7 0, .mboxDoorbell 1 ⟨zeros 28, 0⟩ 0, .workTileSelect 143, .gemm 511 7 5, .phyRetrain 23 31, .collData pkt0,
      .flitReceive 31 ⟨zeros 256, none⟩, .nak 31 4095, .laneFailure 31 4, .configWrite owner 0xFFFF 255 [], .hbmCorrectedError true 7,
      .kvConfigWrite owner 511 0x30 0, .anchorWrite owner 0x5817 1 [], .getVersion (.dict (.field 5 6 65535)), .sensorTimeout (.domCurr 185),
      .droopTrip 213, .d2dLinkFault 9 0, .mcFault 23 3, .read (.fabric (2 ^ 18 - 1) 7) []] : List Instr).all Instr.wf = true := by
  decide +kernel

theorem test_wf_refuses_queues :
    ([.sqTail 2 0 0 0, .sqTail 0 512 0 0, .sqTail 0 0 8 0, .hostSignal 0 512 0, .mboxDoorbell 0 ⟨zeros 2049, 0⟩ 0, .overrunClear 2,
      .descriptorTake 512 0, .descriptorTake 0 8, .gemm 0 0 (2 ^ 64), .sync 0 8 0, .kvAllocResume 512, .specReplayStart 0 8,
      .specReplayDone 0 16384, .tileReread 0 0 0 (2 ^ 57) 0] : List Instr).all (fun i => !i.wf) = true := by decide +kernel

theorem test_wf_refuses_units :
    ([.workTileSelect 144, .pipGrant 8, .prefetchIssue 8 0 0 true, .hotChannelWindow 8 [], .phyRetrain 24 0, .phyRetrain 0 32,
      .hbmCorrectedError true 8, .hbmCorrectedError false 24, .builtInTestDone 8 true 0, .stackTrained 24 true,
      .sensorSample (.dieTemp 9) 0 0, .sensorSample (.stackTemp 24) 0 0, .sensorSample (.domVolt 186) 0 0, .thermalShutdown false 9,
      .thermalShutdown true 24, .droopTrip 214, .domainOn 186 true, .colOverrun 214 0, .colTimeout 0 214, .coreFault 144 0,
      .coreFault 0 256, .regulatorPhaseFailure 186 0, .dieHubFault 0 16, .mcFault 0 4, .d2dLinkFault 10 0,
      .d2dLinkRetrained 10 true] : List Instr).all (fun i => !i.wf) = true := by decide +kernel

theorem test_wf_refuses_packets :
    ([{ pkt0 with dstId := 2 ^ 18 }, { pkt0 with dstPart := 8 }, { pkt0 with tc := 4 }, { pkt0 with type := 256 },
      { pkt0 with srcId := 2 ^ 18 }, { pkt0 with srcPart := 8 }, { pkt0 with hops := 64 }, { pkt0 with dim := 8 },
      { pkt0 with dstRank := 2 ^ 18 }, { pkt0 with flow := 65536 }, { pkt0 with payload := zeros 4097 }] : List Packet).all
      (fun k => !(Instr.collData k).wf && !(Instr.holderDone 0 k).wf) = true := by decide +kernel

theorem test_wf_refuses_ports_and_entries :
    ([.holderDone 512 pkt0, .flitReceive 32 ⟨zeros 256, some 0⟩, .flitReceive 0 ⟨zeros 255, some 0⟩, .packetReceive 32, .nak 32 0, .nak 0 4096,
      .heartbeat 0 (2 ^ 18) 0, .laneFailure 0 5, .portTrained 0 (2 ^ 18) 0, .portTrained 0 0 32, .portModeWrite owner 32 0,
      .portModeWrite owner 0 256, .partCreate { role := .tenant, part := 8 } 0, .partCreate owner 8, .read (.host 2) [],
      .read (.field (2 ^ 128) 0 0) [], .read (.field 0 65536 0) [], .read (.field 0 0 65536) [], .read (.fabric (2 ^ 18) 0) [], .read (.fabric 0 8) [], .configWrite owner 65536 0 [],
      .configWrite owner 0 256 [], .ctxCreate owner 512, .queueConfigWrite owner 0 8 [], .roleMaskWrite owner 8 0,
      .kvConfigWrite owner 0 0x2F 0, .kvConfigWrite owner 0 0x37 0, .anchorWrite owner 0x5800 1 [], .anchorWrite owner 0x5818 1 [],
      .spdmResponse (.groupKey 512) .error none [], .spdmResponse (.port 32) .error none [], .getVersion (.port 32), .getMeasurements (.port 0) 65536 0] : List Instr).all (fun i => !i.wf) = true := by decide +kernel

/-! ### The block as a whole -/

theorem test_step_takes_the_front :
    (match step { State.reset with pending := [.overrunClear 0, .nodeIdApply] } with
     | .next t => t.pending
     | _ => []) = [.nodeIdApply] := by decide +kernel

/-- The table gives its rows no bits, so no word spells a command. -/
theorem test_no_word_spells_a_command (nbits w : Nat) :
    decodeTableWord nbits w = none ∧ State.withFetchWord State.reset nbits w = State.reset := ⟨rfl, rfl⟩

theorem witness_IdleStep :
    (State.reset.pending = [] ∧ State.reset.pwr.good = false ∧ State.reset.pwr.resetAt = none) ∧
    (up.pending = [] ∧ up.pwr.good = true ∧ up.pwr.resetAt = none) ∧
    (let s := { up with pwr := { up.pwr with resetAt := some 5000000002 } }
     s.pwr.good = true ∧ s.pwr.time + 1 < 5000000002) ∧
    (let s := { up with pwr := { up.pwr with resetAt := some 5000000001 } }
     s.pwr.good = true ∧ 5000000001 ≤ s.pwr.time + 1) := by decide +kernel

theorem witness_EveryStepKeepsMemory : State.reset.memOk ∧ ∃ t, step State.reset = .next t :=
  ⟨by decide +kernel, _, rfl⟩

theorem witness_SvnNeverFalls : State.reset.sec.svn ≤ 64 ∧ ∃ t, step State.reset = .next t :=
  ⟨by decide +kernel, _, rfl⟩

theorem witness_ExecKeepsQueue : ∃ t, exec (.overrunClear 0) up = .next t := ⟨_, rfl⟩

/-- From 0xF000 on an access answers LOCKED, and NO_ENTRY once debug is unlocked; the block goes on. -/
theorem test_debug_range :
    up.serving = true ∧ (after (.configWrite owner 0xF000 0 []) up).lastAbort = abLocked ∧
    (after (.configWrite owner 0xF000 0 []) { up with sec := { lock := true } }).lastAbort = abNoEntry := by decide +kernel

/-- Bytes written to HBM read back, and their whole tile's sum matches again. -/
theorem test_hbm_write :
    let s := { up with sumDelta := [(1, 7), (2, 9)] }.hbmWrite 0 4096 (1 :: zeros 4094 ++ [2])
    s.hbmRead 0 4096 1 = [1] ∧ s.hbmRead 0 8191 2 = [2, 0] ∧ s.tileDelta 1 = 0 ∧ s.tileDelta 2 = 9 := by decide +kernel

/-! ### Doorbells, the BAR0 page and the queues -/

/-- Ring of 64 (the default RING_LOG2): 64 ahead of FINISHED_SEQ is accepted, 65 rejected with cause 2, a step back with cause 1. -/
theorem test_sq_tail :
    let s := live { tail := 2 ^ 32 + 5, finished := 2 ^ 32 + 3 }
    ((after (.sqTail 0 0 0 67) s).queue 0 0).tail = 2 ^ 32 + 67 ∧
    ((after (.sqTail 0 0 0 68) s).queue 0 0).lastReject = 2 ∧ ((after (.sqTail 0 0 0 68) s).queue 0 0).rejects = 1 ∧
    ((after (.sqTail 0 0 0 4) s).queue 0 0).lastReject = 1 ∧ ((after (.sqTail 0 0 0 4) s).queue 0 0).tail = 2 ^ 32 + 5 ∧
    ((after (.sqTail 0 0 0 5) s).queue 0 0).rejects = 0 := by decide +kernel

theorem test_cq_head :
    let s := live { cqHead := 1, written := 3 }
    ((after (.cqHead 0 0 0 3) s).queue 0 0).cqHead = 3 ∧ ((after (.cqHead 0 0 0 4) s).queue 0 0).lastReject = 4 ∧
    ((after (.cqHead 0 0 0 0) s).queue 0 0).lastReject = 3 := by decide +kernel

/-- Operation 1 adds 0x10 to counter 5; operation 4 is no operation and counts a reject. -/
theorem test_host_signal :
    (after (.hostSignal 0 0 0x10050010) (live {})).counter 0 5 = 0x10 ∧
    ((after (.hostSignal 0 0 0x40050010) (live {})).ctx 0).signalRejects = 1 := by decide +kernel

theorem test_bar0 :
    let t := after (.mboxDoorbell 0 ⟨zeros 28, 0x10007⟩ (0x80000000 + 28)) up
    (t.hif 0).busy = true ∧ (t.hif 0).reqLen = 28 ∧ (t.hif 0).ansInt = true ∧ (t.hif 0).ansVec = 7 ∧ ((after (.mboxDoorbell 0 ⟨[], 0⟩ 28) t).hif 0).overrun = true ∧
    ((after (.overrunClear 0) (after (.mboxDoorbell 0 ⟨[], 0⟩ 28) t)).hif 0).overrun = false ∧
    ((after (.mboxDoorbell 0 ⟨zeros 28, 0⟩ 28) up).hif 0).busy = false ∧
    ((after (.moduleTimeLo 0) up).hif 0).readOut = BitVec.ofNat 32 5000000000 ∧ ((after (.moduleTimeLo 0) up).hif 0).timeHi = 1 := by
  decide +kernel

theorem test_msix_enable :
    let s := { up with hifs := [(0, { ready := true, heldInts := [7] })] }
    ((after (.msixEnable 0) s).hif 0).raised = [7] ∧ ((after (.msixEnable 0) s).hif 0).heldInts = [] := by decide +kernel

/-- The five levels of R327 down to a 64 KiB page: VA 0x123_0000 at DPA 0x50_0000. -/
def mapped : State :=
  let entry (a v : Nat) (s : State) : State := s.hbmWrite 0 a (leBytes 8 v)
  let table (a : Nat) : Nat := a + 1
  let s := (live { tail := 1 }).setCfg 0x3600 6 (leBytes 8 0x10000)
  let s := s.modCtx 0 fun c => { c with tlb := [] }
  (entry 0x10000 (table 0x11000) ∘ entry 0x11000 (table 0x12000) ∘ entry 0x12000 (table 0x13000) ∘
    entry (0x13000 + 8 * 9) (table 0x14000) ∘ entry (0x14000 + 8 * 3) (3 * 2 ^ 56 + 0x500000 + 2)) s

theorem test_five_levels :
    (mapped.xlate 0 0x1230004).map (·.addr) = some 0x500004 ∧ (mapped.xlate 0 0x1240000) = none ∧
    (mapped.readVa 0 0x1230000 2 = .ok [0, 0]) := by decide +kernel

/-- Descriptor 1 is read from slot 0 of the ring at RING_BASE. -/
theorem test_descriptor_take :
    let d := desc 0x51 [(12, 4, 0xABCD)]
    let s := (poke (live { tail := 1 }) 0x10000 d).setCfg 0x3200 1 (leBytes 32 (0x10000 + 6 * 2 ^ 128))
    ((after (.descriptorTake 0 0) s).queue 0 0).taken = [{ seq := 1, raw := d }] ∧
    ((after (.descriptorTake 0 0) (live { tail := 1 })).ctx 0).st = .faulted := by decide +kernel

/-- A NOP starts; a descriptor with SPECULATIVE set is a job fault and its run ends. -/
theorem test_descriptor_start :
    let q (d : Bytes) : State := live { tail := 1, takenSeq := 1, taken := [{ seq := 1, raw := d }] }
    ((after (.descriptorStart 0 0) (q (desc 0x51 []))).queue 0 0).startedSeq = 1 ∧
    (((after (.descriptorStart 0 0) (q (desc 0x51 []))).run 0 0 1).map (·.seq)) = some 1 ∧
    ((after (.descriptorStart 0 0) (q (desc 0x51 [(1, 1, 8)]))).ctx 0).st = .faulted ∧
    ((after (.descriptorStart 0 0) (q (desc 0x51 [(16, 1, 1)]))).ctx 0).faultStatus = stBadField := by decide +kernel

/-- A NOP that waits for counter 5 to reach 7 modulo 2^32. -/
def waiting (v : BitVec 32) (headAt : Nat) : State :=
  (live { tail := 1, takenSeq := 1, startedSeq := 1,
          runs := [{ seq := 1, raw := desc 0x51 [(2, 2, 0x1005), (4, 4, 7)], headAt := headAt }] }).setCounter 0 5 v

theorem witness_WaitsEnd :
    ([waiting 7 0, waiting 6 0, waiting 6 5000000000].all fun s =>
      (s.run 0 0 1).any fun r => (s.ctx 0).st == .active && !r.waitDone && (s.queue 0 0).mayWait r && !(s.ctx 0).held) = true ∧
    ((waiting 7 0).waitOk 0 (desc 0x51 [(2, 2, 0x1005), (4, 4, 7)]) = true) ∧
    ((waiting 6 0).waitOk 0 (desc 0x51 [(2, 2, 0x1005), (4, 4, 7)]) = false) ∧
    ((after (.waitSatisfied 0 0 1) (waiting 0x80000006 0)).run 0 0 1).map (·.waitDone) = some true ∧
    ((after (.waitSatisfied 0 0 1) (waiting 0x80000007 0)).run 0 0 1).map (·.waitDone) = some false ∧
    ((after (.waitTimeout 0 0 1) ((waiting 6 0).modPwr fun w => { w with time := 10000001000 })).ctx 0).faultStatus = 0x18 ∧
    ((after (.waitTimeout 0 0 1) ((waiting 6 0).modPwr fun w => { w with time := 10000000999 })).ctx 0).st = .active := by
  decide +kernel

/-- Signal operation 3 ORs its operand into counter 2 as the descriptor finishes, once. -/
theorem test_descriptor_finish :
    let d := desc 0x51 [(1, 1, 1), (8, 2, 0x3002), (10, 2, 6), (12, 4, 0x77)]
    let s := (live { tail := 1, startedSeq := 1, runs := [{ theRun d [] with ran := true }] }).setCounter 0 2 1
    let t := after (.descriptorFinish 0 0 1) s
    t.counter 0 2 = 7 ∧ (t.queue 0 0).finished = 1 ∧ (t.queue 0 0).runs = [] ∧ (t.queue 0 0).held.map (·.tag) = [0x77] ∧
    (after (.descriptorFinish 0 0 1) t).counter 0 2 = 7 := by decide +kernel

/-- A queue whose completion ring of 2 slots lies at 0x20000, with the record of descriptor 3 due. -/
def due (written : Nat) : State :=
  (live { finished := 3, written := written, cqHead := 2,
          held := [{ seq := 3, tag := 0xAA, status := 0, endNs := 9, due := true, kept := false }] }).setCfg 0x3200 1
    (leBytes 32 (0x20000 * 2 ^ 64 + 1 * 2 ^ 128 + 5 * 2 ^ 144))

/-- Record 3 of a ring of two goes to slot 0 with phase 0, record 4 to slot 1; record 5 waits for CQ_HEAD. -/
theorem witness_RecordsWritten :
    ((due 2).queue 0 0).nextDue.map (·.seq) = some 3 ∧ ((due 2).ctx 0).st = .active ∧
    (let t := after (.completionRecordWrite 0 0) (due 2)
     peek t 0x20000 9 = [3, 0, 0, 0, 0, 0, 0, 0, 0xAA] ∧ peek t 0x2000D 1 = [0] ∧ (t.queue 0 0).written = 3 ∧
     (t.hif 0).raised = [5]) ∧
    (peek (after (.completionRecordWrite 0 0) (due 3)) 0x20020 1 = [3]) ∧
    (((after (.completionRecordWrite 0 0) (due 4)).queue 0 0).written = 4) ∧ ((live {}).queue 0 0).nextDue = none ∧
    (let s := live { intDue := true, lastInt := some 4999998000 }
     (s.queue 0 0).intDue = true ∧ ((after (.intHoldoffExpiry 0 0) s).queue 0 0).intDue = false) := by decide +kernel

theorem witness_SyncAndNop :
    isSync 0 (theRun (desc 0x50 []) []) = true ∧ dOpcode (desc 0x51 []) = 0x51 ∧ isSync 1 (theRun (desc 0x50 [(20, 1, 1)]) []) = true ∧
    Ready 0 0 1 (ready (desc 0x50 []) []) (theRun (desc 0x50 []) []) ∧
    ([desc 0x50 [], desc 0x50 [(16, 2, 4095), (18, 2, 2)], desc 0x51 [], desc 0x51 [(63, 1, 1)]].all fun d => headerStatus d == 0) = true := by
  exact ⟨by decide +kernel, by decide +kernel, by decide +kernel, ready_of _ _, by decide +kernel⟩

/-- Counters 2 and 3 are cleared, counter 4 is not. -/
theorem test_sync_clear :
    let s := ((ready (desc 0x50 [(16, 2, 2), (18, 2, 2), (20, 1, 1)]) []).setCounter 0 3 9).setCounter 0 4 9
    (after (.syncClear 0 0 1) s).counter 0 3 = 0 ∧ (after (.syncClear 0 0 1) s).counter 0 4 = 9 := by decide +kernel

/-- An ABORTED record is due for the other started descriptor, and the queue stops. -/
theorem witness_JobFault :
    let s := live { tail := 2, startedSeq := 2, runs := [theRun (desc 0x51 []) [], { theRun (desc 0x50 []) [] with seq := 2 }] }
    (s.ctx 0).st = .active ∧ ((s.jobFault 0 0 1 0x12 0).queue 0 0).st = .stopped ∧
    ((s.jobFault 0 0 1 0x12 0).queue 0 0).held.map (·.status) = [0x12, 0x02] := by decide +kernel

/-! ### Work tiles on cores -/

/-- The base cost of R414 at the clocks and rail voltages of R415: 13 or 11 pips stand at 1,000 MHz and are 17 and 14 at 1,100 MHz. -/
theorem test_costs :
    costAt 11 1000 = 11 ∧ costAt 11 1100 = 14 ∧ costAt 13 1100 = 17 ∧ costAt 13 500 = 5 := by decide +kernel

/-- A MOVE of two work tiles, its core free and its die with an allotment of 400 pips. -/
def tiled (granted ramped : Nat) : State :=
  { live { tail := 1, takenSeq := 1, startedSeq := 1, runs := [{ theRun (desc 0x01 []) [] with tiles := 2 }] } with
    dies := [(0, { allot := 400, granted := granted, intervalBase := granted, ramped := ramped })] }

theorem witness_WorkTileTaken :
    let s := tiled 0 0
    s.coreFree 3 = true ∧ s.choice 3 = some (0, true) ∧ s.pairLive 3 = none ∧ inTurnAfter (s.ctx 0).lastQueue (s.bestQueues 0) = some 0 ∧
    (s.readyIn 0 0).map (·.2) = some 0 ∧ s.coreFree 16 = false ∧ State.reset.choice 3 = none ∧
    (((after (.workTileSelect 3) s).core 3).tile.map fun t => (t.idx, t.cost)) = some (0, 6) ∧
    ((after (.workTileSelect 3) s).die 0).waiting = [3] := by decide +kernel

/-- A core whose pair is the dW work tile 1 of the same descriptor. -/
theorem witness_WorkTileTaken_pair :
    let s := { tiled 0 0 with cores := [(3, { pair := some (0, 0, 1, 1) })] }
    s.coreFree 3 = true ∧ s.choice 3 = some (0, true) ∧ s.pairLive 3 = some (0, 0, 1, 1) ∧
    (((after (.workTileSelect 3) s).core 3).tile.map (·.idx)) = some 1 ∧ ((after (.workTileSelect 3) s).core 3).pair = none := by
  decide +kernel

/-- Exactly the allotment is granted, and exactly 25 pips in an interval; one pip more is not. -/
theorem witness_PipsGranted :
    let asked (granted ramped : Nat) : State := after (.workTileSelect 3) (tiled granted ramped)
    let started (s : State) : Bool := ((after (.pipGrant 0) s).core 3).tile.any fun t => t.startAt.isSome
    ((asked 0 0).nextWaiting 0 = some 3 ∧ ((asked 0 0).core 3).tile.isSome) ∧ started (asked 394 19) = true ∧
    started (asked 395 0) = false ∧ started (asked 0 20) = false ∧ (tiled 0 0).nextWaiting 0 = none ∧
    ((after (.pipGrant 0) (asked 394 19)).die 0).granted = 400 := by decide +kernel

/-- A speculative replay numbered 7 of entry 1, whose GEMM has three work tiles. -/
def aSpec : Spec :=
  { no := 7, handle := 1, slice := some 0, group := 0, stage := 0x20000, steps := [.chain (desc 0x10 []) none], tiles := 3 }

/-- A core that no context's work wants takes the work tile of a speculative replay of context 0. -/
def speculating (specs : List Spec) : State :=
  (live {}).modCtx 0 fun c => { c with stash := { c.stash with specs := specs } }

theorem witness_WorkTileTaken_replay :
    let x : Spec := { aSpec with nextTile := 2 }
    let s := speculating [x]
    s.coreFree 3 = true ∧ s.choice 3 = none ∧ (s.core 3).pair = none ∧ (speculating []).specChoice 3 = none ∧
    s.specChoice 3 = some 0 ∧ s.specReady 0 = some x ∧ x.next = some 2 ∧
    (((after (.workTileSelect 3) s).core 3).tile.map fun t => (t.replay, t.idx)) = some (some 7, 2) := by decide +kernel

/-- A work tile on core 3 whose run time has begun at a partition time: carried out or not, its descriptor stopping or not. -/
def onCore (carried aborting : Bool) (startAt : Nat) : State :=
  let s := working 0 1 (desc 0x10 []) []
  let s := s.modRun 0 0 1 fun r => { r with carried := if carried then [0] else [], aborting := aborting }
  s.modCore 3 fun k => { k with tile := some { theTile 0 with startAt := some startAt } }

theorem witness_WorkTileEnds :
    ([onCore true false 0, onCore true true 0, onCore false false 0].all fun s =>
      (s.ctx 0).st == .active && !s.pwr.shutdown && (s.core 3).tile.any fun k => k.startAt == some 0 && k.replay.isNone) = true ∧
    ((after (.workTileEnd 3) (onCore true false 0)).run 0 0 1).map (·.done) = some [0] ∧
    ((after (.workTileEnd 3) (onCore true false 0)).die 0).granted = 4 ∧
    ((after (.workTileEnd 3) (onCore true true 0)).queue 0 0).held.map (·.status) = [0x02] ∧
    ((after (.workTileEnd 3) (onCore false false 0)).core 3).tile.isSome ∧
    (let s := (onCore false false 0).modCtx 0 fun c => { c with st := .free }
     ((after (.workTileEnd 3) s).core 3).tile = none) ∧
    (let s := { onCore false false 0 with pwr := { up.pwr with shutdown := true } }
     ((after (.workTileEnd 3) s).core 3).tile = none) ∧
    (let s := (onCore false false 0).modCore 3 fun k => { k with tile := some { theTile 0 with replay := some 7 } }
     ((after (.workTileEnd 3) s).core 3).tile = none) := by decide +kernel

/-- 200,000 ns of run time are allowed, 200,001 are not. -/
theorem witness_WorkTileLimits :
    let at_ (n : Nat) : State := onCore false false (4999999000 - n)
    (((at_ 200000).core 3).tile.map fun k => (at_ 200000).runTime 3 k (4999999000 - 200000)) = some 200000 ∧
    ((after (.watchdog 3) (at_ 200000)).ctx 0).st = .active ∧ ((after (.watchdog 3) (at_ 200001)).ctx 0).faultStatus = 0x19 := by
  decide +kernel

/-- A speculative work tile past the limit is stopped and its replay discarded; its context goes on. -/
theorem witness_WorkTileLimits_replay :
    let x : Spec := aSpec
    let s := (speculating [x]).modCore 3 fun k => { k with tile := some { theTile 0 with replay := some 7 } }
    let t := after (.watchdog 3) s
    s.specNo 0 7 = some x ∧ x.owner = none ∧ x.staged = false ∧ (t.core 3).tile = none ∧ (t.ctx 0).st = .active ∧
    (t.ctx 0).stash.specs = [] := by decide +kernel

/-- A CONV with HALO_WAIT_CTR 5 whose next work tile needs halo rows and whose counter is behind. -/
theorem witness_WorkTileLimits_halo :
    let r : Run := { theRun (desc 0x50 []) [] with tiles := 1, haloAt := some 0 }
    let s := live { startedSeq := 1, runs := [r] }
    s.run 0 0 1 = some r ∧ r.next = some 0 ∧ r.waitDone = true ∧ r.aborting = false ∧ (s.ctx 0).st = .active ∧
    s.haloOk 0 r 0 = true := by decide +kernel

/-- A schedule of frames of 1,000 us: slot 0 from 0 for 500 us, context 5, 3 cores of die 0. -/
def scheduled (at_ : Nat) : State :=
  let slot : Bytes := leBytes 4 0 ++ leBytes 4 500 ++ [5, 3, 1] ++ zeros 5
  let s : State := ((live {}).setCfg 0x3020 1 (leBytes 4 1000)).setCfg 0x3020 2 (slot ++ zeros 1008)
  (s.modPart 0 fun x => { x with frameT0 := 1000000, tableNext := slot ++ zeros 1008 }).modPwr fun w => { w with time := at_ + 1000 }

theorem witness_FramesAndSlots :
    let s := scheduled 3000000
    let t := after (.frameStart 0) s
    ((s.part 0).st = .ready ∧ 0 < s.partCount ∧ s.cfg 0x3020 1 = 1000 ∧ (s.part 0).frameT0 ≤ s.partTime 0 ∧
      (s.part 0).frameAt = none) ∧
    (t.part 0).frameAt = some 3000000 ∧ (t.part 0).frameCount = 1 ∧ (t.core 2).slot = some 0 ∧ (t.core 3).slot = none ∧
    ((after (.frameStart 0) t).part 0).frameCount = 1 ∧ ((after (.frameStart 0) (scheduled 999999)).part 0).frameCount = 0 ∧
    (let u := t.modPwr fun w => { w with time := 3501000 }
     u.boundaryDue 0 = true ∧ ((after (.slotBoundary 0) u).core 2).slot = none) ∧
    (after (.slotBoundary 0) t).boundaryDue 0 = false := by decide +kernel

theorem witness_SlotAssignment : (coresOfDie 0).Nodup := by decide +kernel

/-! ### Numbers -/

/-- The worked example of the number formats: FP32 0x3E99999A to F8-E4 under each ROUND, and the ties of F4. -/
theorem test_conversions :
    (encode .f8e4 .rne (f32Val 0x3E99999A), encode .f8e4 .rtz (f32Val 0x3E99999A)) = (0x2A, 0x29) ∧
    (encode .f8e4 (.sr 0x412C07) (f32Val 0x3E99999A), encode .f8e4 (.sr 0xC00000) (f32Val 0x3E99999A)) = (0x2A, 0x29) ∧
    [0x3E99999A, 0x40200000, 0x40A00000, 0x40E00000].map (fun x => encode .f4 .rne (f32Val x)) = [0x1, 0x4, 0x6, 0x7] ∧
    encode .f4 .rtz (f32Val 0x3E99999A) = 0 := by decide +kernel

/-- The threshold of a drop rate of 0.1 is 1,677,721 of 2^24. -/
theorem test_keep_bound : keepBound 0x3DCCCCCD = 1677721 := by decide +kernel

/-! ### Descriptors carried out -/

/-- One descriptor of each row's kind, and a work tile of it on a core; from reset no work tile is due. -/
theorem witness_DataRows :
    ([0x10, 0x11, 0x12, 0x1A, 0x20, 0x21].all fun n => dOpcode (desc n []) == n) = true ∧
    ([0, 1, 2].all fun n => dOpcode (desc 0x18 []) == 0x18 && convMode (putBytes (zeros 104) 31 [BitVec.ofNat 8 (8 * n)]) == n) = true ∧
    ([0, 1, 2, 3].all fun n => dOpcode (desc 0x19 []) == 0x19 && convOp (putBytes (zeros 104) 93 [BitVec.ofNat 8 (16 * n)]) == n) = true ∧
    ([0, 1, 2, 3].all fun n => isNorm n (theRun (desc 0x29 [(54, 2, n)]) [])) = true ∧
    ([0, 1, 2, 3, 4].all fun n => isDice n (theRun (desc 0x38 [(48, 1, n)]) [])) = true ∧
    OnCore 0 0 1 (working 0 1 (desc 0x10 []) (zeros 104)) (tileRun 0 1 (desc 0x10 []) (zeros 104)) 0 ∧
    ¬ ∃ r t, OnCore 0 0 1 State.reset r t :=
  ⟨by decide +kernel, by decide +kernel, by decide +kernel, by decide +kernel, by decide +kernel, onCore_of _ _ _ _,
   fun ⟨_, _, h⟩ => nomatch h.run⟩

/-- X = (2, 3) by W = (5, 7) in BF16 is 31 in FP32. -/
theorem test_gemm :
    let d := desc 0x10 [(16, 8, 0x10000), (24, 8, 0x11000), (32, 8, 0x20000), (48, 3, 1), (51, 3, 2), (54, 2, 1), (56, 1, 0x11)]
    let s := poke (poke (working 0 1 d []) 0x10000 (leBytes 2 0x4000 ++ leBytes 2 0x4040)) 0x11000 (leBytes 2 0x40A0 ++ leBytes 2 0x40E0)
    gemmCheck d = true ∧ leNat (peek (after (.gemm 0 0 1) s) 0x20000 4) = 0x41F80000 ∧
    peek (after (.gemm 0 0 1) s) 0x20004 4 = zeros 4 := by decide +kernel

/-- The codebook example: a latent of 0x2A in 16 dimensions is 16 x 2^-10 from an entry of 0x29; the nearer of two is kept with
its index, and the first of two equal ones. -/
theorem test_dist :
    let d := desc 0x12 [(16, 8, 0x10000), (24, 8, 0x11000), (32, 8, 0x20000), (40, 8, 0x21000), (48, 3, 1), (51, 3, 3), (54, 2, 16),
      (56, 1, 0x22), (58, 1, 4)]
    let row (c : Byte) : Bytes := List.replicate 16 c ++ zeros 48
    let s := poke (poke (working 0 1 d []) 0x10000 (row 0x2A)) 0x11000 (row 0x38 ++ row 0x29 ++ row 0x29)
    let t := after (.dist 0 0 1) s
    leNat (peek t 0x20000 4) = 0x3C800000 ∧ leNat (peek t 0x21000 4) = 1 := by decide +kernel

/-- A parameter block of 128 bytes with fields as (offset, length, value). -/
def blk (fields : List (Nat × Nat × Nat)) : Bytes := fields.foldl (fun d f => putBytes d f.1 (leBytes f.2.1 f.2.2)) (zeros 128)

/-- Rows of BF16 codes, 64 bytes apart. -/
def rows16 (rows : List (List Nat)) : Bytes := rows.flatMap fun r => sized 64 (r.flatMap (leBytes 2))

/-- FP32 codes at an address. -/
def wordsAt (s : State) (a n : Nat) : List Nat := (List.range n).map fun i => leNat (peek s (a + 4 * i) 4)

/-- An image of the three columns 1, 2, 4 under a kernel of 3 columns; the block's further fields are f. -/
def convAt (opcode : Nat) (f : List (Nat × Nat × Nat)) : State :=
  let b := blk ([(0, 8, 0x10000), (16, 8, 0x20000), (44, 2, 1), (46, 2, 1), (48, 2, 1), (50, 2, 1), (52, 2, 1), (54, 2, 3), (56, 3, 0x030101),
    (59, 1, 0x11), (64, 6, 0x100010001), (70, 6, 0x100010001)] ++ f)
  poke (poke (working 0 1 (desc opcode []) b) 0x10000 (rows16 [[0x3F80], [0x4000], [0x4080]])) 0x11000 (rows16 [[0x3F80, 0x4000, 0x4040]])

/-- Taps 1, 2, 3: no pads give 17; a pad of 0.5 on the left gives 8.5 and 17. Backward, a dy of 2 gives 2, 4, 6 for the input
and 2, 4, 8 for the kernel. -/
theorem test_conv :
    let w := (8, 8, 0x11000)
    wordsAt (after (.convFwd 0 0 1) (convAt 0x18 [w])) 0x20000 1 = [0x41880000] ∧
    (let t := after (.convFwd 0 0 1) (convAt 0x18 [w, (40, 4, 0x3F000000), (80, 2, 1)])
     wordsAt t 0x20000 1 ++ wordsAt t 0x20040 1 = [0x41080000, 0x41880000]) ∧
    (let s := poke (convAt 0x18 [w, (24, 8, 2 ^ 59)]) 0x10000 (rows16 [[0x4000], [0], [0]])
     let t := after (.convBwdData 0 0 1) s
     [0, 64, 128].flatMap (fun a => wordsAt t (0x20000 + a) 1) = [0x40000000, 0x40800000, 0x40C00000]) ∧
    (let s := poke (convAt 0x18 [(24, 8, 2 ^ 60 + 0x12000), (100, 4, 1)]) 0x12000 (rows16 [[0x4000]])
     wordsAt (after (.convBwdWeight 0 0 1) s) 0x20000 3 = [0x40000000, 0x40800000, 0x41000000]) := by decide +kernel

/-- Pooled with one pad on the left: the maximum of 1 and 2; their mean over the two taps in the image, or over all three. -/
theorem test_pools :
    let s (op : Nat) : State := convAt 0x19 [(80, 2, 1), (93, 1, 16 * op)]
    wordsAt (after (.maxPool 0 0 1) (s 1)) 0x20000 1 = [0x40000000] ∧ wordsAt (after (.avgValid 0 0 1) (s 2)) 0x20000 1 = [0x3FC00000] ∧
    wordsAt (after (.avgAll 0 0 1) (s 3)) 0x20000 1 = [0x3F800000] ∧
    wordsAt (after (.convDw 0 0 1) (convAt 0x19 [(8, 8, 0x11000)])) 0x20000 1 = [0x41880000] := by decide +kernel

/-- The worked example of CROP_RESIZE: sample 3 of rows 2 to 9 is row 5 itself. -/
theorem test_crop :
    let d := desc 0x1A [(16, 8, 0x10000), (24, 8, 0x1F000), (32, 8, 0x20000), (40, 2, 10), (42, 2, 11), (44, 2, 1), (46, 2, 1), (50, 1, 7),
      (52, 1, 1)]
    let box := leBytes 4 0x40000000 ++ leBytes 4 0x41200000 ++ leBytes 4 0x41100000 ++ leBytes 4 0x41200000 ++ zeros 16
    let s := poke (poke (working 0 1 d []) (0x10000 + 64 * 65) (rows16 [[0x4040]])) 0x1F000 box
    cropCheck d = true ∧ wordsAt (after (.crop 0 0 1) s) (0x20000 + 3 * 64) 1 = [0x40400000] := by decide +kernel

/-- LAYER of (1, 3) is (-1, 1); RMS of (1, 7) is (1, 7) / 5; STATS of (1, 3) gives sum 4, sum of squares 10, N 2; SPLIT_SUM adds. -/
theorem test_norm :
    let d (op : Nat) (f : List (Nat × Nat × Nat)) : Bytes :=
      desc 0x29 ([(16, 8, 0x10000), (48, 3, 1), (51, 2, 2), (53, 1, 1), (54, 2, op)] ++ f)
    let s (op : Nat) (f : List (Nat × Nat × Nat)) (x : List Nat) : State := poke (working 0 1 (d op f) []) 0x10000 (rows16 [x])
    let y := (24, 8, 0x20000)
    wordsAt (after (.layer 0 0 1) (s 0 [y] [0x3F80, 0x4040])) 0x20000 2 = [0xBF800000, 0x3F800000] ∧
    wordsAt (after (.rms 0 0 1) (s 1 [y] [0x3F80, 0x40E0])) 0x20000 2 = [0x3E4CCCCD, 0x3FB33333] ∧
    wordsAt (after (.stats 0 0 1) (s 2 [(40, 8, 0x20000)] [0x3F80, 0x4040])) 0x20000 3 = [0x40800000, 0x41200000, 2] ∧
    wordsAt (after (.splitSum 0 0 1) (poke (s 3 [y, (54, 2, 3 + 32 * 2)] [0x3F80, 0x4040]) 0x11000 (rows16 [[0x4000, 0x40A0]]))) 0x20000 2 =
      [0x40400000, 0x41000000] := by decide +kernel

/-- The first Philox word of a zero key and counter is 0x6627E8D5 (the generator's published answer); UNIFORM on [0, 1) is its low
24 bits over 2^24; DROPOUT at rate 0.1 keeps it, and at 0.25 does not. -/
theorem test_dice :
    let s (action fmts p0 p1 : Nat) : State :=
      poke (working 0 1 (desc 0x38 [(16, 8, 0x20000), (24, 8, if action < 3 then 0 else 0x10000), (40, 4, 1), (48, 1, action), (49, 1, fmts),
        (52, 4, p0), (56, 4, p1)]) []) 0x10000 (leBytes 4 0x40000000)
    wordsAt (after (.bits 0 0 1) (s 2 10 0 0)) 0x20000 1 = [0x6627E8D5] ∧
    wordsAt (after (.uniform 0 0 1) (s 0 0 0 0x3F800000)) 0x20000 1 = [0x3E1FA354] ∧
    wordsAt (after (.dropout 0 0 1) (s 3 0 0x3DCCCCCD 0x3F800000)) 0x20000 1 = [0x40000000] ∧
    wordsAt (after (.dropout 0 0 1) (s 3 0 0x3E800000 0x3F800000)) 0x20000 1 = [0] ∧
    wordsAt (after (.normal 0 0 1) (s 1 0 0 0x40400000)) 0x20000 1 = [0x40400000] ∧
    wordsAt (after (.noiseAdd 0 0 1) (s 4 0 0 0x40400000)) 0x20000 1 = [0x40C00000] := by decide +kernel

/-- G = 2, W = 3, X = 5: dX is 6 and dW is 10. -/
theorem test_gemm_bwd :
    let b := blk [(0, 8, 0x10000), (8, 8, 0x11000), (16, 8, 0x12000), (32, 8, 0x20000), (48, 8, 0x21000), (56, 3, 1), (59, 2, 1), (61, 2, 1),
      (64, 1, 0x11), (65, 1, 1), (76, 2, 1)]
    let s (i : Nat) : State := poke (poke (poke (working i 2 (desc 0x11 []) b) 0x10000 (rows16 [[0x4000]])) 0x11000 (rows16 [[0x4040]])) 0x12000 (rows16 [[0x40A0]])
    wordsAt (after (.gemmBwd 0 0 1) (s 0)) 0x20000 1 ++ wordsAt (after (.gemmBwd 0 0 1) (s 1)) 0x21000 1 =
      [0x40C00000, 0x41200000] := by decide +kernel

/-- One query on one key whose value row begins with 2. -/
def attnAt (n : Nat) : State :=
  let b := blk [(0, 8, 0x10000), (8, 8, 0x10100), (16, 8, 0x10200), (24, 8, 0x20000), (32, 8, 0x20400), (40, 8, 0x10400), (64, 8, 0x10600),
    (80, 8, 0x20800), (88, 8, 0x20A00), (96, 4, 0x3F800000), (111, 1, 1), (112, 1, 1), (113, 1, 0x11), (114, 1, 0)]
  let entry := leBytes 4 0 ++ leBytes 4 0 ++ leBytes 4 1 ++ leBytes 4 1
  poke (poke (working 0 1 (desc n []) b) 0x10200 (rows16 [[0x4000]])) 0x10400 entry

/-- The probability is 1, so O is the value row. -/
theorem test_attn_fwd : wordsAt (after (.attnFwd 0 0 1) (attnAt 0x20)) 0x20000 2 = [0x40000000, 0] := by decide +kernel

/-- The governor's example: the largest gradient 3.1 under margin 1 gives 5 for F8-E4 and 12 for F8-E5. -/
theorem test_governor : candidate 8 1 0x40466666 = 5 ∧ candidate 15 1 0x40466666 = 12 := by decide +kernel

/-- Two rows of 2 bytes, 4 apart: from the source, of a pattern that starts afresh in each row, of zeros. -/
theorem witness_MoveRows :
    let d (mode : Nat) : Bytes := desc 0x01 [(16, 8, 0x10000), (24, 8, 0x20000), (32, 4, 2), (36, 4, 2), (40, 4, 2), (44, 4, 4), (48, 1, mode),
      (52, 4, 0xDDCCBBAA)]
    let s (mode : Nat) : State := poke (poke (ready (d mode) []) 0x10000 [1, 2, 3, 4]) 0x20000 [9, 9, 9, 9, 9, 9]
    ([0, 1, 2].all fun n => dOpcode (d n) == 0x01 && fld (d n) 48 1 == n && (s n).engineChoice 0 0 0 anyRun == some 0) = true ∧
    (live {}).engineChoice 0 0 0 anyRun ≠ some 0 ∧
    (let b := moveBody (d 0)
     let plan := (s 0).moveReads 0 b.verifyAll (joinPieces (b.pieces (b.rows + 1) 0))
     plan.fail = none ∧ ((s 0).moveWrites 0 plan.sums (joinRuns plan.writes)).2 = none) ∧
    ((s 0).moveReads 0 false [{ src := 0x90000, dst := 0x20000, col := 0, n := 2 }]).fail ≠ none ∧
    peek (after (.moveCopy 0 0 1) (s 0)) 0x20000 6 = [1, 2, 9, 9, 3, 4] ∧
    peek (after (.moveFill 0 0 1) (s 1)) 0x20000 6 = [0xAA, 0xBB, 9, 9, 0xAA, 0xBB] ∧
    peek (after (.moveZero 0 0 1) (s 2)) 0x20000 6 = [0, 0, 9, 9, 0, 0] := by decide +kernel

/-- A CHECK of data tiles 16 and 17 of which the second is corrupt: 2 verified, none torn, 1 corrupt, the first at 0x11000. -/
theorem witness_ChecksAndRereads :
    let d := desc 0x02 [(16, 8, 0x10000), (24, 8, 8192), (32, 8, 0x20000)]
    let s := { ready d [] with sumDelta := [(0x11, 5)] }
    let other := ready (desc 0x01 []) []
    s.engineChoice 0 0 0 anyRun = some 0 ∧ s.readsNow 0 0 1 = true ∧ other.readsNow 0 0 1 = true ∧
    s.hbmReadable 0 0x10000 8192 = true ∧ (ready d []).hbmReadable 0 0x30000 8192 = false ∧ s.deltaAt 0 0x11000 = 5 ∧
    (let u := s.noteBad 0 0 1 (s.corruptTiles 0 0x10000 8192)
     let t := (u.run 0 0 1).elim u fun r => u.checkEnd 0 0 1 r 8192
     peek t 0x20000 1 = [2] ∧ peek t 0x20010 1 = [1] ∧ leNat (peek t 0x20018 8) = 0x11000 ∧ (t.run 0 0 1).map (·.status) = some 0x40) ∧
    s.inHbm 0 0x11008 = true ∧ ((after (.tileReread 0 0 1 0x10008 0) s).ctx 0).tornReads = 1 ∧
    ((after (.tileReread 0 0 1 0x10008 3) other).ctx 0).faultStatus = 0x1A ∧
    ((after (.tileReread 0 0 1 0x10008 3) s).ctx 0).st = .active := by decide +kernel

theorem witness_VecRuns :
    let d := desc 0x28 [(24, 8, 0x10000), (32, 4, 1)]
    let s := working 0 1 d []
    OnCore 0 0 1 s (tileRun 0 1 d []) 0 ∧ dOpcode d = 0x28 ∧ ((s.readVa 0 0x10000 128).isOk) = true ∧
    (s.readVa 0 0x90000 128).isOk = false ∧
    (s.vecTile 0 1 (kernelWords []) vecFuel (startRegs 0 (zeros 128) 0)).2 = none :=
  ⟨onCore_of _ _ _ _, by decide +kernel, by decide +kernel, by decide +kernel, by decide +kernel⟩

/-- Where word 0 is a LOAD, a kernel of it faults: address 0 is not mapped. -/
theorem witness_VecRuns_fault (h : Config.vecOp 0 0 = some (.load false)) :
    ((working 0 1 [] []).vecTile 0 1 (kernelWords (zeros 8)) vecFuel (startRegs 0 (zeros 128) 0)).2.isSome = true := by
  have e : kernelWords (zeros 8) = [vword 0] := by decide +kernel
  have o : (vword 0).opOf = some (.load false) := by
    have c : (vword 0).cls = 0 ∧ (vword 0).op = 0 := by decide +kernel
    unfold VWord.opOf; rw [c.1, c.2, h]; rfl
  have l : (working 0 1 [] []).vecLoad 0 (vword 0) false (startRegs 0 (zeros 128) 0) =
      .fault (working 0 1 [] []) { status := 0x14 } := by decide +kernel
  have f : vecFuel = 219999 + 1 := rfl
  rw [e, f, State.vecTile]
  have st : (working 0 1 [] []).vecStep 0 1 [vword 0] (startRegs 0 (zeros 128) 0) =
      .fault (working 0 1 [] []) { status := 0x14 } := by
    unfold State.vecStep
    simp only [show [vword 0][(startRegs 0 (zeros 128) 0).pc]? = some (vword 0) from rfl, o, l]
  simp only [st, Option.isSome_some]

/-- One sequence record at 0x10000 of a context whose cache has one sequence, its descriptor first in the order. -/
def cached (d : Bytes) (w : Option KvWait) : State :=
  let s := (working 0 1 d []).modCtx 0 fun c => { c with kv := { order := [(0, 1)], waiting := w } }
  ((s.setCfg 0x3600 0x30 (leBytes 8 0x10000)).setCfg 0x3600 0x31 (leBytes 4 1)).setCfg 0x3600 0x34 (leBytes 8 0x10110)

theorem witness_KvDescriptors :
    OnCore 0 0 1 (cached [] none) (tileRun 0 1 [] []) 0 ∧ ((cached [] none).ctx 0).st = .active ∧
    ((cached [] none).ctx 0).kv.waiting = none ∧ ((cached [] none).ctx 0).kv.order.head? = some (0, 1) ∧
    ((cached [] (some (.alloc 0 1))).ctx 0).kv.waiting = some (.alloc 0 1) ∧
    ((cached [] (some (.buffer 0 1))).ctx 0).kv.waiting = some (.buffer 0 1) ∧
    (dOpcode (desc 0x22 []) = 0x22 ∧ dOpcode (desc 0x24 []) = 0x24) ∧
    ([0, 1, 2].all fun n => isEdit n (theRun (desc 0x23 [(28, 1, n)]) [])) = true :=
  ⟨⟨rfl, (fun h => nomatch (show CtxState.active = CtxState.free from h)), rfl, rfl⟩, by decide +kernel⟩

/-- SET_PRIORITY 0x1234 of sequence 0 writes bytes 26 and 27 of its record, and the descriptor leaves the order. -/
theorem test_set_priority :
    let d := desc 0x23 [(16, 8, 0x11000), (24, 4, 1), (28, 1, 1)]
    let t := after (.setPriority 0 0 1) (poke (cached d none) 0x11000 (zeros 10 ++ leBytes 2 0x1234 ++ zeros 4))
    leNat (peek t 0x1001A 2) = 0x1234 ∧ ((t.run 0 0 1).map (·.status)) = some 0 ∧ (t.ctx 0).kv.order = [] := by decide +kernel

/-- A stash table of one entry at 0x10000: a tensor of one FP32 element, ALLOW and PLAN as given, flags and state; a pool of
512 KiB at 0x20000, so eight slices of 64 KiB. -/
def stashed (allow plan st flags : Nat) (d : Bytes) : State :=
  let e := leBytes 4 1 ++ leBytes 2 1 ++ zeros 2 ++ leBytes 1 allow ++ leBytes 1 plan ++ zeros 3 ++ leBytes 1 st ++ leBytes 1 0xFF ++
    leBytes 1 flags ++ zeros 112
  let s := ((ready d []).setCfg 0x3600 0x20 (leBytes 8 0x10000)).setCfg 0x3600 0x21 (leBytes 2 1)
  poke (poke ((s.setCfg 0x3600 0x22 (leBytes 8 0x20000)).setCfg 0x3600 0x23 (leBytes 8 0x80000)) 0x10000 e) 0x18000 [1, 2, 3, 4]

def putDesc : Bytes := desc 0x30 [(16, 8, 0x18000)]

/-- A put planned KEEP stores its four bytes at the base of its slice; one planned REPLAY stores nothing; an entry that is HELD, or
that lacks its recipe, faults with STASH_STATE. -/
theorem witness_StashPuts :
    ([stashed 1 0 0 0 putDesc, stashed 16 4 0 1 putDesc, stashed 1 0 1 0 putDesc, stashed 17 0 0 0 putDesc].all fun s =>
      (s.entryOk 0 0).isOk && s.engineChoice (codecUnit 0) 1 0 (s.codecReadyAt 0) == some 0) = true ∧
    (let t := after (.stashPut 0 0 1) (stashed 1 0 0 0 putDesc)
     peek t 0x20000 4 = [1, 2, 3, 4] ∧ peek t 0x1000D 2 = [1, 0] ∧ leNat (peek t 0x10020 8) = 0x20000) ∧
    peek (after (.stashPut 0 0 1) (stashed 16 4 0 1 putDesc)) 0x1000D 2 = [1, 4] ∧
    ((after (.stashPut 0 0 1) (stashed 1 0 1 0 putDesc)).ctx 0).faultStatus = 0x63 ∧
    ((after (.stashPut 0 0 1) (stashed 17 0 0 0 putDesc)).ctx 0).faultStatus = 0x63 := by decide +kernel

/-- A get of what was put brings it back; one that finds a staged result takes that. -/
theorem witness_StashGetsAndRecipes :
    let held := (after (.stashPut 0 0 1) (stashed 1 0 0 0 putDesc)).modCtx 0 fun c => { c with tlb := pages }
    let s := held.modQueue 0 0 fun u => { u with runs := [theRun (desc 0x31 [(16, 8, 0x19000)]) []] }
    let sp : Spec := { no := 1, handle := 0, slice := some 0, group := 0, stage := 0x18000, staged := true }
    let s2 := s.modStash 0 fun t => { t with specs := [sp] }
    let rc := stashed 17 0 0 0 (desc 0x32 [(16, 8, 0x18000)])
    (s.run 0 0 1).map (fun r => dOpcode r.raw) = some 0x31 ∧ (s.ctx 0).stash.specs = [] ∧ s.specOf 0 0 = none ∧
    ([s, s2].all fun s => s.engineChoice (codecUnit 0) 1 0 (s.codecReadyAt 0) == some 0 && ((s.run 0 0 1).map (s.codecReady 0 0)) == some true) = true ∧
    (s2.specOf 0 0) = some sp ∧ (rc.entry 0 0).isOk = true ∧
    peek (after (.stashGet 0 0 1) s) 0x19000 4 = [1, 2, 3, 4] ∧ 
    ((s2.entry 0 0).toOption.map fun e => peek (s2.deliver 0 e 0x19000 0 (2 ^ 21) (e.elements (peek s2 sp.stage 4))).1 0x19000 4) =
      some [1, 2, 3, 4] ∧
    peek (after (.recipe 0 0 1) rc) 0x1000F 1 = [1] := by decide +kernel

theorem witness_SpeculativeReplays :
    let sp : Spec := { no := 1, handle := 0, slice := some 0, group := 0, stage := 0x21000 }
    let s := (stashed 16 4 1 1 []).modStash 0 fun t => { t with specs := [sp] }
    (s.ctx 0).stash.specs.find? (fun y => y.handle == 0 && !y.staged) = some sp ∧ (s.entry 0 0).isOk = true ∧
    (let t := after (.specReplayDone 0 0) s
     peek t 0x1000F 1 = [3] ∧ (t.ctx 0).stash.specs.map (·.staged) = [true] ∧ leNat (peek t 0x10030 8) = 0x21000) := by decide +kernel

/-- STEP counts, but not past 0xFFFF_FFFF; a boundary waits for other work. -/
theorem witness_StepBoundaries :
    let d (n : Nat) : Bytes := desc 0x38 [(48, 1, n)]
    let s := ready (d 5) []
    let two := live { startedSeq := 2, runs := [theRun (d 5) [], { theRun (d 5) [] with seq := 2 }] }
    let last := s.setCfg 0x3600 0x16 (leBytes 4 0xFFFFFFFF)
    isDice 5 (theRun (d 5) []) = true ∧ isDice 6 (theRun (d 6) []) = true ∧ s.aloneIn 0 0 1 = true ∧ two.aloneIn 0 0 1 = false ∧ last.stepNo 0 = 2 ^ 32 - 1 ∧
    (s.govCommit 0).2 = none ∧ (((s.govCommit 0).1.stashBoundary 0 true).2) = none ∧ (s.govClear 0).2 = none ∧
    (((s.govClear 0).1.stashBoundary 0 false).2) = none ∧ (after (.stepCommit 0 0 1) s).stepNo 0 = 1 ∧
    ((after (.stepCommit 0 0 1) last).ctx 0).faultStatus = 0x60 ∧
    ((after (.stepRepeat 0 0 1) (ready (d 6) [])).ctx 0).attempt = 1 := by decide +kernel

theorem witness_PackRoundTrip :
    unpackStream 0 4 3 (packStream 0 4 [[0, 0, 0, 0], [1, 0, 0, 0], [0, 0, 0, 0]]) = some [[0, 0, 0, 0], [1, 0, 0, 0], [0, 0, 0, 0]] := by
  decide +kernel

/-! ### Collectives -/

/-- A running ALL_REDUCE of one FP32 element, 1.0, over ranks 0 (this module) and 1 (device 1), of identity 0x070000. -/
def theColl : CollRun :=
  { q := 0, seq := 1, ident := 0x070000, block := blk [(8, 8, 0x20000), (40, 8, 0x18000), (48, 8, 4096), (56, 8, 1), (64, 4, 0x3F800000), (68, 2, 0x0700)],
    table := leBytes 4 2 ++ leBytes 4 1 ++ leBytes 4 2 ++ zeros 52 ++ leBytes 4 0 ++ leBytes 4 1, pos := 0, startAt := 0,
    vals := [0x3F800000], sent := 1, signed := [0, 1], arrived := [{ level := 0, sub := 0, elem := 0, slot := 0 }] }

/-- Ranks 0, 1 and 2 of partition 0 are devices 0, 1 and 2. -/
def ranked (s : State) : State :=
  (s.setCfg 0x4110 2 (leBytes 4 3)).setCfg 0x4110 3 (leBytes 4 (2 ^ 31) ++ leBytes 4 (2 ^ 31 + 1) ++ leBytes 4 (2 ^ 31 + 2))

def fromOne (type kind : Nat) (payload : Bytes) : Packet :=
  { pkt0 with type := type, offset := BitVec.ofNat 64 (0x070000 * 2 ^ 40 + kind * 2 ^ 36), payload := payload }

def collecting (k : Packet) : State :=
  let s := (ranked (ready (desc 0x40 []) theColl.block)).modCtx 0 fun c => { c with colls := [theColl] }
  { (poke s 0x18000 (leBytes 4 0x3F800000)) with fab := { s.fab with handed := [k] } }

theorem witness_CollectivesBegin :
    dOpcode (desc 0x40 []) = 0x40 ∧ ([0, 1, 2, 3].all fun n => (collBlk (blk [(70, 1, n)])).op == n) = true ∧
    (ready (desc 0x40 []) []).engineChoice 0 2 0 (ready (desc 0x40 []) []).collReady = some 0 ∧
    (collecting pkt0).engineChoice 0 2 0 (collecting pkt0).collReady ≠ some 0 ∧
    ((collecting pkt0).ctx 0).colls.find? (fun c => c.q == 0 && c.seq == 1) = some theColl ∧
    ((ready (desc 0x40 []) []).ctx 0).colls = [] ∧ theColl.startAt + (collecting pkt0).cfg 0x4800 1 * 1000000 ≤ (collecting pkt0).ctxTime 0 ∧
    ((collecting pkt0).cfg 0x4800 1 ≠ 0) := by decide +kernel

/-- A contribution of 2.0 makes the sum 3.0, written to the destination, and the collective is over. -/
theorem test_collData :
    let k := fromOne 1 0 (leBytes 4 0x40000000)
    let t := after (.collData k) (collecting k)
    wordsAt t 0x20000 1 = [0x40400000] ∧ t.fab.handed = [] ∧ ((t.run 0 0 1).map (·.status)) = some 0 := by decide +kernel

/-- A MISSING notice for a running collective, for one that may still start, and for none. -/
theorem witness_MissingNotices :
    let k := fromOne 1 8 []
    let s := collecting k
    let early := s.modCtx 0 fun c => { c with colls := [] }
    let none_ := early.modCtx 0 fun c => { c with st := .faulted }
    k ∈ s.fab.handed ∧ (k.offset.toNat / 2 ^ 36 % 16 = 8) ∧ (s.collOf k).map (fun x => (x.1, x.2.2)) = some (0, 1) ∧
    early.collOf k = none ∧ early.mayCome 0 0x070000 = true ∧ none_.collOf k = none ∧
    ((ctxsOfPart 0).all fun g => !none_.mayCome g 0x070000) = true ∧
    ((after (.collMissing k) s).ctx 0).collMissing = true ∧ ((after (.collMissing k) early).ctx 0).missingHeld = [(0x070000, 1, 0)] ∧
    ((after (.collMissing k) none_).part 0).missing = 1 := by decide +kernel

/-! ### Securing -/

/-- The table of a securing group: data positions at ranks 0 and 1, one holder at rank 2. -/
def secTab : Bytes := leBytes 1 2 ++ leBytes 1 1 ++ zeros 6 ++ leBytes 8 (2 ^ 21) ++ zeros 48 ++ leBytes 4 0 ++ leBytes 4 1 ++ leBytes 4 2

def theOp : SecOp := { q := 0, seq := 1, op := 0, force := false, startAt := 0 }

/-- A context that secures in that group, with the packet handed to the engines. -/
def securing (f : Secure → Secure) (ks : List Packet) : State :=
  let s := (ranked (ready (desc 0x48 []) (blk [(0, 8, 2 ^ 21)]))).modCtx 0 fun c =>
    { c with secure := f { hasGroup := true, table := secTab, op := some theOp } }
  { s with fab := { s.fab with handed := ks } }

def secPkt0 (kind dev stop tile low : Nat) (payload : Bytes) : Packet :=
  { pkt0 with type := 8, srcId := dev, flow := kind * 4096 + low, payload := payload,
              offset := BitVec.ofNat 64 (stop * 2 ^ 32 + (crc32c secTab).toNat % 64 * 2 ^ 26 + tile) }

theorem witness_SecuringBegins :
    let s := securing (fun x => { x with op := none }) []
    dOpcode (desc 0x48 []) = 0x48 ∧ ([0, 1, 2, 3].all fun n => (secBlk (blk [(72, 1, n)])).op == n) = true ∧ s.aloneIn 0 0 1 = true ∧
    (s.secureOf 0).op = none ∧ ((securing id []).secureOf 0).op = some theOp ∧
    s.engineChoice 0 3 0 s.secReady = some 0 ∧ (securing id []).engineChoice 0 3 0 (securing id []).secReady = none ∧
    (securing id []).aloneIn 0 0 1 = true ∧ (live {}).engineChoice 0 3 0 (live {}).secReady ≠ some 0 ∧
    (let t := securing (fun x => { x with op := some { theOp with stopping := true }, key := some 7 }) []
     t.engineChoice 0 3 0 t.secReady = some 0 ∧ (after (.secure 0 0 1) t ≠ t)) ∧
    (let t := securing (fun x => { x with op := none }) []
     (t.modQueue 0 0 fun u => { u with runs := u.runs ++ [{ theRun (desc 0x51 []) [] with seq := 2 }] }).aloneIn 0 0 1 = false) := by decide +kernel

/-- A vote with the table agrees and is recorded; one of another STEP is SECURE_MISMATCH. The holder's DONE commits. -/
theorem witness_VotesAndCommits :
    let vote (step : Nat) : Packet := secPkt0 0 1 0 0 0 (leBytes 1 1 ++ zeros 3 ++ leBytes 4 step ++ zeros 24 ++ secTab)
    let done := secPkt0 6 2 5 0 0 []
    let pt : Point := { stopSeq := 5, step := 0, slot := 0, used := 0, committed := false, devs := [0, 8] }
    let b := securing (fun x => { x with op := none, build := some (5, []), points := [pt], latch := true }) [done]
    let s := securing id [vote 0]
    s.srcData 0 (s.groupFor 0) (vote 0) = some 1 ∧ s.secPkt 0 (vote 0) [0] = true ∧ s.myPos 0 = 0 ∧
    (voteOf (vote 0).payload).step.toNat = s.stepNo 0 ∧ (voteOf (vote 0).payload).position = 1 ∧
    (vote 0).payload.drop 32 = (s.secureOf 0).table ∧
    ((after (.secureVoteMessage 0 (vote 9)) (securing id [vote 9])).ctx 0).faultStatus = 0x60 ∧
    ((after (.secureVoteTimeout 0) s).run 0 0 1).isSome = true ∧
    b.srcHolder 0 (b.groupFor 0) done = some 0 ∧ b.secPkt 0 done [6] = true ∧ secStop done = 5 ∧ secTag done = b.tagOf 0 ∧
    (let t := after (.holderDone 0 done) b
     (t.secureOf 0).latch = false ∧ (t.secureOf 0).points.map (·.committed) = [true] ∧ (t.secureOf 0).build = none) := by
  decide +kernel

/-- A PARITY tile for this member (position 1 of ranks 1, 0), one for a held group, a FILL tile, and each point message. -/
theorem witness_ShardsAndPoints :
    let tab := leBytes 1 2 ++ leBytes 1 1 ++ zeros 6 ++ leBytes 8 (2 ^ 21) ++ zeros 48 ++ leBytes 4 1 ++ leBytes 4 0 ++ leBytes 4 2
    let tabH := leBytes 1 2 ++ leBytes 1 1 ++ zeros 6 ++ leBytes 8 (2 ^ 21) ++ zeros 48 ++ leBytes 4 2 ++ leBytes 4 1 ++ leBytes 4 0
    let at_ (t : Bytes) (k : Packet) : Packet := { k with offset := BitVec.ofNat 64 (5 * 2 ^ 32 + (crc32c t).toNat % 64 * 2 ^ 26) }
    let par := at_ tab (secPkt0 5 1 5 0 1 [])
    let parH := at_ tabH par
    let s := securing (fun x => { x with table := tab, op := none, build := some (5, []) }) [par]
    let h := securing (fun x => { x with table := tab, holds := [{ table := tabH, par := 0x20000 }] }) [parH]
    let fill := { at_ tab (secPkt0 7 2 5 0 (1 * 256) []) with type := 9 }
    let op : SecOp := { theOp with op := 2, chosen := some 5, fill := some (2, 0), erased := [1], used := [0] }
    let f := securing (fun x => { x with table := tab, op := some op }) [fill]
    s.secPkt 0 par [5] = true ∧ s.tagOf 0 = secTag par ∧ s.myPos 0 = 1 ∧ s.fromRank 0 1 par = true ∧ par.flow / 2 % 4 < (s.groupFor 0).p ∧
    (s.secureOf 0).build = some (5, []) ∧ secStop par = 5 ∧ h.secPkt 0 parH [5] = true ∧ h.tagOf 0 ≠ secTag parH ∧
    groupTag tabH = secTag parH ∧ (secGroup tabH).pos (h.myRank 0) = 2 ∧ h.fromRank 0 1 parH = true ∧
    f.secPkt 0 fill [7] = true ∧ f.fillsNext 0 op fill = some (5, 2, 0) ∧
    ([1, 2, 3, 4].all fun n => (securing id [secPkt0 n 1 0 0 0 []]).secPkt 0 (secPkt0 n 1 0 0 0 []) [n]) = true := by decide +kernel

/-- A vote in which only position 1 has the key. -/
def voted (i : Nat) : Vote :=
  { position := i, step := 0, stopSeq := 0, committed := [], usedLen := 0, building := false, yes := true, hasKey := i == 1 }

/-- A running SECURE that lacks the key, whose votes are in, under the anchor of a root. -/
def lacking (root : Bytes) (asking : List Asking) : State :=
  let s := (securing (fun x => { x with op := some { theOp with votes := [voted 0, voted 1] } }) []).setCfg 0x5800 4 (sha384 root)
  s.modSec fun x => { x with asking := asking }

def askingKey (st : AskStage) : Asking := { what := .groupKey 0, conn := .dict (.fabric 1 0), stage := st }

theorem witness_GroupKeys :
    let root : Bytes := [1, 2, 3]
    let s := lacking root []
    let keyed := s.modSecure 0 fun x => { x with key := some 7 }
    let hash := sha384 (slice secTab 64 8)
    let asker (dev : Nat) : KeyAsker := { dev := dev, part := 0, chainRoot := root, tableHash := hash }
    s.keySource 0 { theOp with votes := [voted 0, voted 1] } = some 1 ∧ s.rankOf 0 ((s.groupFor 0).rank 1) = some (1, 0) ∧
    (s.secureOf 0).key = none ∧ ((s.cfgBytes 0x5800 4).any fun b => b != 0) = true ∧ sha384 root = s.cfgBytes 0x5800 4 ∧
    (after (.groupKeyRequest 0 none) s).sec.asking = [askingKey .version] ∧
    (after (.groupKeyRequest 0 (some (asker 1))) keyed).sec.out = [.keyDeliver 0 1 0] ∧
    (after (.groupKeyRequest 0 (some (asker 5))) keyed).sec.out = [] ∧
    ((after (.groupKeyRequest 0 (some (asker 1))) s).secureOf 0).askers = [asker 1] ∧
    s.askOf (.groupKey 0) = none := by decide +kernel

/-- Each response in its turn brings the next request, and the key in the end is the context's. -/
theorem test_spdm_requester :
    let root : Bytes := [1, 2, 3]
    let hash := sha384 (slice secTab 64 8)
    let to_ (st : AskStage) (r : SpdmReply) : State := after (.spdmResponse (.groupKey 0) r (some 9) hash) (lacking root [askingKey st])
    ([(AskStage.version, SpdmReply.version, AskStage.capabilities), (.capabilities, .capabilities, .algorithms),
      (.algorithms, .algorithms, .digests), (.digests, .digests, .certificate),
      (.certificate, .certificate { root := root, bytes := [] }, .keyExchange), (.finish, .finishRsp, .groupKey)].all fun x =>
        ((to_ x.1 x.2.1).sec.asking.map (·.stage)) == [x.2.2]) = true ∧
    (to_ .certificate (.certificate { root := [9], bytes := [] })).sec.asking = [] ∧ (to_ .finish .error).sec.asking = [] ∧
    ((to_ .groupKey .groupKey).secureOf 0).key = some 9 ∧
    ((after (.spdmResponse (.groupKey 0) .groupKey (some 9) []) (lacking root [askingKey .groupKey])).secureOf 0).key = none := by decide +kernel

/-! ### The Doubler and corrected errors -/

theorem witness_RiskDoubles :
    up.doubler.quietAt + up.cfg 0x5000 3 * 60000000000 > up.now ∧
    (let s := { (up.modPwr fun w => { w with time := 10 ^ 15 }) with doubler := { up.doubler with risk := 5 } }
     s.doubler.quietAt + s.cfg 0x5000 3 * 60000000000 ≤ s.now ∧ (after .quietIntervalExpiry s).doubler.risk = 2) ∧
    (up.qualify.qualify.qualify.doubler.risk = 8) := by decide +kernel

theorem witness_SecureRequests :
    let s (ns : Nat) : State := { up with
      ctxs := [(0, { secure := { hasGroup := true, committedOnce := true, commitNs := 0 } }), (1, {})]
      pwr := { up.pwr with time := ns } }
    let limit := up.cfg 0x5000 4 * 60000000000
    ((s limit).ctxTime 0 = limit ∧ limit ≠ 0) ∧ ((after .maxIntervalExpiry (s limit)).ctx 0).secure.latch = true ∧
    ((after .maxIntervalExpiry (s (limit - 1))).ctx 0).secure.latch = false ∧
    ((after .maxIntervalExpiry (s limit)).ctx 1).secure.latch = false := by decide +kernel

/-- CE_MIN 3: the third error of a window after one of 1 raises; after one of 2 it does not. -/
theorem witness_CorrectedErrors :
    let s (prev : Nat) : State := { up.setCfg 0x5000 8 (leBytes 4 3) with
      hbmStacks := [(4, { ceCur := 2, cePrev := prev })], dies := [(1, { ceCur := 2, cePrev := prev })] }
    (s 1).cfg 0x5000 8 = 3 ∧ (after (.hbmCorrectedError false 4) (s 1)).doubler.risk = 2 * up.doubler.risk ∧
    (after (.hbmCorrectedError false 4) (s 2)).doubler.risk = up.doubler.risk ∧
    (after (.hbmCorrectedError true 1) (s 1)).doubler.risk = 2 * up.doubler.risk ∧
    ((after (.hbmCorrectedError true 1) (s 2)).die 1).ceCur = 3 ∧ ((after .ceWindowEnd (s 1)).stack 4).cePrev = 1 ∧
    ((after .ceWindowEnd ((s 1).modPwr fun w => { w with time := 60000000000 })).stack 4).cePrev = 2 ∧
    ((after .ceWindowEnd ((s 1).modPwr fun w => { w with time := 120000000000 })).stack 4).cePrev = 0 := by decide +kernel

/-! ### HBM events -/

/-- 24 counts: one of 25 among ones is more than twice the mean, one of 2 is not. -/
theorem witness_HbmEvents :
    let counts (n : Nat) : List Nat := n :: List.replicate 23 1
    let s := live {}
    0 < s.partCount ∧ (s.part 0).st = .ready ∧ (counts 25).length = 3 * s.dieCount ∧ (State.reset.part 0).st ≠ .ready ∧
    ((after (.hotChannelWindow 0 (counts 25)) s).stack 0).hot = 1 ∧ ((after (.hotChannelWindow 0 (counts 2)) s).stack 0).hot = 0 ∧
    ((after (.phyRetrain 3 7) s).stack 3).retrained = 7 := by decide +kernel

theorem test_queued_writes :
    let s := { live {} with hbmStacks := [(0, { draining := true })] }
    ((after (.queuedWritesComplete 0) s).part 0).cause = 4 ∧ ((after (.queuedWritesComplete 1) s).part 0).st = .ready := by
  decide +kernel

/-! ### The links of the fabric -/

/-- Port 0 as given, in the mode given (1 fabric, 2 Ethernet). -/
def linked (mode : Nat) (x : Port) : State := { up.setCfg 0x4000 1 (leBytes 1 mode) with ports := [(0, x)] }

def flit (kind vc seq : Nat) (data : Bytes) : Bytes :=
  let head := sized 252 (leBytes 8 (kind * 2 ^ 60 + vc * 2 ^ 57 + seq * 2 ^ 45 + 7 * 2 ^ 29 + data.length * 2 ^ 12) ++ data)
  head ++ leBytes 4 (crc32c head).toNat

/-- Two flits of one packet sent and not acknowledged, from SEQ 5. -/
def sentOne (fails : Nat) : Port :=
  let f (n : Nat) : SentFlit :=
    { kind := n, vc := 0, seq := 4 + n, creditVc := 0, credit := 0, data := [7], no := some 0, ctl := none, time := 0 }
  { st := .up, txSeq := 7, replay := [f 1, f 2], sendFails := fails, resentFrom := some 5 }

/-- What a port says in answer: its control messages not yet acknowledged. -/
def said (s : State) : List (Option Ctl) := (s.port 0).replay.map (·.ctl)

/-- A flit in sequence is taken, one out of sequence, unreadable or uncorrectable is answered by a NAK; data of a packet is
kept until its END; an IDLE flit takes no SEQ. -/
theorem witness_FlitsReceived :
    (flitCrcOk (flit 1 2 9 [1, 2]) = true ∧ flitCrcOk (zeros 256) = false) ∧
    ([0, 1, 2, 3, 4].all fun n => (flitOf (flit n 2 9 [1])).kind == n) = true ∧ (flitOf (flit 1 2 9 [1])).vc = 2 ∧
    (let s := linked 1 { st := .up, rxSeq := 9 }
     let got (b : Bytes) := after (.flitReceive 0 ⟨b, some 3⟩) s
     (s.port 0).linked = true ∧ (State.reset.port 0).linked = false ∧
     ((got (flit 1 2 9 (zeros 48))).port 0).rxSeq = 10 ∧ ((got (flit 1 2 9 (zeros 48))).port 0).fec = 3 ∧
     ((got (flit 1 2 9 (zeros 48))).port 0).asm.map (fun a => (a.vc, a.flits)) = [(2, 1)] ∧
     said (got (flit 1 2 8 [1])) = [some (.nak 9)] ∧ said (got (flit 0 0 9 [])) = [] ∧ (flitOf (flit 0 0 9 [])).seq = 9 ∧
     ((got (flit 0 0 9 [])).port 0).rxSeq = 9 ∧ ((got (flit 4 0 9 [])).port 0).rxSeq = 10 ∧
     said (got (flit 0 0 8 [])) = [some (.nak 9)] ∧ said (got (zeros 256)) = [some (.nak 9)] ∧
     said (after (.flitReceive 0 ⟨zeros 256, none⟩) s) = [some (.nak 9)] ∧
     said (after (.flitReceive 0 ⟨zeros 256, some 0⟩) (got (zeros 256))) = [some (.nak 9), some (.nak 9)]) ∧
    (let s (k : Packet) := { live {} with ports := [(0, { st := .up, rxq := [(k, 2, 1)] })] }
     collKnown pkt0 = true ∧ (after (.packetReceive 0) (s pkt0)).fab.handed = [pkt0] ∧
     (let k := { pkt0 with type := 1, offset := 9 * 2 ^ 36 }
      collKnown k = false ∧ (after (.packetReceive 0) (s k)).fab.handed = [] ∧ ((after (.packetReceive 0) (s k)).part k.dstPart).missing = 1) ∧
     ((after (.packetReceive 0) (s { pkt0 with checkOk := false })).port 0).discards = 1 ∧ (linked 1 {}).port 0 = {}) ∧
    (let s (n : Nat) := linked 2 (sentOne n)
     ((after (.nak 0 5) (s 6)).port 0).st = .up ∧ ((after (.nak 0 5) (s 7)).port 0).st = .down ∧
     ((after (.nak 0 5) (s 6)).port 0).replayed = 2 ∧ ((s 6).port 0).replay ≠ [] ∧ (s 6).cfg 0x4000 1 = 2 ∧
     (s 6).cfg 0x4000 0x14 * 1000 ≤ (s 6).now ∧
     ((after (.ethRetryTimeout 0) (s 6)).port 0).st = .up ∧ ((after (.ethRetryTimeout 0) (s 7)).port 0).st = .down) := by
  decide +kernel

/-- Of waiting packets of TC0 and TC1, TC1 has the first FILL_SHARE flits of each 100, and TC2 goes before both. -/
theorem test_fillShare :
    let k (tc type no : Nat) : TxPkt :=
      { no := no, pkt := { pkt0 with tc := tc, type := type, payload := [] }, len := 0, vc := 2 * tc, st := .whole }
    let x (n : Nat) (l : List TxPkt) : Port := { st := .up, txKey := some { key := 1, keyId := 0, count := 0, phase := false, since := 0 }, share := n, txq := l }
    let e : LinkEnv := { now := 0, fillShare := 30, udp := none, roundTrip := 2600 }
    let first (n : Nat) (l : List TxPkt) := ((x n l).choose e).1.map (·.no)
    first 29 [k 0 1 0, k 1 8 1] = some 1 ∧ first 30 [k 0 1 0, k 1 8 1] = some 0 ∧
    first 29 [k 0 1 0, k 1 8 1, k 2 16 2] = some 2 ∧ first 30 [k 1 8 1] = some 1 := by decide +kernel

def theKey (count : Nat) : LinkKey := { key := 1, keyId := 4, count := count, phase := false, since := up.now }

/-- 2^36 packets under a key are due for a new one, one fewer are not. -/
theorem witness_LanesAndKeys :
    (let s := linked 1 { st := .up, calAt := 0 }
     (s.port 0).lanesUsed = 4 ∧ (s.port 0).calAt + s.cfg 0x4000 6 * 1000000 ≤ s.now ∧ s.cfg 0x4000 1 = 1 ∧
     ((after (.calWindowOpen 0) s).port 0).cal = some (0, .mirroring) ∧ ((after (.lsLocked 0) s).port 0).rxReady = true ∧
     said (after (.lsLocked 0) s) = [some .laneReady] ∧
     ((after (.laneFailure 0 2) s).port 0).ls = some 2 ∧ ((after (.laneFailure 0 2) s).port 0).st = .degraded ∧
     ((after (.laneFailure 0 2) (linked 2 { st := .up })).port 0).st = .down) ∧
    ((after (.laneReady 0) (linked 1 { st := .up, cal := some (1, .mirroring) })).port 0).ls = some 1 ∧
    ((after (.laneReady 0) (linked 1 { st := .up, cal := some (1, .returning), ls := some 1 })).port 0).ls = none ∧
    ((after (.switch 0) (linked 1 { st := .up, rxReady := true })).port 0).rxLs = true ∧
    (let s := linked 1 { st := .up, cal := some (1, .switched), ls := some 1 }
     ((after (.calWindowEnd 0 true) s).port 0).cal = some (1, .returning) ∧ ((after (.calWindowEnd 0 false) s).port 0).laneFail = 2) ∧
    (let s := linked 1 { st := .degraded, cal := some (1, .switched), ls := some 1, laneFail := 2 }
     let t := after (.calWindowEnd 0 true) s
     (t.port 0).cal = none ∧ (t.port 0).ls = some 1 ∧ (t.port 0).st = .degraded ∧
     ((after (.calWindowEnd 0 false) s).port 0).laneFail = 18) ∧
    (let s (n : Nat) := linked 1 { st := .up, txKey := some (theKey n), rxKey := some (theKey 0), rxNext := some 8 }
     (s 0).sec.rngOk = true ∧
     ((after (.linkKeyRollover 0 9) (s (2 ^ 36))).port 0).txKey.map (fun k => (k.key, k.keyId, k.phase)) = some (9, 5, true) ∧
     said (after (.linkKeyRollover 0 9) (s (2 ^ 36))) = [some .keyPhase] ∧
     ((after (.linkKeyRollover 0 9) (s (2 ^ 36 - 1))).port 0).txKey.map (·.keyId) = some 4 ∧
     ((after (.keyPhase 0) (s 0)).port 0).rxKey.map (·.key) = some 8) := by decide +kernel

/-- A port comes UP with a trusted peer and goes DOWN without one, or without random numbers; the MGMT packets of MD wait in
order behind ROUTE, carry MCTP, or are answered BUSY. -/
theorem witness_PortEvents :
    let s := linked 1 { st := .up }
    let down := linked 1 { st := .down, downAt := up.now - 1000000000 }
    let root : Bytes := [1, 2, 3]
    let keyed := (after (.portTrained 0 0 0) (linked 1 { st := .training })).installKeys 0 1 2
    let auth := (keyed.setCfg 0x5800 4 (sha384 root)).modSec fun x =>
      { x with sessions := [{ id := 5, conn := .port 0, root := root, isOpen := true }] }
    let a : PeerAuth := { measurement7 := zeros 48, fwSvn := 0, accepts := true }
    let st (a : PeerAuth) (s : State) := ((after (.portAuthComplete 0 a) s).port 0).st
    let mg : Packet := { pkt0 with type := 0x10, payload := zeros 28 }
    let rt : Packet := { pkt0 with type := 0x11, payload := zeros 28 }
    let mctp : Packet := { mg with payload := leBytes 4 0xFFFFFFFF ++ zeros 8 ++ [1, 2] }
    let other : Packet := { mg with payload := zeros 12 ++ [1, 0, 9] ++ zeros 13 }
    let q := { up with fab := { up.fab with handed := [mg, rt, mctp, other] } }
    let after1 := after (.mgmtPacket mg) q
    ((after (.heartbeat 0 1 1) s).port 0).heardAt = up.now ∧ (after (.heartbeatSend 0) s).fab.hbCounter = 1 ∧
    (after (.heartbeatSend 0) (linked 1 { st := .up, hbAt := some (up.now - 249999) })).fab.hbCounter = 0 ∧
    ((after (.peerSilent 0) s).port 0).st = .down ∧ ((after (.lossOfSignal 0) s).port 0).st = .down ∧
    ((after (.portRetrain 0) down).port 0).st = .training ∧
    (down.domain 176).st = 2 ∧ (keyed.port 0).st = .auth ∧ (keyed.port 0).txKey.map (·.key) = some 2 ∧ up.ownId = 0 ∧
    up.opensPort 0 0 1 = true ∧ up.opensPort 0 0 0 = false ∧
    auth.atFabric root = true ∧ st a auth = .up ∧
    [st { a with accepts := false } auth, st { a with fwSvn := 1 } auth, st { a with measurement7 := [1] } auth,
      st a (auth.modPort 0 fun x => { x with rxKey := none }), st a (auth.modSec fun x => { x with sessions := [] }),
      st a { auth with sec := { auth.sec with rngOk := false } }] = [.down, .down, .down, .down, .down, .down] ∧
    ((after (.routePacket rt) after1).fab.mdQueue.map (·.route)) = [true, false] ∧
    (after (.mgmtPacket mctp) q).sec.mctpIn.map (·.2) = [[1, 2]] ∧
    (after (.mgmtPacket other) after1).fab.mdQueue.length = 1 ∧ (after (.mgmtPacket other) q).fab.mdQueue.length = 1 := by
  decide +kernel

/-! ### The object dictionary -/

/-- Written by OWNER: the entry's new value, or the abort code in the order of R382. -/
theorem witness_EntryCommands :
    up.serving = true ∧ up.pwr.phase = .serving ∧ State.reset.serving = false ∧
    (let a (index sub : Nat) (data : Bytes) := (after (.configWrite owner index sub data) up).lastAbort
     [a 0x0900 0 [], a 0x1000 0x7F [], a 0x1000 3 [], a 0x2000 1 [1], a 0x2000 1 [0xFF, 0xFF], a 0x2000 1 [0, 0], a 0x2000 1 [0x40, 0x06]] =
       [0x02, 0x03, 0x05, 0x08, 0x09, 0x0A, 0x00]) ∧
    (after (.configWrite { role := .observer } 0x2000 1 [0x40, 0x06]) up).lastAbort = 0x06 ∧
    (after (.configWrite { role := .tenant, part := 1 } 0x3200 1 (zeros 32)) up).lastAbort = 0x07 ∧
    (after (.pipBudgetWrite owner 1600) up).cfg 0x2000 1 = 1600 := by decide +kernel

theorem witness_EntryEffects_masks_and_queues :
    ((0xFFFF : BitVec 32).toNat < 2 ^ 18 ∧ popcount 18 0xFFFF = 16) ∧ up.partHasWork 0 = false ∧
    ((tiled 0 0).modRun 0 0 1 fun r => r).partHasWork 0 = true ∧
    (after (.roleMaskWrite owner 0 0xFFFF) up).lastAbort = 0 ∧ (after (.roleMaskWrite owner 0 0x7FFF) up).lastAbort = 0x0B ∧
    (after (.roleMaskWrite owner 0 0xFFFF) (tiled 0 0)).lastAbort = 0x0C ∧
    (let s := (live {}).modQueue 0 0 fun _ => {}
     let r := leBytes 32 (6 * 2 ^ 128 + 2 ^ 136 + 100 * 2 ^ 192)
     s.queueValueOk 0 (leNat r) = true ∧ recEnable (s.queueRec 0 0) = false ∧ recEnable (leNat r) = true ∧
     ((after (.queueConfigWrite owner 0 0 r) s).queue 0 0).st = .running ∧
     (after (.queueConfigWrite owner 1 0 r) s).lastAbort = 0x0C) := by decide +kernel

/-- A write of ENABLE 0 drops the run that still waits, and leaves the queue RUNNING while another is carried out. -/
theorem test_disable_drops_what_waits :
    let r (e : Nat) : Bytes := leBytes 32 (6 * 2 ^ 128 + e * 2 ^ 136 + 100 * 2 ^ 192)
    let w (n : Nat) (done : Bool) : Run := { theRun (desc 0x51 []) [] with seq := n, waitDone := done }
    let s := (live { startedSeq := 2, runs := [w 1 true, w 2 false] }).setCfg 0x3200 1 (r 1)
    ((after (.queueConfigWrite owner 0 0 (r 0)) s).queue 0 0).runs.map (·.seq) = [1] := by decide +kernel

theorem witness_EntryEffects_tables :
    let t : Bytes := leBytes 4 0 ++ leBytes 4 500 ++ [5, 3, 1] ++ zeros 5 ++ zeros 1008
    let s := (live {}).setCfg 0x3020 1 (leBytes 4 1000)
    let busy := poke (((live {}).setCfg 0x3600 0x30 (leBytes 8 0x10000)).setCfg 0x3600 0x31 (leBytes 4 1)) 0x10018 [1]
    ((live {}).ctx 1).hasWork = false ∧ (live {}).allIdle 1 = true ∧ busy.allIdle 0 = false ∧ (busy.ctx 0).hasWork = false ∧
    (after (.stashTableWrite owner 1 false 0x10000) s).cfg 0x3601 0x20 = 0x10000 ∧
    (after (.stashTableWrite owner 1 false 1) s).lastAbort = 0x0B ∧ (after (.kvConfigWrite owner 1 0x31 7) s).cfg 0x3601 0x31 = 7 ∧
    (after (.kvConfigWrite owner 0 0x31 7) busy).lastAbort = 0x0C ∧
    (after (.shapeWrite owner 2) up).shape = 2 ∧ (after (.shapeWrite owner 2) s).lastAbort = 0x0C ∧ (after (.shapeWrite owner 4) up).lastAbort = 0x09 ∧
    tableOk 1000 s.dieCount t = true ∧ (after (.slotTableWrite owner 0 t) s).lastAbort = 0 ∧
    (after (.slotTableWrite owner 0 t) (up.setCfg 0x3020 1 (leBytes 4 1000))).lastAbort = 0x0C ∧
    (after (.slotTableWrite owner 0 (leBytes 4 900 ++ t.drop 4)) s).lastAbort = 0x0B := by decide +kernel

theorem witness_EntryEffects_rest :
    (after (.coreMhzWrite owner 3 1025) up).cfg 0x2403 1 = 1025 ∧ (after (.coreMhzWrite owner 3 1026) up).lastAbort = 0x0B ∧
    ((after (.portModeWrite owner 5 1) up).port 5).st = .training ∧ ((after (.portModeWrite owner 5 0) up).port 5).st = .off ∧
    (1 < (ranked up).ranks 0 ∧ (after (.rankSet owner 0 (1 + 7 * 2 ^ 32)) (ranked up)).rankOf 0 1 = none) ∧
    (after (.domainEvent owner) up).doubler.risk = 2 * up.doubler.risk ∧ up.sec.fwStaged = none ∧
    ({ up with sec := { up.sec with fwStaged := some [1] } }.sec.fwStaged = some [1]) ∧
    (let s := { up with sec := { up.sec with sessions := [{ id := 1, conn := .dict (.host 0), who := { role := .operator }, isOpen := true }] } }
     (after (.anchorWrite owner 0x5800 2 (List.replicate 48 7)) s).sec.sessions = [] ∧
     (after (.anchorWrite owner 0x5800 3 (List.replicate 48 7)) s).sec.sessions.length = 1 ∧
     (after (.moduleReset owner) s).pwr.phase = .booting ∧ (after (.moduleReset owner) s).now = s.now + 1000000) ∧
    (let s (t : Nat) := { up with field := { up.field with changes := [(t, 9, 8), (up.now + 7, 5, 8)] } }
     (s 5).field.changes = (5, 9, 8) :: [(up.now + 7, 5, 8)] ∧ (after .nodeIdApply (s (up.now + 1))).field.changes.length = 2 ∧
     (after .nodeIdApply (s up.now)).field.changes = [(up.now + 7, 5, 8)] ∧ (after .nodeIdApply (s up.now)).field.nodeId = 9 ∧
     up.fieldChange.field.changes.map (·.1) = [up.now + 10000000]) := by decide +kernel

/-- One partition in each state, with its dies and stacks ready. -/
def lived (st : PartState) : State := { up with parts := [(0, { st := st, origin := 7 })] }

theorem witness_Lifecycles_partitions :
    0 < up.partCount ∧ (State.reset.part 0).st = .absent ∧ (lived .creating).partReady 0 = true ∧ up.sec.rngOk = true ∧
    ({ lived .creating with pwr := { up.pwr with diePass := 0xFE } }.partReady 0) = false ∧
    ((after (.partCreate owner 0) up).part 0).st = .creating ∧ (after (.partCreate owner 0) (lived .ready)).lastAbort = 0x0C ∧
    ((after (.partActivate owner 0) (lived .creating)).part 0).st = .activating ∧
    ((after (.activateComplete 0) (lived .activating)).part 0).st = .ready ∧
    ((after (.partReset owner 0) (lived .ready)).part 0).resets = 1 ∧ ((after (.partResetComplete 0 none) (lived .resetting)).part 0).st = .ready ∧
    ((lived .resetting).unitIn 0 0x2000 = true ∧ ((after (.partResetComplete 0 (some 0x2000)) (lived .resetting)).part 0).health = 1) ∧
    ((after (.partDestroy owner 0) (lived .ready)).part 0).st = .destroying ∧
    ((after (.destroyComplete 0) (lived .destroying)).part 0).st = .absent := by decide +kernel

/-- ACTIVATE reads zero everywhere in the partition. -/
theorem test_activate_zeroes :
    let s := poke (lived .activating) 0x12345 [7]
    peek s 0x12345 1 = [7] ∧ peek (after (.activateComplete 0) s) 0x12345 1 = [0] := by decide +kernel

theorem witness_Lifecycles_contexts :
    let s (c : CtxState) := { lived .ready with ctxs := [(0, { st := c })] }
    ((after (.ctxCreate owner 0) (s .free)).ctx 0).st = .active ∧ (after (.ctxCreate owner 0) (s .active)).lastAbort = 0x0C ∧
    ((after (.ctxTeardown owner 0) (s .faulted)).ctx 0).st = .teardown ∧ ((after (.teardownComplete 0) (s .teardown)).ctx 0) = {} ∧
    (after (.invalidate owner 0) (s .active)).lastAbort = 0 ∧ (after (.invalidate owner 0) up).lastAbort = 0x0C := by decide +kernel

/-! ### Requests and sessions -/

/-- A clear request frame with its wrapper. -/
def request (op id index sub off len : Nat) (data : Bytes) : Bytes :=
  zeros 4 ++ leBytes 8 1 ++ [1, BitVec.ofNat 8 op] ++ leBytes 2 id ++ leBytes 2 index ++ leBytes 1 sub ++ [0] ++ leBytes 4 off ++ leBytes 2 len ++
    zeros 2 ++ data

/-- The request submitted in the mailbox of H0. -/
def asked (s : State) (w : Bytes) : State := s.modHif 0 fun i => { i with busy := true, reqBuf := w, reqLen := w.length, lastToggle := true }

/-- The queue configuration of the worked example: RING_BASE, CPL_BASE, RING_LOG2 8 and the priority, ENABLE, vector 5, 50 us,
10,000 ms. -/
def exampleRecord (prio : Nat) : Bytes :=
  leBytes 8 0x1000000000 ++ leBytes 8 0x1000010000 ++ leBytes 1 (8 + 32 * prio) ++ [1] ++ leBytes 2 5 ++ leBytes 2 0 ++ leBytes 2 50 ++ leBytes 8 10000

/-- Enabling queue Q0 of context 5 through the mailbox: the answer is 28 bytes with ABORT 0 and the TOGGLE of the request; a second
request with another priority is STATE; a repeat of the first is answered from the store. -/
theorem test_mailbox_example :
    let s := (live {}).modCtx 5 fun c => { c with st := .active }
    let w := request 2 1 0x3205 1 0 32 (exampleRecord 0)
    let t := after (.write (.host 0) w) (asked s w)
    let w2 := request 2 2 0x3205 1 0 32 (exampleRecord 3)
    let t2 := after (.write (.host 0) w2) (asked t w2)
    w.length = 60 ∧ t.lastAbort = 0 ∧ (t.hif 0).respLen = 28 ∧ (t.hif 0).statusToggle = true ∧ (t.hif 0).busy = false ∧
    slice (t.hif 0).respBuf 12 16 = [1, 0x82] ++ leBytes 2 1 ++ leBytes 2 0x3205 ++ [1, 0] ++ zeros 8 ∧
    (t.queue 5 0).st = .running ∧ t2.lastAbort = 0x0C ∧ slice (t2.hif 0).respBuf 26 2 = leBytes 2 0x0C := by decide +kernel

def req0 (w : Bytes) : MdReq := { src := .host 0, part := 0, wrapper := w, route := false }

/-- A request of each code arrives, opens, is no repetition and has a good frame; a repetition, a bad frame. -/
theorem witness_DictionaryRequests :
    ([(1, 0x1000, 1, 0, 8, []), (2, 0x2000, 1, 0, 2, leBytes 2 1600), (3, 0x3020, 2, 1024, 0, []), (4, 0x3020, 2, 0, 1, [1]),
      (5, 0x3020, 2, 0, 0, []), (6, 0, 0, 0, 0, [])] : List (Nat × Nat × Nat × Nat × Nat × Bytes)).all (fun x =>
        let w := request x.1 7 x.2.1 x.2.2.1 x.2.2.2.1 x.2.2.2.2.1 x.2.2.2.2.2
        let s := asked up w
        s.serving && (s.arrive (.host 0) w == some (s, some (req0 w))) &&
          (s.unwrap (.host 0) w).any fun o =>
            let f := frameOf o.body
            !clearRefused (.host 0) o && f.ok && f.op == x.1 && s.seqOk (.host 0) o && ((s.chan (.host 0) o.sid).stored o f).isNone) = true ∧
    (frameOf (request 1 7 0x1000 1 0 2000 [])).ok = false ∧
    (let w := request 6 7 0 0 0 0 []
     let t := after (.cancel (.host 0) w) (asked up w)
     ((t.chan (.host 0) 0).lastReq.map (·.1)) = some 7) := by decide +kernel

/-- A read; the record of the example as a staged write in two parts, the second first; an overlap, a part missing, a TIMEOUT. -/
theorem test_dictionary :
    let go (i : Bytes → Instr) (w : Bytes) (s : State) : State := after (i w) (asked s w)
    let s := (live {}).modCtx 5 fun c => { c with st := .active }
    let b := go (.writeBegin (.host 0)) (request 3 1 0x3205 1 32 0 []) s
    let p1 := go (.writePart (.host 0)) (request 4 2 0x3205 1 16 16 ((exampleRecord 0).drop 16)) b
    let p2 := go (.writePart (.host 0)) (request 4 3 0x3205 1 0 16 ((exampleRecord 0).take 16)) p1
    (let t := go (.read (.host 0)) (request 1 9 0x2000 1 0 2 []) up
     t.lastAbort = 0 ∧ slice (t.hif 0).respBuf 28 2 = leBytes 2 (up.cfg 0x2000 1)) ∧
    b.lastAbort = 0 ∧ p2.lastAbort = 0 ∧ (go (.writePart (.host 0)) (request 4 3 0x3205 1 15 2 [1, 2]) p1).lastAbort = 0x0F ∧
    (go (.writeEnd (.host 0)) (request 5 4 0x3205 1 0 0 []) p1).lastAbort = 0x0F ∧
    ((go (.writeEnd (.host 0)) (request 5 4 0x3205 1 0 0 []) p2).queue 5 0).st = .running ∧
    ((after (.stagedTimeout (.host 0) 0) (p1.modPwr fun w => { w with time := w.time + 1000000000 })).chan (.host 0) 0).staged = none := by
  decide +kernel

def onH0 : Conn := .dict (.host 0)

def session (isOpen : Bool) (who : Who) : State :=
  { up with sec := { up.sec with negotiated := [onH0], sessions :=
    [{ id := 7, conn := onH0, who := who, isOpen := isOpen, chain := some { root := [], bytes := [] }, lastAt := up.now }] } }

theorem witness_SpdmMessages :
    up.connUp onH0 = true ∧ up.connUp (.dict (.host 1)) = true ∧ State.reset.connUp onH0 = false ∧ up.sessionsFull onH0 = false ∧
    ((List.range 16).foldl (fun s n => { s with sec := { s.sec with sessions := { id := BitVec.ofNat 32 n, conn := onH0 } :: s.sec.sessions } })
      up).sessionsFull onH0 = true ∧
    ((session false owner).sessionOn onH0 7).map (fun x => (x.isOpen, x.chain.isSome)) = some (false, true) ∧
    ((session true owner).sessionOn onH0 7).map (·.isOpen) = some true ∧
    (after (.negotiateAlgorithms onH0 [1, 2, 3, 4]) up).sec.negotiated = [onH0] ∧ (after (.negotiateAlgorithms onH0 [1, 2, 3]) up).sec.negotiated = [] ∧
    (after (.keyExchange onH0 9 1 2) (session true owner)).sec.sessions.map (·.id) = [7, 9] ∧
    (after (.endSession onH0 7) (session true owner)).sec.sessions = [] ∧
    (after (.sessionTimeout 7) ((session true owner).modPwr fun w => { w with time := w.time + 600000000000 })).sec.sessions = [] ∧
    (after (.sessionTimeout 7) ((session true owner).modPwr fun w => { w with time := w.time + 599999999999 })).sec.sessions.length = 1 := by
  decide +kernel

theorem witness_ClaimsAndDebug :
    up.pwr.phase = .serving ∧ up.sessionById 7 = none ∧ ((session true owner).sessionById 7).map (·.who) = some owner ∧
    isStaff Role.owner = true ∧ (session true owner).tokenOk 7 (zeros 96) = false ∧ (zeros 96).length = 96 ∧
    ((session true { role := .none }).sessionById 7).map (·.who.role) = some .none ∧ allZero (up.cfgBytes 0x5800 1) = true ∧
    (after (.debugNonce 7) up).lastAbort = 0x11 ∧ (after (.debugToken 7 (zeros 96)) (session true owner)).lastAbort = 0x0B ∧
    (let t := after (.ownerAnchor 7 (List.replicate 48 5)) (session true { role := .none })
     t.cfgBytes 0x5800 1 = List.replicate 48 5 ∧ t.sec.sessions.map (·.who.role) = [.owner]) ∧
    (after (.ownerAnchor 7 (zeros 48)) (session true owner)).sec.sessions = [] := by decide +kernel

/-- A token that verifies over a nonce is good for 60 s; whether one does is a free value (log 21). -/
theorem witness_ClaimsAndDebug_token (v : BitVec 128) (token : Bytes) (h : Config.debugTokenValid Config.serial v token = true) :
    { session true owner with sec := { (session true owner).sec with nonces := [(v, 7, up.now)] } }.tokenOk 7 token = true := by
  show (((7 : BitVec 32) == 7 && decide (up.now ≤ up.now + 60000000000) && Config.debugTokenValid Config.serial v token) || false) = true
  rw [h]
  decide +kernel

/-! ### Power, start-up and the pins -/

def booting : State := { State.reset with pwr := { State.reset.pwr with good := true, phase := .booting, time := 9 } }

theorem witness_PowerAndStartUp :
    State.reset.pwr.good = false ∧ (after (.powerGood 3) State.reset).pwr.phase = .booting ∧ (after .powerGoodLoss up).pwr.good = false ∧
    (after .powerGoodLoss up).ctxs = [] ∧ (after .hotSwapOpen up).pwr.opened = true ∧
    ((after .resetNAssert up).pwr.resetHeld = true ∧ (after .resetNAssert up).pwr.phase = .off) ∧
    (after .resetNRelease (after .resetNAssert up)).pwr.phase = .booting ∧
    (let t := after (.bootComplete none none true) booting
     t.pwr.phase = .serving ∧ t.pwr.bootNs = booting.now ∧ (t.domain 0).st = 1) ∧
    (after (.bootComplete (some 1) (some 2) true) booting).pwr.phase = .limited := by decide +kernel

theorem witness_PowerAndStartUp_parts :
    let s := { up with pwr := { up.pwr with diePass := 0xFC, stackReady := 0xFFFFF8, fieldReady := false } }
    s.pwr.shutdown = false ∧ s.pwr.dieFail.getLsbD 0 = false ∧ (s.domain 144).st = 2 ∧ s.pwr.stackFail.getLsbD 0 = false ∧ (s.domain 152).st = 2 ∧
    (after (.builtInTestDone 0 true 0x3FFFE) s).pwr.diePass = 0xFD ∧ (after (.builtInTestDone 0 true 0x3FFFE) s).isFenced 0 = true ∧
    ((after (.builtInTestDone 0 false 0) s).hif 0).failed = true ∧ (after (.stackTrained 1 true) s).pwr.stackReady = 0xFFFFFA ∧
    (after (.stackTrained 1 false) s).pwr.stackFail = 2 ∧ (after .fieldPortReady s).pwr.fieldReady = true ∧ s.serving = true ∧
    (let h := { up with hifs := [] }
     h.pwr.diePass.getLsbD 0 = true ∧ (h.domain 184).st = 2 ∧ ((after (.hostLinkUp 0 5 16) h).hif 0).ready = true ∧
     ((after (.hostLinkDown 0) up).hif 0).ready = false ∧ ((after (.perstAssert 0) up).hif 0).perst = true ∧
     ((after (.perstRelease 0) (after (.perstAssert 0) up)).hif 0).perst = false ∧
     (after (.hostLinkDown 0) up).log.recs.map (·.cls) = [0x0060]) := by decide +kernel

/-- A CANCEL in a ROUTE packet is ROLE. A staged write discarded after a second answers TIMEOUT once to its own entry, and
SEQUENCE to another. A value longer than 1,024 bytes is read on from its snapshot. -/
theorem witness_DictionaryRequests_channels :
    let route := wrap 9 1 (some 5) ((request 6 7 0 0 0 0 []).drop 12)
    let x : Session := { id := 9, conn := .dict (.fabric 1 0), key := 5, txKey := 6, isOpen := true, who := owner }
    let s := { up with
      sec := { up.sec with sessions := [x] }
      fab := { up.fab with mdQueue := [{ src := .fabric 1 0, part := 0, wrapper := route, route := true }] } }
    let go (i : Bytes → Instr) (w : Bytes) (s : State) : State := after (i w) (asked s w)
    let b := go (.writeBegin (.host 0)) (request 3 1 0x3205 1 32 0 []) (live {})
    let late := after (.stagedTimeout (.host 0) 0) (b.modPwr fun w => { w with time := w.time + 1000000000 })
    let r := go (.read (.host 0)) (request 1 1 0x3020 2 0 1024 []) up
    (s.arrive (.fabric 1 0) route).isSome = true ∧ (after (.cancel (.fabric 1 0) route) s).lastAbort = 0x06 ∧
    b.lastAbort = 0 ∧
    (go (.writePart (.host 0)) (request 4 2 0x3205 1 0 16 (zeros 16)) late).lastAbort = 0x10 ∧
    (go (.writePart (.host 0)) (request 4 2 0x3205 2 0 16 (zeros 16)) late).lastAbort = 0x0F ∧
    (r.lastAbort = 0 ∧ (r.chan (.host 0) 0).snap = none ∧ (r.hif 0).respLen = 28 + 1024) := by decide +kernel

/-- On a port in AUTH SPDM messages reach MD; one whose FINISH does not verify goes DOWN; no key is given without random
numbers. -/
theorem witness_SpdmMessages_ports :
    let s := linked 1 { st := .auth }
    s.connUp (.port 0) = true ∧ (linked 1 { st := .down }).connUp (.port 0) = false ∧
    (after (.keyExchange onH0 9 1 2) { session true owner with sec := { (session true owner).sec with rngOk := false } }).sec.sessions.map
      (·.id) = [7] ∧
    (let x : Session := { id := 8, conn := .port 0, isOpen := true, requester := true, lastAt := 0 }
     let t := { linked 1 { st := .up } with sec := { up.sec with sessions := [x] } }
     t.sessionOn (.port 0) 8 = some x ∧ ((after (.keyUpdate (.port 0) 8 5 6) t).port 0).rxNext = some 5 ∧
     (after (.sessionTimeout 8) (t.modPwr fun w => { w with time := 10 ^ 15 })).sec.sessions = [x]) := by decide +kernel

/-- Two neighbouring lines read make a stream upwards; without them nothing is fetched. A second report within a 10 ms window
does nothing. -/
theorem witness_HbmEvents_streams :
    let s := (live {}).modDie 0 fun x => { x with demand := [(0, 0x10080, 128), (0, 0x10000, 128)] }
    let t := after (.prefetchIssue 0 0 0x10080 false) s
    let counts (n : Nat) : List Nat := n :: List.replicate 23 1
    (s.die 0).detects 0 (0x10080 / 128) false = true ∧ (s.die 0).detects 0 (0x10080 / 128) true = false ∧
    (s.xlate 0 0x10080).isSome = true ∧ (t.die 0).streams.length = 1 ∧ ((after (.prefetchIssue 0 0 0x10080 true) s).die 0).streams = [] ∧
    (let u := after (.hotChannelWindow 0 (counts 2)) (live {})
     ((after (.hotChannelWindow 0 (counts 25)) u).stack 0).hot = 0) := by decide +kernel

/-- A CONV of 3 columns with HALO_WAIT whose counter is behind its producer. -/
theorem witness_WorkTileLimits_haloBehind :
    let b := blk [(8, 8, 0x11000), (0, 8, 0x10000), (16, 8, 0x20000), (44, 2, 1), (46, 2, 1), (48, 2, 1), (50, 2, 1), (52, 2, 1), (54, 2, 3),
      (56, 3, 0x030101), (59, 1, 0x11), (62, 1, 32), (64, 6, 0x100010001), (70, 6, 0x100010001), (90, 2, 5)]
    let r : Run := { theRun (desc 0x18 []) b with tiles := 1, haloAt := some 0 }
    let s := (live { startedSeq := 1, runs := [r] }).modPwr fun w => { w with time := 20000000000 }
    s.run 0 0 1 = some r ∧ r.next = some 0 ∧ s.haloOk 0 r 0 = false ∧ (s.setCounter 0 5 1).haloOk 0 r 0 = true ∧
    recWaitLimit (s.queueRec 0 0) * 1000000 ≤ s.ctxTime 0 ∧ ((after (.haloWaitTimeout 0 0 1) s).ctx 0).faultStatus = 0x18 := by decide +kernel

/-! ### Temperatures -/

/-- Sampled 90, 120, then 112 degrees: the die sees the median, 112, is capped at 500 MHz and raises its alert. -/
theorem witness_SensorsAndHeat :
    let see (x : Sensor) (t : Int) (s : State) : State := after (.sensorSample x t 0) s
    let two := see (.dieTemp 2) 120000 (see (.dieTemp 2) 90000 up)
    let t := see (.dieTemp 2) 112000 two
    let k := see (.stackTemp 3) 96000 (see (.stackTemp 3) 96000 (see (.stackTemp 3) 96000 up))
    let k2 := see (.stackTemp 3) 91000 (see (.stackTemp 3) 91000 k)
    ((two.sensorSt (.dieTemp 2)).samples = [120000, 90000] ∧ inRange (.dieTemp 2) 112000 0 = true ∧ inRange (.dieTemp 2) 150001 0 = false) ∧
    (t.die 2).temp = 112000 ∧ (t.die 2).cap = 500 ∧ (t.die 2).alert = true ∧
    (k.stack 3).thermal = 2 ∧ (k2.stack 3).thermal = 1 ∧ (((see (.stackTemp 3) 92001 (see (.stackTemp 3) 92001 k)).stack 3).thermal = 2) ∧ (((see (.stackTemp 3) 92000 (see (.stackTemp 3) 92000 k)).stack 3).thermal = 1) ∧
    (let once := see (.dieTemp 2) 150001 two
     (once.sensorSt (.dieTemp 2)).failed = false ∧ ((see (.dieTemp 2) 150001 once).sensorSt (.dieTemp 2)).failed = true) ∧
    ((after (.sensorTimeout (.dieTemp 2)) (two.modPwr fun w => { w with time := w.time + 4999999 })).sensorSt (.dieTemp 2)).failed = false ∧
    ((after (.sensorTimeout (.dieTemp 2)) (two.modPwr fun w => { w with time := w.time + 5000000 })).die 2).temp = 150000 := by decide +kernel

theorem witness_SensorsAndHeat_caps :
    let s (t : Int) (cap : Nat) : State := { up with dies := [(2, { temp := t, cap := cap })] }
    let hot (ns : Nat) : State := { up with dies := [(2, { temp := 115000, hotSince := some (up.now - ns) })] }
    let soon := after (.thermalCapStep 2) (s 100000 1100)
    ((after (.thermalCapStep 2) (s 100000 1100)).die 2).cap = 975 ∧ ((after (.thermalCapStep 2) (s 96999 600)).die 2).cap = 625 ∧
    ((after (.thermalCapStep 2) (s 97000 600)).die 2).cap = 600 ∧
    (soon.die 2).capAt = some up.now ∧ ((after (.thermalCapStep 2) soon).die 2).cap = 975 ∧
    (let t := after (.thermalShutdown false 2) (hot 1000000)
     1000000 ≤ up.now ∧ t.pwr.shutdown = true ∧ (t.domain 0).st = 0) ∧
    (after (.thermalShutdown false 2) (hot 999999)).pwr.shutdown = false := by decide +kernel

/-! ### Power delivery -/

/-- The worked example: an idle pool of 1,664 pips is 208 for each die. -/
theorem witness_PipsDivided :
    divide 1664 (List.replicate 8 0) (List.replicate 8 0) = List.replicate 8 208 ∧
    (List.replicate 8 16).sum ≤ 1664 ∧ up.pwr.ledgerOn = true ∧ up.pwr.dividedAt = none ∧
    (after .pipDivision up).pwr.dividedAt = some (up.now / 100000) ∧ State.reset.pwr.ledgerOn = false ∧
    divide 10 [100, 0, 0, 0, 0, 0, 0, 0] [2, 2, 0, 0, 0, 0, 0, 0] = [8, 2, 0, 0, 0, 0, 0, 0] := by decide +kernel

/-- The worked example's first intervals: two grants of 11 pips in the first 10 us, a third only in the next. -/
theorem test_ramp_example :
    let ask (s : State) (c : Nat) : State := after (.pipGrant 0) ((s.modCore c fun k =>
      { k with tile := some { g := 0, q := 0, seq := 1, idx := c, base := 11, cost := 11, mhz := 1100, askedAt := 0, takenAt := 0 } }).modDie 0 fun x =>
        { x with waiting := x.waiting ++ [c] })
    let s0 : State := { live {} with dies := [(0, { allot := 208 })] }
    let s3 := ask (ask (ask s0 0) 1) 2
    (s3.die 0).granted = 22 ∧ (s3.die 0).waiting = [2] ∧ ((after (.pipGrant 0) (after .rampInterval (s3.modPwr fun w => { w with time := w.time + 10000 }))).die 0).granted = 33 ∧
    ((after (.pipGrant 0) (s3.modPwr fun w => { w with time := w.time + 10000 })).die 0).granted = 22 := by decide +kernel

theorem witness_DroopAndRamps :
    up.daleRuns 5 = true ∧ (up.dale 5).droopAt = none ∧ (after (.droopTrip 5) up).doubler.risk = 2 * up.doubler.risk ∧
    (let s := after (.droopTrip 5) up
     let later (n : Nat) : State := s.modPwr fun w => { w with time := w.time + n }
     (s.dale 5).droopAt = some up.now ∧ ((after (.droopStretchEnd 5 700) (later 99)).dale 5).droopAt = some up.now ∧
     ((after (.droopStretchEnd 5 700) (later 100)).dale 5).droopAt = none ∧ (after (.droopStretchEnd 5 700) (later 100)).log.next = s.log.next + 1 ∧
     (let again := after (.droopTrip 5) ((after (.droopStretchEnd 5 700) (later 100)))
      again.doubler.risk = s.doubler.risk ∧ (again.dale 5).stretches = 2)) ∧
    (let s : State := { up with dies := [(0, { allot := 208 })] }
     let t := after (.droopCalibration 3) s
     let at_ (n : Nat) (t : State) : State := t.modPwr fun w => { w with time := w.time + n }
     let u := after (.calibrationStepEnd 3 40) (at_ 2000 t)
     s.isFenced 3 = false ∧ s.inHold 3 = false ∧ (t.core 3).cal = some 8 ∧ (u.die 0).granted = 0 ∧
     ((after (.calibrationStepEnd 3 40) (at_ 1999 t)).core 3).cal = some 8 ∧
     ((after (.droopCalibration 3) (after .rampInterval (at_ 9999999999 u))).core 3).cal = none ∧
     ((after (.droopCalibration 3) (after .rampInterval (at_ 10000000000 u))).core 3).cal = some 8) ∧
    (let s : State := { up with pwr := { up.pwr with rampedAt := none, domains := [(144, { st := 1 })] } }
     let t := after .rampInterval s
     let u := after .rampInterval (t.modPwr fun w => { w with time := w.time + 10000 })
     ((after .rampInterval t).domain 144).admitted = 25 ∧ (t.domain 144).admitted = 25 ∧ (u.domain 144).admitted = 34 ∧ ((after (.domainOn 144 true) t).domain 144).st = 1 ∧
     ((after (.domainOn 144 true) u).domain 144).st = 2 ∧ ((after (.domainOn 144 false) t).domain 144).st = 3) := by decide +kernel

/-! ### Faults of units -/

theorem witness_UnitFaults :
    let s := live {}
    (s.domain 3).st = 2 ∧ s.isFenced 3 = false ∧ (after (.coreFault 3 1) s).isFenced 3 = true ∧ ((after (.coreFault 3 1) s).domain 3).st = 0 ∧
    (s.isActive 17 = false ∧ ((after (.spareCoreTest 17 true) s).core 17).testOk = true ∧ (after (.spareCoreTest 17 false) s).isFenced 17 = true) ∧
    (s.part (s.partOfDie 0)).st = .ready ∧ ((after (.dieHubFault 0 12) s).part 0).cause = 2 ∧ ((after (.dieHubFault 0 13) s).part 0).st = .ready ∧
    ((after (.mcFault 0 2) s).part 0).cause = 5 ∧ (s.partOfDie 0 = s.partOfDie 1 ∧ ((after (.d2dLinkFault 0 1) s).part 0).cause = 3) ∧
    (let t := after (.shapeWrite owner 0) State.reset
     let u := { up with store := (after (.shapeWrite owner 0) up).store }
     t.pending = [] ∧ u.partOfDie 0 ≠ u.partOfDie 1 ∧ (u.link 0).out = false ∧ ((after (.d2dLinkFault 0 1) u).link 0).out = true ∧
     ((after (.d2dLinkRetrained 0 true) (after (.d2dLinkFault 0 1) u)).link 0).out = false) ∧
    (let t := after (.regulatorPhaseFailure 5 0) s
     (t.domain 5).phases = [0] ∧ ((after (.regulatorPhaseFailure 5 1) t).domain 5).st = 3) ∧
    (after (.rngHealthFail 1) s).sec.rngOk = false ∧ ((after (.colOverrun 3 212) s).dale 212).overruns = [3] ∧ s.daleRuns 212 = true ∧
    (s.inHold 3 = false ∧ s.inHold 212 = false ∧ ((after (.colTimeout 3 212) s).dale 212).timeouts = 1) ∧
    (let h := s.modDomain 208 id
     let d : State := { s with pwr := { s.pwr with diePass := 0xFE } }
     h.inHold 3 = false ∧ d.inHold 3 = true ∧ ((after (.colHoldTimeout 3 208) d).hif 0).failed = true ∧
     (after (.colHoldTimeout 3 40) d).isFenced 40 = true) := by decide +kernel

/-! ### Pins -/

/-- The table of R433 by its conditions, and the place of port J5's lane LS under R437. -/
theorem test_pins :
    let held := after .resetNAssert up
    let perst := after (.perstAssert 0) up
    State.reset.pin .blades = .hotSwapOpen ∧ up.pin .blades = .powered ∧ State.reset.pin .resetN = .highImpedance ∧
    held.pin .strap = .input ∧ held.pin (.refclk 0) = .terminationsOff ∧ held.pin (.pcieLanes 1) = .undriven ∧
    perst.pin (.pcieLanes 0) = .undriven ∧ perst.pin (.pcieLanes 1) = .active ∧ perst.pin (.refclk 0) = .terminated ∧
    lanePlace 5 4 = (1, 9, 28, 29) := by decide +kernel

/-! ### Further clauses -/

/-- Without the interval taken up nothing is granted. -/
theorem witness_PipsGranted_interval :
    let s := after (.workTileSelect 3) (tiled 0 0)
    let late := s.modPwr fun w => { w with time := w.time + 10000 }
    s.pwr.rampedAt = some (s.now / 10000) ∧ late.pwr.rampedAt ≠ some (late.now / 10000) ∧ (late.core 3).tile.isSome = true ∧
    ((after (.pipGrant 0) s).die 0).granted = 6 ∧ ((after (.pipGrant 0) late).die 0).granted = 0 := by decide +kernel

/-- Of five cores three go to slot 2, the next one to slot 5, and one is left over. -/
theorem witness_SlotAssignment_later :
    let sl (n : Nat) : Slot := slotOf (leBytes 4 0 ++ leBytes 4 500 ++ [0, BitVec.ofNat 8 n, 1] ++ zeros 5) 0
    let t := State.assignSlots 0 0 1000 0 [(2, sl 3), (5, sl 1)] [4, 5, 6, 7, 8] up
    (sl 3).cores = 3 ∧ ([4, 5, 6, 7, 8].map fun c => (t.core c).slot) = [some 2, some 2, some 2, some 5, none] := by decide +kernel

/-- A get that waits for a replay: a core takes the replay's work tile for it, and its halo wait has a limit. -/
theorem witness_WorkTileTaken_get :
    let d := desc 0x31 [(16, 8, 0x19000)]
    let x : Spec := { aSpec with slice := none, owner := some (0, 1), nextTile := 2 }
    let s := (live { tail := 1, takenSeq := 1, startedSeq := 1, runs := [theRun d []] }).modStash 0 fun t => { t with specs := [x] }
    s.coreFree 3 = true ∧ s.choice 3 = some (0, true) ∧ s.pairLive 3 = none ∧
    inTurnAfter (s.ctx 0).lastQueue (s.bestQueues 0) = some 0 ∧ (s.readyIn 0 0).map (·.2) = some 2 ∧ s.replayFor 0 0 1 = some x ∧
    (((after (.workTileSelect 3) s).core 3).tile.map fun t => (t.replay, t.q, t.seq, t.idx)) = some (some 7, 0, 1, 2) := by
  decide +kernel

theorem witness_WorkTileLimits_get :
    let b := blk [(8, 8, 0x11000), (0, 8, 0x10000), (16, 8, 0x20000), (44, 2, 1), (46, 2, 1), (48, 2, 1), (50, 2, 1), (52, 2, 1), (54, 2, 3),
      (56, 3, 0x030101), (59, 1, 0x11), (62, 1, 32), (64, 6, 0x100010001), (70, 6, 0x100010001), (90, 2, 5)]
    let x : Spec := { aSpec with slice := none, owner := some (0, 1), steps := [.chain (desc 0x18 []) none], block := b, tiles := 1 }
    let s := ((live { startedSeq := 1, runs := [theRun (desc 0x31 []) []] }).modStash 0 fun t => { t with specs := [x] }).modPwr fun w =>
      { w with time := 20000000000 }
    s.replayFor 0 0 1 = some x ∧ x.next = some 0 ∧ x.step = some (desc 0x18 [], none) ∧ s.haloMet 0 (desc 0x18 []) b 0 = false ∧
    x.haloAt + recWaitLimit (s.forceRec 0 0) * 1000000 ≤ s.ctxTime 0 ∧
    ((after (.haloWaitTimeout 0 0 1) s).ctx 0).faultStatus = 0x18 ∧
    ((after (.haloWaitTimeout 0 0 1) (s.setCounter 0 5 1)).ctx 0).st = .active := by decide +kernel

/-- An entry stored as REPLAY, whose recipe is a chain of one GEMM: its get starts the replay, takes over a speculative one, and
lets one go on that waits at an internal get. -/
theorem witness_StashGetsAndRecipes_replay :
    let chain := desc 0x10 []
    let recipe := leBytes 8 0x1C000 ++ zeros 32 ++ leBytes 4 0 ++ leBytes 4 (crc32c chain).toNat ++ zeros 16
    let s := poke (poke (poke (stashed 16 4 1 1 (desc 0x31 [(16, 8, 0x19000)])) 0x1000E [4]) 0x10040 recipe) 0x1C000 chain
    let x (o : Option (Nat × Nat)) (st : List RStep) : Spec :=
      { no := 9, handle := 0, slice := some 0, group := 0, stage := 0x19000, owner := o, steps := st }
    let has (y : Spec) : State := s.modStash 0 fun t => { t with specs := [y] }
    let takenOver := has (x none [.chain chain none])
    let held := has (x (some (0, 1)) [.place 0 0x19000 2])
    let turn (s : State) : Bool := s.engineChoice (codecUnit 0) 1 0 (s.codecReadyAt 0) == some 0 &&
      ((s.run 0 0 1).map (s.codecReady 0 0)) == some true
    (s.entryOk 0 0).toOption.map (fun e => (e.st, e.used, (s.replaySteps false 0 0 e 0x19000 3).toOption.map (·.length))) =
      some (1, 4, some 1) ∧
    s.groupBusy 0 0 = false ∧ s.specOf 0 0 = none ∧ turn s = true ∧ ((after (.stashGet 0 0 1) s).ctx 0).stash.specs.length = 1 ∧
    turn takenOver = true ∧ takenOver.specOf 0 0 = some (x none [.chain chain none]) ∧
    ((after (.stashGet 0 0 1) takenOver).ctx 0).stash.specs.map (·.owner) = [some (0, 1)] ∧
    turn held = true ∧ held.mayNest 0 (x (some (0, 1)) [.place 0 0x19000 2]) = true := by decide +kernel

/-- A chunk eight past the lowest unfinished one waits in its port's buffer. -/
theorem witness_FlitsReceived_waits :
    let k (chunk : Nat) : Packet :=
      { fromOne 1 0 (leBytes 4 0x40000000) with offset := BitVec.ofNat 64 (0x070000 * 2 ^ 40 + chunk * 65536) }
    let s (chunk : Nat) : State := { collecting pkt0 with ports := [(0, { st := .up, rxq := [(k chunk, 2, 1)] })] }
    (s 8).mayDeliver 0 (k 8) = true ∧ (s 8).collWaits (k 8) = true ∧ (s 7).collWaits (k 7) = false ∧
    ((after (.packetReceive 0) (s 8)).port 0).rxq.length = 1 ∧ ((after (.packetReceive 0) (s 7)).port 0).rxq = [] := by decide +kernel

/-- The host link of a context goes down while its ring, in host memory, holds a descriptor that it has not fetched. -/
theorem witness_PowerAndStartUp_link :
    let r : Bytes := leBytes 8 0x10000 ++ leBytes 8 0x20000 ++ leBytes 1 6 ++ [1] ++ zeros 14
    let s := ((live { tail := 1 }).setCfg 0x3200 1 r).modCtx 0 fun c => { c with tlb := [(1, 0x0700000000010000)] }
    let t := after (.hostLinkDown 0) s
    (s.hif 0).ready = true ∧ s.hostIfOf 0 = 0 ∧ (List.range 8).find? (s.unfetched 0) = some 0 ∧
    (t.ctx 0).faultStatus = 0x1B ∧ (t.ctx 0).faultAt = 1 ∧ ((after (.hostLinkDown 0) (live {})).ctx 0).st = .active := by decide +kernel

/-- A context in TEARDOWN stays so while a core holds its work, and its entries read their defaults afterwards. -/
theorem witness_Lifecycles_teardown :
    let s := (working 0 1 (desc 0x10 []) []).modCtx 0 fun c => { c with st := .teardown }
    let free := (s.setCfg 0x3600 5 [9]).modCore 3 fun k => { k with tile := none }
    ((after (.teardownComplete 0) s).ctx 0).st = .teardown ∧ ((after (.teardownComplete 0) free).ctx 0).st = .free ∧
    free.cfg 0x3600 5 = 9 ∧ (after (.teardownComplete 0) free).cfgBytes 0x3600 5 = State.reset.cfgBytes 0x3600 5 := by decide +kernel

/-- Shut down, no queue goes on. -/
theorem witness_SensorsAndHeat_dark :
    let s := { live { tail := 1 } with pwr := { up.pwr with shutdown := true } }
    s.pwr.shutdown = true ∧ ((after (.descriptorTake 0 0) s).queue 0 0).takenSeq = 0 := by decide +kernel

end Sys2Proof.Tests
end

section
/-! What one command keeps of the queue, the ordering code and the fused security version number (R2, R375), and the
sealed records of a form opened again (R177). -/
namespace Sys2Proof.Machine

/-! ### Every command keeps the queue and the ordering code -/

theorem kept_of_next {s u t : State} (h : s.kept u) (e : (Host.Outcome.next u : Host.Outcome State Fault Refusal) = .next t) :
    s.kept t := by
  cases e; exact h

theorem kept_of_next_fixed {s u t : State} (h : u.fixed = s.fixed)
    (e : (Host.Outcome.next u : Host.Outcome State Fault Refusal) = .next t) : s.kept t :=
  kept_of_next (State.kept_of_fixed h) e

/-- One row for each operation that commands end in. Only a write of the dictionary can reach COMMIT_SVN, and even that
leaves the queue and the ordering code alone. -/
theorem exec_kept (s t : State) : (i : Instr) → exec i s = .next t → s.kept t
  -- Doorbells, queues and work tiles
  | .sqTail .. => kept_of_next_fixed (State.sqTail_fixed ..)
  | .cqHead .. => kept_of_next_fixed (State.cqHead_fixed ..)
  | .hostSignal .. => kept_of_next_fixed (State.hostSignal_fixed ..)
  | .mboxDoorbell .. | .overrunClear .. | .moduleTimeLo .. | .msixEnable .. => kept_of_next_fixed (State.modHif_fixed ..)
  | .descriptorTake .. => kept_of_next_fixed (State.takeNext_fixed ..)
  | .descriptorStart .. => kept_of_next_fixed (State.startNext_fixed ..)
  | .waitSatisfied .. => kept_of_next_fixed (State.waitSatisfied_fixed ..)
  | .waitTimeout .. => kept_of_next_fixed (State.waitTimeout_fixed ..)
  | .workTileSelect .. => kept_of_next_fixed (State.tileSelect_fixed ..)
  | .pipGrant .. => kept_of_next_fixed (State.pipGrant_fixed ..)
  | .workTileEnd .. => kept_of_next_fixed (State.tileEnd_fixed ..)
  | .watchdog .. => kept_of_next_fixed (State.watchdog_fixed ..)
  | .descriptorFinish .. => kept_of_next_fixed (State.descriptorFinish_fixed ..)
  | .completionRecordWrite .. => kept_of_next_fixed (State.recordWrite_fixed ..)
  | .intHoldoffExpiry .. => kept_of_next_fixed (State.holdoffExpiry_fixed ..)
  -- What descriptors do
  | .moveCopy .. | .moveFill .. | .moveZero .. => kept_of_next_fixed (State.moveRow_fixed ..)
  | .check .. => kept_of_next_fixed (State.checkRow_fixed ..)
  | .gemm .. | .gemmBwd .. | .dist .. | .crop .. | .attnFwd .. | .attnBwd .. => kept_of_next_fixed (State.dataRow_fixed ..)
  | .convFwd .. | .convBwdData .. | .convBwdWeight .. | .convDw .. | .maxPool .. | .avgValid ..
  | .avgAll .. => kept_of_next_fixed (State.convRow_fixed ..)
  | .haloWaitTimeout .. => kept_of_next_fixed (State.haloTimeout_fixed ..)
  | .kvAppend .. | .truncate .. | .setPriority .. | .boundary .. | .kvFree .. => kept_of_next_fixed (State.kvRow_fixed ..)
  | .kvAllocResume .. | .kvBufferResume .. => kept_of_next_fixed (State.kvResume_fixed ..)
  | .vec .. => kept_of_next_fixed (State.vecRow_fixed ..)
  | .layer .. | .rms .. | .stats .. | .splitSum .. => kept_of_next_fixed (State.normRow_fixed ..)
  | .stashPut .. => kept_of_next_fixed (State.codecRow_fixed _ _ _ _ _ _ fun _ => State.put_fixed ..)
  | .stashGet .. => kept_of_next_fixed (State.codecRow_fixed _ _ _ _ _ _ fun _ => State.get_fixed ..)
  | .recipe .. => kept_of_next_fixed (State.recipeRow_fixed ..)
  | .specReplayStart .. => kept_of_next_fixed (State.specStart_fixed ..)
  | .specReplayDone .. => kept_of_next_fixed (State.specDone_fixed ..)
  | .uniform .. | .normal .. | .bits .. | .dropout .. | .noiseAdd .. => kept_of_next_fixed (State.diceRow_fixed ..)
  | .stepCommit .. => kept_of_next_fixed (State.boundaryRow_fixed _ _ _ _ _ _ fun _ => State.stepCommit_fixed ..)
  | .stepRepeat .. => kept_of_next_fixed (State.boundaryRow_fixed _ _ _ _ _ _ fun _ => State.stepRepeat_fixed ..)
  | .allReduce .. | .reduceScatter .. | .allGather .. | .broadcast .. => kept_of_next_fixed (State.collRow_fixed ..)
  | .secure .. | .restore .. | .fill .. => kept_of_next_fixed (State.secureRow_fixed ..)
  | .register .. => kept_of_next_fixed (State.registerRow_fixed ..)
  | .sync .. | .nop .. => kept_of_next_fixed (State.frontRow_fixed _ _ _ _ _ _ fun _ _ => rfl)
  | .syncClear .. => kept_of_next_fixed (State.frontRow_fixed _ _ _ _ _ _ fun _ _ => State.clearCounters_fixed ..)
  -- Memory
  | .tileReread .. => kept_of_next_fixed (State.reread_fixed ..)
  | .prefetchIssue .. => kept_of_next_fixed (State.prefetch_fixed ..)
  | .hotChannelWindow .. => kept_of_next_fixed (State.hotWindow_fixed ..)
  | .phyRetrain .. => kept_of_next_fixed (State.retrain_fixed ..)
  -- Collectives and secure operations: their packets and limits
  | .collData .. => kept_of_next_fixed (State.collPacket_fixed _ _ _ _ _ fun _ _ _ _ => State.onData_fixed ..)
  | .collResult .. => kept_of_next_fixed (State.collPacket_fixed _ _ _ _ _ fun _ _ _ _ => State.onResult_fixed ..)
  | .collSparse .. => kept_of_next_fixed (State.collPacket_fixed _ _ _ _ _ fun _ _ _ _ => State.onSparse_fixed ..)
  | .collSign .. => kept_of_next_fixed (State.collPacket_fixed _ _ _ _ _ fun _ _ _ _ => State.onSign_fixed ..)
  | .collBs16 .. => kept_of_next_fixed (State.collPacket_fixed _ _ _ _ _ fun _ _ _ _ => State.ringAdd_fixed ..)
  | .collMeta .. => kept_of_next_fixed (State.collPacket_fixed _ _ _ _ _ fun _ _ _ _ => State.onMeta_fixed ..)
  | .collBs16Result .. => kept_of_next_fixed (State.collPacket_fixed _ _ _ _ _ fun _ _ _ _ => State.onBsResult_fixed ..)
  | .collSignature .. => kept_of_next_fixed (State.collPacket_fixed _ _ _ _ _ fun _ _ _ _ => State.onSignature_fixed ..)
  | .collMissing .. => kept_of_next_fixed (State.onMissing_fixed ..)
  | .stragglerTimeout .. => kept_of_next_fixed (State.straggle_fixed ..)
  | .secureVoteMessage .. => kept_of_next_fixed (State.voteMessage_fixed ..)
  | .parityPacket .. => kept_of_next_fixed (State.parityPacket_fixed ..)
  | .holderDone .. => kept_of_next_fixed (State.holderDone_fixed ..)
  | .fillPacket .. => kept_of_next_fixed (State.fillPacket_fixed ..)
  | .groupKeyRequest .. => kept_of_next_fixed (State.keyRequest_fixed ..)
  -- Errors counted
  | .quietIntervalExpiry => kept_of_next_fixed (State.quietExpiry_fixed ..)
  | .maxIntervalExpiry => kept_of_next_fixed (State.maxExpiry_fixed ..)
  | .ceWindowEnd => kept_of_next_fixed (State.ceRoll_fixed ..)
  | .hbmCorrectedError .. => kept_of_next_fixed (State.corrected_fixed ..)
  -- Ports and links
  | .flitReceive .. => kept_of_next_fixed (State.flitIn_fixed ..)
  | .packetReceive .. => kept_of_next_fixed (State.packetReceive_fixed ..)
  | .nak .. => kept_of_next_fixed (State.onNak_fixed ..)
  | .laneReady .. => kept_of_next_fixed (State.laneReady_fixed ..)
  | .switch .. => kept_of_next_fixed (State.switchIn_fixed ..)
  | .keyPhase .. => kept_of_next_fixed (State.keyPhaseIn_fixed ..)
  | .heartbeat .. => kept_of_next_fixed (State.heartbeat_fixed ..)
  | .heartbeatSend .. => kept_of_next_fixed (State.heartbeatSend_fixed ..)
  | .peerSilent .. => kept_of_next_fixed (State.peerSilent_fixed ..)
  | .mgmtPacket .. => kept_of_next_fixed (State.mgmtIn_fixed ..)
  | .routePacket .. => kept_of_next_fixed (State.routeIn_fixed ..)
  | .calWindowOpen .. => kept_of_next_fixed (State.calOpen_fixed ..)
  | .calWindowEnd .. => kept_of_next_fixed (State.calEnd_fixed ..)
  | .laneFailure .. => kept_of_next_fixed (State.laneFailure_fixed ..)
  | .lossOfSignal .. => kept_of_next_fixed (State.lossOfSignal_fixed ..)
  | .portRetrain .. => kept_of_next_fixed (State.portRetrain_fixed ..)
  | .portTrained .. => kept_of_next_fixed (State.portTrained_fixed ..)
  | .portAuthComplete .. => kept_of_next_fixed (State.portAuth_fixed ..)
  | .linkKeyRollover .. => kept_of_next_fixed (State.keyRollover_fixed ..)
  | .ethRetryTimeout .. => kept_of_next_fixed (State.ethRetry_fixed ..)
  -- Partitions, contexts and the dictionary
  | .stagedTimeout .. => kept_of_next_fixed (State.stagedTimeout_fixed ..)
  | .activateComplete .. => kept_of_next_fixed (State.activated_fixed ..)
  | .partResetComplete .. => kept_of_next_fixed (State.partResetDone_fixed ..)
  | .destroyComplete .. => kept_of_next_fixed (State.destroyDone_fixed ..)
  | .teardownComplete .. => kept_of_next_fixed (State.teardownDone_fixed ..)
  | .nodeIdApply => kept_of_next_fixed (State.nodeIdApply_fixed ..)
  | .debugNonce .. => kept_of_next_fixed (State.nonceIn_fixed ..)
  -- SPDM
  | .getVersion .. => kept_of_next_fixed (State.getVersion_fixed ..)
  | .getCapabilities .. => kept_of_next_fixed (State.spdmOn_fixed _ _ _ fun _ => State.spdmSend_fixed ..)
  | .negotiateAlgorithms .. => kept_of_next_fixed (State.negotiate_fixed ..)
  | .getDigests .. => kept_of_next_fixed (State.getDigests_fixed ..)
  | .getCertificate .. => kept_of_next_fixed (State.getCertificate_fixed ..)
  | .challenge .. => kept_of_next_fixed (State.challenge_fixed ..)
  | .getMeasurements .. => kept_of_next_fixed (State.getMeasurements_fixed ..)
  | .keyExchange .. => kept_of_next_fixed (State.keyExchange_fixed ..)
  | .spdmFinish .. => kept_of_next_fixed (State.spdmFinish_fixed ..)
  | .keyUpdate .. => kept_of_next_fixed (State.keyUpdate_fixed ..)
  | .spdmHeartbeat .. => kept_of_next_fixed (State.spdmHeartbeat_fixed ..)
  | .endSession .. => kept_of_next_fixed (State.endSession_fixed ..)
  | .sessionTimeout .. => kept_of_next_fixed (State.sessionTimeout_fixed ..)
  -- Power, start-up and sensors
  | .powerGood .. => kept_of_next_fixed (State.powerGood_fixed ..)
  | .powerGoodLoss => kept_of_next_fixed (State.powerGoodLoss_fixed ..)
  | .resetNAssert => kept_of_next_fixed (State.resetAssert_fixed ..)
  | .resetNRelease => kept_of_next_fixed (State.resetRelease_fixed ..)
  | .bootComplete .. => kept_of_next_fixed (State.bootComplete_fixed ..)
  | .builtInTestDone .. => kept_of_next_fixed (State.testDone_fixed ..)
  | .stackTrained .. => kept_of_next_fixed (State.stackTrained_fixed ..)
  | .perstAssert .. => kept_of_next_fixed (State.perstAssert_fixed ..)
  | .hostLinkDown .. => kept_of_next_fixed (State.hostLinkDown_fixed ..)
  | .hostLinkUp .. => kept_of_next_fixed (State.hostUp_fixed ..)
  | .sensorSample .. => kept_of_next_fixed (State.sample_fixed ..)
  | .sensorTimeout .. => kept_of_next_fixed (State.sensorTimeout_fixed ..)
  | .thermalCapStep .. => kept_of_next_fixed (State.capStep_fixed ..)
  | .thermalShutdown .. => kept_of_next_fixed (State.thermalShutdown_fixed ..)
  | .droopTrip .. => kept_of_next_fixed (State.droopTrip_fixed ..)
  | .droopStretchEnd .. => kept_of_next_fixed (State.droopEnd_fixed ..)
  | .droopCalibration .. => kept_of_next_fixed (State.calStart_fixed ..)
  | .calibrationStepEnd .. => kept_of_next_fixed (State.calStop_fixed ..)
  | .pipDivision => kept_of_next_fixed (State.pipDivision_fixed ..)
  | .rampInterval => kept_of_next_fixed (State.rampInterval_fixed ..)
  | .domainOn .. => kept_of_next_fixed (State.domainOn_fixed ..)
  -- Faults
  | .colOverrun .. => kept_of_next_fixed (State.colOverrun_fixed ..)
  | .colTimeout .. => kept_of_next_fixed (State.colTimeout_fixed ..)
  | .colHoldTimeout .. => kept_of_next_fixed (State.colHoldTimeout_fixed ..)
  | .coreFault .. => kept_of_next_fixed (State.coreFault_fixed ..)
  | .spareCoreTest .. => kept_of_next_fixed (State.spareTest_fixed ..)
  | .dieCacheParity .. => kept_of_next_fixed (State.cacheParity_fixed ..)
  | .regulatorPhaseFailure .. => kept_of_next_fixed (State.phaseFailure_fixed ..)
  | .dieHubFault .. => kept_of_next_fixed (State.dieHubFault_fixed ..)
  | .mcFault .. => kept_of_next_fixed (State.memFault_fixed ..)
  | .d2dLinkFault .. => kept_of_next_fixed (State.linkFault_fixed ..)
  | .rngHealthFail .. => kept_of_next_fixed (State.rngFail_fixed ..)
  -- Slots, hosts and links that come back, answers and limits
  | .frameStart .. => kept_of_next_fixed (State.frameStart_fixed ..)
  | .slotBoundary .. => kept_of_next_fixed (State.slotBoundary_fixed ..)
  | .perstRelease .. => kept_of_next_fixed (State.perstRelease_fixed ..)
  | .d2dLinkRetrained .. => kept_of_next_fixed (State.linkRetrained_fixed ..)
  | .lsLocked .. => kept_of_next_fixed (State.lsLock_fixed ..)
  | .fieldPortReady => kept_of_next_fixed (State.fieldUp_fixed ..)
  | .hotSwapOpen => kept_of_next_fixed (State.hotSwapOpen_fixed ..)
  | .queuedWritesComplete .. => kept_of_next_fixed (State.writesDone_fixed ..)
  | .encapsulatedRequest .. => kept_of_next_fixed (State.encapsulated_fixed ..)
  | .spdmResponse .. => kept_of_next_fixed (State.spdmReply_fixed ..)
  | .pointExchange .. => kept_of_next_fixed (State.pointExchange_fixed ..)
  | .secureVoteTimeout .. => kept_of_next_fixed (State.voteTimeout_fixed ..)
  -- Writes of the dictionary, which may commit the SVN
  | .domainEvent .. | .portModeWrite .. | .rankSet .. | .configWrite .. | .partCreate ..
  | .partActivate .. | .partReset .. | .partDestroy .. | .ctxCreate .. | .ctxTeardown ..
  | .invalidate .. | .queueConfigWrite .. | .roleMaskWrite .. | .kvConfigWrite .. | .shapeWrite ..
  | .slotTableWrite .. | .pipBudgetWrite .. | .coreMhzWrite .. | .fwApply .. | .commitSvn ..
  | .anchorWrite .. => kept_of_next (State.writeBy_kept ..)
  | .read .. | .write .. | .writeBegin .. | .writePart .. | .writeEnd .. | .cancel .. =>
    kept_of_next (State.dictRow_kept ..)
  | .stashTableWrite .. => kept_of_next (by split <;> exact State.writeBy_kept ..)
  | .moduleReset .. => kept_of_next (State.moduleResetRow_kept ..)
  | .debugToken .. | .ownerAnchor .. => kept_of_next (State.writeIn_kept ..)

/-- Settles O6: each command's operation leaves the queue and the ordering code alone, also where it raises the fused SVN. -/
theorem execKeepsQueue : Obligations.ExecKeepsQueue := by
  intro i s t h
  obtain ⟨hpending, hvariant, -⟩ := exec_kept s t i h
  exact ⟨hpending, hvariant⟩

/-! ### The lengths of AES-256's blocks and keys -/

theorem flatten_length_of_uniform {α : Type} {k : Nat} {l : List (List α)} (h : ∀ w ∈ l, w.length = k) :
    l.flatten.length = l.length * k := by
  rw [List.length_flatten, List.sum_eq_card_nsmul _ k (by simpa using h), List.length_map, smul_eq_mul]

@[simp] theorem xorBytes_length (a b : List Nat) : (xorBytes a b).length = min a.length b.length :=
  List.length_zipWith

/-- A run of 4 · n cuts into n runs of four. -/
theorem fours_uniform (n : Nat) (l : List Nat) (h : l.length = 4 * n) :
    (fours n l).length = n ∧ ∀ w ∈ fours n l, w.length = 4 := by
  induction n generalizing l with
  | zero => simp [fours]
  | succ n ih =>
    match l, h with
    | a :: b :: c :: d :: rest, h =>
      obtain ⟨hlen, hw⟩ := ih rest (by simp only [List.length_cons] at h; omega)
      simpa [fours, hlen] using hw

theorem nth_length_of_uniform {k i : Nat} {l : List (List Nat)} (h : ∀ w ∈ l, w.length = k) (hi : i < l.length) :
    (nth [] l i).length = k := by
  have hmem : nth [] l i = l[i] := by simp [nth, List.headD_eq_head?_getD, List.head?_drop, hi]
  exact hmem ▸ h _ (List.getElem_mem hi)

/-- The key schedule adds one word of four bytes for each of its n steps. -/
theorem aesExpand_uniform (n i rcon : Nat) (acc : List (List Nat)) (h8 : 8 ≤ acc.length) (h : ∀ w ∈ acc, w.length = 4) :
    (aesExpand n i rcon acc).length = n + acc.length ∧ ∀ w ∈ aesExpand n i rcon acc, w.length = 4 := by
  have hprev := nth_length_of_uniform h (i := 0) (by omega)
  have hold := nth_length_of_uniform h (i := 7) (by omega)
  induction n generalizing i rcon acc with
  | zero => exact ⟨by simp [aesExpand], h⟩
  | succ n ih =>
    have grow (j r : Nat) (w : List Nat) (hw : w.length = 4) :
        (aesExpand n j r (w :: acc)).length = n + 1 + acc.length ∧ ∀ x ∈ aesExpand n j r (w :: acc), x.length = 4 := by
      have hacc : ∀ x ∈ w :: acc, x.length = 4 := by simpa [hw] using h
      obtain ⟨hlen, hall⟩ := ih j r (w :: acc) (by simp; omega) hacc
        (nth_length_of_uniform hacc (by simp)) (nth_length_of_uniform hacc (by simp; omega))
      exact ⟨by rw [hlen, List.length_cons]; omega, hall⟩
    unfold aesExpand
    dsimp only
    split
    · exact grow _ _ _ (by simp [hold, hprev])
    · split
      · exact grow _ _ _ (by simp [hold, hprev])
      · exact grow _ _ _ (by simp [hold, hprev])

theorem aesKeys_uniform (key : BitVec 256) : ∀ k ∈ aesKeys (keyBytes key), k.length = 16 := by
  obtain ⟨hlen, hfour⟩ := fours_uniform 8 (keyBytes key) (by simp [keyBytes])
  obtain ⟨hwords, hword⟩ := aesExpand_uniform 52 8 1 (fours 8 (keyBytes key)).reverse (by simp [hlen]) (by simpa using hfour)
  simp only [aesKeys, List.mem_map, List.mem_range, forall_exists_index, and_imp]
  rintro _ r hr rfl
  rw [flatten_length_of_uniform (k := 4) fun w hw =>
    hword w (List.mem_reverse.1 (List.mem_of_mem_drop (List.mem_of_mem_take hw)))]
  simp only [List.length_take, List.length_drop, List.length_reverse, hwords, hlen]
  omega

@[simp] theorem aesShift_length (st : List Nat) : (aesShift st).length = 16 := by simp [aesShift]

theorem aesMix_length (st : List Nat) (h : st.length = 16) : ((fours 4 st).map aesMixCol).flatten.length = 16 := by
  rw [flatten_length_of_uniform (k := 4) (by simp [aesMixCol]), List.length_map, (fours_uniform 4 st h).1]

theorem aesRounds_length (keys : List (List Nat)) (st : List Nat) (hk : ∀ k ∈ keys, k.length = 16) (h : st.length = 16) :
    (aesRounds keys st).length = 16 := by
  induction keys, st using aesRounds.induct with
  | case1 st => exact h
  | case2 k st => simp [aesRounds, hk]
  | case3 k ks st hks ih =>
    rw [aesRounds.eq_3 _ _ _ hks]
    refine ih (fun x hx => hk x (List.mem_cons_of_mem _ hx)) ?_
    rw [xorBytes_length, aesMix_length _ (aesShift_length _), hk k List.mem_cons_self, min_self]

theorem aesBlock_length (keys : List (List Nat)) (blk : List Nat) (hk : ∀ k ∈ keys, k.length = 16) (h : blk.length = 16) :
    (aesBlock keys blk).length = 16 := by
  cases keys with
  | nil => exact h
  | cons k ks =>
    refine aesRounds_length ks _ (fun x hx => hk x (List.mem_cons_of_mem _ hx)) ?_
    rw [xorBytes_length, h, hk k List.mem_cons_self, min_self]

/-! ### AES-256-GCM: what is sealed opens -/

@[simp] theorem beBytes_length (n v : Nat) : (beBytes n v).length = n := by simp [beBytes]

theorem ctrStream_length (keys : List (List Nat)) (nonce : Bytes) (n ctr : Nat) (hk : ∀ k ∈ keys, k.length = 16)
    (h : nonce.length = 12) : (ctrStream keys nonce n ctr).length = 16 * n := by
  induction n generalizing ctr with
  | zero => rfl
  | succ n ih =>
    have hblk := aesBlock_length keys ((nonce ++ beBytes 4 ctr).map (·.toNat)) hk (by simp [h])
    rw [ctrStream, List.length_append, List.length_map, hblk, ih]
    ring

theorem le_sixteen_mul_ceilDiv (n : Nat) : n ≤ 16 * ceilDiv n 16 := by unfold ceilDiv; omega

theorem zipWith_xor_cancel (a b : Bytes) (h : a.length ≤ b.length) :
    List.zipWith (· ^^^ ·) (List.zipWith (· ^^^ ·) a b) b = a := by
  induction a generalizing b with
  | nil => rfl
  | cons x a ih =>
    cases b with
    | nil => simp at h
    | cons y b => simpa [BitVec.xor_assoc] using ih b (by simpa using h)

section
variable {keys : List (List Nat)} {nonce : Bytes} (hk : ∀ k ∈ keys, k.length = 16) (hn : nonce.length = 12)
include hk hn

/-- The key stream is as long as what it covers. -/
theorem length_le_ctrStream (pt : Bytes) : pt.length ≤ (ctrStream keys nonce (ceilDiv pt.length 16) 2).length :=
  ctrStream_length keys nonce _ _ hk hn ▸ le_sixteen_mul_ceilDiv pt.length

theorem gcmCrypt_length (pt : Bytes) : (gcmCrypt keys nonce pt).length = pt.length := by
  rw [gcmCrypt, List.length_zipWith, min_eq_left (length_le_ctrStream hk hn pt)]

theorem gcmCrypt_gcmCrypt (pt : Bytes) : gcmCrypt keys nonce (gcmCrypt keys nonce pt) = pt := by
  conv_lhs => rw [gcmCrypt, gcmCrypt_length hk hn]
  exact zipWith_xor_cancel pt _ (length_le_ctrStream hk hn pt)

end

theorem gcmSeal_length (key : BitVec 256) (nonce aad pt : Bytes) (hn : nonce.length = 12) :
    (gcmSeal key nonce aad pt).1.length = pt.length :=
  gcmCrypt_length (aesKeys_uniform key) hn pt

@[simp] theorem gcmSeal_tag_length (key : BitVec 256) (nonce aad pt : Bytes) : (gcmSeal key nonce aad pt).2.length = 16 := by
  simp [gcmSeal, gcmTag]

theorem gcmOpen_gcmSeal (key : BitVec 256) (nonce aad pt : Bytes) (hn : nonce.length = 12) :
    gcmOpen key nonce aad (gcmSeal key nonce aad pt).1 (gcmSeal key nonce aad pt).2 = some pt := by
  simp [gcmOpen, gcmSeal, gcmCrypt_gcmCrypt (aesKeys_uniform key) hn]

/-! ### Pieces of a run of bytes -/

theorem pieces_nil (fuel n : Nat) : pieces fuel n [] = [] := by cases fuel <;> rfl

theorem pieces_succ (fuel n : Nat) (bs : Bytes) (h : bs ≠ []) :
    pieces (fuel + 1) n bs = bs.take n :: pieces fuel n (bs.drop n) := by
  cases bs with
  | nil => exact absurd rfl h
  | cons b bs => rfl

theorem pieces_flatten (fuel n : Nat) (bs : Bytes) (hn : 0 < n) (h : bs.length ≤ fuel) : (pieces fuel n bs).flatten = bs := by
  induction fuel generalizing bs with
  | zero => simp [pieces, List.length_eq_zero_iff.1 (Nat.le_zero.1 h)]
  | succ fuel ih =>
    by_cases hbs : bs = []
    · simp [hbs, pieces_nil]
    · rw [pieces_succ fuel n bs hbs, List.flatten_cons, ih (bs.drop n) (by rw [List.length_drop]; omega), List.take_append_drop]

/-- Runs as long, one by one, as the pieces of some bytes are themselves the pieces of what they join to. -/
theorem pieces_of_same_lengths (fuel n : Nat) (bs : Bytes) (cs : List Bytes) (hn : 0 < n)
    (h : cs.map List.length = (pieces fuel n bs).map List.length) : pieces fuel n cs.flatten = cs := by
  induction fuel generalizing bs cs with
  | zero =>
    rw [pieces, List.map_nil, List.map_eq_nil_iff] at h
    rw [h, pieces]
  | succ fuel ih =>
    by_cases hbs : bs = []
    · rw [hbs, pieces_nil, List.map_nil, List.map_eq_nil_iff] at h
      simp [h, pieces_nil]
    · rw [pieces_succ fuel n bs hbs] at h
      obtain ⟨c, rest, rfl, hc, hrest⟩ := List.map_eq_cons_iff.1 h
      have hpos := List.length_pos_iff.2 hbs
      rw [List.length_take] at hc
      have hne : (c :: rest).flatten ≠ [] := by
        intro h0
        have hc0 : c = [] := List.flatten_eq_nil_iff.1 h0 c List.mem_cons_self
        simp only [hc0, List.length_nil] at hc
        omega
      have hcut : (c :: rest).flatten.take n = c ∧ (c :: rest).flatten.drop n = rest.flatten := by
        by_cases hfull : n ≤ bs.length
        · have hcn : c.length = n := by omega
          simp [← hcn]
        · rw [List.drop_eq_nil_of_le (by omega), pieces_nil, List.map_nil, List.map_eq_nil_iff] at hrest
          subst hrest
          have hle : c.length ≤ n := by omega
          exact ⟨by simpa using hle, by simpa using hle⟩
      rw [pieces_succ fuel n _ hne, hcut.1, hcut.2, ih (bs.drop n) rest hrest]

/-! ### Sealed records open (R177) -/

/-- The records of pieces numbered from i on. -/
def sealFrom (key : BitVec 256) (epoch g h : Nat) : Nat → List Bytes → List (Bytes × Bytes)
  | _, [] => []
  | i, p :: ps => gcmSeal key (sendNonce epoch g h i) (sendAad epoch g h i p.length) p :: sealFrom key epoch g h (i + 1) ps

section
variable (key : BitVec 256) (epoch g h : Nat)

theorem map_zip_range'_eq_sealFrom (i : Nat) (ps : List Bytes) :
    ((List.range' i ps.length).zip ps).map
      (fun p => gcmSeal key (sendNonce epoch g h p.1) (sendAad epoch g h p.1 p.2.length) p.2) = sealFrom key epoch g h i ps := by
  induction ps generalizing i with
  | nil => rfl
  | cons p ps ih => simp [sealFrom, List.range'_succ, ih]

theorem sealRecords_eq (form : Bytes) :
    sealRecords key epoch g h form =
      (((sealFrom key epoch g h 0 (pieces form.length 65536 form)).map (·.1)).flatten,
       ((sealFrom key epoch g h 0 (pieces form.length 65536 form)).map (·.2)).flatten) := by
  simp only [sealRecords, List.range_eq_range', map_zip_range'_eq_sealFrom, List.flatMap_def]

@[simp] theorem sendNonce_length (i : Nat) : (sendNonce epoch g h i).length = 12 := by simp [sendNonce]

theorem sealFrom_lengths (i : Nat) (ps : List Bytes) :
    ((sealFrom key epoch g h i ps).map (·.1)).map List.length = ps.map List.length := by
  induction ps generalizing i with
  | nil => rfl
  | cons p ps ih => rw [sealFrom, List.map_cons, List.map_cons, List.map_cons, ih, gcmSeal_length _ _ _ _ (by simp)]

theorem openPieces_sealFrom (i : Nat) (ps : List Bytes) :
    openPieces key epoch g h i ((sealFrom key epoch g h i ps).map (·.1)) ((sealFrom key epoch g h i ps).map (·.2)).flatten =
      some ps.flatten := by
  induction ps generalizing i with
  | nil => rfl
  | cons p ps ih =>
    have hnonce := sendNonce_length epoch g h i
    have hopen := gcmOpen_gcmSeal key _ (sendAad epoch g h i p.length) p hnonce
    simp [sealFrom, openPieces, gcmSeal_length _ _ _ _ hnonce, List.take_left', List.drop_left', hopen, ih]

theorem openRecords_sealRecords (form : Bytes) :
    openRecords key epoch g h (sealRecords key epoch g h form).1 (sealRecords key epoch g h form).2 = some form := by
  have hlengths := sealFrom_lengths key epoch g h 0 (pieces form.length 65536 form)
  have hform : (pieces form.length 65536 form).flatten = form := pieces_flatten _ _ _ (by norm_num) le_rfl
  have hct : (((sealFrom key epoch g h 0 (pieces form.length 65536 form)).map (·.1)).flatten).length = form.length := by
    rw [List.length_flatten, hlengths, ← List.length_flatten, hform]
  rw [sealRecords_eq, openRecords, hct, pieces_of_same_lengths _ _ form _ (by norm_num) hlengths, openPieces_sealFrom, hform]

end

/-- Settles O35: the key stream covers every piece, so counter mode undoes itself, and the ciphertext cuts into the pieces
of the form. -/
theorem sealedRecordsOpen : Obligations.SealedRecordsOpen := openRecords_sealRecords

end Sys2Proof.Machine
end

section
/-! What the updates of one context change and what they leave: the frame OnlyCtx, the queues, the started descriptors and the
sync counters read after an update. -/
namespace Sys2Proof.Machine

/-! ### Only one context differs -/

theorem OnlyCtx.refl (g : Nat) (s : State) : OnlyCtx g s s := ⟨rfl, fun _ _ => rfl⟩

theorem OnlyCtx.trans {g : Nat} {s t u : State} (h : OnlyCtx g s t) (k : OnlyCtx g t u) : OnlyCtx g s u := by
  refine ⟨?_, fun j hj => (k.2 j hj).trans (h.2 j hj)⟩
  calc u = { t with ctxs := u.ctxs } := k.1
    _ = { s with ctxs := u.ctxs } := by rw [h.1]

section
variable (s : State) (g : Nat)

theorem State.onlyCtx_modCtx (f : Ctx → Ctx) : OnlyCtx g s (s.modCtx g f) := ⟨rfl, fun k hk => s.ctx_modCtx_ne g k f hk⟩

theorem State.onlyCtx_modQueue (q : Nat) (f : Queue → Queue) : OnlyCtx g s (s.modQueue g q f) := by
  rw [State.modQueue, State.setQueue]
  exact s.onlyCtx_modCtx g _

theorem State.onlyCtx_modRun (q seq : Nat) (f : Run → Run) : OnlyCtx g s (s.modRun g q seq f) := s.onlyCtx_modQueue g q _

theorem State.onlyCtx_setCounter (n : Nat) (v : BitVec 32) : OnlyCtx g s (s.setCounter g n v) := s.onlyCtx_modCtx g _

/-! ### Queues and started descriptors after an update -/

/-- Besides its queues an update of a queue leaves everything of its context alone. -/
theorem State.ctx_modQueue_same (q : Nat) (f : Queue → Queue) :
    (s.modQueue g q f).ctx g = { s.ctx g with queues := mapSet (s.ctx g).queues q (f (s.queue g q)) } := by
  rw [State.modQueue, State.setQueue, State.ctx_modCtx_same]

/-- An update of a context that leaves its queues alone leaves every queue alone. -/
theorem State.queue_modCtx_of_queues (f : Ctx → Ctx) (h : (f (s.ctx g)).queues = (s.ctx g).queues) (k q : Nat) :
    (s.modCtx g f).queue k q = s.queue k q := by
  by_cases hk : k = g
  · rw [hk, State.queue, State.queue, State.ctx_modCtx_same, Ctx.queue, Ctx.queue, h]
  · rw [State.queue, State.queue, s.ctx_modCtx_ne g k f hk]

theorem State.run_modQueue_of_runs (q : Nat) (f : Queue → Queue) (h : (f (s.queue g q)).runs = (s.queue g q).runs) (seq : Nat) :
    (s.modQueue g q f).run g q seq = s.run g q seq := by
  rw [State.run, State.run, State.queue_modQueue_same, Queue.run, Queue.run, h]

/-- A started descriptor read after its own update. -/
theorem State.run_modRun_same (q seq : Nat) (f : Run → Run) (hf : ∀ r, (f r).seq = r.seq) :
    (s.modRun g q seq f).run g q seq = (s.run g q seq).map f := by
  have hseq : ((fun r => r.seq == seq) ∘ fun r => if r.seq == seq then f r else r) = fun r => r.seq == seq := by
    funext r
    by_cases hr : r.seq = seq <;> simp [hr, hf]
  simp only [State.run, State.modRun, State.queue_modQueue_same, Queue.run, modWhere, List.find?_map, hseq]
  cases hr : List.find? (fun r => r.seq == seq) (s.queue g q).runs with
  | none => rfl
  | some r => simp only [Option.map_some, List.find?_some hr, if_true]

theorem State.run_modRun_of_some (q seq : Nat) (f : Run → Run) (r : Run) (h : s.run g q seq = some r) (hf : ∀ r, (f r).seq = r.seq) :
    (s.modRun g q seq f).run g q seq = some (f r) := by
  rw [s.run_modRun_same g q seq f hf, h, Option.map_some]

theorem State.queue_noteStart (q seq : Nat) (d : Bytes) (k j : Nat) : (s.noteStart g q seq d).queue k j = s.queue k j := by
  unfold State.noteStart
  split
  case h_5 => rfl
  all_goals exact s.queue_modCtx_of_queues g _ rfl k j

theorem State.run_noteStart (q seq : Nat) (d : Bytes) (k j n : Nat) : (s.noteStart g q seq d).run k j n = s.run k j n := by
  rw [State.run, State.run, State.queue_noteStart]

theorem State.onlyCtx_noteStart (q seq : Nat) (d : Bytes) : OnlyCtx g s (s.noteStart g q seq d) := by
  unfold State.noteStart
  split
  case h_5 => exact OnlyCtx.refl g s
  all_goals exact s.onlyCtx_modCtx g _

/-! ### Sync counters -/

theorem State.counter_setCounter (n m : Nat) (v : BitVec 32) :
    (s.setCounter g n v).counter g m = if m = n then v else s.counter g m := by
  rw [State.setCounter, State.counter, State.ctx_modCtx_same]
  split
  next h => rw [h, mapGet_mapSet_same]
  next h => exact mapGet_mapSet_ne _ _ _ _ _ h

theorem State.queue_setCounter (n : Nat) (v : BitVec 32) (k q : Nat) : (s.setCounter g n v).queue k q = s.queue k q :=
  s.queue_modCtx_of_queues g _ rfl k q

theorem State.counter_modQueue (q : Nat) (f : Queue → Queue) (k n : Nat) : (s.modQueue g q f).counter k n = s.counter k n := by
  by_cases hk : k = g
  · rw [hk, State.counter, State.counter, State.ctx_modQueue_same]
  · rw [State.counter, State.counter, (s.onlyCtx_modQueue g q f).2 k hk]

theorem State.counter_modRun (q seq : Nat) (f : Run → Run) (k n : Nat) : (s.modRun g q seq f).counter k n = s.counter k n :=
  s.counter_modQueue g q _ k n

/-- A run of counters is cleared one after another. -/
theorem State.clearCounters_succ (first n : Nat) :
    s.clearCounters g first (n + 1) = (s.clearCounters g first n).setCounter g (first + n) 0 := by
  simp [State.clearCounters, List.range_succ]

theorem State.counter_clearCounters (first n m : Nat) :
    (s.clearCounters g first n).counter g m = if first ≤ m ∧ m < first + n then 0 else s.counter g m := by
  induction n with
  | zero => rw [if_neg (by omega)]; rfl
  | succ n ih =>
    rw [State.clearCounters_succ, State.counter_setCounter, ih]
    by_cases hm : m = first + n
    · rw [if_pos hm, if_pos (by omega)]
    · rw [if_neg hm]
      exact if_congr (by omega) rfl rfl

theorem State.queue_clearCounters (first n k q : Nat) : (s.clearCounters g first n).queue k q = s.queue k q := by
  induction n with
  | zero => rfl
  | succ n ih => rw [State.clearCounters_succ, State.queue_setCounter, ih]

theorem State.onlyCtx_clearCounters (first n : Nat) : OnlyCtx g s (s.clearCounters g first n) := by
  induction n with
  | zero => exact OnlyCtx.refl g s
  | succ n ih => exact s.clearCounters_succ g first n ▸ ih.trans (State.onlyCtx_setCounter _ g _ _)

end

end Sys2Proof.Machine
end

section
/-! Doorbells and the front end of the queues: SQ_TAIL, CQ_HEAD and HOST_SIGNAL (R34 to R37), taking and starting
descriptors (R36, R48, R54, R62), waits (R45, R47), the finish (R46, R64), completion records (R58 to R63), SYNC and
NOP (R43). -/
namespace Sys2Proof.Machine

/-! ### Doorbells (R34, R35, R37) -/

/-- The model's difference of two counts is the subtraction of 32-bit words. -/
theorem ahead_toNat (v : BitVec 32) (n : Nat) : ahead v.toNat n = (v - BitVec.ofNat 32 n).toNat := by
  rw [ahead, BitVec.toNat_sub, BitVec.toNat_ofNat]
  congr 1
  omega

/-- Settles O9: both rows test what the statement tests, in the same order. -/
theorem sqTailRule : Obligations.SqTailRule := by
  intro s h g q v
  constructor
  · simp only [exec, execSqTail, State.sqTail, State.acceptTail, ahead_toNat, Bool.and_eq_true, beq_iff_eq, ne_eq,
      ite_and, ite_not]
    rfl
  · simp only [exec, execDescriptorTake, State.takeNext, Bool.and_eq_true, beq_iff_eq, Bool.not_eq_true', decide_eq_true_eq,
      and_assoc]
    rfl

theorem bitsOf_eq (v lo w : Nat) : bitsOf v lo w = v / 2 ^ lo % 2 ^ w := by
  rw [bitsOf, Nat.shiftRight_eq_div_pow]

/-- OP of HOST_SIGNAL is all that lies above the low 28 bits of the word. -/
theorem bitsOf_top (v : BitVec 32) : bitsOf v.toNat 28 4 = v.toNat / 2 ^ 28 := by
  rw [bitsOf_eq]
  exact Nat.mod_eq_of_lt (by have := v.isLt; omega)

theorem op_zero_and_rest_zero_iff (v : BitVec 32) : v.toNat / 2 ^ 28 = 0 ∧ v.toNat % 2 ^ 28 = 0 ↔ v = 0 := by
  rw [← BitVec.toNat_inj]
  change _ ↔ v.toNat = 0
  omega

/-- What HOST_SIGNAL does, by its OP (R37). -/
theorem State.acceptSignal_eq (s : State) (g : Nat) (v : BitVec 32) :
    s.acceptSignal g v.toNat =
      let op := v.toNat / 2 ^ 28
      let n := v.toNat / 2 ^ 16 % 2 ^ 12
      let inc := BitVec.ofNat 32 (v.toNat % 2 ^ 16)
      if v = 0 then s
      else if op = 1 then s.setCounter g n (s.counter g n + inc)
      else if op = 2 then s.setCounter g n inc
      else if op = 3 then s.setCounter g n (s.counter g n ||| inc)
      else s.modCtx g fun c => { c with signalRejects := min (c.signalRejects + 1) 0xFFFFFFFF } := by
  simp only [State.acceptSignal, bitsOf_top, op_zero_and_rest_zero_iff, bitsOf_eq v.toNat 16 12]
  by_cases hv : v = 0
  · simp only [hv, if_true]
  · simp only [hv, if_false]
    by_cases hop : 1 ≤ v.toNat / 2 ^ 28 ∧ v.toNat / 2 ^ 28 ≤ 3
    · have hcases : v.toNat / 2 ^ 28 = 1 ∨ v.toNat / 2 ^ 28 = 2 ∨ v.toNat / 2 ^ 28 = 3 := by omega
      rw [if_pos hop]
      rcases hcases with h | h | h <;> rw [h] <;> rfl
    · rw [if_neg hop, if_neg (by omega), if_neg (by omega), if_neg (by omega)]
      rfl

/-- Settles O10: the tests of CQ_HEAD as the statement has them, and HOST_SIGNAL by its OP. -/
theorem cqHeadAndHostSignal : Obligations.CqHeadAndHostSignal := by
  intro s h g q v
  constructor
  · simp only [exec, execCqHead, State.cqHead, State.acceptHead, ahead_toNat, Bool.and_eq_true, Bool.or_eq_true, beq_iff_eq,
      bne_iff_ne, and_assoc]
    rfl
  · simp only [exec, execHostSignal, State.hostSignal, Bool.and_eq_true, beq_iff_eq, State.acceptSignal_eq]

/-! ### Starting (R48, R49, R62) -/

theorem Queue.fencesClear_iff (u : Queue) (d : Bytes) :
    (u.runs.all (·.waitDone) = true ∧ (u.runs.any fun r => dFenceAfter r.raw) = false) ∧
        (!dFenceBefore d || u.runs.isEmpty) = true ↔
      ¬ ((dFenceBefore d ∧ u.runs ≠ []) ∨ ∃ r ∈ u.runs, dFenceAfter r.raw ∨ ¬ r.waitDone) := by
  simp only [List.all_eq_true, List.any_eq_false, Bool.or_eq_true, Bool.not_eq_true', List.isEmpty_iff]
  grind

theorem Queue.slotClear_iff (u : Queue) (log2 : Nat) (d : Bytes) :
    (!dComplete d || u.slotFree log2) = true ↔
      ¬ (dComplete d ∧ 2 ^ log2 - 1 < u.written - u.cqHead + u.reserved + 1) := by
  simp only [Queue.slotFree, Bool.or_eq_true, Bool.not_eq_true', decide_eq_true_eq, not_and_or, Bool.not_eq_true, not_lt]

theorem Queue.mayStart_iff (u : Queue) (log2 : Nat) (d : Bytes) :
    u.mayStart log2 d = true ↔
      u.st = .running ∧ u.runs.length < 64 ∧ ¬ (dComplete d ∧ 2 ^ log2 - 1 < u.written - u.cqHead + u.reserved + 1) ∧
        ¬ ((dFenceBefore d ∧ u.runs ≠ []) ∨ ∃ r ∈ u.runs, dFenceAfter r.raw ∨ ¬ r.waitDone) := by
  rw [← u.slotClear_iff, ← u.fencesClear_iff]
  simp only [Queue.mayStart, Bool.and_eq_true, beq_iff_eq, decide_eq_true_eq, Bool.not_eq_true']
  simp only [and_comm, and_left_comm, and_assoc]

/-- Settles O12: the head descriptor starts under the fences, the limit and the slot that mayStart tests. -/
theorem descriptorStarts : Obligations.DescriptorStarts := by
  intro s g q
  simp only [exec, execDescriptorStart, State.startNext]
  cases (s.queue g q).taken with
  | nil => rfl
  | cons d rest =>
    dsimp only
    congr 1
    refine if_congr ?_ ?_ rfl
    · simp only [Bool.and_eq_true, beq_iff_eq, Queue.mayStart_iff, Bool.not_eq_true', and_assoc]
    · cases s.validate g d.raw <;> rfl

/-! ### Waits (R45, R47) -/

/-- What it is for a wait operation to be satisfied (R44). -/
theorem waitMet_iff (op : Nat) (c : BitVec 32) (n : Nat) :
    waitMet op c n = true ↔
      (match op with
      | 1 => (c - BitVec.ofNat 32 n).toNat < 2 ^ 31
      | 2 => c = BitVec.ofNat 32 n
      | 3 => c ≠ BitVec.ofNat 32 n
      | 4 => c &&& BitVec.ofNat 32 n = BitVec.ofNat 32 n
      | _ => True) := by
  unfold waitMet
  split <;> simp

/-- A descriptor whose work begins has its work tiles fixed, and only its context has changed (R45). -/
theorem State.release1_effect (s : State) (g q seq : Nat) (r : Run) (n : Nat) (gg gd : Nat × Int) (hrun : s.run g q seq = some r)
    (hfix : s.fixRun g r = .ok (n, gg, gd)) :
    (∃ r', (s.release1 g q seq r).run g q seq = some r' ∧ r'.waitDone = true ∧ r'.tiles = n ∧ r'.waitAt = s.ctxTime g) ∧
      OnlyCtx g s (s.release1 g q seq r) := by
  simp only [State.release1, hfix]
  constructor
  · exact ⟨_, (State.run_noteStart _ _ _ _ _ _ _ _).trans ((State.run_modQueue_of_runs _ _ _ _ rfl _).trans
      (s.run_modRun_of_some g q seq _ r hrun fun _ => by rfl)), rfl, rfl, rfl⟩
  · exact ((s.onlyCtx_modRun g _ _ _).trans (State.onlyCtx_modQueue _ _ _ _)).trans (State.onlyCtx_noteStart _ _ _ _ _)

/-- Settles O13: a run that still waits is released once its wait is met, and faults once it is overdue and not met. -/
theorem waitsEnd : Obligations.WaitsEnd := by
  intro s g q seq r hrun hactive hpower hwait hmay c v met due
  have hwaiting : s.waitingRun g q seq = some r := by
    simp [State.waitingRun, hrun, hactive, hpower, hwait, hmay]
  have hmet : s.waitOk g r.raw = true ↔ met := waitMet_iff _ _ _
  have satisfied : exec (.waitSatisfied g q seq) s =
      .next (if !(s.ctx g).held && s.waitOk g r.raw then s.release1 g q seq r else s) := by
    simp only [exec, execWaitSatisfied, State.waitSatisfied, hwaiting]
  have timeout : exec (.waitTimeout g q seq) s =
      .next (if !s.waitOk g r.raw && decide due then s.jobFault g q seq 0x18 0 else s) := by
    simp only [exec, execWaitTimeout, State.waitTimeout, hwaiting]
    rfl
  have released (hm : met) (hheld : (s.ctx g).held = false) : exec (.waitSatisfied g q seq) s = .next (s.release1 g q seq r) := by
    rw [satisfied, hmet.2 hm, hheld]
    rfl
  refine ⟨released, fun hm hheld n gg gd hfix => ?_, fun hm => ?_, fun hm => ?_, fun hm hdue => ?_, fun hm hdue => ?_⟩
  · obtain ⟨⟨r', hrun', hdone, htiles, hat⟩, honly⟩ := s.release1_effect g q seq r n gg gd hrun hfix
    exact ⟨_, r', released hm hheld, hrun', hdone, htiles, hat, honly⟩
  · rw [satisfied, Bool.eq_false_iff.2 (mt hmet.1 hm), Bool.and_false]
    rfl
  · rw [timeout, hmet.2 hm]
    rfl
  · rw [timeout, decide_eq_false hdue, Bool.and_false]
    rfl
  · rw [timeout, Bool.eq_false_iff.2 (mt hmet.1 hm), decide_eq_true hdue]
    rfl

/-! ### Finishing (R46, R64) -/

theorem Run.over_iff (r : Run) :
    r.over = true ↔ r.waitDone ∧ ¬ r.aborting ∧ r.onCores = 0 ∧ r.done.length = r.tiles ∧ (r.tiles ≠ 0 ∨ r.ran) := by
  simp only [Run.over, Bool.and_eq_true, Bool.or_eq_true, Bool.not_eq_true', beq_iff_eq, bne_iff_ne, Bool.not_eq_true, and_assoc]

/-- A signal by its operation (R44). -/
theorem State.signal_eq (s : State) (g op n i : Nat) :
    s.signal g op n i =
      (match op with
      | 0 => s
      | 1 => s.setCounter g n (s.counter g n + BitVec.ofNat 32 i)
      | 2 => s.setCounter g n (BitVec.ofNat 32 i)
      | 3 => s.setCounter g n (s.counter g n ||| BitVec.ofNat 32 i)
      | _ => s.setCounter g n (s.counter g n)) := by
  rcases op with _ | _ | _ | _ | op <;> rfl

/-- Settles O14: a descriptor that is over completes, a STASH_GET once its get has ended. -/
theorem descriptorFinishes : Obligations.DescriptorFinishes := by
  intro s g q seq
  simp only [exec, execDescriptorFinish, State.descriptorFinish]
  cases s.run g q seq with
  | none => rfl
  | some r =>
    simp only [Bool.and_eq_true, beq_iff_eq, Bool.not_eq_true', Run.over_iff, and_assoc, State.complete, chargedOps,
      List.contains_iff_mem, State.signal_eq] <;> rfl

/-! ### Completion records (R58 to R63) -/

theorem State.holdoffOver_iff (s : State) (g q : Nat) :
    s.holdoffOver g q = true ↔
      ∀ t, (s.queue g q).lastInt = some t → t + recHoldoff (s.forceRec g q) * 1000 ≤ s.ctxTime g := by
  unfold State.holdoffOver
  cases (s.queue g q).lastInt <;> simp

theorem State.raiseQueue_eq (s : State) (g q : Nat) :
    s.raiseQueue g q =
      (if s.hostOk (g / 64) (recHostSel (s.forceRec g q)) then
          s.raiseVec (recHostSel (s.forceRec g q)) (recVector (s.forceRec g q)) else s).modQueue g q fun u =>
        { u with lastInt := some (s.ctxTime g), intDue := false, inForce := if u.st = .disabled then none else u.inForce } := by
  simp only [State.raiseQueue, State.raiseFor, beq_iff_eq]
  rfl

/-- A record that cannot be written is dropped, and an unmapped slot faults an ACTIVE context (R60). -/
def State.loseRec (s : State) (g q : Nat) (x : HeldRec) (e : Fail) : State :=
  let t := s.modQueue g q (·.dropRec x false)
  (if e.status = stBadAddress ∧ (s.ctx g).st = .active then t.faultCtx g q x.seq stBadAddress 0 else t).modQueue g q Queue.settle

/-- How a record goes to its slot (R59, R60). -/
theorem State.writeRec_eq (s : State) (g q : Nat) (x : HeldRec) :
    s.writeRec g q x =
      let r := s.forceRec g q
      let slot := ringAt (recCplBase r) (recLog2 r) 32 ((s.queue g q).written + 1)
      let phase := phaseOf ((s.queue g q).written + 1) (recLog2 r)
      match s.writeVa g slot (recordBytes x (1 - phase) (s.ctx g).busyNs) with
      | (_, some e) => s.loseRec g q x e
      | (t, none) =>
        match t.writeVa g (slot + 13) (leBytes 1 phase) with
        | (_, some e) => s.loseRec g q x e
        | (t, none) => ((t.modQueue g q (·.dropRec x true)).interrupt g q).modQueue g q Queue.settle := by
  have lost (e : Fail) : (if e.status = stBadAddress && (s.ctx g).st == .active then
      (s.modQueue g q (·.dropRec x false)).faultCtx g q x.seq e.status 0 else s.modQueue g q (·.dropRec x false)).modQueue g q
        Queue.settle = s.loseRec g q x e := by
    simp only [State.loseRec, Bool.and_eq_true, beq_iff_eq, decide_eq_true_eq]
    by_cases h : e.status = stBadAddress ∧ (s.ctx g).st = .active
    · rw [if_pos h, if_pos h, h.1]
    · rw [if_neg h, if_neg h]
  simp only [State.writeRec, State.putRecord, State.ctx_modQueue_same, lost]
  generalize s.writeVa g _ _ = first
  obtain ⟨t, _ | e⟩ := first
  · dsimp only
    generalize t.writeVa g _ _ = second
    obtain ⟨t', _ | e⟩ := second <;> rfl
  · rfl

/-- Settles O15: the record due next is written in two writes or lost, and a due interrupt waits for its holdoff. -/
theorem recordsWritten : Obligations.RecordsWritten := by
  intro s g q u r elapsed
  refine ⟨fun x hx hst hpower hseq hroom => ?_, fun hx => ?_, fun hint hover => ?_, fun hnot => ?_⟩
  · intro k slot phase rec32 lost
    have hst' : ((s.ctx g).st == .active || (s.ctx g).st == .faulted) = true := by simpa using hst
    have hdue : exec (.completionRecordWrite g q) s = .next (s.writeRec g q x) := by
      simp only [exec, execCompletionRecordWrite, State.recordWrite]
      rw [hx]
      dsimp only
      rw [if_pos (by simp [hst', hpower, hseq, hroom, u, r])]
    rw [hdue, State.writeRec_eq]
    rfl
  · simp only [exec, execCompletionRecordWrite, State.recordWrite]
    rw [hx]
  · simp only [exec, execIntHoldoffExpiry, State.holdoffExpiry]
    rw [if_pos (by simpa [hint, State.holdoffOver_iff] using ⟨hint, hover⟩), State.raiseQueue_eq]
  · simp only [exec, execIntHoldoffExpiry, State.holdoffExpiry]
    rw [if_neg]
    rw [Bool.and_eq_true, State.holdoffOver_iff]
    rintro ⟨h1, h2⟩
    exact hnot.elim (fun h => absurd h1 (by simp [u, h])) (fun h => h h2)

/-! ### SYNC and NOP (R43) -/

theorem zeroFrom_iff (d : Bytes) (lo hi : Nat) : zeroFrom d lo hi = true ↔ ∀ i, lo ≤ i → i < hi → nth 0 d i = 0 := by
  have hnth (i : Nat) : nth 0 d i = (d[i]?).getD 0 := by
    rw [nth, List.headD_eq_head?_getD, List.head?_drop]
  simp only [zeroFrom, allZero, slice, List.all_eq_true, beq_iff_eq, hnth]
  constructor
  · intro h i hlo hhi
    cases hi : d[i]? with
    | none => rfl
    | some b =>
      refine h b (List.mem_iff_getElem?.2 ⟨i - lo, ?_⟩)
      rw [List.getElem?_take_of_lt (by omega), List.getElem?_drop, Nat.add_sub_cancel' hlo, hi]
  · intro h b hb
    obtain ⟨j, hj⟩ := List.mem_iff_getElem?.1 hb
    have hlt : j < hi - lo := by
      by_contra hge
      rw [List.getElem?_take_eq_none (by omega)] at hj
      cases hj
    rw [List.getElem?_take_of_lt hlt, List.getElem?_drop] at hj
    simpa [hj] using h (lo + j) (by omega) (by omega)

theorem State.validate_of_header (s : State) (g : Nat) (d : Bytes) (h : headerStatus d = 0) : s.validate g d = s.bodyCheck g d :=
  if_neg (not_not.2 h)

theorem State.bodyCheck_sync (s : State) (g : Nat) (d : Bytes) (h : dOpcode d = 0x50) :
    s.bodyCheck g d = if syncBodyOk d then .ok ([], []) else .error { status := stBadField } := by
  simp only [State.bodyCheck, h]

theorem State.bodyCheck_nop (s : State) (g : Nat) (d : Bytes) (h : dOpcode d = 0x51) :
    s.bodyCheck g d = if zeroFrom d 16 64 then .ok ([], []) else .error { status := stBadField } := by
  simp only [State.bodyCheck, h]

theorem syncBodyOk_iff (d : Bytes) :
    syncBodyOk d = true ↔ (∀ i, 21 ≤ i → i < 64 → nth 0 d i = 0) ∧ fld d 16 2 + fld d 18 2 ≤ 4096 ∧ fld d 20 1 ≤ 1 := by
  rw [syncBodyOk, Bool.and_eq_true, Bool.and_eq_true, zeroFrom_iff, decide_eq_true_eq, decide_eq_true_eq, and_comm]

section
variable {g q seq : Nat} {s : State} {r : Run} (h : Ready g q seq s r)
include h

/-- A ready descriptor of the row's kind goes through the front-end row. -/
theorem Ready.frontRow (kind : Run → Bool) (hkind : kind r = true) (f : State → Bytes → State) :
    s.frontRow g q seq kind f = (f s r.raw).modRun g q seq fun r => { r with ran := true, status := 0 } := by
  have hgate : s.frontGate g q seq kind = some r := by
    simp [State.frontGate, h.run, h.active, h.powered, h.waited, h.fresh, h.going, hkind]
  rw [State.frontRow, hgate]
  rfl

/-- SYNC with ACTION 1: the counters it names are cleared, and the work is marked as done. -/
theorem Ready.syncClear_effect (hop : dOpcode r.raw = 0x50) (haction : fld r.raw 20 1 = 1) :
    ∃ t, exec (.syncClear g q seq) s = .next t ∧ OnlyCtx g s t ∧
      (∃ r', t.run g q seq = some r' ∧ r'.ran = true ∧ r'.status = 0) ∧
      ∀ n, t.counter g n =
        if fld r.raw 16 2 ≤ n ∧ n < fld r.raw 16 2 + fld r.raw 18 2 then 0 else s.counter g n := by
  refine ⟨_, congrArg Host.Outcome.next (h.frontRow (isSync 1) (by simp [isSync, hop, haction]) _), ?_, ?_, fun n => ?_⟩
  · exact (s.onlyCtx_clearCounters g _ _).trans (State.onlyCtx_modRun _ g q seq _)
  · refine ⟨_, State.run_modRun_of_some _ g q seq _ r ?_ fun _ => by rfl, rfl, rfl⟩
    rw [State.run, State.queue_clearCounters]
    exact h.run
  · exact (State.counter_modRun ..).trans (s.counter_clearCounters g _ _ n)

end

/-- Settles O16: the checks by their bytes, and each row on a ready descriptor. -/
theorem syncAndNop : Obligations.SyncAndNop := by
  constructor
  · intro s g d hd whole body ok
    refine ⟨fun hop hok => ?_, fun hop hok => ?_, fun hop hok => ?_, fun hop hok => ?_⟩
    · rw [s.validate_of_header g d hd, s.bodyCheck_sync g d hop, if_pos ((syncBodyOk_iff d).2 hok)]
    · rw [s.validate_of_header g d hd, s.bodyCheck_sync g d hop, if_neg (mt (syncBodyOk_iff d).1 hok)]
      rfl
    · rw [s.validate_of_header g d hd, s.bodyCheck_nop g d hop, if_pos ((zeroFrom_iff d 16 64).2 hok)]
    · rw [s.validate_of_header g d hd, s.bodyCheck_nop g d hop, if_neg (mt (zeroFrom_iff d 16 64).1 hok)]
      rfl
  · intro s g q seq r h done
    refine ⟨fun hop => ?_, fun hop haction => ?_, fun hop => ?_, h.syncClear_effect⟩
    · rcases hop with hop | hop <;> simp only [State.fixRun, hop] <;> rfl
    · exact congrArg Host.Outcome.next (h.frontRow (isSync 0) (by simp [isSync, hop, haction]) _)
    · exact congrArg Host.Outcome.next (h.frontRow (isOp 0x51) (by simp [isOp, hop]) _)

end Sys2Proof.Machine
end

section
/-! The job fault (R56): what it leaves of its context and of the eight queues, and what it leaves alone. -/
namespace Sys2Proof.Machine

/-! ### What stopping the work of a context changes -/

/-- Of the state only contexts, cores and dies differ; of the contexts only g, and of that only its queues and its stash. -/
structure OnlyQueues (g : Nat) (s t : State) : Prop where
  frame : t = { s with ctxs := t.ctxs, cores := t.cores, dies := t.dies }
  others : OthersKept g s t
  own : t.ctx g = { s.ctx g with queues := (t.ctx g).queues, stash := (t.ctx g).stash }

section
variable {g : Nat} {s t u : State}

theorem OnlyQueues.refl (g : Nat) (s : State) : OnlyQueues g s s := ⟨rfl, fun _ _ => rfl, rfl⟩

theorem OnlyQueues.trans (h : OnlyQueues g s t) (k : OnlyQueues g t u) : OnlyQueues g s u where
  frame := calc
    u = { t with ctxs := u.ctxs, cores := u.cores, dies := u.dies } := k.frame
    _ = { s with ctxs := u.ctxs, cores := u.cores, dies := u.dies } := by rw [h.frame]
  others j hj := (k.others j hj).trans (h.others j hj)
  own := calc
    u.ctx g = { t.ctx g with queues := (u.ctx g).queues, stash := (u.ctx g).stash } := k.own
    _ = { s.ctx g with queues := (u.ctx g).queues, stash := (u.ctx g).stash } := by rw [h.own]

end

section
variable (s : State) (g : Nat)

theorem State.onlyQueues_modQueue (q : Nat) (f : Queue → Queue) : OnlyQueues g s (s.modQueue g q f) where
  frame := rfl
  others := (s.onlyCtx_modQueue g q f).2
  own := by rw [State.ctx_modQueue_same]

theorem State.onlyQueues_modCtx (f : Ctx → Ctx)
    (h : f (s.ctx g) = { s.ctx g with queues := (f (s.ctx g)).queues, stash := (f (s.ctx g)).stash }) :
    OnlyQueues g s (s.modCtx g f) where
  frame := rfl
  others := (s.onlyCtx_modCtx g f).2
  own := by rwa [State.ctx_modCtx_same]

theorem State.onlyQueues_finish (q seq status : Nat) : OnlyQueues g s (s.finish g q seq status) := by
  unfold State.finish
  split
  · exact OnlyQueues.refl g s
  · exact s.onlyQueues_modQueue g q _

theorem State.onlyQueues_freeCore (c : Nat) : OnlyQueues g s (s.freeCore c) := by
  unfold State.freeCore
  split
  · exact OnlyQueues.refl g s
  · exact ⟨rfl, fun _ _ => rfl, rfl⟩

theorem State.onlyQueues_returnTile (t : TileRun) : OnlyQueues t.g s (s.returnTile t) := by
  unfold State.returnTile
  dsimp only
  cases t.replay with
  | some no => exact (s.onlyQueues_modQueue t.g t.q _).trans (State.onlyQueues_modCtx _ t.g _ rfl)
  | none => exact s.onlyQueues_modQueue t.g t.q _

@[simp] theorem State.core_returnTile (t : TileRun) (c : Nat) : (s.returnTile t).core c = s.core c := by
  unfold State.returnTile
  cases t.replay <;> rfl

/-- A core that is freed holds no work tile, and every other core is as it was. -/
theorem State.tile_freeCore (c k : Nat) : ((s.freeCore c).core k).tile = if k = c then none else (s.core k).tile := by
  unfold State.freeCore
  by_cases hk : k = c
  · subst hk
    cases h : (s.core k).tile <;> simp [h]
  · cases (s.core c).tile <;> simp [hk, State.core_modCore_ne]

/-- Cores that hold work tiles of one context give them back one after another. -/
theorem State.onlyQueues_dropTiles (l : List Nat) (h : ∀ c ∈ l, ∀ t, (s.core c).tile = some t → t.g = g) :
    OnlyQueues g s (l.foldl
      (fun s c => match (s.core c).tile with | some t => (s.freeCore c).returnTile t | none => s) s) := by
  induction l generalizing s with
  | nil => exact OnlyQueues.refl g s
  | cons c l ih =>
    rw [List.foldl_cons]
    cases ht : (s.core c).tile with
    | none => exact ih s fun k hk => h k (List.mem_cons_of_mem c hk)
    | some t =>
      obtain rfl := h c List.mem_cons_self t ht
      refine ((s.onlyQueues_freeCore t.g c).trans (State.onlyQueues_returnTile _ t)).trans (ih _ fun k hk t' ht' => ?_)
      rw [State.core_returnTile, State.tile_freeCore] at ht'
      split at ht'
      · cases ht'
      · exact h k (List.mem_cons_of_mem c hk) t' ht'

theorem State.onlyQueues_dropWaiting : OnlyQueues g s (s.dropWaiting g) := by
  refine s.onlyQueues_dropTiles g _ fun c hc t ht => ?_
  simp only [State.coresWith, List.mem_filter, ht, Bool.and_eq_true, beq_iff_eq] at hc
  exact hc.2.1

/-! ### A stopped queue -/

/-- A queue of a faulted context: STOPPED, nothing taken, and every descriptor that has started stopping. -/
structure Queue.Halted (u : Queue) : Prop where
  st : u.st = .stopped
  taken : u.taken = []
  runs : ∀ r ∈ u.runs, r.waitDone = true ∧ r.aborting = true

theorem Queue.settle_of_not_draining (u : Queue) (h : u.st ≠ .draining) : u.settle = u := by
  rw [Queue.settle, if_neg (by simp [h])]

theorem Queue.Halted.finish {u : Queue} (h : u.Halted) (r : Run) (status endNs : Nat) : (u.finish r status endNs).Halted := by
  rw [Queue.finish, Queue.settle_of_not_draining _ (by simp [h.st])]
  exact ⟨h.st, h.taken, fun x hx => h.runs x (List.mem_of_mem_filter hx)⟩

theorem Queue.Halted.abortIdle {u : Queue} (h : u.Halted) (endNs : Nat) : (abortIdle endNs u).Halted :=
  List.foldlRecOn _ _ h fun _ hu r _ => hu.finish r stAborted endNs

theorem Queue.stop_halted (rec : Bytes) (endNs : Nat) (u : Queue) : (u.stop rec endNs).Halted := by
  refine Queue.Halted.abortIdle ⟨rfl, rfl, fun r hr => ?_⟩ endNs
  obtain ⟨x, hx, rfl⟩ := List.mem_map.1 hr
  exact ⟨(List.mem_filter.1 hx).2, rfl⟩

/-- The first n queues of a context stopped. -/
theorem State.stopQueues_range (n : Nat) :
    let t := (List.range n).foldl (fun s q =>
      s.modQueue g q (Queue.stop (s.cfgBytes (0x3200 + g) (q + 1)) (s.ctxTime g))) s
    OnlyQueues g s t ∧ ∀ k < n, (t.queue g k).Halted := by
  induction n with
  | zero => exact ⟨OnlyQueues.refl g s, fun k hk => absurd hk (by omega)⟩
  | succ n ih =>
    simp only [List.range_succ, List.foldl_append, List.foldl_cons, List.foldl_nil]
    refine ⟨ih.1.trans (State.onlyQueues_modQueue _ g n _), fun k hk => ?_⟩
    by_cases hkn : k = n
    · rw [hkn, State.queue_modQueue_same]
      exact Queue.stop_halted _ _ _
    · rw [State.queue_modQueue_ne _ _ _ _ _ hkn]
      exact ih.2 k (by omega)

/-! ### The job fault -/

/-- What a fault of context g at a descriptor leaves: the context FAULTED with its status and descriptor, its queues stopped,
its counters as they were; and besides only cores, dies and the log differ. -/
structure FaultedBy (g q seq status tile : Nat) (s t : State) : Prop where
  frame : t = { s with ctxs := t.ctxs, cores := t.cores, dies := t.dies, log := t.log }
  others : OthersKept g s t
  st : (t.ctx g).st = .faulted
  cause : (t.ctx g).faultStatus = status
  place : (t.ctx g).faultAt = q * 2 ^ 61 + seq
  tile : status = stDataCorrupt → (t.ctx g).faultTile = tile
  colls : (t.ctx g).colls = []
  busy : (s.ctx g).busyNs ≤ (t.ctx g).busyNs
  counters : (t.ctx g).ctr = (s.ctx g).ctr
  queues : ∀ k < 8, (t.queue g k).Halted

/-- The state of a fault before its context's work is stopped: busy time charged, and corruption logged. -/
def State.chargedFault (s : State) (g status tile : Nat) : State :=
  let s := s.chargeBusy g (s.enginesNs g)
  if status = stDataCorrupt then s.corruptEvent g tile else s

theorem State.chargedFault_frame (status tile : Nat) :
    s.chargedFault g status tile = { s with ctxs := (s.chargedFault g status tile).ctxs, log := (s.chargedFault g status tile).log } := by
  unfold State.chargedFault
  dsimp only
  split <;> rfl

theorem State.ctx_chargedFault_same (status tile : Nat) :
    (s.chargedFault g status tile).ctx g = { s.ctx g with busyNs := (s.ctx g).busyNs + s.enginesNs g } := by
  have hcharge : (s.chargeBusy g (s.enginesNs g)).ctx g = { s.ctx g with busyNs := (s.ctx g).busyNs + s.enginesNs g } :=
    State.ctx_modCtx_same ..
  unfold State.chargedFault
  split <;> exact hcharge

theorem State.ctx_chargedFault_ne (status tile k : Nat) (hk : k ≠ g) : (s.chargedFault g status tile).ctx k = s.ctx k := by
  have hcharge : (s.chargeBusy g (s.enginesNs g)).ctx k = s.ctx k := State.ctx_modCtx_ne _ _ _ _ hk
  unfold State.chargedFault
  split <;> exact hcharge

/-- What a fault writes into its context's own registers. -/
def Ctx.markFault (q seq status tile : Nat) (c : Ctx) : Ctx :=
  { c with
    st := .faulted
    faultStatus := status
    faultAt := q * 2 ^ 61 + seq
    faultTile := if status = stDataCorrupt then tile else c.faultTile
    kv := { c.kv with waiting := none, order := [] }
    colls := []
    secure := { c.secure with op := none, phase := if c.secure.build.isSome then 2 else 0 } }

theorem State.faultCtx_eq (q seq status tile : Nat) :
    s.faultCtx g q seq status tile =
      (((s.chargedFault g status tile).modCtx g (Ctx.markFault q seq status tile)).dropWaiting g).stopQueues g := rfl

/-- Once its registers are marked, stopping the context's work makes it a faulted context. -/
theorem FaultedBy.of_marked {q seq status tile n : Nat} {m t : State} (hframe : m = { s with ctxs := m.ctxs, log := m.log })
    (hothers : OthersKept g s m)
    (hctx : m.ctx g = Ctx.markFault q seq status tile { s.ctx g with busyNs := (s.ctx g).busyNs + n }) (hq : OnlyQueues g m t)
    (hqueues : ∀ k < 8, (t.queue g k).Halted) : FaultedBy g q seq status tile s t := by
  have hown := hctx ▸ hq.own
  have hlog : t.log = m.log := by rw [hq.frame]
  exact {
    frame := calc
      t = { m with ctxs := t.ctxs, cores := t.cores, dies := t.dies } := hq.frame
      _ = { s with ctxs := t.ctxs, cores := t.cores, dies := t.dies, log := t.log } := by rw [hlog, hframe]
    others := fun k hk => (hq.others k hk).trans (hothers k hk)
    st := by rw [hown]; rfl
    cause := by rw [hown]; rfl
    place := by rw [hown]; rfl
    tile := fun h => by rw [hown]; exact if_pos h
    colls := by rw [hown]; rfl
    busy := by rw [hown]; exact Nat.le_add_right _ _
    counters := by rw [hown]; rfl
    queues := hqueues }

/-- A context's fault, from any state (R56). -/
theorem State.faultCtx_faults (q seq status tile : Nat) : FaultedBy g q seq status tile s (s.faultCtx g q seq status tile) := by
  have hstop := fun m : State => (m.dropWaiting g).stopQueues_range g 8
  rw [State.faultCtx_eq]
  refine FaultedBy.of_marked (n := s.enginesNs g) s g ?_ (fun k hk => ?_) ?_ ((State.onlyQueues_dropWaiting _ g).trans (hstop _).1) (hstop _).2
  · rw [State.modCtx, State.setCtx, s.chargedFault_frame g status tile]
  · rw [State.ctx_modCtx_ne _ _ _ _ hk, s.ctx_chargedFault_ne g status tile k hk]
  · rw [State.ctx_modCtx_same, State.ctx_chargedFault_same]

/-- A fault that comes after changes to its context's queues and busy time is a fault of the state before them. -/
theorem FaultedBy.after {q seq status tile : Nat} {m t : State} (h : FaultedBy g q seq status tile m t)
    (hframe : m = { s with ctxs := m.ctxs, cores := m.cores, dies := m.dies }) (hothers : OthersKept g s m)
    (hbusy : (s.ctx g).busyNs ≤ (m.ctx g).busyNs) (hctr : (m.ctx g).ctr = (s.ctx g).ctr) :
    FaultedBy g q seq status tile s t :=
  { h with
    frame := calc
      t = { m with ctxs := t.ctxs, cores := t.cores, dies := t.dies, log := t.log } := h.frame
      _ = { s with ctxs := t.ctxs, cores := t.cores, dies := t.dies, log := t.log } := by rw [hframe]
    others := fun k hk => (h.others k hk).trans (hothers k hk)
    busy := hbusy.trans h.busy
    counters := h.counters.trans hctr }

theorem State.finished_faults (q seq status tile ns : Nat) :
    FaultedBy g q seq status tile s (((s.chargeBusy g ns).finish g q seq status).faultCtx g q seq status tile) := by
  have hcharge : (s.chargeBusy g ns).ctx g = { s.ctx g with busyNs := (s.ctx g).busyNs + ns } := State.ctx_modCtx_same ..
  have hq := (s.chargeBusy g ns).onlyQueues_finish g q seq status
  have hown := hcharge ▸ hq.own
  refine (State.faultCtx_faults _ g q seq status tile).after s g hq.frame (fun k hk => ?_) ?_ ?_
  · rw [hq.others k hk]
    exact State.ctx_modCtx_ne _ _ _ _ hk
  · rw [hown]
    exact Nat.le_add_right _ _
  · rw [hown]

/-- A job fault of an ACTIVE context: its descriptor finishes, with the engine time charged, and the context faults (R56). -/
theorem State.jobFault_faults (q seq status tile : Nat) (h : (s.ctx g).st = .active) :
    FaultedBy g q seq status tile s (s.jobFault g q seq status tile) := by
  rw [State.jobFault, if_neg (by simp [h])]
  exact s.finished_faults g q seq status tile _

end

/-- Settles O17: what FaultedBy says of the faulted state. -/
theorem jobFault : Obligations.JobFault := by
  intro s g q seq status tile hactive t
  have h := s.jobFault_faults g q seq status tile hactive
  refine ⟨h.st, h.cause, h.place, h.tile, h.colls, h.busy, fun k hk => ⟨(h.queues k hk).st, (h.queues k hk).taken, (h.queues k hk).runs⟩,
    fun n => ?_, h.others, ?_⟩
  · rw [State.counter, State.counter, h.counters]
  · rw [show t = _ from h.frame]
    exact ⟨rfl, rfl, rfl, rfl, rfl, rfl⟩

end Sys2Proof.Machine
end

section
/-! What a core takes at a work-tile boundary (R336, R52, R416): the request it puts into its die's ledger, and all that the
choice of a work tile leaves alone. -/
namespace Sys2Proof.Machine

/-! ### What a core changes -/

/-- Of the state only contexts, cores and dies differ; of the cores only c, and of the contexts only its own. -/
structure OnlyCore (c : Nat) (own : Nat → Prop) (s t : State) : Prop where
  frame : t = { s with ctxs := t.ctxs, cores := t.cores, dies := t.dies }
  cores : ∀ k, k ≠ c → t.core k = s.core k
  others : ∀ k, ¬ own k → t.ctx k = s.ctx k

/-- The same, and core c has made no request of its die's ledger yet. -/
structure Unasked (c : Nat) (own : Nat → Prop) (s t : State) : Prop extends OnlyCore c own s t where
  tile : (t.core c).tile = (s.core c).tile
  waiting : ∀ d, (t.die d).waiting = (s.die d).waiting
  cap : ∀ d, (t.die d).cap = (s.die d).cap

section
variable {c : Nat} {own : Nat → Prop} {s t u : State}

theorem OnlyCore.trans (h : OnlyCore c own s t) (k : OnlyCore c own t u) : OnlyCore c own s u where
  frame := calc
    u = { t with ctxs := u.ctxs, cores := u.cores, dies := u.dies } := k.frame
    _ = { s with ctxs := u.ctxs, cores := u.cores, dies := u.dies } := by rw [h.frame]
  cores j hj := (k.cores j hj).trans (h.cores j hj)
  others j hj := (k.others j hj).trans (h.others j hj)

theorem Unasked.refl (c : Nat) (own : Nat → Prop) (s : State) : Unasked c own s s :=
  ⟨⟨rfl, fun _ _ => rfl, fun _ _ => rfl⟩, rfl, fun _ => rfl, fun _ => rfl⟩

theorem Unasked.trans (h : Unasked c own s t) (k : Unasked c own t u) : Unasked c own s u :=
  ⟨h.toOnlyCore.trans k.toOnlyCore, k.tile.trans h.tile, fun d => (k.waiting d).trans (h.waiting d), fun d => (k.cap d).trans (h.cap d)⟩

theorem OnlyCore.onlyWork (h : OnlyCore c own s t) : OnlyWork s t := by
  unfold OnlyWork
  rw [h.frame]

theorem OnlyCore.memories (h : OnlyCore c own s t) : t.hbm = s.hbm ∧ t.host0 = s.host0 ∧ t.host1 = s.host1 := by
  rw [h.frame]
  exact ⟨rfl, rfl, rfl⟩

end

section
variable {own : Nat → Prop} (s : State) (c : Nat)

theorem State.unasked_modCore (f : Core → Core) (h : (f (s.core c)).tile = (s.core c).tile) : Unasked c own s (s.modCore c f) :=
  ⟨⟨rfl, fun k hk => s.core_modCore_ne c k f hk, fun _ _ => rfl⟩, by rwa [State.core_modCore_same], fun _ => rfl, fun _ => rfl⟩

theorem State.unasked_modCtx {g : Nat} (hg : own g) (f : Ctx → Ctx) : Unasked c own s (s.modCtx g f) :=
  ⟨⟨rfl, fun _ _ => rfl, fun k hk => s.ctx_modCtx_ne g k f fun h => hk (h ▸ hg)⟩, rfl, fun _ => rfl, fun _ => rfl⟩

theorem State.unasked_modRun {g : Nat} (hg : own g) (q seq : Nat) (f : Run → Run) : Unasked c own s (s.modRun g q seq f) := by
  rw [State.modRun, State.modQueue, State.setQueue]
  exact s.unasked_modCtx c hg _

theorem State.unasked_modSpec {g : Nat} (hg : own g) (no : Nat) (f : Spec → Spec) : Unasked c own s (s.modSpec g no f) := by
  rw [State.modSpec, State.modStash]
  exact s.unasked_modCtx c hg _

theorem State.unasked_modDie (d : Nat) (f : Die → Die) (hw : (f (s.die d)).waiting = (s.die d).waiting)
    (hc : (f (s.die d)).cap = (s.die d).cap) : Unasked c own s (s.modDie d f) := by
  refine ⟨⟨rfl, fun _ _ => rfl, fun _ _ => rfl⟩, rfl, fun k => ?_, fun k => ?_⟩ <;> by_cases hk : k = d
  · rwa [hk, State.die_modDie_same]
  · rw [s.die_modDie_ne d k f hk]
  · rwa [hk, State.die_modDie_same]
  · rw [s.die_modDie_ne d k f hk]

theorem State.unasked_endCal : Unasked c own s (s.endCal c) := by
  unfold State.endCal
  split
  · exact Unasked.refl c own s
  · exact (s.unasked_modCore c _ rfl).trans (State.unasked_modDie _ c _ _ rfl rfl)

theorem State.unasked_served (g : Nat) (free : Bool) : Unasked c own s (s.served c g free) := by
  unfold State.served
  split
  · exact s.unasked_modDie c _ _ rfl rfl
  · exact Unasked.refl c own s

theorem State.unasked_dropPair (h : ∀ x, (s.core c).pair = some x → own x.1) : Unasked c own s (s.dropPair c) := by
  unfold State.dropPair
  split
  · exact Unasked.refl c own s
  · rename_i g q seq t hp
    exact (s.unasked_modCore c _ rfl).trans (State.unasked_modRun _ c (h _ hp) q seq _)

/-! ### The request -/

/-- The order of a die's ledger once core c has asked: behind the requests that go before its own (R416). -/
def State.asked (s : State) (c : Nat) : List Nat :=
  let earlier := (s.die (c / 18)).waiting.takeWhile (s.asksBefore c)
  earlier ++ c :: (s.die (c / 18)).waiting.drop earlier.length

end

/-- A core's request for a work tile, made after steps that ask for nothing. -/
structure Asked (c : Nat) (own : Nat → Prop) (g q seq n : Nat) (j : Job) (replay : Option Nat) (s t u : State) : Prop
    extends OnlyCore c own s u where
  tile : (u.core c).tile = some {
    g := g, q := q, seq := seq, idx := n, replay := replay, base := tileBase j.d j.blk j.gg j.gd n,
    cost := costAt (tileBase j.d j.blk j.gg j.gd n) (s.clockOf (c / 18)), mhz := s.clockOf (c / 18), askedAt := s.now,
    takenAt := s.ctxTime g }
  pair : (u.core c).pair = (t.core c).pair
  waiting : (u.die (c / 18)).waiting = s.asked c
  lastQueue : (u.ctx g).lastQueue = (t.ctx g).lastQueue

theorem drop_takeWhile_length {α : Type} (p : α → Bool) (l : List α) : l.drop (l.takeWhile p).length = l.dropWhile p := calc
  l.drop (l.takeWhile p).length = (l.takeWhile p ++ l.dropWhile p).drop (l.takeWhile p).length := by
    rw [List.takeWhile_append_dropWhile]
  _ = l.dropWhile p := List.drop_left

theorem Unasked.ask {c : Nat} {own : Nat → Prop} {s t : State} (h : Unasked c own s t) {g : Nat} (hg : own g) (q seq n : Nat) (j : Job)
    (replay : Option Nat) : Asked c own g q seq n j replay s t (t.ask c g q seq n j replay) := by
  have hnow : t.now = s.now := by rw [h.frame]; rfl
  have hbefore : t.asksBefore c = s.asksBefore c := by
    funext b
    have htile : (t.core b).tile = (s.core b).tile := by
      by_cases hb : b = c
      · rw [hb, h.tile]
      · rw [h.cores b hb]
    rw [State.asksBefore, State.asksBefore, htile, hnow]
  have hclock : t.clockOf (c / 18) = s.clockOf (c / 18) := by
    rw [State.clockOf, State.clockOf, h.cap]
    rw [h.frame]
    rfl
  have htime : t.ctxTime g = s.ctxTime g := by rw [h.frame]; rfl
  have hasked : ((t.enlist c).die (c / 18)).waiting = s.asked c := by
    rw [State.enlist, dieOfCore, State.die_modDie_same, hbefore, h.waiting, State.asked, drop_takeWhile_length]
  have hwork : OnlyCore c own t (t.ask c g q seq n j replay) := by
    rw [State.ask]
    refine OnlyCore.trans (t := (t.enlist c).modCore c _) ⟨rfl, fun k hk => ?_, fun _ _ => rfl⟩
      (State.unasked_modRun _ c hg q seq _).toOnlyCore
    exact State.core_modCore_ne _ _ _ _ hk
  refine ⟨h.toOnlyCore.trans hwork, ?_, ?_, hasked, ?_⟩
  · rw [State.ask, State.modRun_core_read, State.core_modCore_same, State.newTile, dieOfCore, hclock, hnow, htime]
  · rw [State.ask, State.modRun_core_read, State.core_modCore_same]
    rfl
  · rw [State.ask, State.modRun, State.ctx_modQueue_same]
    rfl

/-! ### The work tile taken -/

section
variable {c : Nat} {own : Nat → Prop} {s t : State} (h : Unasked c own s t) {g : Nat} (hg : own g)
include h hg

/-- A core takes the next work tile of a replay. -/
theorem Unasked.takeReplay (q seq : Nat) (x : Spec) {n : Nat} (hn : x.next = some n) :
    ∃ j u, Asked c own g q seq n j (some x.no) s u (t.takeReplay c g q seq x) := by
  obtain ⟨⟨d, out⟩, hstep⟩ : ∃ st, x.step = some st := by
    cases hs : x.step with
    | none => simp [Spec.next, hs] at hn
    | some st => exact ⟨st, rfl⟩
  have hclaim : Unasked c own s (t.modSpec g x.no (Spec.claim (t.ctxTime g))) := h.trans (t.unasked_modSpec c hg _ _)
  refine ⟨{ d := d, blk := x.block }, t.modSpec g x.no (Spec.claim (t.ctxTime g)), ?_⟩
  simp only [State.takeReplay, hn, hstep]
  exact hclaim.ask hg q seq n _ _

theorem Unasked.onlyCore_takeReplay (q seq : Nat) (x : Spec) : OnlyCore c own s (t.takeReplay c g q seq x) := by
  cases hn : x.next with
  | none =>
    simp only [State.takeReplay, hn]
    exact h.toOnlyCore
  | some n =>
    obtain ⟨j, u, hasked⟩ := h.takeReplay hg q seq x hn
    exact hasked.toOnlyCore

/-- A core takes a work tile of a started descriptor, with the dW work tile of a pair kept for it (R148). -/
theorem Unasked.takeRun (q : Nat) (r : Run) (n : Nat) :
    let t1 := t.modCtx g fun x => { x with lastQueue := q }
    let k := r.claim n (t1.ctxTime g)
    let t2 := (t1.modRun g q r.seq fun _ => k.1).modCore c fun x => { x with pair := k.2.map fun w => (g, q, r.seq, w) }
    Asked c own g q r.seq n r.job none s t2 (t2.ask c g q r.seq n r.job none) ∧ (t2.ctx g).lastQueue = q := by
  intro t1 k t2
  have h1 : Unasked c own s t1 := h.trans (t.unasked_modCtx c hg _)
  have h2 : Unasked c own s t2 := (h1.trans (t1.unasked_modRun c hg q r.seq _)).trans (State.unasked_modCore _ c _ rfl)
  refine ⟨h2.ask hg q r.seq n r.job none, ?_⟩
  change ((t1.modRun g q r.seq fun _ => k.1).ctx g).lastQueue = q
  rw [State.modRun, State.ctx_modQueue_same, State.ctx_modCtx_same]

theorem Unasked.onlyCore_takeFrom : OnlyCore c own s (t.takeFrom c g) := by
  unfold State.takeFrom
  split
  · exact h.toOnlyCore
  next q hq =>
    split
    · exact h.toOnlyCore
    next r n hr =>
      dsimp only
      split
      · exact (h.trans (t.unasked_modCtx c hg _)).onlyCore_takeReplay hg q r.seq _
      · exact (h.takeRun hg q r n).1.toOnlyCore

omit h hg in
theorem State.replayFor_lastQueue (t : State) (g q j seq : Nat) :
    (t.modCtx g fun x => { x with lastQueue := q }).replayFor g j seq = t.replayFor g j seq := by
  rw [State.replayFor, State.replayFor, State.ctx_modCtx_same]

/-- R52's work tile of a descriptor that is no STASH_GET. -/
theorem Unasked.takeFrom_run {q n : Nat} {r : Run} (hq : inTurnAfter (t.ctx g).lastQueue (t.bestQueues g) = some q)
    (hr : t.readyIn g q = some (r, n)) (hop : dOpcode r.raw ≠ 0x31) :
    ∃ u, Asked c own g q r.seq n r.job none s u (t.takeFrom c g) ∧ (u.ctx g).lastQueue = q := by
  obtain ⟨hasked, hlast⟩ := h.takeRun hg q r n
  refine ⟨_, ?_, hlast⟩
  simp only [State.takeFrom, hq, hr, if_neg hop]
  exact hasked

/-- R52's work tile of a STASH_GET is the next one of the replay it waits for. -/
theorem Unasked.takeFrom_get {q n : Nat} {r : Run} {x : Spec} (hq : inTurnAfter (t.ctx g).lastQueue (t.bestQueues g) = some q)
    (hr : t.readyIn g q = some (r, n)) (hop : dOpcode r.raw = 0x31) (hx : t.replayFor g q r.seq = some x)
    (hn : x.next = some n) : ∃ j u, Asked c own g q r.seq n j (some x.no) s u (t.takeFrom c g) := by
  simp only [State.takeFrom, hq, hr, if_pos hop, State.replayFor_lastQueue, hx]
  exact (h.trans (t.unasked_modCtx c hg _)).takeReplay hg q r.seq x hn

/-- The second work tile of a pair follows the first on the same core (R148). -/
theorem Unasked.takePair {q seq n : Nat} {r : Run} (hr : t.run g q seq = some r) :
    ∃ u, Asked c own g q r.seq n r.job none s u (t.takePair c g q seq n) ∧ (u.core c).pair = none := by
  refine ⟨t.modCore c fun x => { x with pair := none }, ?_, by rw [State.core_modCore_same]⟩
  simp only [State.takePair, hr]
  exact (h.trans (t.unasked_modCore c _ rfl)).ask hg q r.seq n r.job none

theorem Unasked.onlyCore_takePair (q seq n : Nat) : OnlyCore c own s (t.takePair c g q seq n) := by
  cases hr : t.run g q seq with
  | none =>
    simp only [State.takePair, hr]
    exact h.toOnlyCore
  | some r =>
    obtain ⟨u, hasked, -⟩ := h.takePair hg (n := n) hr
    exact hasked.toOnlyCore

end

/-- A ready work tile of a STASH_GET is the next one of its replay. -/
theorem State.next_of_readyIn_get (s : State) (g q n : Nat) (r : Run) (x : Spec) (hr : s.readyIn g q = some (r, n))
    (hop : dOpcode r.raw = 0x31) (hx : s.replayFor g q r.seq = some x) : x.next = some n := by
  obtain ⟨r', -, hr'⟩ := List.exists_of_findSome?_eq_some hr
  obtain ⟨n', hready, heq⟩ := Option.map_eq_some_iff.1 hr'
  obtain ⟨rfl, rfl⟩ := Prod.mk.inj heq
  simp only [State.readyTile, hop, if_true, hx, Option.bind_some, State.replayReady] at hready
  split at hready
  · split at hready
    next t d out hn hstep =>
      split at hready
      · rw [← hready]; exact hn
      · cases hready
    · cases hready
  · cases hready

/-! ### The choice -/

section
variable (s : State) (c g : Nat) (free : Bool)

/-- A core that takes a work tile, before it takes one: its calibration step ended and its die's turn noted. -/
def State.readied : State := (s.endCal c).served c g free

theorem State.readied_frame : s.readied c g free = { s with cores := (s.readied c g free).cores, dies := (s.readied c g free).dies } := by
  unfold State.readied State.served State.endCal
  cases (s.core c).cal <;> cases free <;> rfl

theorem State.readied_unasked (own : Nat → Prop) : Unasked c own s (s.readied c g free) :=
  (s.unasked_endCal c).trans (State.unasked_served _ c g free)

theorem State.readied_pair : ((s.readied c g free).core c).pair = (s.core c).pair := by
  unfold State.readied State.served State.endCal
  cases hcal : (s.core c).cal <;> cases free <;> simp

/-- What the choice of a work tile reads is in the contexts and the store, and for a pair in the core. -/
theorem State.readied_reads :
    (s.readied c g free).bestQueues = s.bestQueues ∧ (s.readied c g free).readyIn = s.readyIn ∧
      (s.readied c g free).ctx = s.ctx ∧ (s.readied c g free).run = s.run ∧ (s.readied c g free).replayFor = s.replayFor := by
  rw [s.readied_frame c g free]
  exact ⟨rfl, rfl, rfl, rfl, rfl⟩

theorem State.readied_pairLive : (s.readied c g free).pairLive c = s.pairLive c := by
  obtain ⟨-, -, hctx, hrun, -⟩ := s.readied_reads c g free
  rw [State.pairLive, State.pairLive, s.readied_pair, hctx, hrun]

end

section
variable {s : State} {c g : Nat} {free : Bool} (hfree : s.coreFree c = true) (hchoice : s.choice c = some (g, free))
include hfree hchoice

theorem State.tileSelect_fresh (h : s.pairLive c = none) :
    s.tileSelect c = ((s.readied c g free).modCore c fun x => { x with pair := none }).takeFrom c g := by
  have hlive := (s.readied_pairLive c g free).trans h
  rw [State.readied] at hlive
  simp [State.tileSelect, hfree, hchoice, hlive, State.readied]

theorem State.tileSelect_pair {q seq n : Nat} (h : s.pairLive c = some (g, q, seq, n)) :
    s.tileSelect c = (s.readied c g free).takePair c g q seq n := by
  have hlive := (s.readied_pairLive c g free).trans h
  rw [State.readied] at hlive
  simp [State.tileSelect, hfree, hchoice, hlive, State.readied]

theorem State.tileSelect_other {g' q seq n : Nat} (h : s.pairLive c = some (g', q, seq, n)) (hne : g' ≠ g) :
    s.tileSelect c = ((s.readied c g free).dropPair c).takeFrom c g := by
  have hlive := (s.readied_pairLive c g free).trans h
  rw [State.readied] at hlive
  simp [State.tileSelect, hfree, hchoice, hlive, State.readied, hne]

/-- Whatever it takes, a core changes no other core, and no other context unless it gives up a pair. -/
theorem State.onlyCore_tileSelect :
    ∃ own : Nat → Prop, OnlyCore c own s (s.tileSelect c) ∧ ((∀ x, s.pairLive c = some x → x.1 = g) → ∀ k, own k → k = g) := by
  have hown := fun own => s.readied_unasked c g free own
  match hlive : s.pairLive c with
  | none =>
    refine ⟨(· = g), ?_, fun _ _ hk => hk⟩
    rw [State.tileSelect_fresh hfree hchoice hlive]
    exact ((hown _).trans (State.unasked_modCore _ c _ rfl)).onlyCore_takeFrom rfl
  | some (g', q, seq, n) =>
    by_cases hg : g' = g
    · subst hg
      refine ⟨(· = g'), ?_, fun _ _ hk => hk⟩
      rw [State.tileSelect_pair hfree hchoice hlive]
      exact (hown (· = g')).onlyCore_takePair rfl q seq n
    · refine ⟨fun _ => True, ?_, fun h => absurd (h _ rfl) hg⟩
      rw [State.tileSelect_other hfree hchoice hlive hg]
      exact ((hown _).trans (State.unasked_dropPair _ c fun _ _ => trivial)).onlyCore_takeFrom trivial

end

/-- Settles O18: by the outcome of R336's choice, and within it by what is left of a pair. -/
theorem workTileTaken : Obligations.WorkTileTaken := by
  intro s c earlier asked
  refine ⟨fun hfree => ?_, fun hfree hchoice hpair hspec => ?_, fun g x n hfree hchoice hpair hspec hx hn => ?_,
    fun g free hfree hchoice => ⟨s.tileSelect c, rfl, ?_⟩⟩
  · simp [exec, execWorkTileSelect, State.tileSelect, hfree]
  · simp [exec, execWorkTileSelect, State.tileSelect, hfree, hchoice, State.idleSelect, State.dropPair, hpair, hspec]
  · have hready : Unasked c (· = g) s (s.endCal c) := s.unasked_endCal c
    obtain ⟨j, u, h⟩ := hready.takeReplay rfl 8 0 x hn
    have hexec : exec (.workTileSelect c) s = .next ((s.endCal c).takeReplay c g 8 0 x) := by
      simp [exec, execWorkTileSelect, State.tileSelect, hfree, hchoice, State.idleSelect, State.dropPair, hpair, hspec, hx]
    obtain ⟨h1, h2, h3⟩ := h.memories
    exact ⟨_, _, hexec, h.onlyWork, h.others, h.tile, rfl, rfl, rfl, rfl, rfl, h.waiting, h1, h2, h3, h.cores⟩
  · obtain ⟨own, honly, howns⟩ := State.onlyCore_tileSelect hfree hchoice
    obtain ⟨h1, h2, h3⟩ := honly.memories
    have hfresh : Unasked c (· = g) s ((s.readied c g free).modCore c fun x => { x with pair := none }) :=
      (s.readied_unasked c g free _).trans (State.unasked_modCore _ c _ rfl)
    obtain ⟨hbest, hreadyIn, hctx, hrun, hreplay⟩ := s.readied_reads c g free
    refine ⟨honly.onlyWork, fun hp k hk => honly.others k fun hown => hk (howns hp k hown), h1, h2, h3, honly.cores,
      fun q r n hlive hq hr hop => ?_, fun q r n x hlive hq hr hop hx => ?_, fun q seq n r hlive hr => ?_⟩
    · rw [← hbest, ← hctx] at hq
      rw [← hreadyIn] at hr
      rw [State.tileSelect_fresh hfree hchoice hlive]
      obtain ⟨u, h, hlast⟩ := hfresh.takeFrom_run rfl hq hr hop
      exact ⟨h.tile, h.waiting, h.lastQueue.trans hlast⟩
    · have hn := s.next_of_readyIn_get g q n r x hr hop hx
      rw [← hbest, ← hctx] at hq
      rw [← hreadyIn] at hr
      rw [← hreplay] at hx
      rw [State.tileSelect_fresh hfree hchoice hlive]
      obtain ⟨j, u, h⟩ := hfresh.takeFrom_get rfl hq hr hop hx hn
      exact ⟨_, h.tile, rfl, rfl, rfl, rfl, rfl⟩
    · rw [← hrun] at hr
      rw [State.tileSelect_pair hfree hchoice hlive]
      obtain ⟨u, h, hnone⟩ := (s.readied_unasked c g free (· = g)).takePair rfl (n := n) hr
      exact ⟨h.pair.trans hnone, _, h.tile, rfl, rfl, rfl, rfl⟩

end Sys2Proof.Machine
end

section
/-! Power-good, the resets and start-up (R395, R397, R430 to R432). -/
namespace Sys2Proof.Machine

/-! ### What a module reset leaves (R395) -/

theorem storeGet_filter {p : Nat → Bool} {k : Nat} (h : p k = true) (m : SMap Bytes) :
    storeGet (m.filter fun kv => p kv.1) k = storeGet m k := by
  induction m with
  | nil => rfl
  | cons e m ih =>
    obtain ⟨j, v⟩ := e
    by_cases hk : k = j
    · subst hk
      simp [List.filter, h, storeGet]
    · cases hp : p j <;> simp [List.filter, hp, storeGet, hk, ih]

/-- The entries that R395 keeps read as before. -/
theorem State.moduleReset_cfgBytes (s : State) (index sub : Nat) (h : keyKept (key index sub) = true) :
    s.moduleReset.cfgBytes index sub = s.cfgBytes index sub := by
  rw [State.cfgBytes, State.cfgBytes, State.moduleReset, storeGet_filter h]

/-! ### Log records -/

/-- The newest record of the log is the one just written. -/
theorem State.event_getLast (s : State) (cls pt p : Nat) (detail : Bytes) :
    ∃ r, (s.event cls pt p detail).log.recs.getLast? = some r ∧ r.cls = cls ∧ r.part = pt := by
  refine ⟨{ seq := s.log.next, time := s.now, cls := cls, part := pt, p := p, detail := detail }, ?_, rfl, rfl⟩
  rw [State.event, List.getLast?_drop]
  simp

/-! ### Powering domains (R410) -/

section
variable (s : State) (ns : List Nat)

/-- Powering domains on changes nothing but the domains. -/
theorem State.powerAll_on_frame : s.powerAll ns true = { s with pwr := { s.pwr with domains := (s.powerAll ns true).pwr.domains } } := by
  refine List.foldlRecOn (motive := fun t : State => t = { s with pwr := { s.pwr with domains := t.pwr.domains } }) ns _ rfl ?_
  intro t ht n _
  rw [ht]
  rfl

theorem State.domain_powerOn (n m : Nat) :
    (s.powerOn n).domain m =
      if m = n ∧ (s.domain m).st = 0 ∧ s.pwr.shutdown = false then { s.domain m with st := 1, admitted := 0 } else s.domain m := by
  by_cases hm : m = n
  · subst hm
    simp [State.powerOn]
  · rw [State.powerOn, State.domain_modDomain_ne _ _ _ _ hm, if_neg (by simp [hm])]

/-- A domain that is OFF and listed begins to ramp, and one that ramps goes on. -/
theorem State.domain_powerAll_on (hs : s.pwr.shutdown = false) (n : Nat)
    (h : (s.domain n).st = 1 ∨ n ∈ ns ∧ (s.domain n).st = 0) : ((s.powerAll ns true).domain n).st = 1 := by
  induction ns generalizing s with
  | nil => simpa [State.powerAll] using h
  | cons m ns ih =>
    refine ih (s.powerOn m) hs ?_
    rw [State.domain_powerOn]
    by_cases hm : n = m ∧ (s.domain n).st = 0
    · exact .inl (by rw [if_pos ⟨hm.1, hm.2, hs⟩])
    · rw [if_neg fun hc => hm ⟨hc.1, hc.2.1⟩]
      refine h.imp_right fun ⟨hmem, h0⟩ => ⟨(List.mem_cons.1 hmem).resolve_left fun he => hm ⟨he, h0⟩, h0⟩

end

/-! ### Boot (R397) -/

section
variable (s : State) (b : Nat)

/-- A boot from a bank, before it powers the domains. -/
def State.bankTaken : State :=
  ((s.modSec fun x => { x with bank := b, nextBank := b }).deriveKeys).modPwr fun w =>
    { w with phase := .serving, bootNs := w.time, ledgerOn := true }

theorem State.booted_eq : s.booted b = (s.bankTaken b).powerAll (List.range 152 ++ [184, 185]) true := rfl

/-- Measurements 1 to 5 are those of the package that MD runs. -/
theorem State.map_measure_boot : [1, 2, 3, 4, 5].map s.measure = [1, 2, 3, 4, 5].map s.bootMeasure := rfl

theorem State.bootMeasure_of_running {s t : State} (h : t.running = s.running) : t.bootMeasure = s.bootMeasure := by
  funext i
  rw [State.bootMeasure, State.bootMeasure, h]

theorem State.aliasKey_deriveKeys :
    s.deriveKeys.sec.aliasKey = some (Config.aliasKey Config.identityKey ([1, 2, 3, 4, 5].map s.bootMeasure)) := rfl

/-- What a boot from a bank leaves of the boot's own registers, the keys and the measurements (R397, R398, R400). -/
theorem State.booted_effect :
    let t := s.booted b
    t.pwr.phase = .serving ∧ t.sec.bank = b ∧ t.sec.nextBank = b ∧ t.pwr.bootNs = s.now ∧ t.pwr.ledgerOn = true ∧ t.log = s.log ∧
      t.sec.identity = some Config.identityKey ∧
      t.sec.aliasKey = some (Config.aliasKey Config.identityKey ([1, 2, 3, 4, 5].map t.measure)) ∧ t.measure 6 = s.sec.meas6 := by
  have halias : (s.bankTaken b).sec.aliasKey =
      some (Config.aliasKey Config.identityKey ([1, 2, 3, 4, 5].map (s.booted b).measure)) := by
    have hrunning : (s.booted b).running = (s.modSec fun x => { x with bank := b, nextBank := b }).running := by
      rw [State.booted_eq, State.powerAll_on_frame]
      rfl
    rw [State.map_measure_boot, State.bootMeasure_of_running hrunning, ← State.aliasKey_deriveKeys]
    rfl
  have hsec : (s.booted b).sec = (s.bankTaken b).sec := by
    rw [State.booted_eq, State.powerAll_on_frame]
  refine ⟨?_, ?_, ?_, ?_, ?_, ?_, ?_, hsec ▸ halias, ?_⟩
  all_goals
    rw [State.booted_eq, State.powerAll_on_frame]
    rfl

/-- Die fabrics, host interfaces and the cores to be tested are powered at a boot (R432). -/
theorem State.booted_domains (hs : s.pwr.shutdown = false) (n : Nat) (hn : n < 152 ∨ n = 184 ∨ n = 185)
    (h0 : (s.domain n).st = 0) : ((s.booted b).domain n).st = 1 := by
  refine (s.bankTaken b).domain_powerAll_on _ hs n (.inr ⟨?_, h0⟩)
  simpa using hn

/-- The state that a boot has measured, with its keys derived. -/
def State.measured : State := s.deriveKeys.remeasure

theorem State.bootComplete_of_booting (hp : s.pwr.phase = .booting) (b0 b1 : Option Nat) :
    s.bootComplete b0 b1 true =
      let first := s.sec.nextBank % 2
      let fails (b : Nat) : Option Nat := if b = 0 then b0 else b1
      match fails first with
      | none => s.measured.booted first
      | some i =>
        match fails (1 - first) with
        | none => (s.measured.bankEvent first i).booted (1 - first)
        | some j =>
          ((s.measured.bankEvent first i).bankEvent (1 - first) j).modPwr fun w => { w with phase := .limited } := by
  rw [State.bootComplete, if_neg (by simp [hp])]
  rfl

/-- The bank tried second. -/
theorem other_bank (n : Nat) (b0 b1 : Option Nat) :
    (if 1 - n % 2 = 0 then b0 else b1) = if n % 2 = 0 then b1 else b0 := by
  rcases Nat.mod_two_eq_zero_or_one n with h | h <;> simp [h]

end

section
variable (s : State) (hp : s.pwr.phase = .booting) (b0 b1 : Option Nat)
include hp

theorem State.boot_first (h : (if s.sec.nextBank % 2 = 0 then b0 else b1) = none) :
    s.bootComplete b0 b1 true = s.measured.booted (s.sec.nextBank % 2) := by
  simp only [s.bootComplete_of_booting hp, h]

theorem State.boot_second (i : Nat) (h : (if s.sec.nextBank % 2 = 0 then b0 else b1) = some i)
    (h' : (if s.sec.nextBank % 2 = 0 then b1 else b0) = none) :
    s.bootComplete b0 b1 true = (s.measured.bankEvent (s.sec.nextBank % 2) i).booted (1 - s.sec.nextBank % 2) := by
  simp only [s.bootComplete_of_booting hp, h, other_bank, h']

theorem State.boot_limited (i j : Nat) :
    ∃ k l, s.bootComplete (some i) (some j) true =
      ((s.measured.bankEvent (s.sec.nextBank % 2) k).bankEvent (1 - s.sec.nextBank % 2) l).modPwr fun w =>
        { w with phase := .limited } := by
  simp only [s.bootComplete_of_booting hp, other_bank]
  rcases Nat.mod_two_eq_zero_or_one s.sec.nextBank with h | h
  · exact ⟨i, j, by simp [h]⟩
  · exact ⟨j, i, by simp [h]⟩

end

end Sys2Proof.Machine
end

section
/-! The built-in test of a die (R432): what fencing its failing cores leaves of the test's own registers. -/
namespace Sys2Proof.Machine

/-! ### What keeps the results of the tests -/

/-- The results of the dies' tests are as before, and no fenced core is in use again. -/
structure KeepsTests (s t : State) : Prop where
  pass : t.pwr.diePass = s.pwr.diePass
  fail : t.pwr.dieFail = s.pwr.dieFail
  fenced : ∀ c, s.isFenced c = true → t.isFenced c = true

theorem KeepsTests.refl (s : State) : KeepsTests s s := ⟨rfl, rfl, fun _ h => h⟩

theorem KeepsTests.trans {s t u : State} (h : KeepsTests s t) (k : KeepsTests t u) : KeepsTests s u :=
  ⟨k.pass.trans h.pass, k.fail.trans h.fail, fun c hc => k.fenced c (h.fenced c hc)⟩

theorem KeepsTests.of_fenced {s t : State} (hp : t.pwr.diePass = s.pwr.diePass) (hf : t.pwr.dieFail = s.pwr.dieFail)
    (hd : ∀ d, (t.die d).fenced = (s.die d).fenced) : KeepsTests s t :=
  ⟨hp, hf, fun c hc => by rwa [State.isFenced, hd]⟩

/-- An update of neither the power unit nor the dies. -/
theorem KeepsTests.of_eq {s t : State} (hp : t.pwr = s.pwr) (hd : t.dies = s.dies) : KeepsTests s t :=
  .of_fenced (by rw [hp]) (by rw [hp]) fun d => by rw [State.die, State.die, hd]

theorem KeepsTests.foldl {α : Type} (f : State → α → State) (h : ∀ s a, KeepsTests s (f s a)) (s : State) (l : List α) :
    KeepsTests s (l.foldl f s) :=
  List.foldlRecOn l f (KeepsTests.refl s) fun t ht a _ => ht.trans (h t a)

section
variable (s : State)

theorem State.keepsTests_modDie (d : Nat) (f : Die → Die) (h : (f (s.die d)).fenced = (s.die d).fenced) :
    KeepsTests s (s.modDie d f) := by
  refine .of_fenced rfl rfl fun k => ?_
  by_cases hk : k = d
  · rwa [hk, State.die_modDie_same]
  · rw [State.die_modDie_ne _ _ _ _ hk]

/-- What a change of every value of a collection leaves alone, read at any key. -/
theorem mapGet_map_same {α β : Type} (d : α) (m : SMap α) (f : Nat × α → Nat × α) (r : α → β) (hkey : ∀ kv, (f kv).1 = kv.1)
    (h : ∀ kv, r (f kv).2 = r kv.2) (k : Nat) : r (mapGet d (m.map f) k) = r (mapGet d m k) := by
  induction m with
  | nil => rfl
  | cons e m ih =>
    have he : f e = (e.1, (f e).2) := Prod.ext (hkey e) rfl
    rw [List.map_cons, he, mapGet, mapGet]
    split
    · exact h e
    · exact ih

theorem State.fenced_hbmWrite (p a : Nat) (bs : Bytes) (d : Nat) : ((s.hbmWrite p a bs).die d).fenced = (s.die d).fenced := by
  rw [State.die, State.die, State.hbmWrite]
  refine mapGet_map_same {} s.dies _ Die.fenced (fun kv => ?_) (fun kv => ?_) d <;> rfl

theorem State.keepsTests_writeSegs (g : Nat) (segs : List (Nat × Nat)) (bs : Bytes) : KeepsTests s (s.writeSegs g segs bs).1 := by
  induction segs generalizing s bs with
  | nil => exact KeepsTests.refl s
  | cons e rest ih =>
    obtain ⟨va, n⟩ := e
    simp only [State.writeSegs]
    split
    · exact KeepsTests.refl s
    next t h =>
      refine KeepsTests.trans ?_ (ih t _)
      rcases s.writeSeg_cases t g va _ h with ⟨x, -, -, rfl⟩ | ⟨x, -, -, rfl⟩
      · exact .of_fenced rfl rfl (s.fenced_hbmWrite _ _ _)
      · unfold State.hostWrite
        split <;> exact KeepsTests.of_eq rfl rfl

theorem State.keepsTests_freeCore (c : Nat) : KeepsTests s (s.freeCore c) := by
  unfold State.freeCore
  split
  · exact KeepsTests.refl s
  · refine KeepsTests.trans (t := s.modCore c _) (.of_eq rfl rfl) (State.keepsTests_modDie _ _ _ ?_)
    split <;> rfl

theorem State.keepsTests_endCal (c : Nat) : KeepsTests s (s.endCal c) := by
  unfold State.endCal
  split
  · exact KeepsTests.refl s
  · exact KeepsTests.trans (t := s.modCore c _) (.of_eq rfl rfl) (State.keepsTests_modDie _ _ _ rfl)

theorem State.keepsTests_stopTile (c : Nat) (t : TileRun) : KeepsTests s (s.stopTile c t) := by
  unfold State.stopTile State.leaveTile
  cases t.startAt <;> exact (s.keepsTests_freeCore c).trans (KeepsTests.of_eq rfl rfl)

theorem State.keepsTests_dropSpec (g h : Nat) : KeepsTests s (s.dropSpec g h) := by
  have hcut (p : Nat → Bool) : KeepsTests s (s.cutReplay g p) := by
    refine KeepsTests.foldl _ (fun s c => ?_) s _
    cases (s.core c).tile with
    | none => exact KeepsTests.refl s
    | some t => exact s.keepsTests_stopTile c t
  have hforget (p : Nat → Bool) : KeepsTests s ((s.cutReplay g p).forgetSpec g h) := (hcut p).trans (KeepsTests.of_eq rfl rfl)
  unfold State.dropSpec
  split
  · exact KeepsTests.refl s
  · dsimp only
    split
    · split
      · exact ((hforget _).trans (State.keepsTests_writeSegs _ g _ _)).trans (State.keepsTests_writeSegs _ g _ _)
      · exact hforget _
    · exact hforget _

theorem State.keepsTests_discardSpec (t : TileRun) : KeepsTests s (s.discardSpec t) := by
  unfold State.discardSpec
  split
  · split
    · exact s.keepsTests_dropSpec _ _
    · exact KeepsTests.refl s
  · exact KeepsTests.refl s

theorem State.keepsTests_returnTile (t : TileRun) : KeepsTests s (s.returnTile t) := by
  unfold State.returnTile
  cases t.replay <;> exact KeepsTests.of_eq rfl rfl

theorem State.keepsTests_pullTile (c : Nat) : KeepsTests s (s.pullTile c) := by
  unfold State.pullTile
  cases (s.core c).tile with
  | none => exact KeepsTests.refl s
  | some t =>
    have hfree (f : Kv → Kv) : KeepsTests s ((s.freeCore c).modKv t.g f) := (s.keepsTests_freeCore c).trans (.of_eq rfl rfl)
    dsimp only
    split
    · exact (hfree _).trans (State.keepsTests_returnTile _ t)
    · have hdiscard (u : State) : KeepsTests u ((u.discardSpec t).abortNow t.g t.q) :=
        (u.keepsTests_discardSpec t).trans (.of_eq rfl rfl)
      refine KeepsTests.trans ?_ (hdiscard _)
      exact (hfree fun k => { k with walkers := k.walkers.filter fun w => w.core != c }).trans (.of_eq rfl rfl)

theorem State.keepsTests_modDomain (n : Nat) (f : Domain → Domain) : KeepsTests s (s.modDomain n f) := .of_fenced rfl rfl fun _ => rfl

theorem State.keepsTests_resetDale (n : Nat) : KeepsTests s (s.resetDale n) := .of_fenced rfl rfl fun _ => rfl

theorem State.keepsTests_powerOff (n : Nat) : KeepsTests s (s.powerOff n) :=
  (KeepsTests.foldl _ State.keepsTests_resetDale s (dalesOf n)).trans (State.keepsTests_modDomain _ n _)

theorem State.keepsTests_powerAll (ns : List Nat) (on : Bool) : KeepsTests s (s.powerAll ns on) := by
  refine KeepsTests.foldl _ (fun s n => ?_) s ns
  cases on
  · exact s.keepsTests_powerOff n
  · exact s.keepsTests_modDomain n _

/-! ### Slots given afresh -/

theorem State.keepsTests_countLate (p c : Nat) : KeepsTests s (s.countLate p c) := by
  unfold State.countLate
  split
  · exact KeepsTests.refl s
  · split
    · exact .of_eq rfl rfl
    · exact KeepsTests.refl s

theorem State.keepsTests_unslot (p c : Nat) : KeepsTests s (s.unslot p c) :=
  (s.keepsTests_countLate p c).trans (.of_eq rfl rfl)

theorem State.keepsTests_assignCore (now g i start c : Nat) : KeepsTests s (s.assignCore now g i start c) := by
  unfold State.assignCore
  split
  · exact KeepsTests.refl s
  · exact (s.keepsTests_countLate _ c).trans (.of_eq rfl rfl)

theorem keepsTests_assignSlots (p d now frame : Nat) (slots : List (Nat × Slot)) (free : List Nat) (s : State) :
    KeepsTests s (State.assignSlots p d now frame slots free s) := by
  induction slots generalizing free s with
  | nil => exact KeepsTests.foldl _ (fun s c => s.keepsTests_unslot p c) s free
  | cons x rest ih =>
    obtain ⟨i, sl⟩ := x
    simp only [State.assignSlots]
    refine KeepsTests.trans ?_ (ih _ _)
    refine KeepsTests.trans (KeepsTests.foldl _ (fun s c => s.keepsTests_assignCore now (64 * p + sl.n) i (frame + sl.start * 1000) c) s
      (free.take sl.cores)) ?_
    split
    · exact .of_eq rfl rfl
    · exact KeepsTests.refl _

theorem State.keepsTests_assignDie (p d : Nat) : KeepsTests s (s.assignDie p d) :=
  (KeepsTests.foldl _ (fun s c => s.keepsTests_unslot p c) s _).trans (keepsTests_assignSlots p d _ _ _ _ _)

/-! ### Fencing a core -/

theorem State.keepsTests_qualify : KeepsTests s s.qualify := by
  unfold State.qualify
  dsimp only
  split <;> exact .of_eq rfl rfl

theorem State.keepsTests_fenceEvents (c cause g : Nat) (active : Bool) (spare : Option Nat) :
    KeepsTests s (s.fenceEvents c cause g active spare) := by
  unfold State.fenceEvents
  dsimp only
  refine KeepsTests.trans (.of_eq ?_ ?_) (State.keepsTests_qualify _) <;> split <;> rfl

theorem State.keepsTests_dropPair (c : Nat) : KeepsTests s (s.dropPair c) := by
  unfold State.dropPair
  split
  · exact KeepsTests.refl s
  · exact .of_eq rfl rfl

/-- The fence bit of a core set. -/
theorem State.fenceBit_tests (c : Nat) :
    let t := s.modDie (dieOfCore c) fun d => { d with fenced := d.fenced ||| BitVec.ofNat 18 (2 ^ (c % 18)) }
    KeepsTests s t ∧ t.isFenced c = true := by
  intro t
  have hbit : (BitVec.ofNat 18 (2 ^ (c % 18))).getLsbD (c % 18) = true := by
    have hlt : c % 18 < 18 := Nat.mod_lt _ (by norm_num)
    rw [BitVec.getLsbD_ofNat, decide_eq_true hlt, Nat.testBit_two_pow_self, Bool.and_true]
  refine ⟨⟨rfl, rfl, fun k hk => ?_⟩, ?_⟩
  · rw [State.isFenced] at hk ⊢
    by_cases hd : dieOfCore k = dieOfCore c
    · rw [hd, State.die_modDie_same, BitVec.getLsbD_or, ← hd, hk, Bool.true_or]
    · rwa [State.die_modDie_ne _ _ _ _ hd]
  · rw [State.isFenced, State.die_modDie_same, BitVec.getLsbD_or, hbit, Bool.or_true]

theorem State.takeOut_tests (c : Nat) : KeepsTests s (s.takeOut c) ∧ (s.takeOut c).isFenced c = true := by
  have hpull : KeepsTests s (((s.dropPair c).pullTile c).endCal c) :=
    ((s.keepsTests_dropPair c).trans (State.keepsTests_pullTile _ c)).trans (State.keepsTests_endCal _ c)
  have hcut (f : Core → Core) : KeepsTests s ((((s.dropPair c).pullTile c).endCal c).modCore c f) := hpull.trans (.of_eq rfl rfl)
  have hoff (u : State) : KeepsTests u ((u.powerOff c).resetDale c) :=
    (u.keepsTests_powerOff c).trans (State.keepsTests_resetDale _ c)
  have hbit := fun f => ((((s.dropPair c).pullTile c).endCal c).modCore c f).fenceBit_tests c
  exact ⟨((hcut _).trans (hbit _).1).trans (hoff _), (hoff _).fenced c (hbit _).2⟩

/-- Fencing a core keeps the results of the dies' tests and every fence, and fences it. -/
theorem State.fence_tests (c cause : Nat) : KeepsTests s (s.fence c cause) ∧ (s.fence c cause).isFenced c = true := by
  unfold State.fence
  split
  next h => exact ⟨KeepsTests.refl s, h⟩
  next h =>
    obtain ⟨hout, hc⟩ := s.takeOut_tests c
    have hrest (t : State) (g : Nat) (active : Bool) (spare : Option Nat) (p d : Nat) :
        KeepsTests t ((t.fenceEvents c cause g active spare).assignDie p d) :=
      (t.keepsTests_fenceEvents ..).trans (State.keepsTests_assignDie ..)
    have hroles : KeepsTests (s.takeOut c) (if s.isActive c then (s.takeOut c).setRole c false else s.takeOut c) := by
      split
      · exact .of_eq rfl rfl
      · exact KeepsTests.refl _
    have hall (t : State) (ht : KeepsTests (s.takeOut c) t) : KeepsTests s t ∧ t.isFenced c = true :=
      ⟨hout.trans ht, ht.fenced c hc⟩
    dsimp only
    generalize (if s.isActive c = true then State.spareOf _ _ else none) = spare
    refine hall _ (KeepsTests.trans ?_ (hrest _ _ _ _ _ _))
    cases spare with
    | none => exact hroles
    | some x => exact hroles.trans (.of_eq rfl rfl)

/-- Fencing cores one after another fences each of them. -/
theorem fenceAll_tests (f : State → Nat → State) (h : ∀ s c, KeepsTests s (f s c) ∧ (f s c).isFenced c = true) (l : List Nat)
    (s : State) : KeepsTests s (l.foldl f s) ∧ ∀ c ∈ l, (l.foldl f s).isFenced c = true := by
  induction l generalizing s with
  | nil => exact ⟨KeepsTests.refl s, fun c hc => absurd hc List.not_mem_nil⟩
  | cons a l ih =>
    obtain ⟨hrest, hall⟩ := ih (f s a)
    refine ⟨(h s a).1.trans hrest, fun c hc => ?_⟩
    rcases List.mem_cons.1 hc with rfl | hc
    · exact hrest.fenced c (h s c).2
    · exact hall c hc

/-- The results of a die's cores: every core that failed its test is fenced. -/
theorem State.coreResults_tests (d : Nat) (ok : BitVec 18) :
    KeepsTests s (s.coreResults d ok) ∧ ∀ i, i < 18 → ok.getLsbD i = false → (s.coreResults d ok).isFenced (18 * d + i) = true := by
  unfold State.coreResults
  extract_lets bad marked
  have hmarked : KeepsTests s marked := KeepsTests.foldl _ (fun _ _ => by exact .of_eq rfl rfl) s bad
  have hfence (s : State) (c : Nat) : KeepsTests s (if s.isActive c then s.draw.2.fence c (s.draw.1.toNat % 256) else s.fence c 5) ∧
      (if s.isActive c then s.draw.2.fence c (s.draw.1.toNat % 256) else s.fence c 5).isFenced c = true := by
    split
    · obtain ⟨hk, hc⟩ := s.draw.2.fence_tests c (s.draw.1.toNat % 256)
      exact ⟨KeepsTests.trans (t := s.draw.2) (.of_eq rfl rfl) hk, hc⟩
    · exact s.fence_tests c 5
  obtain ⟨hk, hall⟩ := fenceAll_tests _ hfence bad marked
  refine ⟨hmarked.trans hk, fun i hi hok => hall _ ?_⟩
  have hmod : (18 * d + i) % 18 = i := by omega
  simp only [bad, coresOfDie, List.mem_filter, List.mem_map, List.mem_range, hmod, hok]
  exact ⟨⟨i, hi, rfl⟩, rfl⟩

/-! ### The end of a die's test (R432) -/

theorem State.keepsTests_powerPorts (d : Nat) : KeepsTests s (s.powerPorts d) := by
  unfold State.powerPorts
  split
  · exact KeepsTests.refl s
  · exact s.keepsTests_modDomain _ _

theorem State.keepsTests_trainPorts (d : Nat) : KeepsTests s (s.trainPorts d) :=
  KeepsTests.foldl _ (fun _ _ => by exact .of_eq rfl rfl) s _

/-- The die's cores that do not stay powered switched off, and its ports powered: the test's end, whatever its result. -/
def State.testPowered (d : Nat) : State := (s.powerAll ((coresOfDie d).filter fun c => !s.staysOn c) false).powerPorts d

theorem State.keepsTests_testPowered (d : Nat) : KeepsTests s (s.testPowered d) :=
  (s.keepsTests_powerAll _ false).trans (State.keepsTests_powerPorts _ d)

section
variable {d : Nat} (hd : d < 8) (hphase : s.pwr.phase = .serving) (hshut : s.pwr.shutdown = false)
  (hpass : s.pwr.diePass.getLsbD d = false) (hfail : s.pwr.dieFail.getLsbD d = false)
include hd hphase hshut hpass hfail

theorem State.testDone_passed (hon : (s.domain (144 + d)).st = 2) (ok : BitVec 18) :
    s.testDone d true ok =
      ((((s.testPowered d).modPwr fun w => { w with diePass := setBit w.diePass d }).coreResults d ok).powerAll
        [152 + 3 * d, 153 + 3 * d, 154 + 3 * d] true).trainPorts d := by
  rw [State.testDone, if_neg (by simp [hphase, hshut, hpass, hfail, hon, Nat.not_le.2 hd])]
  rfl

/-- A die that passes counts, and its cores that failed are fenced. -/
theorem State.testDone_passed_effect (hon : (s.domain (144 + d)).st = 2) (ok : BitVec 18) :
    (s.testDone d true ok).pwr.diePass = setBit s.pwr.diePass d ∧ (s.testDone d true ok).pwr.dieFail = s.pwr.dieFail ∧
      ∀ i, i < 18 → ok.getLsbD i = false → (s.testDone d true ok).isFenced (18 * d + i) = true := by
  rw [s.testDone_passed hd hphase hshut hpass hfail hon]
  have hpow := s.keepsTests_testPowered d
  obtain ⟨hres, hfenced⟩ := ((s.testPowered d).modPwr fun w => { w with diePass := setBit w.diePass d }).coreResults_tests d ok
  have hend := (State.keepsTests_powerAll (((s.testPowered d).modPwr fun w => { w with diePass := setBit w.diePass d }).coreResults d ok)
    [152 + 3 * d, 153 + 3 * d, 154 + 3 * d] true).trans (State.keepsTests_trainPorts _ d)
  refine ⟨?_, ?_, fun i hi hok => hend.fenced _ (hfenced i hi hok)⟩
  · rw [hend.pass, hres.pass, ← hpow.pass]
    rfl
  · rw [hend.fail, hres.fail, ← hpow.fail]
    rfl

/-- A die that fails is recorded as failed and logged; the interface of a die that has one has failed with it. -/
theorem State.testDone_failed_effect (ok : BitVec 18) :
    (s.testDone d false ok).pwr.dieFail = setBit s.pwr.dieFail d ∧ (s.testDone d false ok).pwr.diePass = s.pwr.diePass ∧
      (d % 4 = 0 → ((s.testDone d false ok).hif (d / 4)).failed = true) ∧
      ∃ r, (s.testDone d false ok).log.recs.getLast? = some r ∧ r.cls = 0x0022 ∧ r.part = partCode 2 d := by
  have hpow := s.keepsTests_testPowered d
  set t := (s.testPowered d).modPwr fun w => { w with dieFail := setBit w.dieFail d } with ht
  have hdone : s.testDone d false ok =
      if d % 4 = 0 then (t.event 0x0022 (partCode 2 d) (t.partByte d) [15]).modHif (d / 4) fun i => { i with failed := true }
      else t.event 0x0022 (partCode 2 d) (t.partByte d) [15] := by
    rw [State.testDone, if_neg (by simp [hphase, hshut, hpass, hfail, Nat.not_le.2 hd])]
    rfl
  obtain ⟨r, hr, hcls, hpart⟩ := t.event_getLast 0x0022 (partCode 2 d) (t.partByte d) [15]
  have hfailed : t.pwr.dieFail = setBit s.pwr.dieFail d := by
    rw [← hpow.fail]
    rfl
  rw [hdone]
  split
  next h4 => exact ⟨hfailed, hpow.pass, fun _ => by rw [State.hif_modHif_same], r, hr, hcls, hpart⟩
  next h4 => exact ⟨hfailed, hpow.pass, fun h => absurd h h4, r, hr, hcls, hpart⟩

end

end

end Sys2Proof.Machine
end

section
/-! Host interfaces lost and regained (R57), and what power-good, the resets, boot, tests and pins leave together. -/
namespace Sys2Proof.Machine

/-! ### Stopping contexts: the frame -/

/-- Of the state only contexts, cores, dies and the log differ, and of the contexts only g. -/
structure OnlyStopped (g : Nat) (s t : State) : Prop where
  frame : t = { s with ctxs := t.ctxs, cores := t.cores, dies := t.dies, log := t.log }
  others : OthersKept g s t

theorem OnlyQueues.onlyStopped {g : Nat} {s t : State} (h : OnlyQueues g s t) : OnlyStopped g s t where
  frame := by
    have hlog : t.log = s.log := by rw [h.frame]
    calc t = { s with ctxs := t.ctxs, cores := t.cores, dies := t.dies } := h.frame
      _ = { s with ctxs := t.ctxs, cores := t.cores, dies := t.dies, log := t.log } := by rw [hlog]
  others := h.others

theorem FaultedBy.onlyStopped {g q seq status tile : Nat} {s t : State} (h : FaultedBy g q seq status tile s t) : OnlyStopped g s t :=
  ⟨h.frame, h.others⟩

theorem OnlyStopped.trans {g : Nat} {s t u : State} (h : OnlyStopped g s t) (k : OnlyStopped g t u) : OnlyStopped g s u where
  frame := calc
    u = { t with ctxs := u.ctxs, cores := u.cores, dies := u.dies, log := u.log } := k.frame
    _ = { s with ctxs := u.ctxs, cores := u.cores, dies := u.dies, log := u.log } := by rw [h.frame]
  others j hj := (k.others j hj).trans (h.others j hj)

/-! ### Records lost (R57) -/

/-- What a queue has taken and been told of is as before, and it does not come to run. -/
structure Queue.SameFetch (u v : Queue) : Prop where
  tail : v.tail = u.tail
  takenSeq : v.takenSeq = u.takenSeq
  running : v.st = .running → u.st = .running

theorem Queue.SameFetch.trans {u v w : Queue} (h : u.SameFetch v) (k : v.SameFetch w) : u.SameFetch w :=
  ⟨k.tail.trans h.tail, k.takenSeq.trans h.takenSeq, fun hw => h.running (k.running hw)⟩

theorem Queue.settle_sameFetch (u : Queue) : u.SameFetch u.settle := by
  unfold Queue.settle
  split
  · exact ⟨rfl, rfl, fun h => nomatch h⟩
  · exact ⟨rfl, rfl, id⟩

theorem Queue.loseRecs_sameFetch (u : Queue) : u.SameFetch u.loseRecs := by
  refine Queue.SameFetch.trans ?_ (Queue.settle_sameFetch _)
  exact List.foldlRecOn (motive := fun v : Queue => u.SameFetch v) _ _ ⟨rfl, rfl, id⟩ fun v hv x _ => hv.trans ⟨rfl, rfl, id⟩

section
variable (s : State) (g : Nat)

theorem State.loseRecs_effect : OnlyQueues g s (s.loseRecs g) ∧ ∀ q, (s.queue g q).SameFetch ((s.loseRecs g).queue g q) := by
  unfold State.loseRecs
  refine List.foldlRecOn (motive := fun t : State => OnlyQueues g s t ∧ ∀ q, (s.queue g q).SameFetch (t.queue g q)) _ _
    ⟨OnlyQueues.refl g s, fun q => ⟨rfl, rfl, id⟩⟩ fun t ⟨hframe, hq⟩ k _ => ⟨hframe.trans (t.onlyQueues_modQueue g k _), fun q => ?_⟩
  by_cases hk : q = k
  · rw [hk, State.queue_modQueue_same]
    exact (hq k).trans (Queue.loseRecs_sameFetch _)
  · rw [State.queue_modQueue_ne _ _ _ _ _ hk]
    exact hq q

/-! ### Unfetched descriptors -/

/-- Translation is by a context's cached granules and by tables in HBM. -/
theorem State.xlate_of_frame {s t : State} {g : Nat} (h : t = { s with ctxs := t.ctxs, cores := t.cores, dies := t.dies, log := t.log })
    (htlb : (t.ctx g).tlb = (s.ctx g).tlb) : t.xlate g = s.xlate g := by
  have hwalk : t.walkCtx g = s.walkCtx g := by
    rw [h]
    rfl
  funext va
  rw [State.xlate, State.xlate, htlb, hwalk]

theorem State.queueRec_of_frame {s t : State} (h : t = { s with ctxs := t.ctxs, cores := t.cores, dies := t.dies, log := t.log }) :
    t.queueRec = s.queueRec := by
  rw [h]
  rfl

theorem State.unfetched_of_ctx {s t : State} {g : Nat}
    (h : t = { s with ctxs := t.ctxs, cores := t.cores, dies := t.dies, log := t.log }) (hctx : t.ctx g = s.ctx g) :
    t.unfetched g = s.unfetched g := by
  have hqueue : t.queue g = s.queue g := by
    funext q
    rw [State.queue, State.queue, hctx]
  funext q
  rw [State.unfetched, State.unfetched, hctx, hqueue, State.queueRec_of_frame h, State.xlate_of_frame h (congrArg Ctx.tlb hctx)]

/-- Whether context g can fetch all that it has been told of. -/
def State.allFetched (s : State) (g : Nat) : Prop := (List.range 8).find? (s.unfetched g) = none

theorem State.allFetched_iff : s.allFetched g ↔ ∀ q, q < 8 → s.unfetched g q = false := by
  simp [State.allFetched]

theorem State.allFetched_of_not_active (h : (s.ctx g).st ≠ .active) : s.allFetched g := by
  rw [State.allFetched_iff]
  intro q _
  simp [State.unfetched, h]

theorem State.allFetched_loseRecs (h : s.allFetched g) : (s.loseRecs g).allFetched g := by
  obtain ⟨honly, hq⟩ := s.loseRecs_effect g
  rw [State.allFetched_iff] at h ⊢
  intro q hq8
  have hframe := honly.onlyStopped.frame
  have htlb : ((s.loseRecs g).ctx g).tlb = (s.ctx g).tlb := by rw [honly.own]
  have hst : ((s.loseRecs g).ctx g).st = (s.ctx g).st := by rw [honly.own]
  have hf := h q hq8
  rw [← Bool.not_eq_true] at hf ⊢
  refine mt (fun ht => ?_) hf
  simp only [State.unfetched, hst, State.queueRec_of_frame hframe, State.xlate_of_frame hframe htlb, (hq q).tail, (hq q).takenSeq,
    Bool.and_eq_true, beq_iff_eq] at ht ⊢
  exact ⟨⟨⟨ht.1.1.1, (hq q).running ht.1.1.2⟩, ht.1.2⟩, ht.2⟩

/-! ### Contexts that lose their rings -/

/-- One context behind a path that is gone: its fault, where it has one, and its records (R57). -/
def State.loseCtx : State := (s.loseRings g).loseRecs g

theorem State.loseCtx_onlyStopped : OnlyStopped g s (s.loseCtx g) := by
  have hrecs (t : State) : OnlyStopped g t (t.loseRecs g) := (t.loseRecs_effect g).1.onlyStopped
  unfold State.loseCtx State.loseRings
  split
  next q hq => exact (s.faultCtx_faults g q _ stHostLost 0).onlyStopped.trans (hrecs _)
  next hq => exact hrecs s

/-- A context's registers of its state and its fault. -/
def Ctx.marks (c : Ctx) : CtxState × Nat × Nat := (c.st, c.faultStatus, c.faultAt)

theorem State.loseCtx_of_allFetched (h : s.allFetched g) :
    (s.loseCtx g).allFetched g ∧ ((s.loseCtx g).ctx g).marks = (s.ctx g).marks := by
  have hrings : s.loseRings g = s := by
    rw [State.loseRings, h]
  rw [State.loseCtx, hrings]
  refine ⟨s.allFetched_loseRecs g h, ?_⟩
  rw [(s.loseRecs_effect g).1.own]
  rfl

theorem State.loseCtx_faults (q : Nat) (h : (List.range 8).find? (s.unfetched g) = some q) :
    (s.loseCtx g).allFetched g ∧
      ((s.loseCtx g).ctx g).marks = (.faulted, 0x1B, q * 2 ^ 61 + ((s.queue g q).takenSeq + 1)) := by
  have hrings : s.loseRings g = s.faultCtx g q ((s.queue g q).takenSeq + 1) stHostLost 0 := by
    rw [State.loseRings, h]
  have hf := s.faultCtx_faults g q ((s.queue g q).takenSeq + 1) stHostLost 0
  rw [State.loseCtx, hrings]
  have hall := State.allFetched_of_not_active (s.faultCtx g q ((s.queue g q).takenSeq + 1) stHostLost 0) g (by rw [hf.st]; decide)
  refine ⟨State.allFetched_loseRecs _ g hall, ?_⟩
  rw [(State.loseRecs_effect _ g).1.own]
  exact Prod.ext hf.st (Prod.ext hf.cause hf.place)

/-- Contexts that lose their rings one after another. -/
theorem State.loseCtxs_settled (l : List Nat) (h : s.allFetched g) :
    ((l.foldl State.loseCtx s).ctx g).marks = (s.ctx g).marks := by
  induction l generalizing s with
  | nil => rfl
  | cons a l ih =>
    rw [List.foldl_cons]
    by_cases ha : g = a
    · subst ha
      obtain ⟨hall, hmarks⟩ := s.loseCtx_of_allFetched g h
      exact (ih _ hall).trans hmarks
    · have hstep := s.loseCtx_onlyStopped a
      have hctx := hstep.others g ha
      refine (ih _ ?_).trans (by rw [hctx])
      rwa [State.allFetched, State.unfetched_of_ctx hstep.frame hctx]

theorem State.loseCtxs_faulted (l : List Nat) (hg : g ∈ l) (q : Nat) (h : (List.range 8).find? (s.unfetched g) = some q) :
    ((l.foldl State.loseCtx s).ctx g).marks = (.faulted, 0x1B, q * 2 ^ 61 + ((s.queue g q).takenSeq + 1)) := by
  induction l generalizing s with
  | nil => exact absurd hg List.not_mem_nil
  | cons a l ih =>
    rw [List.foldl_cons]
    by_cases ha : g = a
    · subst ha
      obtain ⟨hall, hmarks⟩ := s.loseCtx_faults g q h
      exact (State.loseCtxs_settled _ g l hall).trans hmarks
    · have hstep := s.loseCtx_onlyStopped a
      have hctx := hstep.others g ha
      rw [ih _ ((List.mem_cons.1 hg).resolve_left ha) (by rwa [State.unfetched_of_ctx hstep.frame hctx]), State.queue, State.queue,
        hctx]

theorem State.loseCtxs_others (l : List Nat) (hg : g ∉ l) : (l.foldl State.loseCtx s).ctx g = s.ctx g := by
  induction l generalizing s with
  | nil => rfl
  | cons a l ih =>
    rw [List.foldl_cons, ih _ fun h => hg (List.mem_cons_of_mem a h)]
    exact (s.loseCtx_onlyStopped a).others g fun h => hg (h ▸ List.mem_cons_self)

theorem State.hifs_loseCtxs (l : List Nat) : (l.foldl State.loseCtx s).hifs = s.hifs := by
  induction l generalizing s with
  | nil => rfl
  | cons a l ih =>
    rw [List.foldl_cons, ih, (s.loseCtx_onlyStopped a).frame]

end

end Sys2Proof.Machine
end

section
/-! The pins: what the rows of power-good, of RESET_N, of the boot and of the host interfaces come to (R57, R430 to R432). -/
namespace Sys2Proof.Machine

/-! ### A host interface that comes up (R57) -/

/-- What an interface says of its link. -/
def HostIf.link (i : HostIf) : Bool × Nat × Nat := (i.ready, i.speed, i.width)

/-- No memory, no state of a context and no link of an interface differs. -/
structure KeepsLinks (s t : State) : Prop where
  hbm : t.hbm = s.hbm
  st : ∀ g, (t.ctx g).st = (s.ctx g).st
  link : ∀ h, (t.hif h).link = (s.hif h).link

theorem KeepsLinks.refl (s : State) : KeepsLinks s s := ⟨rfl, fun _ => rfl, fun _ => rfl⟩

theorem KeepsLinks.trans {s t u : State} (a : KeepsLinks s t) (b : KeepsLinks t u) : KeepsLinks s u :=
  ⟨b.hbm.trans a.hbm, fun g => (b.st g).trans (a.st g), fun h => (b.link h).trans (a.link h)⟩

theorem KeepsLinks.foldl {α : Type} (f : State → α → State) (hf : ∀ s x, KeepsLinks s (f s x)) (s : State) (l : List α) :
    KeepsLinks s (l.foldl f s) :=
  List.foldlRecOn (motive := KeepsLinks s) l f (KeepsLinks.refl s) fun t ht x _ => ht.trans (hf t x)

theorem OnlyQueues.keepsLinks {g : Nat} {s t : State} (h : OnlyQueues g s t) : KeepsLinks s t where
  hbm := by rw [h.frame]
  st k := by
    by_cases hk : k = g
    · rw [hk, h.own]
    · rw [h.others k hk]
  link k := by rw [h.frame]; rfl

section
variable (s : State)

theorem State.keepsLinks_raiseVec (h v : Nat) : KeepsLinks s (s.raiseVec h v) where
  hbm := rfl
  st _ := rfl
  link k := by
    unfold State.raiseVec
    by_cases hk : k = h
    · subst hk
      rw [State.hif_modHif_same]
      split_ifs <;> rfl
    · rw [State.hif_modHif_ne _ _ _ _ hk]

theorem State.keepsLinks_raiseFor (p h v : Nat) : KeepsLinks s (s.raiseFor p h v) := by
  unfold State.raiseFor
  split
  · exact s.keepsLinks_raiseVec h v
  · exact KeepsLinks.refl s

theorem State.keepsLinks_raiseQueue (g q : Nat) : KeepsLinks s (s.raiseQueue g q) := by
  unfold State.raiseQueue
  exact (s.keepsLinks_raiseFor _ _ _).trans (State.onlyQueues_modQueue _ g q _).keepsLinks

/-- Regaining an interface loses records and raises vectors, and no more. -/
theorem State.keepsLinks_regain (h : Nat) (parts : List Nat) : KeepsLinks s (s.regain h parts) :=
  (KeepsLinks.foldl _ (fun s g => (s.loseRecs_effect g).1.keepsLinks) s _).trans
    (KeepsLinks.foldl _ (fun s g => KeepsLinks.foldl _ (fun s q => s.keepsLinks_raiseQueue g q) s _) _ _)

/-- What lets an interface come up (R57). -/
def State.MayLink (h : Nat) : Prop :=
  (s.hif h).ready = false ∧ (s.hif h).perst = false ∧ (s.hif h).failed = false ∧ s.pwr.phase = .serving ∧
    (s.domain (184 + h)).st = 2 ∧ s.pwr.diePass.getLsbD (4 * h) = true

theorem State.hostUp_of_not_mayLink (h speed width : Nat) (hmay : ¬ s.MayLink h) : s.hostUp h speed width = s := by
  unfold State.hostUp
  dsimp only
  split
  next => rfl
  next hc =>
    simp only [not_or, Bool.not_eq_true, bne_eq_false_iff_eq, ne_eq, Decidable.not_not, Bool.not_eq_false'] at hc
    obtain ⟨-, hready, hperst, hfailed, hphase, hon, hpass, -⟩ := hc
    exact absurd ⟨hready, hperst, hfailed, hphase, hon, hpass⟩ hmay

theorem State.hostUp_effect (h speed width : Nat) (hh : h < 2) (hmay : s.MayLink h) (hspeed : 1 ≤ speed ∧ speed ≤ 6)
    (hwidth : 1 ≤ width ∧ width ≤ 16) :
    let t := s.hostUp h speed width
    (t.hif h).ready = true ∧ (t.hif h).speed = speed ∧ (t.hif h).width = width ∧ t.hbm = s.hbm ∧
      ∀ g, (t.ctx g).st = (s.ctx g).st := by
  obtain ⟨hready, hperst, hfailed, hphase, hon, hpass⟩ := hmay
  have hup : s.hostUp h speed width =
      (s.modHif h fun i => { i with ready := true, linkUp := true, speed := speed, width := width }).regain h allParts := by
    refine if_neg ?_
    simp only [hready, hperst, hfailed, hphase, hon, hpass]
    simp
    omega
  have hkeep := (s.modHif h fun i => { i with ready := true, linkUp := true, speed := speed, width := width }).keepsLinks_regain h allParts
  have hlink := hkeep.link h
  rw [State.hif_modHif_same, HostIf.link, HostIf.link, Prod.mk.injEq, Prod.mk.injEq] at hlink
  rw [hup]
  exact ⟨hlink.1, hlink.2.1, hlink.2.2, hkeep.hbm, hkeep.st⟩

/-! ### A host interface that goes down (R57) -/

/-- The interface of a host whose link is gone. -/
def State.unlink (h : Nat) : State :=
  s.modHif h fun i => { i with ready := false, linkUp := false, speed := 0, width := 0, msixOn := false, heldInts := [] }

theorem State.hostLinkDown_eq (h : Nat) (hready : (s.hif h).ready = true) :
    s.hostLinkDown h = (((s.unlink h).usersOf h allParts).foldl State.loseCtx (s.unlink h)).event 0x0060 (partCode 5 h) noPart
      (0 :: leBytes 2 (s.loseCount h allParts)) := by
  rw [State.hostLinkDown, if_pos hready]
  rfl

theorem State.mem_usersOf (g h : Nat) : g ∈ s.usersOf h allParts ↔ (∃ kv ∈ s.ctxs, kv.1 = g) ∧ s.hostIfOf g = h ∧ g / 64 < 8 := by
  simp [State.usersOf, allParts, partOfCtx]

/-- The link is gone, its interrupts are held no more, and the loss is logged. -/
theorem State.hostLinkDown_link (h : Nat) (hready : (s.hif h).ready = true) :
    let t := s.hostLinkDown h
    (t.hif h).ready = false ∧ (t.hif h).linkUp = false ∧ (t.hif h).heldInts = [] ∧
      ∃ r, t.log.recs.getLast? = some r ∧ r.cls = 0x0060 ∧ r.part = partCode 5 h := by
  have hhif : (s.hostLinkDown h).hif h =
      { s.hif h with ready := false, linkUp := false, speed := 0, width := 0, msixOn := false, heldInts := [] } := by
    have hkept : (s.hostLinkDown h).hif h = (s.unlink h).hif h := by
      rw [s.hostLinkDown_eq h hready]
      exact congrArg (mapGet {} · h) (State.hifs_loseCtxs _ _)
    exact hkept.trans (s.hif_modHif_same h _)
  refine ⟨by rw [hhif], by rw [hhif], by rw [hhif], ?_⟩
  rw [s.hostLinkDown_eq h hready]
  exact State.event_getLast _ _ _ _ _

/-- A context on the interface with descriptors it can no longer fetch faults at the first of them. -/
theorem State.hostLinkDown_faults (h g q : Nat) (hready : (s.hif h).ready = true) (hg : ∃ kv ∈ s.ctxs, kv.1 = g)
    (hh : s.hostIfOf g = h) (h8 : g / 64 < 8) (hq : (List.range 8).find? (s.unfetched g) = some q) :
    ((s.hostLinkDown h).ctx g).st = .faulted ∧ ((s.hostLinkDown h).ctx g).faultStatus = 0x1B ∧
      ((s.hostLinkDown h).ctx g).faultAt = q * 2 ^ 61 + (s.queue g q).takenSeq + 1 := by
  have hmarks := State.loseCtxs_faulted (s.unlink h) g _ (((s.unlink h).mem_usersOf g h).2 ⟨hg, hh, h8⟩) q hq
  rw [Ctx.marks, Prod.mk.injEq, Prod.mk.injEq] at hmarks
  rw [s.hostLinkDown_eq h hready, Nat.add_assoc]
  exact hmarks

theorem State.hostLinkDown_others (h g : Nat) (hready : (s.hif h).ready = true) (hh : s.hostIfOf g ≠ h) :
    (s.hostLinkDown h).ctx g = s.ctx g := by
  rw [s.hostLinkDown_eq h hready]
  exact State.loseCtxs_others (s.unlink h) g _ fun hg => hh (((s.unlink h).mem_usersOf g h).1 hg).2.1

theorem State.hostLinkDown_settled (h g : Nat) (hready : (s.hif h).ready = true) (hq : ∀ q, q < 8 → s.unfetched g q = false) :
    ((s.hostLinkDown h).ctx g).st = (s.ctx g).st := by
  rw [s.hostLinkDown_eq h hready]
  exact congrArg Prod.fst (State.loseCtxs_settled (s.unlink h) g _ ((State.allFetched_iff _ _).2 hq))

end

/-! ### PERST# (R430) -/

section
variable (s : State)

theorem State.perstAssert_effect (h : Nat) (hh : h < 2) :
    let t := s.perstAssert h
    (t.hif h).perst = true ∧ (t.hif h).ready = false ∧ (t.hif h).busy = false ∧
      ∀ c ∈ t.chans, c.src = .host h → c.staged = none ∧ c.snap = none := by
  rw [State.perstAssert, if_neg (Nat.not_le.2 hh)]
  generalize (if (s.hif h).ready then s.hostDown h 1 else s) = u
  have hhif (f : HostIf → HostIf) (cs : List Chan) : ({ (u.modHif h f).resetDale (208 + h) with chans := cs } : State).hif h = f (u.hif h) :=
    u.hif_modHif_same h f
  refine ⟨by rw [hhif], by rw [hhif], by rw [hhif], fun c hc hsrc => ?_⟩
  obtain ⟨b, -, rfl⟩ := List.mem_map.1 hc
  split at hsrc
  next hb => rw [if_pos hb]; exact ⟨rfl, rfl⟩
  next hb => exact absurd hsrc hb

/-! ### Power-good and RESET_N (R395, R430, R431) -/

/-- Of s, t has only what a module reset keeps. -/
def State.WipedFrom (t : State) : Prop :=
  t.ctxs = [] ∧ t.parts = [] ∧ t.ports = [] ∧ t.sec.sessions = [] ∧ t.log = {} ∧ t.sec.svn = s.sec.svn ∧ t.doubler.risk = 1 ∧
    ∀ index sub, keyKept (key index sub) = true → t.cfgBytes index sub = s.cfgBytes index sub

theorem State.wipedFrom_moduleReset : s.WipedFrom s.moduleReset :=
  ⟨rfl, rfl, rfl, rfl, rfl, rfl, rfl, s.moduleReset_cfgBytes⟩

theorem State.powerGood_off (v : BitVec 4) (h : s.pwr.good = false) :
    s.powerGood v = { s with pwr := { s.pwr with
      good := true, opened := false, time := 0, straps := v, phase := if s.pwr.resetHeld then s.pwr.phase else .booting,
      startedAt := if s.pwr.resetHeld then s.pwr.startedAt else 0 } } := by
  rw [State.powerGood, if_neg (by simp [h])]
  dsimp only [State.modPwr, State.startUp]
  split <;> rfl

theorem State.powerGoodLoss_on (h : s.pwr.good = true) : s.powerGoodLoss = s.powerLost := if_pos h

theorem State.powerGoodLoss_off (h : s.pwr.good = false) : s.powerGoodLoss = s := if_neg (by simp [h])

theorem State.hotSwapOpen_power : s.hotSwapOpen.pwr.good = false ∧ s.hotSwapOpen.pwr.opened = true := by
  refine ⟨?_, rfl⟩
  cases h : s.pwr.good with
  | true => rw [State.hotSwapOpen, s.powerGoodLoss_on h]; rfl
  | false => rw [State.hotSwapOpen, s.powerGoodLoss_off h]; exact h

theorem State.resetAssert_effect :
    s.resetAssert.pwr.resetHeld = true ∧ s.resetAssert.now = s.now ∧
      (s.pwr.good = true → s.resetAssert.pwr.phase = .off ∧ s.WipedFrom s.resetAssert) := by
  rw [State.resetAssert]
  split
  next h => exact ⟨rfl, rfl, fun _ => ⟨rfl, State.wipedFrom_moduleReset _⟩⟩
  next h => exact ⟨rfl, rfl, fun hg => absurd hg h⟩

theorem State.resetRelease_eq :
    s.resetRelease =
      if s.pwr.resetHeld then { s with pwr := { s.pwr with
        resetHeld := false, phase := if s.pwr.good then .booting else s.pwr.phase,
        startedAt := if s.pwr.good then s.now else s.pwr.startedAt } }
      else s := by
  rw [State.resetRelease]
  cases s.pwr.resetHeld with
  | false => rfl
  | true =>
    dsimp only [State.modPwr, State.startUp]
    cases s.pwr.good <;> rfl

/-! ### Stacks and the field port (R344, R383, R432) -/

theorem State.stackTrained_ready {k : Nat} (hk : k < 24) (hphase : s.pwr.phase = .serving) (hshut : s.pwr.shutdown = false)
    (hready : s.pwr.stackReady.getLsbD k = false) (hfail : s.pwr.stackFail.getLsbD k = false) (hon : (s.domain (152 + k)).st = 2) :
    (s.stackTrained k true).pwr.stackReady = setBit s.pwr.stackReady k ∧ ((s.stackTrained k true).stack k).selfRefresh = true := by
  have htrained : s.stackTrained k true =
      (s.modPwr fun w => { w with stackReady := setBit w.stackReady k }).modStack k fun x => { x with selfRefresh := true } := by
    rw [State.stackTrained, if_neg (by simp [hphase, hshut, hready, hfail, hon, Nat.not_le.2 hk])]
    rfl
  rw [htrained]
  exact ⟨rfl, by rw [State.stack_modStack_same]⟩

theorem State.stackTrained_fails {k : Nat} (hk : k < 24) (hphase : s.pwr.phase = .serving) (hshut : s.pwr.shutdown = false)
    (hready : s.pwr.stackReady.getLsbD k = false) (hfail : s.pwr.stackFail.getLsbD k = false) :
    s.stackTrained k false = ({ s with pwr := { s.pwr with stackFail := setBit s.pwr.stackFail k } }).event 0x0014
      (partCode 3 k) (s.partByte (k / 3)) [2] := by
  rw [State.stackTrained, if_neg (by simp [hphase, hshut, hready, hfail, Nat.not_le.2 hk])]
  rfl

theorem State.fieldUp_eq :
    s.fieldUp =
      if s.serving ∧ s.pwr.fieldReady = false then
        { s with pwr := { s.pwr with fieldReady := true },
                 field := { s.field with nodeId := s.fieldNode, plcaCount := s.cfg 0x1200 3 } }
      else s := by
  rw [State.fieldUp]
  cases s.serving <;> cases s.pwr.fieldReady <;> rfl

/-! ### Boot (R397) -/

theorem State.measured_meas6 :
    s.measured.sec.meas6 = sha384 (([1, 2, 3, 4].flatMap fun i => s.cfgBytes 0x5800 i) ++ leBytes 2 s.sec.svn) := rfl

theorem State.sec_modPwr (f : Power → Power) : (s.modPwr f).sec = s.sec := rfl

theorem State.sec_bankEvent (b i : Nat) : (s.bankEvent b i).sec = s.sec := rfl

/-- The limited dictionary: neither bank verifies, and the keys and measurements are made all the same. -/
theorem State.boot_limited_effect (hp : s.pwr.phase = .booting) (i j : Nat) :
    let t := s.bootComplete (some i) (some j) true
    t.pwr.phase = .limited ∧ t.pwr.bootNs = s.pwr.bootNs ∧ t.log.next = s.log.next + 2 ∧ t.sec.bank = s.sec.bank ∧
      t.sec.identity = some Config.identityKey ∧
      t.sec.aliasKey = some (Config.aliasKey Config.identityKey ([1, 2, 3, 4, 5].map t.measure)) ∧ t.measure 6 = s.measured.sec.meas6 := by
  obtain ⟨k, l, hboot⟩ := s.boot_limited hp i j
  have hsec : (s.bootComplete (some i) (some j) true).sec = s.measured.sec := by
    rw [hboot, State.sec_modPwr, State.sec_bankEvent, State.sec_bankEvent]
  have hrunning : (s.bootComplete (some i) (some j) true).running = s.running := by
    rw [State.running, State.bankImage, hsec]
    rfl
  have halias : s.measured.sec.aliasKey = s.deriveKeys.sec.aliasKey := rfl
  have hmeasure : (s.bootComplete (some i) (some j) true).measure 6 = (s.bootComplete (some i) (some j) true).sec.meas6 := rfl
  refine ⟨by rw [hboot]; rfl, by rw [hboot]; rfl, by rw [hboot]; rfl, by rw [hsec]; rfl, by rw [hsec]; rfl, ?_, ?_⟩
  · rw [hsec, halias, State.aliasKey_deriveKeys, State.map_measure_boot, State.bootMeasure_of_running hrunning]
  · rw [hmeasure, hsec]

end

/-- Settles O56: each row by the lemma that says what it does; a boot by the bank it takes, a host link by whether it may come up. -/
theorem powerAndStartUp : Obligations.PowerAndStartUp := by
  intro s wiped
  refine ⟨fun v h => congrArg Host.Outcome.next (s.powerGood_off v h), fun v h => congrArg Host.Outcome.next (if_pos h),
    fun h => ⟨_, congrArg Host.Outcome.next (s.powerGoodLoss_on h), rfl, rfl, s.wipedFrom_moduleReset⟩,
    fun h => congrArg Host.Outcome.next (s.powerGoodLoss_off h), ⟨_, rfl, s.hotSwapOpen_power⟩, ⟨_, rfl, s.resetAssert_effect⟩,
    congrArg Host.Outcome.next s.resetRelease_eq, fun b0 b1 store h => congrArg Host.Outcome.next (if_pos (bne_iff_ne.2 h)), ?boot, ?dies, ?training,
    congrArg Host.Outcome.next s.fieldUp_eq, ?links⟩
  case boot =>
    intro b0 b1 hp first
    refine ⟨?_, ?_, ?_⟩
    · rintro b hfirst rfl
      obtain ⟨hphase, hbank, hnext, hns, hledger, hlog, hid, halias, hmeas⟩ := s.measured.booted_effect first
      exact ⟨_, congrArg Host.Outcome.next (s.boot_first hp b0 b1 hfirst), hphase, hbank, hnext, hns, hledger, hlog, hid, halias,
        hmeas.trans s.measured_meas6, s.measured.booted_domains first⟩
    · intro i hfirst hsecond
      obtain ⟨hphase, hbank, -, hns, -, hlog, -⟩ := (s.measured.bankEvent first i).booted_effect (1 - first)
      exact ⟨_, congrArg Host.Outcome.next (s.boot_second hp b0 b1 i hfirst hsecond), hphase, hbank, hns, by rw [hlog]; rfl⟩
    · rintro i j rfl rfl
      obtain ⟨hphase, hns, hlog, hbank, hid, halias, hmeas⟩ := s.boot_limited_effect hp i j
      exact ⟨_, rfl, hphase, hns, hlog, hbank, hid, halias, hmeas.trans s.measured_meas6⟩
  case dies =>
    intro d ok hd hphase hshut hpass hfail
    exact ⟨fun hon => ⟨_, rfl, s.testDone_passed_effect hd hphase hshut hpass hfail hon ok⟩,
      ⟨_, rfl, s.testDone_failed_effect hd hphase hshut hpass hfail ok⟩⟩
  case training =>
    intro k hk hphase hshut hready hfail
    exact ⟨fun hon => ⟨_, rfl, s.stackTrained_ready hk hphase hshut hready hfail hon⟩,
      congrArg Host.Outcome.next (s.stackTrained_fails hk hphase hshut hready hfail)⟩
  case links =>
    intro h hh i may
    refine ⟨⟨_, rfl, s.perstAssert_effect h hh⟩, congrArg Host.Outcome.next (if_pos hh),
      fun hready => congrArg Host.Outcome.next (if_neg (Bool.not_eq_true _ ▸ hready)), fun hready => ?_,
      fun speed width hmay hs1 hs6 hw1 hw16 => ⟨_, rfl, s.hostUp_effect h speed width hh hmay ⟨hs1, hs6⟩ ⟨hw1, hw16⟩⟩,
      fun speed width hmay => congrArg Host.Outcome.next (s.hostUp_of_not_mayLink h speed width hmay)⟩
    obtain ⟨hdown, hlink, hheld, hlog⟩ := s.hostLinkDown_link h hready
    exact ⟨_, rfl, hdown, hlink, hheld, hlog, fun g q hg hgh h8 hq => s.hostLinkDown_faults h g q hready hg hgh h8 hq,
      fun g hgh => s.hostLinkDown_others h g hready hgh, fun g hq => s.hostLinkDown_settled h g hready hq⟩

end Sys2Proof.Machine
end

section
/-! The work tiles of a VEC (R133 to R137): what a data row finds to do, what a kernel leaves of the queues, the registers a
kernel starts with. -/
namespace Sys2Proof.Machine

/-! ### What a data row finds to do -/

/-- A work tile due on a core is the one a data row carries out, where the run is of the row's kind. -/
theorem State.gate_of_onCore {s : State} {g q seq t : Nat} {r : Run} (h : OnCore g q seq s r t) (kind : Run → Bool) :
    s.gate g q seq kind = if kind r then some (r, t) else none := by
  have hworking : s.working g = true := by simp [State.working, h.going, h.powered]
  rw [State.gate, h.run]
  simp only [hworking, Bool.true_and, h.tile, Option.map_some]

/-- A work tile that fails adds no tally. -/
theorem State.failTile_eq_tileFaults (s : State) (g q seq t : Nat) (e : Fail) :
    s.failTile g q seq t e.status e.tile = s.tileFaults g q seq t e := by
  simp only [State.failTile, State.tileFaults, State.markTile, List.append_nil]

/-! ### Accesses and writes leave the queues alone -/

section
variable (s : State)

theorem State.queue_of_sameButMem {t : State} (h : s.sameButMem t) (g q : Nat) : t.queue g q = s.queue g q := by
  obtain ⟨_, _, _, _, _, rfl⟩ := h
  rfl

/-- Steps that each leave the queues alone do so one after another. -/
theorem State.queue_foldl {α : Type} (f : State → α → State) (g q : Nat) (h : ∀ s a, (f s a).queue g q = s.queue g q) (l : List α) :
    (l.foldl f s).queue g q = s.queue g q :=
  List.foldlRecOn l f (motive := fun t => t.queue g q = s.queue g q) rfl fun t ht a _ => (h t a).trans ht

theorem State.queue_demandReads (d g : Nat) (reads : List (Nat × Nat)) (k q : Nat) :
    (s.demandReads d g reads).queue k q = s.queue k q := by
  rw [State.demandReads, State.modDie_queue_read, State.queue_foldl]
  exact fun t r => t.queue_foldl (fun s a => s.readLine g a) k q (fun _ _ => rfl) (linesOf r.1 r.2)

theorem State.queue_forgetXlat (g k q : Nat) : (s.forgetXlat g).queue k q = s.queue k q :=
  s.draw.2.queue_modCtx_of_queues g _ rfl k q

theorem State.queue_keepRange (g : Nat) (r : Nat × Nat) (k q : Nat) : (s.keepRange g r).queue k q = s.queue k q :=
  s.queue_foldl _ k q (fun t _ => t.queue_modCtx_of_queues g _ rfl k q) _

theorem State.queue_accessed (d g : Nat) (reads writes : List (Nat × Nat)) (k q : Nat) :
    (s.accessed d g reads writes).queue k q = s.queue k q := by
  rw [State.accessed, State.queue_foldl _ _ k q fun t r => t.queue_keepRange g r k q, State.queue_forgetXlat, State.queue_demandReads]

/-! ### A kernel leaves the queues alone -/

theorem VRegs.queue_seen (r : VRegs) (g k q : Nat) : (r.seen s g).queue k q = s.queue k q := by
  rw [VRegs.seen, State.modCore_queue_read, State.queue_accessed]

/-- A LOAD changes registers only, or faults. -/
theorem State.vecLoad_after (g : Nat) (w : VWord) (packed : Bool) (r : VRegs) : (s.vecLoad g w packed r).after = s := by
  unfold State.vecLoad
  dsimp only
  split <;> rfl

/-- A STORE writes memory only, also where it faults. -/
theorem State.vecStore_same (g stream : Nat) (w : VWord) (packed : Bool) (r : VRegs) :
    s.sameButMem (s.vecStore g stream w packed r).after := by
  unfold State.vecStore
  dsimp only
  split
  case h_1 => exact s.sameButMem_refl
  case h_2 ws _ =>
    have hwrite := s.writeAll_same g (joinRuns ws)
    split <;> rename_i hnext <;> rwa [hnext] at hwrite

/-- One instruction changes memory only. -/
theorem State.vecStep_same (g stream : Nat) (ks : List VWord) (r : VRegs) : s.sameButMem (s.vecStep g stream ks r).after := by
  unfold State.vecStep
  split
  · exact s.sameButMem_refl
  · split
    case h_3 => rw [State.vecLoad_after]; exact s.sameButMem_refl
    case h_4 => exact s.vecStore_same g stream _ _ r
    all_goals exact s.sameButMem_refl

theorem State.queue_vecTile (g stream : Nat) (ks : List VWord) (n : Nat) (r : VRegs) (k q : Nat) :
    (s.vecTile g stream ks n r).1.queue k q = s.queue k q := by
  induction n generalizing s r with
  | zero => exact r.queue_seen s g k q
  | succ n ih =>
    have hstep := s.queue_of_sameButMem (s.vecStep_same g stream ks r) k q
    rw [State.vecTile]
    split <;> rename_i hnext <;> rw [hnext] at hstep
    · exact (r.queue_seen _ g k q).trans hstep
    · exact (r.queue_seen _ g k q).trans hstep
    · exact (ih _ _).trans hstep

/-- A descriptor is still started after a kernel of its work tile, as it was before. -/
theorem State.run_vecTile (g stream : Nat) (ks : List VWord) (n : Nat) (r : VRegs) (k q seq : Nat) :
    (s.vecTile g stream ks n r).1.run k q seq = s.run k q seq := by
  rw [State.run, State.run, State.queue_vecTile]

end

/-! ### The registers at the start (R134) -/

theorem areg_startRegs_zero (core : Nat) (arg : Bytes) (t : Nat) : (startRegs core arg t).areg 0 = BitVec.ofNat 32 t := rfl

theorem areg_startRegs (core : Nat) (arg : Bytes) (t : Nat) {i : Nat} (h1 : 1 ≤ i) (h32 : i < 32) :
    (startRegs core arg t).areg i = BitVec.ofNat 32 (fld arg (4 * i) 4) := by
  obtain ⟨j, rfl⟩ := Nat.exists_eq_add_of_le' h1
  have hj : j < 31 := by omega
  simp [VRegs.areg, startRegs, nth, List.headD_eq_head?_getD, List.head?_drop, hj]

/-! ### The row -/

section
variable {s : State} {g q seq t : Nat} {r : Run}

/-- The row runs the due work tile of a VEC; of another descriptor it runs nothing. -/
theorem State.vecRow_of_onCore (h : OnCore g q seq s r t) :
    s.vecRow g q seq = if dOpcode r.raw = 0x28 then s.vecDo g q seq r t else s := by
  rw [State.vecRow, State.gate_of_onCore h]
  by_cases hop : dOpcode r.raw = 0x28 <;> simp [isOp, hop]

/-- A kernel that ends marks its work tile. -/
theorem State.vecDo_of_ended {u : State}
    (h : s.vecRun g ((s.tileCore g q seq t).getD 0) r.raw r.block t = (u, none)) : s.vecDo g q seq r t = u.markTile g q seq t [] := by
  rw [State.vecDo, h]

/-- A kernel that fails faults its work tile in the state it leaves. -/
theorem State.vecDo_of_fault {u : State} {e : Fail}
    (h : s.vecRun g ((s.tileCore g q seq t).getD 0) r.raw r.block t = (u, some e)) : s.vecDo g q seq r t = u.tileFaults g q seq t e := by
  rw [State.vecDo, h]
  exact u.failTile_eq_tileFaults g q seq t e

end

/-- Settles O28: the row runs the due work tile, whose kernel leaves the queues alone, so its descriptor is there to be marked. -/
theorem vecRuns : Obligations.VecRuns := by
  intro s g q seq r t h
  have hexec : exec (.vec g q seq) s = .next (if dOpcode r.raw = 0x28 then s.vecDo g q seq r t else s) :=
    congrArg Host.Outcome.next (State.vecRow_of_onCore h)
  refine ⟨fun hop => by rw [hexec, if_neg hop], fun e hop hread => ?unread, fun arg hop hread => ?_⟩
  case unread =>
    rw [hexec, if_pos hop, State.vecDo_of_fault (by rw [State.vecRun, hread])]
  rw [if_pos hop] at hexec
  intro regs
  refine ⟨⟨areg_startRegs_zero _ arg t, fun i h1 h32 => areg_startRegs _ arg t h1 h32⟩, ?_⟩
  intro ran
  have hran : s.vecRun g ((s.tileCore g q seq t).getD 0) r.raw r.block t = ran := by rw [State.vecRun, hread]
  refine ⟨fun u hend => ?ended, fun u e hfault => ?fault⟩
  case fault => rw [hexec, State.vecDo_of_fault (hran.trans hfault)]
  case ended =>
    rw [State.vecDo_of_ended (hran.trans hend)] at hexec
    have hrun : ran.1.run g q seq = some r := (s.run_vecTile g _ _ vecFuel regs g q seq).trans h.run
    rw [hend] at hrun
    exact ⟨_, _, hexec, rfl, rfl, rfl, u.run_modRun_of_some g q seq _ r hrun fun _ => rfl, List.mem_cons_self⟩

end Sys2Proof.Machine
end

section
/-! Step boundaries (R164): a dictionary entry read after its own write, what a boundary leaves of the dictionary and with it of
STEP, the collective part of a boundary (R320), and the two rows. -/
namespace Sys2Proof.Machine

/-! ### A dictionary entry read after its own write -/

theorem storeGet_mapSet_same (m : SMap Bytes) (k : Nat) (v : Bytes) : storeGet (mapSet m k v) k = some v := by
  induction m with
  | nil => exact if_pos rfl
  | cons e m ih =>
    obtain ⟨j, w⟩ := e
    by_cases hlt : k < j
    · simp [mapSet, storeGet, hlt]
    · by_cases heq : k = j
      · simp [mapSet, storeGet, heq]
      · simp [mapSet, storeGet, hlt, heq, ih]

section
variable (s : State)

theorem State.cfg_setCfgNat_same (index sub n v : Nat) : (s.setCfgNat index sub n v).cfg index sub = v % 2 ^ (8 * n) := by
  have hbytes : (s.setCfgNat index sub n v).cfgBytes index sub = leBytes n v := by
    rw [State.cfgBytes, State.setCfgNat, State.setCfg, storeGet_mapSet_same]
  rw [State.cfg, hbytes, leNat_leBytes]

/-! ### What a boundary leaves of the dictionary -/

variable (g : Nat)

/-- STEP is read from the dictionary alone. -/
theorem State.stepNo_of_store {s t : State} (h : t.store = s.store) : t.stepNo g = s.stepNo g := by
  rw [State.stepNo, State.stepNo, State.cfg, State.cfg, State.cfgBytes, State.cfgBytes, h]

theorem State.sameButMem.store_eq {s t : State} (h : s.sameButMem t) : t.store = s.store := by
  obtain ⟨_, _, _, _, _, rfl⟩ := h
  rfl

/-- The slots are rewritten in memory only. -/
theorem State.eachSlot_same (f : Bytes → Bytes) : s.sameButMem (s.eachSlot g f).1 := by
  unfold State.eachSlot
  refine List.foldlRecOn (motive := fun acc : State × Option Fail => s.sameButMem acc.1) _ _ s.sameButMem_refl
    fun acc hacc i _ => ?_
  obtain ⟨t, e⟩ := acc
  cases e with
  | some e => exact hacc
  | none =>
    dsimp only
    split
    · exact hacc
    · exact State.sameButMem_trans hacc (t.writeVa_same g _ _)

theorem State.store_stopTile (c : Nat) (t : TileRun) : (s.stopTile c t).store = s.store := by
  have hfree : (s.freeCore c).store = s.store := by rw [(s.onlyQueues_freeCore t.g c).frame]
  unfold State.stopTile State.leaveTile
  cases t.startAt <;> exact hfree

theorem State.store_cutReplay (p : Nat → Bool) : (s.cutReplay g p).store = s.store := by
  unfold State.cutReplay
  refine List.foldlRecOn (motive := fun t : State => t.store = s.store) _ _ rfl fun t ht c _ => ?_
  cases (t.core c).tile with
  | none => exact ht
  | some x => exact (t.store_stopTile c x).trans ht

theorem State.store_emptyStash : (s.emptyStash g).store = s.store := s.store_cutReplay g _

/-- The stash's part of a boundary writes the table and empties the context's stash. -/
theorem State.store_stashBoundary (commit : Bool) : (s.stashBoundary g commit).1.store = s.store := by
  unfold State.stashBoundary
  split
  · rfl
  · have hwrites (ws : List (Nat × Bytes)) : (s.writeAll g ws).1.store = s.store := (State.writeAll_same g ws s).store_eq
    dsimp only
    split
    next hw => exact (congrArg (·.1.store) hw).symm.trans (hwrites _)
    next hw =>
      refine (State.store_emptyStash _ g).trans (Eq.trans ?_ ((congrArg (·.1.store) hw).symm.trans (hwrites _)))
      cases commit <;> rfl

/-! ### The collective part of a boundary (R320) -/

/-- What ends a boundary that met no failure: ATTEMPT anew, no MISSING of the attempt left, and the descriptor done. -/
def State.boundaryDone (q seq : Nat) (commit : Bool) : State := (s.collBoundary g commit).ranWith g q seq stDone

theorem State.ctx_boundaryDone (q seq : Nat) (commit : Bool) :
    ((s.boundaryDone g q seq commit).ctx g).attempt = (if commit then 0 else (s.ctx g).attempt + 1) ∧
      ((s.boundaryDone g q seq commit).ctx g).collMissing = false := by
  rw [State.boundaryDone, State.ranWith, State.modRun, State.ctx_modQueue_same, State.collBoundary]
  simp

theorem State.boundaryDone_effect (q seq : Nat) (commit : Bool) :
    let v := s.boundaryDone g q seq commit
    v.stepNo g = s.stepNo g ∧ (v.ctx g).attempt = (if commit then 0 else (s.ctx g).attempt + 1) ∧
      (v.ctx g).collMissing = false ∧ v.hbm = s.hbm ∧ v.host0 = s.host0 ∧ v.host1 = s.host1 := by
  obtain ⟨hattempt, hmissing⟩ := s.ctx_boundaryDone g q seq commit
  exact ⟨State.stepNo_of_store g rfl, hattempt, hmissing, rfl, rfl, rfl⟩

end

/-! ### The rows -/

theorem State.boundaryRow_of_not_alone {s : State} {g q seq : Nat} (h : s.aloneIn g q seq = false) (action : Nat)
    (f : State → State) : s.boundaryRow g q seq action f = s := by
  unfold State.boundaryRow
  split <;> simp [h]

section
variable {g q seq : Nat} {s t u : State} {r : Run}

theorem Ready.frontGate_eq (h : Ready g q seq s r) {kind : Run → Bool} (hkind : kind r = true) :
    s.frontGate g q seq kind = some r := by
  simp [State.frontGate, h.run, h.active, h.powered, h.waited, h.fresh, h.going, hkind]

/-- A ready boundary that is alone in its context runs. -/
theorem Ready.boundaryRow_eq (h : Ready g q seq s r) {action : Nat} (haction : isDice action r = true)
    (halone : s.aloneIn g q seq = true) (f : State → State) : s.boundaryRow g q seq action f = f s := by
  rw [State.boundaryRow, h.frontGate_eq haction]
  exact if_pos halone

/-- STEP_COMMIT whose governor and stash met no failure: STEP has its new value before the collective part. -/
theorem State.stepCommit_eq (hlt : s.stepNo g < 2 ^ 32 - 1) (hgov : s.govCommit g = (t, none))
    (hstash : t.stashBoundary g true = (u, none)) :
    s.stepCommit g q seq = (u.setCfgNat (0x3600 + g) 0x16 4 (s.stepNo g + 1)).boundaryDone g q seq true := by
  rw [State.stepCommit, if_neg hlt.ne, State.commitActions, hgov, andThen, hstash]
  rfl

/-- STEP_REPEAT whose governor and stash met no failure. -/
theorem State.stepRepeat_eq (hgov : s.govClear g = (t, none)) (hstash : t.stashBoundary g false = (u, none)) :
    s.stepRepeat g q seq = u.boundaryDone g q seq false := by
  rw [State.stepRepeat, State.repeatActions, hgov, andThen, hstash]
  rfl

/-- Neither the clearing of the PEND fields nor the stash's part changes STEP. -/
theorem State.stepNo_repeat (hgov : s.govClear g = (t, none)) (hstash : t.stashBoundary g false = (u, none)) :
    u.stepNo g = s.stepNo g := by
  have ht : t.store = s.store := by
    have hslots := (s.eachSlot_same g fun slot => putBytes slot 264 (zeros 17)).store_eq
    rwa [← State.govClear, hgov] at hslots
  have hu : u.store = t.store := by
    have hboundary := t.store_stashBoundary g false
    rwa [hstash] at hboundary
  exact State.stepNo_of_store g (hu.trans ht)

end

/-- Settles O33: a boundary that is not alone leaves the state; one that is runs its actions, which touch STEP only where
STEP_COMMIT writes it. -/
theorem stepBoundaries : Obligations.StepBoundaries := by
  intro s g q seq r h
  refine ⟨fun hnot => ?shared, fun haction halone hlast => ?last, fun t u haction halone hlt hgov hstash => ?commit,
    fun t u haction halone hgov hstash => ?again⟩
  case shared =>
    exact ⟨congrArg Host.Outcome.next (State.boundaryRow_of_not_alone hnot 5 _),
      congrArg Host.Outcome.next (State.boundaryRow_of_not_alone hnot 6 _)⟩
  case last =>
    have hfault : s.stepCommit g q seq = s.jobFault g q seq stStepLimit 0 := if_pos hlast
    exact congrArg Host.Outcome.next ((h.boundaryRow_eq haction halone _).trans hfault)
  case commit =>
    have hstep : (u.setCfgNat (0x3600 + g) 0x16 4 (s.stepNo g + 1)).stepNo g = s.stepNo g + 1 :=
      (u.cfg_setCfgNat_same (0x3600 + g) 0x16 4 (s.stepNo g + 1)).trans (Nat.mod_eq_of_lt (by omega))
    obtain ⟨hkept, hrest⟩ := (u.setCfgNat (0x3600 + g) 0x16 4 (s.stepNo g + 1)).boundaryDone_effect g q seq true
    exact ⟨_, congrArg Host.Outcome.next ((h.boundaryRow_eq haction halone _).trans (State.stepCommit_eq hlt hgov hstash)),
      hkept.trans hstep, hrest⟩
  case again =>
    obtain ⟨hkept, hrest⟩ := u.boundaryDone_effect g q seq false
    exact ⟨_, congrArg Host.Outcome.next ((h.boundaryRow_eq haction halone _).trans (State.stepRepeat_eq hgov hstash)),
      hkept.trans (State.stepNo_repeat hgov hstash), hrest⟩

end Sys2Proof.Machine
end

section
/-! The codec's turn at a started descriptor (R336), the store of the dictionary under what a put does, and the puts (R181 to
R186). -/
namespace Sys2Proof.Machine

/-! ### An engine's turn at a ready descriptor -/

section
variable {s : State} {g q seq : Nat} {r : Run}

theorem Ready.engineGate_eq (h : Ready g q seq s r) {u e : Nat} {kind : Run → Bool} {ready : Nat → Nat → Run → Bool}
    (hturn : s.turnOf u e g ready) (hkind : kind r = true) (hready : ready g q r = true) :
    s.engineGate u e g q seq kind ready = some r := by
  rw [State.engineGate, if_pos (beq_iff_eq.2 (show s.engineChoice u e (partOfCtx g) ready = some g from hturn))]
  exact h.frontGate_eq (by rw [hkind, hready]; rfl)

/-- The codec of a slice serves a ready put or get of an entry of that slice. -/
theorem Ready.codecRow_eq (h : Ready g q seq s r) {op i : Nat} (hop : dOpcode r.raw = op) (hslice : s.codecSlice g r = i)
    (hturn : s.turnOf (codecUnit i) 1 g (s.codecReadyAt i)) (hcan : s.codecReady g q r = true) (f : Run → State) :
    s.codecRow g q seq op f = (f r).engineServed (codecUnit i) g := by
  have hready : s.codecReadyAt i g q r = true := by simp [State.codecReadyAt, hslice, hcan]
  have hgate := h.engineGate_eq (kind := isOp op) hturn (by simp [isOp, hop]) hready
  simp only [State.codecRow, h.run, hslice, hgate]

theorem State.codecSlice_of_entryOk {e : StashEntry} (he : s.entryOk g (putHandle r.raw) = .ok e) : s.codecSlice g r = e.sliceNo := by
  rw [State.codecSlice, he]

/-- A put never waits in its codec. -/
theorem State.codecReady_put (hop : dOpcode r.raw = 0x30) : s.codecReady g q r = true := by
  simp [State.codecReady, hop]

end

/-! ### The dictionary under a put -/

section
variable (s : State) (g : Nat)

/-- The die of an entry's slice is told by the dictionary alone. -/
theorem State.sliceDie_of_store {t : State} (h : t.store = s.store) (e : StashEntry) : t.sliceDie g e = s.sliceDie g e := by
  simp only [State.sliceDie, State.dieCount, State.shape, State.cfg, State.cfgBytes, h]

theorem State.store_of_writeAll {ws : List (Nat × Bytes)} {t : State} {x : Option Fail} (h : s.writeAll g ws = (t, x)) :
    t.store = s.store :=
  (congrArg (·.1.store) h).symm.trans (State.writeAll_same g ws s).store_eq

theorem State.store_of_writeVa {va : Nat} {bs : Bytes} {t : State} {x : Option Fail} (h : s.writeVa g va bs = (t, x)) :
    t.store = s.store :=
  (congrArg (·.1.store) h).symm.trans (s.writeVa_same g va bs).store_eq

theorem State.store_jobFault (q seq status tile : Nat) : (s.jobFault g q seq status tile).store = s.store := by
  by_cases hactive : (s.ctx g).st = .active
  · rw [(s.jobFault_faults g q seq status tile hactive).frame]
  · rw [State.jobFault, if_pos (by simpa using hactive)]

theorem State.store_dropSpec (h : Nat) : (s.dropSpec g h).store = s.store := by
  unfold State.dropSpec
  split
  · rfl
  · next x _ =>
    have hforgot : ((s.cutReplay g (· == x.no)).forgetSpec g h).store = s.store := s.store_cutReplay g _
    dsimp only
    split
    · split
      · exact ((State.writeVa_same _ g _ _).store_eq.trans (State.writeVa_same _ g _ _).store_eq).trans hforgot
      · exact hforgot
    · exact hforgot

theorem State.store_makeRoom (i charge : Nat) : (s.makeRoom g i charge).store = s.store := by
  unfold State.makeRoom
  refine List.foldlRecOn (motive := fun t : State => t.store = s.store) _ _ rfl fun t ht x _ => ?_
  split
  · exact ht
  · exact (t.store_dropSpec g x.handle).trans ht

variable (q seq h : Nat)

theorem State.store_hold (used loc stored pend status : Nat) : (s.hold g q seq h used loc stored pend status).store = s.store := by
  unfold State.hold
  split <;> rename_i hwrite <;> have hkept := State.store_of_writeAll _ g hwrite
  · exact (State.store_jobFault ..).trans hkept
  · exact hkept

variable (e : StashEntry)

theorem State.store_putReplay (status : Nat) : (s.putReplay g q seq h e status).store = s.store := by
  unfold State.putReplay
  split
  · exact s.store_hold ..
  · exact s.store_jobFault ..

theorem State.store_putSend (form : Bytes) (pend status : Nat) : (s.putSend g q seq h e form pend status).store = s.store := by
  unfold State.putSend
  dsimp only
  split <;> rename_i hwrite <;> have hkept := State.store_of_writeAll _ g hwrite
  · exact (State.store_hold ..).trans hkept
  · split
    · exact (State.store_putReplay ..).trans hkept
    · exact (State.store_jobFault ..).trans hkept

theorem State.store_putPool (form : Bytes) (charge pend : Nat) : (s.putPool g q seq h e form charge pend).store = s.store := by
  unfold State.putPool
  dsimp only
  split <;> rename_i hwrite <;> have hkept := State.store_of_writeVa _ g hwrite
  · exact (State.store_jobFault ..).trans hkept
  · exact (State.store_hold ..).trans hkept

theorem State.store_putPlanned (form : Bytes) (pend : Nat) : (s.putPlanned g q seq h e form pend).store = s.store := by
  unfold State.putPlanned
  dsimp only
  refine Eq.trans ?_ (s.store_makeRoom g e.sliceNo (roundUp form.length 65536))
  split
  · exact State.store_putPool ..
  · split
    · exact State.store_hold ..
    · split
      · exact State.store_putSend ..
      · exact State.store_putReplay ..

theorem State.store_putRows (rows : Bytes) : (s.putRows g q seq h e rows).store = s.store := by
  unfold State.putRows
  dsimp only
  split
  · split
    · exact s.store_putSend ..
    · exact s.store_putReplay ..
  · exact s.store_putPlanned ..

end

/-! ### The work tiles of a put -/

section
variable {s : State} {g : Nat} {r : Run} {e : StashEntry} (q seq : Nat) (he : s.entryOk g (putHandle r.raw) = .ok e)
include he

theorem State.put_of_unready (hbad : e.st ≠ 0 ∨ e.allows polReplay = true ∧ e.recipeValid = false) :
    s.put g q seq r = s.jobFault g q seq stStashState 0 := by
  simp only [State.put, he]
  exact if_pos (by simpa using hbad)

variable (hst : e.st = 0) (hrecipe : ¬ (e.allows polReplay = true ∧ e.recipeValid = false))
include hst hrecipe

/-- A put that may start stores nothing where it is planned REPLAY, and else goes on to read its source. -/
theorem State.put_of_ready :
    s.put g q seq r =
      if e.plan = polReplay then s.hold g q seq (putHandle r.raw) polReplay 0 0 0 stDone
      else
        match s.readVa g (dAddr r.raw 16 + r.cursor) (min stashTile (e.keepBytes - r.cursor)) with
        | .error x => s.jobFault g q seq x.status x.tile
        | .ok bs =>
          let t :=
            if e.keepBytes ≤ r.cursor + stashTile then s.putRows g q seq (putHandle r.raw) e (r.buf ++ bs)
            else s.modRun g q seq fun r => { r with cursor := r.cursor + stashTile, buf := r.buf ++ bs }
          t.accessed (t.sliceDie g e) g [(dAddr r.raw 16 + r.cursor, min stashTile (e.keepBytes - r.cursor))] [] := by
  simp only [State.put, he]
  exact if_neg (by simpa [hst] using hrecipe)

theorem State.put_of_unread (hplan : e.plan ≠ polReplay) {x : Fail}
    (hread : s.readVa g (dAddr r.raw 16 + r.cursor) (min stashTile (e.keepBytes - r.cursor)) = .error x) :
    s.put g q seq r = s.jobFault g q seq x.status x.tile := by
  rw [State.put_of_ready q seq he hst hrecipe, if_neg hplan, hread]

variable {part : Bytes} (hplan : e.plan ≠ polReplay)
  (hread : s.readVa g (dAddr r.raw 16 + r.cursor) (min stashTile (e.keepBytes - r.cursor)) = .ok part)
include hplan hread

/-- A part of the source that is not the last is kept. -/
theorem State.put_of_part (hmore : r.cursor + stashTile < e.keepBytes) :
    s.put g q seq r =
      (s.modRun g q seq fun r => { r with cursor := r.cursor + stashTile, buf := r.buf ++ part }).accessed (s.sliceDie g e) g
        [(dAddr r.raw 16 + r.cursor, min stashTile (e.keepBytes - r.cursor))] [] := by
  rw [State.put_of_ready q seq he hst hrecipe, if_neg hplan, hread]
  simp only [if_neg (Nat.not_le.2 hmore)]
  rw [State.sliceDie_of_store s g (State.modRun_store ..)]

/-- With the last part the whole source is stored. -/
theorem State.put_of_last (hlast : e.keepBytes ≤ r.cursor + stashTile) :
    s.put g q seq r =
      (s.putRows g q seq (putHandle r.raw) e (r.buf ++ part)).accessed (s.sliceDie g e) g
        [(dAddr r.raw 16 + r.cursor, min stashTile (e.keepBytes - r.cursor))] [] := by
  rw [State.put_of_ready q seq he hst hrecipe, if_neg hplan, hread]
  simp only [if_pos hlast]
  rw [State.sliceDie_of_store s g (State.store_putRows ..)]

end

/-- A put of a source that has been read, by its PLAN and by what its slice and the send region have room for (R182). -/
theorem State.putRows_eq (s : State) (g q seq h : Nat) (e : StashEntry) (rows : Bytes) :
    let form := e.form e.plan rows
    let sent := e.form e.sendForm rows
    let charge := roundUp form.length 65536
    let t := s.makeRoom g e.sliceNo charge
    s.putRows g q seq h e rows =
      if e.plan = polSend then
        if s.sendRoom g sent.length then s.putSend g q seq h e sent (e.pend rows) stDone
        else s.putReplay g q seq h e stStashOverrun
      else if charge ≤ t.sliceFree g e.sliceNo then t.putPool g q seq h e form charge (e.pend rows)
      else if e.allows polReplay ∧ e.recipeValid ∧ e.preferReplay then t.hold g q seq h polReplay 0 0 0 stEscalated
      else if e.allows polSend ∧ t.sendRoom g form.length then t.putSend g q seq h e form (e.pend rows) stEscalated
      else t.putReplay g q seq h e stStashOverrun := by
  simp only [State.putRows, State.putPlanned, Bool.and_eq_true, and_assoc]

/-- Settles O30: the codec's turn carries out the put's next work tile, which reads nothing where the entry's state or its plan
says so, and stores the whole source with the last part. -/
theorem stashPuts : Obligations.StashPuts := by
  intro s g q seq r e hready hop he hturn h lacks out va n
  have hexec {t : State} (hput : s.put g q seq r = t) : out t := by
    have hrow := hready.codecRow_eq hop (State.codecSlice_of_entryOk he) hturn (State.codecReady_put hop) (s.put g q seq)
    exact congrArg Host.Outcome.next (hput ▸ hrow)
  refine ⟨fun hbad => ?unready, fun hst hrecipe hplan => ?replay, fun x hst hrecipe hplan hread => ?unread,
    fun part hst hrecipe hplan hread => ?_⟩
  case unready => exact hexec (State.put_of_unready q seq he hbad)
  case replay => exact hexec ((State.put_of_ready q seq he hst hrecipe).trans (if_pos hplan))
  case unread => exact hexec (State.put_of_unread q seq he hst hrecipe hplan hread)
  refine ⟨fun hmore => ?part, fun hlast => ?last⟩
  case part => exact hexec (State.put_of_part q seq he hst hrecipe hplan hread hmore)
  case last =>
    refine hexec ((State.put_of_last q seq he hst hrecipe hplan hread hlast).trans ?_)
    rw [State.putRows_eq]
    rfl

end Sys2Proof.Machine
end

section
/-! Speculative replays (R188 to R190): how one starts and when its entry is STAGED. -/
namespace Sys2Proof.Machine

/-! ### A table entry is read from memory, through the context's translation -/

section
variable {s t : State} {g : Nat}

theorem State.readSeg_of_frame (h : t = { s with ctxs := t.ctxs, cores := t.cores, dies := t.dies, log := t.log })
    (htlb : (t.ctx g).tlb = (s.ctx g).tlb) : t.readSeg g = s.readSeg g := by
  funext va n verify
  rw [State.readSeg, State.readSeg, State.xlate_of_frame h htlb]
  rw [h]
  rfl

theorem State.readSegs_of_frame (h : t = { s with ctxs := t.ctxs, cores := t.cores, dies := t.dies, log := t.log })
    (htlb : (t.ctx g).tlb = (s.ctx g).tlb) (verify : Bool) (segs : List (Nat × Nat)) :
    t.readSegs g verify segs = s.readSegs g verify segs := by
  induction segs with
  | nil => rfl
  | cons x rest ih => rw [State.readSegs, State.readSegs, State.readSeg_of_frame h htlb, ih]

end

theorem State.entry_modSpec (s : State) (g no : Nat) (f : Spec → Spec) (h : Nat) : (s.modSpec g no f).entry g h = s.entry g h := by
  have htlb : ((s.modSpec g no f).ctx g).tlb = (s.ctx g).tlb := by rw [State.modSpec, State.modStash, State.ctx_modCtx_same]
  rw [State.entry, State.readVa, State.readSegs_of_frame (s := s) rfl htlb]
  rfl

/-! ### The start of a speculative replay (R189) -/

/-- In a context that works, a replay of the slice that waited for a GROUP goes on before another begins. -/
theorem State.specStart_eq (s : State) (g i : Nat) :
    s.specStart g i =
      if (s.ctx g).st ≠ .active ∨ s.pwr.shutdown then s
      else if (s.specWaiting g i).isSome then ((s.specWaiting g i).map (s.replayGo g)).getD s
      else s.specNext g i := by
  unfold State.specStart
  by_cases hstop : (s.ctx g).st ≠ .active ∨ s.pwr.shutdown
  · rw [if_pos hstop, if_neg (by simpa [imp_iff_not_or] using hstop)]
  · rw [if_neg hstop, if_pos (by simpa using hstop)]
    cases s.specWaiting g i <;> rfl

/-- The highest candidate of a slice begins where the slice has room and its GROUP is free. -/
theorem State.specNext_eq (s : State) (g i : Nat) :
    s.specNext g i =
      if (s.ctx g).stash.getsBegun ∧ i < s.dieCount ∧ s.specCount g < s.stashCfg g 0x27 then
        match s.candidate g i with
        | some (k, e) =>
          let stage := s.sliceBase g i + s.sliceSize g - s.stagedIn g i - e.stageBytes
          if e.stageBytes ≤ s.sliceFree g i ∧ s.groupBusy g e.group = false then
            match s.replaySteps true g k e stage 3 with
            | .error _ => s
            | .ok steps => s.replayStart g { no := 0, handle := k, slice := some i, group := e.group, stage := stage, steps := steps }
          else s
        | none => s
      else s := by
  simp only [State.specNext, Bool.and_eq_true, decide_eq_true_eq, and_assoc]
  refine if_congr Iff.rfl ?_ rfl
  cases s.candidate g i with
  | none => rfl
  | some x =>
    obtain ⟨k, e⟩ := x
    by_cases hroom : e.stageBytes ≤ s.sliceFree g i
    · cases hbusy : s.groupBusy g e.group <;> simp only [hroom, hbusy, State.specRun] <;> rfl
    · simp only [hroom, false_and, if_false]

/-! ### The end of a speculative replay (R190) -/

section
variable (s : State) (g h : Nat)

theorem State.specDone_of_not_finished (hx : ∀ x, s.specOf g h = some x → x.steps ≠ [] ∨ x.staged = true ∨ x.owner ≠ none) :
    s.specDone g h = s := by
  unfold State.specDone
  split
  · rfl
  · next x hof =>
    refine if_pos ?_
    rcases hx x hof with hsteps | hstaged | howner
    · simp [Spec.running, hsteps]
    · simp [hstaged]
    · simp [Option.isSome_iff_ne_none, howner]

theorem State.specDone_of_finished {x : Spec} {e : StashEntry} (hof : s.specOf g h = some x) (hsteps : x.steps = [])
    (hstaged : x.staged = false) (howner : x.owner = none) (he : s.entry g h = .ok e) :
    let t := s.modSpec g x.no fun y => { y with staged := true }
    s.specDone g h =
      match t.writeAll g [(s.entryAddr g h + 15, leBytes 1 (e.flags ||| 2)), (s.entryAddr g h + 48, leBytes 8 x.stage)] with
      | (u, none) => u
      | (u, some _) => u.dropSpec g h := by
  simp only [State.specDone, hof, Spec.running, hsteps, hstaged, howner, State.entry_modSpec, he] <;> rfl

end

/-- Settles O32: the start by what R189 asks for, in the order of the model's tests; the end by whether the replay has finished. -/
theorem speculativeReplays : Obligations.SpeculativeReplays := by
  intro s g i h
  refine ⟨congrArg Host.Outcome.next ?start, fun hx => congrArg Host.Outcome.next (s.specDone_of_not_finished g h hx),
    fun x e hof hsteps hstaged howner he =>
      congrArg Host.Outcome.next (s.specDone_of_finished g h hof hsteps hstaged howner he)⟩
  rw [State.specStart_eq, State.specNext_eq]
  rfl

end Sys2Proof.Machine
end

section
/-! Gets from the stored form, from a replay and from a speculative result (R187 to R194), and recipes (R184, R185). -/
namespace Sys2Proof.Machine

section
variable {s : State} {g : Nat} (q seq : Nat) {r : Run} {e : StashEntry}

/-! ### A work tile of a get -/

section
variable {els : List Bytes} {t : State} (src : List (Nat × Nat)) (fin : State → State)

/-- Elements delivered: the last work tile ends the get, any other moves it on. -/
theorem State.getTile_of_delivered (hput : s.deliver g e (dAddr r.raw 16) r.cursor stashTile els = (t, none)) :
    let u := t.accessed (s.sliceDie g e) g src []
    s.getTile g q seq r e src els fin =
      if e.keepBytes ≤ r.cursor + stashTile then fin u else u.modRun g q seq fun r => { r with cursor := r.cursor + stashTile } := by
  rw [State.getTile, hput, ← State.sliceDie_of_store s g (s.store_of_writeAll g hput)]

theorem State.getTile_of_lost {x : Fail} (hput : s.deliver g e (dAddr r.raw 16) r.cursor stashTile els = (t, some x)) :
    s.getTile g q seq r e src els fin = t.jobFault g q seq x.status x.tile := by
  rw [State.getTile, hput]

end

/-! ### Which way a get goes -/

section
variable (he : s.entryOk g (putHandle r.raw) = .ok e)
include he

theorem State.get_of_not_held (hst : e.st ≠ 1) : s.get g q seq r = s.jobFault g q seq stStashState 0 := by
  simp only [State.get, he, if_pos hst]

variable (hst : e.st = 1)
include hst

theorem State.get_of_no_replay (hof : s.specOf g (putHandle r.raw) = none) :
    s.get g q seq r = s.getStored g q seq (putHandle r.raw) r e := by
  simp only [State.get, he, hst, ne_eq, not_true, if_false, hof]

variable {x : Spec} (hof : s.specOf g (putHandle r.raw) = some x)
include hof

/-- A replay that is no other get's: carried on where it waited for a GROUP, joined while it runs, else delivered. -/
theorem State.get_of_replay (howner : x.owner = none ∨ x.owner = some (q, seq)) :
    s.get g q seq r =
      if x.owner.isSome ∧ s.mayNest g x then s.replayGo g x
      else if x.running then s.getBeside g q seq (putHandle r.raw) r e x
      else s.getFinished g q seq (putHandle r.raw) r e x := by
  have hours : ¬ (x.owner.isSome = true ∧ x.owner ≠ some (q, seq)) := by
    rcases howner with howner | howner <;> simp [howner]
  simp only [State.get, he, hst, ne_eq, not_true, if_false, hof, if_neg hours]

theorem State.get_of_finished (howner : x.owner = none ∨ x.owner = some (q, seq)) (hsteps : x.steps = []) :
    s.get g q seq r = s.getFinished g q seq (putHandle r.raw) r e x := by
  have hnest : s.mayNest g x = false := by simp [State.mayNest, Spec.atPlace, hsteps]
  rw [State.get_of_replay q seq he hst hof howner]
  simp [hnest, Spec.running, hsteps]

theorem State.get_of_speculative (howner : x.owner = none) (hsteps : x.steps ≠ []) :
    s.get g q seq r = s.getBeside g q seq (putHandle r.raw) r e x := by
  rw [State.get_of_replay q seq he hst hof (.inl howner)]
  simp [howner, Spec.running, hsteps]

theorem State.get_of_waited (howner : x.owner = some (q, seq)) (hnest : s.mayNest g x = true) :
    s.get g q seq r = s.replayGo g x := by
  rw [State.get_of_replay q seq he hst hof (.inr howner)]
  exact if_pos (by simp [howner, hnest])

end

/-! ### Each way carried out -/

section
variable (h : Nat)

section
variable (hused : e.used ≠ polReplay)
include hused

theorem State.getStored_of_fetched {els : List Bytes} (hfetch : s.fetch g h e = .ok els) :
    s.getStored g q seq h r e = s.getTile g q seq r e (e.readFor r) els fun s => s.getDone g q seq h false := by
  simp only [State.getStored, if_neg hused, hfetch]

theorem State.getStored_of_unfetched {x : Fail} (hfetch : s.fetch g h e = .error x) (hlost : recoverable x = false) :
    s.getStored g q seq h r e = s.jobFault g q seq x.status x.tile := by
  simp only [State.getStored, if_neg hused, hfetch, hlost, Bool.not_false, if_true]

end

/-- A get of an entry planned or escalated to REPLAY begins a replay of its own, straight into its destination. -/
theorem State.getStored_of_replay (hused : e.used = polReplay) (hfree : s.groupBusy g e.group = false) {steps : List RStep}
    (hsteps : s.replaySteps false g h e (dAddr r.raw 16) innerDepth = .ok steps) :
    s.getStored g q seq h r e =
      s.replayStart g { no := 0, handle := h, slice := none, group := e.group, stage := dAddr r.raw 16, owner := some (q, seq),
                        steps := steps } := by
  simp only [State.getStored, if_pos hused, State.getReplay, hfree, hsteps]
  rfl

theorem State.getFinished_of_staged {x : Spec} (hslice : x.slice ≠ none) {rows : Bytes}
    (hread : s.readVa g x.stage e.keepBytes = .ok rows) :
    s.getFinished g q seq h r e x =
      s.getTile g q seq r e [(x.stage + r.cursor, min stashTile (e.keepBytes - r.cursor))] (e.elements rows) fun s =>
        (s.dropSpec g h).getDone g q seq h x.recovered := by
  rw [State.getFinished, if_neg (by simpa using hslice), hread]

/-- A running speculative replay of an entry used as REPLAY is made the get's own, and nothing is fetched. -/
theorem State.getBeside_of_replay {x : Spec} (howner : x.owner = none) (hused : e.used = polReplay) :
    s.getBeside g q seq h r e x =
      (s.modSpec g x.no fun y =>
        { y with owner := some (q, seq), fetching := false, steps := y.steps.map (RStep.flagged false) }).adoptTiles g x.no q seq := by
  simp only [State.getBeside, State.claimSpec, howner, hused]
  rfl

end

end

/-! ### Recipes -/

theorem State.record_eq {s : State} {g q seq : Nat} {r : Run} {e : StashEntry} (he : s.entry g (fld r.raw 48 2) = .ok e) :
    s.record g q seq r =
      if e.st ≠ 0 then s.jobFault g q seq stStashState 0
      else
        match s.writeAll g [(s.entryAddr g (fld r.raw 48 2) + 64, recipeBytes r.raw r.block (s.stepNo g)),
            (s.entryAddr g (fld r.raw 48 2) + 15, leBytes 1 (e.flags ||| 1))] with
        | (t, some x) => t.jobFault g q seq x.status x.tile
        | (t, none) =>
          (t.modStash g fun u => { u with scratch := mapSet u.scratch (fld r.raw 48 2) (s.scratchOf g r.raw r.block) }).ranWith g q
            seq stDone := by
  simp only [State.record, he] <;> rfl

theorem Ready.recipeRow_eq {s : State} {g q seq : Nat} {r : Run} (h : Ready g q seq s r) (hop : dOpcode r.raw = 0x32) :
    s.recipeRow g q seq = s.record g q seq r := by
  rw [State.recipeRow, h.frontGate_eq (kind := isOp 0x32) (by simp [isOp, hop])]

/-- Settles O31: the codec's turn carries the get on the way that its entry and a replay of it give; a RECIPE writes into an
empty entry. -/
theorem stashGetsAndRecipes : Obligations.StashGetsAndRecipes := by
  intro s g q seq r hready h dst mine out may
  refine ⟨fun e hmay he => ?get, fun e hop he => ?recipe⟩
  case recipe =>
    exact congrArg Host.Outcome.next ((hready.recipeRow_eq hop).trans (State.record_eq he))
  obtain ⟨hop, hturn, hcan⟩ := hmay
  have hexec {t : State} (hget : s.get g q seq r = t) : out t :=
    congrArg Host.Outcome.next (hget ▸ hready.codecRow_eq hop rfl hturn hcan (s.get g q seq))
  intro whole advanced
  refine ⟨fun hst => hexec (State.get_of_not_held q seq he hst), ?fetched, ?lost, ?unfetched, ?replay, ?staged, ?speculative, ?waited⟩
  case fetched =>
    intro els t hst hof hused hfetch hput u
    exact hexec ((State.get_of_no_replay q seq he hst hof).trans
      ((State.getStored_of_fetched q seq h hused hfetch).trans (State.getTile_of_delivered q seq _ _ hput)))
  case lost =>
    intro els t x hst hof hused hfetch hput
    exact hexec ((State.get_of_no_replay q seq he hst hof).trans
      ((State.getStored_of_fetched q seq h hused hfetch).trans (State.getTile_of_lost q seq _ _ hput)))
  case unfetched =>
    intro x hst hof hused hfetch hlost
    exact hexec ((State.get_of_no_replay q seq he hst hof).trans (State.getStored_of_unfetched q seq h hused hfetch hlost))
  case replay =>
    intro steps hst hof hused hfree hsteps
    exact hexec ((State.get_of_no_replay q seq he hst hof).trans (State.getStored_of_replay q seq h hused hfree hsteps))
  case staged =>
    intro x rows t hst hof howner hsteps hslice hread hput u
    exact hexec ((State.get_of_finished q seq he hst hof howner hsteps).trans
      ((State.getFinished_of_staged q seq h hslice hread).trans (State.getTile_of_delivered q seq _ _ hput)))
  case speculative =>
    intro x hst hof howner hsteps hused
    exact hexec ((State.get_of_speculative q seq he hst hof howner hsteps).trans (State.getBeside_of_replay q seq h howner hused))
  case waited =>
    intro x hst hof howner hnest
    exact hexec (State.get_of_waited q seq he hst hof howner hnest)

end Sys2Proof.Machine
end

section
/-! PACK streams (R171, R172), read back from the inside out: fields and groups, a record header, a bitmap, a chunk's record, the
records of a segment. -/
namespace Sys2Proof.Machine

/-! ### Fields of bytes that follow one another -/

theorem slice_append_of_le (as bs : Bytes) {off : Nat} (n : Nat) (h : as.length ≤ off) :
    slice (as ++ bs) off n = slice bs (off - as.length) n := by
  rw [slice, slice, List.drop_append, List.drop_eq_nil_of_le h, List.nil_append]

theorem slice_append_self (as bs : Bytes) {n : Nat} (h : as.length = n) : slice (as ++ bs) 0 n = as := by
  rw [slice, List.drop_zero, List.take_left' h]

theorem fld_append_of_le (as bs : Bytes) {off : Nat} (n : Nat) (h : as.length ≤ off) :
    fld (as ++ bs) off n = fld bs (off - as.length) n := by
  rw [fld, fld, slice_append_of_le as bs n h]

theorem fld_leBytes_append (n v : Nat) (bs : Bytes) (h : v < 2 ^ (8 * n)) : fld (leBytes n v ++ bs) 0 n = v := by
  rw [fld, slice_append_self _ _ (leBytes_length n v), leNat_leBytes, Nat.mod_eq_of_lt h]

@[simp] theorem zeros_length (n : Nat) : (zeros n).length = n := List.length_replicate

theorem eq_zeros_of_allZero {e : Bytes} (h : allZero e = true) : e = zeros e.length :=
  List.eq_replicate_iff.2 ⟨rfl, fun x hx => by simpa using List.all_eq_true.1 h x hx⟩

/-! ### Rounding up and groups -/

theorem le_roundUp (a : Nat) {n : Nat} (h : 0 < n) : a ≤ roundUp a n := by
  have hdiv := Nat.div_add_mod (a + n - 1) n
  have hmod := Nat.mod_lt (a + n - 1) h
  rw [roundUp, ceilDiv, Nat.mul_comm]
  omega

theorem padTo_length (n : Nat) (bs : Bytes) (h : 0 < n) : (padTo n bs).length = roundUp bs.length n := by
  have hle := le_roundUp bs.length h
  rw [padTo, List.length_append, zeros_length]
  omega

theorem ceilDiv_of_pos {a n : Nat} (ha : 0 < a) (hn : 0 < n) : ceilDiv a n = ceilDiv (a - n) n + 1 := by
  rw [ceilDiv, ceilDiv, Nat.div_eq_sub_div hn (by omega)]
  by_cases hle : n ≤ a
  · rw [show a + n - 1 - n = a - n + n - 1 by omega]
  · rw [Nat.div_eq_of_lt (by omega), Nat.div_eq_of_lt (by omega)]

theorem ceilDiv_zero {n : Nat} (hn : 0 < n) : ceilDiv 0 n = 0 := Nat.div_eq_of_lt (by omega)

section
variable {α : Type} {n : Nat} (hn : 0 < n)
include hn

theorem groupsOf_nil : groupsOf n ([] : List α) = [] := by simp [groupsOf, ceilDiv_zero hn]

theorem groupsOf_of_ne_nil {l : List α} (h : l ≠ []) : groupsOf n l = l.take n :: groupsOf n (l.drop n) := by
  rw [groupsOf, groupsOf, ceilDiv_of_pos (List.length_pos_iff.2 h) hn, List.range_succ_eq_map, List.length_drop]
  simp [Nat.mul_succ, Nat.add_comm n]

theorem groupsOf_flatten (l : List α) : (groupsOf n l).flatten = l := by
  by_cases h : l = []
  · simp [h, groupsOf_nil hn]
  · have hshort : (l.drop n).length < l.length := by
      have hpos := List.length_pos_iff.2 h
      rw [List.length_drop]
      omega
    rw [groupsOf_of_ne_nil hn h, List.flatten_cons, groupsOf_flatten (l.drop n), List.take_append_drop]
termination_by l.length

end

theorem groupsOf_length {α : Type} (n : Nat) (l : List α) : (groupsOf n l).length = ceilDiv l.length n := by simp [groupsOf]

theorem map_length_groupsOf {α : Type} (l : List α) : (groupsOf 256 l).map List.length = chunkLens l.length := by
  simp [groupsOf, chunkLens, Function.comp_def]

theorem mem_groupsOf {α : Type} {n : Nat} {l c : List α} (h : c ∈ groupsOf n l) : c.length ≤ n ∧ ∀ a ∈ c, a ∈ l := by
  obtain ⟨i, _, rfl⟩ := List.mem_map.1 h
  exact ⟨List.length_take_le .., fun a ha => List.mem_of_mem_drop (List.mem_of_mem_take ha)⟩

/-! ### A record header -/

section
variable {kind count : Nat} (hkind : kind < 4) (hcount : count < 512) (bs : Bytes)
include hkind hcount

theorem fld_recHead : fld (recHead kind count ++ bs) 0 2 = kind * 2 ^ 14 + count := fld_leBytes_append 2 _ _ (by omega)

theorem kind_recHead : fld (recHead kind count ++ bs) 0 2 / 2 ^ 14 = kind := by
  rw [fld_recHead hkind hcount]
  omega

theorem count_recHead : fld (recHead kind count ++ bs) 0 2 % 512 = count := by
  rw [fld_recHead hkind hcount]
  omega

end

@[simp] theorem recHead_length (kind count : Nat) : (recHead kind count).length = 2 := leBytes_length ..

/-! ### A bitmap -/

/-- The bitmap of elements as a number, lowest bit first. -/
def bitsFrom : List Bytes → Nat
  | [] => 0
  | e :: es => (if allZero e then 0 else 1) + 2 * bitsFrom es

/-- The elements that a BITMAP record lists. -/
def nonzeros (els : List Bytes) : List Bytes := els.filter fun e => !allZero e

theorem foldl_bits_eq (els : List Bytes) (k a : Nat) :
    ((List.range' k els.length).zip els).foldl (fun a e => if allZero e.2 then a else a + 2 ^ e.1) a = a + 2 ^ k * bitsFrom els := by
  induction els generalizing k a with
  | nil => rfl
  | cons e els ih =>
    rw [List.length_cons, List.range'_succ, List.zip_cons_cons, List.foldl_cons, ih, bitsFrom, pow_succ]
    split <;> ring

theorem bitsFrom_lt (els : List Bytes) : bitsFrom els < 2 ^ els.length := by
  induction els with
  | nil => exact Nat.one_pos
  | cons e els ih =>
    rw [bitsFrom, List.length_cons, pow_succ]
    split <;> omega

theorem testBit_bitsFrom_zero (e : Bytes) (els : List Bytes) : (bitsFrom (e :: els)).testBit 0 = !allZero e := by
  rw [Nat.testBit_zero, bitsFrom]
  cases allZero e <;> simp [Nat.add_mul_mod_self_left]

theorem testBit_bitsFrom_succ (e : Bytes) (els : List Bytes) (i : Nat) :
    (bitsFrom (e :: els)).testBit (i + 1) = (bitsFrom els).testBit i := by
  rw [Nat.testBit_succ, bitsFrom]
  congr 1
  split <;> omega

theorem bitmapOf_eq (els : List Bytes) : bitmapOf els = leBytes 32 (bitsFrom els) := by
  rw [bitmapOf, List.range_eq_range', foldl_bits_eq, Nat.zero_add, pow_zero, Nat.one_mul]

theorem popBelow_bitsFrom (els : List Bytes) : popBelow (bitsFrom els) els.length = (nonzeros els).length := by
  induction els with
  | nil => rfl
  | cons e els ih =>
    rw [popBelow, List.length_cons, List.range_succ_eq_map, List.filter_cons, List.filter_map, testBit_bitsFrom_zero,
      nonzeros, List.filter_cons]
    have hrest : (List.range els.length).filter ((bitsFrom (e :: els)).testBit ∘ Nat.succ) =
        (List.range els.length).filter (bitsFrom els).testBit :=
      List.filter_congr fun i _ => testBit_bitsFrom_succ e els i
    rw [hrest]
    have hih : ((List.range els.length).filter (bitsFrom els).testBit).length = (els.filter fun e => !allZero e).length := ih
    cases allZero e <;> simp [hih]

/-- The listed elements spread out where the bitmap has a bit, zeros elsewhere. -/
theorem spread_nonzeros {b v : Nat} (els : List Bytes) (hb : ∀ e ∈ els, e.length = b) (i : Nat)
    (hv : ∀ j, v.testBit (i + j) = (bitsFrom els).testBit j) : spread b v els.length i (nonzeros els).flatten = els := by
  induction els generalizing i with
  | nil => rfl
  | cons e els ih =>
    have hlen := hb e List.mem_cons_self
    have hrest := ih (fun x hx => hb x (List.mem_cons_of_mem e hx)) (i + 1) fun j => by
      rw [Nat.add_right_comm, Nat.add_assoc, hv, testBit_bitsFrom_succ]
    have hbit : v.testBit i = !allZero e := (hv 0).trans (testBit_bitsFrom_zero e els)
    rw [List.length_cons, spread, hbit, nonzeros, List.filter_cons]
    cases hzero : allZero e with
    | true =>
      have he : zeros b = e := hlen ▸ (eq_zeros_of_allZero hzero).symm
      simp only [Bool.not_true, Bool.false_eq_true, if_false, he]
      exact congrArg (e :: ·) hrest
    | false =>
      simp only [Bool.not_false, if_true, List.flatten_cons, List.take_left' hlen, List.drop_left' hlen]
      exact congrArg (e :: ·) hrest

/-! ### A chunk's record -/

theorem flatten_length_uniform {b : Nat} {els : List Bytes} (hb : ∀ e ∈ els, e.length = b) : els.flatten.length = els.length * b := by
  rw [flatten_length_of_uniform hb, Nat.mul_comm]

theorem pieces_flatten_uniform {b : Nat} (hpos : 0 < b) (els : List Bytes) (hb : ∀ e ∈ els, e.length = b) :
    pieces els.length b els.flatten = els := by
  induction els with
  | nil => rfl
  | cons e els ih =>
    have hlen := hb e List.mem_cons_self
    have hne : (e :: els).flatten ≠ [] := by
      refine List.length_pos_iff.1 ?_
      rw [List.flatten_cons, List.length_append]
      omega
    rw [List.length_cons, pieces_succ _ _ _ hne, List.flatten_cons, List.take_left' hlen, List.drop_left' hlen,
      ih fun x hx => hb x (List.mem_cons_of_mem e hx)]

/-- What a chunk adds to what its segment's later records give. -/
def prepend (els : List Bytes) (p : List Bytes × Nat) : List Bytes × Nat := (els ++ p.1, p.2)

@[simp] theorem prepend_nil : prepend [] = id := rfl

@[simp] theorem prepend_mk (els rest : List Bytes) (used : Nat) : prepend els (rest, used) = (els ++ rest, used) := rfl

section
variable {b : Nat} {c : List Bytes} (hb : ∀ e ∈ c, e.length = b) (hlen : c.length ≤ 256) (ls : List Nat) (bs : Bytes) (used : Nat)
include hb hlen

theorem unpackChunks_raw (hpos : 0 < b) :
    unpackChunks b 0 (c.length :: ls) (recHead 2 c.length ++ c.flatten ++ bs) used =
      (unpackChunks b 0 ls bs (used + (recHead 2 c.length ++ c.flatten).length)).map (prepend c) := by
  have hflat := flatten_length_uniform hb
  generalize hr : recHead 2 c.length ++ c.flatten = record
  have hrec : record.length = 2 + c.length * b := by rw [← hr, List.length_append, recHead_length, hflat]
  have hhead : record ++ bs = recHead 2 c.length ++ (c.flatten ++ bs) := by rw [← hr, List.append_assoc]
  have hdata : slice (record ++ bs) 2 (c.length * b) = c.flatten := by
    rw [hhead, slice_append_of_le _ _ _ (recHead_length ..).le]
    exact slice_append_self _ _ hflat
  have hrest : (record ++ bs).drop (2 + c.length * b) = bs := List.drop_left' hrec
  have hroom : 2 + c.length * b ≤ (record ++ bs).length := by
    rw [List.length_append, hrec]
    exact Nat.le_add_right ..
  have hkind : fld (record ++ bs) 0 2 / 2 ^ 14 = 2 := hhead ▸ kind_recHead (by omega) (by omega) _
  have hcount : fld (record ++ bs) 0 2 % 512 = c.length := hhead ▸ count_recHead (by omega) (by omega) _
  rw [unpackChunks]
  simp only [hkind, hcount, hdata, hrest, hroom, hrec, and_self, if_true, pieces_flatten_uniform hpos c hb]
  cases unpackChunks b 0 ls bs (used + (2 + c.length * b)) <;> rfl

theorem unpackChunks_bitmap (hsome : c.all allZero = false) :
    unpackChunks b 0 (c.length :: ls) (recHead 1 (nonzeros c).length ++ bitmapOf c ++ (nonzeros c).flatten ++ bs) used =
      (unpackChunks b 0 ls bs (used + (recHead 1 (nonzeros c).length ++ bitmapOf c ++ (nonzeros c).flatten).length)).map
        (prepend c) := by
  rw [bitmapOf_eq]
  have hlisted : (nonzeros c).length ≤ 256 := (List.length_filter_le ..).trans hlen
  have hone : 1 ≤ (nonzeros c).length := by
    obtain ⟨e, he, hzero⟩ := List.all_eq_false.1 hsome
    exact List.length_pos_of_mem (List.mem_filter.2 ⟨he, by simpa using hzero⟩)
  have hflat : (nonzeros c).flatten.length = (nonzeros c).length * b :=
    flatten_length_uniform fun e he => hb e (List.mem_of_mem_filter (p := fun e => !allZero e) he)
  generalize hr : recHead 1 (nonzeros c).length ++ leBytes 32 (bitsFrom c) ++ (nonzeros c).flatten = record
  have hrec : record.length = 34 + (nonzeros c).length * b := by
    rw [← hr, List.length_append, List.length_append, recHead_length, leBytes_length]
    omega
  have hhead : record ++ bs = recHead 1 (nonzeros c).length ++ (leBytes 32 (bitsFrom c) ++ ((nonzeros c).flatten ++ bs)) := by
    simp only [← hr, List.append_assoc]
  have hbits : fld (record ++ bs) 2 32 = bitsFrom c := by
    rw [hhead, fld_append_of_le _ _ _ (recHead_length ..).le]
    exact fld_leBytes_append 32 _ _ ((bitsFrom_lt c).trans_le (Nat.pow_le_pow_right Nat.two_pos hlen))
  have hdata : slice (record ++ bs) 34 ((nonzeros c).length * b) = (nonzeros c).flatten := by
    rw [hhead, ← List.append_assoc, slice_append_of_le _ _ _ (by simp)]
    simpa using slice_append_self (nonzeros c).flatten bs hflat
  have hrest : (record ++ bs).drop (34 + (nonzeros c).length * b) = bs := List.drop_left' hrec
  have hroom : 34 + (nonzeros c).length * b ≤ (record ++ bs).length := by
    rw [List.length_append, hrec]
    exact Nat.le_add_right ..
  have hkind : fld (record ++ bs) 0 2 / 2 ^ 14 = 1 := hhead ▸ kind_recHead (by omega) (by omega) _
  have hcount : fld (record ++ bs) 0 2 % 512 = (nonzeros c).length := hhead ▸ count_recHead (by omega) (by omega) _
  rw [unpackChunks]
  simp only [hkind, hcount, hbits, hdata, hrest, hroom, hrec, hone, popBelow_bitsFrom, bitsFrom_lt, and_self, if_true,
    spread_nonzeros c hb 0 fun j => by rw [Nat.zero_add]]
  cases unpackChunks b 0 ls bs (used + (34 + (nonzeros c).length * b)) <;> rfl

/-- A chunk that holds a nonzero element is read back from its record, whichever kind that has. -/
theorem unpackChunks_chunkRec (hpos : 0 < b) (hsome : c.all allZero = false) :
    unpackChunks b 0 (c.length :: ls) (chunkRec b c ++ bs) used =
      (unpackChunks b 0 ls bs (used + (chunkRec b c).length)).map (prepend c) := by
  unfold chunkRec
  dsimp only
  split
  · exact unpackChunks_bitmap hb hlen ls bs used hsome
  · exact unpackChunks_raw hb hlen ls bs used hpos

end

/-! ### A run of zero chunks -/

theorem flatten_of_allZero {b : Nat} {c : List Bytes} (hb : ∀ e ∈ c, e.length = b) (hzero : c.all allZero = true) :
    List.replicate c.length (zeros b) = c :=
  (List.eq_replicate_iff.2 ⟨rfl, fun e he => hb e he ▸ eq_zeros_of_allZero (List.all_eq_true.1 hzero e he)⟩).symm

/-- Chunks of elements of b bytes, none longer than 256 elements, as a segment is cut into them (R171). -/
structure Chunks (b : Nat) (cs : List (List Bytes)) : Prop where
  width : ∀ c ∈ cs, ∀ e ∈ c, e.length = b
  short : ∀ c ∈ cs, c.length ≤ 256
  few : cs.length ≤ 256

theorem Chunks.right {b : Nat} {xs ys : List (List Bytes)} (h : Chunks b (xs ++ ys)) : Chunks b ys where
  width c hc := h.width c (List.mem_append_right xs hc)
  short c hc := h.short c (List.mem_append_right xs hc)
  few := by
    have hfew := h.few
    rw [List.length_append] at hfew
    omega

theorem Chunks.left {b : Nat} {xs ys : List (List Bytes)} (h : Chunks b (xs ++ ys)) : Chunks b xs where
  width c hc := h.width c (List.mem_append_left ys hc)
  short c hc := h.short c (List.mem_append_left ys hc)
  few := by
    have hfew := h.few
    rw [List.length_append] at hfew
    omega

section
variable {b : Nat} {zs : List (List Bytes)} (hb : ∀ c ∈ zs, ∀ e ∈ c, e.length = b) (hzero : ∀ c ∈ zs, c.all allZero = true)
include hb hzero

/-- The chunks that a ZERO record stands for. -/
theorem unpackChunks_skip (ls : List Nat) (bs : Bytes) (used : Nat) :
    unpackChunks b zs.length (zs.map List.length ++ ls) bs used = (unpackChunks b 0 ls bs used).map (prepend zs.flatten) := by
  induction zs with
  | nil => simp
  | cons c zs ih =>
    rw [List.length_cons, List.map_cons, List.cons_append, unpackChunks,
      ih (fun x hx => hb x (List.mem_cons_of_mem c hx)) fun x hx => hzero x (List.mem_cons_of_mem c hx)]
    rw [flatten_of_allZero (hb c List.mem_cons_self) (hzero c List.mem_cons_self)]
    cases unpackChunks b 0 ls bs used <;> simp [prepend]

theorem unpackChunks_zeroRec (hfew : zs.length ≤ 256) (ls : List Nat) (bs : Bytes) (used : Nat) :
    unpackChunks b 0 (zs.map List.length ++ ls) (zeroRec zs.length ++ bs) used =
      (unpackChunks b 0 ls bs (used + (zeroRec zs.length).length)).map (prepend zs.flatten) := by
  cases zs with
  | nil => simp [zeroRec]
  | cons c zs =>
    rw [List.length_cons] at hfew
    have hskip := unpackChunks_skip (fun x hx => hb x (List.mem_cons_of_mem c hx)) (fun x hx => hzero x (List.mem_cons_of_mem c hx))
      ls bs (used + 2)
    have hkind := kind_recHead (kind := 0) (count := zs.length + 1) (by omega) (by omega) bs
    have hcount := count_recHead (kind := 0) (count := zs.length + 1) (by omega) (by omega) bs
    have hmany : 1 ≤ zs.length + 1 ∧ zs.length + 1 ≤ (zs.map List.length ++ ls).length + 1 := by simp
    rw [List.length_cons, List.map_cons, List.cons_append, zeroRec, if_neg (Nat.succ_ne_zero _), unpackChunks]
    simp only [hkind, hcount, hmany, and_self, if_true, Nat.add_sub_cancel, List.drop_left' (recHead_length ..), recHead_length, hskip]
    rw [flatten_of_allZero (hb c List.mem_cons_self) (hzero c List.mem_cons_self)]
    cases unpackChunks b 0 ls bs (used + 2) <;> simp [prepend]

end

/-! ### The records of a segment -/

/-- A segment's chunks are read back from its records, after zero chunks that wait for theirs. -/
theorem unpackChunks_packChunks {b : Nat} (hpos : 0 < b) {zs cs : List (List Bytes)} (h : Chunks b (zs ++ cs))
    (hzero : ∀ c ∈ zs, c.all allZero = true) (tail : Bytes) (used : Nat) :
    unpackChunks b 0 ((zs ++ cs).map List.length) (packChunks b zs.length cs ++ tail) used =
      some ((zs ++ cs).flatten, used + (packChunks b zs.length cs).length) := by
  induction cs generalizing zs used with
  | nil =>
    have hrun := unpackChunks_zeroRec h.left.width hzero h.left.few [] tail used
    rw [packChunks]
    simpa [unpackChunks] using hrun
  | cons c cs ih =>
    rw [packChunks]
    cases hc : c.all allZero with
    | true =>
      have hzero' : ∀ x ∈ zs ++ [c], x.all allZero = true :=
        List.forall_mem_append.2 ⟨hzero, List.forall_mem_singleton.2 hc⟩
      have hnext := ih (zs := zs ++ [c]) (by simpa using h) hzero' used
      simpa using hnext
    | false =>
      have hrun := unpackChunks_zeroRec h.left.width hzero h.left.few (c.length :: cs.map List.length)
        (chunkRec b c ++ (packChunks b 0 cs ++ tail)) used
      have hrec := unpackChunks_chunkRec (h.right.width c List.mem_cons_self) (h.right.short c List.mem_cons_self)
        (cs.map List.length) (packChunks b 0 cs ++ tail) (used + (zeroRec zs.length).length) hpos hc
      have hnext := ih (zs := []) (h.right.right (xs := [c])) (List.forall_mem_nil _)
        (used + (zeroRec zs.length).length + (chunkRec b c).length)
      rw [List.nil_append, List.length_nil] at hnext
      rw [hrec, hnext] at hrun
      simpa [Nat.add_assoc] using hrun

end Sys2Proof.Machine
end

section
/-! PACK streams (R171, R172), continued: how long the parts of a stream are, its segments read back through the segment table, and
the stream's own header. -/
namespace Sys2Proof.Machine

/-! ### How long the parts are -/

theorem roundUp_le (a : Nat) {n : Nat} (h : 0 < n) : roundUp a n ≤ a + n := by
  have hle := Nat.div_mul_le_self (a + n - 1) n
  rw [roundUp, ceilDiv]
  omega

theorem dvd_roundUp (a n : Nat) : n ∣ roundUp a n := Nat.dvd_mul_left ..

theorem zeroRec_length_le (n : Nat) : (zeroRec n).length ≤ 2 := by
  unfold zeroRec
  split
  · simp
  · exact (recHead_length ..).le

section
variable {b : Nat} {c : List Bytes} (hb : ∀ e ∈ c, e.length = b)
include hb

/-- BITMAP is used only where it is shorter than RAW. -/
theorem chunkRec_length_le : (chunkRec b c).length ≤ 2 + c.length * b := by
  have hflat := flatten_length_uniform hb
  have hlisted : (c.filter fun e => !allZero e).flatten.length = (c.filter fun e => !allZero e).length * b :=
    flatten_length_uniform fun e he => hb e (List.mem_of_mem_filter he)
  unfold chunkRec
  dsimp only
  split
  · rw [List.length_append, List.length_append, recHead_length, bitmapOf_eq, leBytes_length, hlisted]
    omega
  · rw [List.length_append, recHead_length, hflat]

end

theorem packChunks_length_le {b : Nat} {cs : List (List Bytes)} (hb : ∀ c ∈ cs, ∀ e ∈ c, e.length = b) (z : Nat) :
    (packChunks b z cs).length ≤ 2 + 4 * cs.length + cs.flatten.length * b := by
  induction cs generalizing z with
  | nil => exact (zeroRec_length_le z).trans (Nat.le_add_right ..)
  | cons c cs ih =>
    have hrest := ih (fun x hx => hb x (List.mem_cons_of_mem c hx))
    have hchunk := chunkRec_length_le (hb c List.mem_cons_self)
    have hrun := zeroRec_length_le z
    rw [packChunks, List.length_cons, List.flatten_cons, List.length_append, Nat.add_mul]
    split
    · have := hrest (z + 1)
      omega
    · have := hrest 0
      rw [List.length_append, List.length_append]
      omega

/-- The records of a segment's elements, padded to whole 64 bytes. -/
def packSeg (b : Nat) (seg : List Bytes) : Bytes := padTo 64 (packChunks b 0 (groupsOf 256 seg))

section
variable {b : Nat} {seg : List Bytes} (hb : ∀ e ∈ seg, e.length = b) (hlen : seg.length ≤ 65536)
include hb hlen

theorem chunks_groupsOf : Chunks b (groupsOf 256 seg) where
  width _ hc e he := hb e ((mem_groupsOf hc).2 e he)
  short _ hc := (mem_groupsOf hc).1
  few := by
    rw [groupsOf_length, ceilDiv]
    omega

theorem packSeg_length_le (hwide : b ≤ 4) : (packSeg b seg).length ≤ 2 ^ 19 := by
  have hchunks := chunks_groupsOf hb hlen
  have hlong := packChunks_length_le hchunks.width 0
  have hround := roundUp_le (packChunks b 0 (groupsOf 256 seg)).length (n := 64) (by omega)
  have hdata : seg.length * b ≤ 65536 * 4 := Nat.mul_le_mul hlen hwide
  have hfew := hchunks.few
  rw [groupsOf_flatten (by omega)] at hlong
  rw [packSeg, padTo_length _ _ (by omega)]
  omega

/-- A segment is read back from its records, whatever follows them. -/
theorem unpackChunks_packSeg (hpos : 0 < b) (tail : Bytes) :
    unpackChunks b 0 (chunkLens seg.length) (packSeg b seg ++ tail) 0 =
      some (seg, (packChunks b 0 (groupsOf 256 seg)).length) := by
  have hread := unpackChunks_packChunks hpos (zs := []) (cs := groupsOf 256 seg) (chunks_groupsOf hb hlen) (List.forall_mem_nil _)
    (zeros (roundUp (packChunks b 0 (groupsOf 256 seg)).length 64 - (packChunks b 0 (groupsOf 256 seg)).length) ++ tail) 0
  rw [List.nil_append, groupsOf_flatten (by omega), map_length_groupsOf, List.length_nil, Nat.zero_add] at hread
  rwa [packSeg, padTo, List.append_assoc]

end

/-! ### The segments -/

theorem packSegs_nil (b : Nat) : packSegs b [] = [] := by rw [packSegs, groupsOf_nil (by omega), List.map_nil]

theorem packSegs_of_ne_nil (b : Nat) {els : List Bytes} (h : els ≠ []) :
    packSegs b els = packSeg b (els.take 65536) :: packSegs b (els.drop 65536) := by
  rw [packSegs, groupsOf_of_ne_nil (by omega) h, List.map_cons, packSeg, packSegs]

theorem packSegs_length (b : Nat) (els : List Bytes) : (packSegs b els).length = ceilDiv els.length 65536 := by
  rw [packSegs, List.length_map, groupsOf_length]

theorem segOffsets_length (off : Nat) (segs : List Bytes) : (segOffsets off segs).length = segs.length := by
  induction segs generalizing off with
  | nil => rfl
  | cons sg segs ih => rw [segOffsets, List.length_cons, List.length_cons, ih]

/-- The segment table from a segment's entry on. -/
def tableFrom (off : Nat) (segs : List Bytes) : Bytes := (segOffsets off segs).flatMap (leBytes 4)

theorem tableFrom_length (off : Nat) (segs : List Bytes) : (tableFrom off segs).length = 4 * segs.length := by
  simp [tableFrom, List.length_flatMap, segOffsets_length, Nat.mul_comm]

theorem tableFrom_cons (off : Nat) (sg : Bytes) (segs : List Bytes) :
    tableFrom off (sg :: segs) = leBytes 4 (off / 64) ++ tableFrom (off + sg.length) segs := rfl

/-- One segment read, where the table says and one after the other. -/
theorem unpackSegs_succ {b i off left used : Nat} {table bs : Bytes} {seg : List Bytes} (k : Nat)
    (hat : fld table (4 * i) 4 * 64 = off)
    (hseg : unpackChunks b 0 (chunkLens (min 65536 left)) (bs.drop off) 0 = some (seg, used)) :
    unpackSegs b table bs (k + 1) i off left =
      (unpackSegs b table bs k (i + 1) (off + roundUp used 64) (left - 65536)).map (prepend seg) := by
  rw [unpackSegs, if_pos hat, hseg]
  dsimp only
  cases unpackSegs b table bs k (i + 1) (off + roundUp used 64) (left - 65536) <;> rfl

/-- Segments are read back where each begins where the last one ends, at a multiple of 64 that the table has. -/
theorem unpackSegs_packSegs {b : Nat} (hpos : 0 < b) (els : List Bytes) (hb : ∀ e ∈ els, e.length = b) (table before : Bytes)
    (i : Nat) (hunit : 64 ∣ before.length) (hfit : (before ++ (packSegs b els).flatten).length < 2 ^ 38)
    (htable : table.drop (4 * i) = tableFrom before.length (packSegs b els)) :
    unpackSegs b table (before ++ (packSegs b els).flatten) (packSegs b els).length i before.length els.length =
      some (els, (before ++ (packSegs b els).flatten).length) := by
  by_cases hnil : els = []
  · simp [hnil, packSegs_nil, unpackSegs]
  · have hshort : (els.drop 65536).length < els.length := by
      have hsome := List.length_pos_iff.2 hnil
      rw [List.length_drop]
      omega
    rw [packSegs_of_ne_nil b hnil] at hfit htable ⊢
    rw [List.flatten_cons, ← List.append_assoc] at hfit ⊢
    have hlen : (packSeg b (els.take 65536)).length =
        roundUp (packChunks b 0 (groupsOf 256 (els.take 65536))).length 64 := padTo_length _ _ (by omega)
    have hnext := unpackSegs_packSegs hpos (els.drop 65536) (fun e he => hb e (List.mem_of_mem_drop he)) table
      (before ++ packSeg b (els.take 65536)) (i + 1)
      (by rw [List.length_append, hlen]; exact Nat.dvd_add hunit (dvd_roundUp ..)) hfit
      (by rw [Nat.mul_succ, ← List.drop_drop, htable, tableFrom_cons, List.length_append, List.drop_left' (leBytes_length ..)])
    have hat : fld table (4 * i) 4 * 64 = before.length := by
      have hentry : fld table (4 * i) 4 = before.length / 64 := by
        have hsmall : before.length / 64 < 2 ^ (8 * 4) := by
          rw [List.length_append, List.length_append] at hfit
          omega
        rw [fld, slice, htable, tableFrom_cons, List.take_left' (leBytes_length ..), leNat_leBytes, Nat.mod_eq_of_lt hsmall]
      rw [hentry, Nat.div_mul_cancel hunit]
    have hread : unpackChunks b 0 (chunkLens (min 65536 els.length))
        ((before ++ packSeg b (els.take 65536) ++ (packSegs b (els.drop 65536)).flatten).drop before.length) 0 =
          some (els.take 65536, (packChunks b 0 (groupsOf 256 (els.take 65536))).length) := by
      rw [List.append_assoc, List.drop_left, ← List.length_take]
      exact unpackChunks_packSeg (fun e he => hb e (List.mem_of_mem_take he)) (List.length_take_le ..) hpos _
    rw [List.length_cons, unpackSegs_succ _ hat hread, ← hlen, ← List.length_append, ← List.length_drop, hnext, Option.map_some,
      prepend_mk, List.take_append_drop]
termination_by els.length

/-! ### The stream -/

section
variable {b : Nat} (hwide : b ≤ 4) {els : List Bytes} (hb : ∀ e ∈ els, e.length = b)
include hwide hb

theorem packSegs_flatten_length_le : (packSegs b els).flatten.length ≤ (packSegs b els).length * 2 ^ 19 := by
  have hlong : ∀ n ∈ (packSegs b els).map List.length, n ≤ 2 ^ 19 := by
    intro n hn
    obtain ⟨sg, hsg, rfl⟩ := List.mem_map.1 hn
    obtain ⟨seg, hseg, rfl⟩ := List.mem_map.1 hsg
    exact packSeg_length_le (fun e he => hb e ((mem_groupsOf hseg).2 e he)) (mem_groupsOf hseg).1 hwide
  rw [List.length_flatten]
  simpa using List.sum_le_card_nsmul _ _ hlong

end

/-- What stands before the first segment: the header and the segment table, padded to whole 64 bytes. -/
def packFront (fmt b : Nat) (els : List Bytes) : Bytes :=
  let segs := packSegs b els
  let start := segStart segs.length
  packHeader els.length fmt segs.length (start + segs.flatten.length) ++ padTo 64 (tableFrom start segs)

theorem packStream_eq (fmt b : Nat) (els : List Bytes) : packStream fmt b els = packFront fmt b els ++ (packSegs b els).flatten := rfl

theorem packHeader_length (elements fmt segments bytes : Nat) : (packHeader elements fmt segments bytes).length = 64 := by
  simp [packHeader]

theorem packFront_length (fmt b : Nat) (els : List Bytes) : (packFront fmt b els).length = segStart (packSegs b els).length := by
  rw [packFront, List.length_append, packHeader_length, padTo_length _ _ (by omega), tableFrom_length, segStart]

/-- The header's fields read back. -/
theorem fld_packHeader {elements fmt segments bytes : Nat} (rest : Bytes) (he : elements < 2 ^ 64) (hf : fmt < 2 ^ 8)
    (hs : segments < 2 ^ 32) (hbytes : bytes < 2 ^ 64) :
    let bs := packHeader elements fmt segments bytes ++ rest
    fld bs 0 8 = elements ∧ fld bs 8 1 = fmt ∧ fld bs 12 4 = segments ∧ fld bs 16 8 = bytes := by
  simp only [packHeader, List.append_assoc]
  refine ⟨fld_leBytes_append 8 _ _ he, ?format, ?segments, ?bytes⟩
  case format =>
    rw [fld_append_of_le _ _ _ (by simp)]
    simpa using fld_leBytes_append 1 _ _ hf
  case segments =>
    rw [fld_append_of_le _ _ _ (by simp), fld_append_of_le _ _ _ (by simp), fld_append_of_le _ _ _ (by simp)]
    simpa using fld_leBytes_append 4 _ _ hs
  case bytes =>
    rw [fld_append_of_le _ _ _ (by simp), fld_append_of_le _ _ _ (by simp), fld_append_of_le _ _ _ (by simp),
      fld_append_of_le _ _ _ (by simp)]
    simpa using fld_leBytes_append 8 _ _ hbytes

theorem packStream_length (fmt b : Nat) (els : List Bytes) :
    (packStream fmt b els).length = segStart (packSegs b els).length + (packSegs b els).flatten.length := by
  rw [packStream_eq, List.length_append, packFront_length]

/-- The stream's header read back. -/
theorem fld_packStream {fmt b : Nat} {els : List Bytes} (he : els.length < 2 ^ 64) (hf : fmt < 2 ^ 8)
    (hs : (packSegs b els).length < 2 ^ 32) (hlen : (packStream fmt b els).length < 2 ^ 64) :
    let bs := packStream fmt b els
    fld bs 0 8 = els.length ∧ fld bs 8 1 = fmt ∧ fld bs 12 4 = (packSegs b els).length ∧ fld bs 16 8 = bs.length := by
  have hheader := fld_packHeader (padTo 64 (tableFrom (segStart (packSegs b els).length) (packSegs b els)) ++ (packSegs b els).flatten)
    he hf hs (packStream_length fmt b els ▸ hlen)
  dsimp only
  rw [packStream_length, packStream_eq, packFront, List.append_assoc]
  exact hheader

/-- The segment table read back. -/
theorem slice_packStream (fmt b : Nat) (els : List Bytes) :
    slice (packStream fmt b els) 64 (4 * (packSegs b els).length) =
      tableFrom (segStart (packSegs b els).length) (packSegs b els) := by
  rw [packStream_eq, packFront, List.append_assoc, slice_append_of_le _ _ _ (packHeader_length ..).le, packHeader_length, padTo,
    List.append_assoc]
  exact slice_append_self _ _ (tableFrom_length ..)

theorem packSegs_length_le (b : Nat) {els : List Bytes} (hfew : els.length ≤ 2 ^ 30) : (packSegs b els).length ≤ 2 ^ 14 := by
  rw [packSegs_length, ceilDiv]
  omega

section
variable {fmt b : Nat} (hwide : b ≤ 4) {els : List Bytes} (hb : ∀ e ∈ els, e.length = b) (hfew : els.length ≤ 2 ^ 30)
include hwide hb hfew

theorem packStream_length_lt : (packStream fmt b els).length < 2 ^ 38 := by
  have hsegs := packSegs_length_le b hfew
  have hdata := packSegs_flatten_length_le hwide hb
  have htable := roundUp_le (4 * (packSegs b els).length) (n := 64) (by omega)
  rw [packStream_length, segStart]
  omega

theorem unpackStream_packStream (hf : fmt < 16) (hpos : 0 < b) :
    unpackStream fmt b els.length (packStream fmt b els) = some els := by
  have hlen := packStream_length_lt (fmt := fmt) hwide hb hfew
  have hsegs := packSegs_length_le b hfew
  obtain ⟨helements, hformat, hsegments, hbytes⟩ :=
    fld_packStream (fmt := fmt) (b := b) (els := els) (by omega) (by omega) (by omega) (by omega)
  have hread := unpackSegs_packSegs hpos els hb (tableFrom (segStart (packSegs b els).length) (packSegs b els)) (packFront fmt b els) 0
    (by rw [packFront_length, segStart]; exact Nat.dvd_add (Nat.dvd_refl _) (dvd_roundUp ..)) (packStream_eq fmt b els ▸ hlen)
    (by rw [packFront_length, Nat.mul_zero, List.drop_zero])
  rw [← packStream_eq, packFront_length] at hread
  rw [unpackStream, ← packSegs_length b els]
  simp only [helements, hformat, hsegments, hbytes, slice_packStream, hread, and_self, if_true]

end

/-- Settles O34: the header's fields, the segment table, each segment's records and each record are read back in turn. -/
theorem packRoundTrip : Obligations.PackRoundTrip := by
  intro fmt b els hf hwidth hfew hb
  have hwide : 0 < b ∧ b ≤ 4 := by omega
  exact unpackStream_packStream hwide.2 hb hfew hf hwide.1

end Sys2Proof.Machine
end

section
/-! The key-value descriptors of a context (R224 to R226): what the application of one leaves, which one a row applies, and what
a resume goes on with. -/
namespace Sys2Proof.Machine

section
variable {s : State} {g q seq t : Nat}

/-! ### What an application leaves -/

/-- A descriptor that succeeds is carried out with its status, leaves the order, and nothing waits after it. -/
theorem State.kvDo_of_ok {d : Bytes} {u : State} {status : Nat} (h : s.kvApply g d = .ok (u, status)) :
    s.kvDo g q seq t d = ((((u.kvSeen s g q seq t d).noteIdle g q seq).modKv g fun k =>
      { k with waiting := none, order := k.order.erase (q, seq) }).tileCarried g q seq t []).modRun g q seq fun r =>
        { r with status := status } := by
  rw [State.kvDo, h]
  rfl

/-- A descriptor that must wait is remembered as waiting, since the time at which it first did. -/
theorem State.kvDo_of_wait {d : Bytes} {b : Bool} (h : s.kvApply g d = .error (.wait b)) :
    s.kvDo g q seq t d = s.modKv g fun k =>
      { k with waiting := some (if b then .buffer q seq else .alloc q seq),
               waitAt := if k.waiting = none then s.ctxTime g else k.waitAt } := by
  have hsince (k : Kv) : (if k.waiting.isSome then k.waitAt else s.ctxTime g) = if k.waiting = none then s.ctxTime g else k.waitAt := by
    cases k.waiting <;> rfl
  rw [State.kvDo, h]
  simp only [hsince]

/-- A descriptor that faults does so in what its application left, or else in the state it met. -/
theorem State.kvDo_of_fault {d : Bytes} {f : Fail} {left : Option State} (h : s.kvApply g d = .error (.fault f left)) :
    s.kvDo g q seq t d = (left.getD s).tileFaults g q seq t f := by
  rw [State.kvDo, h]
  exact State.failTile_eq_tileFaults ..

/-! ### The rows -/

variable {r : Run}

/-- A row applies a descriptor of its kind that comes first in the order, while none waits. -/
theorem State.kvRow_of_onCore (h : OnCore g q seq s r t) (hactive : (s.ctx g).st = .active) {kind : Run → Bool} (hkind : kind r = true) :
    s.kvRow g q seq kind = if (s.ctx g).kv.waiting = none ∧ (s.ctx g).kv.order.head? = some (q, seq) then s.kvDo g q seq t r.raw
      else s := by
  simp [State.kvRow, State.gate_of_onCore h, hkind, hactive]

/-- Of whatever kind, the descriptor that waits is tried again. -/
theorem State.kvAgain_of_onCore (h : OnCore g q seq s r t) (hactive : (s.ctx g).st = .active) :
    s.kvAgain g q seq = s.kvDo g q seq t r.raw := by
  simp [State.kvAgain, State.gate_of_onCore h, hactive]

/-- Only the resume of frames goes on with a descriptor that waits for a frame. -/
theorem State.kvResume_of_alloc (h : (s.ctx g).kv.waiting = some (.alloc q seq)) (buffer : Bool) :
    s.kvResume g buffer = if buffer then s else s.kvAgain g q seq := by
  rw [State.kvResume, h]

/-- Only the resume of buffers goes on with a descriptor that waits for a buffer. -/
theorem State.kvResume_of_buffer (h : (s.ctx g).kv.waiting = some (.buffer q seq)) (buffer : Bool) :
    s.kvResume g buffer = if buffer then s.kvAgain g q seq else s := by
  rw [State.kvResume, h]

theorem isEdit_of {op : Nat} (h : dOpcode r.raw = 0x23 ∧ fld r.raw 28 1 = op) : isEdit op r = true := by simp [isEdit, h]

theorem isOp_of {op : Nat} (h : dOpcode r.raw = op) : isOp op r = true := by simp [isOp, h]

end

/-- Settles O29: an application ends in one of three ways, each row makes it for the first in the order, and a resume for the one that
waits for what it brings. -/
theorem kvDescriptors : Obligations.KvDescriptors := by
  intro s g q seq r t h hactive applied first edit
  have happlied : s.kvDo g q seq t r.raw = applied := by
    simp only [applied]
    rcases happly : s.kvApply g r.raw with (b | ⟨f, left⟩) | ⟨u, status⟩
    case error.wait => exact State.kvDo_of_wait happly
    case error.fault => exact State.kvDo_of_fault happly
    case ok => exact State.kvDo_of_ok happly
  have hrow {kind : Run → Bool} (hkind : kind r = true) : s.kvRow g q seq kind = if first then applied else s :=
    happlied ▸ State.kvRow_of_onCore h hactive hkind
  have hagain : s.kvAgain g q seq = applied := (State.kvAgain_of_onCore h hactive).trans happlied
  refine ⟨fun hop => ?append, fun hop => ?truncate, fun hop => ?priority, fun hop => ?boundary, fun hop => ?free,
    fun hwait => ?alloc, fun hwait => ?buffer⟩
  case append => exact congrArg Host.Outcome.next (hrow (isOp_of hop))
  case truncate => exact congrArg Host.Outcome.next (hrow (isEdit_of hop))
  case priority => exact congrArg Host.Outcome.next (hrow (isEdit_of hop))
  case boundary => exact congrArg Host.Outcome.next (hrow (isEdit_of hop))
  case free => exact congrArg Host.Outcome.next (hrow (isOp_of hop))
  case alloc =>
    exact ⟨congrArg Host.Outcome.next ((State.kvResume_of_alloc hwait false).trans hagain),
      congrArg Host.Outcome.next (State.kvResume_of_alloc hwait true)⟩
  case buffer =>
    exact ⟨congrArg Host.Outcome.next ((State.kvResume_of_buffer hwait true).trans hagain),
      congrArg Host.Outcome.next (State.kvResume_of_buffer hwait false)⟩

end Sys2Proof.Machine
end

section
/-! What one command keeps of the memories: their canonical form (R262, R263, R328). -/
namespace Sys2Proof.Machine

theorem memGood_of_next {u t : State} (h : u.memGood)
    (e : (Host.Outcome.next u : Host.Outcome State Fault Refusal) = .next t) : t.memGood := by
  cases e; exact h

/-- One row for each operation that commands end in. -/
theorem exec_memGood (s t : State) (hG : s.memGood) : (i : Instr) → exec i s = .next t → t.memGood
  -- Doorbells, queues and work tiles
  | .sqTail .. => memGood_of_next (State.sqTail_memGood (hG := hG) ..)
  | .cqHead .. => memGood_of_next (State.cqHead_memGood (hG := hG) ..)
  | .hostSignal .. => memGood_of_next (State.hostSignal_memGood (hG := hG) ..)
  | .mboxDoorbell .. | .overrunClear .. | .moduleTimeLo .. | .msixEnable .. =>
    memGood_of_next (State.modHif_memGood (hG := hG) ..)
  | .descriptorTake .. => memGood_of_next (State.takeNext_memGood (hG := hG) ..)
  | .descriptorStart .. => memGood_of_next (State.startNext_memGood (hG := hG) ..)
  | .waitSatisfied .. => memGood_of_next (State.waitSatisfied_memGood (hG := hG) ..)
  | .waitTimeout .. => memGood_of_next (State.waitTimeout_memGood (hG := hG) ..)
  | .workTileSelect .. => memGood_of_next (State.tileSelect_memGood (hG := hG) ..)
  | .pipGrant .. => memGood_of_next (State.pipGrant_memGood (hG := hG) ..)
  | .workTileEnd .. => memGood_of_next (State.tileEnd_memGood (hG := hG) ..)
  | .watchdog .. => memGood_of_next (State.watchdog_memGood (hG := hG) ..)
  | .descriptorFinish .. => memGood_of_next (State.descriptorFinish_memGood (hG := hG) ..)
  | .completionRecordWrite .. => memGood_of_next (State.recordWrite_memGood (hG := hG) ..)
  | .intHoldoffExpiry .. => memGood_of_next (State.holdoffExpiry_memGood (hG := hG) ..)
  -- What descriptors do
  | .moveCopy .. | .moveFill .. | .moveZero .. => memGood_of_next (State.moveRow_memGood (hG := hG) ..)
  | .check .. => memGood_of_next (State.checkRow_memGood (hG := hG) ..)
  | .gemm .. | .gemmBwd .. | .dist .. | .crop .. | .attnFwd .. | .attnBwd .. =>
    memGood_of_next (State.dataRow_memGood (hG := hG) ..)
  | .convFwd .. | .convBwdData .. | .convBwdWeight .. | .convDw .. | .maxPool .. | .avgValid ..
  | .avgAll .. => memGood_of_next (State.convRow_memGood (hG := hG) ..)
  | .haloWaitTimeout .. => memGood_of_next (State.haloTimeout_memGood (hG := hG) ..)
  | .kvAppend .. | .truncate .. | .setPriority .. | .boundary .. | .kvFree .. =>
    memGood_of_next (State.kvRow_memGood (hG := hG) ..)
  | .kvAllocResume .. | .kvBufferResume .. => memGood_of_next (State.kvResume_memGood (hG := hG) ..)
  | .vec .. => memGood_of_next (State.vecRow_memGood (hG := hG) ..)
  | .layer .. | .rms .. | .stats .. | .splitSum .. => memGood_of_next (State.normRow_memGood (hG := hG) ..)
  | .stashPut .. => memGood_of_next (State.codecRow_memGood (hf := fun _ => State.put_memGood (hG := hG) ..) (hG := hG) ..)
  | .stashGet .. => memGood_of_next (State.codecRow_memGood (hf := fun _ => State.get_memGood (hG := hG) ..) (hG := hG) ..)
  | .recipe .. => memGood_of_next (State.recipeRow_memGood (hG := hG) ..)
  | .specReplayStart .. => memGood_of_next (State.specStart_memGood (hG := hG) ..)
  | .specReplayDone .. => memGood_of_next (State.specDone_memGood (hG := hG) ..)
  | .uniform .. | .normal .. | .bits .. | .dropout .. | .noiseAdd .. => memGood_of_next (State.diceRow_memGood (hG := hG) ..)
  | .stepCommit .. =>
    memGood_of_next (State.boundaryRow_memGood (hf := fun _ h => State.stepCommit_memGood (hG := h) ..) (hG := hG) ..)
  | .stepRepeat .. =>
    memGood_of_next (State.boundaryRow_memGood (hf := fun _ h => State.stepRepeat_memGood (hG := h) ..) (hG := hG) ..)
  | .allReduce .. | .reduceScatter .. | .allGather .. | .broadcast .. => memGood_of_next (State.collRow_memGood (hG := hG) ..)
  | .secure .. | .restore .. | .fill .. => memGood_of_next (State.secureRow_memGood (hG := hG) ..)
  | .register .. => memGood_of_next (State.registerRow_memGood (hG := hG) ..)
  | .sync .. | .nop .. => memGood_of_next (State.frontRow_memGood (hf := fun _ _ h => h) (hG := hG) ..)
  | .syncClear .. =>
    memGood_of_next (State.frontRow_memGood (hf := fun _ _ h => State.clearCounters_memGood (hG := h) ..) (hG := hG) ..)
  -- Memory
  | .tileReread .. => memGood_of_next (State.reread_memGood (hG := hG) ..)
  | .prefetchIssue .. => memGood_of_next (State.prefetch_memGood (hG := hG) ..)
  | .hotChannelWindow .. => memGood_of_next (State.hotWindow_memGood (hG := hG) ..)
  | .phyRetrain .. => memGood_of_next (State.retrain_memGood (hG := hG) ..)
  -- Collectives and secure operations: their packets and limits
  | .collData .. =>
    memGood_of_next (State.collPacket_memGood (hf := fun _ _ _ _ h => State.onData_memGood (hG := h) ..) (hG := hG) ..)
  | .collResult .. =>
    memGood_of_next (State.collPacket_memGood (hf := fun _ _ _ _ h => State.onResult_memGood (hG := h) ..) (hG := hG) ..)
  | .collSparse .. =>
    memGood_of_next (State.collPacket_memGood (hf := fun _ _ _ _ h => State.onSparse_memGood (hG := h) ..) (hG := hG) ..)
  | .collSign .. =>
    memGood_of_next (State.collPacket_memGood (hf := fun _ _ _ _ h => State.onSign_memGood (hG := h) ..) (hG := hG) ..)
  | .collBs16 .. =>
    memGood_of_next (State.collPacket_memGood (hf := fun _ _ _ _ h => State.ringAdd_memGood (hG := h) ..) (hG := hG) ..)
  | .collMeta .. =>
    memGood_of_next (State.collPacket_memGood (hf := fun _ _ _ _ h => State.onMeta_memGood (hG := h) ..) (hG := hG) ..)
  | .collBs16Result .. =>
    memGood_of_next (State.collPacket_memGood (hf := fun _ _ _ _ h => State.onBsResult_memGood (hG := h) ..) (hG := hG) ..)
  | .collSignature .. =>
    memGood_of_next (State.collPacket_memGood (hf := fun _ _ _ _ h => State.onSignature_memGood (hG := h) ..) (hG := hG) ..)
  | .collMissing .. => memGood_of_next (State.onMissing_memGood (hG := hG) ..)
  | .stragglerTimeout .. => memGood_of_next (State.straggle_memGood (hG := hG) ..)
  | .secureVoteMessage .. => memGood_of_next (State.voteMessage_memGood (hG := hG) ..)
  | .parityPacket .. => memGood_of_next (State.parityPacket_memGood (hG := hG) ..)
  | .holderDone .. => memGood_of_next (State.holderDone_memGood (hG := hG) ..)
  | .fillPacket .. => memGood_of_next (State.fillPacket_memGood (hG := hG) ..)
  | .groupKeyRequest .. => memGood_of_next (State.keyRequest_memGood (hG := hG) ..)
  -- Errors counted
  | .quietIntervalExpiry => memGood_of_next (State.quietExpiry_memGood (hG := hG) ..)
  | .maxIntervalExpiry => memGood_of_next (State.maxExpiry_memGood (hG := hG) ..)
  | .ceWindowEnd => memGood_of_next (State.ceRoll_memGood (hG := hG) ..)
  | .hbmCorrectedError .. => memGood_of_next (State.corrected_memGood (hG := hG) ..)
  -- Ports and links
  | .flitReceive .. => memGood_of_next (State.flitIn_memGood (hG := hG) ..)
  | .packetReceive .. => memGood_of_next (State.packetReceive_memGood (hG := hG) ..)
  | .nak .. => memGood_of_next (State.onNak_memGood (hG := hG) ..)
  | .laneReady .. => memGood_of_next (State.laneReady_memGood (hG := hG) ..)
  | .switch .. => memGood_of_next (State.switchIn_memGood (hG := hG) ..)
  | .keyPhase .. => memGood_of_next (State.keyPhaseIn_memGood (hG := hG) ..)
  | .heartbeat .. => memGood_of_next (State.heartbeat_memGood (hG := hG) ..)
  | .heartbeatSend .. => memGood_of_next (State.heartbeatSend_memGood (hG := hG) ..)
  | .peerSilent .. => memGood_of_next (State.peerSilent_memGood (hG := hG) ..)
  | .mgmtPacket .. => memGood_of_next (State.mgmtIn_memGood (hG := hG) ..)
  | .routePacket .. => memGood_of_next (State.routeIn_memGood (hG := hG) ..)
  | .calWindowOpen .. => memGood_of_next (State.calOpen_memGood (hG := hG) ..)
  | .calWindowEnd .. => memGood_of_next (State.calEnd_memGood (hG := hG) ..)
  | .laneFailure .. => memGood_of_next (State.laneFailure_memGood (hG := hG) ..)
  | .lossOfSignal .. => memGood_of_next (State.lossOfSignal_memGood (hG := hG) ..)
  | .portRetrain .. => memGood_of_next (State.portRetrain_memGood (hG := hG) ..)
  | .portTrained .. => memGood_of_next (State.portTrained_memGood (hG := hG) ..)
  | .portAuthComplete .. => memGood_of_next (State.portAuth_memGood (hG := hG) ..)
  | .linkKeyRollover .. => memGood_of_next (State.keyRollover_memGood (hG := hG) ..)
  | .ethRetryTimeout .. => memGood_of_next (State.ethRetry_memGood (hG := hG) ..)
  -- Partitions, contexts and the dictionary
  | .stagedTimeout .. => memGood_of_next (State.stagedTimeout_memGood (hG := hG) ..)
  | .activateComplete .. => memGood_of_next (State.activated_memGood (hG := hG) ..)
  | .partResetComplete .. => memGood_of_next (State.partResetDone_memGood (hG := hG) ..)
  | .destroyComplete .. => memGood_of_next (State.destroyDone_memGood (hG := hG) ..)
  | .teardownComplete .. => memGood_of_next (State.teardownDone_memGood (hG := hG) ..)
  | .nodeIdApply => memGood_of_next (State.nodeIdApply_memGood (hG := hG) ..)
  | .debugNonce .. => memGood_of_next (State.nonceIn_memGood (hG := hG) ..)
  -- SPDM
  | .getVersion .. => memGood_of_next (State.getVersion_memGood (hG := hG) ..)
  | .getCapabilities .. =>
    memGood_of_next (State.spdmOn_memGood (hf := fun _ h => State.spdmSend_memGood (hG := h) ..) (hG := hG) ..)
  | .negotiateAlgorithms .. => memGood_of_next (State.negotiate_memGood (hG := hG) ..)
  | .getDigests .. => memGood_of_next (State.getDigests_memGood (hG := hG) ..)
  | .getCertificate .. => memGood_of_next (State.getCertificate_memGood (hG := hG) ..)
  | .challenge .. => memGood_of_next (State.challenge_memGood (hG := hG) ..)
  | .getMeasurements .. => memGood_of_next (State.getMeasurements_memGood (hG := hG) ..)
  | .keyExchange .. => memGood_of_next (State.keyExchange_memGood (hG := hG) ..)
  | .spdmFinish .. => memGood_of_next (State.spdmFinish_memGood (hG := hG) ..)
  | .keyUpdate .. => memGood_of_next (State.keyUpdate_memGood (hG := hG) ..)
  | .spdmHeartbeat .. => memGood_of_next (State.spdmHeartbeat_memGood (hG := hG) ..)
  | .endSession .. => memGood_of_next (State.endSession_memGood (hG := hG) ..)
  | .sessionTimeout .. => memGood_of_next (State.sessionTimeout_memGood (hG := hG) ..)
  -- Power, start-up and sensors
  | .powerGood .. => memGood_of_next (State.powerGood_memGood (hG := hG) ..)
  | .powerGoodLoss => memGood_of_next (State.powerGoodLoss_memGood (hG := hG) ..)
  | .resetNAssert => memGood_of_next (State.resetAssert_memGood (hG := hG) ..)
  | .resetNRelease => memGood_of_next (State.resetRelease_memGood (hG := hG) ..)
  | .bootComplete .. => memGood_of_next (State.bootComplete_memGood (hG := hG) ..)
  | .builtInTestDone .. => memGood_of_next (State.testDone_memGood (hG := hG) ..)
  | .stackTrained .. => memGood_of_next (State.stackTrained_memGood (hG := hG) ..)
  | .perstAssert .. => memGood_of_next (State.perstAssert_memGood (hG := hG) ..)
  | .hostLinkDown .. => memGood_of_next (State.hostLinkDown_memGood (hG := hG) ..)
  | .hostLinkUp .. => memGood_of_next (State.hostUp_memGood (hG := hG) ..)
  | .sensorSample .. => memGood_of_next (State.sample_memGood (hG := hG) ..)
  | .sensorTimeout .. => memGood_of_next (State.sensorTimeout_memGood (hG := hG) ..)
  | .thermalCapStep .. => memGood_of_next (State.capStep_memGood (hG := hG) ..)
  | .thermalShutdown .. => memGood_of_next (State.thermalShutdown_memGood (hG := hG) ..)
  | .droopTrip .. => memGood_of_next (State.droopTrip_memGood (hG := hG) ..)
  | .droopStretchEnd .. => memGood_of_next (State.droopEnd_memGood (hG := hG) ..)
  | .droopCalibration .. => memGood_of_next (State.calStart_memGood (hG := hG) ..)
  | .calibrationStepEnd .. => memGood_of_next (State.calStop_memGood (hG := hG) ..)
  | .pipDivision => memGood_of_next (State.pipDivision_memGood (hG := hG) ..)
  | .rampInterval => memGood_of_next (State.rampInterval_memGood (hG := hG) ..)
  | .domainOn .. => memGood_of_next (State.domainOn_memGood (hG := hG) ..)
  -- Faults
  | .colOverrun .. => memGood_of_next (State.colOverrun_memGood (hG := hG) ..)
  | .colTimeout .. => memGood_of_next (State.colTimeout_memGood (hG := hG) ..)
  | .colHoldTimeout .. => memGood_of_next (State.colHoldTimeout_memGood (hG := hG) ..)
  | .coreFault .. => memGood_of_next (State.coreFault_memGood (hG := hG) ..)
  | .spareCoreTest .. => memGood_of_next (State.spareTest_memGood (hG := hG) ..)
  | .dieCacheParity .. => memGood_of_next (State.cacheParity_memGood (hG := hG) ..)
  | .regulatorPhaseFailure .. => memGood_of_next (State.phaseFailure_memGood (hG := hG) ..)
  | .dieHubFault .. => memGood_of_next (State.dieHubFault_memGood (hG := hG) ..)
  | .mcFault .. => memGood_of_next (State.memFault_memGood (hG := hG) ..)
  | .d2dLinkFault .. => memGood_of_next (State.linkFault_memGood (hG := hG) ..)
  | .rngHealthFail .. => memGood_of_next (State.rngFail_memGood (hG := hG) ..)
  -- Slots, hosts and links that come back, answers and limits
  | .frameStart .. => memGood_of_next (State.frameStart_memGood (hG := hG) ..)
  | .slotBoundary .. => memGood_of_next (State.slotBoundary_memGood (hG := hG) ..)
  | .perstRelease .. => memGood_of_next (State.perstRelease_memGood (hG := hG) ..)
  | .d2dLinkRetrained .. => memGood_of_next (State.linkRetrained_memGood (hG := hG) ..)
  | .lsLocked .. => memGood_of_next (State.lsLock_memGood (hG := hG) ..)
  | .fieldPortReady => memGood_of_next (State.fieldUp_memGood (hG := hG) ..)
  | .hotSwapOpen => memGood_of_next (State.hotSwapOpen_memGood (hG := hG) ..)
  | .queuedWritesComplete .. => memGood_of_next (State.writesDone_memGood (hG := hG) ..)
  | .encapsulatedRequest .. => memGood_of_next (State.encapsulated_memGood (hG := hG) ..)
  | .spdmResponse .. => memGood_of_next (State.spdmReply_memGood (hG := hG) ..)
  | .pointExchange .. => memGood_of_next (State.pointExchange_memGood (hG := hG) ..)
  | .secureVoteTimeout .. => memGood_of_next (State.voteTimeout_memGood (hG := hG) ..)
  -- Writes of the dictionary
  | .domainEvent .. | .portModeWrite .. | .rankSet .. | .configWrite .. | .partCreate ..
  | .partActivate .. | .partReset .. | .partDestroy .. | .ctxCreate .. | .ctxTeardown ..
  | .invalidate .. | .queueConfigWrite .. | .roleMaskWrite .. | .kvConfigWrite .. | .shapeWrite ..
  | .slotTableWrite .. | .pipBudgetWrite .. | .coreMhzWrite .. | .fwApply .. | .commitSvn ..
  | .anchorWrite .. => memGood_of_next (State.writeBy_memGood (hG := hG) ..)
  | .read .. | .write .. | .writeBegin .. | .writePart .. | .writeEnd .. | .cancel .. =>
    memGood_of_next (State.dictRow_memGood (hG := hG) ..)
  | .stashTableWrite .. => memGood_of_next (by split <;> exact State.writeBy_memGood (hG := hG) ..)
  | .moduleReset .. => memGood_of_next (State.moduleResetRow_memGood (hG := hG) ..)
  | .debugToken .. | .ownerAnchor .. => memGood_of_next (State.writeIn_memGood (hG := hG) ..)

/-- Settles O4: each command's operation keeps the canonical form, and so does a nanosecond that passes, also where a reset begins
in it; taking a command from the queue touches no memory. -/
theorem everyStepKeepsMemory : Obligations.EveryStepKeepsMemory := by
  intro s t hs h
  rw [step] at h
  split at h
  next => exact memGood_of_next (idle_memGood s hs) h
  next c rest _ => exact exec_memGood { s with pending := rest } t hs c h

end Sys2Proof.Machine
end

section
/-! The memories and the data tiles (R262 to R266): a run of bytes read after its own write, and the differences of the data tiles
after a write to HBM. -/
namespace Sys2Proof.Machine

/-! ### Bytes read back -/

/-- A run of bytes reads as its bytes do one by one. -/
theorem cellsRead_eq_map (cs : List Host.Cell) (a n : Nat) :
    cellsRead cs a n = (List.range n).map fun i => cellGet cs (a + i) := by
  refine List.map_congr_left fun i hi => cellGet_filter (fun k => decide (a ≤ k) && decide (k < a + n)) cs (a + i) ?_
  have hlt : i < n := List.mem_range.1 hi
  simpa using hlt

theorem cellsRead_cellsWrite (cs : List Host.Cell) (a : Nat) (bs : Bytes) : cellsRead (cellsWrite cs a bs) a bs.length = bs := by
  rw [cellsRead_eq_map]
  refine List.ext_getElem (by simp) fun i _ hi => ?_
  simpa using cellGet_cellsWrite_in cs a bs i hi

/-! ### Differences of data tiles -/

/-- A key that a collection has lost reads the default, any other key what it had. -/
theorem mapGet_filter_key {α : Type} (d : α) (m : SMap α) (p : Nat → Bool) (k : Nat) :
    mapGet d (m.filter fun kv => p kv.1) k = if p k then mapGet d m k else d := by
  induction m with
  | nil => simp [mapGet]
  | cons e m ih =>
    obtain ⟨j, v⟩ := e
    by_cases hkj : k = j
    · subst hkj
      by_cases hp : p k <;> simp [hp, mapGet, ih]
    · by_cases hp : p j <;> simp [hp, mapGet, hkj, ih]

/-- A write to HBM makes the sums of the data tiles it covers whole match, and changes no other difference (R263). -/
theorem State.tileDelta_hbmWrite (s : State) (p dpa : Nat) (bs : Bytes) (t : Nat) :
    (s.hbmWrite p dpa bs).tileDelta t = if t ∈ wholeTiles (hbmKey p dpa) bs.length then 0 else s.tileDelta t := by
  have hkeep := mapGet_filter_key 0 s.sumDelta (fun t => !(wholeTiles (hbmKey p dpa) bs.length).contains t) t
  rw [State.tileDelta, State.hbmWrite, hkeep]
  by_cases ht : t ∈ wholeTiles (hbmKey p dpa) bs.length <;> simp [ht, State.tileDelta]

/-- Settles O8: the cells of the write read back and leave the cells beside them, and its whole data tiles lose their differences. -/
theorem hbmWrites : Obligations.HbmWrites := fun s p dpa bs =>
  ⟨cellsRead_cellsWrite s.hbm (hbmKey p dpa) bs, fun a ha => cellGet_cellsWrite_out s.hbm (hbmKey p dpa) bs a ha, rfl, rfl,
    fun t => s.tileDelta_hbmWrite p dpa bs t⟩

end Sys2Proof.Machine
end

section
/-! Corrected errors (R269, R350): the counts of a window that has ended, and a rise inside a window. -/
namespace Sys2Proof.Machine

/-! ### The end of a window -/

/-- A collection whose every value is mapped reads the value mapped, if the default maps to itself. -/
theorem mapGet_map_value {α : Type} (d : α) (m : SMap α) (f : α → α) (hd : f d = d) (k : Nat) :
    mapGet d (m.map fun kv => (kv.1, f kv.2)) k = f (mapGet d m k) := by
  induction m with
  | nil => exact hd.symm
  | cons e m ih => by_cases hk : k = e.1 <;> simp [mapGet, hk, ih]

section
variable {s : State}

/-- Within its window nothing is closed. -/
theorem State.ceRoll_of_within (h : ceWindowOf s.now ≤ s.doubler.window) : s.ceRoll = s := by
  rw [State.ceRoll, if_pos h]

/-- Past its window only dies, stacks and the number of the window differ. -/
theorem State.ceRoll_of_past (h : ¬ ceWindowOf s.now ≤ s.doubler.window) :
    s.ceRoll = { s with dies := s.ceRoll.dies, hbmStacks := s.ceRoll.hbmStacks,
                        doubler := { s.doubler with window := ceWindowOf s.now } } := by
  rw [State.ceRoll, if_neg h]

theorem State.die_ceRoll_of_past (h : ¬ ceWindowOf s.now ≤ s.doubler.window) (d : Nat) :
    s.ceRoll.die d = { s.die d with cePrev := if ceWindowOf s.now = s.doubler.window + 1 then (s.die d).ceCur else 0
                                    ceCur := 0, ceRaised := false } := by
  rw [State.ceRoll, if_neg h]
  refine mapGet_map_value {} s.dies (fun x : Die => { x with
    cePrev := if ceWindowOf s.now = s.doubler.window + 1 then x.ceCur else 0, ceCur := 0, ceRaised := false }) ?_ d
  simp only [ite_self]

theorem State.stack_ceRoll_of_past (h : ¬ ceWindowOf s.now ≤ s.doubler.window) (k : Nat) :
    s.ceRoll.stack k = { s.stack k with cePrev := if ceWindowOf s.now = s.doubler.window + 1 then (s.stack k).ceCur else 0
                                        ceCur := 0, ceRaised := false } := by
  rw [State.ceRoll, if_neg h]
  refine mapGet_map_value {} s.hbmStacks (fun x : Stack => { x with
    cePrev := if ceWindowOf s.now = s.doubler.window + 1 then x.ceCur else 0, ceCur := 0, ceRaised := false }) ?_ k
  simp only [ite_self]

/-- The roll of the window changes no entry of the dictionary and no partition's byte. -/
theorem State.cfg_ceRoll (index sub : Nat) : s.ceRoll.cfg index sub = s.cfg index sub := by
  unfold State.ceRoll
  dsimp only
  split <;> rfl

theorem State.partByte_ceRoll (d : Nat) : s.ceRoll.partByte d = s.partByte d := by
  unfold State.ceRoll
  dsimp only
  split <;> rfl

end

/-! ### A rise inside a window -/

/-- Whether a count rises for the first time in its window (R350). -/
theorem State.ceRise_first (s : State) (raised : Bool) (cur prev : Nat) :
    (!raised && s.ceRise cur prev) = true ↔ raised = false ∧ s.cfg 0x5000 8 ≤ cur ∧ 2 * prev < cur := by
  simp [State.ceRise]

theorem State.stackError_eq (s : State) (k : Nat) :
    let x := s.stack k
    let n := min (x.ceCur + 1) 0xFFFFFFFF
    let t := s.modStack k fun y => { y with ce := min (y.ce + 1) 0xFFFFFFFF, ceCur := n }
    s.stackError k = if x.ceRaised = false ∧ s.cfg 0x5000 8 ≤ n ∧ 2 * x.cePrev < n then
      ((t.modStack k fun y => { y with ceRaised := true }).event 0x0010 (partCode 3 k) (s.partByte (k / 3))
        (leBytes 4 n ++ leBytes 4 x.cePrev)).qualify else t := by
  intro x n t
  have hcount : s.stackError k = t.ceStack k := rfl
  have hstack : t.stack k = { x with ce := min (x.ce + 1) 0xFFFFFFFF, ceCur := n } := State.stack_modStack_same ..
  rw [hcount, State.ceStack, hstack]
  exact if_congr (t.ceRise_first x.ceRaised n x.cePrev) rfl rfl

theorem State.dieError_eq (s : State) (d : Nat) :
    let x := s.die d
    let n := min (x.ceCur + 1) 0xFFFFFFFF
    let t := s.modDie d fun y => { y with ceCur := n }
    s.dieError d = if x.ceRaised = false ∧ s.cfg 0x5000 8 ≤ n ∧ 2 * x.cePrev < n then
      ((t.modDie d fun y => { y with ceRaised := true }).event 0x0010 (partCode 2 d) (s.partByte d)
        (leBytes 4 n ++ leBytes 4 x.cePrev)).qualify else t := by
  intro x n t
  have hcount : s.dieError d = t.ceDie d := rfl
  have hdie : t.die d = { x with ceCur := n } := State.die_modDie_same ..
  rw [hcount, State.ceDie, hdie]
  exact if_congr (t.ceRise_first x.ceRaised n x.cePrev) rfl rfl

/-- Settles O45: a corrected error is counted in the state that the roll of the window leaves. -/
theorem correctedErrors : Obligations.CorrectedErrors := by
  intro s window closed
  have hstack (k : Nat) (hk : k < 24) : exec (.hbmCorrectedError false k) s = .next (s.ceRoll.stackError k) :=
    congrArg Host.Outcome.next (if_pos hk)
  have hdie (d : Nat) (hd : d < 8) : exec (.hbmCorrectedError true d) s = .next (s.ceRoll.dieError d) :=
    congrArg Host.Outcome.next (if_pos hd)
  refine ⟨s.ceRoll, rfl, ?frame, fun d => ?die, fun k => ?stack, fun k hk => ?stackRise, fun d hd => ?dieRise⟩
  case frame =>
    by_cases h : window ≤ s.doubler.window
    · rw [State.ceRoll_of_within h, Nat.max_eq_left h]
    · rw [Nat.max_eq_right (Nat.le_of_not_le h)]
      exact State.ceRoll_of_past h
  case die =>
    by_cases h : window ≤ s.doubler.window
    · simp [State.ceRoll_of_within h, closed, h]
    · simp only [State.die_ceRoll_of_past h, closed, if_neg h, decide_eq_false h, Bool.false_and]
      rfl
  case stack =>
    by_cases h : window ≤ s.doubler.window
    · simp [State.ceRoll_of_within h, closed, h]
    · simp only [State.stack_ceRoll_of_past h, closed, if_neg h, decide_eq_false h, Bool.false_and]
      rfl
  case stackRise =>
    intro x n t rise
    rw [hstack k hk, State.stackError_eq, State.cfg_ceRoll, State.partByte_ceRoll]
    exact ⟨fun h => congrArg Host.Outcome.next (if_neg h), fun h => congrArg Host.Outcome.next (if_pos h)⟩
  case dieRise =>
    intro x n t rise
    rw [hdie d hd, State.dieError_eq, State.cfg_ceRoll, State.partByte_ceRoll]
    exact ⟨fun h => congrArg Host.Outcome.next (if_neg h), fun h => congrArg Host.Outcome.next (if_pos h)⟩

end Sys2Proof.Machine
end

section
/-! Sensors and temperatures (R271, R350, R396, R423): the log's latest records, what a qualifying event and a capped die leave alone,
and what the consumers of a filtered reading become. -/
namespace Sys2Proof.Machine

/-! ### The latest records of the log -/

/-- The newest k records of the log. -/
def State.latest (s : State) (k : Nat) : List LogRec := s.log.recs.reverse.take k

theorem State.mem_recs_of_latest {s : State} {k : Nat} {r : LogRec} (h : r ∈ s.latest k) : r ∈ s.log.recs :=
  List.mem_reverse.1 (List.mem_of_mem_take h)

theorem State.latest_mono (s : State) {j k : Nat} (h : j ≤ k) : s.latest j ⊆ s.latest k :=
  (List.take_subset_take_left _ h)

/-- A written record is the newest, and the log keeps the 16,383 before it. -/
theorem State.latest_event (s : State) (cls pt p : Nat) (detail : Bytes) {k : Nat} (hk : k < 16384) :
    (s.event cls pt p detail).latest (k + 1) =
      { seq := s.log.next, time := s.now, cls := cls, part := pt, p := p, detail := detail } :: s.latest k := by
  rw [State.latest, State.event, List.reverse_drop, List.take_take, List.reverse_append, List.reverse_singleton,
    List.singleton_append, State.latest, ← List.take_succ_cons, List.take_eq_take_iff]
  simp only [List.length_append, List.length_cons, List.length_nil, List.length_reverse]
  omega

/-! ### Qualifying events (R351) -/

theorem State.qualify_frame (s : State) :
    s.qualify = { s with ctxs := s.qualify.ctxs, log := s.qualify.log, doubler := s.qualify.doubler } := by
  unfold State.qualify
  dsimp only
  split <;> rfl

theorem State.risk_qualify (s : State) : s.qualify.doubler.risk = min 64 (2 * s.doubler.risk) := by
  unfold State.qualify
  dsimp only
  split <;> rfl

/-- At most one record follows a qualifying event. -/
theorem State.latest_qualify (s : State) {k : Nat} (hk : k < 16384) : s.latest k ⊆ s.qualify.latest (k + 1) := by
  unfold State.qualify
  dsimp only
  split
  · intro r hr
    exact (State.latest_event _ _ _ _ _ hk).symm ▸ List.mem_cons_of_mem _ hr
  · exact s.latest_mono (Nat.le_succ k)

theorem State.die_qualify (s : State) (d : Nat) : s.qualify.die d = s.die d := by rw [s.qualify_frame]; rfl

theorem State.stack_qualify (s : State) (k : Nat) : s.qualify.stack k = s.stack k := by rw [s.qualify_frame]; rfl

theorem State.pwr_qualify (s : State) : s.qualify.pwr = s.pwr := by rw [s.qualify_frame]

/-! ### A die capped at once (R423) -/

/-- Only cores and the pips granted on dies differ. -/
structure OnlyGrants (s t : State) : Prop where
  frame : t = { s with cores := t.cores, dies := t.dies }
  die : ∀ d, t.die d = { s.die d with granted := (t.die d).granted }

theorem OnlyGrants.refl (s : State) : OnlyGrants s s := ⟨rfl, fun _ => rfl⟩

theorem OnlyGrants.trans {s t u : State} (h : OnlyGrants s t) (k : OnlyGrants t u) : OnlyGrants s u where
  frame := calc
    u = { t with cores := u.cores, dies := u.dies } := k.frame
    _ = { s with cores := u.cores, dies := u.dies } := by rw [h.frame]
  die d := calc
    u.die d = { t.die d with granted := (u.die d).granted } := k.die d
    _ = { s.die d with granted := (u.die d).granted } := by rw [h.die d]

theorem State.onlyGrants_modDie (s : State) (d : Nat) (f : Die → Die)
    (h : f (s.die d) = { s.die d with granted := (f (s.die d)).granted }) : OnlyGrants s (s.modDie d f) where
  frame := rfl
  die k := by
    by_cases hk : k = d
    · rwa [hk, State.die_modDie_same]
    · rw [State.die_modDie_ne _ _ _ _ hk]

theorem State.onlyGrants_lowerGrant (s : State) (mhz c : Nat) : OnlyGrants s (s.lowerGrant mhz c) := by
  unfold State.lowerGrant
  cases (s.core c).tile with
  | none => exact OnlyGrants.refl s
  | some t =>
    have hcore (f : Core → Core) : OnlyGrants s (s.modCore c f) := ⟨rfl, fun _ => rfl⟩
    dsimp only
    split
    · exact (hcore _).trans (State.onlyGrants_modDie _ _ _ rfl)
    · exact hcore _

/-- The grants of a die's cores lowered one after another. -/
theorem State.onlyGrants_lowerAll (s : State) (d : Nat) (l : List Nat) :
    OnlyGrants s (l.foldl (fun s c => s.lowerGrant (s.clockOf d) c) s) :=
  List.foldlRecOn l _ (OnlyGrants.refl s) fun _ ht c _ => ht.trans (State.onlyGrants_lowerGrant _ _ c)

/-- At 110 degrees a die is capped at 500 MHz with its alert, and besides only grants differ. -/
theorem State.emergency_effect (s : State) (d : Nat) :
    s.emergency d = { s with cores := (s.emergency d).cores, dies := (s.emergency d).dies } ∧
      (s.emergency d).die d = { s.die d with cap := 500, alert := true, granted := ((s.emergency d).die d).granted } := by
  have hlower := (s.modDie d fun x => { x with cap := 500, alert := true }).onlyGrants_lowerAll d (coresOfDie d)
  refine ⟨hlower.frame, ?_⟩
  have hdie := hlower.die d
  rwa [State.die_modDie_same] at hdie

/-! ### Readings of dies -/

/-- A die's reading as its consumers keep it, before the cap acts. -/
def Die.reads (x : Die) (now : Nat) (t : Int) : Die :=
  { x with temp := t, hotSince := hotFrom x.hotSince now t, alert := x.alert && decide (97000 ≤ t) }

theorem State.dieTemp_effect (s : State) (d : Nat) (t : Int) :
    s.dieTemp d t = { s with cores := (s.dieTemp d t).cores, dies := (s.dieTemp d t).dies } ∧
      (t < 110000 → (s.dieTemp d t).die d = (s.die d).reads s.now t) ∧
      (110000 ≤ t → (s.dieTemp d t).die d =
        { (s.die d).reads s.now t with cap := 500, alert := true, granted := ((s.dieTemp d t).die d).granted }) := by
  rw [State.dieTemp]
  by_cases ht : 110000 ≤ t
  · obtain ⟨hframe, hdie⟩ := (s.modDie d fun x => x.reads s.now t).emergency_effect d
    rw [State.die_modDie_same] at hdie
    rw [if_pos ht]
    exact ⟨hframe, fun h => absurd ht (not_le.2 h), fun _ => hdie⟩
  · rw [if_neg ht]
    exact ⟨rfl, fun _ => State.die_modDie_same .., fun h => absurd h ht⟩

/-- The margin of a die arms or disarms, and besides only contexts, the log and the Doubler differ. -/
theorem State.die_dieMargin (s : State) (d : Nat) (t : Int) :
    ∃ armed, (s.dieMargin d t).die d = { s.die d with marginArmed := armed } := by
  unfold State.dieMargin
  split
  · exact ⟨false, (State.die_qualify _ d).trans ((State.event_die_read ..).trans (State.die_modDie_same ..))⟩
  · split
    · exact ⟨true, State.die_modDie_same ..⟩
    · exact ⟨_, rfl⟩

theorem hotFrom_cool {t : Int} (h : t < 115000) (since : Option Nat) (now : Nat) : hotFrom since now t = none :=
  if_neg (not_le.2 h)

theorem hotFrom_hot {t : Int} (h : 115000 ≤ t) (since : Option Nat) (now : Nat) : hotFrom since now t = some (since.getD now) :=
  if_pos h

/-! ### Readings of stacks (R271) -/

theorem thermalRaw_le (m : Int) : thermalRaw m ≤ 3 := by
  unfold thermalRaw
  split_ifs <;> omega

/-- A reading is not below the bound of the state it lies in. -/
theorem thermalFloor_raw_le {m : Int} (h : 0 < thermalRaw m) : thermalFloor (thermalRaw m) ≤ m := by
  unfold thermalRaw at h ⊢
  split_ifs at h ⊢ with h3 h2 h1
  · exact h3
  · exact h2
  · exact h1
  · exact absurd h (Nat.lt_irrefl 0)

/-- A thermal state rises at once. -/
theorem thermalNext_of_le {m : Int} {old : Nat} (h : old ≤ thermalRaw m) : thermalNext m old = thermalRaw m := by
  cases old with
  | zero => rfl
  | succ st =>
    rcases Nat.lt_or_eq_of_le h with hlt | heq
    · rw [thermalNext, if_pos hlt]
    · have hfloor := thermalFloor_raw_le (m := m) (by omega)
      rw [thermalNext, if_neg (by omega), if_neg (by rw [heq]; omega), heq]

/-- A thermal state falls past each state whose bound less 3 degrees the reading has reached, and no further. -/
theorem thermalNext_of_lt {m : Int} {old : Nat} (h : thermalRaw m < old) :
    thermalRaw m ≤ thermalNext m old ∧ thermalNext m old ≤ old ∧
      (thermalNext m old = thermalRaw m ∨ thermalFloor (thermalNext m old) - 3000 < m) ∧
      ∀ n, thermalNext m old < n → n ≤ old → m ≤ thermalFloor n - 3000 := by
  induction old with
  | zero => exact absurd h (Nat.not_lt_zero _)
  | succ st ih =>
    rw [thermalNext, if_neg (by omega)]
    by_cases hfall : m ≤ thermalFloor (st + 1) - 3000
    · rw [if_pos hfall]
      rcases Nat.lt_or_eq_of_le (Nat.le_of_lt_succ h) with hlt | heq
      · obtain ⟨hraw, hst, hstop, hpast⟩ := ih hlt
        refine ⟨hraw, Nat.le_succ_of_le hst, hstop, fun n hn hle => ?_⟩
        rcases Nat.lt_or_eq_of_le hle with hn' | rfl
        · exact hpast n hn (Nat.le_of_lt_succ hn')
        · exact hfall
      · rw [thermalNext_of_le heq.ge]
        refine ⟨le_rfl, h.le, .inl rfl, fun n hn hle => ?_⟩
        obtain rfl : n = st + 1 := by omega
        exact hfall
    · rw [if_neg hfall]
      exact ⟨h.le, le_rfl, .inr (not_le.1 hfall), fun n hn hle => absurd (hn.trans_le hle) (Nat.lt_irrefl _)⟩

/-- A stack in its new thermal state; only where it rises to 2 or 3, and where that counts, does the event qualify. -/
theorem State.stack_setThermal (s : State) (k new : Nat) (t : Int) (counts : Bool) :
    ∃ draining, (s.setThermal k new t counts).stack k = { s.stack k with thermal := new, draining := draining } := by
  unfold State.setThermal
  dsimp only
  split
  next h => exact ⟨_, by rw [h]⟩
  next =>
    refine ⟨(s.stack k).draining || new == 3, ?_⟩
    have hstack := (State.event_stack_read _ evStackThermal (partCode 3 k) (s.partByte (dieOfStack k))
      (BitVec.ofNat 8 new :: leBytes 4 (f32Milli t).toNat) k).trans (s.stack_modStack_same k fun x =>
        { x with thermal := new, draining := x.draining || new == 3 })
    split
    · exact (State.stack_qualify _ k).trans hstack
    · exact hstack

/-- A stack's reading as its consumers keep it. -/
theorem State.stack_stackTemp (s : State) (k : Nat) (t : Int) :
    ∃ draining, (s.stackTemp k t).stack k =
      { s.stack k with temp := t, hotSince := hotFrom (s.stack k).hotSince s.now t
                       thermal := thermalNext t (s.stack k).thermal, draining := draining } := by
  obtain ⟨draining, h⟩ := (s.modStack k fun x => { x with temp := t, hotSince := hotFrom x.hotSince s.now t }).stack_setThermal k
    (thermalNext t (s.stack k).thermal) t true
  rw [State.stack_modStack_same] at h
  exact ⟨draining, h⟩

/-! ### Sensors that fail (R396) -/

/-- A sensor is one of its kind and number, told apart by equality. -/
theorem find_upsert {α β : Type} [BEq α] [LawfulBEq α] (a : α) (b : β) (l : List (α × β)) :
    (upsert (fun y => y.1 == a) (a, b) l).find? (fun y => y.1 == a) = some (a, b) := by
  unfold upsert
  split
  next h =>
    obtain ⟨y, hy, hya⟩ := List.any_eq_true.1 h
    induction l with
    | nil => exact absurd hy List.not_mem_nil
    | cons z l ih =>
      by_cases hz : z.1 == a
      · simp [hz]
      · have hyl : y ∈ l := (List.mem_cons.1 hy).resolve_left fun he => hz (he ▸ hya)
        simpa [hz] using ih (List.any_eq_true.2 ⟨y, hyl, hya⟩) hyl
  next h =>
    have hnone : l.find? (fun y => y.1 == a) = none := List.find?_eq_none.2 fun y hy hya => h (List.any_eq_true.2 ⟨y, hy, hya⟩)
    rw [List.find?_append, hnone]
    simp

theorem State.sensorSt_setSensor (s : State) (x : Sensor) (v : SensorSt) : (s.setSensor x v).sensorSt x = v := by
  simp only [State.sensorSt, State.setSensor, State.modPwr, find_upsert]

theorem State.sensorSt_of_pwr {s t : State} (h : t.pwr = s.pwr) (x : Sensor) : t.sensorSt x = s.sensorSt x := by
  rw [State.sensorSt, State.sensorSt, h]

/-- The consumers of a failed sensor leave power and the Doubler alone and write at most one record. -/
structure Restricts (s t : State) : Prop where
  pwr : t.pwr = s.pwr
  doubler : t.doubler = s.doubler
  latest : ∀ k < 16384, s.latest k ⊆ t.latest (k + 1)

theorem Restricts.of_log {s t : State} (hp : t.pwr = s.pwr) (hd : t.doubler = s.doubler) (hl : t.log = s.log) : Restricts s t :=
  ⟨hp, hd, fun k _ => by rw [State.latest, State.latest, hl]; exact s.latest_mono (Nat.le_succ k)⟩

theorem State.restricts_setThermal (s : State) (k new : Nat) (t : Int) : Restricts s (s.setThermal k new t false) := by
  unfold State.setThermal
  dsimp only
  split
  · exact .of_log rfl rfl rfl
  · refine ⟨rfl, rfl, fun j hj r hr => ?_⟩
    exact (State.latest_event _ _ _ _ _ hj).symm ▸ List.mem_cons_of_mem _ hr

theorem State.restricts_consumeFailed (s : State) (x : Sensor) : Restricts s (s.consumeFailed x) := by
  cases x with
  | dieTemp d =>
    by_cases hd : d = 8
    · rw [State.consumeFailed, if_pos hd]
      exact .of_log rfl rfl rfl
    · have hframe := (s.dieTemp_effect d 150000).1
      rw [State.consumeFailed, if_neg hd]
      generalize s.dieTemp d 150000 = u at hframe
      have hpwr : u.pwr = s.pwr := by rw [hframe]
      have hdoubler : u.doubler = s.doubler := by rw [hframe]
      have hlog : u.log = s.log := by rw [hframe]
      exact .of_log hpwr hdoubler hlog
  | stackTemp k =>
    have h := (s.modStack k fun y => { y with temp := 150000 }).restricts_setThermal k 3 150000
    exact ⟨h.pwr, h.doubler, h.latest⟩
  | domTemp _ | domVolt _ | domCurr _ => exact .of_log rfl rfl rfl

/-- A sensor that fails reads so, doubles RISK and leaves its record in the log. -/
theorem State.sensorFailed_effect (s : State) (x : Sensor) (cause : Nat) :
    ((s.sensorFailed x cause).sensorSt x).failed = true ∧
      (s.sensorFailed x cause).doubler.risk = min 64 (2 * s.doubler.risk) ∧
      ∃ r ∈ (s.sensorFailed x cause).log.recs, r.seq = s.log.next ∧ r.cls = 0x0048 ∧ r.part = (sensorPart x).1 ∧
        r.detail = [BitVec.ofNat 8 (sensorPart x).2, BitVec.ofNat 8 cause] := by
  let marked := s.setSensor x { s.sensorSt x with failed := true }
  let told := marked.event evSensorFailed (sensorPart x).1 (marked.sensorByte x)
    [BitVec.ofNat 8 (sensorPart x).2, BitVec.ofNat 8 cause]
  have hconsume := told.qualify.restricts_consumeFailed x
  refine ⟨?_, ?_, ?_⟩
  · have hpwr : (s.sensorFailed x cause).pwr = marked.pwr := hconsume.pwr.trans told.pwr_qualify
    rw [State.sensorSt_of_pwr hpwr x]
    exact congrArg SensorSt.failed (s.sensorSt_setSensor x _)
  · exact (congrArg Doubler.risk hconsume.doubler).trans told.risk_qualify
  · have hnew := marked.latest_event evSensorFailed (sensorPart x).1 (marked.sensorByte x)
      [BitVec.ofNat 8 (sensorPart x).2, BitVec.ofNat 8 cause] (k := 0) (by norm_num)
    have hqualified := told.latest_qualify (k := 1) (by norm_num) (hnew.symm ▸ List.mem_cons_self)
    exact ⟨_, State.mem_recs_of_latest (hconsume.latest 2 (by norm_num) hqualified), rfl, rfl, rfl, rfl⟩

/-- Capped, a die whose sensor has failed counts as at the top of the range (log 38). -/
theorem State.die_sensorFailed (s : State) {d : Nat} (hd : d < 8) (cause : Nat) :
    ((s.sensorFailed (.dieTemp d) cause).die d).cap = 500 ∧ ((s.sensorFailed (.dieTemp d) cause).die d).temp = 150000 := by
  unfold State.sensorFailed
  dsimp only
  generalize State.qualify _ = u
  have hdie := (u.dieTemp_effect d 150000).2.2 (by norm_num)
  rw [State.consumeFailed, if_neg (by omega), State.die_modDie_same, hdie]
  exact ⟨rfl, rfl⟩

end Sys2Proof.Machine
end

section
/-! The shutdown of R441: what stopping units, ports and domains leaves of HBM, of the ports and of the domains. -/
namespace Sys2Proof.Machine

/-! ### A port that sends stays in its state -/

section
variable (x : Port) (e : LinkEnv)

theorem Port.st_flushFor (n : Nat) : (Port.flushFor e n x).st = x.st := by
  induction n generalizing x with
  | zero => rfl
  | succ n ih =>
    rw [Port.flushFor]
    split
    · exact ih _
    · rfl

theorem Port.st_drainCtl (l : List Ctl) : (Port.drainCtl e l x).st = x.st := by
  induction l generalizing x with
  | nil => rfl
  | cons m l ih =>
    rw [Port.drainCtl]
    split
    · rfl
    · exact ih _

theorem Port.st_sendFlit (k : TxPkt) (shared : Bool) : (x.sendFlit e k shared).1.st = x.st := by
  unfold Port.sendFlit
  dsimp only
  split <;> rfl

theorem Port.st_pumpFor (n : Nat) (l : List (Nat × Nat × Nat)) : (Port.pumpFor e n x l).1.st = x.st := by
  induction n generalizing x l with
  | zero => rfl
  | succ n ih =>
    rw [Port.pumpFor]
    split
    · rfl
    · split
      · rfl
      · exact (ih _ _).trans (x.st_sendFlit e _ _)

theorem Port.st_idle : (x.idle e).st = x.st := rfl

theorem Port.st_pump : (x.pump e).1.st = x.st := by
  have hsent := (Port.st_pumpFor (Port.drainCtl e x.ctlq x) e 1024 []).trans (x.st_drainCtl e x.ctlq)
  have hflushed : ((Port.pumpFor e 1024 (Port.drainCtl e x.ctlq x) []).1.flush e).st = x.st :=
    (Port.st_flushFor _ e 16).trans hsent
  rw [Port.pump, Port.fillIdle]
  dsimp only
  generalize (Port.pumpFor e 1024 (Port.drainCtl e x.ctlq x) []).1.flush e = flushed at hflushed ⊢
  split
  · rw [Port.st_idle, hflushed]
  · exact hflushed

end

/-! ### HBM and the states of ports -/

/-- HBM and the state of every port are as before. -/
structure KeepsPorts (s t : State) : Prop where
  hbm : t.hbm = s.hbm
  st : ∀ p, (t.port p).st = (s.port p).st

theorem KeepsPorts.refl (s : State) : KeepsPorts s s := ⟨rfl, fun _ => rfl⟩

theorem KeepsPorts.trans {s t u : State} (h : KeepsPorts s t) (k : KeepsPorts t u) : KeepsPorts s u :=
  ⟨k.hbm.trans h.hbm, fun p => (k.st p).trans (h.st p)⟩

theorem KeepsPorts.foldl {α : Type} (f : State → α → State) (h : ∀ s a, KeepsPorts s (f s a)) (s : State) (l : List α) :
    KeepsPorts s (l.foldl f s) :=
  List.foldlRecOn l f (KeepsPorts.refl s) fun t ht a _ => ht.trans (h t a)

section
variable (s : State)

theorem State.keepsPorts_modPort (p : Nat) (f : Port → Port) (h : (f (s.port p)).st = (s.port p).st) : KeepsPorts s (s.modPort p f) := by
  refine ⟨rfl, fun k => ?_⟩
  by_cases hk : k = p
  · rwa [hk, State.port_modPort_same]
  · rw [State.port_modPort_ne _ _ _ _ hk]

theorem State.keepsPorts_freeBuffer (p vc n : Nat) : KeepsPorts s (s.freeBuffer p vc n) := by
  unfold State.freeBuffer
  split
  · exact KeepsPorts.refl s
  · refine s.keepsPorts_modPort p _ ?_
    split
    · exact Port.st_flushFor _ _ _
    · rfl

theorem State.keepsPorts_pump (p : Nat) : KeepsPorts s (s.pump p) := by
  unfold State.pump
  split
  · exact (s.keepsPorts_modPort p _ (Port.st_pump _ _)).trans (KeepsPorts.foldl _ (fun s f => s.keepsPorts_freeBuffer _ _ _) _ _)
  · exact KeepsPorts.refl s

theorem State.keepsPorts_endTx (no : Nat) (st : TxState) : KeepsPorts s (s.endTx no st) := by
  have hport (p : Nat) (f : List TxPkt → List TxPkt) : KeepsPorts s (s.modPort p fun x => { x with txq := f x.txq }) :=
    s.keepsPorts_modPort p _ rfl
  unfold State.endTx
  split
  · exact KeepsPorts.refl s
  · split
    · exact KeepsPorts.refl s
    · split
      · dsimp only
        split
        · exact ((hport _ _).trans (State.keepsPorts_freeBuffer _ _ _ _)).trans (State.keepsPorts_pump _ _)
        · exact (hport _ _).trans (State.keepsPorts_pump _ _)
      · exact (hport _ _).trans (State.keepsPorts_pump _ _)

theorem State.keepsPorts_resendOn (ports : List Nat) (k : TxPkt) : KeepsPorts s (s.resendOn ports k) := by
  unfold State.resendOn
  split
  · split
    · exact s.keepsPorts_freeBuffer _ _ _
    · exact KeepsPorts.refl s
  · exact KeepsPorts.trans (s.keepsPorts_modPort _ _ rfl) (State.keepsPorts_pump _ _)

theorem State.keepsPorts_forgetSrc (p : Nat) : KeepsPorts s (s.forgetSrc p) :=
  ⟨rfl, fun k => by
    rw [State.port, State.port, State.forgetSrc]
    refine mapGet_map_same {} s.ports _ Port.st (fun kv => ?_) (fun kv => ?_) k <;> rfl⟩

/-- A port that is dropped is in its new state, every other as it was. -/
theorem State.dropPort_effect (p : Nat) (st : PortState) :
    (s.dropPort p st).hbm = s.hbm ∧ ∀ k, ((s.dropPort p st).port k).st = if k = p then st else (s.port k).st := by
  unfold State.dropPort
  extract_lets broken again fallen peers
  have hbroken : KeepsPorts s broken := KeepsPorts.foldl _ (fun s no => s.keepsPorts_endTx no .broken) s _
  clear_value broken
  have hforgot := State.keepsPorts_forgetSrc ((broken.resetDale (176 + p)).modPort p fun x => x.fall st broken.now) p
  have hresent (f : TxPkt → TxPkt) : KeepsPorts fallen (again.foldl (fun s k => s.resendOn peers (f k)) fallen) :=
    KeepsPorts.foldl _ (fun s k => s.keepsPorts_resendOn peers (f k)) fallen again
  have hfallen (k : Nat) : (fallen.port k).st = (((broken.resetDale (176 + p)).modPort p fun x => x.fall st broken.now).port k).st :=
    hforgot.st k
  have hhbm : fallen.hbm = broken.hbm := (State.modSec_hbm _ _).trans hforgot.hbm
  clear_value fallen
  refine ⟨(hresent _).hbm.trans (hhbm.trans hbroken.hbm), fun k => ((hresent _).st k).trans ((hfallen k).trans ?_)⟩
  by_cases hk : k = p
  · rw [hk, State.port_modPort_same, if_pos rfl]
    rfl
  · rw [State.port_modPort_ne _ _ _ _ hk, if_neg hk]
    exact hbroken.st k

/-! ### Units stopped -/

theorem State.keepsPorts_freeCore (c : Nat) : KeepsPorts s (s.freeCore c) := by
  unfold State.freeCore
  split
  · exact KeepsPorts.refl s
  · exact ⟨rfl, fun _ => rfl⟩

theorem State.keepsPorts_endCal (c : Nat) : KeepsPorts s (s.endCal c) := by
  unfold State.endCal
  split
  · exact KeepsPorts.refl s
  · exact ⟨rfl, fun _ => rfl⟩

theorem State.keepsPorts_modCore (c : Nat) (f : Core → Core) : KeepsPorts s (s.modCore c f) := ⟨rfl, fun _ => rfl⟩

theorem State.keepsPorts_modDie (d : Nat) (f : Die → Die) : KeepsPorts s (s.modDie d f) := ⟨rfl, fun _ => rfl⟩

theorem State.keepsPorts_resetDale (n : Nat) : KeepsPorts s (s.resetDale n) := ⟨rfl, fun _ => rfl⟩

theorem State.keepsPorts_modFab (f : Fabric → Fabric) : KeepsPorts s (s.modFab f) := ⟨rfl, fun _ => rfl⟩

theorem State.keepsPorts_haltCore (c : Nat) : KeepsPorts s (s.haltCore c) :=
  ((s.keepsPorts_freeCore c).trans (State.keepsPorts_endCal _ c)).trans (State.keepsPorts_modCore _ c _)

theorem State.keepsPorts_resetDies (p : Nat) : KeepsPorts s (s.resetDies p) := by
  have hcore (s : State) (c : Nat) : KeepsPorts s ((s.haltCore c).resetDale c) :=
    (s.keepsPorts_haltCore c).trans (State.keepsPorts_resetDale _ c)
  have hdie (s : State) (d : Nat) (f : Die → Die) :
      KeepsPorts s (((coresOfDie d).foldl (fun s c => (s.haltCore c).resetDale c) s).modDie d f) :=
    (KeepsPorts.foldl _ hcore s _).trans (State.keepsPorts_modDie _ d f)
  rw [State.resetDies]
  refine KeepsPorts.trans (KeepsPorts.foldl _ (fun s d => ?_) s (s.diesOf p)) (State.keepsPorts_modFab _ _)
  exact hdie s d _

theorem State.keepsPorts_stopUnits (p : Nat) : KeepsPorts s (s.stopUnits p) := by
  have hstack (s : State) (k : Nat) (f : Stack → Stack) : KeepsPorts s ((s.resetDale (152 + k)).modStack k f) := ⟨rfl, fun _ => rfl⟩
  exact (s.keepsPorts_resetDies p).trans (KeepsPorts.foldl _ (fun s k => hstack s k _) _ _)

/-! ### Domains switched off -/

theorem State.resetDomain_frame (n : Nat) :
    s.resetDomain n = { s with pwr := { s.pwr with dales := (s.resetDomain n).pwr.dales } } := by
  refine List.foldlRecOn (motive := fun t : State => t = { s with pwr := { s.pwr with dales := t.pwr.dales } }) _ _ rfl ?_
  intro t ht d _
  rw [ht]
  rfl

theorem State.powerAll_off_frame (ns : List Nat) :
    s.powerAll ns false =
      { s with pwr := { s.pwr with dales := (s.powerAll ns false).pwr.dales, domains := (s.powerAll ns false).pwr.domains } } := by
  refine List.foldlRecOn (motive := fun t : State =>
    t = { s with pwr := { s.pwr with dales := t.pwr.dales, domains := t.pwr.domains } }) ns _ rfl ?_
  intro t ht n _
  simp only [Bool.false_eq_true, if_false]
  rw [State.powerOff, State.modDomain, State.modPwr, t.resetDomain_frame n, ht]

theorem State.domain_powerOff (n m : Nat) :
    (s.powerOff n).domain m =
      if m = n ∧ (s.domain m).st ≠ 3 then { s.domain m with st := 0, admitted := 0 } else s.domain m := by
  have hdomain : (s.resetDomain n).domain m = s.domain m := by rw [s.resetDomain_frame n]; rfl
  by_cases hm : m = n
  · subst hm
    rw [State.powerOff, State.domain_modDomain_same, hdomain]
    by_cases hst : (s.domain m).st = 3 <;> simp [hst]
  · rw [State.powerOff, State.domain_modDomain_ne _ _ _ _ hm, hdomain, if_neg fun h => hm h.1]

/-- Domains switched off one after another read OFF, or FAILED where they have failed. -/
theorem State.domain_powerAll_off (ns : List Nat) {n : Nat} (h : (s.domain n).st = 0 ∨ (s.domain n).st = 3 ∨ n ∈ ns) :
    ((s.powerAll ns false).domain n).st = 0 ∨ ((s.powerAll ns false).domain n).st = 3 := by
  induction ns generalizing s with
  | nil => simpa [State.powerAll] using h
  | cons m ns ih =>
    refine ih (s.powerOff m) ?_
    rw [State.domain_powerOff]
    by_cases hm : n = m ∧ (s.domain n).st ≠ 3
    · rw [if_pos hm]
      exact .inl rfl
    · rw [if_neg hm]
      rcases h with h0 | h3 | hmem
      · exact .inl h0
      · exact .inr (.inl h3)
      · rcases List.mem_cons.1 hmem with hnm | htail
        · exact .inr (.inl (by_contra fun h3 => hm ⟨hnm, h3⟩))
        · exact .inr (.inr htail)

/-! ### The shutdown -/

/-- A port going DOWN unless it is OFF. -/
def State.dropIfOn (s : State) (p : Nat) : State := if (s.port p).st = .off then s else s.dropPort p .down

theorem State.dropIfOn_effect (p : Nat) :
    (s.dropIfOn p).hbm = s.hbm ∧
      ∀ k, ((s.dropIfOn p).port k).st = if k = p ∧ (s.port k).st ≠ .off then .down else (s.port k).st := by
  unfold State.dropIfOn
  split
  next h =>
    refine ⟨rfl, fun k => (if_neg ?_).symm⟩
    rintro ⟨rfl, hk⟩
    exact hk h
  next h =>
    refine ⟨(s.dropPort_effect p .down).1, fun k => ((s.dropPort_effect p .down).2 k).trans ?_⟩
    by_cases hk : k = p
    · subst hk
      rw [if_pos rfl, if_pos ⟨rfl, h⟩]
    · rw [if_neg hk, if_neg fun h => hk h.1]

/-- Ports taken DOWN one after another are not live, and HBM is as before. -/
theorem State.dropAll_effect (l : List Nat) :
    (l.foldl State.dropIfOn s).hbm = s.hbm ∧
      ∀ p, p ∈ l ∨ (s.port p).live = false → ((l.foldl State.dropIfOn s).port p).live = false := by
  induction l generalizing s with
  | nil => exact ⟨rfl, fun p hp => hp.resolve_left List.not_mem_nil⟩
  | cons q l ih =>
    obtain ⟨hhbm, hst⟩ := s.dropIfOn_effect q
    obtain ⟨hrest, hdead⟩ := ih (s.dropIfOn q)
    refine ⟨hrest.trans hhbm, fun p hp => hdead p ?_⟩
    by_cases hpq : p = q ∧ (s.port p).st ≠ .off
    · exact .inr (by rw [Port.live, hst p, if_pos hpq]; rfl)
    · rcases hp with hmem | hlive
      · rcases List.mem_cons.1 hmem with heq | htail
        · have hoff : (s.port p).st = .off := by_contra fun h => hpq ⟨heq, h⟩
          exact .inr (by rw [Port.live, hst p, if_neg hpq, hoff]; rfl)
        · exact .inl htail
      · exact .inr (by rw [Port.live, hst p, if_neg hpq]; exact hlive)

/-- The module after its ports have gone DOWN, before its domains are switched off. -/
def State.portsDown (s : State) : State :=
  (List.range 32).foldl State.dropIfOn
    (((List.range s.partCount).foldl (fun s p => s.stopUnits p) s).modFab fun f => { f with handed := [] })

theorem State.portsDown_effect : (∀ p, p < 32 → (s.portsDown.port p).live = false) ∧ s.portsDown.hbm = s.hbm := by
  have hstopped : KeepsPorts s ((List.range s.partCount).foldl (fun s p => s.stopUnits p) s) :=
    KeepsPorts.foldl _ (fun s p => s.keepsPorts_stopUnits p) s _
  rw [State.portsDown]
  generalize (List.range s.partCount).foldl (fun s p => s.stopUnits p) s = stopped at hstopped ⊢
  obtain ⟨hhbm, hdead⟩ := (stopped.modFab fun f => { f with handed := [] }).dropAll_effect (List.range 32)
  exact ⟨fun p hp => hdead p (.inl (List.mem_range.2 hp)), hhbm.trans hstopped.hbm⟩

/-- Both host interfaces without their links. -/
def State.hostsCut (s : State) : State :=
  [0, 1].foldl (fun s h => s.modHif h fun i =>
    { i with ready := false, linkUp := false, speed := 0, width := 0, msixOn := false }) s

theorem State.keepsPorts_hostsCut : KeepsPorts s s.hostsCut := ⟨rfl, fun _ => rfl⟩

/-- The mark of the shutdown. -/
def State.markDark (s : State) : State := s.modPwr fun w => { w with shutdown := true, ledgerOn := false }

theorem State.darken_eq : s.darken = (s.portsDown.hostsCut.powerAll (List.range 186) false).markDark := rfl

theorem State.keepsPorts_markDark : KeepsPorts s s.markDark := ⟨rfl, fun _ => rfl⟩

theorem State.domain_markDark (n : Nat) : s.markDark.domain n = s.domain n := rfl

theorem State.markDark_marks : s.markDark.pwr.shutdown = true ∧ s.markDark.pwr.ledgerOn = false := ⟨rfl, rfl⟩

/-- Domains switched off leave the ports and HBM alone. -/
theorem State.keepsPorts_powerAll_off (ns : List Nat) : KeepsPorts s (s.powerAll ns false) := by
  rw [s.powerAll_off_frame ns]
  exact ⟨rfl, fun _ => rfl⟩

/-- What the thermal shutdown leaves. -/
theorem State.darken_effect :
    s.darken.pwr.shutdown = true ∧ s.darken.pwr.ledgerOn = false ∧
      (∀ n, n < 186 → (s.darken.domain n).st = 0 ∨ (s.darken.domain n).st = 3) ∧
      (∀ p, p < 32 → (s.darken.port p).live = false) ∧ s.darken.hbm = s.hbm := by
  obtain ⟨hdead, hhbm⟩ := s.portsDown_effect
  have hkept := (s.portsDown.keepsPorts_hostsCut.trans (State.keepsPorts_powerAll_off _ (List.range 186))).trans
    (State.keepsPorts_markDark _)
  rw [State.darken_eq]
  refine ⟨(State.markDark_marks _).1, (State.markDark_marks _).2, fun n hn => ?_, fun p hp => ?_, hkept.hbm.trans hhbm⟩
  · rw [State.domain_markDark]
    exact State.domain_powerAll_off _ _ (.inr (.inr (List.mem_range.2 hn)))
  · rw [Port.live, hkept.st p]
    exact hdead p hp

end

end Sys2Proof.Machine
end

section
/-! The rows of sensors, of the thermal cap and of the shutdown (R271, R396, R423, R441). -/
namespace Sys2Proof.Machine

/-! ### Samples (R396) -/

/-- A sensor with the samples it keeps. -/
def SensorSt.keeping (y : SensorSt) (l : List Int) (now : Nat) : SensorSt := { y with samples := l, lastAt := now }

section
variable {s : State} {x : Sensor} (reading rating : Int)

/-- No sample is taken unpowered, of a sensor that does not exist, or of one that has failed. -/
theorem State.sample_of_dead (h : s.pwr.good = false ∨ sensorExists x = false ∨ (s.sensorSt x).failed = true) :
    s.sample x reading rating = s := by
  rw [State.sample, if_pos]
  rcases h with h | h | h <;> simp [h]

variable (hlive : ¬ (s.pwr.good = false ∨ sensorExists x = false ∨ (s.sensorSt x).failed = true))
include hlive

theorem State.sample_of_few (h : (s.sensorSt x).samples.length < 2) :
    s.sample x reading rating =
      s.setSensor x ((s.sensorSt x).keeping ((reading :: (s.sensorSt x).samples).take 3) s.now) := by
  rw [State.sample, if_neg (by simpa [and_assoc] using hlive)]
  match hs : (s.sensorSt x).samples, h with
  | [], _ => rfl
  | [a], _ => rfl

/-- With two samples before it the median is taken. -/
theorem State.sample_of_three {a b : Int} {rest : List Int} (hs : (s.sensorSt x).samples = a :: b :: rest) :
    s.sample x reading rating =
      if inRange x (median3 reading a b) rating then
        (s.setSensor x ((s.sensorSt x).keeping [reading, a, b] s.now)).consume x (median3 reading a b)
      else (s.setSensor x ((s.sensorSt x).keeping [reading, a, b] s.now)).sensorFailed x 0 := by
  rw [State.sample, if_neg (by simpa [and_assoc] using hlive), hs]
  rfl

end

/-- What a die shows after a filtered reading. -/
theorem State.die_consume (s : State) {d : Nat} (hd : d ≤ 8) (m : Int) :
    let x := (s.consume (.dieTemp d) m).die d
    x.temp = m ∧ x.hotSince = hotFrom (s.die d).hotSince s.now m ∧ (d < 8 → 110000 ≤ m → x.cap = 500 ∧ x.alert = true) ∧
      (d < 8 → m < 110000 → x.cap = (s.die d).cap ∧ x.alert = ((s.die d).alert && decide (97000 ≤ m))) := by
  intro x
  by_cases h8 : d = 8
  · subst h8
    have hx : x = { s.die 8 with temp := m, hotSince := hotFrom (s.die 8).hotSince s.now m } :=
      s.die_modDie_same 8 fun x => { x with temp := m, hotSince := hotFrom x.hotSince s.now m }
    rw [hx]
    exact ⟨rfl, rfl, fun h => absurd h (Nat.lt_irrefl 8), fun h => absurd h (Nat.lt_irrefl 8)⟩
  · obtain ⟨-, hcool, hhot⟩ := s.dieTemp_effect d m
    obtain ⟨armed, hmargin⟩ := (s.dieTemp d m).die_dieMargin d m
    have hx : x = { (s.dieTemp d m).die d with marginArmed := armed } :=
      (congrArg (State.die · d) (if_neg h8)).trans hmargin
    rcases lt_or_ge m 110000 with hm | hm
    · rw [hx, hcool hm]
      exact ⟨rfl, rfl, fun _ h => absurd hm (not_lt.2 h), fun _ _ => ⟨rfl, rfl⟩⟩
    · rw [hx, hhot hm]
      exact ⟨rfl, rfl, fun _ _ => ⟨rfl, rfl⟩, fun _ h => absurd h (not_lt.2 hm)⟩

/-! ### Silence (R396) -/

theorem State.sensorTimeout_of_due {s : State} {x : Sensor}
    (h : s.pwr.good = true ∧ s.pwr.phase ≠ .off ∧ sensorExists x = true ∧ (s.sensorSt x).failed = false ∧
      (s.sensorSt x).lastAt + 5000000 ≤ s.now ∧ s.pwr.startedAt + 5000000 ≤ s.now) :
    s.sensorTimeout x = s.sensorFailed x 1 := by
  obtain ⟨hgood, hphase, hexists, hfailed, hlast, hstarted⟩ := h
  rw [State.sensorTimeout, if_pos]
  simp [hgood, hphase, hexists, hfailed, hlast, hstarted, ← Nat.add_max_add_right]

/-- A sensor that is not due to have failed is left alone. -/
theorem State.sensorTimeout_of_not_due {s : State} {x : Sensor}
    (h : ¬ (s.pwr.good = true ∧ s.pwr.phase ≠ .off ∧ sensorExists x = true ∧ (s.sensorSt x).failed = false ∧
      (s.sensorSt x).lastAt + 5000000 ≤ s.now ∧ s.pwr.startedAt + 5000000 ≤ s.now)) :
    s.sensorTimeout x = s := by
  rw [State.sensorTimeout, if_neg]
  simpa [← Nat.add_max_add_right, and_assoc] using h

/-! ### The thermal cap (R423) -/

/-- A cap takes no step within a millisecond of its last one. -/
theorem State.capStep_of_not_due {s : State} {d : Nat} (h : ¬ ∀ a, (s.die d).capAt = some a → a + 1000000 ≤ s.now) :
    s.capStep d = s := by
  push Not at h
  obtain ⟨a, hat, hnow⟩ := h
  simp only [State.capStep, hat]
  exact if_pos (.inr (by simpa using hnow))

theorem State.capStep_of_due {s : State} {d : Nat} (hd : d < 8) (h : ∀ a, (s.die d).capAt = some a → a + 1000000 ≤ s.now) :
    let mhz := s.cfg (0x2400 + d) 1
    let capped (n : Nat) : State := s.modDie d fun y => { y with cap := n, capAt := some s.now }
    s.capStep d =
      if 100000 ≤ (s.die d).temp then capped (max 500 (min (s.die d).cap mhz - 25))
      else if (s.die d).temp < 97000 then capped (if mhz ≤ (s.die d).cap + 25 then 1100 else (s.die d).cap + 25)
      else s := by
  cases hat : (s.die d).capAt with
  | none => simp only [State.capStep, hat, hd.not_ge, Bool.not_true, Bool.false_eq_true, or_self, if_false]; rfl
  | some a =>
    simp only [State.capStep, hat, hd.not_ge, decide_eq_true (h a hat), Bool.not_true, Bool.false_eq_true, or_self, if_false]
    rfl

/-! ### The shutdown (R441) -/

theorem State.thermalShutdown_of_hot {s : State} {onStack : Bool} {unit a : Nat} (hgood : s.pwr.good = true)
    (hshut : s.pwr.shutdown = false) (hexists : sensorExists (if onStack then .stackTemp unit else .dieTemp unit) = true)
    (hfailed : (s.sensorSt (if onStack then .stackTemp unit else .dieTemp unit)).failed = false)
    (hsince : (if onStack then (s.stack unit).hotSince else (s.die unit).hotSince) = some a) (ha : a + 1000000 ≤ s.now) :
    ∃ u : State, s.thermalShutdown onStack unit = u.darken ∧ u.hbm = s.hbm := by
  simp only [State.thermalShutdown, hsince]
  rw [if_neg (by simp [hgood, hshut, hexists, hfailed, ha])]
  exact ⟨_, rfl, rfl⟩

/-- Nothing is switched off where no sensor that works has read 115 degrees for a millisecond. -/
theorem State.thermalShutdown_of_cool {s : State} {onStack : Bool} {unit : Nat}
    (h : ¬ (s.pwr.good = true ∧ s.pwr.shutdown = false ∧ sensorExists (if onStack then .stackTemp unit else .dieTemp unit) = true ∧
      (s.sensorSt (if onStack then .stackTemp unit else .dieTemp unit)).failed = false ∧
      ∃ a, (if onStack then (s.stack unit).hotSince else (s.die unit).hotSince) = some a ∧ a + 1000000 ≤ s.now)) :
    s.thermalShutdown onStack unit = s := by
  generalize hsince : (if onStack then (s.stack unit).hotSince else (s.die unit).hotSince) = since at h
  cases since with
  | none => simp [State.thermalShutdown, hsince]
  | some a =>
    simp only [State.thermalShutdown, hsince]
    rw [if_pos]
    simpa [imp_iff_not_or, or_assoc] using h

/-- Shut down, no queue goes on. -/
theorem State.queues_dark {s : State} (h : s.pwr.shutdown = true) (g q seq : Nat) :
    s.takeNext g q = s ∧ s.startNext g q = s ∧ s.waitSatisfied g q seq = s ∧ s.waitTimeout g q seq = s ∧
      s.descriptorFinish g q seq = s ∧ s.recordWrite g q = s := by
  have hwaiting : s.waitingRun g q seq = none := by
    rw [State.waitingRun]
    split
    · rw [if_neg (by simp [h])]
    · rfl
  refine ⟨?_, ?_, ?_, ?_, ?_, ?_⟩
  · rw [State.takeNext, if_neg (by simp [h])]
  · rw [State.startNext]
    split
    · rfl
    · rw [if_neg (by simp [h])]
  · rw [State.waitSatisfied, hwaiting]
  · rw [State.waitTimeout, hwaiting]
  · rw [State.descriptorFinish]
    split
    · rw [if_neg (by simp [h])]
    · rfl
  · rw [State.recordWrite]
    split
    · rw [if_neg (by simp [h])]
    · rfl

/-- Settles O57: the consumers of a median, the failure of a sensor, the steps of the cap, and the shutdown, after which no queue has
its turn. -/
theorem sensorsAndHeat : Obligations.SensorsAndHeat := by
  intro s told
  refine ⟨fun x reading rating => ?sample, fun x => ?timeout, fun d hd => ?cap, fun onStack unit => ?shutdown, fun h g q seq => ?dark⟩
  case sample =>
    intro y dead z
    have hexec (t : State) (h : s.sample x reading rating = t) : exec (.sensorSample x reading rating) s = .next t :=
      congrArg Host.Outcome.next h
    refine ⟨fun h => hexec s (State.sample_of_dead reading rating h), fun h hfew => hexec _ (State.sample_of_few reading rating h hfew),
      fun a b rest hs h hout => ?failed, fun a b rest m hs h hm hin => ?_⟩
    case failed =>
      obtain ⟨hfailed, hrisk, htold⟩ := (s.setSensor x (y.keeping [reading, a, b] s.now)).sensorFailed_effect x 0
      have hsample := State.sample_of_three reading rating h hs
      rw [if_neg (by simp [hout])] at hsample
      exact ⟨_, hexec _ hsample, hrisk, hfailed, htold⟩
    have hsample := State.sample_of_three reading rating h hs
    rw [← hm, if_pos hin] at hsample
    refine ⟨fun d hx => ?_, fun k hx => ?_⟩
    · subst hx
      have hd : d ≤ 8 := by
        by_contra hd
        exact h (.inr (.inl (decide_eq_false hd)))
      obtain ⟨htemp, hhot, hcapped, hfree⟩ := (s.setSensor (.dieTemp d) (y.keeping [reading, a, b] s.now)).die_consume hd m
      exact ⟨_, hexec _ hsample, htemp, fun hm => hhot.trans (hotFrom_cool hm _ _), fun hm => hhot.trans (hotFrom_hot hm _ _), hcapped, hfree⟩
    · subst hx
      intro old
      obtain ⟨draining, hstack⟩ :=
        (s.setSensor (.stackTemp k) (y.keeping [reading, a, b] s.now)).stack_stackTemp k m
      refine ⟨_, hexec _ hsample, ?_⟩
      rw [State.consume, hstack]
      exact ⟨rfl, fun hm => hotFrom_cool hm _ _, fun hm => hotFrom_hot hm _ _, fun hle => thermalNext_of_le hle,
        fun hlt => thermalNext_of_lt hlt⟩
  case timeout =>
    intro y due
    have hfails (h : due) : exec (.sensorTimeout x) s = .next (s.sensorFailed x 1) :=
      congrArg Host.Outcome.next (State.sensorTimeout_of_due h)
    obtain ⟨hfailed, hrisk, htold⟩ := s.sensorFailed_effect x 1
    refine ⟨fun h => ⟨_, hfails h, hfailed, hrisk, htold⟩, fun d h hx hd => ?_,
      fun h => congrArg Host.Outcome.next (State.sensorTimeout_of_not_due h)⟩
    subst hx
    exact ⟨_, hfails h, (s.die_sensorFailed hd 1).1, (s.die_sensorFailed hd 1).2⟩
  case cap =>
    intro x mhz due capped
    have hexec (t : State) (h : s.capStep d = t) : exec (.thermalCapStep d) s = .next t := congrArg Host.Outcome.next h
    refine ⟨fun h ht => hexec _ ?_, fun h ht => hexec _ ?_, fun hlow hhigh => hexec _ ?_, fun h => hexec _ (State.capStep_of_not_due h)⟩
    · rw [State.capStep_of_due hd h, if_pos ht]
    · rw [State.capStep_of_due hd h, if_neg (not_le.2 (ht.trans (by norm_num))), if_pos ht]
    · by_cases h : due
      · rw [State.capStep_of_due hd h, if_neg (not_le.2 hhigh), if_neg (not_lt.2 hlow)]
      · exact State.capStep_of_not_due h
  case shutdown =>
    intro x hot
    refine ⟨fun h => ?_, fun h => congrArg Host.Outcome.next (State.thermalShutdown_of_cool h)⟩
    obtain ⟨hgood, hshut, hexists, hfailed, a, hsince, ha⟩ := h
    obtain ⟨u, hdark, hhbm⟩ := State.thermalShutdown_of_hot hgood hshut hexists hfailed hsince ha
    obtain ⟨hmarked, hledger, hdomains, hports, hkept⟩ := u.darken_effect
    exact ⟨u.darken, congrArg Host.Outcome.next hdark, hmarked, hledger, hdomains, hports, hkept.trans hhbm⟩
  case dark =>
    obtain ⟨htake, hstart, hwait, hlimit, hfinish, hrecord⟩ := State.queues_dark h g q seq
    exact ⟨congrArg Host.Outcome.next htake, congrArg Host.Outcome.next hstart, congrArg Host.Outcome.next hwait,
      congrArg Host.Outcome.next hlimit, congrArg Host.Outcome.next hfinish, congrArg Host.Outcome.next hrecord⟩

end Sys2Proof.Machine
end

section
/-! HBM events (R260, R261, R268, R271, R272): the stacks of a window compared one after another, and the lines ahead of a stream. -/
namespace Sys2Proof.Machine

/-! ### The hot-channel window (R268) -/

/-- The stacks of dies that follow one another: three on each (R12). -/
theorem flatMap_three (c n : Nat) :
    (List.range n).flatMap (fun i => [3 * (c + i), 3 * (c + i) + 1, 3 * (c + i) + 2]) = (List.range (3 * n)).map (3 * c + ·) := by
  induction n with
  | zero => rfl
  | succ n ih =>
    rw [List.range_succ, List.flatMap_append, ih, Nat.mul_succ, List.range_add, List.map_append, List.map_map]
    simp [List.range_succ, Nat.mul_add, Nat.add_assoc]

theorem State.stacksOf_eq (s : State) (p : Nat) : s.stacksOf p = (List.range (3 * s.dieCount)).map (3 * s.dieCount * p + ·) := by
  rw [State.stacksOf, State.diesOf, List.flatMap_map, flatMap_three, Nat.mul_comm p, Nat.mul_assoc]

/-- Numbers that follow one another zipped with a list of their number, index by index. -/
theorem zip_range_map (base : Nat) (counts : List Nat) :
    ((List.range counts.length).map (base + ·)).zip counts = (List.range counts.length).map fun i => (base + i, nth 0 counts i) := by
  refine List.ext_getElem (by simp) fun i hi _ => ?_
  have hlen : i < counts.length := by simpa using hi
  simp [nth, List.headD_eq_head?_getD, List.head?_drop, hlen]

/-- A stack's count kept and compared, its record raised where it is due in the state s that the window met. -/
def State.hotSeen (s : State) (p k c sum len : Nat) (u : State) : State :=
  let v := u.modStack k fun x => { x with requests := c }
  if 2 * sum < c * len ∧ ∀ a, (s.stack k).lastHot = some a → a + 10 ^ 9 ≤ s.now then
    (v.modStack k fun x => { x with hot := min (x.hot + 1) 0xFFFFFFFF, lastHot := some s.now }).event 0x0012 (partCode 3 k) p
      (leBytes 4 c ++ leBytes 4 (sum / len))
  else v

section
variable {s u : State} {p k c sum len : Nat}

theorem State.hotStack_of_fresh (h : ∀ a, (s.stack k).lastHot = some a → a + 10 ^ 9 ≤ s.now) (n mean : Nat) :
    s.hotStack p k n mean = s.hotRecord p k n mean := by
  cases hlast : (s.stack k).lastHot with
  | none => simp only [State.hotStack, hlast]
  | some a => simp only [State.hotStack, hlast, if_neg (Nat.not_lt.2 (h a hlast))]

theorem State.hotStack_of_recent (h : ¬ ∀ a, (s.stack k).lastHot = some a → a + 10 ^ 9 ≤ s.now) (n mean : Nat) :
    s.hotStack p k n mean = s := by
  push Not at h
  obtain ⟨a, hlast, hnow⟩ := h
  simp only [State.hotStack, hlast, if_pos hnow]

/-- A stack not yet compared is seen as it was at the window's start. -/
theorem State.hotSeen_of_same (hnow : u.now = s.now) (hstack : u.stack k = s.stack k) :
    (let v := u.modStack k fun x => { x with requests := c }
     if 2 * sum < c * len then v.hotStack p k c (sum / len) else v) = s.hotSeen p k c sum len u := by
  have hlast : ((u.modStack k fun x => { x with requests := c }).stack k).lastHot = (s.stack k).lastHot := by
    rw [State.stack_modStack_same, hstack]
  have hvnow : (u.modStack k fun x => { x with requests := c }).now = s.now := hnow
  unfold State.hotSeen
  dsimp only
  generalize (u.modStack k fun x => { x with requests := c }) = v at hlast hvnow ⊢
  by_cases hhot : 2 * sum < c * len
  · by_cases hfresh : ∀ a, (s.stack k).lastHot = some a → a + 10 ^ 9 ≤ s.now
    · rw [if_pos hhot, if_pos ⟨hhot, hfresh⟩, State.hotStack_of_fresh (by rwa [hlast, hvnow]), State.hotRecord, hvnow]
      rfl
    · rw [if_pos hhot, if_neg fun h => hfresh h.2, State.hotStack_of_recent (by rwa [hlast, hvnow])]
  · rw [if_neg hhot, if_neg fun h => hhot h.1]

/-- Seeing a stack changes stacks and the log only, and of the stacks that one only. -/
theorem State.hotSeen_frame :
    s.hotSeen p k c sum len u =
      { u with hbmStacks := (s.hotSeen p k c sum len u).hbmStacks, log := (s.hotSeen p k c sum len u).log } := by
  unfold State.hotSeen
  dsimp only
  split <;> rfl

theorem State.stack_hotSeen_ne {j : Nat} (hj : j ≠ k) : (s.hotSeen p k c sum len u).stack j = u.stack j := by
  unfold State.hotSeen
  dsimp only
  split
  · rw [State.event_stack_read, State.stack_modStack_ne _ _ _ _ hj, State.stack_modStack_ne _ _ _ _ hj]
  · rw [State.stack_modStack_ne _ _ _ _ hj]

theorem State.stack_hotSeen_hot (hhot : 2 * sum < c * len) (hfresh : ∀ a, (s.stack k).lastHot = some a → a + 10 ^ 9 ≤ s.now) :
    (s.hotSeen p k c sum len u).stack k =
      { u.stack k with requests := c, hot := min ((u.stack k).hot + 1) 0xFFFFFFFF, lastHot := some s.now } := by
  rw [State.hotSeen, if_pos ⟨hhot, hfresh⟩, State.event_stack_read, State.stack_modStack_same, State.stack_modStack_same]

theorem State.stack_hotSeen_cool
    (h : ¬ 2 * sum < c * len ∨ ¬ ∀ a, (s.stack k).lastHot = some a → a + 10 ^ 9 ≤ s.now) :
    (s.hotSeen p k c sum len u).stack k = { u.stack k with requests := c } := by
  rw [State.hotSeen, if_neg fun hc => h.elim (· hc.1) (· hc.2), State.stack_modStack_same]

end

section
variable (s : State) (p base : Nat) (counts : List Nat)

/-- The first n stacks of a window seen. -/
def State.hotSeenAll (n : Nat) : State :=
  (List.range n).foldl (fun u i => s.hotSeen p (base + i) (nth 0 counts i) counts.sum counts.length u)
    (s.modPart p fun x => { x with hotAt := hotWindowOf (s.partTime p) })

theorem State.hotSeenAll_succ (n : Nat) :
    s.hotSeenAll p base counts (n + 1) =
      s.hotSeen p (base + n) (nth 0 counts n) counts.sum counts.length (s.hotSeenAll p base counts n) := by
  rw [State.hotSeenAll, List.range_succ, List.foldl_append]
  rfl

theorem State.hotSeenAll_frame (n : Nat) :
    s.hotSeenAll p base counts n =
      { s.modPart p fun x => { x with hotAt := hotWindowOf (s.partTime p) } with
        hbmStacks := (s.hotSeenAll p base counts n).hbmStacks, log := (s.hotSeenAll p base counts n).log } := by
  induction n with
  | zero => rfl
  | succ n ih =>
    rw [State.hotSeenAll_succ, State.hotSeen_frame]
    rw [ih]

/-- A stack that has not been seen is as it was. -/
theorem State.stack_hotSeenAll_of_unseen {n k : Nat} (h : ∀ i < n, k ≠ base + i) :
    (s.hotSeenAll p base counts n).stack k = s.stack k := by
  induction n with
  | zero => rfl
  | succ n ih =>
    rw [State.hotSeenAll_succ, State.stack_hotSeen_ne (h n (Nat.lt_succ_self n))]
    exact ih fun i hi => h i (Nat.lt_succ_of_lt hi)

/-- A stack of the window is seen once, in the state it had at the window's start. -/
theorem State.stack_hotSeenAll {n i : Nat} (hi : i < n) :
    (s.hotSeenAll p base counts n).stack (base + i) =
      (s.hotSeen p (base + i) (nth 0 counts i) counts.sum counts.length (s.hotSeenAll p base counts i)).stack (base + i) := by
  induction n with
  | zero => exact absurd hi (Nat.not_lt_zero i)
  | succ n ih =>
    rw [State.hotSeenAll_succ]
    rcases Nat.lt_succ_iff_lt_or_eq.1 hi with hlt | rfl
    · rw [State.stack_hotSeen_ne (by omega), ih hlt]
    · rfl

/-- The model compares the stacks in the same order. -/
theorem State.hotSeenAll_eq_foldl (n : Nat) :
    (List.range n).foldl (fun u i =>
      let v := u.modStack (base + i) fun x => { x with requests := nth 0 counts i }
      if 2 * counts.sum < nth 0 counts i * counts.length then v.hotStack p (base + i) (nth 0 counts i) (counts.sum / counts.length)
      else v) (s.modPart p fun x => { x with hotAt := hotWindowOf (s.partTime p) }) = s.hotSeenAll p base counts n := by
  induction n with
  | zero => rfl
  | succ n ih =>
    have hnow : (s.hotSeenAll p base counts n).now = s.now := by rw [State.hotSeenAll_frame]; rfl
    rw [List.range_succ, List.foldl_append, ih, State.hotSeenAll_succ]
    exact State.hotSeen_of_same hnow (s.stack_hotSeenAll_of_unseen p base counts fun i hi => by omega)

end

/-- A window is compared once, of a READY partition with a count for each of its stacks. -/
theorem State.hotWindow_eq (s : State) (p : Nat) (counts : List Nat) :
    s.hotWindow p counts =
      if p < s.partCount ∧ (s.part p).st = .ready ∧ counts.length = 3 * s.dieCount ∧ (s.part p).hotAt < s.partTime p / 10000000 then
        s.hotSeenAll p (3 * s.dieCount * p) counts counts.length
      else s := by
  have hlength : (s.stacksOf p).length = 3 * s.dieCount := by simp [State.stacksOf_eq]
  have hcond : (p < s.partCount && (s.part p).st == .ready && counts.length == (s.stacksOf p).length &&
      (s.part p).hotAt < hotWindowOf (s.partTime p)) = true ↔
      p < s.partCount ∧ (s.part p).st = .ready ∧ counts.length = 3 * s.dieCount ∧ (s.part p).hotAt < s.partTime p / 10000000 := by
    simp only [Bool.and_eq_true, beq_iff_eq, decide_eq_true_eq, hlength, and_assoc]
    rfl
  rw [State.hotWindow]
  dsimp only
  by_cases hdue : p < s.partCount ∧ (s.part p).st = .ready ∧ counts.length = 3 * s.dieCount ∧
      (s.part p).hotAt < s.partTime p / 10000000
  · obtain ⟨-, -, hlen, -⟩ := id hdue
    rw [if_pos (hcond.2 hdue), if_pos hdue, hlength, ← hlen, State.stacksOf_eq, ← hlen, zip_range_map, List.foldl_map,
      ← List.sum_eq_foldl, ← State.hotSeenAll_eq_foldl]
  · rw [if_neg (mt hcond.1 hdue), if_neg hdue]

/-! ### Prefetch (R260, R261) -/

/-- At most as many lines as are asked for lie ahead, one after another. -/
theorem State.aheadLines_spec (s : State) (g : Nat) (desc : Bool) (fuel va : Nat) :
    (s.aheadLines g desc fuel va).length ≤ fuel ∧ ∀ i, i < (s.aheadLines g desc fuel va).length →
      (s.aheadLines g desc fuel va)[i]? = some (if desc then va - 128 * (i + 1) else va + 128 * (i + 1)) := by
  induction fuel generalizing va with
  | zero => exact ⟨le_rfl, fun i hi => absurd hi (Nat.not_lt_zero i)⟩
  | succ n ih =>
    rw [State.aheadLines]
    by_cases hlow : desc = true ∧ va < 128
    · rw [if_pos hlow]
      exact ⟨Nat.zero_le _, fun i hi => absurd hi (Nat.not_lt_zero i)⟩
    rw [if_neg hlow]
    dsimp only
    generalize hnext : (if desc = true then va - 128 else va + 128) = next
    by_cases hmay : s.mayAdvance g va next = true
    · obtain ⟨hlen, hline⟩ := ih next
      rw [if_pos hmay]
      refine ⟨Nat.succ_le_succ hlen, fun i hi => ?_⟩
      cases i with
      | zero => exact congrArg some hnext.symm
      | succ i =>
        rw [List.getElem?_cons_succ, hline i (Nat.lt_of_succ_lt_succ hi), ← hnext]
        cases desc <;> simp <;> omega
    · rw [if_neg hmay]
      exact ⟨Nat.zero_le _, fun i hi => absurd hi (Nat.not_lt_zero i)⟩

theorem Die.mem_fill (d : Die) (line : Nat) : line ∈ (d.fill line).lines := by
  unfold Die.fill
  split
  next h => exact List.contains_iff_mem.1 h
  next => exact List.mem_append_right _ (List.mem_singleton.2 rfl)

theorem Die.fill_frame (d : Die) (line : Nat) : d.fill line = { d with lines := (d.fill line).lines } := by
  unfold Die.fill
  split <;> rfl

/-- Only lines of die caches differ. -/
structure OnlyLines (s t : State) : Prop where
  frame : t = { s with dies := t.dies }
  die : ∀ n, t.die n = { s.die n with lines := (t.die n).lines }

theorem State.onlyLines_fillLine (s : State) (p dpa : Nat) : OnlyLines s (s.fillLine p dpa) where
  frame := rfl
  die n := by
    rw [State.fillLine]
    by_cases hn : n = (s.placeOf p dpa).1
    · rw [hn, State.die_modDie_same]
      exact Die.fill_frame _ _
    · rw [State.die_modDie_ne _ _ _ _ hn]

theorem OnlyLines.trans {s t u : State} (h : OnlyLines s t) (k : OnlyLines t u) : OnlyLines s u where
  frame := calc
    u = { t with dies := u.dies } := k.frame
    _ = { s with dies := u.dies } := by rw [h.frame]
  die n := calc
    u.die n = { t.die n with lines := (u.die n).lines } := k.die n
    _ = { s.die n with lines := (u.die n).lines } := by rw [h.die n]

/-- Lines filled one after another. -/
theorem State.onlyLines_fillLines (s : State) (g : Nat) (lines : List Nat) :
    OnlyLines s (lines.foldl (fun u a => u.fillLine (g / 64) (u.dpaOf g a)) s) :=
  List.foldlRecOn lines _ ⟨rfl, fun _ => rfl⟩ fun t ht _ _ => ht.trans (t.onlyLines_fillLine _ _)

/-- Then one hub notes its stream, and its other hubs keep theirs. -/
theorem OnlyLines.prefetched {s filled : State} (h : OnlyLines s filled) (d : Nat) (x : Stream) :
    let t := filled.modDie d fun y => { y with streams := pushStream x y.streams }
    t = { s with dies := t.dies } ∧ (∀ n, t.die n = { s.die n with lines := (t.die n).lines, streams := (t.die n).streams }) ∧
      ∀ n, n ≠ d → (t.die n).streams = (s.die n).streams := by
  intro t
  have hother (n : Nat) (hn : n ≠ d) : t.die n = filled.die n := State.die_modDie_ne _ _ _ _ hn
  refine ⟨?_, fun n => ?_, fun n hn => ?_⟩
  · calc
      t = { filled with dies := t.dies } := rfl
      _ = { s with dies := t.dies } := by rw [h.frame]
  · by_cases hn : n = d
    · have hsame : t.die d = { filled.die d with streams := (t.die d).streams } := by
        rw [show t.die d = _ from State.die_modDie_same ..]
      rw [hn, hsame, h.die d]
    · rw [hother n hn, h.die n]
  · rw [hother n hn, h.die n]

/-- A stream that its hub has detected is prefetched; no other is. -/
theorem State.prefetch_eq (s : State) (d g va : Nat) (desc : Bool) :
    let base := va / 128 * 128
    let lines := s.aheadLines g desc 256 base
    s.prefetch d g va desc =
      if (s.ctx g).st = .active ∧ s.partOfDie d = g / 64 ∧ (s.xlate g va).isSome = true ∧ (s.die d).detects g (va / 128) desc = true then
        (lines.foldl (fun u a => u.fillLine (g / 64) (u.dpaOf g a)) s).modDie d fun x =>
          { x with streams := pushStream { g := g, line := (lines.getLast?.getD base) / 128, descending := desc } x.streams }
      else s := by
  intro base lines
  rw [State.prefetch]
  refine if_congr ?_ rfl rfl
  simp [and_assoc, partOfCtx]

/-- Settles O46: each row in its effect and in what leaves it without one. -/
theorem hbmEvents : Obligations.HbmEvents := by
  intro s
  refine ⟨fun p counts => ?window, fun k ch => ?retrain, fun k => rfl, fun d g va desc => ?prefetch⟩
  case window =>
    intro w due
    have hexec : exec (.hotChannelWindow p counts) s = .next (s.hotWindow p counts) := rfl
    rw [State.hotWindow_eq] at hexec
    refine ⟨fun hdue => ?_, fun hdue => hexec.trans (congrArg Host.Outcome.next (if_neg hdue))⟩
    rw [if_pos hdue] at hexec
    have hframe := s.hotSeenAll_frame p (3 * s.dieCount * p) counts counts.length
    have hparts : (s.hotSeenAll p (3 * s.dieCount * p) counts counts.length).parts =
        (s.modPart p fun x => { x with hotAt := hotWindowOf (s.partTime p) }).parts := by rw [hframe]
    refine ⟨_, hexec, ?_, rfl, ?_, fun k hk => ?_, fun i hi => ?_⟩
    · rw [hframe]
      rfl
    · rw [State.part, hparts]
      exact s.part_modPart_same p fun x => { x with hotAt := hotWindowOf (s.partTime p) }
    · rw [State.part, hparts]
      exact s.part_modPart_ne p k _ hk
    · intro k kept hot fresh
      have hunseen : (s.hotSeenAll p (3 * s.dieCount * p) counts i).stack k = s.stack k :=
        s.stack_hotSeenAll_of_unseen p _ counts fun j hj => by omega
      rw [State.stack_hotSeenAll s p _ counts hi]
      refine ⟨fun hhot hfresh => ?_, fun hcool => ?_⟩
      · rw [State.stack_hotSeen_hot hhot hfresh, hunseen]
      · rw [State.stack_hotSeen_cool hcool, hunseen]
  case retrain =>
    refine congrArg Host.Outcome.next (if_congr ?_ rfl rfl)
    simp
  case prefetch =>
    intro detected base lines filled
    have hexec : exec (.prefetchIssue d g va desc) s = .next (s.prefetch d g va desc) := rfl
    rw [State.prefetch_eq] at hexec
    have hfilled : OnlyLines s filled := s.onlyLines_fillLines g lines
    refine ⟨fun h => ?_, s.aheadLines_spec g desc 256 base, fun u p dpa => ⟨rfl, ?_⟩,
      fun h => hexec.trans (congrArg Host.Outcome.next (if_neg h))⟩
    · rw [if_pos h] at hexec
      obtain ⟨hframe, hdie, hothers⟩ := hfilled.prefetched d { g := g, line := (lines.getLast?.getD base) / 128, descending := desc }
      exact ⟨_, hexec, hframe, rfl, hdie, hothers⟩
    · rw [State.fillLine, State.die_modDie_same]
      exact Die.mem_fill _ _

end Sys2Proof.Machine
end

section
/-! CHECK and the re-read under hold (R264 to R267, R277, R278). -/
namespace Sys2Proof.Machine

/-! ### An engine that does not serve a descriptor -/

section
variable {s : State} {g q seq : Nat} {r : Run} {u e : Nat} {kind : Run → Bool} {ready : Nat → Nat → Run → Bool}

theorem State.engineGate_of_not_turn (h : ¬ s.turnOf u e g ready) : s.engineGate u e g q seq kind ready = none :=
  if_neg fun hc => h (beq_iff_eq.1 hc)

theorem Ready.engineGate_of_other_kind (h : Ready g q seq s r) (hkind : kind r = false) :
    s.engineGate u e g q seq kind ready = none := by
  rw [State.engineGate, State.frontGate, h.run]
  simp [hkind]

end

/-! ### CHECK (R277, R278) -/

section
variable {s : State} {g q seq : Nat} {r : Run}

theorem Ready.checkRow_eq (h : Ready g q seq s r) (hop : dOpcode r.raw = 0x02) (hturn : s.turnOf 0 0 g anyRun) :
    s.checkRow g q seq = (s.checkDo g q seq r).engineServed 0 g := by
  rw [State.checkRow, h.engineGate_eq (kind := isOp 0x02) hturn (by simp [isOp, hop]) rfl]

/-- A descriptor that is no CHECK, or whose turn has not come, is left alone. -/
theorem Ready.checkRow_waits (h : Ready g q seq s r) (hno : dOpcode r.raw ≠ 0x02 ∨ ¬ s.turnOf 0 0 g anyRun) :
    s.checkRow g q seq = s := by
  have hgate : s.engineGate 0 0 g q seq (isOp 0x02) anyRun = none := by
    rcases hno with hop | hturn
    · exact h.engineGate_of_other_kind (by simp [isOp, hop])
    · exact State.engineGate_of_not_turn hturn
  rw [State.checkRow, hgate]

/-- The corrupt data tiles of a part noted in its run. -/
theorem State.run_noteBad (h : s.run g q seq = some r) (bad : List Nat) :
    (s.noteBad g q seq bad).run g q seq =
      some { r with bad := r.bad + bad.length, firstBad := if r.bad = 0 then bad.headD 0 else r.firstBad } := by
  refine State.run_modRun_of_some _ g q seq _ r ?_ fun _ => rfl
  rw [State.run, s.queue_foldl (fun s t => s.corruptEvent g t) g q fun _ _ => rfl]
  exact h

/-- A part of a CHECK verified: its corrupt data tiles noted, its data tiles seen by the engine's hub. -/
def State.verified (s : State) (g q seq va n : Nat) : State :=
  (s.noteBad g q seq (s.corruptTiles g va n)).accessed (s.engineDie g) g [(va, n)] []

theorem State.run_verified (h : s.run g q seq = some r) (va n : Nat) :
    (s.verified g q seq va n).run g q seq =
      some { r with bad := r.bad + (s.corruptTiles g va n).length
                    firstBad := if r.bad = 0 then (s.corruptTiles g va n).headD 0 else r.firstBad } := by
  rw [State.verified, State.run, State.queue_accessed]
  exact State.run_noteBad h _

variable {all va n : Nat} (hall : fld r.raw 24 8 = all) (hva : dAddr r.raw 16 + r.cursor = va) (hn : min (2 ^ 21) (all - r.cursor) = n)
include hall hva hn

theorem State.checkDo_of_unreadable (hread : s.hbmReadable g va n = false) : s.checkDo g q seq r = s.jobFault g q seq 0x14 0 := by
  subst hall hva hn
  rw [State.checkDo, if_neg (by rw [hread]; exact Bool.false_ne_true)]
  rfl

theorem State.checkDo_of_part (hread : s.hbmReadable g va n = true) (hmore : r.cursor + n < all) :
    s.checkDo g q seq r = (s.verified g q seq va n).engineTile g q seq n all 0 := by
  subst hall hva hn
  rw [State.checkDo, if_pos hread]
  exact if_neg (Nat.not_le.2 hmore)

/-- The last part ends with the record of the counts that its run has then. -/
theorem State.checkDo_of_last (h : s.run g q seq = some r) (hread : s.hbmReadable g va n = true) (hlast : all ≤ r.cursor + n) :
    let bad := s.corruptTiles g va n
    s.checkDo g q seq r = (s.verified g q seq va n).checkEnd g q seq
      { r with bad := r.bad + bad.length, firstBad := if r.bad = 0 then bad.headD 0 else r.firstBad } n := by
  subst hall hva hn
  have hrun := State.run_verified h (dAddr r.raw 16 + r.cursor) (min (2 ^ 21) (fld r.raw 24 8 - r.cursor))
  rw [State.verified] at hrun
  rw [State.checkDo, if_pos hread]
  dsimp only
  rw [if_pos hlast, hrun]
  rfl

end

/-! ### The re-read under hold (R265, R266) -/

section
variable {s : State} {g q seq a : Nat} {delta : BitVec 32}

/-- What a re-read shows of the data tile of an address. -/
theorem State.reread_eq (hreads : s.readsNow g q seq = true) (hhbm : s.inHbm g a = true) :
    s.reread g q seq a delta =
      if (if delta = 0 then s.deltaAt g (a / 4096 * 4096) else delta) = 0 then s.tornRead g q seq
      else s.rereadBad g q seq a (if delta = 0 then s.deltaAt g (a / 4096 * 4096) else delta) := by
  rw [State.reread, if_pos (by rw [hreads, hhbm]; rfl)]

/-- A torn read counts in its context, its partition and its run, and changes nothing else that a program reads. -/
theorem State.tornRead_effect (s : State) (g q seq : Nat) :
    let t := s.tornRead g q seq
    t.hbm = s.hbm ∧ t.sumDelta = s.sumDelta ∧ (t.ctx g).tornReads = (s.ctx g).tornReads + 1 ∧
      (t.part (g / 64)).torn = (s.part (g / 64)).torn + 1 ∧ (t.ctx g).st = (s.ctx g).st ∧ OthersKept g s t ∧
      ∀ r, s.run g q seq = some r → ∃ r', t.run g q seq = some r' ∧ r'.torn = r.torn + 1 := by
  intro t
  let counted := s.modRun g q seq fun r => { r with torn := r.torn + 1 }
  let more (c : Ctx) : Ctx := { c with tornReads := c.tornReads + 1 }
  have hcounted : counted.ctx g = { s.ctx g with queues := (counted.ctx g).queues } := by
    rw [show counted.ctx g = _ from s.ctx_modQueue_same g q _]
  have hctx : t.ctx g = more (counted.ctx g) := counted.ctx_modCtx_same g more
  refine ⟨rfl, rfl, ?_, ?_, ?_, fun k hk => ?_, fun r hr => ⟨{ r with torn := r.torn + 1 }, ?_, rfl⟩⟩
  · rw [hctx, hcounted]
  · exact congrArg Part.torn (State.part_modPart_same _ (partOfCtx g) fun p => { p with torn := p.torn + 1 })
  · rw [hctx, hcounted]
  · exact (counted.ctx_modCtx_ne g k more hk).trans ((s.onlyCtx_modRun g q seq _).2 k hk)
  · have hqueue : t.queue g q = counted.queue g q := counted.queue_modCtx_of_queues g more rfl g q
    rw [State.run, hqueue]
    exact s.run_modRun_of_some g q seq _ r hr fun _ => rfl

/-- Corrupt data, found by the re-read of its data tile. -/
def State.spoilt (s : State) (g tile : Nat) (found : BitVec 32) : State :=
  { s with sumDelta := setDelta s.sumDelta (hbmKey (g / 64) (s.dpaOf g tile) / 4096) found }

theorem State.corruptTile_of_held {op : Nat} (h : op = 0x02 ∨ op = 0x31) (found : BitVec 32) :
    s.corruptTile g q seq a op found = s.spoilt g (a / 4096 * 4096) found := by
  rw [State.corruptTile]
  exact if_pos h

/-- A CHECK and a STASH_GET meet corrupt data later, and so does what reads without a started descriptor. -/
theorem State.rereadBad_of_held (h : ∀ r, s.run g q seq = some r → dOpcode r.raw = 0x02 ∨ dOpcode r.raw = 0x31) (found : BitVec 32) :
    s.rereadBad g q seq a found = s.spoilt g (a / 4096 * 4096) found := by
  cases hr : s.run g q seq with
  | none => simp only [State.rereadBad, hr, State.corruptTile_of_held (.inl rfl)]
  | some r => simp only [State.rereadBad, hr, State.corruptTile_of_held (h r hr)]

theorem State.rereadBad_of_faulting {r : Run} (hr : s.run g q seq = some r) (hcheck : dOpcode r.raw ≠ 0x02)
    (hget : dOpcode r.raw ≠ 0x31) (found : BitVec 32) :
    s.rereadBad g q seq a found = (s.spoilt g (a / 4096 * 4096) found).jobFault g q seq 0x1A (a / 4096 * 4096) := by
  simp only [State.rereadBad, hr]
  exact if_neg fun h => h.elim hcheck hget

end

/-- Settles O27: each part of a CHECK, and each outcome of a re-read. -/
theorem checksAndRereads : Obligations.ChecksAndRereads := by
  refine ⟨fun s g q seq r h => ?check, fun s g q seq a delta hreads hhbm => ?reread⟩
  case check =>
    intro all va n bad noted count first rec64
    have hexec (hop : dOpcode r.raw = 0x02) (hturn : s.turnOf 0 0 g anyRun) {t : State} (hdo : s.checkDo g q seq r = t) :
        exec (.check g q seq) s = .next (t.engineServed 0 g) :=
      congrArg Host.Outcome.next ((h.checkRow_eq hop hturn).trans (congrArg (State.engineServed · 0 g) hdo))
    refine ⟨fun hop hturn hread => ⟨fun hmore => ?_, fun hlast => ?_⟩, fun hop hturn hread => ?_,
      fun hno => congrArg Host.Outcome.next (h.checkRow_waits hno)⟩
    · exact hexec hop hturn (State.checkDo_of_part rfl rfl rfl hread hmore)
    · exact hexec hop hturn (State.checkDo_of_last rfl rfl rfl h.run hread hlast)
    · exact hexec hop hturn (State.checkDo_of_unreadable rfl rfl rfl hread)
  case reread =>
    intro tile found spoilt
    have hexec {t : State} (ht : (if found = 0 then s.tornRead g q seq else s.rereadBad g q seq a found) = t) :
        exec (.tileReread g q seq a delta) s = .next t :=
      congrArg Host.Outcome.next ((State.reread_eq hreads hhbm).trans ht)
    refine ⟨fun hfound => ⟨_, hexec (if_pos hfound), s.tornRead_effect g q seq⟩, fun hfound hheld => ?_,
      fun r hfound _ hr hcheck hget => ?_⟩
    · exact hexec ((if_neg hfound).trans (State.rereadBad_of_held hheld found))
    · exact hexec ((if_neg hfound).trans (State.rereadBad_of_faulting hr hcheck hget found))

end Sys2Proof.Machine
end

section
/-! MOVE (R274 to R276). -/
namespace Sys2Proof.Machine

/-! ### The bytes that writes leave alone -/

theorem Outside.of_append {l m : List Stored} {mem a : Nat} (h : Outside (l ++ m) mem a) : Outside l mem a ∧ Outside m mem a :=
  ⟨fun x hx => h x (List.mem_append_left m hx), fun x hx => h x (List.mem_append_right l hx)⟩

theorem SameOutside.refl (l : List Stored) (s : State) : SameOutside l s s := ⟨fun _ _ => rfl, fun _ _ => rfl, fun _ _ => rfl⟩

theorem SameOutside.append {l m : List Stored} {s t u : State} (h : SameOutside l s t) (k : SameOutside m t u) :
    SameOutside (l ++ m) s u := by
  obtain ⟨hbm, host0, host1⟩ := h
  obtain ⟨kbm, kost0, kost1⟩ := k
  exact ⟨fun a ho => (kbm a ho.of_append.2).trans (hbm a ho.of_append.1),
    fun a ho => (kost0 a ho.of_append.2).trans (host0 a ho.of_append.1),
    fun a ho => (kost1 a ho.of_append.2).trans (host1 a ho.of_append.1)⟩

/-- What a state's memories hold decides which bytes read as before. -/
theorem SameOutside.congr {l : List Stored} {s t u : State} (h : SameOutside l s t) (hhbm : u.hbm = t.hbm)
    (hhost0 : u.host0 = t.host0) (hhost1 : u.host1 = t.host1) : SameOutside l s u := by
  rw [SameOutside, hhbm, hhost0, hhost1]
  exact h

/-- A run of cells that lies in a stored run changes no byte outside it. -/
theorem cellGet_cellsWrite_of_outside {x : Stored} {a : Nat} {bs : Bytes} (hlen : bs.length ≤ x.n) (ho : Outside [x] x.mem a)
    (cs : List Host.Cell) : cellGet (cellsWrite cs x.addr bs) a = cellGet cs a :=
  cellGet_cellsWrite_out cs x.addr bs a ((ho x (List.mem_singleton_self x) rfl).imp_right fun h => by omega)

theorem State.hbmWrite_sameOutside (s : State) (p a n : Nat) {bs : Bytes} (hlen : bs.length ≤ n) :
    SameOutside [{ mem := 0, addr := hbmKey p a, n := n }] s (s.hbmWrite p a bs) :=
  ⟨fun _ ho => cellGet_cellsWrite_of_outside hlen ho s.hbm, fun _ _ => rfl, fun _ _ => rfl⟩

theorem State.hostWrite_sameOutside (s : State) (h a n : Nat) {bs : Bytes} (hlen : bs.length ≤ n) :
    SameOutside [{ mem := if h = 0 then 1 else 2, addr := a, n := n }] s (s.hostWrite h a bs) := by
  by_cases hh : h = 0
  · rw [State.hostWrite, if_pos hh, if_pos hh]
    exact ⟨fun _ _ => rfl, fun _ ho => cellGet_cellsWrite_of_outside hlen ho s.host0, fun _ _ => rfl⟩
  · rw [State.hostWrite, if_neg hh, if_neg hh]
    exact ⟨fun _ _ => rfl, fun _ _ => rfl, fun _ ho => cellGet_cellsWrite_of_outside hlen ho s.host1⟩

/-- A segment that is written goes where storedSeg says. -/
theorem State.writeSeg_sameOutside {s t : State} {g va n : Nat} {bs : Bytes} (hlen : bs.length ≤ n)
    (h : s.writeSeg g va bs = .ok t) : SameOutside (s.storedSeg g va n).toList s t := by
  unfold State.writeSeg at h
  unfold State.storedSeg
  cases hx : s.xlate g va with
  | none => simp [hx] at h
  | some x =>
    simp only [hx] at h ⊢
    split at h
    · cases h
    · rw [if_neg ‹_›]
      split at h
      · rw [if_pos ‹_›]
        split at h
        · rw [if_pos ‹_›]
          cases h
          exact s.hostWrite_sameOutside _ _ n hlen
        · cases h
      · rw [if_neg ‹_›]
        cases h
        exact s.hbmWrite_sameOutside _ _ n hlen

theorem State.writeSegs_sameOutside (g : Nat) (segs : List (Nat × Nat)) (s : State) (bs : Bytes) :
    SameOutside (storedSegs s g segs bs) s (s.writeSegs g segs bs).1 := by
  induction segs generalizing s bs with
  | nil => exact SameOutside.refl _ s
  | cons e rest ih =>
    obtain ⟨va, n⟩ := e
    cases h : s.writeSeg g va (bs.take n) with
    | error e =>
      simp only [State.writeSegs, h]
      exact SameOutside.refl _ s
    | ok t =>
      simp only [State.writeSegs, storedSegs, h]
      exact (State.writeSeg_sameOutside (List.length_take_le n bs) h).append (ih t _)

theorem State.writeAll_sameOutside (g : Nat) (ws : List (Nat × Bytes)) (s : State) :
    SameOutside (storedAll s g ws) s (s.writeAll g ws).1 := by
  induction ws generalizing s with
  | nil => exact SameOutside.refl _ s
  | cons w rest ih =>
    obtain ⟨va, bs⟩ := w
    have hsegs := State.writeSegs_sameOutside g (segsOf va bs.length) s bs
    cases h : s.writeVa g va bs with
    | mk t f =>
      rw [← State.writeVa, h] at hsegs
      cases f with
      | some e =>
        simp only [State.writeAll, storedAll, h]
        exact hsegs.append (SameOutside.refl [] t)
      | none =>
        simp only [State.writeAll, storedAll, h]
        exact hsegs.append (ih t)

/-! ### A MOVE writes as any other write; only the sums of data tiles differ -/

/-- Two states that differ in the sums of data tiles alone. -/
def SumsApart (s t : State) : Prop := t = { s with sumDelta := t.sumDelta }

theorem SumsApart.trans {s t u : State} (h : SumsApart s t) (k : SumsApart t u) : SumsApart s u := by
  rw [SumsApart, k, h]

theorem SumsApart.hbm {s t : State} (h : SumsApart s t) : t.hbm = s.hbm := by rw [h]
theorem SumsApart.host0 {s t : State} (h : SumsApart s t) : t.host0 = s.host0 := by rw [h]
theorem SumsApart.host1 {s t : State} (h : SumsApart s t) : t.host1 = s.host1 := by rw [h]

theorem SumsApart.xlate {s t : State} (h : SumsApart s t) (g va : Nat) : t.xlate g va = s.xlate g va := by
  rw [h]
  rfl

theorem SumsApart.hbmWrite {s t : State} (h : SumsApart s t) (p a : Nat) (bs : Bytes) :
    SumsApart (s.hbmWrite p a bs) (t.hbmWrite p a bs) := by
  rw [h]
  rfl

theorem SumsApart.hostWrite {s t : State} (h : SumsApart s t) (k a : Nat) (bs : Bytes) :
    SumsApart (s.hostWrite k a bs) (t.hostWrite k a bs) := by
  rw [h]
  by_cases hk : k = 0
  · rw [State.hostWrite, State.hostWrite, if_pos hk, if_pos hk]
    rfl
  · rw [State.hostWrite, State.hostWrite, if_neg hk, if_neg hk]
    rfl

/-- Sums do not decide whether or where a segment is written. -/
theorem SumsApart.writeSeg {s t : State} (h : SumsApart s t) (g va : Nat) (bs : Bytes) :
    (∃ e, s.writeSeg g va bs = .error e ∧ t.writeSeg g va bs = .error e) ∨
      ∃ s' t', s.writeSeg g va bs = .ok s' ∧ t.writeSeg g va bs = .ok t' ∧ SumsApart s' t' := by
  have hok : t.hostOk = s.hostOk := by rw [h]; rfl
  have hif : t.hostIfOf g = s.hostIfOf g := by rw [h]; rfl
  have hcfg : t.cfg = s.cfg := by rw [h]; rfl
  rw [State.writeSeg, State.writeSeg, h.xlate, hok, hif, hcfg]
  cases s.xlate g va with
  | none => exact .inl ⟨_, rfl, rfl⟩
  | some x =>
    dsimp only
    split
    · exact .inl ⟨_, rfl, rfl⟩
    · split
      · split
        · exact .inr ⟨_, _, rfl, rfl, h.hostWrite _ _ bs⟩
        · exact .inl ⟨_, rfl, rfl⟩
      · exact .inr ⟨_, _, rfl, rfl, h.hbmWrite _ _ bs⟩

theorem State.putDeltas_sumsApart (s : State) (g va n : Nat) (ds : List (Nat × BitVec 32)) : SumsApart s (s.putDeltas g va n ds) :=
  List.foldlRecOn ds _ (motive := SumsApart s) rfl fun t ht d _ => by
    split
    · exact ht.trans rfl
    · exact ht

/-- Segments written with sums and without: the same failure, and states apart in sums alone. -/
theorem SumsApart.moveSegs (g : Nat) (ds : List (Nat × BitVec 32)) (segs : List (Nat × Nat)) {s t : State} (h : SumsApart s t)
    (bs : Bytes) : SumsApart (s.writeSegs g segs bs).1 (t.moveSegs g ds segs bs).1 ∧
      (t.moveSegs g ds segs bs).2 = (s.writeSegs g segs bs).2 := by
  induction segs generalizing s t bs with
  | nil => exact ⟨h, rfl⟩
  | cons e rest ih =>
    obtain ⟨va, n⟩ := e
    rcases h.writeSeg g va (bs.take n) with ⟨e, hs, ht⟩ | ⟨s', t', hs, ht, h'⟩
    · simp only [State.writeSegs, State.moveSegs, hs, ht]
      exact ⟨h, trivial⟩
    · simp only [State.writeSegs, State.moveSegs, hs, ht]
      exact ih (h'.trans (t'.putDeltas_sumsApart g va n ds)) _

theorem SumsApart.moveWrites (g : Nat) (ds : List (Nat × BitVec 32)) (ws : List (Nat × Bytes)) {s t : State} (h : SumsApart s t) :
    SumsApart (s.writeAll g ws).1 (t.moveWrites g ds ws).1 ∧ (t.moveWrites g ds ws).2 = (s.writeAll g ws).2 := by
  induction ws generalizing s t with
  | nil => exact ⟨h, rfl⟩
  | cons w rest ih =>
    obtain ⟨va, bs⟩ := w
    obtain ⟨h', hfail⟩ := h.moveSegs g ds (segsOf va bs.length) bs
    rw [← State.writeVa] at h' hfail
    cases hm : t.moveSegs g ds (segsOf va bs.length) bs with
    | mk t' f =>
      cases hs : s.writeVa g va bs with
      | mk s' f' =>
        rw [hm, hs] at h' hfail
        obtain rfl : f = f' := hfail
        cases f with
        | some e =>
          simp only [State.writeAll, State.moveWrites, hm, hs]
          exact ⟨h', trivial⟩
        | none =>
          simp only [State.writeAll, State.moveWrites, hm, hs]
          exact ih h'

theorem State.moveWrites_sameOutside (s : State) (g : Nat) (ds : List (Nat × BitVec 32)) (ws : List (Nat × Bytes)) :
    SameOutside (storedAll s g ws) s (s.moveWrites g ds ws).1 := by
  have h := (SumsApart.moveWrites g ds ws (rfl : SumsApart s s)).1
  exact (s.writeAll_sameOutside g ws).congr h.hbm h.host0 h.host1

theorem State.moveWrites_same (s : State) (g : Nat) (ds : List (Nat × BitVec 32)) (ws : List (Nat × Bytes)) :
    s.sameButMem (s.moveWrites g ds ws).1 :=
  State.sameButMem_trans (s.writeAll_same g ws) ⟨_, _, _, _, _, (SumsApart.moveWrites g ds ws (rfl : SumsApart s s)).1⟩

/-! ### Work of a context that leaves the memories alone -/

/-- The work of context g has gone on: contexts, cores, dies, the log and the free values may differ, no other context and no
memory does. -/
structure WorkNoted (g : Nat) (s t : State) : Prop where
  frame : t = { s with ctxs := t.ctxs, cores := t.cores, dies := t.dies, log := t.log, free := t.free }
  others : OthersKept g s t

namespace WorkNoted

variable {g : Nat} {s t u : State}

theorem refl (g : Nat) (s : State) : WorkNoted g s s := ⟨rfl, fun _ _ => rfl⟩

theorem trans (h : WorkNoted g s t) (k : WorkNoted g t u) : WorkNoted g s u := by
  refine ⟨?_, fun j hj => (k.others j hj).trans (h.others j hj)⟩
  calc u = { t with ctxs := u.ctxs, cores := u.cores, dies := u.dies, log := u.log, free := u.free } := k.frame
    _ = { s with ctxs := u.ctxs, cores := u.cores, dies := u.dies, log := u.log, free := u.free } := by rw [h.frame]

theorem of_onlyCtx (h : OnlyCtx g s t) : WorkNoted g s t := by
  obtain ⟨hframe, hothers⟩ := h
  refine ⟨?_, hothers⟩
  rw [hframe]

theorem foldl {α : Type} {f : State → α → State} (h : ∀ s a, WorkNoted g s (f s a)) (l : List α) (s : State) :
    WorkNoted g s (l.foldl f s) :=
  List.foldlRecOn l f (motive := WorkNoted g s) (refl g s) fun t ht a _ => ht.trans (h t a)

theorem hbm (h : WorkNoted g s t) : t.hbm = s.hbm := by rw [h.frame]
theorem host0 (h : WorkNoted g s t) : t.host0 = s.host0 := by rw [h.frame]
theorem host1 (h : WorkNoted g s t) : t.host1 = s.host1 := by rw [h.frame]

end WorkNoted

theorem State.demandReads_noted (s : State) (d g : Nat) (reads : List (Nat × Nat)) : WorkNoted g s (s.demandReads d g reads) :=
  (WorkNoted.foldl (fun t r => WorkNoted.foldl (f := fun t a => t.readLine g a) (fun _ _ => ⟨rfl, fun _ _ => rfl⟩)
    (linesOf r.1 r.2) t) reads s).trans
    ⟨rfl, fun _ _ => rfl⟩

theorem State.forgetXlat_noted (s : State) (g : Nat) : WorkNoted g s (s.forgetXlat g) :=
  (show WorkNoted g s s.draw.2 from ⟨rfl, fun _ _ => rfl⟩).trans
    (.of_onlyCtx (s.draw.2.onlyCtx_modCtx g fun c => { c with tlb := c.tlb.filter fun e => s.draw.1.getLsbD (e.1 % 512) }))

theorem State.keepRange_noted (s : State) (g : Nat) (r : Nat × Nat) : WorkNoted g s (s.keepRange g r) :=
  WorkNoted.foldl (fun t _ => .of_onlyCtx (t.onlyCtx_modCtx g _)) (segsOf r.1 r.2) s

theorem State.accessed_noted (s : State) (d g : Nat) (reads writes : List (Nat × Nat)) :
    WorkNoted g s (s.accessed d g reads writes) :=
  ((s.demandReads_noted d g reads).trans (State.forgetXlat_noted _ g)).trans
    (WorkNoted.foldl (fun t r => t.keepRange_noted g r) (reads ++ writes) _)

theorem State.modRun_noted (s : State) (g q seq : Nat) (f : Run → Run) : WorkNoted g s (s.modRun g q seq f) :=
  .of_onlyCtx (s.onlyCtx_modRun g q seq f)

theorem State.jobFault_noted (s : State) (g q seq status tile : Nat) : WorkNoted g s (s.jobFault g q seq status tile) := by
  by_cases hactive : (s.ctx g).st = .active
  · have h := s.jobFault_faults g q seq status tile hactive
    refine ⟨?_, h.others⟩
    rw [h.frame]
  · rw [State.jobFault, if_pos (by simpa using hactive)]
    exact .refl g s

/-! ### One work tile of a MOVE -/

section
variable {s t w : State} {g q seq : Nat} {r : Run} {ds : List (Nat × BitVec 32)} {ws : List (Nat × Bytes)} {f : Option Fail}

theorem OthersKept.of_sameButMem (h : s.sameButMem t) : OthersKept g s t := by
  obtain ⟨_, _, _, _, _, rfl⟩ := h
  exact fun _ _ => rfl

/-- Memories written, then work noted, then the engine's note of whom it served. -/
theorem State.sameButMem.onlyEngine_served (h : s.sameButMem t) (k : WorkNoted g t w) (u : Nat) :
    OnlyEngine s (w.engineServed u g) := by
  have hparts : w.parts = s.parts := by
    obtain ⟨_, _, _, _, _, rfl⟩ := h
    rw [k.frame]
  refine ⟨?_, fun p => ?_⟩
  · obtain ⟨_, _, _, _, _, rfl⟩ := h
    rw [State.engineServed, State.modPart, k.frame]
  · have hpart : ∀ j, w.part j = s.part j := fun j => by rw [State.part, State.part, hparts]
    by_cases hp : p = partOfCtx g
    · rw [hp, State.engineServed, State.part_modPart_same, hpart]
    · rw [State.engineServed, State.part_modPart_ne _ _ _ _ hp, hpart]

/-- What a work tile changes, whether it ends or faults. -/
theorem State.moveWrites_then_noted (h : s.moveWrites g ds ws = (t, f)) (k : WorkNoted g t w) :
    SameOutside (storedAll s g ws) s w ∧ OnlyEngine s (w.engineServed 0 g) ∧ OthersKept g s w := by
  have hout := s.moveWrites_sameOutside g ds ws
  have hsame := s.moveWrites_same g ds ws
  rw [h] at hout hsame
  exact ⟨hout.congr k.hbm k.host0 k.host1, State.sameButMem.onlyEngine_served hsame k 0,
    fun j hj => (k.others j hj).trans (OthersKept.of_sameButMem hsame j hj)⟩

theorem State.run_moveWrites (h : s.moveWrites g ds ws = (t, f)) (k q seq : Nat) : t.run k q seq = s.run k q seq := by
  have hsame := s.moveWrites_same g ds ws
  rw [h] at hsame
  rw [State.run, State.run, s.queue_of_sameButMem hsame]

theorem State.moveDo_of_write_fails {e : Fail}
    (h : s.moveWrites g (s.movePlan g (moveBody r.raw) r.cursor).sums (joinRuns (s.movePlan g (moveBody r.raw) r.cursor).writes) =
      (t, some e)) : s.moveDo g q seq r = t.jobFault g q seq e.status e.tile := by
  simp only [State.moveDo, State.moveTile, h]

theorem State.moveDo_of_read_fails {e : Fail}
    (h : s.moveWrites g (s.movePlan g (moveBody r.raw) r.cursor).sums (joinRuns (s.movePlan g (moveBody r.raw) r.cursor).writes) =
      (t, none)) (hfail : (s.movePlan g (moveBody r.raw) r.cursor).fail = some e) :
    s.moveDo g q seq r = t.jobFault g q seq e.status e.tile := by
  simp only [State.moveDo, State.moveTile, h, hfail]

theorem State.moveDo_of_done
    (h : s.moveWrites g (s.movePlan g (moveBody r.raw) r.cursor).sums (joinRuns (s.movePlan g (moveBody r.raw) r.cursor).writes) =
      (t, none)) (hfail : (s.movePlan g (moveBody r.raw) r.cursor).fail = none) :
    s.moveDo g q seq r = (t.accessed (t.engineDie g) g ((moveBody r.raw).srcRanges r.cursor) []).engineTile g q seq
      ((moveBody r.raw).tileBytes r.cursor) (moveBody r.raw).bytes stDone := by
  simp only [State.moveDo, State.moveTile, h, hfail]

theorem State.run_engineTile (h : s.run g q seq = some r) (n total status : Nat) :
    (s.engineTile g q seq n total status).run g q seq =
      some { r with cursor := r.cursor + n, ran := total ≤ r.cursor + n
                    status := if total ≤ r.cursor + n then status else r.status } :=
  s.run_modRun_of_some g q seq _ r h fun _ => rfl

theorem MoveBody.tileBytes_eq (b : MoveBody) (at' : Nat) : b.tileBytes at' = ((b.pieces (b.rows + 1) at').map (·.n)).sum := by
  rw [MoveBody.tileBytes, List.sum_eq_foldl, List.foldl_map]

/-! The plan of each mode. -/

variable {b : MoveBody}

theorem State.movePlan_copy (h : b.mode = 0) (at' : Nat) :
    s.movePlan g b at' = s.moveReads g b.verifyAll (joinPieces (b.pieces (b.rows + 1) at')) := by
  simp only [State.movePlan, h]

theorem State.movePlan_fill (h : b.mode = 1) (at' : Nat) :
    s.movePlan g b at' = { writes := (b.pieces (b.rows + 1) at').map fun p => (p.dst, fillRow b.fill p.col p.n) } := by
  simp only [State.movePlan, h]

theorem fillRow_zero (col n : Nat) : fillRow 0 col n = zeros n := by
  simp [fillRow, zeros, List.map_const']

theorem State.movePlan_zero (h : b.mode = 2) (at' : Nat) :
    s.movePlan g b at' = { writes := (b.pieces (b.rows + 1) at').map fun p => (p.dst, fillRow 0 p.col p.n) } := by
  simp only [State.movePlan, h, fillRow_zero]

/-! The row of each mode. -/

theorem Ready.moveRow_eq {mode : Nat} (h : Ready g q seq s r) (hop : dOpcode r.raw = 0x01) (hmode : fld r.raw 48 1 = mode)
    (hturn : s.turnOf 0 0 g anyRun) : s.moveRow g q seq mode = (s.moveDo g q seq r).engineServed 0 g := by
  rw [State.moveRow, h.engineGate_eq (kind := isMove mode) hturn (by simp [isMove, hop, hmode]) rfl]

theorem State.moveRow_of_not_turn (hturn : ¬ s.turnOf 0 0 g anyRun) (mode : Nat) : s.moveRow g q seq mode = s := by
  rw [State.moveRow, State.engineGate_of_not_turn hturn]

end

/-- Settles O26: what a work tile writes is its plan's (State.movePlan_copy, _fill, _zero), and it changes nothing outside
(State.moveWrites_then_noted). -/
theorem moveRows : Obligations.MoveRows := by
  intro s g q seq r h b ps n done wrote filled plan runs
  have hn : b.tileBytes r.cursor = n := b.tileBytes_eq r.cursor
  have hruns : ∀ i ws ds fail, s.movePlan g b r.cursor = { writes := ws, sums := ds, fail := fail } →
      exec i s = .next ((s.moveDo g q seq r).engineServed 0 g) → runs i ws ds fail := by
    intro i ws ds fail hplan hexec
    cases hw : s.moveWrites g ds (joinRuns ws) with
    | mk t f =>
      have hpw : s.moveWrites g (s.movePlan g b r.cursor).sums (joinRuns (s.movePlan g b r.cursor).writes) = (t, f) := by
        rw [hplan, hw]
      have hpf : (s.movePlan g b r.cursor).fail = fail := by rw [hplan]
      have hwritten : ∀ w, WorkNoted g t w → wrote ws ds fail = w → SameOutside (storedAll s g (joinRuns ws)) s (wrote ws ds fail) ∧
          OnlyEngine s ((wrote ws ds fail).engineServed 0 g) ∧ OthersKept g s (wrote ws ds fail) := by
        intro w hnoted hwrote
        rw [hwrote]
        exact State.moveWrites_then_noted hw hnoted
      cases f with
      | some e =>
        refine ⟨?_, fun t' _ hw' => ?_, hwritten (t.jobFault g q seq e.status e.tile) (t.jobFault_noted g q seq _ _) ?_⟩
        · rw [hexec, State.moveDo_of_write_fails hpw]
          simp only [wrote, hw]
        · cases hw.symm.trans hw'
        · simp only [wrote, hw]
      | none =>
        cases fail with
        | some e =>
          refine ⟨?_, fun _ hf => absurd hf (by simp), hwritten (t.jobFault g q seq e.status e.tile) (t.jobFault_noted g q seq _ _) ?_⟩
          · rw [hexec, State.moveDo_of_read_fails hpw hpf]
            simp only [wrote, hw]
          · simp only [wrote, hw]
        | none =>
          have hdone : s.moveDo g q seq r = done t := by
            rw [State.moveDo_of_done hpw hpf, hn]
            rfl
          have hwrote : wrote ws ds none = done t := by simp only [wrote, hw]
          have hacc := t.accessed_noted (t.engineDie g) g (b.srcRanges r.cursor) []
          have hrun : (t.accessed (t.engineDie g) g (b.srcRanges r.cursor) []).run g q seq = some r := by
            rw [State.run, State.queue_accessed, ← State.run, State.run_moveWrites hw, h.run]
          refine ⟨by rw [hexec, hdone, hwrote], fun t' _ hw' => ?_, hwritten (done t) (hacc.trans (State.modRun_noted _ g q seq _)) hwrote⟩
          cases hw.symm.trans hw'
          exact ⟨(done t).engineServed 0 g, _, hexec.trans (by rw [hdone]), State.run_engineTile hrun n b.bytes stDone, rfl,
            fun hall => ⟨decide_eq_true hall, if_pos hall⟩, hacc.hbm⟩
  refine ⟨fun hop hturn => ⟨fun hm => ?_, fun hm => ?_, fun hm => ?_⟩, fun hturn => ⟨?_, ?_, ?_⟩⟩
  · exact hruns _ _ _ _ (State.movePlan_copy hm r.cursor) (congrArg Host.Outcome.next (h.moveRow_eq hop hm hturn))
  · exact hruns _ _ _ _ (State.movePlan_fill hm r.cursor) (congrArg Host.Outcome.next (h.moveRow_eq hop hm hturn))
  · exact hruns _ _ _ _ (State.movePlan_zero hm r.cursor) (congrArg Host.Outcome.next (h.moveRow_eq hop hm hturn))
  all_goals exact congrArg Host.Outcome.next (State.moveRow_of_not_turn hturn _)

end Sys2Proof.Machine
end

section
/-! The ports of the fabric: what sending leaves of a port and of the rest of the module, what a port that passes no flits is
spared, and the state of a port that goes DOWN (R282 to R285, R297, R430). -/
namespace Sys2Proof.Machine

/-! ### One port -/

/-- A port without what sending, acknowledging and resending change: its flits, packets, credits and sending key. -/
def Port.still (x : Port) : Port :=
  { x with
    txSeq := 0, ackDue := false, replay := [], wire := [], ctlq := [], txq := [], sentq := [], credits := [], freed := [], share := 0
    turns := [], txKey := none, replayed := 0, sendFails := 0, resentFrom := none, triedAt := 0 }

theorem Port.st_of_still {x y : Port} (h : y.still = x.still) : y.st = x.st := congrArg (·.st) h
theorem Port.laneFail_of_still {x y : Port} (h : y.still = x.still) : y.laneFail = x.laneFail := congrArg (·.laneFail) h
theorem Port.calFailed_of_still {x y : Port} (h : y.still = x.still) : y.calFailed = x.calFailed := congrArg (·.calFailed) h
theorem Port.peer_of_still {x y : Port} (h : y.still = x.still) : y.peer = x.peer := congrArg (·.peer) h

theorem Port.live_of_st {x y : Port} (h : y.st = x.st) : y.live = x.live := by rw [Port.live, Port.live, h]

section
variable (x : Port) (e : LinkEnv)

@[simp] theorem Port.still_idle : (x.idle e).still = x.still := rfl
@[simp] theorem Port.still_put (kind vc : Nat) (data : Bytes) (no : Option Nat) (ctl : Option Ctl) :
    (x.put e kind vc data no ctl).still = x.still := rfl

@[simp] theorem Port.still_flushFor (n : Nat) : (Port.flushFor e n x).still = x.still := by
  induction n generalizing x with
  | zero => rfl
  | succ n ih =>
    rw [Port.flushFor]
    split
    · exact (ih _).trans (x.still_idle e)
    · rfl

@[simp] theorem Port.still_flush : (x.flush e).still = x.still := x.still_flushFor e 16

@[simp] theorem Port.still_drainCtl (l : List Ctl) : (Port.drainCtl e l x).still = x.still := by
  induction l generalizing x with
  | nil => rfl
  | cons m l ih =>
    rw [Port.drainCtl]
    split
    · rfl
    · exact (ih _).trans (Port.still_put _ e _ _ _ _ _)

@[simp] theorem Port.still_sendCtl (m : Ctl) : (x.sendCtl e m).still = x.still := Port.still_drainCtl _ e _

@[simp] theorem Port.still_sendFlit (k : TxPkt) (shared : Bool) : (x.sendFlit e k shared).1.still = x.still := by
  unfold Port.sendFlit
  dsimp only
  split <;> rfl

@[simp] theorem Port.still_pumpFor (n : Nat) (l : List (Nat × Nat × Nat)) : (Port.pumpFor e n x l).1.still = x.still := by
  induction n generalizing x l with
  | zero => rfl
  | succ n ih =>
    rw [Port.pumpFor]
    split
    · rfl
    · split
      · rfl
      · exact (ih _ _).trans (x.still_sendFlit e _ _)

@[simp] theorem Port.still_fillIdle (old : Port) : (x.fillIdle old e).still = x.still := by
  unfold Port.fillIdle
  split <;> rfl

@[simp] theorem Port.still_pump : (x.pump e).1.still = x.still := by simp [Port.pump]

@[simp] theorem Port.still_acked (ack : Nat) : (x.acked ack).still = x.still := by
  unfold Port.acked
  dsimp only
  split <;> rfl

end

/-! ### The ports, and all besides them -/

/-- Of the module only its ports differ, and of a port only what sending changes. -/
structure OnlySending (s t : State) : Prop where
  frame : t = { s with ports := t.ports }
  still : ∀ k, (t.port k).still = (s.port k).still

theorem OnlySending.refl (s : State) : OnlySending s s := ⟨rfl, fun _ => rfl⟩

/-- Of the module only its ports and what it keeps for all of them differ, and port p does not. -/
structure SparesPort (p : Nat) (s t : State) : Prop where
  frame : t = { s with ports := t.ports, fab := t.fab }
  port : t.port p = s.port p

theorem SparesPort.refl (p : Nat) (s : State) : SparesPort p s s := ⟨rfl, rfl⟩

theorem ports_frame_trans {s t u : State} (h : t = { s with ports := t.ports }) (k : u = { t with ports := u.ports }) :
    u = { s with ports := u.ports } := calc
  u = { t with ports := u.ports } := k
  _ = { s with ports := u.ports } := by rw [h]

theorem OnlySending.trans {s t u : State} (h : OnlySending s t) (k : OnlySending t u) : OnlySending s u where
  frame := ports_frame_trans h.frame k.frame
  still p := (k.still p).trans (h.still p)

theorem SparesPort.trans {p : Nat} {s t u : State} (h : SparesPort p s t) (k : SparesPort p t u) : SparesPort p s u where
  frame := calc
    u = { t with ports := u.ports, fab := u.fab } := k.frame
    _ = { s with ports := u.ports, fab := u.fab } := by rw [h.frame]
  port := k.port.trans h.port

theorem OnlySending.foldl {α : Type} {f : State → α → State} (h : ∀ s a, OnlySending s (f s a)) (s : State) (l : List α) :
    OnlySending s (l.foldl f s) :=
  List.foldlRecOn l f (OnlySending.refl s) fun t ht a _ => ht.trans (h t a)

/-- Steps that spare a port which passes no flits spare it one after another. -/
theorem SparesPort.foldl {α : Type} {f : State → α → State} {p : Nat}
    (h : ∀ s a, (s.port p).linked = false → SparesPort p s (f s a)) (s : State) (hs : (s.port p).linked = false) (l : List α) :
    SparesPort p s (l.foldl f s) :=
  List.foldlRecOn l f (SparesPort.refl p s) fun t ht a _ => ht.trans (h t a (by rwa [ht.port]))

section
variable (s : State)

theorem State.onlySending_modPort (p : Nat) (f : Port → Port) (h : (f (s.port p)).still = (s.port p).still) :
    OnlySending s (s.modPort p f) := by
  refine ⟨rfl, fun k => ?_⟩
  by_cases hk : k = p
  · rwa [hk, State.port_modPort_same]
  · rw [State.port_modPort_ne _ _ _ _ hk]

theorem State.sparesPort_modPort {p q : Nat} (h : q ≠ p) (f : Port → Port) : SparesPort p s (s.modPort q f) :=
  ⟨rfl, State.port_modPort_ne _ _ _ _ h.symm⟩

theorem State.onlySending_freeBuffer (p vc n : Nat) : OnlySending s (s.freeBuffer p vc n) := by
  unfold State.freeBuffer
  split
  · exact OnlySending.refl s
  · refine s.onlySending_modPort p _ ?_
    split
    · exact Port.still_flush _ _
    · rfl

/-- A port that passes no flits gives no credits back. -/
theorem State.sparesPort_freeBuffer {p : Nat} (h : (s.port p).linked = false) (q vc n : Nat) :
    SparesPort p s (s.freeBuffer q vc n) := by
  unfold State.freeBuffer
  split
  · exact SparesPort.refl p s
  · by_cases hq : q = p
    · subst hq
      exact ⟨rfl, by rw [State.port_modPort_same, h, if_neg Bool.false_ne_true]⟩
    · exact s.sparesPort_modPort hq _

theorem State.onlySending_pump (p : Nat) : OnlySending s (s.pump p) := by
  unfold State.pump
  split
  · exact (s.onlySending_modPort p _ (Port.still_pump _ _)).trans
      (OnlySending.foldl (fun s _ => s.onlySending_freeBuffer _ _ _) _ _)
  · exact OnlySending.refl s

theorem State.sparesPort_pump {p : Nat} (h : (s.port p).linked = false) (q : Nat) : SparesPort p s (s.pump q) := by
  unfold State.pump
  split
  next hq =>
    have hne : q ≠ p := by
      rintro rfl
      exact Bool.false_ne_true (h.symm.trans hq)
    have hsent := s.sparesPort_modPort hne fun _ => ((s.port q).pump (s.linkEnv q)).1
    exact hsent.trans (SparesPort.foldl (fun s _ hs => s.sparesPort_freeBuffer hs _ _ _) _ (by rwa [hsent.port]) _)
  next => exact SparesPort.refl p s

theorem State.onlySending_endTx (no : Nat) (st : TxState) : OnlySending s (s.endTx no st) := by
  have hport (p : Nat) (f : List TxPkt → List TxPkt) : OnlySending s (s.modPort p fun x => { x with txq := f x.txq }) :=
    s.onlySending_modPort p _ rfl
  unfold State.endTx
  split
  · exact OnlySending.refl s
  · split
    · exact OnlySending.refl s
    · split
      · dsimp only
        split
        · exact ((hport _ _).trans (State.onlySending_freeBuffer _ _ _ _)).trans (State.onlySending_pump _ _)
        · exact (hport _ _).trans (State.onlySending_pump _ _)
      · exact (hport _ _).trans (State.onlySending_pump _ _)

theorem nth_mem {α : Type} (d : α) (l : List α) {i : Nat} (h : i < l.length) : nth d l i ∈ l := by
  have hhead : nth d l i = l[i] := by simp [nth, List.headD_eq_head?_getD, List.head?_drop, h]
  exact hhead ▸ List.getElem_mem h

/-- One of several ports taken by a hash. -/
theorem nth_mod_mem {l : List Nat} (h : l ≠ []) (n : Nat) : nth 0 l (n % l.length) ∈ l :=
  nth_mem 0 l (Nat.mod_lt _ (List.length_pos_iff.2 h))

/-- A packet sent again goes to another port than one that passes no flits. -/
theorem State.sparesPort_resendOn {p : Nat} (h : (s.port p).linked = false) {ports : List Nat} (hp : p ∉ ports) (k : TxPkt) :
    SparesPort p s (s.resendOn ports k) := by
  unfold State.resendOn
  split
  · split
    · exact s.sparesPort_freeBuffer h _ _ _
    · exact SparesPort.refl p s
  next hne =>
    have hrequeue (q : Nat) (hq : q ∈ ports) : SparesPort p s (s.requeue q k) := by
      have hqueued := s.sparesPort_modPort (ne_of_mem_of_not_mem hq hp) fun y => { y with txq := y.txq ++ [{ k with sent := 0, key := none }] }
      exact hqueued.trans (State.sparesPort_pump _ (by rwa [hqueued.port]) _)
    exact hrequeue _ (nth_mod_mem hne _)

theorem State.sparesPort_queuePkt {p q : Nat} (h : (s.port p).linked = false) (hq : q ≠ p) (k : TxPkt) :
    SparesPort p s (s.queuePkt q k) := by
  have hfab (f : Fabric → Fabric) : SparesPort p s (s.modFab f) := ⟨rfl, rfl⟩
  have hqueued (f : Fabric → Fabric) (g : Port → Port) : SparesPort p s ((s.modFab f).modPort q g) :=
    (hfab f).trans (State.sparesPort_modPort _ hq g)
  exact (hqueued _ _).trans (State.sparesPort_pump _ (by rwa [(hqueued _ _).port]) q)

/-- A route leaves through a live port (R294). -/
theorem State.routeFrom_live {die : Nat} {upper : Bool} {k : Packet} {r : Route} (h : s.routeFrom die upper k = some r) :
    (s.port r.port).live = true := by
  have hroute := (Option.filter_eq_some_iff.1 h).1
  unfold State.routeOf at hroute
  dsimp only at hroute
  split at hroute
  · cases hroute
  next hlive =>
    obtain rfl := Option.some.inj hroute
    have hmem := nth_mod_mem (not_or.1 hlive).1 (popcount 18 (k.srcId ^^^ k.dstId ^^^ (k.flow % 2 ^ 18)))
    exact (Bool.and_eq_true_iff.1 (List.mem_filter.1 hmem).2).2

/-- A packet of the module's own leaves through another port than one that passes no flits. -/
theorem State.sparesPort_send {p : Nat} (h : (s.port p).linked = false) (k : Packet) : SparesPort p s (s.send k) := by
  unfold State.send
  split
  · split
    · exact ⟨rfl, rfl⟩
    · exact SparesPort.refl p s
  · split
    next r hroute =>
      refine s.sparesPort_queuePkt h (fun hp => ?_) _
      rw [Port.linked, ← hp, s.routeFrom_live hroute] at h
      exact Bool.noConfusion h
    next => exact SparesPort.refl p s

/-- A packet that no longer holds buffer of port p. -/
def TxPkt.forgetting (p : Nat) (k : TxPkt) : TxPkt := if (k.src.map (·.1)) = some p then { k with src := none, owed := 0 } else k

/-- The packets of a port, that no longer hold buffer of port p. -/
def Port.forgetting (p : Nat) (x : Port) : Port := { x with txq := x.txq.map (TxPkt.forgetting p) }

theorem State.port_forgetSrc (p k : Nat) : (s.forgetSrc p).port k = (s.port k).forgetting p :=
  mapGet_map_value ({} : Port) s.ports (Port.forgetting p) rfl k

end

/-! ### A port that goes DOWN (R297, R430) -/

/-- What a port that has fallen leaves: the port as `Port.fall` has it, and of the rest only its dale, the session of its
link and the other ports. -/
structure PortDropped (p : Nat) (st : PortState) (s t : State) : Prop where
  frame : t = { s with pwr := { s.pwr with dales := t.pwr.dales }, sec := t.sec, ports := t.ports, fab := t.fab }
  port : ∃ y : Port, y.still = (s.port p).still ∧ t.port p = y.fall st s.now

/-- The module once the port has fallen, before its bundle sends again. -/
def State.fallen (s : State) (p : Nat) (st : PortState) : State :=
  (((s.resetDale (176 + p)).modPort p fun x => x.fall st s.now).forgetSrc p).modSec fun x =>
    { x with sessions := x.sessions.filter (·.conn != .port p), negotiated := x.negotiated.filter (· != .port p)
             asking := x.asking.filter (·.what != .port p) }

/-- The module once what the port was passing on is broken. -/
def State.brokenOff (s : State) (p : Nat) : State := ((s.port p).asm.filterMap (·.out)).foldl (fun s no => s.endTx no .broken) s

theorem State.dropPort_eq (s : State) (p : Nat) (st : PortState) :
    s.dropPort p st = ((s.brokenOff p).port p).unsent.foldl
      (fun t k => t.resendOn (((s.brokenOff p).fallen p st).bundlePeers p) (k.forgetting p)) ((s.brokenOff p).fallen p st) := rfl

theorem State.onlySending_brokenOff (s : State) (p : Nat) : OnlySending s (s.brokenOff p) :=
  OnlySending.foldl (fun s no => s.onlySending_endTx no .broken) s _

theorem State.fallen_dropped (s : State) (p : Nat) (st : PortState) : PortDropped p st s (s.fallen p st) := by
  refine ⟨rfl, s.port p, rfl, (State.modSec_port_read _ _ p).trans ((State.port_forgetSrc _ p p).trans ?_)⟩
  rw [State.port_modPort_same]
  rfl

theorem PortDropped.of_sending {p : Nat} {st : PortState} {s t u : State} (h : OnlySending s t) (k : PortDropped p st t u) :
    PortDropped p st s u := by
  obtain ⟨y, hstill, hport⟩ := k.port
  have hframe := k.frame
  rw [h.frame] at hport hframe
  exact ⟨hframe, y, hstill.trans (h.still p), hport⟩

theorem PortDropped.of_spared {p : Nat} {st : PortState} {s t u : State} (h : PortDropped p st s t) (k : SparesPort p t u) :
    PortDropped p st s u := by
  obtain ⟨y, hstill, hport⟩ := h.port
  refine ⟨?_, y, hstill, k.port.trans hport⟩
  have hpwr : u.pwr = t.pwr := by rw [k.frame]
  have hsec : u.sec = t.sec := by rw [k.frame]
  calc u = { t with ports := u.ports, fab := u.fab } := k.frame
    _ = { s with pwr := { s.pwr with dales := t.pwr.dales }, sec := t.sec, ports := u.ports, fab := u.fab } := by rw [h.frame]
    _ = { s with pwr := { s.pwr with dales := u.pwr.dales }, sec := u.sec, ports := u.ports, fab := u.fab } := by rw [hpwr, hsec]

theorem State.not_mem_bundlePeers (s : State) (p : Nat) : p ∉ s.bundlePeers p := fun h => by simpa using (List.mem_filter.1 h).2

/-- A dropped port passes no flits in its new state, so what its bundle sends again leaves it alone. -/
theorem State.dropPort_dropped (s : State) (p : Nat) {st : PortState} (hst : ∀ y : Port, (y.fall st s.now).linked = false) :
    PortDropped p st s (s.dropPort p st) := by
  have hfallen := ((s.brokenOff p).fallen_dropped p st).of_sending (s.onlySending_brokenOff p)
  obtain ⟨y, -, hport⟩ := hfallen.port
  rw [s.dropPort_eq p st]
  exact hfallen.of_spared (SparesPort.foldl (fun t k ht => t.sparesPort_resendOn ht (State.not_mem_bundlePeers _ p) (k.forgetting p)) _
    (hport ▸ hst y) _)

/-- A port that goes DOWN for a cause: what has fallen, and the record of it. -/
structure PortFell (p cause : Nat) (s t : State) : Prop where
  port : ∃ y : Port, y.laneFail = (s.port p).laneFail ∧ t.port p = y.fall .down s.now
  hbm : t.hbm = s.hbm
  parts : t.parts = s.parts
  doubler : t.doubler = s.doubler
  log : t.log = (s.event 0x0031 (partCode 4 p) 0xFF (BitVec.ofNat 8 cause :: leBytes 4 ((s.port p).peer.toNat % 2 ^ 18))).log

theorem State.portDown_fell (s : State) (p cause : Nat) : PortFell p cause s (s.portDown p cause) := by
  have hdrop := s.dropPort_dropped p (st := .down) fun _ => rfl
  obtain ⟨y, hstill, hport⟩ := hdrop.port
  have hframe := hdrop.frame
  unfold State.portDown
  generalize s.dropPort p .down = t at hport hframe ⊢
  refine ⟨⟨y, Port.laneFail_of_still hstill, hport⟩, ?_, ?_, ?_, ?_⟩ <;> rw [hframe] <;> rfl

/-- What a port loses by falling does not depend on what it has sent before. -/
theorem PortFell.of_sending {p cause : Nat} {s t u : State} (h : OnlySending s t) (k : PortFell p cause t u) :
    PortFell p cause s u := by
  obtain ⟨y, hlanes, hport⟩ := k.port
  have hframe := h.frame
  have hlog := k.log
  rw [Port.peer_of_still (h.still p)] at hlog
  refine ⟨⟨y, hlanes.trans (Port.laneFail_of_still (h.still p)), hport.trans ?_⟩, k.hbm.trans ?_, k.parts.trans ?_, k.doubler.trans ?_,
    hlog.trans ?_⟩ <;> rw [hframe] <;> rfl

theorem PortFell.of_spared {p cause : Nat} {s t u : State} (h : PortFell p cause s t) (k : SparesPort p t u) : PortFell p cause s u := by
  obtain ⟨y, hlanes, hport⟩ := h.port
  have hframe := k.frame
  exact ⟨⟨y, hlanes, k.port.trans hport⟩, by rw [hframe]; exact h.hbm, by rw [hframe]; exact h.parts, by rw [hframe]; exact h.doubler,
    by rw [hframe]; exact h.log⟩

theorem PortFell.not_linked {p cause : Nat} {s t : State} (h : PortFell p cause s t) : (t.port p).linked = false := by
  obtain ⟨y, -, hport⟩ := h.port
  rw [hport]
  rfl

theorem PortFell.fallsFor {i : Instr} {p cause : Nat} {s t : State} (h : PortFell p cause s t) (hexec : exec i s = .next t) :
    FallsFor i s p cause := by
  obtain ⟨y, -, hport⟩ := h.port
  refine ⟨t, hexec, ?_, ?_, ?_, ?_, ?_, ?_, ?_, ?_, h.hbm, h.parts, h.log⟩ <;> rw [hport] <;> rfl

/-! ### Commands that change one port -/

theorem State.onlyPort_modPort (s : State) (p : Nat) (f : Port → Port) : OnlyPort p s (s.modPort p f) :=
  ⟨rfl, fun k hk => s.port_modPort_ne p k f hk⟩

theorem OnlyPort.trans {p : Nat} {s t u : State} (h : OnlyPort p s t) (k : OnlyPort p t u) : OnlyPort p s u :=
  ⟨ports_frame_trans h.1 k.1, fun i hi => (k.2 i hi).trans (h.2 i hi)⟩

theorem portBecomes_of_modPort {i : Instr} {s : State} {p : Nat} {f : Port → Port} {x : Port} (h : exec i s = .next (s.modPort p f))
    (hx : f (s.port p) = x) : PortBecomes i s p x :=
  ⟨_, h, s.onlyPort_modPort p f, (s.port_modPort_same p f).trans hx⟩

end Sys2Proof.Machine
end

section
/-! Calibration, lane failures and link keys of a port (R290 to R292). -/
namespace Sys2Proof.Machine

/-! ### Lanes -/

theorem Port.lsTaken_iff (x : Port) : x.lsTaken = true ↔ ∃ l, x.ls = some l ∧ x.laneFail.getLsbD l = true := by
  unfold Port.lsTaken Port.laneOk
  cases x.ls <;> simp

theorem Port.readapts_eq (x : Port) (i : Nat) : x.readapts i = if x.lsTaken = true ∧ x.ls = some i then 4 else i := by
  simp [Port.readapts]

theorem Port.grade_of_live {x : Port} (h : x.live = true) :
    x.grade = { x with st := if x.laneFail.toNat % 16 = 0 then .up else .degraded } := if_pos h

@[simp] theorem Port.laneFail_grade (x : Port) : x.grade.laneFail = x.laneFail := by
  unfold Port.grade
  split <;> rfl

@[simp] theorem Port.ls_grade (x : Port) : x.grade.ls = x.ls := by
  unfold Port.grade
  split <;> rfl

@[simp] theorem Port.cal_grade (x : Port) : x.grade.cal = x.cal := by
  unfold Port.grade
  split <;> rfl

section
variable (x : Port) (mode lane : Nat)

/-- Whatever a failure does to LS, the lane is marked failed and the port's state stays. -/
theorem Port.spare_keeps : (x.spare lane).laneFail = x.laneFail ∧ (x.spare lane).st = x.st := by
  unfold Port.spare
  split
  · exact ⟨rfl, rfl⟩
  · exact ⟨rfl, rfl⟩
  · split <;> exact ⟨rfl, rfl⟩
  · split
    · exact ⟨rfl, rfl⟩
    · split <;> exact ⟨rfl, rfl⟩

theorem Port.failLane_keeps :
    (x.failLane mode lane).laneFail = x.laneFail ||| BitVec.ofNat 5 (2 ^ lane) ∧ (x.failLane mode lane).st = x.st := by
  unfold Port.failLane
  dsimp only
  split
  · exact ⟨rfl, rfl⟩
  · split
    · exact ⟨rfl, rfl⟩
    · split
      · split
        · split <;> exact ⟨rfl, rfl⟩
        · exact ⟨rfl, rfl⟩
      · exact Port.spare_keeps _ lane

end

/-- Outside a window, a failed data lane has LS for its carrier and every other lane its own. -/
theorem Port.carried_of_spared {x : Port} {lane i : Nat} (hcal : x.cal = none) (hls : x.ls = some lane)
    (hfail : x.laneFail = BitVec.ofNat 5 (2 ^ lane)) (hlane : lane < 4) (hi : i < 4) : x.carried i = true := by
  simp only [Port.carried, Port.lsOk, Port.laneOk, hcal, hls, hfail]
  interval_cases lane <;> interval_cases i <;> rfl

theorem Port.lanesUsed_of_spared {x : Port} {lane : Nat} (hcal : x.cal = none) (hls : x.ls = some lane)
    (hfail : x.laneFail = BitVec.ofNat 5 (2 ^ lane)) (hlane : lane < 4) : x.lanesUsed = 4 :=
  congrArg List.length (List.filter_eq_self.2 fun _ hi => x.carried_of_spared hcal hls hfail hlane (List.mem_range.1 hi))

/-- A first failure of a data lane, outside a window, goes to LS, so that all four logical lanes stay in use. -/
theorem Port.failLane_first {x : Port} {lane : Nat} (hlane : lane < 4) (hcal : x.cal = none) (hls : x.ls = none) (hfail : x.laneFail = 0) :
    (x.failLane 1 lane).ls = some lane ∧ (x.failLane 1 lane).lanesUsed = 4 ∧ (x.failLane 1 lane).laneFail.toNat % 16 ≠ 0 := by
  have heq : x.failLane 1 lane = { x with laneFail := BitVec.ofNat 5 (2 ^ lane), ls := some lane } := by
    simp [Port.failLane, Port.lsOk, Port.lsTaken, Port.spare, hcal, hls, hfail, Nat.ne_of_lt hlane]
  rw [heq]
  refine ⟨rfl, Port.lanesUsed_of_spared hcal rfl rfl hlane, ?_⟩
  dsimp only
  clear heq
  interval_cases lane <;> decide

/-! ### Calibration (R291) -/

theorem State.calOpen_eq (s : State) (p : Nat) :
    s.calOpen p = if (s.port p).live = true ∧ s.cfg (0x4000 + p) 1 = 1 ∧ (s.port p).laneFail.getLsbD 4 = false ∧ (s.port p).cal = none ∧
        (s.port p).lanesUsed = 4 ∧ (s.port p).calAt + s.cfg (0x4000 + p) 6 * 1000000 ≤ s.now then
      s.modPort p fun x =>
        { x with cal := some (x.nextCal, if x.ls = none then .mirroring else .switched), nextCal := (x.nextCal + 1) % 4, calAt := s.now }
    else s := by
  simp [State.calOpen, State.portMode, Port.lsOk, and_assoc]

theorem State.lsLock_eq (s : State) (p : Nat) :
    s.lsLock p = if (s.port p).live = true ∧ s.cfg (0x4000 + p) 1 = 1 then
      s.modPort p fun x => { x.sendCtl (s.linkEnv p) .laneReady with rxReady := true }
    else s := by
  simp [State.lsLock, State.portMode]

theorem Port.laneReady_of_mirroring {x : Port} {i : Nat} (hcal : x.cal = some (i, .mirroring)) (e : LinkEnv) :
    x.laneReady e = { x.sendCtl e .switch with cal := some (i, .switched), ls := some i } := by
  simp only [Port.laneReady, hcal]

/-- SWITCH back to the lane's own carrier ends the window: a lane that failed meanwhile has LS. -/
theorem Port.laneReady_of_returning {x : Port} (hlive : x.live = true) {i : Nat} (hcal : x.cal = some (i, .returning)) (e : LinkEnv) :
    x.laneReady e = { x.sendCtl e .switch with
      cal := none, calFailed := none, ls := x.calFailed, st := if x.laneFail.toNat % 16 = 0 then .up else .degraded } := by
  have hstill := x.still_sendCtl e .switch
  have hclosed : ({ x.sendCtl e .switch with ls := none } : Port).closeCal.live = true :=
    (Port.live_of_st (Port.st_of_still hstill)).trans hlive
  simp only [Port.laneReady, hcal]
  rw [Port.grade_of_live hclosed]
  simp only [Port.closeCal, Port.calFailed_of_still hstill, Port.laneFail_of_still hstill]
  cases x.calFailed <;> rfl

theorem Port.closeCal_grade {x : Port} (hlive : x.live = true) :
    x.closeCal.grade = { x with
      cal := none, calFailed := none, ls := if x.calFailed = none then x.ls else x.calFailed
      st := if x.laneFail.toNat % 16 = 0 then .up else .degraded } := by
  rw [Port.grade_of_live (x := x.closeCal) hlive, Port.closeCal]
  cases x.calFailed <;> rfl

/-! ### The event of a lane failure (R292) -/

/-- The lane failure logged, and counted as a qualifying event. -/
def State.laneLogged (s : State) (p lane : Nat) : State :=
  (s.event evLaneFailure (partCode 4 p) noPart [BitVec.ofNat 8 lane, BitVec.ofNat 8 (s.port p).lanesUsed]).qualify

theorem State.port_qualify (s : State) (p : Nat) : s.qualify.port p = s.port p := by rw [s.qualify_frame]; rfl

theorem State.laneEvent_eq (s : State) (p lane : Nat) :
    s.laneEvent p lane =
      if s.portMode p = 2 then (s.laneLogged p lane).portDown p 5
      else if (s.port p).lanesUsed < 2 then (s.laneLogged p lane).portDown p 4
      else (s.laneLogged p lane).modPort p (·.grade) := by
  have hmode : (s.laneLogged p lane).portMode p = s.portMode p := by
    rw [State.laneLogged, State.qualify_frame]
    rfl
  rw [← hmode]
  rfl

/-- What a failed lane does to a port that counts it failed already: the record and the qualifying event, the port DOWN in
ETHERNET mode or with fewer than two lanes, and else graded. -/
structure LaneLost (p lane : Nat) (s t : State) : Prop where
  hbm : t.hbm = s.hbm
  risk : t.doubler.risk = min 64 (2 * s.doubler.risk)
  record : ∃ e ∈ t.log.recs, e.cls = 0x0030 ∧ e.part = partCode 4 p ∧ e.seq = s.log.next ∧
    e.detail = [BitVec.ofNat 8 lane, BitVec.ofNat 8 (s.port p).lanesUsed]
  laneFail : (t.port p).laneFail = (s.port p).laneFail
  down : s.portMode p = 2 ∨ (s.port p).lanesUsed < 2 → ∃ y : Port, t.port p = y.fall .down s.now
  graded : ¬ (s.portMode p = 2 ∨ (s.port p).lanesUsed < 2) → t.port p = (s.port p).grade

section
variable (s : State) (p lane : Nat)

theorem State.port_laneLogged : (s.laneLogged p lane).port p = s.port p := State.port_qualify _ p

theorem State.hbm_laneLogged : (s.laneLogged p lane).hbm = s.hbm := by rw [State.laneLogged, State.qualify_frame]; rfl

theorem State.now_laneLogged : (s.laneLogged p lane).now = s.now := by rw [State.laneLogged, State.qualify_frame]; rfl

theorem State.risk_laneLogged : (s.laneLogged p lane).doubler.risk = min 64 (2 * s.doubler.risk) := State.risk_qualify _

/-- The record stands among the newest two: SECURE_REQUEST alone may follow it. -/
theorem State.record_laneLogged : ∃ e ∈ (s.laneLogged p lane).latest 2, e.cls = 0x0030 ∧ e.part = partCode 4 p ∧ e.seq = s.log.next ∧
    e.detail = [BitVec.ofNat 8 lane, BitVec.ofNat 8 (s.port p).lanesUsed] := by
  refine ⟨{ seq := s.log.next, time := s.now, cls := evLaneFailure, part := partCode 4 p, p := noPart
            detail := [BitVec.ofNat 8 lane, BitVec.ofNat 8 (s.port p).lanesUsed] },
    State.latest_qualify _ (k := 1) (by decide) ?_, rfl, rfl, rfl, rfl⟩
  rw [State.latest_event _ _ _ _ _ (k := 0) (by decide)]
  exact List.mem_cons_self

theorem State.latest_of_log {s t : State} (h : t.log = s.log) (k : Nat) : t.latest k = s.latest k := by
  rw [State.latest, State.latest, h]

theorem LaneLost.of_fell {cause : Nat} {t : State} (hdown : s.portMode p = 2 ∨ (s.port p).lanesUsed < 2)
    (h : PortFell p cause (s.laneLogged p lane) t) : LaneLost p lane s t := by
  obtain ⟨y, hlanes, hport⟩ := h.port
  obtain ⟨e, he, hrecord⟩ := s.record_laneLogged p lane
  have hkept : t.latest 3 = _ := (State.latest_of_log h.log 3).trans (State.latest_event _ _ _ _ _ (by decide))
  refine ⟨h.hbm.trans (s.hbm_laneLogged p lane), ?_, ⟨e, State.mem_recs_of_latest (hkept ▸ List.mem_cons_of_mem _ he), hrecord⟩, ?_,
    fun _ => ⟨y, ?_⟩, absurd hdown⟩
  · rw [h.doubler, State.risk_laneLogged]
  · rw [hport]
    exact hlanes.trans (by rw [State.port_laneLogged])
  · rw [hport, State.now_laneLogged]

theorem State.laneEvent_lost : LaneLost p lane s (s.laneEvent p lane) := by
  rw [State.laneEvent_eq]
  split
  next hmode => exact .of_fell s p lane (.inl hmode) (State.portDown_fell _ p 5)
  next hmode =>
    split
    next hfew => exact .of_fell s p lane (.inr hfew) (State.portDown_fell _ p 4)
    next hmany =>
      obtain ⟨e, he, hrecord⟩ := s.record_laneLogged p lane
      have hport : ((s.laneLogged p lane).modPort p (·.grade)).port p = (s.port p).grade := by
        rw [State.port_modPort_same, State.port_laneLogged]
      exact ⟨s.hbm_laneLogged p lane, s.risk_laneLogged p lane, ⟨e, State.mem_recs_of_latest he, hrecord⟩,
        hport ▸ Port.laneFail_grade _, fun hdown => absurd hdown (not_or.2 ⟨hmode, hmany⟩), fun _ => hport⟩

end

/-- A lane failure of a live port is the event of the lane on the port that counts it failed. -/
theorem State.laneFailure_of_due {s : State} {p lane : Nat} (hlive : (s.port p).live = true) (hlane : lane ≤ 4)
    (hok : (s.port p).laneFail.getLsbD lane = false) (hls : lane < 4 ∨ s.portMode p ≠ 2) :
    s.laneFailure p lane = (s.modPort p fun x => x.failLane (s.portMode p) lane).laneEvent p lane := by
  refine if_pos ?_
  have hlast : (lane == 4 && s.portMode p == 2) = false := by
    rcases hls with h | h
    · simp [Nat.ne_of_lt h]
    · simp [h]
  rw [hlast, hlive, Port.laneOk, hok]
  simpa using hlane

/-- A window that ends without re-adaptation is the event of its carrier on the port that counts the carrier failed. -/
theorem State.calEnd_of_failed {s : State} {p i : Nat} (hlive : (s.port p).live = true) (hcal : (s.port p).cal = some (i, .switched)) :
    ∃ y : Port, s.calEnd p false = (s.modPort p fun _ => y).laneEvent p ((s.port p).readapts i) ∧ y.cal = none ∧
      y.laneFail = (s.port p).laneFail ||| BitVec.ofNat 5 (2 ^ (s.port p).readapts i) := by
  refine ⟨{ (if (s.port p).readapts i = 4 then (s.port p).lsLost else { s.port p with cal := none, calFailed := none }) with
    laneFail := (s.port p).laneFail ||| BitVec.ofNat 5 (2 ^ (s.port p).readapts i) }, ?_, ?_, rfl⟩
  · simp [State.calEnd, hcal, hlive]
  · dsimp only
    split <;> rfl

theorem State.calEnd_of_adapted {s : State} {p i : Nat} (hlive : (s.port p).live = true) (hcal : (s.port p).cal = some (i, .switched)) :
    s.calEnd p true = if (s.port p).lsTaken = true then s.modPort p fun x => x.closeCal.grade
      else s.modPort p fun x => { x with cal := some (i, .returning) } := by
  simp [State.calEnd, hcal, hlive]

/-! ### Link keys (R290) -/

theorem State.keyRollover_eq {s : State} {p : Nat} {k : LinkKey} (h : (s.port p).txKey = some k) (key : BitVec 256) :
    s.keyRollover p key =
      if (s.port p).live = true ∧ s.sec.rngOk = true ∧ (2 ^ 36 ≤ k.count ∨ k.since + 3600000000000 ≤ s.now) then
        s.modPort p fun x => { x.sendCtl (s.linkEnv p) .keyPhase with
          txKey := some { key := key, keyId := k.keyId + 1, count := 0, phase := !k.phase, since := s.now } }
      else s := by
  simp only [State.keyRollover, h, Bool.and_eq_true, Bool.or_eq_true, decide_eq_true_eq, and_assoc]

theorem State.keyPhaseIn_of_next {s : State} {p : Nat} {k : LinkKey} {n : BitVec 256} (hk : (s.port p).rxKey = some k)
    (hn : (s.port p).rxNext = some n) :
    s.keyPhaseIn p = s.modPort p fun x => { x with
      rxOld := some k, rxNext := none
      rxKey := some { key := n, keyId := k.keyId + 1, count := 0, phase := !k.phase, since := s.now } } := by
  simp only [State.keyPhaseIn, hk, hn]

theorem State.keyPhaseIn_of_none {s : State} {p : Nat} (h : (s.port p).rxKey = none ∨ (s.port p).rxNext = none) :
    s.keyPhaseIn p = s := by
  unfold State.keyPhaseIn
  split
  next hk hn => simp [hk, hn] at h
  next => rfl

/-- Settles O48: the rows of calibration and of the keys are their operations' cases; a failed lane, of the row or of a window,
goes through the event of R292. -/
theorem lanesAndKeys : Obligations.LanesAndKeys := by
  intro s p x sending grade openable after taken
  have htaken : x.lsTaken = true ↔ taken := x.lsTaken_iff
  refine ⟨fun h => ?_, fun h => ?_, fun hlive hmode => ?_, fun h => ?_, fun i hlive hcal => ?_, fun i hlive hcal => ?_, ?_,
    fun i hlive hcal hfree => ?_, fun i hlive hcal hheld => ?_, fun i hlive hcal => ?_, fun lane hlive hlane hok hmode => ?_,
    fun lane hlive hlane hok hmode => ?_, fun k hkey => ⟨fun key hdue => ?_, fun key hdue => ?_⟩, fun k n hk hn => ?_, fun h => ?_⟩
  · exact portBecomes_of_modPort (congrArg _ ((s.calOpen_eq p).trans (if_pos h))) rfl
  · exact congrArg _ ((s.calOpen_eq p).trans (if_neg h))
  · exact portBecomes_of_modPort (congrArg _ ((s.lsLock_eq p).trans (if_pos ⟨hlive, hmode⟩))) rfl
  · refine congrArg _ ((s.lsLock_eq p).trans (if_neg fun ⟨hlive, hmode⟩ => ?_))
    exact h.elim (fun hdead => Bool.false_ne_true (hdead.symm.trans hlive)) (absurd hmode)
  · exact portBecomes_of_modPort rfl ((if_pos hlive).trans (Port.laneReady_of_mirroring hcal _))
  · exact portBecomes_of_modPort rfl ((if_pos hlive).trans (Port.laneReady_of_returning hlive hcal _))
  · refine portBecomes_of_modPort rfl ?_
    simp only [Bool.and_eq_true]
    rfl
  · refine portBecomes_of_modPort (congrArg _ ((State.calEnd_of_adapted hlive hcal).trans (if_neg ?_))) rfl
    exact fun h => hfree (htaken.1 h)
  · refine portBecomes_of_modPort (congrArg _ ((State.calEnd_of_adapted hlive hcal).trans (if_pos (htaken.2 hheld)))) ?_
    exact Port.closeCal_grade hlive
  · obtain ⟨y, hend, hcalNone, hfail⟩ := State.calEnd_of_failed hlive hcal
    have hlane : (s.port p).readapts i = if taken ∧ x.ls = some i then 4 else i := by
      rw [Port.readapts_eq]
      simp only [show (s.port p).lsTaken = true ↔ taken from htaken]
      rfl
    have hlost := (s.modPort p fun _ => y).laneEvent_lost p ((s.port p).readapts i)
    rw [← hend] at hlost
    refine ⟨s.calEnd p false, rfl, hlost.laneFail.trans ?_, ?_, hlost.risk⟩
    · rw [State.port_modPort_same, hfail, hlane]
    · by_cases hdown : (s.modPort p fun _ => y).portMode p = 2 ∨ ((s.modPort p fun _ => y).port p).lanesUsed < 2
      · obtain ⟨z, hz⟩ := hlost.down hdown
        rw [hz]
        rfl
      · rw [hlost.graded hdown, State.port_modPort_same, Port.cal_grade, hcalNone]
  · have hmode' : s.portMode p = 1 := hmode
    obtain ⟨hfail, hst⟩ := x.failLane_keeps 1 lane
    have hdue := State.laneFailure_of_due hlive hlane hok (.inr (by rw [hmode']; decide))
    rw [hmode'] at hdue
    have hlost := (s.modPort p fun x => x.failLane 1 lane).laneEvent_lost p lane
    rw [← hdue] at hlost
    obtain ⟨hhbm, hrisk, hrecord, hlanes, hdown, hgraded⟩ := hlost
    rw [State.port_modPort_same] at hrecord hlanes hdown hgraded
    have hup (hmany : 2 ≤ (x.failLane 1 lane).lanesUsed) : ((s.laneFailure p lane).port p) = (x.failLane 1 lane).grade :=
      hgraded fun h => h.elim (fun h => absurd (hmode'.symm.trans h) (by decide)) (Nat.not_lt.2 hmany)
    have hgrade : (x.failLane 1 lane).grade = _ := Port.grade_of_live ((Port.live_of_st hst).trans hlive)
    refine ⟨_, rfl, hfail, hrecord, hlanes, hrisk, hhbm, fun hfew => ?_, fun hmany => ?_, fun hdata hcal hls hsound => ?_⟩
    · obtain ⟨z, hz⟩ := hdown (.inr hfew)
      rw [hz]
      rfl
    · rw [hup hmany, hgrade]
    · obtain ⟨hspare, hused, hdegraded⟩ := Port.failLane_first hdata hcal hls hsound
      rw [hup (hused ▸ by decide), Port.ls_grade, hgrade]
      exact ⟨hspare, if_neg hdegraded⟩
  · have hmode' : s.portMode p = 2 := hmode
    have hlost := (s.modPort p fun x => x.failLane (s.portMode p) lane).laneEvent_lost p lane
    rw [← State.laneFailure_of_due hlive hlane.le hok (.inl hlane)] at hlost
    obtain ⟨z, hz⟩ := hlost.down (.inl hmode')
    refine ⟨_, rfl, ?_, ?_, hlost.risk⟩ <;> rw [hz] <;> rfl
  · exact portBecomes_of_modPort (congrArg _ ((State.keyRollover_eq hkey key).trans (if_pos hdue))) rfl
  · exact congrArg _ ((State.keyRollover_eq hkey key).trans (if_neg hdue))
  · exact portBecomes_of_modPort (congrArg _ (State.keyPhaseIn_of_next hk hn)) rfl
  · exact congrArg Host.Outcome.next (State.keyPhaseIn_of_none h)

end Sys2Proof.Machine
end

section
/-! Heartbeats, loss, training and authentication of ports, and the requests that come for MD (R281, R298, R381, R385, R405). -/
namespace Sys2Proof.Machine

/-! ### Heartbeats and silence (R298) -/

/-- A heartbeat sent with the module's counter, dated and counted. -/
def State.beat (s : State) (p : Nat) : State :=
  ((s.sendCtl p (.heartbeat s.ownId s.fab.hbCounter)).modPort p fun x => { x with hbAt := some s.now }).modFab fun f =>
    { f with hbCounter := f.hbCounter + 1 }

theorem State.port_beat_same (s : State) (p : Nat) :
    (s.beat p).port p = { (s.port p).sendCtl (s.linkEnv p) (.heartbeat s.ownId s.fab.hbCounter) with hbAt := some s.now } := by
  rw [State.beat, State.modFab_port_read, State.port_modPort_same, State.sendCtl, State.port_modPort_same]

theorem State.port_beat_ne (s : State) {p i : Nat} (h : i ≠ p) : (s.beat p).port i = s.port i := by
  rw [State.beat, State.modFab_port_read, State.port_modPort_ne _ _ _ _ h, State.sendCtl, State.port_modPort_ne _ _ _ _ h]

theorem State.heartbeatSend_eq (s : State) (p : Nat) :
    s.heartbeatSend p =
      if (s.port p).live = true ∧ s.pwr.shutdown = false ∧ ∀ t, (s.port p).hbAt = some t → t + 250000 ≤ s.now then s.beat p
      else s := by
  cases h : (s.port p).hbAt <;> simp [State.heartbeatSend, State.beat, h, and_assoc]

theorem State.peerSilent_eq (s : State) (p : Nat) :
    s.peerSilent p = if (s.port p).live = true ∧ (s.port p).heardAt + 1000000 ≤ s.now then (s.portDown p 3).peerLost p (s.port p).peer
      else s := by
  simp [State.peerSilent]

/-- PEER_LOST leaves by another port. -/
theorem State.peerSilent_falls {s : State} {p : Nat} (hlive : (s.port p).live = true) (hsilent : (s.port p).heardAt + 1000000 ≤ s.now) :
    PortFell p 3 s (s.peerSilent p) := by
  have hfell := s.portDown_fell p 3
  rw [s.peerSilent_eq, if_pos ⟨hlive, hsilent⟩]
  exact hfell.of_spared (State.sparesPort_send _ hfell.not_linked _)

/-! ### Loss, training and dales (R281, R430) -/

theorem State.lossOfSignal_eq (s : State) (p : Nat) :
    s.lossOfSignal p = if (s.port p).live = true ∨ (s.port p).st = .training ∨ (s.port p).st = .auth then s.portDown p 0 else s := by
  simp [State.lossOfSignal, or_assoc]

theorem State.portRetrain_eq (s : State) (p : Nat) :
    s.portRetrain p =
      if (s.port p).st = .down ∧ s.cfg (0x4000 + p) 1 ≠ 0 ∧ s.pwr.shutdown = false ∧ (s.port p).downAt + 1000000000 ≤ s.now then
        (s.resetDale (176 + p)).modPort p fun x => { x with st := .training }
      else s := by
  simp [State.portRetrain, State.portMode, and_assoc]

/-- A collection whose values are changed in place, each by its key. -/
theorem mapGet_map_keyed {α : Type} (d : α) (m : SMap α) (f : Nat → α → α) (k : Nat) (hd : f k d = d) :
    mapGet d (m.map fun kv => (kv.1, f kv.1 kv.2)) k = f k (mapGet d m k) := by
  induction m with
  | nil => exact hd.symm
  | cons e m ih =>
    by_cases hk : k = e.1
    · simp [mapGet, hk]
    · simpa [mapGet, hk] using ih

/-- One dale when dale n is reset. -/
def Dale.resetBy (n i : Nat) (d : Dale) : Dale :=
  if i = n then { d with overruns := [], droopAt := none, droopRaised := false } else { d with overruns := d.overruns.filter (· != n) }

theorem State.dale_resetDale (s : State) (n i : Nat) : (s.resetDale n).dale i = (s.dale i).resetBy n i :=
  mapGet_map_keyed ({} : Dale) s.pwr.dales (Dale.resetBy n) i (by unfold Dale.resetBy; split <;> rfl)

/-- A port whose training is over, its link's counters afresh. -/
def Port.trained (x : Port) (id port : Nat) : Port :=
  { x with st := .auth, peer := BitVec.ofNat 32 (id % 2 ^ 18 + port % 32 * 2 ^ 18), laneFail := 0, ls := none, cal := none
           calFailed := none, nextCal := 0, rxSeq := 0, txSeq := 0, rxAny := false, credits := [], share := 0, turns := [], asm := [] }

theorem State.opensPort_iff (s : State) (p id port : Nat) : s.opensPort p id port = true ↔ s.ownId < id ∨ s.ownId = id ∧ p < port := by
  simp [State.opensPort]

theorem State.portTrained_eq (s : State) (p id port : Nat) :
    s.portTrained p id port =
      if (s.port p).st = .training ∧ (s.domain (176 + p / 4)).st = 2 then
        if s.ownId < id % 2 ^ 18 ∨ s.ownId = id % 2 ^ 18 ∧ p < port % 32 then
          (s.modPort p fun _ => (s.port p).trained id port).beginAsk (.port p) (.port p)
        else s.modPort p fun _ => (s.port p).trained id port
      else s := by
  simp only [← s.opensPort_iff, State.portTrained, Bool.and_eq_true, beq_iff_eq]
  rfl

/-! ### Authentication (R405) -/

/-- What R405 and R406 ask of a port in AUTH: an open session with a peer that both sides accept, random numbers, and keys. -/
def State.trusts (s : State) (p : Nat) (a : PeerAuth) : Prop :=
  ∃ y, s.portSession p = some y ∧ s.peerOk y.root a = true ∧ s.sec.rngOk = true ∧ (s.port p).txKey ≠ none ∧ (s.port p).rxKey ≠ none

section
variable {s : State} {p : Nat} {a : PeerAuth}

theorem State.portAuth_of_other (h : (s.port p).st ≠ .auth) : s.portAuth p a = s := by simp [State.portAuth, h]

theorem State.portAuth_of_trusted (h : (s.port p).st = .auth) (ht : s.trusts p a) :
    s.portAuth p a = s.modPort p fun x =>
      { x with st := .up, txq := x.txq.filter (!·.clear), asm := [], heardAt := s.now, calAt := s.now } := by
  obtain ⟨y, hy, hok, hrng, htx, hrx⟩ := ht
  simp [State.portAuth, h, hy, hok, hrng, Option.isSome_iff_ne_none.2 htx, Option.isSome_iff_ne_none.2 hrx]

theorem State.portAuth_of_untrusted (h : (s.port p).st = .auth) (ht : ¬ s.trusts p a) : s.portAuth p a = s.dropPort p .down := by
  unfold State.portAuth
  rw [h]
  cases hy : s.portSession p with
  | none => rfl
  | some y =>
    refine (if_neg (by decide)).trans (if_neg fun hok => ht ⟨y, hy, ?_⟩)
    simpa [Option.isSome_iff_ne_none, and_assoc] using hok

end

/-! ### Requests for MD (R381, R385) -/

/-- Another request of its channel waits. -/
def State.mdBusy (s : State) (src : Source) (w : Bytes) : Prop :=
  ∃ o, s.unwrap src w = some o ∧ s.serving = true ∧ ∃ r ∈ s.fab.mdQueue, s.otherOn src o (frameOf o.body) r = true

theorem State.mdArrive_of_free {s : State} {r : MdReq} (h : ¬ s.mdBusy r.src r.wrapper) :
    s.mdArrive r = s.modFab fun f =>
      { f with mdQueue := if r.route then f.mdQueue.takeWhile (·.route) ++ [r] ++ f.mdQueue.dropWhile (·.route) else f.mdQueue ++ [r] } := by
  unfold State.mdArrive
  cases ho : s.unwrap r.src r.wrapper with
  | none => rfl
  | some o =>
    refine if_neg fun hbusy => h ⟨o, ho, ?_⟩
    simpa only [Bool.and_eq_true, List.any_eq_true] using hbusy

theorem State.mdArrive_of_busy {s : State} {r : MdReq} {o : Opened} (h : s.mdBusy r.src r.wrapper) (ho : s.unwrap r.src r.wrapper = some o) :
    s.mdArrive r = s.refuse r o (frameOf o.body) (s.busyAbort r o (frameOf o.body)) := by
  obtain ⟨o', ho', hbusy⟩ := h
  obtain rfl := Option.some.inj (ho.symm.trans ho')
  unfold State.mdArrive
  simp only [ho]
  exact if_pos (by simpa only [Bool.and_eq_true, List.any_eq_true] using hbusy)

theorem State.mgmtIn_eq (s : State) (k : Packet) :
    s.mgmtIn k = if k ∈ s.fab.handed ∧ k.type = 0x10 then
      if fld k.payload 0 4 = 0xFFFFFFFF then (s.takeHanded k).mctpArrive (.dict (.fabric k.srcId k.srcPart)) k.payload
      else (s.takeHanded k).mdArrive (mdReq k false)
    else s := by
  simp only [State.mgmtIn, Bool.and_eq_true, List.contains_iff_mem, beq_iff_eq]
  rfl

theorem State.routeIn_eq (s : State) (k : Packet) :
    s.routeIn k = if k ∈ s.fab.handed ∧ k.type = 0x11 then (s.takeHanded k).mdArrive (mdReq k true) else s := by
  simp [State.routeIn]

/-- Settles O49: each row is the cases of its operation; what goes DOWN falls as R297 has it, and nothing that a fallen port's
bundle or PEER_LOST sends touches it again. -/
theorem portEvents : Obligations.PortEvents := by
  intro s p x e
  refine ⟨fun dev n => portBecomes_of_modPort rfl rfl, ⟨fun hdue => ?_, fun hdue => ?_⟩, fun hlive hsilent => ?_, fun h => ?_,
    fun h => ?_, fun h => ?_, ⟨fun hdue => ?_, fun hdue => ?_⟩, fun n => ?_,
    fun id port => ⟨fun hready hopens => ?_, fun hready hopens => ?_, fun hready => ?_⟩, fun a => ?_, fun rx tx hst => ?_, fun k => ?_⟩
  · exact ⟨_, congrArg Host.Outcome.next ((s.heartbeatSend_eq p).trans (if_pos hdue)), rfl, fun i hi => s.port_beat_ne hi,
      s.port_beat_same p⟩
  · exact congrArg Host.Outcome.next ((s.heartbeatSend_eq p).trans (if_neg hdue))
  · exact (State.peerSilent_falls hlive hsilent).fallsFor rfl
  · refine congrArg Host.Outcome.next ((s.peerSilent_eq p).trans (if_neg fun ⟨hlive, hsilent⟩ => ?_))
    exact h.elim (fun hdead => Bool.false_ne_true (hdead.symm.trans hlive)) fun hheard => absurd hsilent (Nat.not_le.2 hheard)
  · exact (s.portDown_fell p 0).fallsFor (congrArg Host.Outcome.next ((s.lossOfSignal_eq p).trans (if_pos h)))
  · refine congrArg Host.Outcome.next ((s.lossOfSignal_eq p).trans (if_neg ?_))
    rcases h with h | h <;> simp [Port.live, show (s.port p).st = _ from h]
  · exact congrArg Host.Outcome.next ((s.portRetrain_eq p).trans (if_pos hdue))
  · exact congrArg Host.Outcome.next ((s.portRetrain_eq p).trans (if_neg hdue))
  · exact s.dale_resetDale (176 + p) n
  · exact portBecomes_of_modPort (congrArg Host.Outcome.next (((s.portTrained_eq p id port).trans (if_pos hready)).trans (if_neg hopens))) rfl
  · exact congrArg Host.Outcome.next (((s.portTrained_eq p id port).trans (if_pos hready)).trans (if_pos hopens))
  · exact congrArg Host.Outcome.next ((s.portTrained_eq p id port).trans (if_neg hready))
  · intro own trusted
    have htrusted : trusted ↔ s.trusts p a := by
      simp only [trusted, State.trusts, State.peerOk, Bool.and_eq_true, Bool.not_eq_true', decide_eq_true_eq]
      constructor
      · rintro ⟨haccepts, ⟨y, hy, hroot⟩, hzero, hlow, hhigh, hlock, hrest⟩
        exact ⟨y, hy, ⟨⟨⟨⟨⟨haccepts, hroot⟩, hzero⟩, hlock⟩, hlow⟩, hhigh⟩, hrest⟩
      · rintro ⟨y, hy, ⟨⟨⟨⟨⟨haccepts, hroot⟩, hzero⟩, hlock⟩, hlow⟩, hhigh⟩, hrest⟩
        exact ⟨haccepts, ⟨y, hy, hroot⟩, hzero, hlow, hhigh, hlock, hrest⟩
    refine ⟨fun hst => ?_, fun hst ht => ?_, fun hst ht => ?_⟩
    · exact congrArg Host.Outcome.next (State.portAuth_of_other hst)
    · exact portBecomes_of_modPort (congrArg Host.Outcome.next (State.portAuth_of_trusted hst (htrusted.1 ht))) rfl
    · have hdrop := s.dropPort_dropped p (st := .down) fun _ => rfl
      obtain ⟨y, -, hport⟩ := hdrop.port
      refine ⟨_, congrArg Host.Outcome.next (State.portAuth_of_untrusted hst fun h => ht (htrusted.2 h)), ?_, ?_, ?_⟩
      · rw [hport]
        rfl
      · rw [hport]
        rfl
      · rw [hdrop.frame]
  · exact ⟨_, rfl, s.onlyPort_modPort p _, (s.port_modPort_same p _).trans (if_pos hst)⟩
  · intro req rest queue busy
    refine ⟨fun hk htype hreq hfree => ?_, fun hk htype hmctp => ?_, fun hk htype hfree => ?_, fun o hk htype hreq hbusy ho => ?_,
      fun hk => ⟨?_, ?_⟩⟩
    · exact congrArg Host.Outcome.next (((s.mgmtIn_eq k).trans (if_pos ⟨hk, htype⟩)).trans
        ((if_neg hreq).trans (State.mdArrive_of_free (r := mdReq k false) hfree)))
    · exact congrArg Host.Outcome.next (((s.mgmtIn_eq k).trans (if_pos ⟨hk, htype⟩)).trans (if_pos hmctp))
    · exact congrArg Host.Outcome.next (((s.routeIn_eq k).trans (if_pos ⟨hk, htype⟩)).trans
        (State.mdArrive_of_free (r := mdReq k true) hfree))
    · exact congrArg Host.Outcome.next (((s.mgmtIn_eq k).trans (if_pos ⟨hk, htype⟩)).trans
        ((if_neg hreq).trans (State.mdArrive_of_busy (r := mdReq k false) hbusy ho)))
    · exact congrArg Host.Outcome.next ((s.mgmtIn_eq k).trans (if_neg fun h => hk h.1))
    · exact congrArg Host.Outcome.next ((s.routeIn_eq k).trans (if_neg fun h => hk h.1))

end Sys2Proof.Machine
end

section
/-! Flits and packets received on a port, NAK and resending (R282 to R287, R295, R299, R309). -/
namespace Sys2Proof.Machine

/-! ### Control flits (R283, R285) -/

theorem Port.sendCtl_of_free {x : Port} (hctl : x.ctlq = []) (hfull : x.full = false) (e : LinkEnv) (m : Ctl) :
    x.sendCtl e m = ({ x with ctlq := [] } : Port).put e 4 0 m.bytes none (some m) := by
  rw [Port.sendCtl, hctl]
  exact if_neg (hfull ▸ Bool.false_ne_true)

/-! ### Flits (R282, R283) -/

/-- A flit that passes its CRC and whose fields R282 lays out. -/
def flitReadable (b : Bytes) : Prop :=
  flitCrcOk b = true ∧ (flitOf b).kind ≤ 4 ∧ fld b 0 8 / 2 ^ 12 % 2 ^ 8 ≤ 244 ∧
    ((flitOf b).kind = 0 ∨ (flitOf b).kind = 4 ∨ (flitOf b).vc < 6)

theorem flitReadable_iff (b : Bytes) :
    flitReadable b ↔ ¬ (!flitCrcOk b || !(flitOf b).legal (bitsOf (fld b 0 8) 12 8)) = true := by
  simp only [flitReadable, Flit.legal, bitsOf_eq, Bool.or_eq_true, Bool.and_eq_true, Bool.not_eq_true', not_or, Bool.not_eq_false,
    decide_eq_true_eq, beq_iff_eq, and_assoc, or_assoc]

/-- A NAK of the SEQ expected, sent. -/
def Port.nakking (x : Port) (e : LinkEnv) : Port := { x.sendCtl e (.nak x.rxSeq) with nakked := true }

theorem State.rejectFlit_unread (s : State) (p : Nat) : s.rejectFlit p true = s.modPort p fun x => x.nakking (s.linkEnv p) := rfl

theorem State.rejectFlit_out_of_sequence (s : State) (p : Nat) :
    s.rejectFlit p false = s.modPort p fun x => if x.nakked then x else x.nakking (s.linkEnv p) := by
  refine congrArg (s.modPort p) (funext fun x => ?_)
  by_cases hnak : x.nakked = true
  · exact (if_neg (by simp [hnak])).trans (if_pos hnak).symm
  · exact (if_pos (by simpa using hnak)).trans (if_neg hnak).symm

/-- Codewords corrected, counted. -/
def State.come (s : State) (p n : Nat) : State := s.modPort p fun x => { x with fec := x.fec + n }

theorem State.port_come (s : State) (p n : Nat) : (s.come p n).port p = { s.port p with fec := (s.port p).fec + n } :=
  s.port_modPort_same p _

theorem OnlyPort.come_modPort (s : State) (p n : Nat) (f : Port → Port) : OnlyPort p s ((s.come p n).modPort p f) :=
  (s.onlyPort_modPort p _).trans (State.onlyPort_modPort _ p f)

section
variable {s : State} {p : Nat} {b : Bytes} {n : Nat}

theorem State.flitIn_of_unlinked (h : (s.port p).linked = false) (fec : Option Nat) : s.flitIn p b fec = s := by
  unfold State.flitIn
  rw [h]
  rfl

theorem State.flitIn_of_uncorrected (h : (s.port p).linked = true) : s.flitIn p b none = s.rejectFlit p true := by
  unfold State.flitIn
  rw [h]
  rfl

theorem State.flitIn_some (h : (s.port p).linked = true) :
    s.flitIn p b (some n) =
      if (!flitCrcOk b || !(flitOf b).legal (bitsOf (fld b 0 8) 12 8)) = true then (s.come p n).rejectFlit p true
      else if (flitOf b).seq ≠ (s.port p).rxSeq then (s.come p n).rejectFlit p false
      else (((s.come p n).modPort p (·.taken (flitOf b))).flitData p (flitOf b)).pump p := by
  have hseq : ((s.come p n).port p).rxSeq = (s.port p).rxSeq := by rw [s.port_come]
  unfold State.flitIn
  rw [← hseq, h]
  rfl

theorem State.flitIn_of_unreadable (h : (s.port p).linked = true) (hb : ¬ flitReadable b) :
    s.flitIn p b (some n) = (s.come p n).rejectFlit p true :=
  (State.flitIn_some h).trans (if_pos (not_not.1 fun hok => hb ((flitReadable_iff b).2 hok)))

theorem State.flitIn_of_out_of_sequence (h : (s.port p).linked = true) (hb : flitReadable b) (hseq : (flitOf b).seq ≠ (s.port p).rxSeq) :
    s.flitIn p b (some n) = (s.come p n).rejectFlit p false :=
  (State.flitIn_some h).trans ((if_neg ((flitReadable_iff b).1 hb)).trans (if_pos hseq))

theorem State.flitIn_of_next (h : (s.port p).linked = true) (hb : flitReadable b) (hseq : (flitOf b).seq = (s.port p).rxSeq) :
    s.flitIn p b (some n) = (((s.come p n).modPort p (·.taken (flitOf b))).flitData p (flitOf b)).pump p :=
  (State.flitIn_some h).trans ((if_neg ((flitReadable_iff b).1 hb)).trans (if_neg (not_not.2 hseq)))

end

/-! ### What a flit in sequence carries, by its KIND -/

/-- The next flit in sequence taken: IDLE gives its ACK and credit only. -/
theorem Port.taken_eq (x : Port) (f : Flit) :
    x.taken f = if f.kind = 0 then x.credits1 f
      else { x.credits1 f with rxSeq := (x.rxSeq + 1) % 4096, rxAny := true, ackDue := true, nakked := false } := rfl

section
variable {s : State} {p : Nat} {f : Flit}

theorem State.flitData_idle (h : f.kind = 0) : s.flitData p f = s := by simp only [State.flitData, h]
theorem State.flitData_control (h : f.kind = 4) : s.flitData p f = s := by simp only [State.flitData, h]
theorem State.flitData_start (h : f.kind = 1) : s.flitData p f = (s.endPkt p f.vc).beginPkt p f.vc f.data := by
  simp only [State.flitData, h]
theorem State.flitData_body (h : f.kind = 2) : s.flitData p f = s.morePkt p f.vc f.data := by simp only [State.flitData, h]

/-- An END is also the packet's first flit where none has begun on its VC. -/
theorem State.flitData_end (h : f.kind = 3) :
    s.flitData p f =
      if (s.port p).asmOf f.vc = none then (s.beginPkt p f.vc f.data).endPkt p f.vc else (s.morePkt p f.vc f.data).endPkt p f.vc := by
  cases ha : (s.port p).asmOf f.vc <;> simp [State.flitData, h, ha]

end

/-! ### Delivery (R295, R309) -/

theorem nextRx_of_first {waits : Packet → Bool} {k : Packet} (h : waits k = false) (vc flits : Nat) (rest : List (Packet × Nat × Nat)) :
    nextRx waits [] ((k, vc, flits) :: rest) = some (k, vc, flits) := by simp [nextRx, h]

theorem nextRx_of_only {waits : Packet → Bool} {k : Packet} (h : waits k = true) (vc flits : Nat) :
    nextRx waits [] [(k, vc, flits)] = none := by simp [nextRx, h]

theorem State.mayDeliver_iff (s : State) (p : Nat) (k : Packet) :
    s.mayDeliver p k = true ↔
      k.dstPart < s.partCount ∧ (s.part k.dstPart).st = .ready ∧ k.dstRank = s.myRank k.dstPart ∧ k.checkOk = true ∧ k.tc ≤ 2 ∧
        k.type ∈ [0x01, 0x02, 0x08, 0x09, 0x10, 0x11, 0x12] ∧
        s.pathOut (p / 4) (if s.partOfDie (p / 4) = k.dstPart then p / 4 else k.dstPart * s.dieCount) = false := by
  simp only [State.mayDeliver, State.deliverable, State.partLive, State.recvDie, pktTypes, dieOfPort, Bool.and_eq_true,
    decide_eq_true_eq, beq_iff_eq, List.contains_iff_mem, Bool.not_eq_true', and_assoc, Nat.lt_succ_iff]
  rfl

section
variable {s : State} {p : Nat}

theorem State.packetReceive_of_none (h : nextRx (fun k => s.mayDeliver p k && s.collWaits k) [] (s.port p).rxq = none) :
    s.packetReceive p = s := by simp only [State.packetReceive, h]

/-- The packet out of its buffer, whose flits are given back. -/
def State.unbuffered (s : State) (p : Nat) (x : Packet × Nat × Nat) : State :=
  (s.modPort p fun y => { y with rxq := y.rxq.erase x }).freeBuffer p x.2.1 x.2.2

theorem State.packetReceive_of_some {k : Packet} {vc flits : Nat}
    (h : nextRx (fun k => s.mayDeliver p k && s.collWaits k) [] (s.port p).rxq = some (k, vc, flits)) :
    s.packetReceive p = if s.mayDeliver p k = true then (s.unbuffered p (k, vc, flits)).toEngine k
      else (s.unbuffered p (k, vc, flits)).countDiscard (some p) := by
  simp only [State.packetReceive, h]
  rfl

end

/-! ### Resending (R283, R299) -/

/-- A flit as it leaves a port: with the ACK of everything received, in the datagram of its class. -/
def Port.asSent (x : Port) (e : LinkEnv) (f : SentFlit) : WireOut :=
  { flit := flitBytes f (if x.rxAny then some ((x.rxSeq + 4095) % 4096) else none)
    udp := e.udp.map fun u => { u with dscp := u.dscp + f.tc } }

theorem Port.foldl_emit (x : Port) (e : LinkEnv) (l : List SentFlit) :
    l.foldl (fun x f => x.emit e f) x = { x with wire := x.wire ++ l.map (x.asSent e), ackDue := x.ackDue && l.isEmpty } := by
  induction l generalizing x with
  | nil => simp
  | cons f l ih =>
    rw [List.foldl_cons, ih]
    simp [Port.emit, Port.asSent]

/-- Without an unacknowledged flit no sending has failed. -/
theorem Port.sendFails_judge_of_empty {x : Port} (h : x.replay = []) (e : LinkEnv) (seq : Nat) :
    (x.judge e seq).sendFails = x.sendFails := by simp only [Port.judge, h]

/-- A sending counts as failed once a round trip has passed since it was made; another SEQ than before starts the count afresh. -/
theorem Port.sendFails_judge_of_waiting {x : Port} {f : SentFlit} {rest : List SentFlit} (h : x.replay = f :: rest) (e : LinkEnv) (seq : Nat) :
    (x.judge e seq).sendFails =
      if (if x.resentFrom = some seq then x.triedAt else f.time) + e.roundTrip ≤ e.now
        then (if x.resentFrom = some seq then x.sendFails else 0) + 1
      else if x.resentFrom = some seq then x.sendFails else 0 := by
  by_cases hagain : x.resentFrom = some seq <;> simp [Port.judge, h, hagain, apply_ite Port.sendFails]

theorem Port.judge_frame (x : Port) (e : LinkEnv) (seq : Nat) :
    x.judge e seq = { x with
      sendFails := (x.judge e seq).sendFails, resentFrom := (x.judge e seq).resentFrom, triedAt := (x.judge e seq).triedAt } := by
  have hshape : ∃ fails resumed tried, x.judge e seq = { x with sendFails := fails, resentFrom := resumed, triedAt := tried } := by
    unfold Port.judge
    split
    · exact ⟨_, _, _, rfl⟩
    · extract_lets again tried fails
      split <;> exact ⟨_, _, _, rfl⟩
  obtain ⟨fails, resumed, tried, h⟩ := hshape
  rw [h]

theorem Port.resendFrom_eq (x : Port) (e : LinkEnv) (seq : Nat) :
    x.resendFrom e seq = { x.judge e seq with
      replayed := x.replayed + x.replay.length, replay := x.replay.map fun f => { f with time := e.now }
      wire := x.wire ++ x.replay.map (x.asSent e), ackDue := x.ackDue && x.replay.isEmpty } := by
  unfold Port.resendFrom
  dsimp only
  rw [Port.foldl_emit, x.judge_frame e seq]
  simp only [List.length_map, List.map_map, List.isEmpty_map]
  rfl

@[simp] theorem Port.still_resendFrom (x : Port) (e : LinkEnv) (seq : Nat) : (x.resendFrom e seq).still = x.still := by
  rw [x.resendFrom_eq, x.judge_frame]
  rfl

section
variable (s : State) (p seq : Nat)

theorem State.resend_eq :
    s.resend p seq = if 8 ≤ ((s.port p).judge (s.linkEnv p) seq).sendFails
      then (s.modPort p fun x => x.resendFrom (s.linkEnv p) seq).portDown p 1
      else (s.modPort p fun x => x.resendFrom (s.linkEnv p) seq).pump p := by
  have hfails : ((s.modPort p fun x => x.resendFrom (s.linkEnv p) seq).port p).sendFails =
      ((s.port p).judge (s.linkEnv p) seq).sendFails := by
    rw [State.port_modPort_same, Port.resendFrom_eq]
  rw [← hfails]
  rfl

theorem State.resend_of_eighth (h : 8 ≤ ((s.port p).judge (s.linkEnv p) seq).sendFails) : PortFell p 1 s (s.resend p seq) := by
  rw [s.resend_eq, if_pos h]
  exact (State.portDown_fell _ p 1).of_sending (s.onlySending_modPort p _ (Port.still_resendFrom _ _ seq))

theorem State.onNak_of_linked (h : (s.port p).linked = true) :
    s.onNak p seq = (s.modPort p fun x => x.acked ((seq + 4095) % 4096)).resend p seq := if_pos h

theorem State.onNak_of_unlinked (h : (s.port p).linked = false) : s.onNak p seq = s := if_neg (h ▸ Bool.false_ne_true)

end

theorem State.ethRetry_of_empty {s : State} {p : Nat} (h : (s.port p).replay = []) : s.ethRetry p = s := by
  simp only [State.ethRetry, h]

theorem State.ethRetry_of_waiting {s : State} {p : Nat} {f : SentFlit} {rest : List SentFlit} (h : (s.port p).replay = f :: rest) :
    s.ethRetry p =
      if (s.port p).linked = true ∧ s.cfg (0x4000 + p) 1 = 2 ∧ f.time + s.cfg (0x4000 + p) 0x14 * 1000 ≤ s.now then s.resend p f.seq
      else s := by
  simp only [State.ethRetry, h, State.portMode, Bool.and_eq_true, beq_iff_eq, decide_eq_true_eq, and_assoc]

/-- Settles O47: a flit by what is read of it, a packet by the checks of R295, and a NAK or a time-out by the failed sendings that
it leaves. -/
theorem flitsReceived : Obligations.FlitsReceived := by
  intro s p x e nakked fails waits
  have hfails (y : Port) (seq : Nat) : fails y seq = (y.judge e seq).sendFails := by
    cases h : y.replay with
    | nil => simp only [fails, h, Port.sendFails_judge_of_empty h]
    | cons f rest =>
      rw [Port.sendFails_judge_of_waiting h]
      simp only [fails, h]
      rfl
  refine ⟨fun b fec hdead => ?_, fun b hlink => ?_, fun b n hlink => ?_, fun m hctl hfull => ?_, fun k vc flits rest hq hk => ?_,
    fun k vc flits hq hk => ?_, fun hnone => ?_, fun k vc flits hnext => ?_, fun y seq => ?_, fun seq => ?_, fun hempty => ?_,
    fun f rest hreplay => ?_⟩
  · exact congrArg Host.Outcome.next (State.flitIn_of_unlinked hdead fec)
  · exact portBecomes_of_modPort (congrArg Host.Outcome.next (State.flitIn_of_uncorrected hlink)) rfl
  · intro f readable come took runs
    have hnext (hb : readable) (hseq : f.seq = x.rxSeq) {t : State} (h : ((come.modPort p (·.taken f)).flitData p f) = t) : runs t :=
      h ▸ congrArg Host.Outcome.next (State.flitIn_of_next hlink hb hseq)
    have htook (hkind : f.kind ≠ 0) : (come.modPort p (·.taken f)) = took := by
      simp only [Port.taken_eq, if_neg hkind]
      rfl
    refine ⟨fun hb => ?_, fun hb hseq => ?_, fun hb hseq hkind => hnext hb hseq ?_, fun hb hseq hkind => hnext hb hseq ?_,
      fun hb hseq hkind => hnext hb hseq ?_, fun hb hseq hkind => hnext hb hseq ?_, fun hb hseq hkind => hnext hb hseq ?_⟩
    · refine ⟨_, congrArg Host.Outcome.next (State.flitIn_of_unreadable hlink hb), OnlyPort.come_modPort s p n _, ?_⟩
      rw [State.rejectFlit_unread, State.port_modPort_same, s.port_come]
      rfl
    · refine ⟨_, congrArg Host.Outcome.next (State.flitIn_of_out_of_sequence hlink hb hseq), OnlyPort.come_modPort s p n _, ?_⟩
      rw [State.rejectFlit_out_of_sequence, State.port_modPort_same, s.port_come]
      rfl
    · rw [State.flitData_idle hkind]
      simp only [Port.taken_eq, if_pos hkind]
    · rw [State.flitData_control hkind, htook (by simp [hkind])]
    · rw [State.flitData_start hkind, htook (by simp [hkind])]
    · rw [State.flitData_body hkind, htook (by simp [hkind])]
    · rw [State.flitData_end hkind, htook (by simp [hkind])]
  · rw [Port.sendCtl_of_free hctl hfull]
    exact ⟨rfl, rfl, rfl, rfl, _, rfl, rfl, rfl, rfl, rfl⟩
  · rw [hq]
    exact nextRx_of_first hk vc flits rest
  · rw [hq]
    exact nextRx_of_only hk vc flits
  · exact congrArg Host.Outcome.next (State.packetReceive_of_none hnone)
  · intro taken die good
    have hreceive := State.packetReceive_of_some hnext
    refine ⟨fun hgood hknown => ?_, fun hgood hunknown => ?_, fun hbad => ?_⟩
    · exact congrArg Host.Outcome.next ((hreceive.trans (if_pos ((s.mayDeliver_iff p k).2 hgood))).trans (if_pos hknown))
    · exact congrArg Host.Outcome.next ((hreceive.trans (if_pos ((s.mayDeliver_iff p k).2 hgood))).trans
        (if_neg (hunknown ▸ Bool.false_ne_true)))
    · exact congrArg Host.Outcome.next (hreceive.trans (if_neg fun h => hbad ((s.mayDeliver_iff p k).1 h)))
  · intro z ack
    rw [hfails, show z = _ from y.resendFrom_eq e seq]
    exact ⟨rfl, rfl, by simp [Function.comp_def], rfl⟩
  · intro heard
    rw [hfails]
    refine ⟨fun hdead => ?_, fun hlink hfew => ?_, fun hlink hmany => ?_⟩
    · exact congrArg Host.Outcome.next (s.onNak_of_unlinked p seq hdead)
    · exact congrArg Host.Outcome.next (((s.onNak_of_linked p seq hlink).trans (heard.resend_eq p seq)).trans (if_neg (Nat.not_le.2 hfew)))
    · refine PortFell.fallsFor ?_ (congrArg Host.Outcome.next (s.onNak_of_linked p seq hlink))
      exact (heard.resend_of_eighth p seq hmany).of_sending (s.onlySending_modPort p _ (Port.still_acked _ _))
  · exact congrArg Host.Outcome.next (State.ethRetry_of_empty hempty)
  · intro due
    rw [hfails]
    have hretry := State.ethRetry_of_waiting hreplay
    refine ⟨fun hnot => ?_, fun hdue hfew => ?_, fun hdue hmany => ?_⟩
    · exact congrArg Host.Outcome.next (hretry.trans (if_neg hnot))
    · exact congrArg Host.Outcome.next ((hretry.trans (if_pos hdue)).trans ((s.resend_eq p f.seq).trans (if_neg (Nat.not_le.2 hfew))))
    · exact (s.resend_of_eighth p f.seq hmany).fallsFor (congrArg Host.Outcome.next (hretry.trans (if_pos hdue)))

end Sys2Proof.Machine
end

section
/-! Collectives: a COLL's start and its stragglers, the packets at the engines by TYPE and KIND, and MISSING notices (R306 to
R320). -/
namespace Sys2Proof.Machine

/-! ### A COLL's start (R306, R307) -/

section
variable {s : State} {g q seq op : Nat} {r : Run}

theorem State.seq_of_run (h : s.run g q seq = some r) : r.seq = seq :=
  beq_iff_eq.1 (List.find?_some (p := fun r : Run => r.seq == seq) h)

/-- An engine does not serve a descriptor that cannot go on. -/
theorem Ready.engineGate_of_not_ready (h : Ready g q seq s r) {u e : Nat} {kind : Run → Bool} {ready : Nat → Nat → Run → Bool}
    (hready : ready g q r = false) : s.engineGate u e g q seq kind ready = none := by
  rw [State.engineGate, State.frontGate, h.run]
  simp [hready]

theorem State.collBegun_iff : ((s.ctx g).colls.any fun c => c.q == q && c.seq == seq) = true ↔
    ∃ c ∈ (s.ctx g).colls, c.q = q ∧ c.seq = seq := by
  simp only [List.any_eq_true, Bool.and_eq_true, beq_iff_eq]

theorem Ready.collReady_iff (h : Ready g q seq s r) :
    s.collReady g q r = true ↔ ¬ ∃ c ∈ (s.ctx g).colls, c.q = q ∧ c.seq = seq := by
  rw [State.collReady, State.seq_of_run h.run, Bool.not_eq_true', ← Bool.not_eq_true, State.collBegun_iff]

/-- The collective engine starts a COLL of the row's OP whose turn has come. -/
theorem Ready.collRow_eq (h : Ready g q seq s r) (hcoll : dOpcode r.raw = 0x40) (hop : (collBlk r.block).op = op)
    (hturn : s.turnOf 2 2 g s.collReady) (hnew : ¬ ∃ c ∈ (s.ctx g).colls, c.q = q ∧ c.seq = seq) :
    s.collRow g q seq op = (s.collStart g q seq r).engineServed 2 g := by
  rw [State.collRow, h.engineGate_eq hturn (by simp [isOp, hcoll, hop]) (h.collReady_iff.2 hnew)]

/-- A COLL that has begun, or whose turn has not come, is left alone. -/
theorem Ready.collRow_waits (h : Ready g q seq s r)
    (hno : (∃ c ∈ (s.ctx g).colls, c.q = q ∧ c.seq = seq) ∨ ¬ s.turnOf 2 2 g s.collReady) (op : Nat) :
    s.collRow g q seq op = s := by
  have hgate : s.engineGate 2 2 g q seq (fun r => isOp 0x40 r && (collBlk r.block).op == op) s.collReady = none := by
    rcases hno with hbegun | hturn
    · exact h.engineGate_of_not_ready (Bool.eq_false_iff.2 fun hready => h.collReady_iff.1 hready hbegun)
    · exact State.engineGate_of_not_turn hturn
  rw [State.collRow, hgate]

/-! ### Stragglers (R318) -/

variable {c : CollRun}

theorem State.straggle_of_found (h : (s.ctx g).colls.find? (fun c => c.q == q && c.seq == seq) = some c) :
    s.straggle g q seq = if s.pwr.shutdown = false ∧ c.startAt + s.stragglerNs (partOfCtx g) ≤ s.ctxTime g
      then s.missColl g c.key true else s := by
  simp only [State.straggle, h, Bool.and_eq_true, Bool.not_eq_true', decide_eq_true_eq]

end

/-- Settles O36: the row is the engine's gate and the start, whose source and exponents are read or fail; a straggler is judged by
its limit. -/
theorem collectivesBegin : Obligations.CollectivesBegin := by
  intro s g q seq r h hcoll b begun turn carried runs
  have hstart (hnew : ¬ begun) : s.collStart g q seq r = carried := by
    rw [State.collStart, if_neg (mt State.collBegun_iff.1 hnew)]
    cases hsource : s.collSource g b (groupTable r.table).n with
    | error x => simp only [b, carried, hsource]
    | ok vals =>
      cases hexps : s.collExps g b with
      | error x => simp only [b, carried, hsource, hexps]
      | ok exps =>
        simp only [b, carried, hsource, hexps]
        rfl
  have hrow (op : Nat) (hop : b.op = op) (hturn : turn) (hnew : ¬ begun) :
      Host.Outcome.next (φ := Fault) (ρ := Refusal) (s.collRow g q seq op) = .next (carried.engineServed 2 g) := by
    rw [h.collRow_eq hcoll hop hturn hnew, hstart hnew]
  refine ⟨hrow 0, hrow 1, hrow 2, hrow 3, fun _ hno => ?waits, fun c hc => ?straggler⟩
  case waits =>
    have hwait (op : Nat) := congrArg (Host.Outcome.next (φ := Fault) (ρ := Refusal)) (h.collRow_waits hno op)
    exact ⟨hwait 0, hwait 1, hwait 2, hwait 3⟩
  case straggler =>
    have hjudge := State.straggle_of_found hc
    refine ⟨fun hdown => ?_, fun hup hdue => ?_, fun hearly => ?_⟩
    · exact congrArg Host.Outcome.next (hjudge.trans (if_neg fun hcan => Bool.false_ne_true (hcan.1.symm.trans hdown)))
    · exact congrArg Host.Outcome.next (hjudge.trans (if_pos ⟨hup, hdue⟩))
    · exact congrArg Host.Outcome.next (hjudge.trans (if_neg fun hcan => Nat.not_le.2 hearly hcan.2))

/-! ### Packets at the engines (R309, R310) -/

section
variable {s : State} {k : Packet} {kind type g i : Nat} {c : CollRun}

/-- A packet that waits at the engines, of a TYPE and KIND. -/
def State.Handed (s : State) (k : Packet) (kind type : Nat) : Prop :=
  k ∈ s.fab.handed ∧ k.type = type ∧ k.offset.toNat / 2 ^ 36 % 16 = kind

theorem pktKind_eq (k : Packet) : pktKind k = k.offset.toNat / 2 ^ 36 % 16 := bitsOf_eq _ 36 4

theorem State.handed_iff :
    (s.fab.handed.contains k && k.type == type && pktKind k == kind) = true ↔ s.Handed k kind type := by
  simp only [State.Handed, pktKind_eq, Bool.and_eq_true, List.contains_iff_mem, beq_iff_eq, and_assoc]

/-- Only DATA, SPARSE and SIGN need room: they wait 8 chunks ahead of the lowest one due, and where scratch is full. -/
theorem CollRun.takes_iff (hkind : pktKind k = kind) :
    c.takes k = true ↔ (kind = 0 ∨ kind = 2 ∨ kind = 3 →
      k.offset.toNat % 2 ^ 36 / 65536 < c.lowChunk + 8 ∧ c.arrived.length + c.adds k ≤ c.blk.scratchBytes / 4) := by
  have haccepts : c.accepts (chunkOf (pktElem k)) (c.adds k) = true ↔
      k.offset.toNat % 2 ^ 36 / 65536 < c.lowChunk + 8 ∧ c.arrived.length + c.adds k ≤ c.blk.scratchBytes / 4 := by
    rw [CollRun.accepts, CollRun.room, Bool.and_eq_true, decide_eq_true_iff, decide_eq_true_iff]
    rfl
  rw [← haccepts, ← hkind]
  unfold CollRun.takes
  split <;> simp_all

theorem State.collPacket_of_other (h : ¬ s.Handed k kind type) (f : State → Nat → CollRun → Nat → State) :
    s.collPacket k kind type f = s :=
  if_neg (mt State.handed_iff.1 h)

theorem State.collPacket_of_unmatched (h : s.Handed k kind type) (hof : s.collOf k = none) (f : State → Nat → CollRun → Nat → State) :
    s.collPacket k kind type f = s.collUnmatched k := by
  rw [State.collPacket, if_pos (State.handed_iff.2 h), hof]

theorem State.collPacket_of_matched (h : s.Handed k kind type) (hof : s.collOf k = some (g, c, i))
    (f : State → Nat → CollRun → Nat → State) :
    s.collPacket k kind type f = if c.takes k = true then (f (s.takeHanded k) g c i).collGoOn g c.key else s := by
  rw [State.collPacket, if_pos (State.handed_iff.2 h), hof]

end

/-- Settles O37: one row for all eight packets, by whether the packet is there, whether its collective runs, and whether that has
room. -/
theorem collectivePackets : Obligations.CollectivePackets := by
  intro s k rest lost adds taken
  have hrow (kind type : Nat) (f : State → Nat → CollRun → Nat → State) :
      s.collPacket k kind type f = taken kind type (f rest) := by
    by_cases hhere : s.Handed k kind type
    · refine Eq.trans ?_ (if_pos hhere).symm
      cases hof : s.collOf k with
      | none => exact State.collPacket_of_unmatched hhere hof f
      | some x =>
        obtain ⟨g, c, i⟩ := x
        refine (State.collPacket_of_matched hhere hof f).trans (if_congr ?_ rfl rfl)
        exact CollRun.takes_iff ((pktKind_eq k).trans hhere.2.2)
    · exact (State.collPacket_of_other hhere f).trans (if_neg hhere).symm
  have hsignature (g : Nat) (c : CollRun) (i : Nat) : rest.onSignature k g c i = if k.payload = c.signature then
        rest.modColl g c.key fun c => { c with signed := if i ∈ c.signed then c.signed else c.signed ++ [i] }
      else (rest.collSendAll g c 8 1 0 []).jobFault g c.q c.seq stCollMismatch 0 := by
    simp only [State.onSignature, List.contains_iff_mem]
  have hsigned : taken 7 1 (rest.onSignature k) = taken 7 1 _ := congrArg (taken 7 1) (funext₃ hsignature)
  exact ⟨congrArg Host.Outcome.next (hrow 0 1 fun s g c i => s.onData k g c i),
    congrArg Host.Outcome.next (hrow 1 2 fun s g c _ => s.onResult k g c),
    congrArg Host.Outcome.next (hrow 2 1 fun s g c i => s.onSparse k g c i),
    congrArg Host.Outcome.next (hrow 3 1 fun s g c i => s.onSign k g c i),
    congrArg Host.Outcome.next (hrow 4 1 fun s g c _ => s.ringAdd g c (pktElem k) (mantsOf k.payload)),
    congrArg Host.Outcome.next (hrow 5 2 fun s g c _ => s.onBsResult k g c),
    congrArg Host.Outcome.next (hrow 6 1 fun s g c _ => s.onMeta k g c),
    congrArg Host.Outcome.next ((hrow 7 1 fun s g c i => s.onSignature k g c i).trans hsigned)⟩

/-! ### Notices held (R318) -/

theorem mem_keys_mapSet {α : Type} (m : SMap α) (k : Nat) (v : α) (j : Nat) :
    j ∈ (mapSet m k v).map (·.1) ↔ j ∈ m.map (·.1) ∨ j = k := by
  induction m with
  | nil => simp [mapSet]
  | cons e m ih =>
    rw [mapSet]
    split_ifs with hlt heq
    · simp [or_comm]
    · simp [heq, or_comm]
    · rw [List.map_cons, List.mem_cons, ih, List.map_cons, List.mem_cons, or_assoc]

theorem mem_sortedSet {l : List Nat} {j : Nat} : j ∈ sortedSet l ↔ j ∈ l := by
  have hfold (m : SMap Unit) : j ∈ (l.foldl (fun m k => mapSet m k ()) m).map (·.1) ↔ j ∈ m.map (·.1) ∨ j ∈ l := by
    induction l generalizing m with
    | nil => simp
    | cons k l ih => rw [List.foldl_cons, ih, mem_keys_mapSet, List.mem_cons, or_assoc]
  exact (hfold []).trans (by simp)

/-- A notice is held once, and only of a collective that notices are held of or of one of the first 64. -/
theorem Ctx.holdNotice_eq (m : Nat × Nat × Nat) (c : Ctx) :
    c.holdNotice m = { c with missingHeld :=
      if ((noticesOf c.missingHeld).length < 64 ∨ ∃ x ∈ c.missingHeld, x.1 = m.1) ∧ m ∉ c.missingHeld then c.missingHeld ++ [m]
      else c.missingHeld } := by
  have hknown : (noticesOf c.missingHeld).contains m.1 = true ↔ ∃ x ∈ c.missingHeld, x.1 = m.1 := by
    rw [List.contains_iff_mem, noticesOf, mem_sortedSet, List.mem_map]
  simp only [Ctx.holdNotice, Bool.and_eq_true, Bool.or_eq_true, decide_eq_true_eq, Bool.not_eq_true', hknown, ← Bool.not_eq_true,
    List.contains_iff_mem]
  split_ifs <;> rfl

theorem ctxsOfPart_nodup (p : Nat) : (ctxsOfPart p).Nodup := List.nodup_range.map fun _ _ h => Nat.add_left_cancel h

section
variable (f : Ctx → Ctx) (l : List Nat) (s : State)

theorem State.foldl_modCtx_frame :
    l.foldl (fun s g => s.modCtx g f) s = { s with ctxs := (l.foldl (fun s g => s.modCtx g f) s).ctxs } := by
  induction l generalizing s with
  | nil => rfl
  | cons k l ih => exact ih (s.modCtx k f)

theorem State.ctx_foldl_modCtx (hl : l.Nodup) (g : Nat) :
    (l.foldl (fun s g => s.modCtx g f) s).ctx g = if g ∈ l then f (s.ctx g) else s.ctx g := by
  induction l generalizing s with
  | nil => rfl
  | cons k l ih =>
    obtain ⟨hk, hl⟩ := List.nodup_cons.1 hl
    rw [List.foldl_cons, ih _ hl]
    by_cases hg : g = k
    · simp [hg, hk]
    · simp [hg, s.ctx_modCtx_ne k g f hg]

end

section
variable {s : State} {k : Packet} {g i : Nat} {c : CollRun}

theorem State.onMissing_of_other (h : ¬ s.Handed k 8 1) : s.onMissing k = s := if_neg (mt State.handed_iff.1 h)

theorem State.onMissing_of_running (h : s.Handed k 8 1) (hof : s.collOf k = some (g, c, i)) :
    s.onMissing k = (s.takeHanded k).missColl g c.key false := by
  rw [State.onMissing, if_pos (State.handed_iff.2 h), hof]

theorem State.onMissing_of_not_running (h : s.Handed k 8 1) (hof : s.collOf k = none) : s.onMissing k = s.holdMissing k := by
  rw [State.onMissing, if_pos (State.handed_iff.2 h), hof]

/-- A notice of a collective that a context may start is held by all that may. -/
theorem State.holdMissing_of_possible (h : ∃ g ∈ ctxsOfPart k.dstPart, s.mayCome g (pktIdent k) = true) :
    s.holdMissing k = ((ctxsOfPart k.dstPart).filter fun g => s.mayCome g (pktIdent k)).foldl
      (fun s g => s.modCtx g (Ctx.holdNotice (pktIdent k, k.srcId, k.srcPart))) (s.takeHanded k) := by
  rw [State.holdMissing]
  split
  next hnone =>
    obtain ⟨g, hg, hmay⟩ := h
    exact absurd hmay (List.filter_eq_nil_iff.1 hnone g hg)
  next => rfl

/-- A notice of a collective that none may start is discarded and counted. -/
theorem State.holdMissing_of_unknown (h : ∀ g ∈ ctxsOfPart k.dstPart, s.mayCome g (pktIdent k) = false) :
    s.holdMissing k = (s.takeHanded k).modPart k.dstPart fun p => { p with missing := p.missing + 1 } := by
  have hnone : (ctxsOfPart k.dstPart).filter (fun g => s.mayCome g (pktIdent k)) = [] :=
    List.filter_eq_nil_iff.2 fun g hg => Bool.eq_false_iff.1 (h g hg)
  have hany : ¬ ((ctxsOfPart k.dstPart).any fun g => s.mayCome g (pktIdent k)) = true :=
    Bool.eq_false_iff.1 (List.any_eq_false.2 fun g hg => Bool.eq_false_iff.1 (h g hg))
  rw [State.holdMissing, hnone]
  exact if_neg hany

end

/-- Settles O38: a notice by whether its collective runs, may start, or is unknown; holding changes each context that may start it
once. -/
theorem missingNotices : Obligations.MissingNotices := by
  intro s k rest ident note here
  refine ⟨fun g c i hhere hof => ?running, fun hhere hof hmay => ?possible, fun hhere hof hnone => ?unknown, fun hnot => ?other⟩
  case running => exact congrArg Host.Outcome.next (State.onMissing_of_running ⟨hhere.1, hhere.2⟩ hof)
  case possible =>
    have hheld := (State.onMissing_of_not_running hhere hof).trans (State.holdMissing_of_possible hmay)
    refine ⟨_, congrArg Host.Outcome.next hheld, State.foldl_modCtx_frame _ _ _, fun g => ?_⟩
    have hnodup := (ctxsOfPart_nodup k.dstPart).filter fun g => s.mayCome g (pktIdent k)
    rw [State.ctx_foldl_modCtx _ _ _ hnodup, Ctx.holdNotice_eq]
    exact if_congr List.mem_filter rfl rfl
  case unknown =>
    exact congrArg Host.Outcome.next ((State.onMissing_of_not_running hhere hof).trans (State.holdMissing_of_unknown hnone))
  case other => exact congrArg Host.Outcome.next (State.onMissing_of_other hnot)

end Sys2Proof.Machine
end

section
/-! The schedule of a partition: how slots take the cores of a die, frames, and slot boundaries (R333 to R335, R338, R342). -/
namespace Sys2Proof.Machine

/-! ### What giving cores to slots changes (R335, R338) -/

/-- Of the state only cores, partitions and the log differ, and of the cores only those of a list. -/
structure OnlySlots (l : List Nat) (s t : State) : Prop where
  frame : t = { s with cores := t.cores, parts := t.parts, log := t.log }
  others : ∀ c, c ∉ l → t.core c = s.core c

section
variable {l m : List Nat} {s t u : State}

theorem OnlySlots.refl (l : List Nat) (s : State) : OnlySlots l s s := ⟨rfl, fun _ _ => rfl⟩

theorem OnlySlots.trans (h : OnlySlots l s t) (k : OnlySlots l t u) : OnlySlots l s u where
  frame := calc
    u = { t with cores := u.cores, parts := u.parts, log := u.log } := k.frame
    _ = { s with cores := u.cores, parts := u.parts, log := u.log } := by rw [h.frame]
  others c hc := (k.others c hc).trans (h.others c hc)

theorem OnlySlots.mono (h : OnlySlots l s t) (hlm : l ⊆ m) : OnlySlots m s t := ⟨h.frame, fun c hc => h.others c fun hl => hc (hlm hl)⟩

/-- An update that gives each core of a list a property and leaves the other cores alone gives it to all of a list without
repeats. -/
theorem foldl_onlySlots {f : State → Nat → State} {P : Core → Prop} (hf : ∀ s c, OnlySlots [c] s (f s c) ∧ P ((f s c).core c))
    (hl : l.Nodup) (s : State) : OnlySlots l s (l.foldl f s) ∧ ∀ c ∈ l, P ((l.foldl f s).core c) := by
  induction l generalizing s with
  | nil => exact ⟨OnlySlots.refl [] s, fun c hc => absurd hc List.not_mem_nil⟩
  | cons a l ih =>
    obtain ⟨hal, hl⟩ := List.nodup_cons.1 hl
    obtain ⟨hfirst, ha⟩ := hf s a
    obtain ⟨hrest, hall⟩ := ih hl (f s a)
    refine ⟨(hfirst.mono (by simp)).trans (hrest.mono (List.subset_cons_self a l)), fun c hc => ?_⟩
    rcases List.mem_cons.1 hc with rfl | hc
    · rwa [List.foldl_cons, hrest.others c hal]
    · exact hall c hc

end

section
variable (s : State)

theorem State.onlySlots_countLate (p c : Nat) : OnlySlots [] s (s.countLate p c) := by
  unfold State.countLate
  split
  · exact OnlySlots.refl [] s
  · split
    · exact ⟨rfl, fun _ _ => rfl⟩
    · exact OnlySlots.refl [] s

theorem State.onlySlots_modCore (c : Nat) (f : Core → Core) : OnlySlots [c] s (s.modCore c f) :=
  ⟨rfl, fun k hk => s.core_modCore_ne c k f (by simpa using hk)⟩

theorem State.assignCore_slot (now g i start c : Nat) :
    OnlySlots [c] s (s.assignCore now g i start c) ∧ ((s.assignCore now g i start c).core c).slot = some i := by
  unfold State.assignCore
  split
  next h => exact ⟨OnlySlots.refl [c] s, h.1⟩
  next =>
    refine ⟨((s.onlySlots_countLate _ c).mono (by simp)).trans (State.onlySlots_modCore _ c _), ?_⟩
    rw [State.core_modCore_same]

theorem State.unslot_slot (p c : Nat) :
    OnlySlots [c] s (s.unslot p c) ∧ ((s.unslot p c).core c).slot = none ∧ ((s.unslot p c).core c).slotAt = none := by
  unfold State.unslot
  refine ⟨((s.onlySlots_countLate p c).mono (by simp)).trans (State.onlySlots_modCore _ c _), ?_⟩
  rw [State.core_modCore_same]
  exact ⟨rfl, rfl⟩

/-- The first slot served: its cores given, and a shortage counted. -/
def State.serveSlot (s : State) (p d now frame i : Nat) (sl : Slot) (free : List Nat) : State :=
  let got := free.take sl.cores
  let t := got.foldl (fun s c => s.assignCore now (64 * p + sl.n) i (frame + sl.start * 1000) c) s
  if got.length < sl.cores then t.slotShort p d i sl.cores got.length else t

theorem State.assignSlots_cons (p d now frame i : Nat) (sl : Slot) (rest : List (Nat × Slot)) (free : List Nat) :
    State.assignSlots p d now frame ((i, sl) :: rest) free s =
      State.assignSlots p d now frame rest (free.drop sl.cores) (s.serveSlot p d now frame i sl free) := rfl

theorem State.serveSlot_gives (p d now frame i : Nat) (sl : Slot) {free : List Nat} (hfree : free.Nodup) :
    OnlySlots (free.take sl.cores) s (s.serveSlot p d now frame i sl free) ∧
      ∀ c ∈ free.take sl.cores, ((s.serveSlot p d now frame i sl free).core c).slot = some i := by
  have hnodup : (free.take sl.cores).Nodup := (List.take_sublist _ _).nodup hfree
  obtain ⟨honly, hall⟩ := foldl_onlySlots (P := fun k => k.slot = some i)
    (fun s c => s.assignCore_slot now (64 * p + sl.n) i (frame + sl.start * 1000) c) hnodup s
  unfold State.serveSlot
  dsimp only
  split
  · exact ⟨honly.trans ⟨rfl, fun _ _ => rfl⟩, hall⟩
  · exact ⟨honly, hall⟩

end

/-- How many cores the first n slots of a list reserve. -/
def reservedBefore (slots : List (Nat × Slot)) (n : Nat) : Nat := ((slots.take n).map (·.2.cores)).sum

theorem reservedBefore_cons (x : Nat × Slot) (rest : List (Nat × Slot)) (n : Nat) :
    reservedBefore (x :: rest) (n + 1) = x.2.cores + reservedBefore rest n := by
  simp [reservedBefore]

/-- What a die's cores read once they are given to slots in order. -/
structure SlotsTaken (slots : List (Nat × Slot)) (cores : List Nat) (s t : State) : Prop where
  only : OnlySlots cores s t
  given : ∀ n i sl, slots[n]? = some (i, sl) → ∀ c ∈ (cores.drop (reservedBefore slots n)).take sl.cores, (t.core c).slot = some i
  left : ∀ c ∈ cores.drop (reservedBefore slots slots.length), (t.core c).slot = none ∧ (t.core c).slotAt = none

theorem assignSlots_taken (p d now frame : Nat) (slots : List (Nat × Slot)) {cores : List Nat} (hcores : cores.Nodup) (s : State) :
    SlotsTaken slots cores s (State.assignSlots p d now frame slots cores s) := by
  induction slots generalizing cores s with
  | nil =>
    obtain ⟨honly, hall⟩ := foldl_onlySlots (P := fun k => k.slot = none ∧ k.slotAt = none) (fun s c => s.unslot_slot p c) hcores s
    exact ⟨honly, fun n i sl h => by simp at h, hall⟩
  | cons x rest ih =>
    obtain ⟨i, sl⟩ := x
    rw [State.assignSlots_cons]
    obtain ⟨hfirst, hgot⟩ := s.serveSlot_gives p d now frame i sl hcores
    obtain ⟨honly, hgiven, hleft⟩ := ih ((List.drop_sublist sl.cores cores).nodup hcores) (s.serveSlot p d now frame i sl cores)
    refine ⟨(hfirst.mono (List.take_subset ..)).trans (honly.mono (List.drop_subset ..)), fun n j sl' hn c hc => ?_, ?_⟩
    · cases n with
      | zero =>
        obtain ⟨rfl, rfl⟩ : i = j ∧ sl = sl' := by simpa using hn
        have htaken : c ∈ cores.take sl.cores := by simpa [reservedBefore] using hc
        rw [honly.others c fun hdrop => List.disjoint_take_drop hcores le_rfl htaken hdrop]
        exact hgot c htaken
      | succ n =>
        refine hgiven n j sl' (by simpa using hn) c ?_
        rwa [List.drop_drop, ← reservedBefore_cons (i, sl)]
    · intro c hc
      refine hleft c ?_
      rwa [List.drop_drop, ← reservedBefore_cons (i, sl)]

/-- Settles O23: by induction on the slots, each of which takes the first of the cores that are left. -/
theorem slotAssignment : Obligations.SlotAssignment := by
  intro s p d now frame slots cores hcores t taken
  obtain ⟨honly, hgiven, hleft⟩ := assignSlots_taken p d now frame slots hcores s
  exact ⟨honly.others, hgiven, hleft, honly.frame⟩

/-! ### Frames and slot edges (R333, R335, R342) -/

section
variable (s : State) (p : Nat)

/-- A partition keeps its schedule while it is READY or RESETTING. -/
def State.Scheduled : Prop := (s.part p).st = .ready ∨ (s.part p).st = .resetting

/-- The start of the frame that the present time of a partition lies in (R335). -/
def State.frameBegins : Nat :=
  (s.part p).frameT0 + (s.partTime p - (s.part p).frameT0) / s.frameNs p * s.frameNs p

/-- A frame of a partition has begun that has not been taken up. -/
def State.FrameFresh : Prop :=
  p < s.partCount ∧ 0 < s.frameNs p ∧ (s.part p).frameT0 ≤ s.partTime p ∧ ∀ a, (s.part p).frameAt = some a → a < s.frameBegins p

/-- The partition as the frame begins: counted, with the table last accepted in force (R342). -/
def State.beginFrame : State :=
  s.modPart p fun x =>
    { x with frameAt := some (s.frameBegins p), frameCount := min (x.frameCount + 1) 0xFFFFFFFFFFFFFFFF
             tableInForce := sized 1024 x.tableNext }

/-- A frame is taken up exactly where the schedule runs and a new one has begun. -/
theorem State.frameStart_spec :
    (s.Scheduled p ∧ s.FrameFresh p → s.frameStart p = (s.beginFrame p).assignPart p) ∧
      (¬ (s.Scheduled p ∧ s.FrameFresh p) → s.frameStart p = s) := by
  classical
  have heq : s.frameStart p = if s.Scheduled p ∧ s.FrameFresh p then (s.beginFrame p).assignPart p else s := by
    rw [State.frameStart]
    refine if_congr ?_ rfl rfl
    rw [State.Scheduled, State.FrameFresh, State.frameBegins]
    cases (s.part p).frameAt <;> simp [Nat.pos_iff_ne_zero] <;> tauto
  exact ⟨fun h => heq.trans (if_pos h), fun h => heq.trans (if_neg h)⟩

/-- A slot in force starts or ends after the last assignment and not later than now. -/
def State.EdgeDue : Prop :=
  ∃ f i, (s.part p).frameAt = some f ∧ i < 64 ∧ (slotOf (s.part p).tableInForce i).len ≠ 0 ∧
    ∃ e, (e = f + (slotOf (s.part p).tableInForce i).start * 1000 ∨
      e = f + ((slotOf (s.part p).tableInForce i).start + (slotOf (s.part p).tableInForce i).len) * 1000) ∧
      (s.part p).assignAt < e ∧ e ≤ s.partTime p

theorem State.boundaryDue_iff : s.boundaryDue p = true ↔ s.EdgeDue p := by
  rw [State.boundaryDue, State.EdgeDue]
  cases (s.part p).frameAt <;> simp

theorem State.slotBoundary_of_due (hp : p < s.partCount) (hruns : s.Scheduled p) (hdue : s.EdgeDue p) :
    s.slotBoundary p = s.assignPart p := by
  rw [State.Scheduled] at hruns
  rw [State.slotBoundary, if_pos (by simpa [hp, s.boundaryDue_iff p, hdue] using hruns)]

theorem State.slotBoundary_of_not (h : ¬ s.Scheduled p ∨ ¬ s.EdgeDue p) : s.slotBoundary p = s := by
  rw [State.slotBoundary, if_neg]
  simp only [Bool.and_eq_true, Bool.or_eq_true, beq_iff_eq, s.boundaryDue_iff p]
  exact fun ⟨⟨_, hruns⟩, hdue⟩ => h.elim (· hruns) (· hdue)

end

/-- Settles O22: a frame start and a slot boundary each by whether their moment has come. -/
theorem framesAndSlots : Obligations.FramesAndSlots := by
  intro s p x frame now begins fresh runs edge
  refine ⟨fun hruns hfresh => ?frame, fun h => ?noFrame, fun hp hruns hedge => ?edge, fun h => ?noEdge⟩ <;>
    refine congrArg Host.Outcome.next ?_
  case frame => exact (s.frameStart_spec p).1 ⟨hruns, hfresh⟩
  case noFrame => exact (s.frameStart_spec p).2 (not_and_or.2 h)
  case edge => exact s.slotBoundary_of_due p hp hruns hedge
  case noEdge => exact s.slotBoundary_of_not p h

end Sys2Proof.Machine
end

section
/-! The limits of a work tile: the watchdog (R339) and the halo wait (R210, R47). -/
namespace Sys2Proof.Machine

/-! ### Work tiles that leave their cores -/

/-- No core holds a work tile that it did not hold before. -/
def NoNewTiles (s t : State) : Prop := ∀ c k, (t.core c).tile = some k → (s.core c).tile = some k

section
variable {s t u : State} {g : Nat}

theorem NoNewTiles.refl (s : State) : NoNewTiles s s := fun _ _ h => h

theorem NoNewTiles.trans (h : NoNewTiles s t) (k : NoNewTiles t u) : NoNewTiles s u := fun c x hx => h c x (k c x hx)

theorem NoNewTiles.of_cores (h : t.cores = s.cores) : NoNewTiles s t := fun c k hk => by rwa [State.core, h] at hk

theorem NoNewTiles.none_of_none (h : NoNewTiles s t) {c : Nat} (hc : (s.core c).tile = none) : (t.core c).tile = none :=
  Option.eq_none_iff_forall_ne_some.2 fun k hk => by simpa [hc] using h c k hk

/-- Of the state only contexts, cores and dies differ; of the contexts only g, which keeps its state and its stash; and no core takes
a work tile. -/
structure TilesLeft (g : Nat) (s t : State) : Prop where
  frame : t = { s with ctxs := t.ctxs, cores := t.cores, dies := t.dies }
  others : OthersKept g s t
  st : (t.ctx g).st = (s.ctx g).st
  stash : (t.ctx g).stash = (s.ctx g).stash
  tiles : NoNewTiles s t

theorem TilesLeft.refl (g : Nat) (s : State) : TilesLeft g s s := ⟨rfl, fun _ _ => rfl, rfl, rfl, NoNewTiles.refl s⟩

theorem TilesLeft.trans (h : TilesLeft g s t) (k : TilesLeft g t u) : TilesLeft g s u where
  frame := calc
    u = { t with ctxs := u.ctxs, cores := u.cores, dies := u.dies } := k.frame
    _ = { s with ctxs := u.ctxs, cores := u.cores, dies := u.dies } := by rw [h.frame]
  others j hj := (k.others j hj).trans (h.others j hj)
  st := k.st.trans h.st
  stash := k.stash.trans h.stash
  tiles := h.tiles.trans k.tiles

theorem TilesLeft.memories (h : TilesLeft g s t) : t.hbm = s.hbm ∧ t.host0 = s.host0 ∧ t.host1 = s.host1 := by
  rw [h.frame]
  exact ⟨rfl, rfl, rfl⟩

end

section
variable (s : State) (g : Nat)

theorem State.noNewTiles_freeCore (c : Nat) : NoNewTiles s (s.freeCore c) := by
  intro k x hx
  rw [State.tile_freeCore] at hx
  split at hx
  · cases hx
  · exact hx

theorem State.ctxs_freeCore (c : Nat) : (s.freeCore c).ctxs = s.ctxs := by
  unfold State.freeCore
  split <;> rfl

theorem State.tilesLeft_freeCore (c : Nat) : TilesLeft g s (s.freeCore c) where
  frame := (s.onlyQueues_freeCore g c).frame
  others := (s.onlyQueues_freeCore g c).others
  st := by rw [State.ctx, State.ctxs_freeCore, State.ctx]
  stash := by rw [State.ctx, State.ctxs_freeCore, State.ctx]
  tiles := s.noNewTiles_freeCore c

theorem State.tilesLeft_modCtx (f : Ctx → Ctx) (hst : (f (s.ctx g)).st = (s.ctx g).st) (hstash : (f (s.ctx g)).stash = (s.ctx g).stash) :
    TilesLeft g s (s.modCtx g f) where
  frame := rfl
  others := (s.onlyCtx_modCtx g f).2
  st := by rwa [State.ctx_modCtx_same]
  stash := by rwa [State.ctx_modCtx_same]
  tiles := NoNewTiles.of_cores rfl

theorem State.tilesLeft_modRun (q seq : Nat) (f : Run → Run) : TilesLeft g s (s.modRun g q seq f) := by
  rw [State.modRun, State.modQueue, State.setQueue]
  exact s.tilesLeft_modCtx g _ rfl rfl

theorem State.tilesLeft_leaveTile (c : Nat) (t : TileRun) : TilesLeft t.g s (s.leaveTile c t) := by
  have hkv (u : State) (f : Kv → Kv) : TilesLeft t.g u (u.modKv t.g f) := u.tilesLeft_modCtx t.g _ rfl rfl
  unfold State.leaveTile
  cases t.startAt with
  | none => exact (s.tilesLeft_freeCore t.g c).trans (hkv _ _)
  | some a => exact ((s.tilesLeft_freeCore t.g c).trans (hkv _ _)).trans (State.tilesLeft_modCtx _ t.g _ rfl rfl)

theorem State.tilesLeft_stopTile (c : Nat) (t : TileRun) : TilesLeft t.g s (s.stopTile c t) :=
  (s.tilesLeft_leaveTile c t).trans (State.tilesLeft_modRun _ t.g t.q t.seq _)

/-- A core whose work tile is stopped holds none. -/
theorem State.tile_stopTile (c : Nat) (t : TileRun) : ((s.stopTile c t).core c).tile = none := by
  have hfree : ((s.freeCore c).core c).tile = none := by rw [State.tile_freeCore, if_pos rfl]
  unfold State.stopTile State.leaveTile
  cases t.startAt <;> exact hfree

/-- The work tiles cut with a context's replays are all its own. -/
theorem State.tilesLeft_cutReplay (p : Nat → Bool) : TilesLeft g s (s.cutReplay g p) := by
  refine List.foldlRecOn _ _ (TilesLeft.refl g s) fun t ht c hc => ?_
  cases hk : (t.core c).tile with
  | none => exact ht
  | some k =>
    have hown : k.g = g := by
      simp only [State.coresWith, List.mem_filter, ht.tiles c k hk, Bool.and_eq_true, beq_iff_eq] at hc
      exact hc.2.1
    subst hown
    exact ht.trans (t.tilesLeft_stopTile c k)

/-! ### A job fault gives no core a work tile -/

theorem State.noNewTiles_dropWaiting : NoNewTiles s (s.dropWaiting g) := by
  refine List.foldlRecOn _ _ (NoNewTiles.refl s) fun t ht c _ => ?_
  cases (t.core c).tile with
  | none => exact ht
  | some k =>
    refine (ht.trans (t.noNewTiles_freeCore c)).trans fun j x hx => ?_
    rwa [State.core_returnTile] at hx

theorem State.noNewTiles_stopQueues : NoNewTiles s (s.stopQueues g) :=
  List.foldlRecOn _ _ (NoNewTiles.refl s) fun _ ht _ _ => ht.trans (NoNewTiles.of_cores rfl)

theorem State.noNewTiles_faultCtx (q seq status tile : Nat) : NoNewTiles s (s.faultCtx g q seq status tile) := by
  rw [State.faultCtx_eq]
  refine NoNewTiles.trans ?_ ((State.noNewTiles_dropWaiting _ g).trans (State.noNewTiles_stopQueues _ g))
  refine NoNewTiles.of_cores ?_
  rw [State.modCtx_cores, State.chargedFault_frame]

theorem State.noNewTiles_jobFault (q seq status tile : Nat) : NoNewTiles s (s.jobFault g q seq status tile) := by
  have hfinish (u : State) : NoNewTiles u (u.finish g q seq status) := by
    unfold State.finish
    split
    · exact NoNewTiles.refl u
    · exact NoNewTiles.of_cores rfl
  unfold State.jobFault
  split
  · exact NoNewTiles.refl s
  · refine NoNewTiles.trans ?_ (State.noNewTiles_faultCtx _ g q seq status tile)
    exact NoNewTiles.trans (t := s.chargeBusy g _) (NoNewTiles.of_cores rfl) (hfinish _)

end

/-! ### The watchdog (R339) -/

section
variable {s : State} {c a : Nat} {k : TileRun} (hk : (s.core c).tile = some k) (ha : k.startAt = some a)
include hk ha

theorem State.watchdog_of_within (h : s.runTime c k a ≤ 200000) : s.watchdog c = s := by
  rw [State.watchdog, hk]
  simp [ha, h]

theorem State.watchdog_of_over (h : 200000 < s.runTime c k a) (hactive : (s.ctx k.g).st = .active) :
    s.watchdog c = (s.stopTile c k).overtime k := by
  have hst : ((s.stopTile c k).ctx k.g).st = .active := (s.tilesLeft_stopTile c k).st.trans hactive
  rw [State.watchdog, hk]
  simp [ha, Nat.not_le.2 h, hst]

end

section
variable {s : State} {c : Nat} {k : TileRun}

theorem State.overtime_of_descriptor (h : k.replay = none) : s.overtime k = s.jobFault k.g k.q k.seq 0x19 0 := by
  rw [State.overtime, h]
  rfl

theorem State.overtime_of_speculative {no : Nat} {x : Spec} (h : k.replay = some no) (hx : s.specNo k.g no = some x)
    (howner : x.owner = none) : s.overtime k = s.dropSpec k.g x.handle := by
  simp [State.overtime, h, hx, howner]

/-- A replay that is not STAGED and alone has its handle is cut and forgotten. -/
theorem State.dropSpec_of_running {g no : Nat} {x : Spec} (hx : s.specNo g no = some x) (hstaged : x.staged = false)
    (halone : ∀ y ∈ (s.ctx g).stash.specs, y.handle = x.handle → y = x) :
    s.dropSpec g x.handle = (s.cutReplay g (· == x.no)).forgetSpec g x.handle := by
  have hof : s.specOf g x.handle = some x := by
    cases hy : s.specOf g x.handle with
    | none => exact absurd (List.find?_eq_none.1 hy x (List.mem_of_find?_eq_some hx)) (by simp)
    | some y => rw [halone y (List.mem_of_find?_eq_some hy) (by simpa using List.find?_some hy)]
  rw [State.dropSpec, hof]
  simp [hstaged]

end

/-- What a watchdog leaves of the core, of the memories and of the contexts besides the work tile's own. -/
structure TileStopped (c g : Nat) (s t : State) : Prop where
  tile : (t.core c).tile = none
  others : OthersKept g s t
  memories : t.hbm = s.hbm ∧ t.host0 = s.host0 ∧ t.host1 = s.host1

section
variable {s : State} {c a : Nat} {k : TileRun} (hk : (s.core c).tile = some k) (ha : k.startAt = some a)
  (hover : 200000 < s.runTime c k a) (hactive : (s.ctx k.g).st = .active)
include hk ha hover hactive

theorem State.watchdog_faults (hreplay : k.replay = none) :
    TileStopped c k.g s (s.watchdog c) ∧ ((s.watchdog c).ctx k.g).st = .faulted ∧ ((s.watchdog c).ctx k.g).faultStatus = 0x19 ∧
      ((s.watchdog c).ctx k.g).faultAt = k.q * 2 ^ 61 + k.seq := by
  rw [State.watchdog_of_over hk ha hover hactive, State.overtime_of_descriptor hreplay]
  have hstop := s.tilesLeft_stopTile c k
  have hfault := (s.stopTile c k).jobFault_faults k.g k.q k.seq 0x19 0 (hstop.st.trans hactive)
  refine ⟨⟨?_, fun j hj => (hfault.others j hj).trans (hstop.others j hj), ?_⟩, hfault.st, hfault.cause, hfault.place⟩
  · exact (State.noNewTiles_jobFault _ _ _ _ _ _).none_of_none (s.tile_stopTile c k)
  · rw [hfault.frame]
    exact hstop.memories

theorem State.watchdog_discards {no : Nat} {x : Spec} (hreplay : k.replay = some no) (hx : s.specNo k.g no = some x)
    (howner : x.owner = none) (hstaged : x.staged = false)
    (halone : ∀ y ∈ (s.ctx k.g).stash.specs, y.handle = x.handle → y = x) :
    TileStopped c k.g s (s.watchdog c) ∧ ((s.watchdog c).ctx k.g).st = .active ∧
      ((s.watchdog c).ctx k.g).stash.specs = (s.ctx k.g).stash.specs.filter (fun y => y.handle != x.handle) := by
  have hstop := s.tilesLeft_stopTile c k
  have hx' : (s.stopTile c k).specNo k.g no = some x := by rwa [State.specNo, hstop.stash]
  rw [State.watchdog_of_over hk ha hover hactive, State.overtime_of_speculative hreplay hx' howner,
    State.dropSpec_of_running hx' hstaged (by rwa [hstop.stash])]
  have hcut := hstop.trans ((s.stopTile c k).tilesLeft_cutReplay k.g (· == x.no))
  have hforget := State.ctx_modCtx_same ((s.stopTile c k).cutReplay k.g (· == x.no)) k.g
    fun c => { c with stash := { c.stash with specs := c.stash.specs.filter (·.handle != x.handle) } }
  refine ⟨⟨?_, fun j hj => ?_, hcut.memories⟩, ?_, ?_⟩
  · exact (State.tilesLeft_cutReplay _ _ _).tiles.none_of_none (s.tile_stopTile c k)
  · exact (State.ctx_modCtx_ne _ _ _ _ hj).trans (hcut.others j hj)
  · exact (congrArg Ctx.st hforget).trans (hcut.st.trans hactive)
  · exact (congrArg (·.stash.specs) hforget).trans (by rw [hcut.stash])

end

/-! ### Halo waits (R210, R47) -/

section
variable {s : State} {g q seq : Nat} {r : Run} (hrun : s.run g q seq = some r) (hwait : r.waitDone = true)
  (hgoing : r.aborting = false) (hactive : (s.ctx g).st = .active)

theorem State.haloLate_iff (d blk : Bytes) (n a : Nat) :
    s.haloLate g q d blk n a = true ↔ s.haloMet g d blk n = false ∧ a + recWaitLimit (s.forceRec g q) * 1000000 ≤ s.ctxTime g := by
  simp [State.haloLate]

include hrun hwait hgoing hactive

theorem State.haloTimeout_of_own {n a : Nat} (hnext : r.next = some n) (hat : r.haloAt = some a) (hown : s.replayFor g q seq = none) :
    s.haloTimeout g q seq = if s.haloLate g q r.raw r.block n a then s.jobFault g q seq 0x18 0 else s := by
  simp [State.haloTimeout, hrun, hwait, hgoing, hactive, hnext, hat, hown, stWaitTimeout]

theorem State.haloTimeout_of_replay {x : Spec} {n : Nat} {d : Bytes} {out : Option (Nat × Nat)} (hfor : s.replayFor g q seq = some x)
    (hnext : x.next = some n) (hstep : x.step = some (d, out)) :
    s.haloTimeout g q seq = if s.haloLate g q d x.block n x.haloAt then s.replayFail g x { status := 0x18 } else s := by
  simp [State.haloTimeout, State.haloReplay, hrun, hwait, hgoing, hactive, hnext, hstep, hfor, stWaitTimeout]

end

/-- Settles O21: the watchdog by what the work tile is of, the halo wait by whether it is late. -/
theorem workTileLimits : Obligations.WorkTileLimits := by
  refine ⟨fun s c k a hk ha => ⟨fun hover hactive hreplay => ?fault, fun no x hover hactive hreplay hx howner hstaged halone => ?discard,
    fun h => congrArg Host.Outcome.next (State.watchdog_of_within hk ha h)⟩,
    fun s g q seq r n a hrun hnext hat hwait hgoing hactive hown => ?own,
    fun s g q seq r x n d out hrun hwait hgoing hactive hfor hnext hstep => ?replay⟩
  case fault =>
    obtain ⟨⟨htile, hothers, hmem⟩, hst, hcause, hplace⟩ := State.watchdog_faults hk ha hover hactive hreplay
    exact ⟨_, rfl, htile, hst, hcause, hplace, hothers, hmem⟩
  case discard =>
    obtain ⟨⟨htile, hothers, hmem⟩, hst, hspecs⟩ := State.watchdog_discards hk ha hover hactive hreplay hx howner hstaged halone
    exact ⟨_, rfl, htile, hst, hspecs, hothers, hmem⟩
  case own =>
    have heq := State.haloTimeout_of_own hrun hwait hgoing hactive hnext hat hown
    have hlate := State.haloLate_iff (s := s) (g := g) (q := q) r.raw r.block n a
    refine ⟨fun hmet hlimit => congrArg Host.Outcome.next (heq.trans (if_pos (hlate.2 ⟨hmet, hlimit⟩))),
      fun h => congrArg Host.Outcome.next (heq.trans (if_neg fun hl => ?_))⟩
    obtain ⟨hmet, hlimit⟩ := hlate.1 hl
    exact h.elim (fun hok => Bool.false_ne_true (hmet.symm.trans hok)) fun hlt => absurd hlimit (Nat.not_le.2 hlt)
  case replay =>
    have heq := State.haloTimeout_of_replay hrun hwait hgoing hactive hfor hnext hstep
    have hlate := State.haloLate_iff (s := s) (g := g) (q := q) d x.block n x.haloAt
    exact ⟨fun h => congrArg Host.Outcome.next (heq.trans (if_pos (hlate.2 h))),
      fun h => congrArg Host.Outcome.next (heq.trans (if_neg (mt hlate.1 h)))⟩

end Sys2Proof.Machine
end

section
/-! What the module holds before its first power-good (R32, R281, R324, R330, R349, R392), and the lives of contexts (R332). -/
namespace Sys2Proof.Machine

/-- Settles O3: no unit is listed, so each reads its reset value. -/
theorem resetLeaves : Obligations.ResetLeaves :=
  ⟨rfl, rfl, rfl, rfl, rfl, rfl, by decide, fun _ => rfl, fun _ => rfl, fun _ _ => rfl, fun _ => rfl, fun _ => rfl, fun _ _ => rfl⟩

/-! ### A context in TEARDOWN whose work a core beyond the module's 144 is listed to hold -/

/-- A work tile of context 0. -/
def strayTile : TileRun := { g := 0, q := 0, seq := 1, idx := 0, base := 0, cost := 0, mhz := 1000, askedAt := 0, takenAt := 0 }

/-- The module serves, context 0 is in TEARDOWN, and the only core listed is number 144, with a work tile of the context: no core of
the module, whose cores are 0 to 143 (R12), but an entry that a statement over all states and their lists admits. -/
def strayCore : State :=
  { State.reset with pwr := { phase := .serving }, ctxs := [(0, { st := .teardown })], cores := [(144, { tile := some strayTile })] }

/-- No core of the module holds work of the context, so that its teardown completes. -/
theorem State.teardownDone_strayCore : ((strayCore.teardownDone 0).ctx 0).st = .free := by decide +kernel

/-- A teardown waits for every core of the module that holds work of the context. -/
theorem State.teardownDone_of_held (s : State) {c : Nat} {k : TileRun} (hc : c < 144) (hk : (s.core c).tile = some k) :
    s.teardownDone k.g = s := by
  have hmem : c ∈ s.coresWith fun t => t.g == k.g := by simp [State.coresWith, hk, hc]
  rw [State.teardownDone, if_neg]
  simp [List.ne_nil_of_mem hmem]

/-- Refutes O52 in one clause, that TEARDOWN_COMPLETE does nothing while an entry of the list of cores holds the context's work: it
says so of every listed entry, and the model asks the module's own cores, for which teardownDone_of_held has it. In strayCore the
entry is core 144, and context 0 becomes FREE. -/
theorem not_lifecycles : ¬ Obligations.Lifecycles := by
  intro h
  obtain ⟨-, hctx⟩ := h strayCore rfl
  obtain ⟨-, -, -, -, -, -, hheld, -⟩ := hctx 0 (by decide +kernel)
  have hkept : exec (.teardownComplete 0) strayCore = .next strayCore :=
    hheld (144, { tile := some strayTile }) strayTile rfl (List.mem_singleton.2 rfl) rfl rfl
  have hsame : strayCore.teardownDone 0 = strayCore := Host.Outcome.next.inj hkept
  have hfree := State.teardownDone_strayCore
  rw [hsame] at hfree
  exact absurd hfree (by decide)

end Sys2Proof.Machine
end

section
/-! Steps of the block: what a step runs, a nanosecond with nothing waiting, that every step completes, and the fused security version
number (R375, R376, R392, R399). -/
namespace Sys2Proof.Machine

/-- Settles O5: every command keeps the fused SVN or raises it to at most 64, and a nanosecond that passes keeps it, also where a reset
begins in it. -/
theorem svnNeverFalls : Obligations.SvnNeverFalls := by
  intro s t hle h
  rw [step] at h
  split at h
  next =>
    obtain ⟨-, -, hrises, hbound⟩ := kept_of_next_fixed (idle_fixed s) h
    exact ⟨hrises, hbound hle⟩
  next c rest _ =>
    obtain ⟨-, -, hrises, hbound⟩ := exec_kept { s with pending := rest } t c h
    exact ⟨hrises, hbound hle⟩

/-- Settles O1. -/
theorem stepRunsFront : Obligations.StepRunsFront := fun _ _ _ => rfl

/-- Every row of the table is carried out: its arm answers the state its operation leaves. -/
theorem exec_completes (i : Instr) (s : State) : Completes i s := by
  cases i <;> exact ⟨_, rfl⟩

theorem step_completes (s : State) : StepCompletes s := by
  rw [StepCompletes, step]
  split
  · exact ⟨_, rfl⟩
  · exact exec_completes _ _

theorem runsTo_completes (n : Nat) (s : State) : ∃ t, runsTo n s = some t := by
  induction n generalizing s with
  | zero => exact ⟨s, rfl⟩
  | succ n ih =>
    obtain ⟨t, ht⟩ := step_completes s
    simpa [runsTo, ht] using ih t

/-- Settles O7. -/
theorem everyCommandCompletes : Obligations.EveryCommandCompletes := ⟨exec_completes, step_completes, runsTo_completes⟩

section
variable {s : State}

theorem State.tick_of_good (h : s.pwr.good = true) : s.tick = { s with pwr := { s.pwr with time := s.pwr.time + 1 } } := if_pos h

theorem State.tick_of_off (h : s.pwr.good = false) : s.tick = s := if_neg (by simp [h])

theorem idle_of_unarmed (h : s.tick.pwr.resetAt = none) : idle s = s.tick := by
  rw [idle]
  simp only [h]

theorem idle_of_armed {t : Nat} (h : s.tick.pwr.resetAt = some t) : idle s = if t ≤ s.tick.now then s.tick.resetNow else s.tick := by
  rw [idle]
  simp only [h]

end

/-- Settles O2: the module time of the tick says whether an armed reset has come due. -/
theorem idleStep : Obligations.IdleStep := by
  intro s hpending
  have hstep : step s = .next (idle s) := by rw [step, hpending]
  have htick (hgood : s.pwr.good = true) := State.tick_of_good hgood
  have hrest (hgood : s.pwr.good = true) : s.tick.pwr.resetAt = s.pwr.resetAt := by rw [htick hgood]
  have hnow (hgood : s.pwr.good = true) : s.tick.now = s.pwr.time + 1 := by rw [htick hgood]; rfl
  refine ⟨fun hoff hnone => ?off, fun hgood hnone => ?unarmed, fun t hgood harmed hearly => ?early, fun t hgood harmed hdue => ?due⟩
  case off =>
    have hstay := State.tick_of_off hoff
    rw [hstep, idle_of_unarmed (by rwa [hstay]), hstay]
  case unarmed => rw [hstep, idle_of_unarmed ((hrest hgood).trans hnone), htick hgood]
  case early =>
    rw [hstep, idle_of_armed ((hrest hgood).trans harmed), if_neg (by rw [hnow hgood]; omega), htick hgood]
  case due =>
    refine ⟨_, hstep, ?_⟩
    rw [idle_of_armed ((hrest hgood).trans harmed), if_pos (by rwa [hnow hgood])]
    exact ⟨rfl, rfl, hnow hgood, rfl, rfl, rfl, rfl, rfl⟩

end Sys2Proof.Machine
end

section
/-! The data rows: what a work tile carried out leaves, and which one a row carries out (R97 to R258). -/
namespace Sys2Proof.Machine

section
variable {s : State} {g q seq t : Nat} {r : Run}

/-- What a data row finds to do is a work tile due on a core. -/
theorem State.onCore_of_gate {kind : Run → Bool} (h : s.gate g q seq kind = some (r, t)) : OnCore g q seq s r t := by
  rw [State.gate] at h
  split at h
  next x hrun =>
    split at h
    next hmay =>
      obtain ⟨k, htile, heq⟩ := Option.map_eq_some_iff.1 h
      obtain ⟨rfl, rfl⟩ := Prod.mk.inj heq
      simp only [State.working, Bool.and_eq_true, bne_iff_ne, Bool.not_eq_true'] at hmay
      exact ⟨hrun, hmay.1.1, hmay.1.2, htile⟩
    next => exact absurd h (by simp)
  next => exact absurd h (by simp)

theorem State.gate_of_not_onCore (h : ¬ ∃ r t, OnCore g q seq s r t) (kind : Run → Bool) : s.gate g q seq kind = none :=
  Option.eq_none_iff_forall_ne_some.2 fun x hx => h ⟨x.1, x.2, State.onCore_of_gate hx⟩

theorem State.carry_eq_worked (s : State) (g q seq t : Nat) (w : Work) : s.carry g q seq t w = s.worked g q seq t w := by
  rw [State.carry, State.worked]
  split
  next u e _ => exact u.failTile_eq_tileFaults g q seq t e
  next u _ =>
    split
    · exact u.failTile_eq_tileFaults g q seq t { status := w.status, tile := w.tile }
    · rfl

end

/-- A command that is the data row of a kind carries that kind of work out and waits where no work tile is due. -/
theorem dataRow_of_exec {i : Nat → Nat → Nat → Instr} {kind : Run → Bool} {work : State → Nat → Nat → Nat → Run → Nat → Work}
    (h : ∀ s g q seq, exec (i g q seq) s = .next (s.dataRow g q seq kind (work s g q seq))) : DataRow i kind work := by
  refine ⟨fun s g q seq r t hcore => ⟨fun hkind => ?_, fun hkind => ?_⟩, fun s g q seq hnone => ?_⟩
  · rw [h, State.dataRow, State.gate_of_onCore hcore, if_pos hkind, ← State.carry_eq_worked]
  · rw [h, State.dataRow, State.gate_of_onCore hcore, if_neg (hkind ▸ Bool.false_ne_true)]
  · rw [h, State.dataRow, State.gate_of_not_onCore hnone]

/-- Settles O24: each of the 22 commands is the data row of its own kind. -/
theorem dataRows : Obligations.DataRows := by
  refine ⟨?_, ?_, ?_, ?_, ?_, ?_, ?_, ?_, ?_, ?_, ?_, ?_, ?_, ?_, ?_, ?_, ?_, ?_, ?_, ?_, ?_, ?_⟩ <;>
    exact dataRow_of_exec fun _ _ _ _ => rfl

end Sys2Proof.Machine
end

section
/-! The BAR0 page (R57, R387, R388). -/
namespace Sys2Proof.Machine

theorem State.modHif_congr (s : State) (h : Nat) {f k : HostIf → HostIf} (heq : f (s.hif h) = k (s.hif h)) :
    s.modHif h f = s.modHif h k := by
  rw [State.modHif, State.modHif, heq]

/-- What an interface does only while it is ready, by whether it is. -/
theorem State.modHif_ready (s : State) (h : Nat) (f : HostIf → HostIf) :
    (s.modHif h fun i => if i.ready then f i else i) = if (s.hif h).ready then s.modHif h f else s.modHif h id := by
  split
  next hr => exact s.modHif_congr h (if_pos hr)
  next hr => exact s.modHif_congr h (if_neg hr)

theorem HostIf.doorbell_answerBy (i : HostIf) (buf : Bytes) (a v : BitVec 32) :
    (i.answerBy a).doorbell buf v.toNat =
      (let len := v.toNat % 4096
       let j : HostIf := { i with ansInt := a.getLsbD 16, ansVec := a.toNat % 2048 }
       if i.busy then { j with overrun := true }
       else if 28 ≤ len ∧ len ≤ 2048 ∧ v.msb ≠ i.lastToggle then
         { j with reqBuf := sized 2048 buf, reqLen := len, lastToggle := v.msb, busy := true }
       else { j with reqBuf := sized 2048 buf }) := by
  have htoggle : v.toNat.testBit 31 = v.msb := rfl
  simp only [HostIf.doorbell, HostIf.answerBy, htoggle, Bool.and_eq_true, decide_eq_true_eq, bne_iff_ne, and_assoc]

/-- Settles O11: each of the four changes the interface while it is ready. -/
theorem bar0Page : Obligations.Bar0Page := by
  intro s h buf a v
  refine ⟨congrArg Host.Outcome.next ?_, congrArg Host.Outcome.next (s.modHif_ready h _), congrArg Host.Outcome.next (s.modHif_ready h _),
    congrArg Host.Outcome.next (s.modHif_ready h _)⟩
  simp only [HostIf.doorbell_answerBy]
  exact s.modHif_ready h _

end Sys2Proof.Machine
end

section
/-! The Doubler and SECURE_REQUEST (R351, R352). -/
namespace Sys2Proof.Machine

/-! ### SECURE_REQUEST (R352) -/

/-- What a request leaves of one context: the latch of one with a group. -/
def Ctx.requested (c : Ctx) : Ctx := if c.secure.hasGroup then { c with secure := { c.secure with latch := true } } else c

theorem State.ctx_secureRequest (s : State) (cause g : Nat) : (s.secureRequest cause).ctx g = (s.ctx g).requested :=
  mapGet_map_value ({} : Ctx) s.ctxs Ctx.requested rfl g

theorem Ctx.requested_of_no_group {c : Ctx} (h : c.secure.hasGroup = false) : c.requested = c := if_neg (by simp [h])

theorem Ctx.latch_requested (c : Ctx) : c.requested.secure.latch = (c.secure.hasGroup || c.secure.latch) := by
  rw [Ctx.requested]
  cases h : c.secure.hasGroup <;> simp

theorem Ctx.hasGroup_requested (c : Ctx) : c.requested.secure.hasGroup = c.secure.hasGroup := by
  rw [Ctx.requested]
  split <;> rfl

/-! ### RISK (R351) -/

/-- The Doubler after a qualifying event. -/
def State.doubled (s : State) : State :=
  { s with doubler := { s.doubler with risk := min 64 (2 * s.doubler.risk), events := satAdd 32 s.doubler.events 1, quietAt := s.now } }

theorem State.qualify_eq (s : State) :
    s.qualify = if s.cfg 0x5000 2 ≤ min 64 (2 * s.doubler.risk) then s.doubled.secureRequest 0 else s.doubled := rfl

theorem State.doubler_qualify (s : State) : s.qualify.doubler = s.doubled.doubler := by
  rw [State.qualify_eq]
  split <;> rfl

theorem State.quietExpiry_eq (s : State) :
    s.quietExpiry = if s.pwr.good = true ∧ s.doubler.quietAt + s.cfg 0x5000 3 * 60000000000 ≤ s.now then
      { s with doubler := { s.doubler with risk := max 1 (s.doubler.risk / 2), quietAt := s.now } } else s := by
  simp [State.quietExpiry]

/-- Settles O43: the Doubler of a qualifying event, its request at the threshold, and the quiet interval. -/
theorem riskDoubles : Obligations.RiskDoubles := by
  intro s
  have hdoubler := s.doubler_qualify
  refine ⟨s.risk_qualify, congrArg Doubler.quietAt hdoubler, congrArg Doubler.events hdoubler, ?two, fun hreached g => ?reached,
    fun hbelow => ?below, fun hgood hquiet => congrArg Host.Outcome.next (s.quietExpiry_eq.trans (if_pos ⟨hgood, hquiet⟩)),
    fun h => congrArg Host.Outcome.next (s.quietExpiry_eq.trans (if_neg fun ⟨hgood, hquiet⟩ => ?loud))⟩
  case two => rw [State.risk_qualify, State.risk_qualify]
  case reached => rw [State.qualify_eq, if_pos hreached, State.ctx_secureRequest, Ctx.latch_requested]; rfl
  case below => rw [State.qualify_eq, if_neg (Nat.not_le.2 hbelow)]; exact ⟨rfl, rfl⟩
  case loud => exact h.elim (fun hoff => absurd (hoff.symm.trans hgood) Bool.false_ne_true) fun hnot => hnot hquiet

/-! ### MAX_INTERVAL_MIN (R352) -/

/-- A context that notes that a request has been raised for its last commit. -/
def Ctx.noted (c : Ctx) : Ctx := { c with secure := { c.secure with maxRaised := true } }

/-- Every overdue context notes the request. -/
def State.noteOverdue (s : State) : State :=
  { s with ctxs := s.ctxs.map fun kv => (kv.1, if s.overdue kv.1 kv.2 then kv.2.noted else kv.2) }

theorem State.ctx_noteOverdue (s : State) (g : Nat) :
    s.noteOverdue.ctx g = if s.overdue g (s.ctx g) then (s.ctx g).noted else s.ctx g :=
  mapGet_map_keyed ({} : Ctx) s.ctxs (fun k c => if s.overdue k c then c.noted else c) g rfl

theorem State.overdue_iff (s : State) (g : Nat) (c : Ctx) :
    s.overdue g c = true ↔ c.secure.hasGroup = true ∧ c.secure.committedOnce = true ∧ c.secure.maxRaised = false ∧
      c.secure.commitNs + s.cfg 0x5000 4 * 60000000000 ≤ s.ctxTime g := by
  rw [State.overdue, Bool.and_eq_true, decide_eq_true_iff, Bool.and_eq_true, Bool.and_eq_true, Bool.not_eq_true', and_assoc, and_assoc]
  rfl

theorem State.maxExpiry_eq (s : State) :
    s.maxExpiry = if ∃ kv ∈ s.ctxs, s.overdue kv.1 kv.2 = true then s.noteOverdue.secureRequest 1 else s := by
  have hnote : (fun kv : Nat × Ctx => (kv.1, if s.overdue kv.1 kv.2 then kv.2.noted else kv.2)) =
      fun kv => if s.overdue kv.1 kv.2 then (kv.1, kv.2.noted) else kv := by
    funext kv
    split <;> rfl
  rw [State.noteOverdue, hnote]
  simp only [State.maxExpiry, List.any_eq_true]
  rfl

/-- Settles O44: the contexts that are overdue note the request, which is then raised as any other. -/
theorem secureRequests : Obligations.SecureRequests := by
  intro s
  simp only [← State.overdue_iff]
  refine ⟨fun hsome => ⟨s.noteOverdue, rfl, fun g hover => (s.ctx_noteOverdue g).trans (if_pos hover),
      fun g hnot => (s.ctx_noteOverdue g).trans (if_neg hnot), congrArg Host.Outcome.next (s.maxExpiry_eq.trans (if_pos hsome))⟩,
    fun hnone => congrArg Host.Outcome.next (s.maxExpiry_eq.trans (if_neg hnone)), fun cause => rfl, fun cause g => ?_⟩
  rw [State.ctx_secureRequest]
  exact ⟨Ctx.latch_requested _, Ctx.hasGroup_requested _, Ctx.requested_of_no_group⟩

end Sys2Proof.Machine
end

section
/-! Entries of the object dictionary: the checks of one write, and the commands that are each one write (R373, R374, R382, R394). -/
namespace Sys2Proof.Machine

theorem outOfScope_iff (who : Who) (grp : Grp) (i : Nat) :
    outOfScope who grp i = true ↔ who.role = .tenant ∧ ∃ p, scopeOf grp i = some p ∧ p ≠ who.part := by
  rw [outOfScope]
  split
  next p hp => simp [hp]
  next hp => simp [hp]

theorem mayWrite_iff (role : Role) (wr : Writers) :
    mayWrite role wr = true ↔ role = .owner ∨ (role = .operator ∧ wr ≠ .owner) ∨ (role = .tenant ∧ wr = .tenants) := by
  cases role <;> cases wr <;> decide

section
variable {s : State} {who : Who} {index sub : Nat} {data : Bytes}

theorem State.locate_high (h : 0xF000 ≤ index) : s.locate index sub = .error (if s.sec.lock then 0x02 else 0x12) := if_pos h

theorem State.locate_none (h : index < 0xF000) (hg : groupOf s.shape index = none) : s.locate index sub = .error 0x02 := by
  rw [State.locate, if_neg (Nat.not_le.2 h), hg]
  rfl

theorem State.locate_no_sub (h : index < 0xF000) {x : Grp × Nat} (hg : groupOf s.shape index = some x) (he : entryOf x.1 sub = none) :
    s.locate index sub = .error 0x03 := by
  rw [State.locate, if_neg (Nat.not_le.2 h), hg]
  simp only [he]
  rfl

theorem State.locate_some (h : index < 0xF000) {x : Grp × Nat} (hg : groupOf s.shape index = some x) {e : Entry}
    (he : entryOf x.1 sub = some e) : s.locate index sub = .ok ⟨x.1, x.2, e⟩ := by
  rw [State.locate, if_neg (Nat.not_le.2 h), hg]
  simp only [he]

/-- What no check finds is refused where it is found. -/
theorem State.writeEntry_of_unlocated {a : Nat} (h : s.locate index sub = .error a) (sid : BitVec 32) (fm : Bool) :
    s.writeEntry who sid fm index sub data = (a, s) := by
  rw [State.writeEntry, State.writeTarget, State.writePerm, h]

/-- A write of a role outside every session, once its entry is found. -/
theorem State.writeEntry_of_located {t : Target} (h : s.locate index sub = .ok t) (hserving : s.pwr.phase = .serving) :
    s.writeEntry who 0 false index sub data =
      if t.entry.acc = .const ∨ t.entry.acc = .ro then (0x05, s)
      else if who.role = .tenant ∧ ∃ p, scopeOf t.grp t.inst = some p ∧ p ≠ who.part then (0x07, s)
      else if ¬ (who.role = .owner ∨ (who.role = .operator ∧ t.entry.wr ≠ .owner) ∨ (who.role = .tenant ∧ t.entry.wr = .tenants)) then
        (0x06, s)
      else if s.lengthOk t data.length = false then (0x08, s)
      else if ranged t.entry.typ = true ∧ t.entry.hi < leNat data then (0x09, s)
      else if ranged t.entry.typ = true ∧ leNat data < t.entry.lo then (0x0A, s)
      else s.applyWrite who 0 t index sub data := by
  have hclaim : s.mayClaim who 0#32 t.grp sub = false := by simp [State.mayClaim]
  have hserved : s.notServed t sub = false := by simp [State.notServed, hserving]
  simp only [← outOfScope_iff, ← mayWrite_iff]
  rw [State.writeEntry, State.writeTarget, State.writePerm, h]
  by_cases hacc : t.entry.acc = .const ∨ t.entry.acc = .ro
  · simp [hacc, abNotWritable]
  by_cases hscope : outOfScope who t.grp t.inst = true
  · simp [hacc, hscope, abScope]
  by_cases hrole : mayWrite who.role t.entry.wr = true
  · cases hlen : s.lengthOk t data.length
    · simp [hacc, hscope, hrole, hlen, abLength]
    · by_cases hranged : ranged t.entry.typ = true
      · by_cases hhi : t.entry.hi < leNat data
        · simp [hacc, hscope, hrole, hlen, rangeAbort, hranged, hhi, abAboveRange]
        · by_cases hlo : leNat data < t.entry.lo <;>
            simp [hacc, hscope, hrole, hlen, rangeAbort, hranged, hhi, hlo, hserved, abBelowRange]
      · simp [hacc, hscope, hrole, hlen, rangeAbort, hranged, hserved]
  · simp [hacc, hscope, hrole, hclaim, fmMay, abRole]

/-- An access to 0xF000 and above, by the debug lock. -/
theorem State.writeBy_of_unlocated {a : Nat} (h : s.locate index sub = .error a) (hserving : s.serving = true) :
    s.writeBy who index sub data = { s with lastAbort := a } := by
  rw [State.writeBy, if_pos hserving, State.writeEntry_of_unlocated h]
  rfl

theorem State.writeBy_of_silent (h : s.serving = false) : s.writeBy who index sub data = s := if_neg (by simp [h])

theorem State.serving_of_phase (h : s.pwr.phase = .serving) : s.serving = true := by simp [State.serving, h]

end

/-- Settles O50: a command that names an entry is its write, and a write fails at the first check of R382 that it does not pass. -/
theorem entryCommands : Obligations.EntryCommands := by
  intro s who n
  refine ⟨⟨rfl, rfl, rfl, rfl, rfl, rfl, rfl⟩,
    ⟨fun _ _ => rfl, fun _ => rfl, fun _ => rfl, fun _ => rfl, fun _ => rfl, fun _ => rfl, fun _ => rfl, fun _ => rfl⟩,
    ⟨fun _ => rfl, fun _ => rfl, fun _ => rfl, fun _ => rfl, rfl, rfl, rfl, fun _ _ => rfl⟩,
    fun index sub data hhigh hserving => ?high, fun index sub data hlow hphase => ?low,
    fun index sub data hsilent => congrArg Host.Outcome.next (State.writeBy_of_silent hsilent)⟩
  case high => exact congrArg Host.Outcome.next (State.writeBy_of_unlocated (State.locate_high hhigh) hserving)
  case low =>
    have hserving := State.serving_of_phase hphase
    refine congrArg Host.Outcome.next ?_
    dsimp only
    split
    next hg => exact State.writeBy_of_unlocated (State.locate_none hlow hg) hserving
    next x hg =>
      split
      next he => exact State.writeBy_of_unlocated (State.locate_no_sub hlow hg he) hserving
      next e he =>
        rw [State.writeBy, if_pos hserving, State.writeEntry_of_located (State.locate_some hlow hg he) hphase]
        simp only [apply_ite State.latch]
        rfl

end Sys2Proof.Machine
end

section
/-! The SPDM messages that MD answers: negotiation, certificates and measurements, key exchange, and the sessions it opens and ends (R398 to
R403, R405). -/
namespace Sys2Proof.Machine

/-! ### Answers and carriers (R401, R402) -/

section
variable {s : State} {c : Conn} {id : BitVec 32}

theorem State.spdmSend_host {m : SpdmOut} {h : Nat} (hc : m.carrier = (none, .dict (.host h))) :
    s.spdmSend m = { s with sec := { s.sec with out := s.sec.out ++ [m] } } := by
  rw [State.spdmSend, hc]
  rfl

theorem State.spdmSend_field {m : SpdmOut} {a sport dport : Nat} (hc : m.carrier = (none, .dict (.field a sport dport))) :
    s.spdmSend m = { s with sec := { s.sec with out := s.sec.out ++ [m] }
                            answers := s.answers ++ [(.field a sport dport, mctpWrap (mctpOf m))] } := by
  rw [State.spdmSend, hc]
  rfl

theorem State.spdmOn_of_up (h : s.connUp c = true) (f : State → State) : s.spdmOn c f = f s := if_pos h

theorem State.spdmOn_of_down (h : s.connUp c = false) (f : State → State) : s.spdmOn c f = s := if_neg (by simp [h])

/-- What needs agreed algorithms, by whether they are. -/
theorem State.spdmAgreed_of_up (h : s.connUp c = true) (f : State → State) :
    s.spdmAgreed c f = if connChannel c ∈ s.sec.negotiated then f s else s.spdmSend (.error c 0x04) := by
  rw [State.spdmAgreed, State.spdmOn_of_up h]
  simp only [List.contains_iff_mem]
  rfl

theorem State.spdmAgreed_send (h : s.connUp c = true) {f : State → State} {m : SpdmOut} (hf : f s = s.spdmSend m) :
    s.spdmAgreed c f = s.spdmSend (if connChannel c ∈ s.sec.negotiated then m else .error c 0x04) := by
  rw [State.spdmAgreed_of_up h, hf, apply_ite s.spdmSend]

theorem State.spdmAgreed_of_down (h : s.connUp c = false) (f : State → State) : s.spdmAgreed c f = s := State.spdmOn_of_down h _

/-- A message of a session that is listed, by whether it is open. -/
theorem State.spdmIn_of_session {x : Session} (h : s.connUp c = true) (hx : s.sessionOn c id = some x) (f : State → State) :
    s.spdmIn c id f = if x.isOpen then f s else s.spdmSend (.error c 0x02) := by
  rw [State.spdmIn, State.spdmOn_of_up h]
  simp only [hx]
  rfl

theorem State.modSession_eq (f : Session → Session) :
    s.modSession c id f = { s with sec := { s.sec with
      sessions := s.sec.sessions.map fun y => if y.conn = connChannel c ∧ y.id = id then f y else y } } := by
  simp only [State.modSession, modWhere, Bool.and_eq_true, beq_iff_eq]
  rfl

/-! ### Negotiation and measurements (R398, R401) -/

theorem State.negotiate_of_up (h : s.connUp c = true) (l : List Nat) :
    s.negotiate c l =
      if 1 ∈ l ∧ 2 ∈ l ∧ 3 ∈ l ∧ 4 ∈ l then
        State.spdmSend { s with sec := { s.sec with negotiated := s.sec.negotiated.filter (· != connChannel c) ++ [connChannel c] } }
          (.algorithms c)
      else s.spdmSend (.error c 0x01) := by
  rw [State.negotiate, State.spdmOn_of_up h]
  simp only [List.all_cons, List.all_nil, List.contains_iff_mem, Bool.and_eq_true, and_true]
  rfl

theorem State.blocks_one {i : Nat} (h1 : 1 ≤ i) (h7 : i ≤ 7) : s.blocks i = [(i, s.measure i)] := by
  rw [State.blocks, if_neg (by omega), if_neg (by omega)]

theorem State.getMeasurements_one (h : s.connUp c = true) {i : Nat} (h1 : 1 ≤ i) (h7 : i ≤ 7) (n : BitVec 256) :
    s.getMeasurements c i n = s.spdmSend (if connChannel c ∈ s.sec.negotiated then
      .measurements c [(i, s.measure i)] (s.sign (leBytes 32 n.toNat ++ s.measure i)) else .error c 0x04) := by
  refine State.spdmAgreed_send h ?_
  rw [if_neg (by omega), State.blocks_one h1 h7]
  simp

theorem State.getMeasurements_beyond (h : s.connUp c = true) {i : Nat} (h7 : 7 < i) (hall : i ≠ 0xFF) (n : BitVec 256) :
    s.getMeasurements c i n = s.spdmSend (if connChannel c ∈ s.sec.negotiated then .error c 0x01 else .error c 0x04) :=
  State.spdmAgreed_send h (if_pos ⟨h7, hall⟩)

/-! ### Key exchange (R401) -/

/-- A session ID that KEY_EXCHANGE may take. -/
def State.FreshId (s : State) (id : BitVec 32) : Prop := id ≠ 0 ∧ id.toNat ≠ 0xFFFFFFFF ∧ ∀ x ∈ s.sec.sessions, x.id ≠ id

theorem State.freshId_iff :
    ¬ s.FreshId id ↔ id = 0 ∨ id.toNat = spdmSession ∨ (s.sec.sessions.any (·.id == id)) = true := by
  simp only [State.FreshId, not_and_or, not_not, not_forall, List.any_eq_true, beq_iff_eq, exists_prop, spdmSession]

section
variable {key tx : BitVec 256} (h : s.connUp c = true)
include h

theorem State.keyExchange_of_used (hid : ¬ s.FreshId id) :
    s.keyExchange c id key tx = s.spdmSend (if connChannel c ∈ s.sec.negotiated then .error c 0x01 else .error c 0x04) :=
  State.spdmAgreed_send h (if_pos (State.freshId_iff.1 hid))

theorem State.keyExchange_of_full (hid : s.FreshId id) (hfull : s.sessionsFull c = true) :
    s.keyExchange c id key tx = s.spdmSend (if connChannel c ∈ s.sec.negotiated then .error c 0x0A else .error c 0x04) :=
  State.spdmAgreed_send h ((if_neg fun hu => State.freshId_iff.2 hu hid).trans (if_pos hfull))

variable (hid : s.FreshId id) (hroom : s.sessionsFull c = false)
include hid hroom

theorem State.keyExchange_of_no_random (hrng : s.sec.rngOk = false) :
    s.keyExchange c id key tx = s.spdmSend (if connChannel c ∈ s.sec.negotiated then .error c 0x05 else .error c 0x04) :=
  State.spdmAgreed_send h
    (((if_neg fun hu => State.freshId_iff.2 hu hid).trans (if_neg (by simp [hroom]))).trans (if_pos (by simp [hrng])))

theorem State.keyExchange_of_fresh (hrng : s.sec.rngOk = true) (hagreed : connChannel c ∈ s.sec.negotiated) :
    s.keyExchange c id key tx =
      State.spdmSend { s with sec := { s.sec with sessions := s.sec.sessions ++
          [{ id := id, conn := connChannel c, key := key, txKey := tx, lastAt := s.now }] } }
        (.keyExchangeRsp c id (s.sign (sessionMessage id key tx))) := by
  rw [State.keyExchange, State.spdmAgreed_of_up h, if_pos hagreed, if_neg fun hu => State.freshId_iff.2 hu hid,
    if_neg (by simp [hroom]), if_neg (by simp [hrng])]
  rfl

end

/-! ### Messages of a session -/

section
variable {x : Session} (h : s.connUp c = true) (hx : s.sessionOn c id = some x)
include h hx

theorem State.encapsulated_of_session (ch : CertChain) :
    s.encapsulated c id ch =
      if x.isOpen then s.spdmSend (.error c 0x04)
      else (s.modSession c id fun y => { y with chain := some ch, root := ch.root }).spdmSend (.encapsulatedAck c id) := by
  rw [State.encapsulated, State.spdmOn_of_up h]
  simp only [hx]
  rfl

theorem State.keyUpdate_of_dict {d : Source} (hc : c = .dict d) (key tx : BitVec 256) :
    s.keyUpdate c id key tx =
      if x.isOpen then
        if s.sec.rngOk then (s.modSession c id fun y => { y with key := key, txKey := tx, lastAt := s.now }).spdmSend (.keyUpdateAck c id)
        else s.spdmSend (.error c 0x05)
      else s.spdmSend (.error c 0x02) := by
  subst hc
  rw [State.keyUpdate, State.spdmIn_of_session h hx]
  cases s.sec.rngOk <;> rfl

theorem State.keyUpdate_of_port {p : Nat} (hc : c = .port p) (hopen : x.isOpen = true) (hrng : s.sec.rngOk = true) (key tx : BitVec 256) :
    s.keyUpdate c id key tx =
      (s.modPort p fun y => if y.live then { y with rxNext := some key } else y).spdmSend (.keyUpdateAck c id) := by
  subst hc
  rw [State.keyUpdate, State.spdmIn_of_session h hx, if_pos hopen]
  simp [hrng]

end

/-! ### The end of a handshake -/

section
variable {x : Session} (hclosed : x.isOpen = false) {ch : CertChain} (hchain : x.chain = some ch) (sig : Bytes)
include hclosed hchain

/-- A dictionary session whose handshake ends opens, or ends with its error. -/
theorem State.spdmFinish_of_dict {d : Source} (h : s.connUp (.dict d) = true) (hx : s.sessionOn (.dict d) id = some x) :
    s.spdmFinish (.dict d) id sig =
      if Config.chainVerify ch.bytes (sessionMessage id x.key x.txKey) sig then s.opened (.dict d) id x
      else (s.endSessions fun y => y.conn == connChannel (.dict d) && y.id == id).spdmSend (.error (.dict d) 0x06) := by
  rw [State.spdmFinish, State.spdmOn_of_up h]
  simp only [hx, hclosed, hchain]
  rfl

/-- A port's session that fails takes the port DOWN. -/
theorem State.spdmFinish_of_port {p : Nat} (h : s.connUp (.port p) = true) (hx : s.sessionOn (.port p) id = some x) :
    s.spdmFinish (.port p) id sig =
      if Config.chainVerify ch.bytes (sessionMessage id x.key x.txKey) sig then s.opened (.port p) id x
      else ((s.endSessions fun y => y.conn == connChannel (.port p) && y.id == id).spdmSend (.error (.port p) 0x06)).dropPort p .down := by
  rw [State.spdmFinish, State.spdmOn_of_up h]
  simp only [hx, hclosed, hchain]
  rfl

end

/-! ### The end of a session after 600 s -/

theorem Session.isDict_iff (x : Session) : x.isDict = true ↔ x.requester = false ∧ ∃ d, x.conn = .dict d := by
  rw [Session.isDict]
  split
  next d hd => simp [hd]
  next p hp => simp [hp]

theorem State.mem_sessions_endSessions (p : Session → Bool) (x : Session) :
    x ∈ (s.endSessions p).sec.sessions ↔ x ∈ s.sec.sessions ∧ ¬ p x = true := by
  simp [State.endSessions, State.modSec]

theorem State.endSessions_frame (p : Session → Bool) :
    s.endSessions p = { s with sec := (s.endSessions p).sec, chans := (s.endSessions p).chans } := rfl

end

/-- Settles O54: each message by whether its carrier reaches MD, whether the algorithms are agreed, and whether its session is open. -/
theorem spdmMessages : Obligations.SpdmMessages := by
  intro s c
  refine ⟨fun m h => State.spdmSend_host, fun m a sport dport => State.spdmSend_field, fun hup => ⟨?version, ?capabilities, fun l => ?algorithms,
    ?digests, fun off n => ?certificate, fun n => ?challenge, fun i n h1 h7 => ?one, fun i n h7 hall => ?beyond, fun id key tx => ?exchange,
    fun id x hx => ⟨fun ch => ?encapsulated, fun sig ch d hclosed hchain hc => ?finishDict, fun sig ch p hclosed hchain hc => ?finishPort,
      fun d key tx hc => ?updateDict, fun p key tx hc hopen hrng => ?updatePort, ?heartbeat, ?ends⟩⟩, fun hdown => ?down, fun id => ?late⟩
  case version => exact congrArg Host.Outcome.next (State.spdmOn_of_up hup _)
  case capabilities => exact congrArg Host.Outcome.next (State.spdmOn_of_up hup _)
  case algorithms => exact congrArg Host.Outcome.next (State.negotiate_of_up hup l)
  case digests => exact congrArg Host.Outcome.next (State.spdmAgreed_send hup rfl)
  case certificate => exact congrArg Host.Outcome.next (State.spdmAgreed_send hup rfl)
  case challenge => exact congrArg Host.Outcome.next (State.spdmAgreed_send hup rfl)
  case one => exact congrArg Host.Outcome.next (State.getMeasurements_one hup h1 h7 n)
  case beyond => exact congrArg Host.Outcome.next (State.getMeasurements_beyond hup h7 hall n)
  case exchange =>
    exact ⟨fun hid => congrArg Host.Outcome.next (State.keyExchange_of_used hup hid),
      fun hid hfull => congrArg Host.Outcome.next (State.keyExchange_of_full hup hid hfull),
      fun hid hroom hrng => congrArg Host.Outcome.next (State.keyExchange_of_no_random hup hid hroom hrng),
      fun hid hroom hrng hagreed => congrArg Host.Outcome.next (State.keyExchange_of_fresh hup hid hroom hrng hagreed)⟩
  case encapsulated =>
    simp only [← State.modSession_eq]
    exact congrArg Host.Outcome.next (State.encapsulated_of_session hup hx ch)
  case finishDict =>
    simp only [← State.modSession_eq]
    subst hc
    exact congrArg Host.Outcome.next (State.spdmFinish_of_dict hclosed hchain sig hup hx)
  case finishPort =>
    simp only [← State.modSession_eq]
    subst hc
    exact congrArg Host.Outcome.next (State.spdmFinish_of_port hclosed hchain sig hup hx)
  case updateDict =>
    simp only [← State.modSession_eq]
    exact congrArg Host.Outcome.next (State.keyUpdate_of_dict hup hx hc key tx)
  case updatePort => exact congrArg Host.Outcome.next (State.keyUpdate_of_port hup hx hc hopen hrng key tx)
  case heartbeat =>
    simp only [← State.modSession_eq]
    exact congrArg Host.Outcome.next (State.spdmIn_of_session hup hx _)
  case ends => exact congrArg Host.Outcome.next (State.spdmIn_of_session hup hx _)
  case down =>
    have hon (f : State → State) : (.next (s.spdmOn c f) : Host.Outcome State Fault Refusal) = .next s := by
      rw [State.spdmOn_of_down hdown]
    have hagreed (f : State → State) : (.next (s.spdmAgreed c f) : Host.Outcome State Fault Refusal) = .next s := hon _
    have hin (id : BitVec 32) (f : State → State) : (.next (s.spdmIn c id f) : Host.Outcome State Fault Refusal) = .next s := hon _
    exact ⟨hon _, hon _, fun _ => hon _, hagreed _, fun _ _ => hagreed _, fun _ _ _ => hagreed _, fun _ _ => hon _, fun _ => hin _ _⟩
  case late =>
    refine ⟨_, rfl, State.endSessions_frame _, fun x => (State.mem_sessions_endSessions _ x).trans (and_congr_right fun _ => not_congr ?_)⟩
    simp only [Bool.and_eq_true, beq_iff_eq, decide_eq_true_eq, Session.isDict_iff, and_assoc]

end Sys2Proof.Machine
end

section
/-! DEBUG_NONCE, DEBUG_TOKEN and OWNER_ANCHOR in a session: partitions destroyed together, ports dropped together, claim and release
(R403, R404, R407 to R409). -/
namespace Sys2Proof.Machine

/-! ### Partitions destroyed together (R408) -/

section
variable (s : State)

theorem State.parts_foldl {α : Type} {f : State → α → State} (h : ∀ s a, (f s a).parts = s.parts) (l : List α) (s : State) :
    (l.foldl f s).parts = s.parts :=
  List.foldlRecOn l f (motive := fun t => t.parts = s.parts) rfl fun t ht a _ => (h t a).trans ht

theorem State.parts_freeCore (c : Nat) : (s.freeCore c).parts = s.parts := by
  unfold State.freeCore
  split <;> rfl

theorem State.parts_endCal (c : Nat) : (s.endCal c).parts = s.parts := by
  unfold State.endCal
  split <;> rfl

theorem State.parts_haltCore (c : Nat) : (s.haltCore c).parts = s.parts := by
  rw [State.haltCore, State.modCore_parts, State.parts_endCal, State.parts_freeCore]

theorem State.parts_resetDale (n : Nat) : (s.resetDale n).parts = s.parts := rfl

theorem State.parts_resetDies (p : Nat) : (s.resetDies p).parts = s.parts := by
  have hcores (u : State) (d : Nat) : ((coresOfDie d).foldl (fun u c => (u.haltCore c).resetDale c) u).parts = u.parts :=
    State.parts_foldl (fun v c => (State.parts_resetDale _ c).trans (v.parts_haltCore c)) _ u
  rw [State.resetDies]
  refine (State.modFab_parts _ _).trans (State.parts_foldl (fun u d => ?_) _ s)
  simp only [State.modDie_parts, hcores]

theorem State.parts_stopUnits (p : Nat) : (s.stopUnits p).parts = s.parts := by
  have hstack (u : State) (k : Nat) (f : Stack → Stack) : ((u.resetDale (152 + k)).modStack k f).parts = u.parts := rfl
  rw [State.stopUnits]
  exact (State.parts_foldl (fun u k => hstack u k _) (s.stacksOf p) (s.resetDies p)).trans (s.parts_resetDies p)

theorem State.parts_powerAll_off (ns : List Nat) : (s.powerAll ns false).parts = s.parts := by rw [State.powerAll_off_frame]

theorem State.parts_stopContexts (p : Nat) : (s.stopContexts p).parts = s.parts := rfl

theorem State.parts_destroy (p : Nat) : ∃ x : Part, (s.destroy p).parts = mapSet s.parts p x := by
  have hunslotted (l : List Nat) (u : State) (f : Core → Core) : (l.foldl (fun u c => u.modCore c f) u).parts = u.parts :=
    State.parts_foldl (fun v c => v.modCore_parts c f) l u
  have hmod (u : State) (f : Part → Part) (hu : u.parts = s.parts) : ∃ x, ((u.modPart p f).powerCores p false).parts = mapSet s.parts p x :=
    ⟨_, (State.parts_powerAll_off _ _).trans (congrArg (fun m => mapSet m p (f (u.part p))) hu)⟩
  rw [State.destroy]
  exact hmod _ _ ((hunslotted _ _ _).trans ((State.parts_stopContexts _ p).trans (s.parts_stopUnits p)))

theorem State.parts_clearCores (p : Nat) : (s.clearCores p).parts = s.parts := by
  have hcores (l : List Nat) (u : State) (f : Core → Core) : (l.foldl (fun u c => u.modCore c f) u).parts = u.parts :=
    State.parts_foldl (fun v c => v.modCore_parts c f) l u
  have hdies (l : List Nat) (u : State) (f : Die → Die) : (l.foldl (fun u d => u.modDie d f) u).parts = u.parts :=
    State.parts_foldl (fun v d => v.modDie_parts d f) l u
  rw [State.clearCores]
  exact (hcores _ _ _).trans (hdies _ _ _)

theorem State.parts_destroyed (p : Nat) : ∃ h : Nat, (s.destroyed p).parts = mapSet s.parts p { health := h } := by
  have hcleared : ((s.zeroStacks p).clearCores p).parts = s.parts := (State.parts_clearCores _ p).trans rfl
  exact ⟨_, congrArg (fun m => mapSet m p _) hcleared⟩

/-- What begins to be destroyed ends ABSENT, and no other partition changes. -/
theorem State.st_destroyed (p k : Nat) : (((s.destroy p).destroyed p).part k).st = if k = p then .absent else (s.part k).st := by
  obtain ⟨x, hdestroy⟩ := s.parts_destroy p
  obtain ⟨h, hdestroyed⟩ := (s.destroy p).parts_destroyed p
  rw [State.part, hdestroyed, hdestroy]
  split
  next hk => rw [hk, mapGet_mapSet_same]
  next hk => rw [mapGet_mapSet_ne _ _ _ _ _ hk, mapGet_mapSet_ne _ _ _ _ _ hk, State.part]

theorem State.st_destroyNow (p k : Nat) : ((s.destroyNow p).part k).st = if k = p then .absent else (s.part k).st := by
  rw [State.destroyNow]
  split
  next h =>
    split
    next hk => rw [hk, h]
    next => rfl
  next => exact s.st_destroyed p k

theorem State.st_destroyNows (l : List Nat) {p : Nat} (h : p ∈ l ∨ (s.part p).st = .absent) :
    ((l.foldl State.destroyNow s).part p).st = .absent := by
  induction l generalizing s with
  | nil => exact h.resolve_left List.not_mem_nil
  | cons q l ih =>
    refine ih (s.destroyNow q) ?_
    by_cases hq : p = q
    · exact .inr (by rw [State.st_destroyNow, if_pos hq])
    · exact (h.imp_left fun hm => (List.mem_cons.1 hm).resolve_left hq).imp_right fun ha => by rwa [State.st_destroyNow, if_neg hq]

theorem State.absent_destroyAll {p : Nat} (hp : p < 8) : (s.destroyAll.part p).st = .absent :=
  s.st_destroyNows _ (.inl (List.mem_range.2 hp))

/-! ### Ports dropped together -/

theorem State.dropPort_off_or_down (p : Nat) {st : PortState} (hst : st = .off ∨ st = .down) : PortDropped p st s (s.dropPort p st) :=
  s.dropPort_dropped p fun y => by rcases hst with rfl | rfl <;> rfl

theorem State.parts_dropPort (p : Nat) {st : PortState} (hst : st = .off ∨ st = .down) : (s.dropPort p st).parts = s.parts := by
  rw [(s.dropPort_off_or_down p hst).frame]

theorem State.parts_powerOn (n : Nat) : (s.powerOn n).parts = s.parts := rfl

theorem State.parts_powerOff (n : Nat) : (s.powerOff n).parts = s.parts := s.parts_powerAll_off [n]

theorem State.parts_applyMode (p : Nat) : (s.applyMode p).parts = s.parts := by
  have hdrop := s.parts_dropPort p (st := if s.portMode p == 0 then .off else .down) (by split <;> simp)
  unfold State.applyMode
  extract_lets d off dropped on
  have hon : on.parts = dropped.parts := by
    simp only [on]
    split
    · exact State.parts_powerOn _ _
    · rfl
  have hdropped : dropped.parts = s.parts := hdrop
  clear_value dropped on
  split
  · exact (State.parts_powerOff _ _).trans hdropped
  · split
    · exact hon.trans hdropped
    · exact (State.modPort_parts _ _ _).trans (hon.trans hdropped)

/-- What DEBUG_TOKEN sets (R409). -/
def Security.debug (x : Security) : Bool × Bytes × List (BitVec 128 × BitVec 32 × Nat) := (x.lock, x.debugHash, x.nonces)

theorem State.debug_dropPort (p : Nat) : (s.dropPort p .down).sec.debug = s.sec.debug := by
  have hbroken : (s.brokenOff p).sec = s.sec := by rw [(s.onlySending_brokenOff p).frame]
  have hstays (t : State) : (t.fallen p .down).sec.debug = t.sec.debug := rfl
  have hfallen := (hstays (s.brokenOff p)).trans (congrArg Security.debug hbroken)
  have hdead : (((s.brokenOff p).fallen p .down).port p).linked = false := by
    obtain ⟨y, -, hport⟩ := ((s.brokenOff p).fallen_dropped p .down).port
    rw [hport]
    rfl
  have hspared : SparesPort p ((s.brokenOff p).fallen p .down) (s.dropPort p .down) := by
    rw [s.dropPort_eq p .down]
    exact SparesPort.foldl (fun t k ht => t.sparesPort_resendOn ht (State.not_mem_bundlePeers _ p) (k.forgetting p)) _ hdead _
  rw [hspared.frame]
  exact hfallen

/-- Ports taken DOWN one after another are DOWN; partitions and what DEBUG_TOKEN sets stay. -/
theorem State.dropPorts_effect (l : List Nat) :
    (l.foldl (·.dropPort · .down) s).parts = s.parts ∧ (l.foldl (·.dropPort · .down) s).sec.debug = s.sec.debug ∧
      ∀ p, p ∈ l ∨ (s.port p).st = .down → ((l.foldl (·.dropPort · .down) s).port p).st = .down := by
  induction l generalizing s with
  | nil => exact ⟨rfl, rfl, fun p hp => hp.resolve_left List.not_mem_nil⟩
  | cons q l ih =>
    obtain ⟨hparts, hdebug, hdown⟩ := ih (s.dropPort q .down)
    refine ⟨hparts.trans (s.parts_dropPort q (.inr rfl)), hdebug.trans (s.debug_dropPort q), fun p hp => hdown p ?_⟩
    rw [(s.dropPort_effect q .down).2 p]
    by_cases hq : p = q
    · exact .inr (if_pos hq)
    · rw [if_neg hq]
      exact hp.imp_left fun hm => (List.mem_cons.1 hm).resolve_left hq

/-! ### The release of the module (R407) -/

theorem State.parts_shapeWrite {s t : State} {data : Bytes} (h : s.shapeWrite data = .ok t) : t.parts = s.parts := by
  rw [State.shapeWrite, guarded] at h
  split at h
  · cases h
  · split at h
    · cases h
    · cases h
      rfl

theorem State.parts_keptDefaults : s.keptDefaults.parts = s.parts := by
  unfold State.keptDefaults
  extract_lets ports node count shaped dropped moded
  have hshaped : shaped.parts = s.parts := by
    simp only [shaped]
    split
    next t ht => exact State.parts_shapeWrite ht
    next => rfl
  have hmoded : moded.parts = s.parts := (State.parts_foldl (fun t p => t.parts_applyMode p) ports dropped).trans hshaped
  split
  · exact hmoded
  · exact hmoded

theorem State.releaseModule_effect : s.releaseModule.sec.sessions = [] ∧ ∀ p, p < 8 → (s.releaseModule.part p).st = .absent := by
  refine ⟨?_, fun p hp => ?_⟩
  · simp [State.releaseModule, State.remeasure, State.endSessions, State.modSec]
  · have hended (t : State) (q : Session → Bool) : (t.endSessions q).remeasure.parts = t.parts := rfl
    have hparts : s.releaseModule.parts = s.destroyAll.parts := by
      rw [State.releaseModule, hended, State.parts_keptDefaults]
    have hpart : s.releaseModule.part p = s.destroyAll.part p := by rw [State.part, hparts, State.part]
    rw [hpart]
    exact s.absent_destroyAll hp

end

/-! ### Writes in a session (R374, R401) -/

section
variable {s : State} {id : BitVec 32} {x : Session}

/-- The module once a request of a session has been heard. -/
def State.heardIn (s : State) (x : Session) (id : BitVec 32) : State := s.modSession x.conn id fun y => { y with lastAt := s.now }

theorem State.writeIn_of_session (h : s.serving = true) (hx : s.sessionById id = some x) (index sub : Nat) (data : Bytes) :
    s.writeIn id index sub data = State.latch ((s.heardIn x id).writeEntry x.who id false index sub data) := by
  rw [State.writeIn, if_neg (by simp [h]), hx]
  rfl

theorem State.writeIn_of_no_session (h : s.serving = true) (hx : s.sessionById id = none) (index sub : Nat) (data : Bytes) :
    s.writeIn id index sub data = { s with lastAbort := 0x11 } := by
  rw [State.writeIn, if_neg (by simp [h]), hx]
  rfl

theorem State.nonceIn_of_no_session (h : s.serving = true) (hx : s.sessionById id = none) :
    s.nonceIn id = { s with lastAbort := 0x11 } := by
  rw [State.nonceIn, if_neg (by simp [h]), hx]
  rfl

/-- DEBUG_NONCE is read by OWNER, OPERATOR and OBSERVER. -/
theorem State.nonceIn_of_staff (h : s.pwr.phase = .serving) (hx : s.sessionById id = some x) (hstaff : isStaff x.who.role = true) :
    s.nonceIn id = { ((s.heardIn x id).readNonce id).2 with lastAbort := 0 } := by
  have htarget : (s.heardIn x id).readTarget x.who 0x5800 6 = .ok ⟨.security, 0, { typ := .blob 16, acc := .ro }⟩ := by
    have htenant : x.who.role ≠ .tenant := fun ht => by simp [ht, isStaff] at hstaff
    have hserved (t : Target) : (s.heardIn x id).notServed t 6 = false := by
      simp [State.notServed, show (s.heardIn x id).pwr.phase = .serving from h]
    rw [State.readTarget, State.locate_some (by decide) (x := (.security, 0)) rfl (e := { typ := .blob 16, acc := .ro }) rfl]
    simp [outOfScope, htenant, mayRead, hstaff, hserved]
  rw [State.nonceIn, if_neg (by simp [State.serving_of_phase h]), hx]
  rw [State.heardIn] at htarget
  simp only [htarget]
  rfl

/-- A write of the security range by one who may write it. -/
theorem State.writeEntry_security (h : s.pwr.phase = .serving) {who : Who} {sub n : Nat} {a : Access} {data : Bytes}
    (he : entryOf .security sub = some { typ := .blob n, acc := a }) (ha : a = .rw ∨ a = .wo)
    (hwho : who.role = .owner ∨ s.mayClaim who id .security sub = true) (hlen : data.length = n) :
    s.writeEntry who id false 0x5800 sub data = s.securityWrite who id sub data := by
  have hserved (t : Target) : s.notServed t sub = false := by simp [State.notServed, h]
  have hacc : ¬ (a = .const ∨ a = .ro) := by rcases ha with rfl | rfl <;> simp
  have hmay : (mayWrite who.role .owner || s.mayClaim who id .security sub) = true := by
    rcases hwho with hrole | hclaim
    · simp [hrole, mayWrite]
    · simp [hclaim]
  have hscope : outOfScope who .security 0 = false := by simp [outOfScope, scopeOf]
  rw [State.writeEntry, State.writeTarget, State.writePerm, State.locate_some (by decide) (x := (.security, 0)) rfl he]
  simp [hacc, hscope, hmay, State.lengthOk, typLen, hlen, rangeAbort, ranged, hserved]
  rfl

end

/-! ### What the security range does in a session (R404, R407, R409) -/

section
variable {s : State} {id : BitVec 32} {x : Session}

/-- What a valid token leaves before the ports fall. -/
def State.debugOpened (s : State) (token : Bytes) : State :=
  s.destroyAll.modSec fun x => { x with lock := true, debugHash := sha384 token, nonces := [] }

theorem State.debugToken_eq {b : Bytes} (h : s.tokenOk id b = true) :
    s.debugToken id b = .ok ((List.range 32).foldl (·.dropPort · .down) (s.debugOpened b)) := by
  rw [State.debugToken, if_pos h]
  rfl

theorem State.debugToken_of_valid {b : Bytes} (h : s.tokenOk id b = true) :
    ∃ t, s.debugToken id b = .ok t ∧ t.sec.lock = true ∧ t.sec.debugHash = sha384 b ∧ t.sec.nonces = [] ∧
      (∀ p, p < 8 → (t.part p).st = .absent) ∧ ∀ p, p < 32 → (t.port p).st = .down := by
  obtain ⟨hparts, hdebug, hdown⟩ := (s.debugOpened b).dropPorts_effect (List.range 32)
  have hrow := State.debugToken_eq h
  generalize (List.range 32).foldl (·.dropPort · .down) (s.debugOpened b) = t at hrow hparts hdebug hdown
  have hopened : (s.debugOpened b).sec.debug = (true, sha384 b, []) := rfl
  rw [hopened] at hdebug
  refine ⟨t, hrow, congrArg Prod.fst hdebug, congrArg (·.2.1) hdebug, congrArg (·.2.2) hdebug, fun p hp => ?_,
    fun p hp => hdown p (.inl (List.mem_range.2 hp))⟩
  have hpart (t u : State) (h : t.parts = u.parts) : t.part p = u.part p := by rw [State.part, h, State.part]
  rw [hpart _ _ hparts, hpart (s.debugOpened b) s.destroyAll (State.modSec_parts _ _)]
  exact s.absent_destroyAll hp

theorem State.debugToken_of_invalid {b : Bytes} (h : s.tokenOk id b = false) : s.debugToken id b = .error 0x0B :=
  if_neg (by simp [h])

/-- A session that has no role is not one that a change of OWNER_ANCHOR ends. -/
theorem State.mem_sessions_setAnchor {z : Session} (hz : z ∈ s.sec.sessions) (hrole : z.who.role = .none) (a : Bytes) :
    z ∈ (s.setAnchor 0x5800 1 { role := .owner } a).sec.sessions := by
  unfold State.setAnchor
  extract_lets same t
  split
  · exact hz
  · refine List.mem_filter.2 ⟨hz, ?_⟩
    have : z.who ≠ { role := .owner } := fun h => by simp [h] at hrole
    simpa using this

theorem State.cfgBytes_setAnchor (index sub : Nat) (who : Who) (a : Bytes) : (s.setAnchor index sub who a).cfgBytes index sub = a := by
  have hset : (s.setCfg index sub a).cfgBytes index sub = a := by rw [State.cfgBytes, State.setCfg, storeGet_mapSet_same]
  unfold State.setAnchor
  extract_lets same t
  split
  · exact hset
  · exact hset

/-- A claim: the anchor is written, and the session that has no role becomes OWNER's. -/
theorem State.ownerAnchor_claim {z : Session} (hz : z ∈ s.sec.sessions) (hid : z.id = id) (hopen : z.isOpen = true)
    (hrole : z.who.role = .none) {a : Bytes} (ha : allZero a = false) {who : Who} (hwho : who.role = .none) :
    (s.ownerAnchor id who a).cfgBytes 0x5800 1 = a ∧ ∃ y ∈ (s.ownerAnchor id who a).sec.sessions, y.id = id ∧ y.who.role = .owner := by
  rw [State.ownerAnchor, if_neg (by simp [ha])]
  dsimp only
  rw [if_pos hwho]
  refine ⟨s.cfgBytes_setAnchor 0x5800 1 _ a, { z with who := { role := .owner } }, ?_, hid, rfl⟩
  refine List.mem_map.2 ⟨z, State.mem_sessions_setAnchor hz hrole a, if_pos ?_⟩
  simp [hid, hopen]

theorem State.sessionById_some (hx : s.sessionById id = some x) : x ∈ s.sec.sessions ∧ x.isOpen = true ∧ x.id = id := by
  have hfound := List.find?_some hx
  simp only [Bool.and_eq_true, beq_iff_eq] at hfound
  exact ⟨List.mem_of_find?_eq_some hx, hfound.1.1, hfound.1.2⟩

/-- A session that has been heard is still listed, with its role. -/
theorem State.mem_sessions_heardIn (hx : s.sessionById id = some x) :
    ∃ z ∈ (s.heardIn x id).sec.sessions, z.id = id ∧ z.isOpen = true ∧ z.who = x.who := by
  obtain ⟨hmem, hopen, hid⟩ := State.sessionById_some hx
  by_cases hconn : (x.conn == connChannel x.conn && x.id == id) = true
  · exact ⟨{ x with lastAt := s.now }, List.mem_map.2 ⟨x, hmem, if_pos hconn⟩, hid, hopen, rfl⟩
  · exact ⟨x, List.mem_map.2 ⟨x, hmem, if_neg hconn⟩, hid, hopen, rfl⟩

end

/-- Settles O55: the three entries in a session, and that outside a session they are AUTH. -/
theorem claimsAndDebug : Obligations.ClaimsAndDebug := by
  intro s id hphase
  have hserving := State.serving_of_phase hphase
  have hheard (x : Session) : (s.heardIn x id).pwr.phase = .serving := hphase
  refine ⟨fun hnone => ⟨congrArg Host.Outcome.next (State.nonceIn_of_no_session hserving hnone), fun b => ?_, fun a => ?_⟩,
    fun x hx => ⟨fun hstaff => ?nonce, fun b hrole hlen hok => ?token, fun b hrole hlen hbad => ?badToken,
      fun a hrole hid hzero hlen ha => ?claim, fun a hrole hlen ha => ?release⟩⟩
  · exact congrArg Host.Outcome.next (State.writeIn_of_no_session hserving hnone 0x5800 7 b)
  · exact congrArg Host.Outcome.next (State.writeIn_of_no_session hserving hnone 0x5800 1 a)
  case nonce => exact ⟨_, congrArg Host.Outcome.next (State.nonceIn_of_staff hphase hx hstaff), rfl, rfl, rfl, rfl⟩
  case token =>
    obtain ⟨t, ht, heffect⟩ := State.debugToken_of_valid (s := s.heardIn x id) (id := id) (b := b) hok
    refine ⟨{ t with lastAbort := 0 }, congrArg Host.Outcome.next ?_, rfl, heffect⟩
    rw [State.writeIn_of_session hserving hx, State.writeEntry_security (hheard x) rfl (.inr rfl) (.inl hrole) hlen, State.securityWrite, ht]
    rfl
  case badToken =>
    refine ⟨{ s.heardIn x id with lastAbort := 0x0B }, congrArg Host.Outcome.next ?_, rfl, rfl, rfl, rfl, rfl⟩
    rw [State.writeIn_of_session hserving hx, State.writeEntry_security (hheard x) rfl (.inr rfl) (.inl hrole) hlen, State.securityWrite,
      State.debugToken_of_invalid (s := s.heardIn x id) hbad]
    rfl
  case claim =>
    obtain ⟨z, hz, hzid, hopen, hwho⟩ := State.mem_sessions_heardIn hx
    have hclaim : (s.heardIn x id).mayClaim x.who id .security 1 = true := by
      simp [State.mayClaim, hrole, show allZero ((s.heardIn x id).cfgBytes 0x5800 1) = true from hzero]
      exact hid
    obtain ⟨hanchor, hsession⟩ := State.ownerAnchor_claim hz hzid hopen (hwho ▸ hrole) ha hrole
    refine ⟨{ (s.heardIn x id).ownerAnchor id x.who a with lastAbort := 0 }, congrArg Host.Outcome.next ?_, rfl, hanchor, hsession⟩
    rw [State.writeIn_of_session hserving hx, State.writeEntry_security (hheard x) rfl (.inl rfl) (.inr hclaim) hlen]
    rfl
  case release =>
    obtain ⟨hsessions, hparts⟩ := (s.heardIn x id).releaseModule_effect
    have hrow : s.writeIn id 0x5800 1 a = State.latch (abNone, (s.heardIn x id).releaseModule) := by
      rw [State.writeIn_of_session hserving hx, State.writeEntry_security (hheard x) rfl (.inl rfl) (.inl hrole) hlen,
        State.securityWrite, State.ownerAnchor, if_pos ha]
    generalize (s.heardIn x id).releaseModule = t at hrow hsessions hparts
    exact ⟨_, congrArg Host.Outcome.next hrow, rfl, hsessions, hparts⟩

end Sys2Proof.Machine
end

section
/-! Securing: the parity engine's rows, votes, commits, shards and the point exchange (R356 to R365). -/
namespace Sys2Proof.Machine

/-! ### The parity engine's gate (R336, R358) -/

section
variable {g q seq : Nat} {s : State} {r : Run}

theorem isSecure_iff (hop : dOpcode r.raw = 0x48) (n : Nat) : isSecure n r = true ↔ (secBlk r.block).op = n := by simp [isSecure, hop]

/-- A descriptor that the parity engine has nothing to do for waits, whichever row is tried. -/
theorem Ready.secureRow_of_not_ready (h : Ready g q seq s r) (hready : s.secReady g q r = false) (n : Nat) :
    s.secureRow g q seq n = s := by
  rw [State.secureRow, h.engineGate_of_not_ready hready]

theorem State.secureRow_of_not_turn (hturn : ¬ s.turnOf 3 3 g s.secReady) (n : Nat) : s.secureRow g q seq n = s := by
  rw [State.secureRow, State.engineGate_of_not_turn hturn]

theorem State.registerRow_of_not_turn (hturn : ¬ s.turnOf 3 3 g s.secReady) : s.registerRow g q seq = s := by
  rw [State.registerRow, State.engineGate_of_not_turn hturn]

variable (h : Ready g q seq s r) (hop : dOpcode r.raw = 0x48)
include h hop

theorem Ready.secureRow_eq {n : Nat} (hk : (secBlk r.block).op = n) (hturn : s.turnOf 3 3 g s.secReady) (hready : s.secReady g q r = true) :
    s.secureRow g q seq n = (s.secureDo g q seq r).engineServed 3 g := by
  rw [State.secureRow, h.engineGate_eq hturn ((isSecure_iff hop n).2 hk) hready]

theorem Ready.registerRow_eq (hk : (secBlk r.block).op = 3) (hturn : s.turnOf 3 3 g s.secReady) :
    s.registerRow g q seq = (((s.modSecure g fun x => x.register (secBlk r.block) (cutTables (secBlk r.block).addrs r.table)).ranWith
      g q seq 0).engineServed 3 g) := by
  have hkind := (isSecure_iff hop 3).2 hk
  rw [State.registerRow, h.engineGate_eq hturn hkind (by rw [State.secReady, hkind]; rfl)]
  rfl

theorem Ready.secReady_eq (hk : (secBlk r.block).op ≠ 3) :
    s.secReady g q r = match (s.secureOf g).op with
      | none => s.aloneIn g q seq
      | some op => op.q == q && op.seq == seq && op.stopping := by
  have hkind : isSecure 3 r = false := Bool.eq_false_iff.2 fun hs => hk ((isSecure_iff hop 3).1 hs)
  rw [State.secReady, hkind, State.seq_of_run h.run]
  rfl

theorem Ready.secReady_of_free (hk : (secBlk r.block).op ≠ 3) (hfree : (s.secureOf g).op = none) :
    s.secReady g q r = s.aloneIn g q seq := by
  rw [h.secReady_eq hop hk, hfree]

theorem Ready.secReady_of_op (hk : (secBlk r.block).op ≠ 3) {o : SecOp} (ho : (s.secureOf g).op = some o) :
    s.secReady g q r = (o.q == q && o.seq == seq && o.stopping) := by
  rw [h.secReady_eq hop hk, ho]

/-- An operation begins: alone in its context with no other running. -/
theorem Ready.secureRow_begins {n : Nat} (hk : (secBlk r.block).op = n) (hn : n ≠ 3) (hturn : s.turnOf 3 3 g s.secReady)
    (halone : s.aloneIn g q seq = true) (hfree : (s.secureOf g).op = none) :
    s.secureRow g q seq n = (s.beginSec g q seq r).engineServed 3 g := by
  rw [h.secureRow_eq hop hk hturn (by rw [h.secReady_of_free hop (hk ▸ hn) hfree, halone]), State.secureDo, hfree]

end

/-- Settles O39: each row at the parity engine's gate, and what a descriptor that may not go on waits for. -/
theorem securingBegins : Obligations.SecuringBegins := by
  intro s g q seq r h hop
  have hwaits (hw : ∀ n, s.secureRow g q seq n = s) :
      exec (.secure g q seq) s = .next s ∧ exec (.restore g q seq) s = .next s ∧ exec (.fill g q seq) s = .next s :=
    ⟨congrArg Host.Outcome.next (hw 0), congrArg Host.Outcome.next (hw 1), congrArg Host.Outcome.next (hw 2)⟩
  refine ⟨fun hk hturn hfree => congrArg Host.Outcome.next ?secure, fun hk hturn hfree => congrArg Host.Outcome.next ?restore,
    fun hk hturn hfree => congrArg Host.Outcome.next ?fill, fun o key hk hturn ho hq hseq hstop hkey => congrArg Host.Outcome.next ?stop,
    fun o hk ho hother => hwaits fun n => h.secureRow_of_not_ready ?_ n,
    fun hk hfree halone => hwaits fun n => h.secureRow_of_not_ready ((h.secReady_of_free hop hk hfree).trans halone) n,
    fun hturn => ⟨hwaits fun n => State.secureRow_of_not_turn hturn n, congrArg Host.Outcome.next (State.registerRow_of_not_turn hturn)⟩,
    fun hk hturn => congrArg Host.Outcome.next (h.registerRow_eq hop hk hturn)⟩
  case secure | restore | fill =>
    rw [h.secureRow_begins hop hk (by decide) hturn hfree.1 hfree.2, State.beginSec]
    simp only [hk]
    rfl
  case stop =>
    have hready : s.secReady g q r = true := by rw [h.secReady_of_op hop (by simp [hk]) ho]; simp [hq, hseq, hstop]
    rw [h.secureRow_eq hop hk hturn hready, State.secureDo, ho, hkey]
  · rw [h.secReady_of_op hop hk ho]
    rcases hother with hq | hseq | hstop
    · simp [hq]
    · simp [hseq]
    · simp [hstop]

/-! ### Securing state -/

section
variable {s : State} {g : Nat}

theorem State.secureOf_modSecure (f : Secure → Secure) : (s.modSecure g f).secureOf g = f (s.secureOf g) :=
  congrArg Ctx.secure (s.ctx_modCtx_same g _)

theorem State.othersKept_modSecure (f : Secure → Secure) : OthersKept g s (s.modSecure g f) :=
  fun k hk => s.ctx_modCtx_ne g k _ hk

/-- An update of the securing state depends on what it makes of the one there is. -/
theorem State.modSecure_congr {f f' : Secure → Secure} (h : f (s.secureOf g) = f' (s.secureOf g)) : s.modSecure g f = s.modSecure g f' := by
  simp only [State.modSecure, State.modCtx]
  exact congrArg (fun x => s.setCtx g { s.ctx g with secure := x }) h

theorem State.modSecOp_of_op {op : SecOp} (h : (s.secureOf g).op = some op) (f : SecOp → SecOp) :
    s.modSecOp g f = s.modSecure g fun x => { x with op := some (f op) } :=
  State.modSecure_congr (by rw [h]; rfl)

end

/-! ### The vote (R358) -/

section
variable {s : State} {g : Nat} {k : Packet}

theorem State.voteMessage_eq {op : SecOp} {i : Nat} (hop : (s.secureOf g).op = some op) (hi : s.srcData (g / 64) (s.groupFor g) k = some i)
    (hk : s.secPkt g k [0] = true) (hsecure : op.op = 0) (hme : i ≠ s.myPos g) : s.voteMessage g k = s.onVote g op i k := by
  have hpart : s.srcData (partOfCtx g) (s.groupFor g) k = some i := hi
  have hkind : s.secPkt g k [kdVote] = true := hk
  simp only [State.voteMessage, hop, hpart]
  exact if_pos (by simp [hkind, hsecure, hme])

/-- A vote that agrees: the same STEP, the sender's position, the same table. -/
def State.voteAgrees (s : State) (g i : Nat) (k : Packet) : Prop :=
  (voteOf k.payload).step.toNat = s.stepNo g ∧ (voteOf k.payload).position = i ∧ k.payload.drop 32 = (s.secureOf g).table

theorem State.voteAgrees_iff {i : Nat} : ¬ s.voteAgrees g i k ↔ (voteOf k.payload).step.toNat ≠ (s.takeHanded k).stepNo g ∨
    (voteOf k.payload).position ≠ i ∨ voteTable k.payload ≠ ((s.takeHanded k).secureOf g).table := by
  rw [State.voteAgrees, not_and_or, not_and_or]
  rfl

theorem State.onVote_of_disagrees {op : SecOp} {i : Nat} (h : ¬ s.voteAgrees g i k) :
    s.onVote g op i k = (s.takeHanded k).jobFault g op.q op.seq 0x60 0 := if_pos (State.voteAgrees_iff.1 h)

theorem State.onVote_of_agrees {op : SecOp} {i : Nat} (hop : (s.secureOf g).op = some op) (h : s.voteAgrees g i k) :
    s.onVote g op i k = ((s.takeHanded k).modSecure g fun x =>
      { x with op := some { op with votes := op.votes.filter (·.position != i) ++ [voteOf k.payload] } }).advanceSec g := by
  have hstays : ((s.takeHanded k).secureOf g).op = some op := hop
  rw [← State.modSecOp_of_op hstays fun _ => { op with votes := op.votes.filter (·.position != i) ++ [voteOf k.payload] }]
  exact if_neg fun hd => State.voteAgrees_iff.2 hd h

/-- What a running operation still waits for from others. -/
def SecOp.Waits (op : SecOp) : Prop := (op.op = 0 ∧ op.stopping = false) ∨ (op.op ≠ 0 ∧ ∀ f, op.fill = some f → f.1 ≤ f.2)

theorem State.voteTimeout_eq {op : SecOp} (hop : (s.secureOf g).op = some op) [Decidable op.Waits] :
    s.voteTimeout g = if op.Waits ∧ op.startAt + s.cfg (0x4800 + g / 64) 1 * 1000000 ≤ s.ctxTime g then
      s.endSec g op.q op.seq 0x01 else s := by
  simp only [State.voteTimeout, hop, Bool.and_eq_true, decide_eq_true_eq]
  refine if_congr (and_congr_left' ?_) rfl rfl
  by_cases hsecure : op.op = 0
  · simp [SecOp.Waits, hsecure]
  · cases hfill : op.fill <;> simp [SecOp.Waits, hsecure, hfill]

/-! ### The holders' DONE (R362) -/

/-- The holders that have said DONE for a build. -/
def doneWith (l : List Nat) (j : Nat) : List Nat := if j ∈ l then l else l ++ [j]

theorem State.holderDone_eq {b : Nat × List Nat} {j : Nat} (hb : (s.secureOf g).build = some b)
    (hj : s.srcHolder (g / 64) (s.groupFor g) k = some j) (hk : s.secPkt g k [6] = true) (hstop : secStop k = b.1) (htag : secTag k = s.tagOf g) :
    s.holderDone g k =
      if (doneWith b.2 j).length = (s.groupFor g).p then (s.takeHanded k).modSecure g fun x => x.commit b.1 (s.ctxTime g)
      else (s.takeHanded k).modSecure g fun x => { x with build := some (b.1, doneWith b.2 j) } := by
  have hpart : s.srcHolder (partOfCtx g) (s.groupFor g) k = some j := hj
  have hkind : s.secPkt g k [kdDone] = true := hk
  have hdone : (if b.2.contains j then b.2 else b.2 ++ [j]) = doneWith b.2 j := by simp [doneWith]
  simp only [State.holderDone, hb, hpart, hkind, hstop, htag, hdone, beq_self_eq_true, Bool.and_true, if_true]
  rfl

end

/-- Settles O40: votes, what is awaited too long, and the commit of a point. -/
theorem votesAndCommits : Obligations.VotesAndCommits := by
  intro s g k rest
  refine ⟨fun op i hop hi hk hsecure hme => ?vote, fun op hop => ?timeout, fun b j hb hj hk hstop htag => ?done⟩
  case vote =>
    have hrow := State.voteMessage_eq hop hi hk hsecure hme
    exact ⟨fun h => congrArg Host.Outcome.next (hrow.trans (State.onVote_of_disagrees h)),
      fun h => congrArg Host.Outcome.next (hrow.trans (State.onVote_of_agrees hop h))⟩
  case timeout =>
    classical
    have hrow := State.voteTimeout_eq hop
    exact ⟨fun hw hd => congrArg Host.Outcome.next (hrow.trans (if_pos ⟨hw, hd⟩)),
      fun h => congrArg Host.Outcome.next (hrow.trans (if_neg (not_and_or.2 h)))⟩
  case done =>
    have hrow := State.holderDone_eq hb hj hk hstop htag
    refine ⟨fun hmore => congrArg Host.Outcome.next (hrow.trans (if_neg hmore)),
      fun hall => ⟨_, congrArg Host.Outcome.next (hrow.trans (if_pos hall)), ?_⟩⟩
    have hsecure : ((rest.modSecure g fun x => x.commit b.1 (s.ctxTime g)).secureOf g) = (s.secureOf g).commit b.1 (s.ctxTime g) :=
      State.secureOf_modSecure _
    refine ⟨congrArg Secure.latch hsecure, congrArg Secure.build hsecure, congrArg Secure.commitNs hsecure,
      congrArg Secure.committedOnce hsecure, congrArg Secure.maxRaised hsecure, (congrArg Secure.points hsecure).trans ?_, rfl,
      State.othersKept_modSecure _⟩
    simp [Secure.commit, modWhere]

/-! ### Parity packets (R361, R362) -/

section
variable {s : State} {g : Nat} {k : Packet}

/-- A parity packet of the member's own chain: from the position before it, in its own group. -/
def State.ownChain (s : State) (g : Nat) (k : Packet) : Bool :=
  (s.secureOf g).hasGroup && groupTag (s.secureOf g).table == secTag k && 0 < s.myPos g &&
    s.fromRank (partOfCtx g) ((s.groupFor g).rank (s.myPos g - 1)) k && bitsOf k.flow 1 2 < (s.groupFor g).p

theorem State.ownChain_iff : s.ownChain g k = true ↔ (s.secureOf g).hasGroup = true ∧ s.tagOf g = secTag k ∧ 0 < s.myPos g ∧
    s.fromRank (g / 64) ((s.groupFor g).rank (s.myPos g - 1)) k = true ∧ k.flow / 2 % 4 < (s.groupFor g).p := by
  simp only [State.ownChain, Bool.and_eq_true, beq_iff_eq, decide_eq_true_eq, and_assoc]
  rfl

theorem State.parityPacket_of_own (hk : s.secPkt g k [5] = true) (hown : s.ownChain g k = true) {b : Nat × List Nat}
    (hb : (s.secureOf g).build = some b) (hstop : b.1 = secStop k) :
    s.parityPacket g k =
      (s.takeHanded k).memberTile g (secStop k) (s.myPos g) (k.flow / 2 % 4) (secTile k) (decide (k.flow % 2 = 1)) k.payload := by
  have hkind : s.secPkt g k [kdParity] = true := hk
  unfold State.parityPacket
  rw [if_neg (by simp [hkind]), ← Nat.testBit_zero]
  exact (if_pos hown).trans (if_pos (by simp [hb, hstop]))

theorem State.parityPacket_of_hold (hk : s.secPkt g k [5] = true) (hown : ¬ s.ownChain g k = true) {h : Hold}
    (hh : (s.secureOf g).holds.find? (fun h => groupTag h.table == secTag k &&
      (secGroup h.table).pos (s.myRank (g / 64)) == (secGroup h.table).k + k.flow / 2 % 4 &&
      s.fromRank (g / 64) ((secGroup h.table).rank ((secGroup h.table).k - 1)) k) = some h) :
    s.parityPacket g k = (s.takeHanded k).holdTile g h (secStop k) (secTile k) (decide (k.flow % 2 = 1)) k.payload := by
  have hkind : s.secPkt g k [kdParity] = true := hk
  unfold State.parityPacket
  rw [if_neg (by simp [hkind]), ← Nat.testBit_zero]
  refine (if_neg hown).trans ?_
  erw [hh]

/-! ### Packets that wait nowhere -/

theorem State.secPkt_of_absent (h : k ∉ s.fab.handed) (kinds : List Nat) : s.secPkt g k kinds = false := by simp [State.secPkt, h]

theorem State.secPkt_one_iff (n : Nat) : s.secPkt g k [n] = true ↔ k ∈ s.fab.handed ∧ (k.type = 0x08 ∨ k.type = 0x09) ∧
    k.dstPart = g / 64 ∧ secKind k = n := by
  simp only [State.secPkt, partOfCtx, Bool.and_eq_true, Bool.or_eq_true, beq_iff_eq, List.contains_iff_mem, List.mem_singleton, and_assoc]

/-- A packet is of one kind only. -/
theorem State.secPkt_of_other {n m : Nat} (h : s.secPkt g k [n] = true) (hm : n ≠ m) : s.secPkt g k [m] = false :=
  Bool.eq_false_iff.2 fun hother => hm (((State.secPkt_one_iff n).1 h).2.2.2.symm.trans ((State.secPkt_one_iff m).1 hother).2.2.2)

end

/-- Settles O41: which shard, slot or handler each packet reaches. -/
theorem shardsAndPoints : Obligations.ShardsAndPoints := by
  intro s g k rest x grp i j last mine
  have hmine : s.ownChain g k = true ↔ mine := State.ownChain_iff
  refine ⟨fun b hk hm hb hstop => congrArg Host.Outcome.next (State.parityPacket_of_own hk (hmine.2 hm) hb hstop),
    fun h hk hm hh => congrArg Host.Outcome.next (State.parityPacket_of_hold hk (fun ho => hm (hmine.1 ho)) hh),
    fun op ss tiles n hk hop hnext => congrArg Host.Outcome.next ?next, fun hk hnone => congrArg Host.Outcome.next ?served,
    fun hk => congrArg Host.Outcome.next ?points, fun hk => congrArg Host.Outcome.next ?ask,
    fun hk => congrArg Host.Outcome.next ?holder, fun hk => congrArg Host.Outcome.next ?serve, fun habsent => ?absent⟩
  case next =>
    have hkind : s.secPkt g k [kdFill] = true := hk
    rw [State.fillPacket, if_neg (by simp [hkind]), hop]
    simp only [hnext]
    rfl
  case served =>
    have hkind : s.secPkt g k [kdFill] = true := hk
    rw [State.fillPacket, if_neg (by simp [hkind])]
    split
    next => rfl
    next op hop => rw [hnone op hop]
  case points => exact if_pos hk
  case ask => exact (if_neg (by simp [State.secPkt_of_other hk (m := kdPoints) (by decide)])).trans (if_pos hk)
  case holder =>
    refine (if_neg ?_).trans ((if_neg ?_).trans (if_pos hk))
    · simp [State.secPkt_of_other hk (m := kdPoints) (by decide)]
    · simp [State.secPkt_of_other hk (m := kdAskHolder) (by decide)]
  case serve =>
    refine (if_neg ?_).trans ((if_neg ?_).trans ((if_neg ?_).trans (if_pos hk)))
    · simp [State.secPkt_of_other hk (m := kdPoints) (by decide)]
    · simp [State.secPkt_of_other hk (m := kdAskHolder) (by decide)]
    · simp [State.secPkt_of_other hk (m := kdHolder) (by decide)]
  case absent =>
    have hno := fun kinds => State.secPkt_of_absent (g := g) habsent kinds
    refine ⟨congrArg Host.Outcome.next ?_, congrArg Host.Outcome.next ?_, congrArg Host.Outcome.next ?_⟩
    · rw [State.parityPacket, hno]
      rfl
    · rw [State.fillPacket, hno]
      rfl
    · simp [State.pointExchange, hno]

end Sys2Proof.Machine
end

section
/-! The group key: whom it is asked of, who is given it, and the exchange that MD opens as requester (R401, R407). -/
namespace Sys2Proof.Machine

/-! ### MD's packets leave the security state (R385) -/

section
variable (s : State)

theorem State.sec_pump (p : Nat) : (s.pump p).sec = s.sec := by rw [(s.onlySending_pump p).frame]

theorem State.sec_queuePkt (p : Nat) (x : TxPkt) : (s.queuePkt p x).sec = s.sec :=
  (State.sec_pump _ p).trans ((State.modPort_sec _ _ _).trans (State.modFab_sec _ _))

theorem State.sec_send (k : Packet) : (s.send k).sec = s.sec := by
  unfold State.send
  split
  · split
    · rfl
    · rfl
  · split
    · exact s.sec_queuePkt _ _
    · rfl

/-- An SPDM message of MD that goes out in a MGMT packet. -/
def State.said (s : State) (p dev part : Nat) (o : SpdmOut) : State :=
  (s.modSec fun y => { y with out := y.out ++ [o] }).sendMgmt p dev part (mctpWrap (mctpOf o))

theorem State.spdmSend_fabric {o : SpdmOut} {g dev part : Nat} (h : o.carrier = (some g, .dict (.fabric dev part))) :
    s.spdmSend o = s.said (g / 64) dev part o := by
  rw [State.spdmSend, h]
  rfl

theorem State.mem_out_said (p dev part : Nat) (o : SpdmOut) : o ∈ (s.said p dev part o).sec.out := by
  rw [State.said, State.sendMgmt, State.sec_send]
  exact List.mem_append_right _ List.mem_cons_self

end

/-! ### Asking for the group key and giving it (R407) -/

section
variable {s : State} {g : Nat}

theorem State.askKey_of_source {op : SecOp} {i : Nat} {d : Nat × Nat} (hop : (s.secureOf g).op = some op) (hkey : (s.secureOf g).key = none)
    (hi : s.keySource g op = some i) (hd : s.rankOf (g / 64) ((s.groupFor g).rank i) = some d) :
    s.askKey g = (s.beginAsk (.groupKey g) (.dict (.fabric d.1 d.2))).modSecure g fun x => { x with keyAsked := true } := by
  have hrank : s.rankOf (partOfCtx g) ((s.groupFor g).rank i) = some d := hd
  rw [State.askKey, hop]
  simp only [hkey, hi, hrank]
  rfl

theorem State.askKey_of_idle (h : (s.secureOf g).op = none ∨ (s.secureOf g).key ≠ none) : s.askKey g = s := by
  rw [State.askKey]
  split
  next => rfl
  next op hop => exact if_pos (Option.isSome_iff_ne_none.2 (h.resolve_left (by simp [hop])))

/-- A certificate chain's root that FABRIC_ANCHOR admits. -/
def State.rooted (s : State) (root : Bytes) : Prop := (∃ b ∈ s.cfgBytes 0x5800 4, b ≠ 0) ∧ sha384 root = s.cfgBytes 0x5800 4

theorem State.atFabric_iff (root : Bytes) : s.atFabric root = true ↔ s.rooted root := by
  simp [State.atFabric, State.rooted, allZero]

theorem State.mayGive_iff (a : KeyAsker) : s.mayGive g a = true ↔ s.rooted a.chainRoot ∧ a.tableHash = ranksHash (s.secureOf g).table ∧
    ∃ r ∈ (s.groupFor g).data, s.rankOf (g / 64) r = some (a.dev, a.part) := by
  simp only [State.mayGive, Bool.and_eq_true, State.atFabric_iff, List.any_eq_true, beq_iff_eq, and_assoc]
  rfl

theorem mem_upsert {α : Type} (p : α → Bool) (a : α) (l : List α) : a ∈ upsert p a l := by
  unfold upsert
  split
  next hany =>
    obtain ⟨b, hb, hpb⟩ := List.any_eq_true.1 hany
    exact List.mem_map.2 ⟨b, hb, if_pos hpb⟩
  next => exact List.mem_append_right _ List.mem_cons_self

theorem State.giveKey_of_held {a : KeyAsker} (h : s.mayGive g a = true) (hkey : (s.secureOf g).key ≠ none) :
    s.giveKey g a = s.said (g / 64) a.dev a.part (.keyDeliver g a.dev a.part) := by
  rw [State.giveKey, if_neg (by simp [h]), if_pos (Option.isSome_iff_ne_none.2 hkey)]
  exact s.spdmSend_fabric rfl

/-- A member that has no key yet remembers who asked for it. -/
theorem State.giveKey_of_lacking {a : KeyAsker} (h : s.mayGive g a = true) (hkey : (s.secureOf g).key = none) :
    OnlyCtx g s (s.giveKey g a) ∧ a ∈ ((s.giveKey g a).secureOf g).askers ∧ ((s.giveKey g a).secureOf g).key = none := by
  rw [State.giveKey, if_neg (by simp [h]), if_neg (by simp [hkey])]
  refine ⟨⟨rfl, State.othersKept_modSecure _⟩, ?_, ?_⟩
  · rw [State.secureOf_modSecure]
    exact mem_upsert _ _ _
  · rw [State.secureOf_modSecure]
    exact hkey

theorem State.giveKey_of_refused {a : KeyAsker} (h : ¬ s.mayGive g a = true) : s.giveKey g a = s := if_pos (by simpa using h)

/-! ### The requester's exchange (R401) -/

theorem State.what_of_askOf {w : Sys2Proof.Asked} {a : Asking} (h : s.askOf w = some a) : a.what = w :=
  beq_iff_eq.1 (List.find?_some (p := fun a : Asking => a.what == w) h)

/-- The exchange for the key of a group is given up. -/
def State.keyAskFailed (s : State) (g : Nat) : State := (s.endAsk (.groupKey g)).modSecure g fun x => { x with keyAsked := false }

theorem State.askFailed_of_key {a : Asking} (h : a.what = .groupKey g) : s.askFailed a = s.keyAskFailed g := by
  rw [State.askFailed, h]
  rfl

theorem State.askGiven_of_key {a : Asking} (h : a.what = .groupKey g) (key : BitVec 256) (hash : Bytes) :
    s.askGiven a key hash = if hash = ranksHash (s.secureOf g).table then
      ((s.spdmSend (.request (.groupKey g) a.conn (.endSession a.session))).endAsk (.groupKey g)).keyArrived g key
    else s.keyAskFailed g := by
  rw [State.askGiven, h]
  simp only [beq_iff_eq, State.askFailed_of_key h]

theorem State.mem_out_askOpened {a : Asking} {dev part : Nat} (h : a.what = .groupKey g) (hc : a.conn = .dict (.fabric dev part)) :
    .keyRequest g dev part ∈ (s.askOpened a).sec.out := by
  unfold State.askOpened
  extract_lets mine keys t
  rw [h, hc]
  show _ ∈ (State.spdmSend _ (.keyRequest g dev part)).sec.out
  rw [State.spdmSend_fabric _ rfl]
  exact State.mem_out_said _ _ _ _ _

section
variable {w : Sys2Proof.Asked} {a : Asking} (h : s.askOf w = some a) (key : Option (BitVec 256)) (hash : Bytes)
include h

theorem State.spdmReply_certificate (hst : a.stage = .certificate) (ch : CertChain) :
    s.spdmReply w (.certificate ch) key hash =
      if s.atFabric ch.root then s.askNext { a with chain := some ch } .keyExchange .keyExchange else s.askFailed a := by
  simp only [State.spdmReply, h, hst]

theorem State.spdmReply_error : s.spdmReply w .error key hash = s.askFailed a := by
  cases hst : a.stage <;> simp only [State.spdmReply, h, hst]

theorem State.spdmReply_groupKey (hst : a.stage = .groupKey) (k : BitVec 256) :
    s.spdmReply w .groupKey (some k) hash = s.askGiven a k hash := by
  simp only [State.spdmReply, h, hst]

theorem State.spdmReply_no_key : s.spdmReply w .groupKey none hash = s.askFailed a := by
  cases hst : a.stage <;> simp only [State.spdmReply, h, hst]

theorem State.spdmReply_no_groupKey (hno : a.stage ≠ .groupKey) : s.spdmReply w .groupKey key hash = s.askFailed a := by
  cases hst : a.stage
  case groupKey => exact absurd hst hno
  all_goals simp only [State.spdmReply, h, hst]

end

/-- The key of a group is taken at the end of its own exchange, and from a table that agrees. -/
theorem State.spdmReply_key {a : Asking} (h : s.askOf (.groupKey g) = some a) (key : Option (BitVec 256)) (hash : Bytes) :
    (∀ k, a.stage = .groupKey → key = some k → hash = ranksHash (s.secureOf g).table → s.spdmReply (.groupKey g) .groupKey key hash =
      ((s.spdmSend (.request (.groupKey g) a.conn (.endSession a.session))).endAsk (.groupKey g)).keyArrived g k) ∧
    (a.stage ≠ .groupKey ∨ hash ≠ ranksHash (s.secureOf g).table ∨ key = none →
      s.spdmReply (.groupKey g) .groupKey key hash = s.keyAskFailed g) := by
  have hwhat := State.what_of_askOf h
  refine ⟨fun k hst hk hhash => ?_, fun hno => ?_⟩
  · rw [hk, State.spdmReply_groupKey h hash hst, State.askGiven_of_key hwhat, if_pos hhash]
  · rw [← State.askFailed_of_key hwhat]
    by_cases hst : a.stage = .groupKey
    · cases key with
      | none => exact State.spdmReply_no_key h hash
      | some k =>
        have hhash : hash ≠ ranksHash (s.secureOf g).table := by simpa [hst] using hno
        rw [State.spdmReply_groupKey h hash hst, State.askGiven_of_key hwhat, if_neg hhash, State.askFailed_of_key hwhat]
    · exact State.spdmReply_no_groupKey h key hash hst

end

/-- Settles O42: who asks for the group key and of whom, who is given it, and the requester's exchange answer by answer. -/
theorem groupKeys : Obligations.GroupKeys := by
  intro s g x p rooted hash said
  refine ⟨fun op i d hop hkey hi hd => congrArg Host.Outcome.next ?ask, fun h => congrArg Host.Outcome.next (State.askKey_of_idle h),
    fun a => ⟨fun h hkey => congrArg Host.Outcome.next ((State.giveKey_of_held ((State.mayGive_iff a).2 h) hkey)),
      fun h hkey => ⟨_, rfl, State.giveKey_of_lacking ((State.mayGive_iff a).2 h) hkey⟩,
      fun h => congrArg Host.Outcome.next (State.giveKey_of_refused fun hm => h ((State.mayGive_iff a).1 hm))⟩,
    fun w r k h hnone => congrArg Host.Outcome.next ?none, fun w a k h ha => ?stages, fun a ha => ?key⟩
  case ask =>
    refine (State.askKey_of_source hop hkey hi hd).trans ?_
    rw [State.beginAsk, State.spdmSend_fabric _ rfl]
    rfl
  case none => rw [State.spdmReply, hnone]
  case stages =>
    refine ⟨fun hst => congrArg Host.Outcome.next ?_, fun hst => congrArg Host.Outcome.next ?_, fun hst => congrArg Host.Outcome.next ?_,
      fun hst => congrArg Host.Outcome.next ?_, fun ch hst hroot => congrArg Host.Outcome.next ?_⟩
    · simp only [State.spdmReply, ha, hst]
      rfl
    · simp only [State.spdmReply, ha, hst]
      rfl
    · simp only [State.spdmReply, ha, hst]
      rfl
    · simp only [State.spdmReply, ha, hst]
      rfl
    · rw [State.spdmReply_certificate ha k h hst, if_pos ((State.atFabric_iff _).2 hroot)]
      rfl
  case key =>
    have hwhat := State.what_of_askOf ha
    refine ⟨fun ch k h hst hroot => congrArg Host.Outcome.next ?_, fun k h => congrArg Host.Outcome.next ?_, fun dev part k h hst hc => ?_,
      fun k h hst hh => congrArg Host.Outcome.next ((State.spdmReply_key ha (some k) h).1 k hst rfl hh),
      fun k h hno => congrArg Host.Outcome.next ((State.spdmReply_key ha k h).2 hno)⟩
    · rw [State.spdmReply_certificate ha k h hst, if_neg fun hf => hroot ((State.atFabric_iff _).1 hf)]
      exact State.askFailed_of_key hwhat
    · rw [State.spdmReply_error ha]
      exact State.askFailed_of_key hwhat
    · refine ⟨s.askOpened a, congrArg Host.Outcome.next ?_, State.mem_out_askOpened hwhat hc⟩
      simp only [State.spdmReply, ha, hst]

end Sys2Proof.Machine
end

section
/-! Dictionary requests: repetitions, frames, the request codes and the staged write (R376 to R381, R385, R451). -/
namespace Sys2Proof.Machine

/-! ### A request that has been opened (R377 to R381) -/

section
variable {s t : State} {src : Source} {w : Bytes} {r : MdReq} {o : Opened} {op : Nat}

/-- A request that MD has taken and opened, of a source whose clear channel it does not refuse. -/
structure Taken (s t : State) (src : Source) (w : Bytes) (r : MdReq) (o : Opened) : Prop where
  serving : s.serving = true
  arrived : s.arrive src w = some (t, some r)
  opened : t.unwrap r.src r.wrapper = some o
  unwrapped : fld r.wrapper 0 4 ≠ 0xFFFFFFFF
  heard : clearRefused r.src o = false

theorem Taken.dictRow_eq (h : Taken s t src w r o) (hrow : rowOp (frameOf o.body) = op) :
    s.dictRow op src w =
      ((t.chan r.src o.sid).stored o (frameOf o.body)).elim (t.serve r o (frameOf o.body)) (t.seen r.src o false |>.respond r) := by
  have hspdm : ¬ (isField r.src && fld r.wrapper 0 4 == spdmSession) = true := by simp [spdmSession, h.unwrapped]
  rw [State.dictRow, if_neg (by simp [h.serving]), h.arrived]
  simp only [State.take, if_neg hspdm, h.opened, hrow, ne_eq, not_true_eq_false, if_false, h.heard, Bool.false_eq_true]
  cases (t.chan r.src o.sid).stored o (frameOf o.body) <;> rfl

/-- A repetition is answered again. -/
theorem Taken.dictRow_repeated (h : Taken s t src w r o) (hrow : rowOp (frameOf o.body) = op) {resp : Bytes}
    (hstored : (t.chan r.src o.sid).stored o (frameOf o.body) = some resp) :
    s.dictRow op src w = (t.seen r.src o false).respond r resp := by
  rw [h.dictRow_eq hrow, hstored, Option.elim_some]

/-- A request that its session accepts and that is no repetition. -/
def Accepted (t : State) (r : MdReq) (o : Opened) : Prop :=
  (t.chan r.src o.sid).stored o (frameOf o.body) = none ∧ t.seqOk r.src o = true

theorem Taken.dictRow_accepted (h : Taken s t src w r o) (hrow : rowOp (frameOf o.body) = op) (hacc : Accepted t r o) :
    s.dictRow op src w = reply r o (frameOf o.body)
      (if (frameOf o.body).ok = true then (t.seen r.src o true).perform r o (t.chan r.src o.sid) (frameOf o.body)
        else { abort := 0x01, state := t.seen r.src o true, chan := t.chan r.src o.sid }) := by
  rw [h.dictRow_eq hrow, hacc.1, Option.elim_none]
  simp only [State.serve, h.heard, hacc.2, Bool.not_true, Bool.or_false, Bool.false_eq_true, if_false]
  cases (frameOf o.body).ok <;> rfl

end

/-! ### What a request does (R378 to R380, R385) -/

section
variable {s : State} {r : MdReq} {o : Opened} {c : Chan} {f : Frame}

theorem routeMay_iff : routeMay f = true ↔ f.op = 2 ∧ (f.index = 0x4100 ∨ (0x4110 ≤ f.index ∧ f.index < 0x4118)) := by
  simp [routeMay, opWrite]

theorem State.perform_route_cancel (hroute : r.route = true) (hop : f.op = 6) : s.perform r o c f = { abort := 0x06, state := s, chan := c } := by
  have hmay : routeMay f = false := by simp [routeMay, opWrite, hop]
  have hbarred : s.barred r o f = 0x06 := by
    unfold State.barred
    extract_lets found
    clear_value found
    cases found
    · exact if_neg fun h => h.1 hop
    · rfl
  rw [State.perform, if_pos (by simp [hroute, hmay]), hbarred]

variable (hmay : r.route = true → routeMay f = true)
include hmay

/-- A request that its packet may carry, by its code. -/
theorem State.perform_eq : s.perform r o c f =
    if f.op = 6 then { abort := 0x00, state := s, chan := { c with staged := none, snap := none } }
    else if f.op = 1 then s.doRead o c f
    else if f.op = 2 then s.doWrite r o c f
    else if f.op = 3 then s.doBegin r o c f
    else if f.op = 4 then s.doPart r o c f
    else s.doEnd r o c f := by
  have hno : ¬ (r.route && !routeMay f) = true := by
    cases hroute : r.route
    · simp
    · simp [hmay hroute]
  rw [State.perform, if_neg hno]
  rfl

theorem State.perform_cancel (hop : f.op = 6) : s.perform r o c f =
    { abort := 0x00, state := s, chan := { c with staged := none, snap := none } } := by simp [State.perform_eq hmay, hop]

theorem State.perform_read (hop : f.op = 1) : s.perform r o c f = s.doRead o c f := by simp [State.perform_eq hmay, hop]

theorem State.perform_write (hop : f.op = 2) : s.perform r o c f = s.doWrite r o c f := by simp [State.perform_eq hmay, hop]

theorem State.perform_begin (hop : f.op = 3) : s.perform r o c f = s.doBegin r o c f := by simp [State.perform_eq hmay, hop]

theorem State.perform_part (hop : f.op = 4) : s.perform r o c f = s.doPart r o c f := by simp [State.perform_eq hmay, hop]

theorem State.perform_end (hop : f.op = 5) : s.perform r o c f = s.doEnd r o c f := by simp [State.perform_eq hmay, hop]

end

/-! ### Reading (R379, R380) -/

section
variable {s : State} {o : Opened} {c : Chan} {f : Frame} {x : Target} {v : Bytes} {y : State}

/-- A discarded transfer of an entry is TIMEOUT once, anything else SEQUENCE. -/
def goneAbort (f : Frame) (x : Option (Nat × Nat)) : Nat := if x = some (f.index, f.sub) then 0x10 else 0x0F

/-- What is kept of a discarded transfer once a frame has been answered. -/
def goneAfter (f : Frame) (x : Option (Nat × Nat)) : Option (Nat × Nat) := if x = some (f.index, f.sub) then none else x

theorem Chan.noSnap_eq (c : Chan) (f : Frame) :
    c.noSnap f = (goneAbort f c.snapGone, { c with snapGone := goneAfter f c.snapGone }) := by
  simp only [Chan.noSnap, goneAbort, goneAfter]
  split <;> rfl

theorem Chan.noStaged_eq (c : Chan) (f : Frame) :
    c.noStaged f = (goneAbort f c.stagedGone, { c with stagedGone := goneAfter f c.stagedGone }) := by
  simp only [Chan.noStaged, goneAbort, goneAfter]
  split <;> rfl

theorem State.doRead_of_error {a : Nat} (h : s.readTarget o.who f.index f.sub = .error a) :
    s.doRead o c f = { abort := a, state := s, chan := c } := by
  rw [State.doRead, h]

section
variable (hx : s.readTarget o.who f.index f.sub = .ok x) (hlog : x.grp ≠ .log ∨ f.sub ≠ 3)
include hx hlog

theorem State.doRead_of_snap {z : Snap} (hoff : f.offset ≠ 0) (hsnap : c.snap = some z) (hindex : z.index = f.index) (hsub : z.sub = f.sub) :
    s.doRead o c f = { abort := 0x00, data := slice z.value f.offset f.length, state := s,
                       chan := { c with snap := some { z with lastAt := s.now } } } := by
  have hof : c.snapOf f.index f.sub = some z := by simp [Chan.snapOf, hsnap, hindex, hsub]
  rw [State.doRead, hx]
  simp only [State.readData, if_neg (not_and_or.2 hlog), if_neg hoff, hof]
  rfl

variable (hv : s.readValue o.sid x f.index f.sub = (v, y))
include hv

theorem State.doRead_short (hsnap : c.snap = none) (hlen : v.length ≤ 1024) :
    s.doRead o c f = { abort := 0x00, data := slice v f.offset f.length, state := y, chan := c } := by
  have hof : (if f.offset = 0 then none else c.snapOf f.index f.sub) = none := by simp [Chan.snapOf, hsnap]
  rw [State.doRead, hx]
  simp only [State.readData, if_neg (not_and_or.2 hlog), hof, hv, if_pos hlen]
  rfl

theorem State.doRead_long_first (hlen : 1024 < v.length) (hoff : f.offset = 0) :
    s.doRead o c f = { abort := 0x00, data := v.take f.length, state := y, chan := { c with
      snap := some { index := f.index, sub := f.sub, value := v, lastAt := s.now }, snapGone := none } } := by
  rw [State.doRead, hx]
  simp only [State.readData, if_neg (not_and_or.2 hlog), if_pos hoff, hv, if_neg (Nat.not_le.2 hlen)]
  rfl

theorem State.doRead_long_gone (hlen : 1024 < v.length) (hoff : f.offset ≠ 0) (hsnap : c.snap = none) :
    s.doRead o c f = { abort := goneAbort f c.snapGone, state := s, chan := { c with snapGone := goneAfter f c.snapGone } } := by
  have hof : c.snapOf f.index f.sub = none := by simp [Chan.snapOf, hsnap]
  rw [State.doRead, hx]
  simp only [State.readData, if_neg (not_and_or.2 hlog), if_neg hoff, hof, hv, if_neg (Nat.not_le.2 hlen), Chan.noSnap_eq]

end

end

/-! ### The staged write (R380) -/

section
variable {s : State} {r : MdReq} {o : Opened} {c : Chan} {f : Frame} {x : Target}

theorem State.doBegin_of_permitted (hx : s.writeTarget o.who o.sid (s.isFm r.src) f.index f.sub f.offset = .ok x)
    (hserved : s.notServed x f.sub = false) :
    s.doBegin r o c f = { abort := 0x00, state := s, chan := { c with
      staged := some { index := f.index, sub := f.sub, total := f.offset, lastAt := s.now }, stagedGone := none } } := by
  rw [State.doBegin, hx]
  simp only [hserved]
  rfl

section
variable (hx : s.writePerm o.who o.sid (s.isFm r.src) f.index f.sub = .ok x)
include hx

theorem State.stagedFor_of_none (h : c.staged = none) :
    s.stagedFor r o c f = .error (goneAbort f c.stagedGone, { c with stagedGone := goneAfter f c.stagedGone }) := by
  rw [State.stagedFor, hx]
  simp only [h, Chan.noStaged_eq]

theorem State.stagedFor_of_some {z : Staged} (h : c.staged = some z) (hindex : z.index = f.index) (hsub : z.sub = f.sub) :
    s.stagedFor r o c f = .ok z := by
  rw [State.stagedFor, hx]
  simp only [h, hindex, hsub, and_self, if_true]

theorem State.doPart_of_none (h : c.staged = none) :
    s.doPart r o c f = { abort := goneAbort f c.stagedGone, state := s, chan := { c with stagedGone := goneAfter f c.stagedGone } } := by
  rw [State.doPart, State.stagedFor_of_none hx h]

variable {z : Staged} (h : c.staged = some z) (hindex : z.index = f.index) (hsub : z.sub = f.sub)
include h hindex hsub

theorem State.doPart_of_staged : s.doPart r o c f =
    if z.fits f.offset f.data.length = true then
      { abort := 0x00, state := s, chan := { c with staged := some { z with parts := z.parts ++ [(f.offset, f.data)], lastAt := s.now } } }
    else { abort := 0x0F, state := s, chan := { c with staged := some { z with lastAt := s.now } } } := by
  rw [State.doPart, State.stagedFor_of_some hx h hindex hsub]
  rfl

theorem State.doEnd_of_staged : s.doEnd r o c f =
    if (z.parts.map fun y => y.2.length).sum = z.total then
      { abort := (s.writeEntry o.who o.sid (s.isFm r.src) f.index f.sub z.value).1,
        state := (s.writeEntry o.who o.sid (s.isFm r.src) f.index f.sub z.value).2, chan := { c with staged := none } }
    else { abort := 0x0F, state := s, chan := { c with staged := none } } := by
  rw [State.doEnd, State.stagedFor_of_some hx h hindex hsub, List.sum_eq_foldl]
  rfl

end

end

/-! ### The time-out of R380 -/

/-- Whether a transfer last heard at a time has been silent for 1 s. -/
def late (now lastAt : Nat) : Bool := lastAt + 1000000000 ≤ now

theorem Chan.expire_eq (c : Chan) (now : Nat) :
    c.expire now =
      { c with staged := if c.staged.any (late now ·.lastAt) then none else c.staged
               stagedGone := if c.staged.any (late now ·.lastAt) then c.staged.map fun x => (x.index, x.sub) else c.stagedGone
               snap := if c.snap.any (late now ·.lastAt) then none else c.snap
               snapGone := if c.snap.any (late now ·.lastAt) then c.snap.map fun x => (x.index, x.sub) else c.snapGone } := by
  unfold Chan.expire
  extract_lets d
  have hstaged : d = { c with
      staged := if c.staged.any (late now ·.lastAt) then none else c.staged
      stagedGone := if c.staged.any (late now ·.lastAt) then c.staged.map fun x => (x.index, x.sub) else c.stagedGone } := by
    simp only [d]
    split
    next x hx =>
      rw [hx, Option.any_some, late]
      split
      next h => simp [h]
      next h => simp [h, ← hx]
    next hx =>
      simp only [hx, Option.any_none, Bool.false_eq_true, if_false]
      rw [← hx]
  have hsnap : d.snap = c.snap := by rw [hstaged]
  have hgone : d.snapGone = c.snapGone := by rw [hstaged]
  rw [← hsnap, ← hgone]
  clear_value d
  split
  next x hx =>
    rw [hx, Option.any_some, late]
    split
    next h => simp [h, hstaged]
    next h => simp [h, ← hx, hstaged]
  next hx =>
    simp only [hx, Option.any_none, Bool.false_eq_true, if_false]
    rw [← hx, hstaged]

/-! ### The rows -/

section
variable {s t : State} {src : Source} {w : Bytes} {r : MdReq} {o : Opened}

theorem rowOp_of_code {f : Frame} {n : Nat} (h : f.op = n) (h1 : 1 ≤ n) (h6 : n ≤ 6) : rowOp f = n := by
  rw [rowOp, h, if_pos ⟨h1, h6⟩]

/-- A well-formed request that is accepted is carried out and answered. -/
theorem Taken.dictRow_performed (h : Taken s t src w r o) (hacc : Accepted t r o) (hok : (frameOf o.body).ok = true) {n : Nat}
    (hop : (frameOf o.body).op = n) (h1 : 1 ≤ n) (h6 : n ≤ 6) {d : Done}
    (hd : (t.seen r.src o true).perform r o (t.chan r.src o.sid) (frameOf o.body) = d) :
    (.next (s.dictRow n src w) : Host.Outcome State Fault Refusal) = .next (reply r o (frameOf o.body) d) := by
  rw [h.dictRow_accepted (rowOp_of_code hop h1 h6) hacc, if_pos hok, hd]

end

/-- Settles O53: repetitions, frames that break R451, each request code, and the time-out. -/
theorem dictionaryRequests : Obligations.DictionaryRequests := by
  intro s t src w r o hserving harrive hopen hwrap hclear f u c answer own mayRoute accepted fresh gone spent
  have h : Taken s t src w r o := ⟨hserving, harrive, hopen, hwrap, hclear⟩
  have hmay (hf : fresh) : r.route = true → routeMay f = true := fun hr => routeMay_iff.2 (hf.2 hr)
  refine ⟨fun resp hstored hrow => congrArg Host.Outcome.next (h.dictRow_repeated hrow hstored), fun hacc hbad hrow => ?bad,
    fun hacc hroute hok hop => ?barred, fun hf hok hop x v y hx hlog hsnap hv hlen => ?short,
    fun hf hok hop x v y hx hlog hv hlen => ⟨fun hoff => ?first, fun z hoff hsnap hi hsub => ?later, fun hoff hsnap => ?gone⟩,
    fun hf hok hop a ha => ?refused, fun hf hok hop => ?write, fun hf hok hop x hx hserved => ?begin,
    fun hf hok hop x z hx hz hi hsub => ?part, fun hf hok hop x hx hz => ?noPart,
    fun hf hok hop x z hx hz hi hsub => ?finish, fun hf hok hop => ?cancel, fun sid => ?timeout⟩
  case bad =>
    refine congrArg Host.Outcome.next ((h.dictRow_accepted hrow hacc).trans ?_)
    rw [if_neg (by simp [show (frameOf o.body).ok = false from hbad])]
  case barred => exact h.dictRow_performed hacc hok hop (by decide) (by decide) (State.perform_route_cancel hroute hop)
  case short =>
    exact h.dictRow_performed hf.1 hok hop (by decide) (by decide)
      ((State.perform_read (hmay hf) hop).trans (State.doRead_short hx hlog hv hsnap hlen))
  case first =>
    exact h.dictRow_performed hf.1 hok hop (by decide) (by decide)
      ((State.perform_read (hmay hf) hop).trans (State.doRead_long_first hx hlog hv hlen hoff))
  case later =>
    exact h.dictRow_performed hf.1 hok hop (by decide) (by decide)
      ((State.perform_read (hmay hf) hop).trans (State.doRead_of_snap hx hlog hoff hsnap hi hsub))
  case gone =>
    exact h.dictRow_performed hf.1 hok hop (by decide) (by decide)
      ((State.perform_read (hmay hf) hop).trans (State.doRead_long_gone hx hlog hv hlen hoff hsnap))
  case refused =>
    exact h.dictRow_performed hf.1 hok hop (by decide) (by decide)
      ((State.perform_read (hmay hf) hop).trans (State.doRead_of_error ha))
  case write => exact h.dictRow_performed hf.1 hok hop (by decide) (by decide) (State.perform_write (hmay hf) hop)
  case begin =>
    exact h.dictRow_performed hf.1 hok hop (by decide) (by decide)
      ((State.perform_begin (hmay hf) hop).trans (State.doBegin_of_permitted hx hserved))
  case part =>
    have hpart := (State.perform_part (hmay hf) hop).trans (State.doPart_of_staged hx hz hi hsub)
    exact ⟨fun hfits => h.dictRow_performed hf.1 hok hop (by decide) (by decide) (hpart.trans (if_pos hfits)),
      fun hno => h.dictRow_performed hf.1 hok hop (by decide) (by decide) (hpart.trans (if_neg (by simp [hno])))⟩
  case noPart =>
    exact h.dictRow_performed hf.1 hok hop (by decide) (by decide)
      ((State.perform_part (hmay hf) hop).trans (State.doPart_of_none hx hz))
  case finish =>
    have hend := (State.perform_end (hmay hf) hop).trans (State.doEnd_of_staged hx hz hi hsub)
    exact ⟨fun hwhole => h.dictRow_performed hf.1 hok hop (by decide) (by decide) (hend.trans (if_pos hwhole)),
      fun hno => h.dictRow_performed hf.1 hok hop (by decide) (by decide) (hend.trans (if_neg hno))⟩
  case cancel => exact h.dictRow_performed hf.1 hok hop (by decide) (by decide) (State.perform_cancel (hmay hf) hop)
  case timeout =>
    refine congrArg Host.Outcome.next ?_
    simp only [State.stagedTimeout, modWhere, Bool.and_eq_true, beq_iff_eq, Chan.expire_eq]
    rfl

end Sys2Proof.Machine
end

section
/-! Grants of pips: the start of a work tile (R337, R338, R416, R418). -/
namespace Sys2Proof.Machine

/-! ### The start of a work tile (R337, R416) -/

section
variable (s : State)

theorem State.countLate_frame (p c : Nat) : s.countLate p c = { s with parts := (s.countLate p c).parts } := by
  unfold State.countLate
  split
  · rfl
  · split
    · rfl
    · rfl

/-- Noting a late core changes the counts of its partition and what the core remembers of its slot. -/
structure LateNoted (c : Nat) (s t : State) : Prop where
  frame : t = { s with parts := t.parts, cores := t.cores }
  core : ∃ a, t.core c = { s.core c with slotAt := a }
  others : ∀ m, m ≠ c → t.core m = s.core m

theorem State.noteLate_noted (c g : Nat) : LateNoted c s (s.noteLate c g) := by
  have hcount (m : Nat) : (s.countLate (partOfCtx g) c).core m = s.core m := by rw [State.countLate_frame]; rfl
  unfold State.noteLate
  extract_lets p mine
  split
  · refine ⟨?_, ⟨none, ?_⟩, fun m hm => ?_⟩
    · rw [State.countLate_frame]
      rfl
    · rw [State.core_modCore_same, hcount]
    · rw [State.core_modCore_ne _ _ _ _ hm, hcount]
  · exact ⟨rfl, ⟨(s.core c).slotAt, rfl⟩, fun _ _ => rfl⟩

theorem OnlyCtx.foldl {α : Type} {f : State → α → State} {g : Nat} (h : ∀ s a, OnlyCtx g s (f s a)) (l : List α) (s : State) :
    OnlyCtx g s (l.foldl f s) :=
  List.foldlRecOn l f (OnlyCtx.refl g s) fun t ht a _ => ht.trans (h t a)

theorem State.onlyCtx_registerWalkers (c : Nat) (k : TileRun) : OnlyCtx k.g s (s.registerWalkers c k) := by
  unfold State.registerWalkers
  split
  · exact OnlyCtx.refl k.g s
  · split
    · exact OnlyCtx.refl k.g s
    · refine OnlyCtx.foldl (fun t n => ?_) _ s
      split
      · exact t.onlyCtx_modCtx k.g _
      · exact OnlyCtx.refl k.g t

end

section
variable {s t : State} {d c : Nat} {k : TileRun}

/-- What a grant makes of the module. -/
structure Granted (d c : Nat) (k : TileRun) (s t : State) : Prop where
  core : ∃ a, t.core c = { s.core c with slotAt := a, tile := some { k with startAt := some (s.ctxTime k.g) }, residue := some k.g,
                                         mem := if (s.core c).residue = some k.g then (s.core c).mem else {} }
  die : t.die d = { s.die d with granted := (s.die d).granted + k.cost, waiting := (s.die d).waiting.filter (· != c) }
  cores : ∀ m, m ≠ c → t.core m = s.core m
  dies : ∀ m, m ≠ d → t.die m = s.die m
  ctxs : OthersKept k.g s t
  memory : t.hbm = s.hbm ∧ t.host0 = s.host0 ∧ t.host1 = s.host1

theorem State.startTile_granted (s : State) (d c : Nat) (k : TileRun) : Granted d c k s (s.startTile d c k) := by
  unfold State.startTile
  extract_lets u v
  obtain ⟨hnoted, ⟨a, hcore⟩, hothers⟩ := v.noteLate_noted c k.g
  obtain ⟨hframe, hctx⟩ := (v.noteLate c k.g).onlyCtx_registerWalkers c k
  have hwalked (m : Nat) : ((v.noteLate c k.g).registerWalkers c k).core m = (v.noteLate c k.g).core m := by rw [hframe]; rfl
  have hdie (m : Nat) : ((v.noteLate c k.g).registerWalkers c k).die m = u.die m := by rw [hframe, hnoted]; rfl
  have hv : v.core c = { s.core c with tile := some { k with startAt := some (s.ctxTime k.g) }, residue := some k.g,
                                       mem := if (s.core c).residue = some k.g then (s.core c).mem else {} } := State.core_modCore_same _ _ _
  refine ⟨⟨a, ?_⟩, (hdie d).trans (State.die_modDie_same _ _ _), fun m hm => ?_,
    fun m hm => (hdie m).trans (State.die_modDie_ne _ _ _ _ hm), fun m hm => ?_, ?_⟩
  · rw [hwalked, hcore, hv]
  · rw [hwalked, hothers m hm]
    exact State.core_modCore_ne _ _ _ _ hm
  · rw [hctx m hm, hnoted]
    rfl
  · rw [hframe, hnoted]
    exact ⟨rfl, rfl, rfl⟩

theorem State.pipGrant_of_waiting (hnext : s.nextWaiting d = some c) (htile : (s.core c).tile = some k) :
    s.pipGrant d = if (s.rampNow && (s.die d).mayGrant k.cost) = true then s.startTile d c k else s := by
  rw [State.pipGrant, hnext]
  simp only [htile]

theorem State.mayGrantNow_iff (n : Nat) : (s.rampNow && (s.die d).mayGrant n) = true ↔ s.pwr.rampedAt = some (s.now / 10000) ∧
    (s.die d).granted + n ≤ (s.die d).allot ∧ (s.die d).granted + n + (s.die d).ramped ≤ (s.die d).intervalBase + 25 := by
  simp [State.rampNow, Die.mayGrant]

end

/-- Settles O19: the next request of a ledger is granted within the allotment and the ramp, and otherwise waits. -/
theorem pipsGranted : Obligations.PipsGranted := by
  intro s d x
  refine ⟨fun c k hnext htile => ⟨fun hramp hallot hbase => ?granted, fun hno => congrArg Host.Outcome.next ?waits⟩,
    fun hnone => congrArg Host.Outcome.next ?none⟩
  case granted =>
    have hgrant := (State.pipGrant_of_waiting hnext htile).trans (if_pos ((State.mayGrantNow_iff k.cost).2 ⟨hramp, hallot, hbase⟩))
    obtain ⟨⟨a, hcore⟩, hdie, hcores, hdies, hctxs, hhbm, hhost0, hhost1⟩ := s.startTile_granted d c k
    refine ⟨_, congrArg Host.Outcome.next hgrant, ?_, ?_, ?_, ?_, ?_, hcores, hdies, hctxs, hhbm, hhost0, hhost1⟩
    · rw [hcore]
    · rw [hcore]
    · rw [hcore]
    · rw [hdie]
    · rw [hdie]
  case waits =>
    refine (State.pipGrant_of_waiting hnext htile).trans (if_neg fun hm => ?_)
    obtain ⟨hramp, hallot, hbase⟩ := (State.mayGrantNow_iff k.cost).1 hm
    rcases hno with hn | hn | hn
    · exact hn hramp
    · exact absurd hallot (Nat.not_le.2 hn)
    · exact absurd hbase (Nat.not_le.2 hn)
  case none => rw [State.pipGrant, hnone]

end Sys2Proof.Machine
end

section
/-! The end of a work tile (R56, R156, R332, R419): what a finished work tile and a replay's leave of cores, contexts and pips. -/
namespace Sys2Proof.Machine

/-! ### Work of a context that gives no core a work tile -/

/-- No other context than g differs, and no core holds a work tile that it did not hold before. -/
structure WorkLeft (g : Nat) (s t : State) : Prop where
  others : OthersKept g s t
  tiles : NoNewTiles s t

section
variable {s t u : State} {g : Nat}

theorem WorkLeft.refl (g : Nat) (s : State) : WorkLeft g s s := ⟨fun _ _ => rfl, NoNewTiles.refl s⟩

theorem WorkLeft.trans (h : WorkLeft g s t) (k : WorkLeft g t u) : WorkLeft g s u :=
  ⟨fun j hj => (k.others j hj).trans (h.others j hj), h.tiles.trans k.tiles⟩

theorem WorkLeft.foldl {α : Type} {f : State → α → State} (h : ∀ s a, WorkLeft g s (f s a)) (l : List α) (s : State) :
    WorkLeft g s (l.foldl f s) :=
  List.foldlRecOn l f (WorkLeft.refl g s) fun _ ht _ _ => ht.trans (h _ _)

theorem WorkLeft.of_sameButMem (h : s.sameButMem t) : WorkLeft g s t := by
  refine ⟨OthersKept.of_sameButMem h, NoNewTiles.of_cores ?_⟩
  obtain ⟨_, _, _, _, _, rfl⟩ := h
  rfl

theorem WorkLeft.of_onlyCtx (h : OnlyCtx g s t) : WorkLeft g s t := ⟨h.2, NoNewTiles.of_cores (by rw [h.1])⟩

theorem TilesLeft.workLeft (h : TilesLeft g s t) : WorkLeft g s t := ⟨h.others, h.tiles⟩

end

section
variable (s : State) (g : Nat)

/-- A core whose work tile stays. -/
theorem State.workLeft_modCore (c : Nat) (f : Core → Core) (h : (f (s.core c)).tile = (s.core c).tile) : WorkLeft g s (s.modCore c f) := by
  refine ⟨fun _ _ => rfl, fun k x hx => ?_⟩
  by_cases hk : k = c
  · rw [hk, State.core_modCore_same, h] at hx
    rwa [hk]
  · rwa [State.core_modCore_ne _ _ _ _ hk] at hx

theorem State.cores_accessed (d : Nat) (reads writes : List (Nat × Nat)) : (s.accessed d g reads writes).cores = s.cores := by
  have hfold {α : Type} (f : State → α → State) (h : ∀ s a, (f s a).cores = s.cores) (l : List α) (u : State) :
      (l.foldl f u).cores = u.cores := List.foldlRecOn l f (motive := fun t => t.cores = u.cores) rfl fun t ht a _ => (h t a).trans ht
  have hline (u : State) (a : Nat) : (u.readLine g a).cores = u.cores := rfl
  have hread (u : State) (r : Nat × Nat) : ((linesOf r.1 r.2).foldl (fun s a => s.readLine g a) u).cores = u.cores :=
    hfold _ hline _ u
  have hdemand : (s.demandReads d g reads).cores = s.cores := by
    rw [State.demandReads]
    exact (State.modDie_cores _ _ _).trans (hfold _ hread reads s)
  have hforget (u : State) : (u.forgetXlat g).cores = u.cores := rfl
  have hkeep (u : State) (r : Nat × Nat) : (u.keepRange g r).cores = u.cores := by
    have hgranule (t : State) (x : Nat × Nat) : (t.keepXlat g x.1).cores = t.cores := rfl
    exact hfold _ hgranule _ u
  rw [State.accessed]
  exact (hfold _ hkeep _ _).trans ((hforget _).trans hdemand)

theorem State.workLeft_accessed (d : Nat) (reads writes : List (Nat × Nat)) : WorkLeft g s (s.accessed d g reads writes) :=
  ⟨(s.accessed_noted d g reads writes).others, NoNewTiles.of_cores (s.cores_accessed g d reads writes)⟩

theorem State.workLeft_writeVa (va : Nat) (bs : Bytes) : WorkLeft g s (s.writeVa g va bs).1 := .of_sameButMem (s.writeVa_same g va bs)

theorem State.workLeft_writeAll (ws : List (Nat × Bytes)) : WorkLeft g s (s.writeAll g ws).1 := .of_sameButMem (s.writeAll_same g ws)

theorem State.workLeft_modRun (q seq : Nat) (f : Run → Run) : WorkLeft g s (s.modRun g q seq f) := .of_onlyCtx (s.onlyCtx_modRun g q seq f)

theorem State.workLeft_modStash (f : Stash → Stash) : WorkLeft g s (s.modStash g f) := .of_onlyCtx (s.onlyCtx_modCtx g _)

theorem State.workLeft_abortNow (q : Nat) : WorkLeft g s (s.abortNow g q) := .of_onlyCtx (s.onlyCtx_modQueue g q _)

theorem State.workLeft_jobFault (q seq status tile : Nat) : WorkLeft g s (s.jobFault g q seq status tile) :=
  ⟨(s.jobFault_noted g q seq status tile).others, s.noNewTiles_jobFault g q seq status tile⟩

end

/-! ### Kernels and chain descriptors (R134, R187) -/

section
variable (s : State) (g : Nat)

theorem VRegs.workLeft_seen (r : VRegs) : WorkLeft g s (r.seen s g) :=
  (s.workLeft_accessed g _ _ _).trans (State.workLeft_modCore _ g r.core _ rfl)

theorem State.workLeft_vecTile (stream : Nat) (ks : List VWord) (n : Nat) (r : VRegs) : WorkLeft g s (s.vecTile g stream ks n r).1 := by
  induction n generalizing s r with
  | zero => exact r.workLeft_seen s g
  | succ n ih =>
    have hstep := WorkLeft.of_sameButMem (g := g) (s.vecStep_same g stream ks r)
    rw [State.vecTile]
    split <;> rename_i hnext <;> rw [hnext] at hstep
    · exact hstep.trans (r.workLeft_seen _ g)
    · exact hstep.trans (r.workLeft_seen _ g)
    · exact hstep.trans (ih _ _)

theorem State.workLeft_coreLeft (old : State) (c : Nat) (w : Work) : WorkLeft g s (s.coreLeft old c g w) := s.workLeft_modCore g c _ rfl

theorem State.workLeft_makeWork (c : Nat) (w : Work) : WorkLeft g s (s.makeWork c g w).1 := by
  have hwrite := s.workLeft_writeAll g (joinRuns w.writes)
  unfold State.makeWork
  split
  next t e h => rwa [h] at hwrite
  next t h =>
    rw [h] at hwrite
    split
    · exact hwrite
    · exact (hwrite.trans (t.workLeft_accessed g _ _ _)).trans (State.workLeft_coreLeft _ g s c w)

theorem State.workLeft_chainTile (c : Nat) (d blk : Bytes) (out : Option (Nat × Nat)) (ws : List Walker) (n : Nat) :
    WorkLeft g s (s.chainTile c g d blk out ws n).1 := by
  unfold State.chainTile
  split
  · unfold State.chainVec
    split
    · exact .refl g s
    · exact s.workLeft_vecTile g _ _ _ _
  · exact s.workLeft_makeWork g c _

theorem State.workLeft_moveAll (b : MoveBody) (n at' : Nat) : WorkLeft g s (s.moveAll g b n at').1 := by
  induction n generalizing s at' with
  | zero => exact .refl g s
  | succ n ih =>
    have hmove : WorkLeft g s (s.moveTile g b at').1 := by
      have hwrite := WorkLeft.of_sameButMem (g := g) (s.moveWrites_same g (s.movePlan g b at').sums (joinRuns (s.movePlan g b at').writes))
      unfold State.moveTile
      extract_lets pl
      split
      next t e h => rwa [h] at hwrite
      next t h => rwa [h] at hwrite
    rw [State.moveAll]
    split
    · exact .refl g s
    · split
      next t e h => rwa [h] at hmove
      next t h =>
        rw [h] at hmove
        exact (hmove.trans (t.workLeft_accessed g _ _ _)).trans (ih _ _)

end

/-! ### Replays (R187 to R190, R193) -/

section
variable (s : State) (g : Nat)

theorem State.workLeft_deliver (e : StashEntry) (dst at0 n : Nat) (els : List Bytes) : WorkLeft g s (s.deliver g e dst at0 n els).1 :=
  s.workLeft_writeAll g _

theorem State.workLeft_placeStep (x : Spec) (h dst k : Nat) : WorkLeft g s (s.placeStep g x h dst k).1 := by
  unfold State.placeStep
  split
  · exact .refl g s
  next e _ =>
    split
    · exact .refl g s
    · split
      · exact .refl g s
      · split
        next els _ =>
          have hwrite := s.workLeft_deliver g e dst 0 e.keepBytes els
          split
          next t f h => rwa [h] at hwrite
          next t h =>
            rw [h] at hwrite
            exact hwrite.trans (t.workLeft_accessed g _ _ _)
        · split
          · exact .refl g s
          · split <;> exact .refl g s

theorem State.workLeft_stepNow (x : Spec) (st : RStep) : WorkLeft g s (s.stepNow g x st).1 := by
  cases st with
  | place h dst k => exact s.workLeft_placeStep g x h dst k
  | leave gr => exact .refl g s
  | squeeze h dst =>
    rw [State.stepNow]
    split
    · exact .refl g s
    next e _ =>
      have hsqueeze : WorkLeft g s (s.squeezeInPlace g e dst).1 := by
        unfold State.squeezeInPlace
        split
        · exact .refl g s
        · exact s.workLeft_deliver g _ _ _ _ _
      split
      next t f h => rwa [h] at hsqueeze
      next t h =>
        rw [h] at hsqueeze
        exact hsqueeze.trans (t.workLeft_accessed g _ _ _)
  | chain d out =>
    have hmove : WorkLeft g s (s.chainMove g d out).1 := s.workLeft_moveAll g _ _ _
    rw [State.stepNow]
    split
    next t f h => rwa [h] at hmove
    next t h => rwa [h] at hmove

theorem State.workLeft_replayOn (n : Nat) (x : Spec) : WorkLeft g s (s.replayOn g n x).1 := by
  induction n generalizing s x with
  | zero => exact .refl g s
  | succ n ih =>
    unfold State.replayOn
    dsimp only
    split
    · exact .refl g s
    next st rest _ =>
      have hstep := s.workLeft_stepNow g x st
      split
      · exact .refl g s
      · exact ih _ _
      · exact .refl g s
      · split
        next t f h => rwa [h] at hstep
        next t p h =>
          rw [h] at hstep
          split
          · exact hstep.trans (ih _ _)
          · exact hstep

theorem State.workLeft_dropSpec (h : Nat) : WorkLeft g s (s.dropSpec g h) := by
  unfold State.dropSpec
  split
  · exact .refl g s
  next x _ =>
    have hforgot : WorkLeft g s ((s.cutReplay g (· == x.no)).forgetSpec g h) :=
      (s.tilesLeft_cutReplay g _).workLeft.trans (State.workLeft_modStash _ g _)
    dsimp only
    split
    · split
      · exact (hforgot.trans (State.workLeft_writeVa _ g _ _)).trans (State.workLeft_writeVa _ g _ _)
      · exact hforgot
    · exact hforgot

theorem State.workLeft_replayFail (x : Spec) (e : Fail) : WorkLeft g s (s.replayFail g x e) := by
  unfold State.replayFail
  split
  · exact s.workLeft_dropSpec g _
  · exact s.workLeft_jobFault g _ _ _ _

theorem State.workLeft_replayGo (x : Spec) : WorkLeft g s (s.replayGo g x) := by
  have hon := s.workLeft_replayOn g replayFuel x
  unfold State.replayGo
  split
  next t y h =>
    rw [h] at hon
    exact hon.trans (t.workLeft_modStash g _)
  next t e h =>
    rw [h] at hon
    exact hon.trans (t.workLeft_replayFail g x e)

theorem State.workLeft_replayTile (c : Nat) (x : Spec) (ws : List Walker) (n : Nat) : WorkLeft g s (s.replayTile c g x ws n) := by
  unfold State.replayTile
  split
  · exact .refl g s
  next d out _ =>
    have hchain := s.workLeft_chainTile g c d x.block out ws n
    split
    next t e h =>
      rw [h] at hchain
      exact hchain.trans (t.workLeft_replayFail g x e)
    next t h =>
      rw [h] at hchain
      dsimp only
      split
      · exact hchain.trans (t.workLeft_replayGo g _)
      · exact hchain.trans (t.workLeft_modStash g _)

theorem State.workLeft_replayEnd (c : Nat) (ws : List Walker) (k : TileRun) (no : Nat) : WorkLeft k.g s (s.replayEnd c ws k no) := by
  have hrun := s.workLeft_modRun k.g k.q k.seq fun r => { r with onCores := r.onCores - 1 }
  unfold State.replayEnd
  extract_lets t
  split
  · exact hrun.trans (State.workLeft_abortNow _ k.g k.q)
  · split
    · exact hrun.trans (State.workLeft_replayTile _ k.g _ _ _ _)
    · split
      · exact (hrun.trans (State.workLeft_chainTile _ k.g _ _ _ _ _ _)).trans (State.workLeft_abortNow _ k.g k.q)
      · exact hrun.trans (State.workLeft_abortNow _ k.g k.q)

end

/-! ### Pips stay granted -/

/-- Every die's ledger has as many pips granted as before. -/
def SameGranted (s t : State) : Prop := ∀ d, (t.die d).granted = (s.die d).granted

section
variable {s t u : State} {g : Nat}

theorem SameGranted.refl (s : State) : SameGranted s s := fun _ => rfl

theorem SameGranted.trans (h : SameGranted s t) (k : SameGranted t u) : SameGranted s u := fun d => (k d).trans (h d)

theorem SameGranted.of_dies (h : t.dies = s.dies) : SameGranted s t := fun d => by rw [State.die, h, State.die]

end

section
variable (s : State) (g : Nat)

/-- The lines that a write to n bytes from a leaves valid in a die's cache. -/
def Die.linesBeside (a n : Nat) (x : Die) : Die := { x with lines := x.lines.filter fun l => l < a / 128 || a + n ≤ l * 128 }

theorem State.die_hbmWrite (p a : Nat) (bs : Bytes) (d : Nat) :
    (s.hbmWrite p a bs).die d = (s.die d).linesBeside (hbmKey p a) bs.length :=
  mapGet_map_value ({} : Die) s.dies (Die.linesBeside (hbmKey p a) bs.length) rfl d

theorem State.sameGranted_hbmWrite (p a : Nat) (bs : Bytes) : SameGranted s (s.hbmWrite p a bs) := fun d => by
  rw [State.die_hbmWrite]
  rfl

theorem State.sameGranted_hostWrite (h a : Nat) (bs : Bytes) : SameGranted s (s.hostWrite h a bs) := by
  unfold State.hostWrite
  split <;> exact .of_dies rfl

theorem State.sameGranted_writeSegs (l : List (Nat × Nat)) (bs : Bytes) : SameGranted s (s.writeSegs g l bs).1 := by
  induction l generalizing s bs with
  | nil => exact .refl s
  | cons e rest ih =>
    obtain ⟨va, n⟩ := e
    simp only [State.writeSegs]
    split
    · exact .refl s
    next t h =>
      refine SameGranted.trans ?_ (ih t _)
      rcases s.writeSeg_cases t g va _ h with ⟨x, -, -, rfl⟩ | ⟨x, -, -, rfl⟩
      · exact s.sameGranted_hbmWrite _ _ _
      · exact s.sameGranted_hostWrite _ _ _

theorem State.sameGranted_writeVa (va : Nat) (bs : Bytes) : SameGranted s (s.writeVa g va bs).1 := s.sameGranted_writeSegs g _ bs

/-- A work tile that has no pips yet leaves its core. -/
theorem State.sameGranted_freeCore {c : Nat} (h : ∀ k, (s.core c).tile = some k → k.startAt = none) : SameGranted s (s.freeCore c) := by
  unfold State.freeCore
  split
  · exact .refl s
  next k hk =>
    intro d
    by_cases hd : d = dieOfCore c
    · rw [hd, State.die_modDie_same, h k hk]
      rfl
    · rw [State.die_modDie_ne _ _ _ _ hd]
      rfl

theorem State.sameGranted_returnTile (k : TileRun) : SameGranted s (s.returnTile k) := by
  unfold State.returnTile
  cases k.replay <;> exact .of_dies rfl

theorem State.sameGranted_dropWaiting : SameGranted s (s.dropWaiting g) := by
  refine (List.foldlRecOn (motive := fun t => SameGranted s t ∧ NoNewTiles s t) _ _ ⟨.refl s, .refl s⟩ fun t ht c hc => ?_).1
  cases hk : (t.core c).tile with
  | none => exact ht
  | some k =>
    have hwaits (x : TileRun) (hx : (t.core c).tile = some x) : x.startAt = none := by
      simp only [State.coresWith, List.mem_filter, ht.2 c x hx, Bool.and_eq_true, Option.isNone_iff_eq_none] at hc
      exact hc.2.2
    refine ⟨(ht.1.trans (t.sameGranted_freeCore hwaits)).trans (State.sameGranted_returnTile _ k), ?_⟩
    refine (ht.2.trans (t.noNewTiles_freeCore c)).trans fun j x hx => ?_
    rwa [State.core_returnTile] at hx

theorem State.sameGranted_faultCtx (q seq status tile : Nat) : SameGranted s (s.faultCtx g q seq status tile) := by
  have hstop (u : State) : SameGranted u (u.stopQueues g) :=
    List.foldlRecOn _ _ (SameGranted.refl u) fun _ ht _ _ => ht.trans (.of_dies rfl)
  rw [State.faultCtx_eq]
  refine SameGranted.trans (.of_dies ?_) ((State.sameGranted_dropWaiting _ g).trans (hstop _))
  rw [State.modCtx_dies, State.chargedFault_frame]

theorem State.sameGranted_jobFault (q seq status tile : Nat) : SameGranted s (s.jobFault g q seq status tile) := by
  have hfinish (u : State) : SameGranted u (u.finish g q seq status) := by
    unfold State.finish
    split
    · exact .refl u
    · exact .of_dies rfl
  unfold State.jobFault
  split
  · exact .refl s
  · refine SameGranted.trans ?_ (State.sameGranted_faultCtx _ g q seq status tile)
    exact SameGranted.trans (t := s.chargeBusy g _) (.of_dies rfl) (hfinish _)

end

/-! ### Descriptors that stop with no work tile on a core (R56) -/

section
variable (u : Queue) {r : Run} {n : Nat}

theorem Queue.runs_finish (status : Nat) : (u.finish r status n).runs = u.runs.filter (·.seq != r.seq) := by
  unfold Queue.finish Queue.settle
  dsimp only
  split <;> rfl

theorem Queue.held_finish (status : Nat) : ∃ x : HeldRec, x.seq = r.seq ∧ x.status = status ∧ (u.finish r status n).held = u.held ++ [x] := by
  unfold Queue.finish Queue.settle
  dsimp only
  split <;> exact ⟨_, rfl, rfl, rfl⟩

/-- Descriptors that finish one after another are started no longer, and each has its record. -/
theorem Queue.finishAll (l : List Run) (status n : Nat) (u : Queue) :
    (∀ x ∈ (l.foldl (fun u r => u.finish r status n) u).runs, x ∈ u.runs ∧ ∀ r ∈ l, x.seq ≠ r.seq) ∧
      (∀ h ∈ u.held, h ∈ (l.foldl (fun u r => u.finish r status n) u).held) ∧
      ∀ r ∈ l, ∃ h ∈ (l.foldl (fun u r => u.finish r status n) u).held, h.seq = r.seq ∧ h.status = status := by
  induction l generalizing u with
  | nil => exact ⟨fun x hx => ⟨hx, fun r hr => absurd hr List.not_mem_nil⟩, fun h hh => hh, fun r hr => absurd hr List.not_mem_nil⟩
  | cons r l ih =>
    obtain ⟨hruns, hheld, hrec⟩ := ih (u.finish r status n)
    obtain ⟨y, hseq, hstatus, hy⟩ := u.held_finish (r := r) (n := n) status
    refine ⟨fun x hx => ?_, fun h hh => hheld h (by rw [hy]; exact List.mem_append_left _ hh), fun x hx => ?_⟩
    · obtain ⟨hmem, hother⟩ := hruns x hx
      rw [Queue.runs_finish, List.mem_filter] at hmem
      refine ⟨hmem.1, fun z hz => ?_⟩
      rcases List.mem_cons.1 hz with rfl | hz
      · simpa using hmem.2
      · exact hother z hz
    · rcases List.mem_cons.1 hx with rfl | hx
      · exact ⟨y, hheld y (by rw [hy]; exact List.mem_append_right _ List.mem_cons_self), hseq, hstatus⟩
      · exact hrec x hx

/-- A descriptor that is stopping and has no work tile on a core ends ABORTED. -/
theorem Queue.abortIdle_of_idle {u : Queue} (hr : r ∈ u.runs) (habort : r.aborting = true) (hidle : r.onCores = 0) :
    (abortIdle n u).run r.seq = none ∧ ∃ h ∈ (abortIdle n u).held, h.seq = r.seq ∧ h.status = 0x02 := by
  have hmem : r ∈ u.runs.filter fun r => r.aborting && r.onCores == 0 := List.mem_filter.2 ⟨hr, by simp [habort, hidle]⟩
  obtain ⟨hruns, -, hrec⟩ := Queue.finishAll (u.runs.filter fun r => r.aborting && r.onCores == 0) stAborted n u
  exact ⟨List.find?_eq_none.2 fun x hx => by simpa using (hruns x hx).2 r hmem, hrec r hmem⟩

end

/-! ### A work tile leaves its core (R419) -/

section
variable {s : State} {c : Nat} {k : TileRun}

theorem State.tile_leaveTile (s : State) (c : Nat) (k : TileRun) : ((s.leaveTile c k).core c).tile = none := by
  have hfree : ((s.freeCore c).core c).tile = none := by rw [State.tile_freeCore, if_pos rfl]
  unfold State.leaveTile
  cases k.startAt <;> exact hfree

theorem State.queue_leaveTile (s : State) (c : Nat) (k : TileRun) (g q : Nat) : (s.leaveTile c k).queue g q = s.queue g q := by
  have hfree : (s.freeCore c).queue g q = s.queue g q := by rw [State.queue, State.ctx, State.ctxs_freeCore, State.queue, State.ctx]
  have hkv (f : Kv → Kv) : ((s.freeCore c).modKv k.g f).queue g q = s.queue g q :=
    (State.queue_modCtx_of_queues _ k.g _ rfl g q).trans hfree
  unfold State.leaveTile
  cases k.startAt with
  | none => exact hkv _
  | some a => exact (State.queue_modCtx_of_queues _ k.g _ rfl g q).trans (hkv _)

theorem State.run_leaveTile (s : State) (c : Nat) (k : TileRun) (g q seq : Nat) : (s.leaveTile c k).run g q seq = s.run g q seq := by
  rw [State.run, State.queue_leaveTile, State.run]

/-- A granted work tile that leaves its core returns its pips. -/
theorem State.granted_leaveTile {a : Nat} (hk : (s.core c).tile = some k) (ha : k.startAt = some a) :
    ((s.leaveTile c k).die (c / 18)).granted = (s.die (c / 18)).granted - k.cost := by
  have hfree : ((s.freeCore c).die (c / 18)).granted = (s.die (c / 18)).granted - k.cost := by
    unfold State.freeCore
    rw [hk]
    simp only [ha, Option.isSome_some, if_true]
    exact congrArg Die.granted (State.die_modDie_same _ (dieOfCore c) _)
  unfold State.leaveTile
  rw [ha]
  exact hfree

end

/-! ### A finished work tile is accounted to its descriptor (R156) -/

section
variable (s : State) (k : TileRun) (r : Run)

/-- The finished work tile noted in its descriptor. -/
def State.tileCounted (s : State) (k : TileRun) : State :=
  s.modRun k.g k.q k.seq fun r => { r with onCores := r.onCores - 1, done := k.idx :: r.done }

theorem State.mergeTile_left (g : Nat) (l : List Tally) : WorkLeft g s (s.mergeTile g l).1 ∧ SameGranted s (s.mergeTile g l).1 := by
  have hone (t : State) (y : Tally) : WorkLeft g t (t.mergeTally g y).1 ∧ SameGranted t (t.mergeTally g y).1 := by
    unfold State.mergeTally
    split
    · exact ⟨.refl g t, .refl t⟩
    · exact ⟨t.workLeft_writeVa g _ _, t.sameGranted_writeVa g _ _⟩
  induction l generalizing s with
  | nil => exact ⟨.refl g s, .refl s⟩
  | cons y l ih =>
    obtain ⟨hleft, hgranted⟩ := hone s y
    rw [State.mergeTile, inTurn]
    split
    next t e h =>
      rw [h] at hleft hgranted
      exact ⟨hleft, hgranted⟩
    next t h =>
      rw [h] at hleft hgranted
      exact ⟨hleft.trans (ih t).1, hgranted.trans (ih t).2⟩

theorem State.onlyCtx_noteProgress (g q seq : Nat) : OnlyCtx g s (s.noteProgress g q seq r) := by
  have hsignal (t : State) (op n i : Nat) : OnlyCtx g t (t.signal g op n i) := by
    unfold State.signal
    split
    · exact .refl g t
    · exact t.onlyCtx_setCounter g _ _
  unfold State.noteProgress
  dsimp only
  split
  · exact .refl g s
  · split
    · exact .refl g s
    · split
      · exact (s.onlyCtx_modRun g q seq _).trans (hsignal _ _ _ _)
      · exact .refl g s

theorem State.run_noteProgress {g q seq : Nat} {y : Run} (hy : s.run g q seq = some y) :
    ∃ w, (s.noteProgress g q seq r).run g q seq = some { y with watermark := w } := by
  have hsignal (t : State) (op n i : Nat) : (t.signal g op n i).run g q seq = t.run g q seq := by
    unfold State.signal
    split
    · rfl
    · rw [State.run, State.setCounter, State.queue_modCtx_of_queues _ g _ rfl, State.run]
  unfold State.noteProgress
  dsimp only
  split
  · exact ⟨y.watermark, hy⟩
  · split
    · exact ⟨y.watermark, hy⟩
    · split
      · exact ⟨_, (hsignal _ _ _ _).trans (s.run_modRun_of_some g q seq _ y hy fun _ => rfl)⟩
      · exact ⟨y.watermark, hy⟩

theorem State.tileDone_left : WorkLeft k.g s (s.tileDone k r) ∧ SameGranted s (s.tileDone k r) := by
  have hcount : WorkLeft k.g s (s.tileCounted k) ∧ SameGranted s (s.tileCounted k) := ⟨s.workLeft_modRun k.g k.q k.seq _, .of_dies rfl⟩
  obtain ⟨hleft, hgranted⟩ := (s.tileCounted k).mergeTile_left k.g (r.tallies.filter fun y => y.tile == k.idx)
  have habort (t : State) : WorkLeft k.g t (t.abortNow k.g k.q) ∧ SameGranted t (t.abortNow k.g k.q) :=
    ⟨t.workLeft_abortNow k.g k.q, .of_dies rfl⟩
  have hprogress (t : State) (x : Run) : WorkLeft k.g t (t.noteProgress k.g k.q k.seq x) ∧ SameGranted t (t.noteProgress k.g k.q k.seq x) :=
    ⟨.of_onlyCtx (t.onlyCtx_noteProgress x k.g k.q k.seq), .of_dies (by rw [(t.onlyCtx_noteProgress x k.g k.q k.seq).1])⟩
  unfold State.tileDone
  rw [← State.tileCounted]
  dsimp only
  split
  next t e h =>
    rw [h] at hleft hgranted
    split
    · exact ⟨(hcount.1.trans hleft).trans (habort t).1, (hcount.2.trans hgranted).trans (habort t).2⟩
    · exact ⟨(hcount.1.trans hleft).trans (t.workLeft_jobFault k.g _ _ _ _), (hcount.2.trans hgranted).trans (t.sameGranted_jobFault k.g _ _ _ _)⟩
  next t h =>
    rw [h] at hleft hgranted
    split
    · exact ⟨(hcount.1.trans hleft).trans (habort t).1, (hcount.2.trans hgranted).trans (habort t).2⟩
    · exact ⟨(hcount.1.trans hleft).trans (hprogress t _).1, (hcount.2.trans hgranted).trans (hprogress t _).2⟩

/-- A work tile that holds no tally merges none. -/
theorem State.tileDone_of_no_tally (h : ∀ y ∈ r.tallies, y.tile ≠ k.idx) :
    s.tileDone k r = if r.aborting then (s.tileCounted k).abortNow k.g k.q
      else (s.tileCounted k).noteProgress k.g k.q k.seq { r with done := k.idx :: r.done } := by
  have hnone : (r.tallies.filter fun y => y.tile == k.idx) = [] := List.filter_eq_nil_iff.2 fun y hy => by simpa using h y hy
  unfold State.tileDone
  rw [hnone]
  rfl

section
variable {s k r} (hrun : s.run k.g k.q k.seq = some r) (h : ∀ y ∈ r.tallies, y.tile ≠ k.idx)
include h

theorem State.tileDone_memories : (s.tileDone k r).hbm = s.hbm ∧ (s.tileDone k r).host0 = s.host0 ∧ (s.tileDone k r).host1 = s.host1 := by
  rw [State.tileDone_of_no_tally _ _ _ h]
  split
  · exact ⟨rfl, rfl, rfl⟩
  · rw [(State.onlyCtx_noteProgress _ _ _ _ _).1]
    exact ⟨rfl, rfl, rfl⟩

include hrun

omit h in
theorem State.run_tileCounted : (s.tileCounted k).run k.g k.q k.seq = some { r with onCores := r.onCores - 1, done := k.idx :: r.done } :=
  s.run_modRun_of_some k.g k.q k.seq _ r hrun fun _ => rfl

theorem State.tileDone_goes_on (hgoing : r.aborting = false) :
    ∃ y, (s.tileDone k r).run k.g k.q k.seq = some y ∧ y.done = k.idx :: r.done ∧ y.onCores = r.onCores - 1 := by
  rw [State.tileDone_of_no_tally _ _ _ h, if_neg (by simp [hgoing])]
  obtain ⟨w, hw⟩ := State.run_noteProgress _ { r with done := k.idx :: r.done } (State.run_tileCounted hrun)
  exact ⟨_, hw, rfl, rfl⟩

/-- The last work tile of a descriptor that is stopping ends it ABORTED. -/
theorem State.tileDone_aborts (hstop : r.aborting = true) (hlast : r.onCores = 1) :
    (s.tileDone k r).run k.g k.q k.seq = none ∧ ∃ x ∈ ((s.tileDone k r).queue k.g k.q).held, x.seq = r.seq ∧ x.status = 0x02 := by
  have hcount := State.run_tileCounted hrun
  have hseq : r.seq = k.seq := State.seq_of_run hrun
  have hqueue : (s.tileDone k r).queue k.g k.q = abortIdle ((s.tileCounted k).ctxTime k.g) ((s.tileCounted k).queue k.g k.q) := by
    rw [State.tileDone_of_no_tally _ _ _ h, if_pos hstop]
    exact State.queue_modQueue_same _ _ _ _
  have habort := Queue.abortIdle_of_idle (n := (s.tileCounted k).ctxTime k.g) (List.mem_of_find?_eq_some hcount) hstop
    (show r.onCores - 1 = 0 by omega)
  rw [State.run, hqueue, ← hseq]
  exact habort

end

end

/-! ### The row -/

section
variable {s : State} {c a : Nat} {k : TileRun} (hk : (s.core c).tile = some k) (ha : k.startAt = some a)
include hk ha

theorem State.tileEnd_of_gone (h : s.working k.g = false) : s.tileEnd c = s.leaveTile c k := by
  rw [State.tileEnd, hk]
  simp [ha, h]

variable (hworks : s.working k.g = true)
include hworks

theorem State.tileEnd_of_replay {no : Nat} (hreplay : k.replay = some no) :
    s.tileEnd c = (s.leaveTile c k).replayEnd c ((s.ctx k.g).kv.walkers.filter fun w => w.core == c) k no := by
  rw [State.tileEnd, hk]
  simp [ha, hworks, hreplay]

theorem State.tileEnd_of_run (hreplay : k.replay = none) {r : Run} (hrun : s.run k.g k.q k.seq = some r) :
    s.tileEnd c = if k.idx ∈ r.carried then (s.leaveTile c k).tileDone k r else s := by
  rw [State.tileEnd, hk]
  simp [ha, hworks, hreplay, hrun]

end

/-- Settles O20: a work tile ends by what it is of, once it has been carried out. -/
theorem workTileEnds : Obligations.WorkTileEnds := by
  intro s c k a hk ha works leaves
  have hworks : works ↔ s.working k.g = true := by simp [works, State.working]
  have hleave := (s.tilesLeft_leaveTile c k)
  have hgranted := State.granted_leaveTile hk ha
  refine ⟨fun hno => ?gone, fun no hw hreplay => ?replay, fun r hw hreplay hrun => ?run⟩
  case gone =>
    have hrow := State.tileEnd_of_gone hk ha (Bool.eq_false_iff.2 (mt hworks.2 hno))
    exact ⟨_, congrArg Host.Outcome.next hrow, ⟨s.tile_leaveTile c k, hleave.others, hgranted⟩, hleave.memories⟩
  case replay =>
    have hrow := State.tileEnd_of_replay hk ha (hworks.1 hw) hreplay
    have hend := (s.leaveTile c k).workLeft_replayEnd c ((s.ctx k.g).kv.walkers.filter fun w => w.core == c) k no
    exact ⟨_, congrArg Host.Outcome.next hrow, hend.tiles.none_of_none (s.tile_leaveTile c k), (hleave.workLeft.trans hend).others⟩
  case run =>
    have hrow := State.tileEnd_of_run hk ha (hworks.1 hw) hreplay hrun
    have hrun' : (s.leaveTile c k).run k.g k.q k.seq = some r := (s.run_leaveTile c k _ _ _).trans hrun
    obtain ⟨hdone, hkept⟩ := (s.leaveTile c k).tileDone_left k r
    refine ⟨fun hno => congrArg Host.Outcome.next (hrow.trans (if_neg hno)),
      fun hyes => ⟨_, congrArg Host.Outcome.next (hrow.trans (if_pos hyes)), ?_, fun htally => ⟨?_, ?_, ?_, fun hgoing => ?_⟩,
        fun hstop hlast htally => State.tileDone_aborts hrun' htally hstop hlast⟩⟩
    · exact ⟨hdone.tiles.none_of_none (s.tile_leaveTile c k), (hleave.workLeft.trans hdone).others, (hkept _).trans hgranted⟩
    · exact (State.tileDone_memories htally).1.trans hleave.memories.1
    · exact (State.tileDone_memories htally).2.1.trans hleave.memories.2.1
    · exact (State.tileDone_memories htally).2.2.trans hleave.memories.2.2
    · exact State.tileDone_goes_on hrun' htally hgoing

end Sys2Proof.Machine
end

section
/-! The division of the pool (R417). -/
namespace Sys2Proof.Machine

/-! ### Sums of allotments -/

theorem total_eq_sum (l : List Nat) : total l = l.sum := List.sum_eq_foldl.symm

@[simp] theorem nth_nil (i : Nat) : nth 0 [] i = 0 := by simp [nth]
@[simp] theorem nth_cons_zero (a : Nat) (l : List Nat) : nth 0 (a :: l) 0 = a := rfl
@[simp] theorem nth_cons_succ (a : Nat) (l : List Nat) (i : Nat) : nth 0 (a :: l) (i + 1) = nth 0 l i := rfl

theorem nth_eq_getD (l : List Nat) (i : Nat) : nth 0 l i = l.getD i 0 := by
  induction l generalizing i with
  | nil => simp
  | cons a l ih => cases i <;> simp [ih]

theorem nth_set_same {l : List Nat} {i : Nat} (h : i < l.length) (v : Nat) : nth 0 (l.set i v) i = v := by
  rw [nth_eq_getD, List.getD_eq_getElem?_getD, List.getElem?_set_self h, Option.getD_some]

theorem nth_set_ne (l : List Nat) {i j : Nat} (h : j ≠ i) (v : Nat) : nth 0 (l.set i v) j = nth 0 l j := by
  rw [nth_eq_getD, nth_eq_getD, List.getD_eq_getElem?_getD, List.getElem?_set_ne h.symm, List.getD_eq_getElem?_getD]

theorem sum_set_add {l : List Nat} {i : Nat} (h : i < l.length) (v : Nat) : (l.set i v).sum + nth 0 l i = l.sum + v := by
  induction l generalizing i with
  | nil => exact absurd h (Nat.not_lt_zero i)
  | cons a l ih =>
    cases i with
    | zero => simp only [List.set_cons_zero, List.sum_cons, nth_cons_zero]; omega
    | succ i =>
      have := ih (Nat.lt_of_succ_lt_succ h)
      simp only [List.set_cons_succ, List.sum_cons, nth_cons_succ]
      omega

theorem sum_le_of_nth {a b : List Nat} (hlen : a.length = b.length) (h : ∀ i, i < a.length → nth 0 a i ≤ nth 0 b i) : a.sum ≤ b.sum := by
  induction a generalizing b with
  | nil => exact Nat.zero_le _
  | cons x a ih =>
    cases b with
    | nil => exact absurd hlen (by simp)
    | cons y b =>
      have hhead : x ≤ y := h 0 (Nat.succ_pos _)
      have htail := ih (Nat.succ.inj hlen) fun i hi => h (i + 1) (Nat.succ_lt_succ hi)
      simp only [List.sum_cons]
      omega

/-! ### The rounds (R417) -/

theorem length_roundOf (demand allot : List Nat) (share : Nat) (h : demand.length = allot.length) :
    (roundOf demand allot share).length = allot.length := by simp [roundOf, h]

/-- A round gives at most a share to each die whose demand is unmet. -/
theorem sum_roundOf (demand allot : List Nat) (share : Nat) :
    (roundOf demand allot share).sum ≤ allot.sum + ((List.zip allot demand).filter fun x => x.1 < x.2).length * share := by
  induction allot generalizing demand with
  | nil => simp [roundOf]
  | cons a allot ih =>
    cases demand with
    | nil => simp [roundOf]
    | cons d demand =>
      have hrest := ih demand
      simp only [roundOf, List.zipWith_cons_cons, List.sum_cons, List.zip_cons_cons] at hrest ⊢
      by_cases hunmet : a < d
      · rw [List.filter_cons_of_pos (by simpa using hunmet), List.length_cons, Nat.succ_mul]
        omega
      · rw [List.filter_cons_of_neg (by simpa using hunmet)]
        omega

/-- The rounds keep within the pool. -/
theorem rounds_within (pool : Nat) {demand : List Nat} (n : Nat) {allot : List Nat} (hlen : demand.length = allot.length)
    (h : allot.sum ≤ pool) : (rounds pool demand n allot).length = allot.length ∧ (rounds pool demand n allot).sum ≤ pool := by
  induction n generalizing allot with
  | zero => exact ⟨rfl, h⟩
  | succ n ih =>
    rw [rounds]
    generalize hunmet : ((List.zip allot demand).filter fun x => x.1 < x.2).length = unmet
    generalize hshare : (if unmet = 0 then 0 else (pool - total allot) / unmet) = share
    split
    · exact ⟨rfl, h⟩
    next hsome =>
      have hround := length_roundOf demand allot share hlen
      have hsum := sum_roundOf demand allot share
      have hgiven : unmet * share ≤ pool - allot.sum := by
        rw [← hshare, if_neg fun h0 => hsome (hshare.symm.trans (if_pos h0)), ← total_eq_sum]
        exact Nat.mul_div_le _ unmet
      rw [hunmet] at hsum
      obtain ⟨hlength, hwithin⟩ := ih (hlen.trans hround.symm) (show (roundOf demand allot share).sum ≤ pool by omega)
      exact ⟨hlength.trans hround, hwithin⟩

/-! ### The minimums (R417) -/

/-- What giving a shortfall to die d makes of the allotments: those of the dies in `os` fall to no less than their minimums, and
either the shortfall is covered or they are all down to them. -/
structure Gives (mins : List Nat) (d : Nat) (os : List Nat) (short : Nat) (a b : List Nat) : Prop where
  length : b.length = a.length
  own : nth 0 b d = nth 0 a d
  falls : ∀ i, nth 0 b i ≤ nth 0 a i
  keeps : ∀ i, nth 0 mins i ≤ nth 0 a i → nth 0 mins i ≤ nth 0 b i
  least : a.sum ≤ b.sum + short
  most : b.sum ≤ a.sum
  covered : b.sum + short = a.sum ∨ ∀ i ∈ os, i ≠ d → nth 0 b i ≤ nth 0 mins i

theorem giveFor_gives (mins : List Nat) (d : Nat) (os : List Nat) (short : Nat) (a : List Nat) (hos : ∀ o ∈ os, o < a.length) :
    Gives mins d os short a (giveFor mins d os short a) := by
  induction os generalizing short a with
  | nil => exact ⟨rfl, rfl, fun _ => le_rfl, fun _ h => h, Nat.le_add_right _ _, le_rfl, .inr fun i hi => absurd hi List.not_mem_nil⟩
  | cons o rest ih =>
    have hrest : ∀ x ∈ rest, x < a.length := fun x hx => hos x (List.mem_cons_of_mem o hx)
    rw [giveFor]
    split
    next hod =>
      obtain ⟨hlen, hown, hfalls, hkeeps, hleast, hmost, hcov⟩ := ih short a hrest
      refine ⟨hlen, hown, hfalls, hkeeps, hleast, hmost, hcov.imp_right fun h i hi hid => ?_⟩
      exact h i ((List.mem_cons.1 hi).resolve_left fun hio => hid (hio.trans hod)) hid
    next hod =>
      extract_lets k
      have ho : o < a.length := hos o List.mem_cons_self
      have hset := sum_set_add ho (nth 0 a o - k)
      have hk : k = min short (nth 0 a o - nth 0 mins o) := rfl
      obtain ⟨hlen, hown, hfalls, hkeeps, hleast, hmost, hcov⟩ := ih (short - k) (a.set o (nth 0 a o - k)) (by simpa using hrest)
      have hnth (i : Nat) : nth 0 (a.set o (nth 0 a o - k)) i = if i = o then nth 0 a o - k else nth 0 a i := by
        split
        next hi => rw [hi, nth_set_same ho]
        next hi => rw [nth_set_ne _ hi]
      clear_value k
      refine ⟨by simpa using hlen, hown.trans (nth_set_ne _ (Ne.symm hod) _), fun i => (hfalls i).trans ?_, fun i hi => hkeeps i ?_,
        by omega, by omega, ?_⟩
      · rw [hnth]
        split
        next hi => rw [hi]; omega
        next => exact le_rfl
      · rw [hnth]
        split
        next hio => rw [hio] at hi ⊢; omega
        next => exact hi
      · by_cases hall : k = short
        · exact .inl (by omega)
        · rcases hcov with hc | hc
          · exact .inl (by omega)
          · refine .inr fun i hi hid => ?_
            rcases List.mem_cons.1 hi with rfl | hi
            · have := hfalls i
              rw [hnth, if_pos rfl] at this
              omega
            · exact hc i hi hid

/-- One die's minimum met. -/
def meetMin (mins a : List Nat) (d : Nat) : List Nat :=
  if nth 0 mins d - nth 0 a d = 0 then a
  else giveFor mins d [7, 6, 5, 4, 3, 2, 1, 0] (nth 0 mins d - nth 0 a d) (a.set d (nth 0 mins d))

theorem meetMins_eq (mins a : List Nat) : meetMins mins a = (List.range 8).foldl (meetMin mins) a := rfl

/-- A die that has its minimum keeps it while others are given theirs, and the pool is not passed. -/
theorem meetMin_met {pool : Nat} {mins a : List Nat} (hmins : mins.length = 8) (hfit : mins.sum ≤ pool) (hlen : a.length = 8)
    (hsum : a.sum ≤ pool) {d : Nat} (hd : d < 8) :
    (meetMin mins a d).length = 8 ∧ (meetMin mins a d).sum ≤ pool ∧ nth 0 mins d ≤ nth 0 (meetMin mins a d) d ∧
      ∀ i, nth 0 mins i ≤ nth 0 a i → nth 0 mins i ≤ nth 0 (meetMin mins a d) i := by
  unfold meetMin
  split
  next hmet => exact ⟨hlen, hsum, Nat.le_of_sub_eq_zero hmet, fun _ h => h⟩
  next hshort =>
    have hda : d < a.length := hlen ▸ hd
    have hset := sum_set_add hda (nth 0 mins d)
    obtain ⟨hlength, hown, -, hkeeps, hleast, hmost, hcov⟩ := giveFor_gives mins d [7, 6, 5, 4, 3, 2, 1, 0] (nth 0 mins d - nth 0 a d)
      (a.set d (nth 0 mins d)) (by simp [hlen])
    rw [nth_set_same hda] at hown
    rw [List.length_set, hlen] at hlength
    refine ⟨hlength, ?_, hown.ge, fun i hi => hkeeps i ?_⟩
    · rcases hcov with hcovered | hleft
      · omega
      · refine (sum_le_of_nth (hlength.trans hmins.symm) fun i hi => ?_).trans hfit
        rw [hlength] at hi
        by_cases hid : i = d
        · rw [hid, hown]
        · refine hleft i ?_ hid
          simp only [List.mem_cons, List.not_mem_nil]
          omega
    · by_cases hid : i = d
      · rw [hid, nth_set_same hda]
      · rwa [nth_set_ne _ hid]

/-- The minimums of dies met one after another. -/
theorem meetMin_foldl {pool : Nat} {mins : List Nat} (hmins : mins.length = 8) (hfit : mins.sum ≤ pool) (l : List Nat)
    (hl : ∀ d ∈ l, d < 8) {a : List Nat} (hlen : a.length = 8) (hsum : a.sum ≤ pool) :
    (l.foldl (meetMin mins) a).length = 8 ∧ (l.foldl (meetMin mins) a).sum ≤ pool ∧
      ∀ i, i ∈ l ∨ nth 0 mins i ≤ nth 0 a i → nth 0 mins i ≤ nth 0 (l.foldl (meetMin mins) a) i := by
  induction l generalizing a with
  | nil => exact ⟨hlen, hsum, fun i hi => hi.resolve_left List.not_mem_nil⟩
  | cons d l ih =>
    obtain ⟨hlength, hwithin, hown, hkeeps⟩ := meetMin_met hmins hfit hlen hsum (hl d List.mem_cons_self)
    obtain ⟨hlength', hwithin', hall⟩ := ih (fun x hx => hl x (List.mem_cons_of_mem d hx)) hlength hwithin
    refine ⟨hlength', hwithin', fun i hi => hall i ?_⟩
    rcases hi with hmem | hhas
    · rcases List.mem_cons.1 hmem with rfl | hmem
      · exact .inr hown
      · exact .inl hmem
    · exact .inr (hkeeps i hhas)

/-! ### Minimums that do not fit -/

theorem sum_map_div_le (pool : Nat) (l : List Nat) (t : Nat) : (l.map fun m => pool * m / t).sum ≤ pool * l.sum / t := by
  induction l with
  | nil => simp
  | cons m l ih =>
    rw [List.map_cons, List.sum_cons, List.sum_cons, Nat.mul_add]
    exact (Nat.add_le_add_left ih _).trans Nat.div_add_div_le_add_div

theorem map_nth_range (l : List Nat) : (List.range l.length).map (nth 0 l) = l := by
  refine List.ext_getElem (by simp) fun i _ hi => ?_
  simp [nth_eq_getD, hi]

/-- One each for what is left is no more than is left. -/
theorem sum_ones_le (n left : Nat) : ((List.range n).map fun d => if d < left then 1 else 0).sum ≤ left := by
  have hmin : ((List.range n).map fun d => if d < left then 1 else 0).sum ≤ min n left := by
    induction n with
    | zero => simp
    | succ n ih =>
      rw [List.range_succ, List.map_append, List.sum_append]
      simp only [List.map_cons, List.map_nil, List.sum_cons, List.sum_nil]
      split <;> omega
  omega

/-- In proportion, the minimums take no more than the pool, and the remainder no more than is left. -/
theorem shareMins_within {pool : Nat} {mins : List Nat} (hmins : mins.length = 8) (hover : pool < mins.sum) :
    (shareMins pool mins).length = 8 ∧ (shareMins pool mins).sum ≤ pool := by
  unfold shareMins
  extract_lets base left
  have hbase : base.sum ≤ pool := by
    refine (sum_map_div_le pool mins (total mins)).trans ?_
    rw [total_eq_sum, Nat.mul_div_cancel _ (Nat.lt_of_le_of_lt (Nat.zero_le _) hover)]
  have hlen : base.length = 8 := (List.length_map _).trans hmins
  have hleft : left = pool - base.sum := by rw [← total_eq_sum]
  have hones := sum_ones_le 8 left
  refine ⟨by simp, ?_⟩
  have hsplit : ((List.range 8).map fun d => nth 0 base d + if d < left then 1 else 0).sum =
      base.sum + ((List.range 8).map fun d => if d < left then 1 else 0).sum := by
    rw [List.sum_map_add, ← hlen, map_nth_range]
  omega

theorem sum_map_add_const (l : List Nat) (c : Nat) : (l.map (· + c)).sum = l.sum + l.length * c := by
  rw [List.sum_map_add, List.map_id', List.map_const', List.sum_replicate, smul_eq_mul]

/-- The division before the minimums keeps within the pool. -/
theorem firstShare_within {pool : Nat} {demand : List Nat} (hlen : demand.length = 8) :
    (if total demand ≤ pool then demand.map (· + (pool - total demand) / 8) else rounds pool demand 16 (List.replicate 8 0)).length = 8 ∧
      (if total demand ≤ pool then demand.map (· + (pool - total demand) / 8)
        else rounds pool demand 16 (List.replicate 8 0)).sum ≤ pool := by
  split
  next hfit =>
    rw [total_eq_sum] at hfit ⊢
    refine ⟨by simp [hlen], ?_⟩
    rw [sum_map_add_const, hlen]
    omega
  next => exact rounds_within pool 16 (by simp [hlen]) (by simp)

theorem divide_within {pool : Nat} {demand mins : List Nat} (hdemand : demand.length = 8) (hmins : mins.length = 8) :
    (divide pool demand mins).length = 8 ∧ (divide pool demand mins).sum ≤ pool ∧
      (mins.sum ≤ pool → ∀ d, d < 8 → nth 0 mins d ≤ nth 0 (divide pool demand mins) d) := by
  unfold divide
  split
  next hover =>
    rw [total_eq_sum] at hover
    obtain ⟨hlen, hsum⟩ := shareMins_within hmins hover
    exact ⟨hlen, hsum, fun hfit => absurd hfit (Nat.not_le.2 hover)⟩
  next hfit =>
    rw [total_eq_sum] at hfit
    obtain ⟨hlen, hsum⟩ := firstShare_within (pool := pool) hdemand
    obtain ⟨hlength, hwithin, hall⟩ := meetMin_foldl hmins (Nat.not_lt.1 hfit) (List.range 8) (fun d => List.mem_range.1) hlen hsum
    exact ⟨hlength, hwithin, fun _ d hd => hall d (.inl (List.mem_range.2 hd))⟩

/-! ### The division carried out -/

theorem State.die_foldl_modDie {f : Nat → Die → Die} {l : List Nat} (hl : l.Nodup) (s : State) (d : Nat) :
    (l.foldl (fun s d => s.modDie d (f d)) s).die d = if d ∈ l then f d (s.die d) else s.die d := by
  induction l generalizing s with
  | nil => rfl
  | cons a l ih =>
    obtain ⟨ha, hl⟩ := List.nodup_cons.1 hl
    rw [List.foldl_cons, ih hl]
    by_cases hd : d = a
    · rw [hd, if_neg ha, if_pos List.mem_cons_self, State.die_modDie_same]
    · simp only [List.mem_cons, hd, false_or, State.die_modDie_ne _ _ _ _ hd]

theorem State.foldl_modDie_frame (f : Nat → Die → Die) (l : List Nat) (s : State) :
    l.foldl (fun s d => s.modDie d (f d)) s = { s with dies := (l.foldl (fun s d => s.modDie d (f d)) s).dies } := by
  refine List.foldlRecOn (motive := fun t : State => t = { s with dies := t.dies }) l _ rfl fun t ht d _ => ?_
  rw [ht]
  rfl

/-- Settles O58: the rounds, the minimums and the proportional shares each keep within the pool. -/
theorem pipsDivided : Obligations.PipsDivided := by
  refine ⟨fun pool demand mins hdemand hmins => divide_within hdemand hmins, fun s => ?_⟩
  intro a window due
  have hdue : due ↔ ¬ ((!s.pwr.ledgerOn) = true ∨ s.pwr.dividedAt = some (s.now / 100000)) := by
    simp [due, window]
  refine ⟨fun h => ⟨_, congrArg Host.Outcome.next (if_neg (hdue.1 h)), ?_, fun d => ?_⟩,
    fun h => congrArg Host.Outcome.next (if_pos (by_contra fun hn => h (hdue.2 hn)))⟩
  · exact State.foldl_modDie_frame _ _ _
  · rw [State.die_foldl_modDie List.nodup_range]
    simp only [List.mem_range]
    rfl

end Sys2Proof.Machine
end

section
/-! Droops, calibration steps, ramps and failing domains (R412, R418, R421, R422). -/
namespace Sys2Proof.Machine

/-! ### Operations that leave the power domains as they are -/

/-- Operations that each leave the power domains as they are, one after another. -/
theorem domains_foldl {α : Type} (f : State → α → State) (h : ∀ s a, (f s a).pwr.domains = s.pwr.domains) (l : List α) (s : State) :
    (l.foldl f s).pwr.domains = s.pwr.domains :=
  List.foldlRecOn (motive := fun t : State => t.pwr.domains = s.pwr.domains) l f rfl fun t ht a _ => (h t a).trans ht

section
variable (s : State)

@[simp] theorem State.domains_resetDale (n : Nat) : (s.resetDale n).pwr.domains = s.pwr.domains := rfl

@[simp] theorem State.domains_modKv (g : Nat) (f : Kv → Kv) : (s.modKv g f).pwr.domains = s.pwr.domains := rfl

@[simp] theorem State.domains_qualify : s.qualify.pwr.domains = s.pwr.domains := by rw [s.pwr_qualify]

@[simp] theorem State.domains_freeCore (c : Nat) : (s.freeCore c).pwr.domains = s.pwr.domains := by
  unfold State.freeCore
  split <;> simp

@[simp] theorem State.domains_endCal (c : Nat) : (s.endCal c).pwr.domains = s.pwr.domains := by
  unfold State.endCal
  split <;> simp

theorem State.domains_writeSegs (g : Nat) (segs : List (Nat × Nat)) (bs : Bytes) :
    (s.writeSegs g segs bs).1.pwr.domains = s.pwr.domains := by
  induction segs generalizing s bs with
  | nil => rfl
  | cons e rest ih =>
    simp only [State.writeSegs]
    split
    · rfl
    next t h =>
      refine (ih t _).trans ?_
      rcases s.writeSeg_cases t g e.1 _ h with ⟨x, -, -, rfl⟩ | ⟨x, -, -, rfl⟩
      · rw [State.hbmWrite_pwr]
      · unfold State.hostWrite
        split <;> rfl

@[simp] theorem State.domains_writeVa (g va : Nat) (bs : Bytes) : (s.writeVa g va bs).1.pwr.domains = s.pwr.domains :=
  s.domains_writeSegs g _ bs

/-! ### A core taken out of use -/

theorem State.domains_stopTile (c : Nat) (t : TileRun) : (s.stopTile c t).pwr.domains = s.pwr.domains := by
  unfold State.stopTile State.leaveTile
  cases t.startAt <;> exact s.domains_freeCore c

theorem State.domains_cutReplay (g : Nat) (p : Nat → Bool) : (s.cutReplay g p).pwr.domains = s.pwr.domains := by
  refine domains_foldl _ (fun s c => ?_) _ s
  split
  · exact s.domains_stopTile c _
  · rfl

theorem State.domains_dropSpec (g h : Nat) : (s.dropSpec g h).pwr.domains = s.pwr.domains := by
  have hcut (p : Nat → Bool) : ((s.cutReplay g p).forgetSpec g h).pwr.domains = s.pwr.domains := s.domains_cutReplay g p
  unfold State.dropSpec
  split
  · rfl
  · dsimp only
    split
    · split
      · simp only [State.domains_writeVa, hcut]
      · exact hcut _
    · exact hcut _

@[simp] theorem State.domains_discardSpec (t : TileRun) : (s.discardSpec t).pwr.domains = s.pwr.domains := by
  unfold State.discardSpec
  split
  · split
    · exact s.domains_dropSpec _ _
    · rfl
  · rfl

@[simp] theorem State.domains_returnTile (t : TileRun) : (s.returnTile t).pwr.domains = s.pwr.domains := by
  unfold State.returnTile
  cases t.replay <;> rfl

@[simp] theorem State.domains_abortNow (g q : Nat) : (s.abortNow g q).pwr.domains = s.pwr.domains := rfl

@[simp] theorem State.domains_pullTile (c : Nat) : (s.pullTile c).pwr.domains = s.pwr.domains := by
  unfold State.pullTile
  split
  · rfl
  · dsimp only
    split <;> simp

@[simp] theorem State.domains_dropPair (c : Nat) : (s.dropPair c).pwr.domains = s.pwr.domains := by
  unfold State.dropPair
  split <;> simp

/-! ### Slots given afresh -/

theorem State.domains_unslot (p c : Nat) : (s.unslot p c).pwr.domains = s.pwr.domains := by
  rw [State.unslot, State.modCore_pwr, State.countLate_frame]

theorem State.domains_assignCore (now g i start c : Nat) : (s.assignCore now g i start c).pwr.domains = s.pwr.domains := by
  unfold State.assignCore
  split
  · rfl
  · rw [State.modCore_pwr, State.countLate_frame]

theorem domains_assignSlots (p d now frame : Nat) (slots : List (Nat × Slot)) (free : List Nat) (s : State) :
    (State.assignSlots p d now frame slots free s).pwr.domains = s.pwr.domains := by
  induction slots generalizing free s with
  | nil => exact domains_foldl _ (fun s c => s.domains_unslot p c) free s
  | cons x rest ih =>
    simp only [State.assignSlots]
    refine (ih _ _).trans (Eq.trans ?_ (domains_foldl _ (fun s c =>
      s.domains_assignCore now (64 * p + x.2.n) x.1 (frame + x.2.start * 1000) c) (free.take x.2.cores) s))
    split
    · rfl
    · rfl

@[simp] theorem State.domains_assignDie (p d : Nat) : (s.assignDie p d).pwr.domains = s.pwr.domains :=
  (domains_assignSlots p d _ _ _ _ _).trans (domains_foldl _ (fun s c => s.domains_unslot p c) _ s)

@[simp] theorem State.domains_fenceEvents (c cause g : Nat) (active : Bool) (spare : Option Nat) :
    (s.fenceEvents c cause g active spare).pwr.domains = s.pwr.domains := by
  unfold State.fenceEvents
  dsimp only
  rw [State.domains_qualify]
  split <;> simp

/-! ### A partition reset -/

theorem State.domains_stopUnits (p : Nat) : (s.stopUnits p).pwr.domains = s.pwr.domains := by
  have hcore (s : State) (c : Nat) : ((s.haltCore c).resetDale c).pwr.domains = s.pwr.domains := by simp [State.haltCore]
  have hdie (s : State) (d : Nat) (f : Die → Die) :
      (((coresOfDie d).foldl (fun s c => (s.haltCore c).resetDale c) s).modDie d f).pwr.domains = s.pwr.domains :=
    domains_foldl _ hcore (coresOfDie d) s
  have hstack (s : State) (k : Nat) (f : Stack → Stack) : ((s.resetDale (152 + k)).modStack k f).pwr.domains = s.pwr.domains := rfl
  have hdies : (s.resetDies p).pwr.domains = s.pwr.domains := domains_foldl _ (fun s d => hdie s d _) (s.diesOf p) s
  exact (domains_foldl _ (fun s k => hstack s k _) (s.stacksOf p) (s.resetDies p)).trans hdies

theorem State.domains_partReset (p cause : Nat) : (s.partReset p cause).pwr.domains = s.pwr.domains := by
  refine (domains_foldl _ (fun s v => ?_) (s.liveVectors p) _).trans (s.domains_stopUnits p)
  rw [State.raiseFor]
  split <;> rfl

theorem State.domains_causeReset (p cause : Nat) : (s.causeReset p cause).pwr.domains = s.pwr.domains := by
  unfold State.causeReset
  split
  · exact s.domains_partReset p cause
  · exact s.domains_stopUnits p
  · exact s.domains_stopUnits p
  · exact s.domains_stopUnits p
  all_goals rfl

/-! ### Ports and host interfaces that go down -/

theorem State.domains_lossOfSignal (p : Nat) : (s.lossOfSignal p).pwr.domains = s.pwr.domains := by
  rw [State.lossOfSignal_eq]
  split
  · rw [State.portDown, State.event_pwr, (s.dropPort_dropped p (st := .down) fun _ => rfl).frame]
  · rfl

theorem State.domains_hostLinkDown (h : Nat) : (s.hostLinkDown h).pwr.domains = s.pwr.domains := by
  by_cases hready : (s.hif h).ready = true
  · rw [s.hostLinkDown_eq h hready, State.event_pwr]
    exact domains_foldl _ (fun s g => by rw [(s.loseCtx_onlyStopped g).frame]) _ (s.unlink h)
  · rw [State.hostLinkDown, if_neg hready]

end

/-! ### A domain that has FAILED stays so (R412) -/

/-- Every domain that reads FAILED before reads FAILED after. -/
def FailedStays (s t : State) : Prop := ∀ n, (s.domain n).st = 3 → (t.domain n).st = 3

theorem FailedStays.trans {s t u : State} (h : FailedStays s t) (k : FailedStays t u) : FailedStays s u := fun n hn => k n (h n hn)

theorem FailedStays.of_domains {s t : State} (h : t.pwr.domains = s.pwr.domains) : FailedStays s t := fun n hn => by
  rwa [State.domain, h]

section
variable (s : State)

theorem State.failedStays_powerOff (n : Nat) : FailedStays s (s.powerOff n) := fun m hm => by
  rwa [State.domain_powerOff, if_neg fun h => h.2 hm]

theorem State.failedStays_takeOut (c : Nat) : FailedStays s (s.takeOut c) := by
  refine FailedStays.trans (.of_domains ?_) ((State.failedStays_powerOff _ c).trans (.of_domains rfl))
  simp

theorem State.failedStays_fence (c cause : Nat) : FailedStays s (s.fence c cause) := by
  unfold State.fence
  split
  · exact .of_domains rfl
  · refine (s.failedStays_takeOut c).trans (.of_domains ?_)
    dsimp only
    rw [State.domains_assignDie, State.domains_fenceEvents]
    generalize (if s.isActive c = true then State.spareOf _ _ else none) = spare
    cases spare <;> simp only [State.setRole, State.setCfgNat] <;> split <;> simp

/-- What a FAILED domain does to its unit leaves it FAILED. -/
theorem State.failedStays_domainUnit (n : Nat) : FailedStays s (s.domainUnit n) := by
  unfold State.domainUnit
  split
  · exact FailedStays.trans (t := s.draw.2) (.of_domains rfl) (State.failedStays_fence _ n _)
  next hcore =>
    split
    · rw [State.daleFault, if_neg hcore]
      split
      · exact .of_domains (State.domains_causeReset _ _ _)
      · exact .of_domains (State.domains_causeReset _ _ _)
    · split
      · exact .of_domains (domains_foldl _ (fun s i => s.domains_lossOfSignal _) _ s)
      · exact .of_domains (s.domains_hostLinkDown _)

theorem State.domainFailed_st (n : Nat) : ((s.domainFailed n).domain n).st = 3 := by
  refine State.failedStays_domainUnit _ n n ?_
  change ((s.modDomain n fun x => { x with st := 3 }).domain n).st = 3
  rw [State.domain_modDomain_same]

end

/-! ### Ramping domains (R418) -/

/-- What a ramp may do to domain `n`: its admitted pips climb, towards BASELINE and no further, and only while it ramps. -/
structure Climbs (n : Nat) (x y : Domain) : Prop where
  st : y.st = x.st
  more : x.admitted ≤ y.admitted
  within : x.admitted ≤ baselineOf n → y.admitted ≤ baselineOf n
  still : x.st ≠ 1 → y = x

theorem Climbs.refl (n : Nat) (x : Domain) : Climbs n x x := ⟨rfl, le_rfl, id, fun _ => rfl⟩

theorem Climbs.trans {n : Nat} {x y z : Domain} (h : Climbs n x y) (k : Climbs n y z) : Climbs n x z where
  st := k.st.trans h.st
  more := h.more.trans k.more
  within hx := k.within (h.within hx)
  still hx := (k.still (h.st.symm ▸ hx)).trans (h.still hx)

/-- What the ramps of an interval leave of a state. -/
structure Ramps (s t : State) : Prop where
  at_ : t.pwr.rampedAt = s.pwr.rampedAt
  granted : ∀ d, (t.die d).granted = (s.die d).granted
  climbs : ∀ n, Climbs n (s.domain n) (t.domain n)

theorem Ramps.refl (s : State) : Ramps s s := ⟨rfl, fun _ => rfl, fun n => .refl n _⟩

theorem Ramps.trans {s t u : State} (h : Ramps s t) (k : Ramps t u) : Ramps s u :=
  ⟨k.at_.trans h.at_, fun d => (k.granted d).trans (h.granted d), fun n => (h.climbs n).trans (k.climbs n)⟩

/-- The interval of a die has begun: its base is what the die has granted, and its ramps are at most 25 pips. -/
def State.Opened (s : State) (d : Nat) : Prop := (s.die d).ramped ≤ 25 ∧ (s.die d).intervalBase = (s.die d).granted

section
variable (s : State)

theorem State.ramps_admit {n k : Nat} (hst : (s.domain n).st = 1) (hk : k ≤ baselineOf n - (s.domain n).admitted) :
    Ramps s (s.modDomain n fun x => { x with admitted := x.admitted + k }) := by
  refine ⟨rfl, fun _ => rfl, fun m => ?_⟩
  by_cases hm : m = n
  · rw [hm, State.domain_modDomain_same]
    exact ⟨rfl, Nat.le_add_right _ _, fun h => by dsimp only; omega, fun h => absurd hst h⟩
  · rw [State.domain_modDomain_ne _ _ _ _ hm]
    exact .refl m _

theorem State.accept_ramps (l : List Nat) (room : Nat) : Ramps s (s.accept l room).1 ∧ (s.accept l room).1.dies = s.dies := by
  induction l generalizing s room with
  | nil => exact ⟨.refl s, rfl⟩
  | cons n rest ih =>
    rw [State.accept]
    generalize hk : (if (s.domain n).st = 1 then min room (baselineOf n - (s.domain n).admitted) else 0) = k
    have hstep : Ramps s (if k = 0 then s else s.modDomain n fun x => { x with admitted := x.admitted + k }) ∧
        (if k = 0 then s else s.modDomain n fun x => { x with admitted := x.admitted + k }).dies = s.dies := by
      split
      · exact ⟨.refl s, rfl⟩
      next hpos =>
        have hst : (s.domain n).st = 1 := by_contra fun h => hpos (hk.symm.trans (if_neg h))
        exact ⟨s.ramps_admit hst ((hk.symm.trans (if_pos hst)).trans_le (Nat.min_le_right _ _)), rfl⟩
    obtain ⟨hrest, hdies⟩ := ih (if k = 0 then s else s.modDomain n fun x => { x with admitted := x.admitted + k }) (room - k)
    exact ⟨hstep.1.trans hrest, hdies.trans hstep.2⟩

/-- The interval of one die: it begins there, and where it had begun it still has. -/
theorem State.rampDie_effect (d : Nat) : Ramps s (s.rampDie d) ∧ ∀ m, m = d ∨ s.Opened m → (s.rampDie d).Opened m := by
  obtain ⟨hramps, hdies⟩ := s.accept_ramps ((List.range 186).filter fun n => dieOfDomain n == d) 25
  rw [State.rampDie]
  generalize s.accept ((List.range 186).filter fun n => dieOfDomain n == d) 25 = r at hramps hdies ⊢
  have hdie (m : Nat) : r.1.die m = s.die m := by rw [State.die, State.die, hdies]
  refine ⟨hramps.trans ⟨rfl, fun m => ?_, fun n => .refl n _⟩, fun m hm => ?_⟩
  · by_cases hmd : m = d
    · rw [hmd, State.die_modDie_same]
    · rw [State.die_modDie_ne _ _ _ _ hmd]
  · by_cases hmd : m = d
    · rw [State.Opened, hmd, State.die_modDie_same]
      exact ⟨Nat.sub_le _ _, rfl⟩
    · rw [State.Opened, State.die_modDie_ne _ _ _ _ hmd, hdie]
      exact hm.resolve_left hmd

theorem State.rampDies_effect (l : List Nat) :
    Ramps s (l.foldl (fun s d => s.rampDie d) s) ∧
      ∀ m, m ∈ l ∨ s.Opened m → (l.foldl (fun s d => s.rampDie d) s).Opened m := by
  induction l generalizing s with
  | nil => exact ⟨.refl s, fun m hm => hm.resolve_left List.not_mem_nil⟩
  | cons d l ih =>
    obtain ⟨hramps, hopened⟩ := s.rampDie_effect d
    obtain ⟨hrest, hall⟩ := ih (s.rampDie d)
    refine ⟨hramps.trans hrest, fun m hm => hall m ?_⟩
    rw [List.mem_cons, or_assoc] at hm
    rcases hm with rfl | hm | hm
    · exact .inr (hopened m (.inl rfl))
    · exact .inl hm
    · exact .inr (hopened m (.inr hm))

theorem State.rampInterval_due (h : s.pwr.good = true ∧ s.pwr.shutdown = false ∧ s.pwr.rampedAt ≠ some (s.now / 10000)) :
    s.rampInterval = (List.range 8).foldl (fun s d => s.rampDie d) (s.modPwr fun w => { w with rampedAt := some (s.now / 10000) }) := by
  rw [State.rampInterval, if_pos (by simpa [and_assoc] using h)]

theorem State.rampInterval_over (h : ¬ (s.pwr.good = true ∧ s.pwr.shutdown = false ∧ s.pwr.rampedAt ≠ some (s.now / 10000))) :
    s.rampInterval = s := by
  rw [State.rampInterval, if_neg (by simpa [and_assoc] using h)]

end

/-! ### Droops (R421) -/

section
variable {s : State} {n : Nat}

/-- A dale's droop: the clock stretches, and the droop is marked as the one that raised its rail's event or not. -/
def State.drooped (s : State) (n : Nat) (first : Bool) : State := s.modDale n fun x =>
  { x with stretches := min (x.stretches + 1) 0xFFFFFFFF, droopAt := some s.now, droopRaised := first }

theorem State.droopTrip_ignored (h : ¬ (s.daleRuns n = true ∧ (s.dale n).droopAt = none)) : s.droopTrip n = s := by
  rw [State.droopTrip, if_pos (by simpa [Option.isSome_iff_ne_none, imp_iff_not_or] using h)]

/-- Whether the rail of a dale has raised no event in the last second. -/
def State.railFresh (s : State) (n : Nat) : Prop := ∀ a, (s.dale (railOf n)).lastEvent = some a → a + 1000000000 ≤ s.now

theorem State.droopTrip_running (h : s.daleRuns n = true ∧ (s.dale n).droopAt = none) :
    (¬ s.railFresh n → s.droopTrip n = s.drooped n false) ∧
      (s.railFresh n → s.droopTrip n = ((s.drooped n true).modDale (railOf n) fun x => { x with lastEvent := some s.now }).qualify) := by
  have hgo : ¬ ((!s.daleRuns n) = true ∨ (s.dale n).droopAt.isSome = true) := by simp [h]
  simp only [State.droopTrip, if_neg hgo, State.railFresh]
  cases hlast : (s.dale (railOf n)).lastEvent with
  | none => exact ⟨fun h => absurd (fun a ha => nomatch ha) h, fun _ => rfl⟩
  | some a =>
    refine ⟨fun h => ?_, fun h => ?_⟩
    · have hlate : ¬ a + 1000000000 ≤ s.now := fun hle => h fun b hb => Option.some.inj hb ▸ hle
      simp only [decide_eq_false hlate, Bool.false_eq_true, if_false]
      rfl
    · simp only [decide_eq_true (h a rfl), if_true]
      rfl

end

section
variable {s : State} {n mv a c : Nat}

theorem State.droopEnd_none (h : (s.dale n).droopAt = none) : s.droopEnd n mv = s := by rw [State.droopEnd, h]

theorem State.droopEnd_early (h : (s.dale n).droopAt = some a) (hnow : s.now < a + 100) : s.droopEnd n mv = s := by
  simp only [State.droopEnd, h, if_pos hnow]

/-- The stretch is over: it and its mark are gone, and the log gains the record of a droop that raised the event. -/
theorem State.droopEnd_effect (h : (s.dale n).droopAt = some a) (hnow : a + 100 ≤ s.now) :
    (s.droopEnd n mv).dale n = { s.dale n with droopAt := none, droopRaised := false } ∧
      ((s.dale n).droopRaised = false → (s.droopEnd n mv).log = s.log) ∧
      ((s.dale n).droopRaised = true → (s.droopEnd n mv).log.next = s.log.next + 1) := by
  simp only [State.droopEnd, h, if_neg (Nat.not_lt.2 hnow)]
  have hcleared := State.dale_modDale_same s n fun x => { x with droopAt := none, droopRaised := false }
  cases hr : (s.dale n).droopRaised with
  | false => exact ⟨hcleared, fun _ => rfl, fun h => nomatch h⟩
  | true =>
    have hdraw (u : State) : ((u.thresholdMv n).2.dale n = u.dale n) ∧ (u.thresholdMv n).2.log = u.log := by
      unfold State.thresholdMv
      split <;> exact ⟨rfl, rfl⟩
    obtain ⟨hdale, hlog⟩ := hdraw (s.modDale n fun x => { x with droopAt := none, droopRaised := false })
    exact ⟨hdale.trans hcleared, fun h => (nomatch h), fun _ => congrArg (·.next + 1) hlog⟩

/-! ### Calibration steps (R422) -/

@[simp] theorem State.core_modDie (s : State) (d k : Nat) (f : Die → Die) : (s.modDie d f).core k = s.core k := rfl
@[simp] theorem State.core_modDale (s : State) (n k : Nat) (f : Dale → Dale) : (s.modDale n f).core k = s.core k := rfl
@[simp] theorem State.core_draw (s : State) (k : Nat) : s.draw.2.core k = s.core k := rfl
@[simp] theorem State.die_modCore (s : State) (c d : Nat) (f : Core → Core) : (s.modCore c f).die d = s.die d := rfl
@[simp] theorem State.die_modDale (s : State) (n d : Nat) (f : Dale → Dale) : (s.modDale n f).die d = s.die d := rfl
@[simp] theorem State.die_draw (s : State) (d : Nat) : s.draw.2.die d = s.die d := rfl

/-- What a calibration step needs of its core and of its die's ledger (R418, R422). -/
def State.mayCalibrate (s : State) (c : Nat) : Prop :=
  c < 144 ∧ (∀ a, (s.core c).calAt = some a → a + 10000000000 ≤ s.now) ∧ s.isFenced c = false ∧ (s.domain c).st = 2 ∧
    s.inHold c = false ∧ (s.core c).tile = none ∧ (s.core c).slot = none ∧ (s.core c).cal = none ∧
    s.pwr.rampedAt = some (s.now / 10000) ∧ (s.die (c / 18)).granted + 8 ≤ (s.die (c / 18)).allot ∧
    (s.die (c / 18)).granted + 8 + (s.die (c / 18)).ramped ≤ (s.die (c / 18)).intervalBase + 25

theorem State.calStart_eq (s : State) (c : Nat) [Decidable (s.mayCalibrate c)] :
    s.calStart c = if s.mayCalibrate c then
      (s.modCore c fun k => { k with cal := some 8, calFrom := s.now }).modDie (c / 18) fun d => { d with granted := d.granted + 8 }
    else s := by
  rw [State.calStart]
  refine if_congr ?_ rfl rfl
  rw [Bool.and_assoc, Bool.and_eq_true, State.mayGrantNow_iff]
  cases hcal : (s.core c).calAt <;>
    simp [State.mayCalibrate, hcal, dieOfCore, and_assoc, Option.isNone_iff_eq_none]

/-- The end of a step: the pips are back, the time and the droop are kept, and the threshold is within 900 to 950. -/
theorem State.calStop_effect {droop pips : Nat} (hcal : (s.core c).cal = some pips) (hnow : (s.core c).calFrom + 2000 ≤ s.now) :
    (s.calStop c droop).core c = { s.core c with cal := none, calAt := some s.now } ∧
      ((s.calStop c droop).die (c / 18)).granted = (s.die (c / 18)).granted - pips ∧
      (s.calStop c droop).dale c = { s.dale c with calDroop := droop, threshold := 900 + s.draw.1.toNat % 51 } ∧
      (s.calStop c droop).hbm = s.hbm := by
  have hend : s.calStop c droop = (((s.draw.2.endCal c).modCore c fun k => { k with calAt := some s.now }).modDale c fun x =>
      { x with calDroop := droop, threshold := 900 + s.draw.1.toNat % 51 }) := by
    rw [State.calStop, if_neg (by simp [hcal, Nat.not_lt.2 hnow])]
  have hback : s.draw.2.endCal c =
      (s.draw.2.modCore c fun k => { k with cal := none }).modDie (c / 18) fun d => { d with granted := d.granted - pips } := by
    rw [State.endCal, show (s.draw.2.core c).cal = some pips from hcal]
    rfl
  rw [hend, hback]
  refine ⟨?_, ?_, ?_, rfl⟩
  · rw [State.core_modDale, State.core_modCore_same, State.core_modDie, State.core_modCore_same, State.core_draw]
  · rw [State.die_modDale, State.die_modCore, State.die_modDie_same, State.die_modCore, State.die_draw]
  · exact State.dale_modDale_same ..

theorem State.calStop_waits {droop : Nat} (h : (s.core c).cal = none ∨ s.now < (s.core c).calFrom + 2000) : s.calStop c droop = s := by
  rw [State.calStop, if_pos (by simpa using h)]

end

/-- Settles O59: droops, calibration steps, the ramps of an interval, and domains that come ON or fail. -/
theorem droopAndRamps : Obligations.DroopAndRamps := by
  intro s
  refine ⟨fun n => ?droop, fun c => ?calibration, ?ramps, fun n => ?domain⟩
  case droop =>
    intro x runs rail fresh t
    exact ⟨fun h => congrArg Host.Outcome.next (State.droopTrip_ignored h),
      fun h hno => congrArg Host.Outcome.next ((State.droopTrip_running h).1 hno),
      fun h hfresh => congrArg Host.Outcome.next ((State.droopTrip_running h).2 hfresh),
      fun _ _ ha hnow => congrArg Host.Outcome.next (State.droopEnd_early ha hnow),
      fun _ _ ha hnow => ⟨_, rfl, State.droopEnd_effect ha hnow⟩,
      fun _ h => congrArg Host.Outcome.next (State.droopEnd_none h)⟩
  case calibration =>
    classical
    intro k d may
    refine ⟨fun h => ⟨_, congrArg Host.Outcome.next ((s.calStart_eq c).trans (if_pos h)), ?_, State.die_modDie_same ..⟩,
      fun h => congrArg Host.Outcome.next ((s.calStart_eq c).trans (if_neg h)), fun droop pips hcal hnow => ?_,
      fun _ h => congrArg Host.Outcome.next (State.calStop_waits h)⟩
    · rw [State.core_modDie, State.core_modCore_same]
    · obtain ⟨hcore, hgranted, hdale, hhbm⟩ := State.calStop_effect (droop := droop) hcal hnow
      refine ⟨_, rfl, hcore, hgranted, ?_, ?_, ?_, hhbm⟩ <;> rw [hdale]
      · exact Nat.le_add_right _ _
      · dsimp only
        omega
  case ramps =>
    intro window due
    refine ⟨fun h => ⟨_, congrArg Host.Outcome.next (s.rampInterval_due h), ?_⟩, fun h => congrArg Host.Outcome.next (s.rampInterval_over h)⟩
    obtain ⟨hramps, hopened⟩ := (s.modPwr fun w => { w with rampedAt := some (s.now / 10000) }).rampDies_effect (List.range 8)
    refine ⟨hramps.at_, fun d hd => ?_, fun n => ?_⟩
    · obtain ⟨hramped, hbase⟩ := hopened d (.inl (List.mem_range.2 hd))
      exact ⟨hramped, hramps.granted d, hbase.trans (hramps.granted d)⟩
    · obtain ⟨hst, hmore, hwithin, hstill⟩ := hramps.climbs n
      exact ⟨hst, hmore, hwithin, hstill⟩
  case domain =>
    intro x ramping
    have hgo (h : ramping) : ¬ (186 ≤ n ∨ (s.domain n).st ≠ 1) := by
      rintro (hn | hst)
      · exact absurd h.1 (Nat.not_lt.2 hn)
      · exact hst h.2
    refine ⟨fun rose h => ?_, fun h hadm => ?_, fun h hadm => ?_, fun h => ⟨_, rfl, ?_⟩⟩
    · refine congrArg Host.Outcome.next (if_pos ?_)
      by_contra hno
      rw [not_or, Nat.not_le, not_not] at hno
      exact h hno
    · exact congrArg Host.Outcome.next ((if_neg (hgo h)).trans (if_pos hadm))
    · exact congrArg Host.Outcome.next ((if_neg (hgo h)).trans (if_neg hadm))
    · rw [State.domainOn, if_neg (hgo h)]
      exact s.domainFailed_st n

end Sys2Proof.Machine
end

section
/-! What a data row leaves unchanged (R17, R50, R106, R263). -/
namespace Sys2Proof.Machine

/-! ### What a data row leaves unchanged (R17, R263) -/

section
variable {s t u : State} {g : Nat}

/-- Memories written, then work noted, change only what the work of descriptors changes. -/
theorem State.sameButMem.onlyWork (h : s.sameButMem t) (k : WorkNoted g t u) : OnlyWork s u := by
  have hframe := k.frame
  obtain ⟨_, _, _, _, _, rfl⟩ := h
  rw [OnlyWork, hframe]

theorem State.leftIn_noted (t s : State) (g q seq n : Nat) (w : Work) : WorkNoted g t (t.leftIn s g q seq n w) := by
  unfold State.leftIn
  split
  · exact ⟨rfl, fun _ _ => rfl⟩
  · exact .refl g t

theorem State.tileFaults_noted (s : State) (g q seq n : Nat) (e : Fail) : WorkNoted g s (s.tileFaults g q seq n e) :=
  (s.modRun_noted g q seq _).trans (State.jobFault_noted _ g q seq e.status e.tile)

/-- What a work tile carried out leaves is its writes, made up to the first that fails, and then notes of its context's work. -/
theorem State.worked_noted (s : State) (g q seq n : Nat) (w : Work) :
    WorkNoted g (s.writeAll g (joinRuns w.writes)).1 (s.worked g q seq n w) := by
  rw [State.worked]
  cases s.writeAll g (joinRuns w.writes) with
  | mk u f =>
    cases f with
    | some e => exact u.tileFaults_noted g q seq n e
    | none =>
      dsimp only
      split
      · exact u.tileFaults_noted g q seq n _
      · exact ((u.accessed_noted _ g w.reads _).trans (State.leftIn_noted _ s g q seq n w)).trans (State.modRun_noted _ g q seq _)

end

/-- A row that carries out the work tiles of a kind changes only the bytes that its work stores to. -/
theorem CarriesOut.framedBy {i : Nat → Nat → Nat → Instr} {kind : Run → Bool} {work : State → Nat → Nat → Nat → Run → Nat → Work}
    (h : CarriesOut i kind work) : FramedBy i kind work := by
  intro s g q seq r n hcore hkind
  have hwrites := s.writeAll_same g (joinRuns (work s g q seq r n).writes)
  have hnoted := s.worked_noted g q seq n (work s g q seq r n)
  exact ⟨_, (h s g q seq r n hcore).1 hkind, (s.writeAll_sameOutside g _).congr hnoted.hbm hnoted.host0 hnoted.host1,
    State.sameButMem.onlyWork hwrites hnoted,
    fun k hk => (hnoted.others k hk).trans (OthersKept.of_sameButMem hwrites k hk)⟩

/-- Settles O25: each of the 22 rows of O24 carries its work out, so its writes bound what it changes. -/
theorem dataRowFrame : Obligations.DataRowFrame := by
  obtain ⟨h1, h2, h3, h4, h5, h6, h7, h8, h9, h10, h11, h12, h13, h14, h15, h16, h17, h18, h19, h20, h21, h22⟩ := dataRows
  exact ⟨h1.1.framedBy, h2.1.framedBy, h3.1.framedBy, h4.1.framedBy, h5.1.framedBy, h6.1.framedBy, h7.1.framedBy, h8.1.framedBy,
    h9.1.framedBy, h10.1.framedBy, h11.1.framedBy, h12.1.framedBy, h13.1.framedBy, h14.1.framedBy, h15.1.framedBy, h16.1.framedBy,
    h17.1.framedBy, h18.1.framedBy, h19.1.framedBy, h20.1.framedBy, h21.1.framedBy, h22.1.framedBy⟩

end Sys2Proof.Machine
end

section
/-! Fences: what taking a core out of use leaves, the roles of its die, and what a fence comes to (R15, R347, R348). -/
namespace Sys2Proof.Machine

/-! ### A fence leaves the dictionary, the Doubler and the tests alone, and starts no work tile -/

/-- The dictionary, the Doubler and the results of the cores' own tests are as before, and no core takes a work tile. -/
structure KeepsUse (s t : State) : Prop where
  store : t.store = s.store
  doubler : t.doubler = s.doubler
  tests : ∀ c, (t.core c).testOk = (s.core c).testOk
  tiles : NoNewTiles s t

namespace KeepsUse

variable {s t u : State}

theorem refl (s : State) : KeepsUse s s := ⟨rfl, rfl, fun _ => rfl, NoNewTiles.refl s⟩

theorem trans (h : KeepsUse s t) (k : KeepsUse t u) : KeepsUse s u :=
  ⟨k.store.trans h.store, k.doubler.trans h.doubler, fun c => (k.tests c).trans (h.tests c), h.tiles.trans k.tiles⟩

theorem of_cores (hstore : t.store = s.store) (hdoubler : t.doubler = s.doubler) (hcores : t.cores = s.cores) : KeepsUse s t :=
  ⟨hstore, hdoubler, fun c => by rw [State.core, hcores, State.core], NoNewTiles.of_cores hcores⟩

theorem of_sameButMem (h : s.sameButMem t) : KeepsUse s t := by
  obtain ⟨_, _, _, _, _, rfl⟩ := h
  exact of_cores rfl rfl rfl

theorem foldl {α : Type} {f : State → α → State} (h : ∀ s a, KeepsUse s (f s a)) (l : List α) (s : State) : KeepsUse s (l.foldl f s) :=
  List.foldlRecOn l f (motive := KeepsUse s) (refl s) fun t ht a _ => ht.trans (h t a)

end KeepsUse

section
variable (s : State)

/-- A core that keeps the result of its test, and whose work tile stays or leaves. -/
theorem State.keepsUse_modCore (c : Nat) (f : Core → Core)
    (h : ∀ k, (f k).testOk = k.testOk ∧ ((f k).tile = k.tile ∨ (f k).tile = none)) : KeepsUse s (s.modCore c f) := by
  refine ⟨rfl, rfl, fun k => ?_, fun k x hx => ?_⟩
  · by_cases hk : k = c
    · rw [hk, State.core_modCore_same, (h _).1]
    · rw [State.core_modCore_ne _ _ _ _ hk]
  · by_cases hk : k = c
    · subst hk
      rw [State.core_modCore_same] at hx
      rcases (h (s.core k)).2 with h | h
      · rwa [h] at hx
      · rw [h] at hx
        cases hx
    · rwa [State.core_modCore_ne _ _ _ _ hk] at hx

theorem State.keepsUse_modDie (d : Nat) (f : Die → Die) : KeepsUse s (s.modDie d f) := .of_cores rfl rfl rfl

theorem State.keepsUse_modRun (g q seq : Nat) (f : Run → Run) : KeepsUse s (s.modRun g q seq f) := .of_cores rfl rfl rfl

theorem State.keepsUse_freeCore (c : Nat) : KeepsUse s (s.freeCore c) := by
  unfold State.freeCore
  split
  · exact .refl s
  · refine (s.keepsUse_modCore c _ fun _ => ?_).trans (State.keepsUse_modDie _ _ _)
    exact ⟨rfl, .inr rfl⟩

theorem State.keepsUse_endCal (c : Nat) : KeepsUse s (s.endCal c) := by
  unfold State.endCal
  split
  · exact .refl s
  · refine (s.keepsUse_modCore c _ fun _ => ?_).trans (State.keepsUse_modDie _ _ _)
    exact ⟨rfl, .inl rfl⟩

theorem State.keepsUse_dropPair (c : Nat) : KeepsUse s (s.dropPair c) := by
  unfold State.dropPair
  split
  · exact .refl s
  · refine (s.keepsUse_modCore c _ fun _ => ?_).trans (State.keepsUse_modRun _ _ _ _ _)
    exact ⟨rfl, .inl rfl⟩

theorem State.keepsUse_stopTile (c : Nat) (t : TileRun) : KeepsUse s (s.stopTile c t) := by
  unfold State.stopTile State.leaveTile
  cases t.startAt <;> exact (s.keepsUse_freeCore c).trans (.of_cores rfl rfl rfl)

theorem State.keepsUse_dropSpec (g h : Nat) : KeepsUse s (s.dropSpec g h) := by
  have hcut (p : Nat → Bool) : KeepsUse s (s.cutReplay g p) := by
    refine KeepsUse.foldl (fun s c => ?_) _ s
    cases (s.core c).tile with
    | none => exact .refl s
    | some t => exact s.keepsUse_stopTile c t
  have hforget (p : Nat → Bool) : KeepsUse s ((s.cutReplay g p).forgetSpec g h) := (hcut p).trans (.of_cores rfl rfl rfl)
  have hwrite (u : State) (va : Nat) (bs : Bytes) : KeepsUse u (u.writeVa g va bs).1 := .of_sameButMem (u.writeVa_same g va bs)
  unfold State.dropSpec
  split
  · exact .refl s
  · dsimp only
    split
    · split
      · exact ((hforget _).trans (hwrite _ _ _)).trans (hwrite _ _ _)
      · exact hforget _
    · exact hforget _

theorem State.keepsUse_discardSpec (t : TileRun) : KeepsUse s (s.discardSpec t) := by
  unfold State.discardSpec
  split
  · split
    · exact s.keepsUse_dropSpec _ _
    · exact .refl s
  · exact .refl s

theorem State.keepsUse_returnTile (t : TileRun) : KeepsUse s (s.returnTile t) := by
  unfold State.returnTile
  cases t.replay <;> exact .of_cores rfl rfl rfl

/-- The work tile of a core pulled from it: nothing takes its place. -/
theorem State.pullTile_use (c : Nat) : KeepsUse s (s.pullTile c) ∧ ((s.pullTile c).core c).tile = none := by
  unfold State.pullTile
  split
  next hnone => exact ⟨.refl s, hnone⟩
  next t _ =>
    extract_lets again left
    have hleft : KeepsUse s left := (s.keepsUse_freeCore c).trans (.of_cores rfl rfl rfl)
    have hfree : (left.core c).tile = none := by
      change ((s.freeCore c).core c).tile = none
      rw [State.tile_freeCore, if_pos rfl]
    have hrest (u : State) (h : KeepsUse left u) : KeepsUse s u ∧ (u.core c).tile = none :=
      ⟨hleft.trans h, h.tiles.none_of_none hfree⟩
    split
    · exact hrest _ (left.keepsUse_returnTile t)
    · have hcount (f : Run → Run) : KeepsUse left (left.modRun t.g t.q t.seq f) := .of_cores rfl rfl rfl
      have habort (u : State) : KeepsUse u (u.abortNow t.g t.q) := .of_cores rfl rfl rfl
      exact hrest _ (((left.keepsUse_modRun _ _ _ _).trans (State.keepsUse_discardSpec _ t)).trans (habort _))

theorem State.keepsUse_powerOff (n : Nat) : KeepsUse s (s.powerOff n) := by
  have hframe := s.resetDomain_frame n
  refine .of_cores ?_ ?_ ?_ <;> rw [State.powerOff, hframe] <;> rfl

theorem State.takeOut_use (c : Nat) : KeepsUse s (s.takeOut c) ∧ ((s.takeOut c).core c).tile = none := by
  obtain ⟨hpull, hnone⟩ := (s.dropPair c).pullTile_use c
  have hoff (u : State) : KeepsUse u ((u.powerOff c).resetDale c) := (u.keepsUse_powerOff c).trans (.of_cores rfl rfl rfl)
  have hcore (u : State) : KeepsUse u
      (u.modCore c fun k => { k with slot := none, slotAt := none, idleNs := 0, mem := { k.mem with acc := [] } }) :=
    u.keepsUse_modCore c _ fun _ => ⟨rfl, .inl rfl⟩
  have hcut (u : State) (f : Die → Die) : KeepsUse u ((((u.endCal c).modCore c fun k =>
      { k with slot := none, slotAt := none, idleNs := 0, mem := { k.mem with acc := [] } }).modDie (dieOfCore c) f).powerOff c |>.resetDale c) :=
    (((u.keepsUse_endCal c).trans (hcore _)).trans (State.keepsUse_modDie _ _ f)).trans (hoff _)
  have hrest := hcut ((s.dropPair c).pullTile c) fun d => { d with fenced := d.fenced ||| BitVec.ofNat 18 (2 ^ (c % 18)) }
  exact ⟨((s.keepsUse_dropPair c).trans hpull).trans hrest, hrest.tiles.none_of_none hnone⟩

/-! ### Slots given afresh -/

theorem State.keepsUse_countLate (p c : Nat) : KeepsUse s (s.countLate p c) := by
  unfold State.countLate
  split
  · exact .refl s
  · split
    · exact .of_cores rfl rfl rfl
    · exact .refl s

theorem State.keepsUse_unslot (p c : Nat) : KeepsUse s (s.unslot p c) :=
  (s.keepsUse_countLate p c).trans (State.keepsUse_modCore _ c _ fun _ => ⟨rfl, .inl rfl⟩)

theorem State.keepsUse_assignCore (now g i start c : Nat) : KeepsUse s (s.assignCore now g i start c) := by
  unfold State.assignCore
  split
  · exact .refl s
  · exact (s.keepsUse_countLate _ c).trans (State.keepsUse_modCore _ c _ fun _ => ⟨rfl, .inl rfl⟩)

theorem keepsUse_assignSlots (p d now frame : Nat) (slots : List (Nat × Slot)) (free : List Nat) (s : State) :
    KeepsUse s (State.assignSlots p d now frame slots free s) := by
  induction slots generalizing free s with
  | nil => exact KeepsUse.foldl (fun s c => s.keepsUse_unslot p c) free s
  | cons x rest ih =>
    obtain ⟨i, sl⟩ := x
    have hcores (l : List Nat) (start : Nat) : KeepsUse s (l.foldl (fun s c => s.assignCore now (64 * p + sl.n) i start c) s) :=
      KeepsUse.foldl (fun s c => s.keepsUse_assignCore _ _ _ _ c) l s
    have hslot : KeepsUse s (s.serveSlot p d now frame i sl free) := by
      unfold State.serveSlot
      dsimp only
      split
      · exact (hcores _ _).trans (.of_cores rfl rfl rfl)
      · exact hcores _ _
    rw [State.assignSlots_cons]
    exact hslot.trans (ih _ _)

theorem State.keepsUse_assignDie (p d : Nat) : KeepsUse s (s.assignDie p d) :=
  (KeepsUse.foldl (fun s c => s.keepsUse_unslot p c) _ s).trans (keepsUse_assignSlots p d _ _ _ _ _)

/-- The records of a fence and its qualifying event. -/
theorem State.fenceEvents_effect (c cause g : Nat) (active : Bool) (spare : Option Nat) :
    (s.fenceEvents c cause g active spare).store = s.store ∧ (s.fenceEvents c cause g active spare).cores = s.cores ∧
      (s.fenceEvents c cause g active spare).doubler.risk = min 64 (2 * s.doubler.risk) := by
  unfold State.fenceEvents
  dsimp only
  generalize hu : (if (active && spare.isNone) = true then State.event _ _ _ _ _ else State.event _ _ _ _ _) = u
  have hrecords : u.store = s.store ∧ u.cores = s.cores ∧ u.doubler = s.doubler := by
    rw [← hu]
    split <;> exact ⟨rfl, rfl, rfl⟩
  obtain ⟨hstore, hcores, hdoubler⟩ := hrecords
  rw [u.risk_qualify, hdoubler, u.qualify_frame]
  exact ⟨hstore, hcores, rfl⟩

end

/-! ### Bits of a role mask -/

/-- Bits other than j of a number whose bit j is clear, once it is set. -/
theorem testBit_add_two_pow {m i j : Nat} (hij : i ≠ j) (hj : m.testBit j = false) : (m + 2 ^ j).testBit i = m.testBit i := by
  rcases Nat.lt_or_gt_of_ne hij with hlt | hgt
  · rw [Nat.add_comm, Nat.testBit_two_pow_add_gt hlt]
  · obtain ⟨k, rfl⟩ : ∃ k, i = j + (k + 1) := ⟨i - j - 1, by omega⟩
    have heven : m / 2 ^ j % 2 = 0 := by
      simpa [Nat.testBit_eq_decide_div_mod_eq, Nat.mod_two_ne_one] using hj
    have hdiv : (m + 2 ^ j) / 2 ^ j = m / 2 ^ j + 1 := Nat.add_div_right m (Nat.two_pow_pos j)
    have hshift (n : Nat) : n.testBit (j + (k + 1)) = (n / 2 ^ j / 2).testBit k := by
      rw [← Nat.testBit_succ, Nat.testBit_div_two_pow, Nat.add_comm j]
    rw [hshift, hshift, hdiv]
    congr 1
    omega

/-- Bit j of a number cleared by subtraction. -/
theorem testBit_sub_two_pow_self {m j : Nat} (hj : m.testBit j = true) : (m - 2 ^ j).testBit j = false := by
  have h := Nat.testBit_two_pow_add_eq (m - 2 ^ j) j
  rw [Nat.add_sub_cancel' (Nat.ge_two_pow_of_testBit hj), hj] at h
  simpa using h.symm

theorem testBit_sub_two_pow {m i j : Nat} (hij : i ≠ j) (hj : m.testBit j = true) : (m - 2 ^ j).testBit i = m.testBit i := by
  rw [← testBit_add_two_pow hij (testBit_sub_two_pow_self hj), Nat.sub_add_cancel (Nat.ge_two_pow_of_testBit hj)]

section
variable (s : State)

/-- A role mask before the new bit of a core is put in. -/
def State.maskWithout (s : State) (c : Nat) : Nat :=
  if (s.roleMask (dieOfCore c)).testBit (c % 18) then s.roleMask (dieOfCore c) - 2 ^ (c % 18) else s.roleMask (dieOfCore c)

theorem State.testBit_maskWithout (c i : Nat) :
    (s.maskWithout c).testBit i = if i = c % 18 then false else (s.roleMask (dieOfCore c)).testBit i := by
  unfold State.maskWithout
  by_cases hbit : (s.roleMask (dieOfCore c)).testBit (c % 18) = true
  · rw [if_pos hbit]
    by_cases hi : i = c % 18
    · rw [if_pos hi, hi, testBit_sub_two_pow_self hbit]
    · rw [if_neg hi, testBit_sub_two_pow hi hbit]
  · rw [if_neg hbit]
    by_cases hi : i = c % 18
    · rw [if_pos hi, hi]
      simpa using hbit
    · rw [if_neg hi]

theorem State.roleMask_setRole (c : Nat) (on : Bool) :
    (s.setRole c on).roleMask (dieOfCore c) = (if on then s.maskWithout c + 2 ^ (c % 18) else s.maskWithout c) % 2 ^ 32 := by
  rw [State.roleMask, State.cfg, State.setRole, State.setCfgNat, State.setCfg, State.cfgBytes, storeGet_mapSet_same]
  exact leNat_leBytes 4 _

theorem State.isActive_setRole_self (c : Nat) : (s.setRole c false).isActive c = false := by
  rw [State.isActive, State.roleMask_setRole, if_neg Bool.false_ne_true, Nat.testBit_mod_two_pow, State.testBit_maskWithout, if_pos rfl,
    Bool.and_false]

/-- The role of another core of the die is as before. -/
theorem State.isActive_setRole_other {c x : Nat} (hd : dieOfCore x = dieOfCore c) (hc : c ≠ x) :
    (s.setRole x true).isActive c = s.isActive c := by
  have hi : c % 18 ≠ x % 18 := by
    unfold dieOfCore at hd
    omega
  have hlt : c % 18 < 32 := by omega
  rw [State.isActive, ← hd, State.roleMask_setRole, if_pos rfl, Nat.testBit_mod_two_pow, decide_eq_true hlt, Bool.true_and,
    testBit_add_two_pow hi (by rw [State.testBit_maskWithout, if_pos rfl]), State.testBit_maskWithout, if_neg hi, State.isActive, hd]

theorem State.isActive_of_store {s t : State} (h : t.store = s.store) (c : Nat) : t.isActive c = s.isActive c := by
  unfold State.isActive State.roleMask State.cfg State.cfgBytes
  rw [h]

/-! ### A core fenced (R347) -/

/-- The module once a fenced core has left use and the roles of its die. -/
def State.outOfUse (c : Nat) : State := if s.isActive c then (s.takeOut c).setRole c false else s.takeOut c

/-- The spare that takes a fenced core's place. -/
def State.spareFor (c : Nat) : Option Nat := if s.isActive c then (s.outOfUse c).spareOf (dieOfCore c) else none

/-- The module once the spare, if there is one, has its role. -/
def State.replaced (c : Nat) : State :=
  match s.spareFor c with
  | some x => (s.outOfUse c).setRole x true
  | none => s.outOfUse c

/-- What a fence comes to, part by part. -/
theorem State.fence_eq {c : Nat} (h : s.isFenced c = false) (cause : Nat) :
    ∃ p, s.fence c cause = ((s.replaced c).fenceEvents c cause (s.fencedCtx c) (s.isActive c) (s.spareFor c)).assignDie p (dieOfCore c) := by
  rw [State.fence, if_neg (by simp [h])]
  exact ⟨_, rfl⟩

theorem State.outOfUse_effect (c : Nat) :
    (s.outOfUse c).isActive c = false ∧ (s.outOfUse c).isFenced c = true ∧ (s.outOfUse c).doubler = s.doubler ∧
      ((s.outOfUse c).core c).tile = none ∧ ((s.outOfUse c).core c).testOk = (s.core c).testOk ∧
      (s.outOfUse c).domain c = (s.takeOut c).domain c := by
  obtain ⟨huse, htile⟩ := s.takeOut_use c
  have hfenced := (s.takeOut_tests c).2
  unfold State.outOfUse
  split
  · exact ⟨State.isActive_setRole_self _ c, hfenced, huse.doubler, htile, huse.tests c, rfl⟩
  next hoff => exact ⟨(State.isActive_of_store huse.store c).trans (by simpa using hoff), hfenced, huse.doubler, htile, huse.tests c, rfl⟩

/-- A spare that replaces a core is another one of its die. -/
theorem State.spareFor_other {c x : Nat} (h : s.spareFor c = some x) : dieOfCore x = dieOfCore c ∧ c ≠ x := by
  unfold State.spareFor at h
  split at h
  · have hx := List.find?_some h
    have hmem := List.mem_of_find?_eq_some h
    simp only [coresOfDie, List.mem_map, List.mem_range, dieOfCore] at hmem
    obtain ⟨i, hi, rfl⟩ := hmem
    refine ⟨by unfold dieOfCore; omega, ?_⟩
    rintro hc
    rw [← hc, (s.outOfUse_effect c).2.1] at hx
    simp at hx
  · cases h

/-- A fenced core is out of its role, holds no work tile, keeps the result of its test, and is switched off unless it has FAILED; RISK
doubles once. -/
theorem State.fence_effect {c : Nat} (h : s.isFenced c = false) (cause : Nat) :
    let t := s.fence c cause
    (t.core c).tile = none ∧ t.isActive c = false ∧ t.doubler.risk = min 64 (2 * s.doubler.risk) ∧
      (t.core c).testOk = (s.core c).testOk ∧ ((s.domain c).st ≠ 3 → (t.domain c).st = 0) := by
  intro t
  obtain ⟨p, ht⟩ : ∃ p, t = _ := s.fence_eq h cause
  obtain ⟨hactive, -, hdoubler, htile, htest, hdomain⟩ := s.outOfUse_effect c
  have hreplaced : (s.replaced c).isActive c = false ∧ (s.replaced c).doubler = s.doubler ∧ (s.replaced c).cores = (s.outOfUse c).cores ∧
      (s.replaced c).domain c = (s.takeOut c).domain c := by
    unfold State.replaced
    split
    next x hx =>
      obtain ⟨hd, hne⟩ := s.spareFor_other hx
      exact ⟨(State.isActive_setRole_other _ hd hne).trans hactive, hdoubler, rfl, hdomain⟩
    next => exact ⟨hactive, hdoubler, rfl, hdomain⟩
  obtain ⟨hactive', hdoubler', hcores', hdomain'⟩ := hreplaced
  obtain ⟨hstore, hcores, hrisk⟩ := (s.replaced c).fenceEvents_effect c cause (s.fencedCtx c) (s.isActive c) (s.spareFor c)
  have hassign := State.keepsUse_assignDie ((s.replaced c).fenceEvents c cause (s.fencedCtx c) (s.isActive c) (s.spareFor c)) p (dieOfCore c)
  have hcore : ((s.replaced c).fenceEvents c cause (s.fencedCtx c) (s.isActive c) (s.spareFor c)).core c = (s.outOfUse c).core c := by
    rw [State.core, hcores, hcores', State.core]
  rw [ht]
  refine ⟨hassign.tiles.none_of_none (by rw [hcore, htile]), ?_, ?_, ?_, fun hst => ?_⟩
  · rw [State.isActive_of_store hassign.store, State.isActive_of_store hstore, hactive']
  · rw [hassign.doubler, hrisk, hdoubler']
  · rw [hassign.tests, hcore, htest]
  · rw [State.domain, State.domains_assignDie, State.domains_fenceEvents, ← State.domain, hdomain']
    have hbefore (u : State) (hu : u.pwr.domains = s.pwr.domains) : (((u.powerOff c).resetDale c).domain c).st = 0 := by
      have hc : u.domain c = s.domain c := by rw [State.domain, hu, State.domain]
      change ((u.powerOff c).domain c).st = 0
      rw [State.domain_powerOff, hc, if_pos ⟨rfl, hst⟩]
    exact hbefore _ (by simp)

end

end Sys2Proof.Machine
end

section
/-! Faults of hubs, memory controllers, links, regulators and cols (R343, R345, R412, R427, R428, R446). -/
namespace Sys2Proof.Machine

/-! ### Partition resets by their causes (R341, R446, R447) -/

section
variable (s : State)

/-- A cause that meets a READY partition resets it, and its memory stays. -/
theorem State.causeReset_effect {p : Nat} (h : (s.part p).st = .ready) (cause : Nat) :
    let t := s.causeReset p cause
    (t.part p).st = .resetting ∧ (t.part p).cause = cause ∧ t.hbm = s.hbm := by
  have hreset : s.causeReset p cause = s.partReset p cause := by rw [State.causeReset, h]
  have hraise (l : List (Nat × Nat)) (u : State) : (l.foldl (fun s v => s.raiseFor p v.1 v.2) u).hbm = u.hbm :=
    (KeepsLinks.foldl _ (fun s v => s.keepsLinks_raiseFor p v.1 v.2) u l).hbm
  have hunits : ((s.stopUnits p).freeContexts p).hbm = s.hbm := (s.keepsPorts_stopUnits p).hbm
  intro t
  have hpart (u : State) : (((u.modPart p fun x => { x with st := .resetting, resets := satAdd 32 x.resets 1, cause := cause }).resetEvent
      p cause).part p) = { u.part p with st := .resetting, resets := satAdd 32 (u.part p).resets 1, cause := cause } := by
    rw [State.resetEvent, State.event_part_read, State.part_modPart_same]
  have ht : t = _ := hreset
  rw [ht, State.partReset]
  refine ⟨congrArg Part.st (hpart _), congrArg Part.cause (hpart _), (hraise _ _).trans hunits⟩

/-! ### Die hubs, memory controllers and die caches (R259, R341, R343) -/

theorem State.dieHubFault_resets {d unit : Nat} (hd : d < 8) (hunit : unit ≤ 12 ∨ unit = 15) (hon : (s.domain (144 + d)).st ≠ 0)
    (hready : (s.part (s.partOfDie d)).st = .ready) :
    let t := s.dieHubFault d unit
    (t.part (s.partOfDie d)).st = .resetting ∧ (t.part (s.partOfDie d)).cause = 2 ∧ t.hbm = s.hbm := by
  have hrow : s.dieHubFault d unit = s.hubFault d unit := if_pos (by simp [hd, hunit, hon])
  rw [hrow]
  exact State.causeReset_effect (s.event evDieHubFault (partCode 2 d) (s.partByte d) [BitVec.ofNat 8 unit]) hready 2

theorem State.dieHubFault_of_not {d unit : Nat} (h : unit = 13 ∨ unit = 14 ∨ 15 < unit ∨ (s.domain (144 + d)).st = 0) :
    s.dieHubFault d unit = s := by
  refine if_neg fun hc => ?_
  simp only [Bool.and_eq_true, Bool.or_eq_true, decide_eq_true_eq, beq_iff_eq, bne_iff_ne] at hc
  omega

theorem State.memFault_resets {k kind : Nat} (hk : k < 24) (hkind : kind ≤ 2) (hon : (s.domain (152 + k)).st ≠ 0)
    (hready : (s.part (s.partOfDie (k / 3))).st = .ready) :
    let t := s.memFault k kind
    (t.part (s.partOfDie (k / 3))).st = .resetting ∧ (t.part (s.partOfDie (k / 3))).cause = 5 ∧ t.hbm = s.hbm := by
  have hrow : s.memFault k kind = s.mcFault k kind := if_pos (by simp [hk, hkind, hon])
  rw [hrow]
  exact State.causeReset_effect (s.event evMcFault (partCode 3 k) (s.partByte (k / 3)) [BitVec.ofNat 8 kind]) hready 5

/-- The line goes to the end of its set; no other is dropped or added. -/
theorem State.cacheParity_effect (d line : Nat) :
    let t := s.cacheParity d line
    t = { s with dies := t.dies } ∧ (∀ k, k ≠ d → t.die k = s.die k) ∧ t.die d = { s.die d with lines := (t.die d).lines } ∧
      ∀ l, l ∈ (t.die d).lines ↔ l ∈ (s.die d).lines := by
  intro t
  have hdie : t.die d = if (s.die d).lines.contains line then
      { s.die d with lines := (s.die d).lines.erase line ++ [line] } else s.die d := s.die_modDie_same d _
  refine ⟨rfl, fun k hk => s.die_modDie_ne _ _ _ hk, ?_, fun l => ?_⟩ <;> rw [hdie]
  · split <;> rfl
  · split
    next hline =>
      have hmem : line ∈ (s.die d).lines := List.contains_iff_mem.1 hline
      by_cases hl : l = line
      · simp [hl, hmem]
      · simp [hl, List.mem_erase_of_ne hl]
    next => rfl

/-! ### Die-to-die links (R10, R446) -/

theorem State.loseCtxs_kept (h : Nat) (parts : List Nat) :
    (s.loseCtxs h parts).links = s.links ∧ (s.loseCtxs h parts).parts = s.parts :=
  List.foldlRecOn (motive := fun t : State => t.links = s.links ∧ t.parts = s.parts) _ State.loseCtx ⟨rfl, rfl⟩ fun t ht g _ => by
    rw [(t.loseCtx_onlyStopped g).frame]
    exact ht

/-- A link between two partitions is out of service and retrains; no partition changes. -/
theorem State.linkOut_effect (n : Nat) :
    ((s.linkOut n).link n).out = true ∧ ((s.linkOut n).link n).retraining = true ∧ (s.linkOut n).parts = s.parts := by
  unfold State.linkOut
  extract_lets t
  have hlink : t.link n = { s.link n with out := true, retraining := true } := s.link_modLink_same n _
  have hkept := List.foldlRecOn (motive := fun u : State => u.links = t.links ∧ u.parts = t.parts) [0, 1]
    (fun u h => u.loseCtxs h (cutBetween s u h)) ⟨rfl, rfl⟩ fun u hu h _ =>
      ⟨(u.loseCtxs_kept h _).1.trans hu.1, (u.loseCtxs_kept h _).2.trans hu.2⟩
  obtain ⟨hlinks, hparts⟩ := hkept
  rw [State.link, hlinks, ← State.link, hlink]
  exact ⟨rfl, rfl, hparts⟩

theorem State.links_regain (h : Nat) (parts : List Nat) : (s.regain h parts).links = s.links := by
  have hfold {α : Type} (f : State → α → State) (hf : ∀ s a, (f s a).links = s.links) (l : List α) (u : State) :
      (l.foldl f u).links = u.links := List.foldlRecOn l f (motive := fun t => t.links = u.links) rfl fun t ht a _ => (hf t a).trans ht
  have hlose (u : State) (g : Nat) : (u.loseRecs g).links = u.links := by rw [(u.loseRecs_effect g).1.frame]
  have hraise (u : State) (g q : Nat) : (u.raiseQueue g q).links = u.links := by
    rw [State.raiseQueue, State.modQueue_links, State.raiseFor]
    split <;> rfl
  exact (hfold _ (fun u g => hfold _ (fun u q => hraise u g q) _ u) _ _).trans (hfold _ hlose _ s)

end

section
variable (s : State)

theorem State.linkFault_within {n cause : Nat} (hn : n < 10) (hcause : cause ≤ 1)
    (hsame : s.partOfDie (diesOfLink n).1 = s.partOfDie (diesOfLink n).2) (hready : (s.part (s.partOfDie (diesOfLink n).1)).st = .ready) :
    let t := s.linkFault n cause
    (t.part (s.partOfDie (diesOfLink n).1)).st = .resetting ∧ (t.part (s.partOfDie (diesOfLink n).1)).cause = 3 := by
  obtain ⟨hst, hwhy, -⟩ := State.causeReset_effect
    (s.event evLinkFault (partCode 8 n) (s.partByte (diesOfLink n).1) [BitVec.ofNat 8 cause]) hready 3
  rw [State.linkFault]
  dsimp only
  rw [if_neg (by omega), if_pos hsame]
  exact ⟨hst, hwhy⟩

theorem State.linkFault_between {n cause : Nat} (hn : n < 10) (hcause : cause ≤ 1)
    (hdiff : s.partOfDie (diesOfLink n).1 ≠ s.partOfDie (diesOfLink n).2) :
    s.linkFault n cause =
      if (s.link n).out = true then s else (s.event evLinkFault (partCode 8 n) noPart [BitVec.ofNat 8 cause]).linkOut n := by
  rw [State.linkFault, if_neg (by omega), if_neg hdiff]

/-- A retrained link is in service again; contexts keep their state and HBM its bytes. -/
theorem State.linkRetrained_effect {n : Nat} (h : (s.link n).retraining = true) :
    let t := s.linkRetrained n true
    (t.link n).out = false ∧ (t.link n).retraining = false ∧ t.hbm = s.hbm ∧ ∀ g, (t.ctx g).st = (s.ctx g).st := by
  intro t
  let up := s.modLink n fun x => { x with out := false, retraining := false }
  have hup : up.link n = { s.link n with out := false, retraining := false } := s.link_modLink_same n _
  have ht : t = [0, 1].foldl (fun u h => u.regain h (cutBetween up s h)) up := by
    change s.linkRetrained n true = _
    rw [State.linkRetrained, if_neg (by simp [h]), if_pos rfl]
  have hkept : KeepsLinks up t ∧ t.links = up.links := by
    rw [ht]
    exact List.foldlRecOn (motive := fun u : State => KeepsLinks up u ∧ u.links = up.links) [0, 1] _ ⟨.refl up, rfl⟩ fun u hu h _ =>
      ⟨hu.1.trans (u.keepsLinks_regain h _), (u.links_regain h _).trans hu.2⟩
  obtain ⟨hkeeps, hlinks⟩ := hkept
  rw [State.link, hlinks, ← State.link, hup]
  exact ⟨rfl, rfl, hkeeps.hbm, hkeeps.st⟩

/-! ### Regulators (R343, R412) -/

theorem State.phaseFailure_eq {n phase : Nat} (hn : n < 186) (hst : (s.domain n).st = 1 ∨ (s.domain n).st = 2)
    (hphase : phase ∉ (s.domain n).phases) :
    s.phaseFailure n phase =
      let t := (s.modDomain n fun x => { x with phases := x.phases ++ [phase] }).event 0x0041 (partCode 6 n) 0xFF [BitVec.ofNat 8 phase]
      if (s.domain n).phases = [] then t else t.domainFailed n := by
  rw [State.phaseFailure]
  dsimp only
  rw [if_neg (by
    simp only [List.contains_iff_mem, hphase, or_false]
    omega)]
  rfl

/-! ### Cols (R427, R428) -/

/-- A dale of no die, stack, port or interface has no unit that a fault is handled in. -/
theorem State.daleFault_far {n : Nat} (h : 210 ≤ n) (hub core : Nat) : s.daleFault n hub core = s := by
  unfold State.daleFault
  rw [if_neg (by omega), if_neg (by omega), if_neg (by omega), if_neg (by omega), if_neg (by omega)]

theorem State.daleFault_core {n : Nat} (h : n < 144) (hub core : Nat) : s.daleFault n hub core = s.fence n core := if_pos h

/-- The overrun counted and logged, before its unit is handled. -/
def State.overrunNoted (a b : Nat) : State :=
  (s.modDale b fun x => { x with overruns := a :: x.overruns.erase a }).event evColOverrun (partCode 7 b) (s.daleByte b) (leBytes 2 a)

theorem State.dale_overrunNoted (a b : Nat) :
    (s.overrunNoted a b).dale b = { s.dale b with overruns := a :: (s.dale b).overruns.erase a } := by
  rw [State.overrunNoted, State.event_dale_read, State.dale_modDale_same]

theorem State.colOverrun_eq (a b : Nat) (hne : a ≠ b) :
    s.colOverrun a b = if s.daleRuns a = true ∧ s.daleRuns b = true then (s.overrunNoted a b).daleFault b (hubUnit a) 3 else s := by
  unfold State.colOverrun
  cases s.daleRuns a <;> cases s.daleRuns b <;> simp [hne]
  rfl

/-- The time-out counted and logged, before its unit is handled. -/
def State.timeoutNoted (a b : Nat) : State :=
  (s.modDale b fun x => { x with timeouts := satAdd 32 x.timeouts 1 }).event evColTimeout (partCode 7 b) (s.daleByte b) (leBytes 2 a ++ [0])

theorem State.dale_timeoutNoted (a b : Nat) :
    (s.timeoutNoted a b).dale b = { s.dale b with timeouts := min ((s.dale b).timeouts + 1) 0xFFFFFFFF } := by
  rw [State.timeoutNoted, State.event_dale_read, State.dale_modDale_same]
  rfl

section
variable {a b : Nat} (ha : a < 214) (hb : b < 214) (hne : a ≠ b)
include ha hb hne

theorem State.colTimeout_eq :
    s.colTimeout a b = if s.inHold a = true ∨ s.inHold b = true then s else (s.timeoutNoted a b).daleFault b (hubUnit a) 4 := by
  unfold State.colTimeout
  by_cases hold : s.inHold a = true ∨ s.inHold b = true
  · rw [if_pos (.inr (.inr (.inr hold))), if_pos hold]
  · have hgo : ¬ (214 ≤ a ∨ 214 ≤ b ∨ a = b ∨ s.inHold a = true ∨ s.inHold b = true) := by
      simp only [hold, or_false]
      omega
    rw [if_neg hgo, if_neg hold]
    rfl

/-- In HOLD the time-out is logged, and a core is fenced, an interface of a host has failed. -/
theorem State.colHoldTimeout_eq (hold : s.inHold a = true ∨ s.inHold b = true) :
    let t := s.event evColTimeout (partCode 7 b) (s.daleByte b) (leBytes 2 a ++ [1])
    (b < 144 → s.colHoldTimeout a b = t.fence b 4) ∧
      (208 ≤ b → b < 210 → s.colHoldTimeout a b = t.modHif (b - 208) fun i => { i with failed := true }) := by
  have hgo : ¬ (214 ≤ a ∨ 214 ≤ b ∨ a = b ∨ (!(s.inHold a || s.inHold b)) = true) := by
    rcases hold with h | h <;> simp [h] <;> omega
  unfold State.colHoldTimeout
  rw [if_neg hgo]
  dsimp only
  refine ⟨fun hcore => if_pos hcore, fun hlo hhi => ?_⟩
  rw [if_neg (by omega), if_neg (by omega), if_neg (by omega), if_neg (by omega), if_pos hhi]

end

theorem State.colHoldTimeout_of_not_hold {a b : Nat} (ha : s.inHold a = false) (hb : s.inHold b = false) : s.colHoldTimeout a b = s :=
  if_pos (.inr (.inr (.inr (by simp [ha, hb]))))

end

/-- Settles O60: what a fence leaves (State.fence_effect), what a cause resets (State.causeReset_effect), and the rows of links, domains
and cols by their cases. -/
theorem unitFaults : Obligations.UnitFaults := by
  intro s
  refine ⟨fun c cause => ?core, fun d line => ⟨_, rfl, s.cacheParity_effect d line⟩, fun d unit hd hready hunit hon => ?hub,
    fun d unit hd h => congrArg Host.Outcome.next (s.dieHubFault_of_not h), fun k kind hk hkind hon hready => ?mc,
    fun n cause hn hcause => ?link, fun n => ?retrained, fun n phase hn hst hphase => ?regulator, fun test => rfl,
    fun a b ha hb hne => ?col⟩
  case core =>
    refine ⟨fun ⟨hc, hcause, hon, hfenced⟩ => ?_, fun hmiss => ?_, ?_⟩
    · have hrow : s.coreFault c cause = s.fence c cause := if_pos (by simp [hc, hcause, hon])
      obtain ⟨htile, hactive, hrisk, -, hoff⟩ := s.fence_effect hfenced cause
      exact ⟨_, congrArg Host.Outcome.next hrow, (s.fence_tests c cause).2, htile, hactive, hrisk, hoff⟩
    · refine congrArg Host.Outcome.next ?_
      rw [State.coreFault]
      split
      next h =>
        simp only [Bool.and_eq_true, decide_eq_true_eq, bne_iff_ne] at h
        exact if_pos (by_contra fun hf => hmiss ⟨h.1.1, h.1.2, h.2, by simpa using hf⟩)
      next => rfl
    · refine ⟨fun ⟨hc, hactive, hfenced⟩ => ?_, fun ⟨hc, hactive, hfenced⟩ => ?_, fun ok hmiss => ?_⟩
      · exact congrArg Host.Outcome.next (if_pos (by simp [hc, hactive, hfenced]))
      · have hrow : s.spareTest c false = (s.modCore c fun k => { k with testOk := false }).fence c 5 :=
          if_pos (by simp [hc, hactive, hfenced])
        obtain ⟨-, -, -, htest, -⟩ := (s.modCore c fun k => { k with testOk := false }).fence_effect (c := c) hfenced 5
        exact ⟨_, congrArg Host.Outcome.next hrow, (State.fence_tests _ c 5).2, htest.trans (by rw [State.core_modCore_same])⟩
      · refine congrArg Host.Outcome.next (if_neg fun h => hmiss ?_)
        simpa [and_assoc] using h
  case hub => exact ⟨_, rfl, s.dieHubFault_resets hd hunit hon hready⟩
  case mc => exact ⟨_, rfl, s.memFault_resets hk hkind hon hready⟩
  case link =>
    refine ⟨fun hsame hready => ⟨_, rfl, s.linkFault_within hn hcause hsame hready⟩, fun hdiff hout => ?_, fun hdiff hout => ?_⟩
    · refine ⟨_, congrArg Host.Outcome.next ((s.linkFault_between hn hcause hdiff).trans (if_neg (by simp [hout]))), ?_⟩
      exact State.linkOut_effect (s.event evLinkFault (partCode 8 n) noPart [BitVec.ofNat 8 cause]) n
    · exact congrArg Host.Outcome.next ((s.linkFault_between hn hcause hdiff).trans (if_pos hout))
  case retrained =>
    refine ⟨fun h ok => congrArg Host.Outcome.next (if_pos (by simp [h])), fun h => ⟨_, rfl, s.linkRetrained_effect h⟩, fun h => ?_⟩
    exact congrArg Host.Outcome.next ((if_neg (by simp [h])).trans (if_neg Bool.false_ne_true))
  case regulator =>
    have hrow := s.phaseFailure_eq hn hst hphase
    intro t
    exact ⟨fun h => congrArg Host.Outcome.next (hrow.trans (if_pos h)),
      fun h => ⟨_, congrArg Host.Outcome.next (hrow.trans (if_neg h)), State.domainFailed_st _ n⟩⟩
  case col =>
    intro runs
    refine ⟨fun hstill => ?_, fun hruns hfar => ?_, fun hruns hcore _ => ?_, fun hha hhb hfar => ?_, fun hold => ?_, fun hha hhb => ?_,
      fun hold hlo hhi => ?_, fun hold hcore _ => ?_⟩
    · exact congrArg Host.Outcome.next ((s.colOverrun_eq a b hne).trans (if_neg hstill))
    · exact ⟨_, congrArg Host.Outcome.next ((s.colOverrun_eq a b hne).trans ((if_pos hruns).trans (State.daleFault_far _ hfar _ _))),
        s.dale_overrunNoted a b, rfl⟩
    · exact ⟨_, congrArg Host.Outcome.next ((s.colOverrun_eq a b hne).trans ((if_pos hruns).trans (State.daleFault_core _ hcore _ _))),
        (State.fence_tests _ b 3).2⟩
    · exact ⟨_, congrArg Host.Outcome.next ((s.colTimeout_eq ha hb hne).trans ((if_neg (by simp [hha, hhb])).trans
        (State.daleFault_far _ hfar _ _))), s.dale_timeoutNoted a b, rfl⟩
    · exact congrArg Host.Outcome.next ((s.colTimeout_eq ha hb hne).trans (if_pos hold))
    · exact congrArg Host.Outcome.next (s.colHoldTimeout_of_not_hold hha hhb)
    · refine ⟨_, congrArg Host.Outcome.next ((s.colHoldTimeout_eq ha hb hne hold).2 hlo hhi), ?_⟩
      rw [State.hif_modHif_same]
    · exact ⟨_, congrArg Host.Outcome.next ((s.colHoldTimeout_eq ha hb hne hold).1 hcore), (State.fence_tests _ b 4).2⟩

end Sys2Proof.Machine
end

section
/-! Writes of OWNER's, entry by entry (R14, R31, R281, R293, R323, R334, R382, R399, R424, R430). -/
namespace Sys2Proof.Machine

/-! ### Finding an entry by its range of indices (R394) -/

/-- Of ranges that ascend without meeting, an index lies in one at most. -/
theorem find?_range {l : List (Nat × Nat × Grp)} (hl : l.Pairwise fun a b => a.1 + a.2.1 ≤ b.1) {r : Nat × Nat × Grp} (hr : r ∈ l)
    {index : Nat} (hlo : r.1 ≤ index) (hhi : index < r.1 + r.2.1) :
    l.find? (fun r => r.1 ≤ index && index < r.1 + r.2.1) = some r := by
  induction l with
  | nil => exact absurd hr List.not_mem_nil
  | cons a l ih =>
    obtain ⟨ha, hl⟩ := List.pairwise_cons.1 hl
    rcases List.mem_cons.1 hr with rfl | hmem
    · exact List.find?_cons_of_pos (by simp [hlo, hhi])
    · have hbefore := ha r hmem
      rw [List.find?_cons_of_neg (by simp; omega)]
      exact ih hl hmem

theorem indexRanges_pairwise : indexRanges.Pairwise fun a b => a.1 + a.2.1 ≤ b.1 := by decide

theorem indexRanges_low : ∀ r ∈ indexRanges, r.1 + r.2.1 ≤ 0xF000 := by decide

theorem groupOf_of_mem {base n : Nat} {grp : Grp} (hr : (base, n, grp) ∈ indexRanges) {i : Nat} (hi : i < n) {shape : Nat}
    (hex : existsUnder shape grp i = true) : groupOf shape (base + i) = some (grp, i) := by
  rw [groupOf, find?_range indexRanges_pairwise hr (Nat.le_add_right base i) (Nat.add_lt_add_left hi base)]
  simp [hex]

section
variable {s : State} {base n i sub : Nat} {grp : Grp} {e : Entry} {data : Bytes}

theorem State.locate_of_mem (hr : (base, n, grp) ∈ indexRanges) (hi : i < n) (hex : existsUnder s.shape grp i = true)
    (he : entryOf grp sub = some e) : s.locate (base + i) sub = .ok ⟨grp, i, e⟩ :=
  State.locate_some ((Nat.add_lt_add_left hi base).trans_le (indexRanges_low _ hr)) (groupOf_of_mem hr hi hex) he

/-! ### OWNER's writes (R373, R382) -/

/-- A write of OWNER's to an entry that may be written, in its length. -/
theorem State.writeBy_owner (hphase : s.pwr.phase = .serving) (hr : (base, n, grp) ∈ indexRanges) (hi : i < n)
    (hex : existsUnder s.shape grp i = true) (he : entryOf grp sub = some e) (hacc : e.acc = .rw ∨ e.acc = .wo)
    (hlen : s.lengthOk ⟨grp, i, e⟩ data.length = true) :
    s.writeBy { role := .owner } (base + i) sub data =
      if ranged e.typ = true ∧ e.hi < leNat data then { s with lastAbort := 0x09 }
      else if ranged e.typ = true ∧ leNat data < e.lo then { s with lastAbort := 0x0A }
      else State.latch (s.applyWrite { role := .owner } 0 ⟨grp, i, e⟩ (base + i) sub data) := by
  have hnotRo : ¬ (e.acc = .const ∨ e.acc = .ro) := by rcases hacc with h | h <;> simp [h]
  rw [State.writeBy, if_pos (State.serving_of_phase hphase), State.writeEntry_of_located (State.locate_of_mem hr hi hex he) hphase,
    if_neg hnotRo, if_neg (by simp), if_neg (by simp), if_neg (by simp [hlen]), apply_ite State.latch, apply_ite State.latch]
  rfl

/-- The same within the entry's range. -/
theorem State.writeBy_owner_applied (hphase : s.pwr.phase = .serving) (hr : (base, n, grp) ∈ indexRanges) (hi : i < n)
    (hex : existsUnder s.shape grp i = true) (he : entryOf grp sub = some e) (hacc : e.acc = .rw ∨ e.acc = .wo)
    (hlen : s.lengthOk ⟨grp, i, e⟩ data.length = true) (hrange : ranged e.typ = true → e.lo ≤ leNat data ∧ leNat data ≤ e.hi) :
    s.writeBy { role := .owner } (base + i) sub data =
      State.latch (s.applyWrite { role := .owner } 0 ⟨grp, i, e⟩ (base + i) sub data) := by
  rw [State.writeBy_owner hphase hr hi hex he hacc hlen, if_neg fun h => Nat.not_lt.2 (hrange h.1).2 h.2,
    if_neg fun h => Nat.not_lt.2 (hrange h.1).1 h.2]

/-- A write is BAD_VALUE by its value, STATE by the state it meets, and else done. -/
theorem State.latch_guarded (s t : State) (value state : Bool) :
    State.latch (s.answer (guarded value state t)) =
      if value = true then if state = true then { t with lastAbort := 0 } else { s with lastAbort := 0x0C }
      else { s with lastAbort := 0x0B } := by
  cases value <;> cases state <;> rfl

end

theorem leNat_leBytes_of_lt {n v : Nat} (h : v < 2 ^ (8 * n)) : leNat (leBytes n v) = v := by
  rw [leNat_leBytes, Nat.mod_eq_of_lt h]

theorem partsOf_le (shape : Nat) : partsOf shape ≤ 8 := Nat.div_le_self 8 _

/-- A queue that is enabled runs, where its context is ACTIVE and it is DISABLED. -/
theorem State.queueStateOk_enable (s : State) {g q old new : Nat} (hold : recEnable old = false) (hnew : recEnable new = true) :
    s.queueStateOk g q old new = ((s.ctx g).st == .active && (s.queue g q).st == .disabled) := by
  rw [State.queueStateOk, if_pos hnew, hold]
  rfl

theorem Queue.configured_enable (u : Queue) {old new : Nat} (hold : recEnable old = false) (hnew : recEnable new = true) :
    u.configured old new = { st := .running, lastInt := u.lastInt, intDue := u.intDue } := by
  rw [Queue.configured, if_pos (by simp [hold, hnew])]

/-- A write of a context entry that MD has kept to its range. -/
theorem State.latch_ctxWrite (s : State) {g sub : Nat} (h35 : sub ≠ 0x35) {n v : Nat} (hv : v < 2 ^ (8 * n)) :
    State.latch (s.answer (s.ctxWrite g sub (leBytes n v))) =
      if s.ctxValueOk g sub v = true then
        if s.ctxStateOk g sub = true then { (s.setCfg (0x3600 + g) sub (leBytes n v)).ctxEffect g sub with lastAbort := 0 }
        else { s with lastAbort := 0x0C }
      else { s with lastAbort := 0x0B } := by
  rw [State.ctxWrite, if_neg fun h => h35 h.1, leNat_leBytes_of_lt hv]
  cases s.ctxValueOk g sub v <;> cases s.ctxStateOk g sub <;> rfl

section
variable {s : State} (hphase : s.pwr.phase = .serving)
include hphase

/-! ### Role masks (R14) -/

theorem State.roleMaskWrite_owner {d : Nat} (hd : d < 8) (v : BitVec 32) :
    s.writeBy { role := .owner } 0x2010 (d + 1) (leBytes 4 v.toNat) =
      if v.toNat < 2 ^ 18 ∧ popcount 18 v.toNat = 16 ∧ v.toNat &&& (s.die d).fenced.toNat = 0 then
        if s.partHasWork (s.partOfDie d) = false then
          { (s.setCfg 0x2010 (d + 1) (leBytes 4 v.toNat)).assignDie (s.partOfDie d) d with lastAbort := 0 }
        else { s with lastAbort := 0x0C }
      else { s with lastAbort := 0x0B } := by
  have hv : leNat (leBytes 4 v.toNat) = v.toNat := leNat_leBytes_of_lt v.isLt
  have he : entryOf .mask (d + 1) = some { typ := .u32, acc := .rw, dflt := 0xFFFF } := by simp [entryOf]; omega
  have hmax := v.isLt
  rw [State.writeBy_owner_applied (base := 0x2010) (i := 0) hphase (by decide) Nat.one_pos rfl he (.inl rfl) (by simp [State.lengthOk, typLen])
    (fun _ => ⟨Nat.zero_le _, by rw [hv]; simp only; omega⟩)]
  change State.latch (s.answer (guarded _ _ _)) = _
  rw [State.latch_guarded, hv]
  simp [and_assoc, Nat.div_eq_zero_iff]

/-! ### Queues (R29, R31) -/

theorem State.queueConfigWrite_owner {g q : Nat} (hg : g < 64 * s.partCount) (hq : q < 8) {rec : Bytes} (hlen : rec.length = 32) :
    s.writeBy { role := .owner } (0x3200 + g) (q + 1) rec =
      if s.queueValueOk g (leNat rec) = true then
        if s.queueStateOk g q (s.queueRec g q) (leNat rec) = true then
          { (s.setCfg (0x3200 + g) (q + 1) rec).modQueue g q fun u => u.configured (s.queueRec g q) (leNat rec) with lastAbort := 0 }
        else { s with lastAbort := 0x0C }
      else { s with lastAbort := 0x0B } := by
  have hbound := partsOf_le s.shape
  have he : entryOf .qcfg (q + 1) = some { typ := .domain 32, acc := .rw, dflt := queueDefault, rd := .partition, wr := .tenants } := by
    simp [entryOf]
    omega
  rw [State.partCount] at hg
  rw [State.writeBy_owner_applied (base := 0x3200) (n := 512) (i := g) (grp := .qcfg) hphase (by decide) (by omega) (decide_eq_true hg) he (.inl rfl)
    (by simp [State.lengthOk, typLen, hlen]) (by simp [ranged])]
  exact s.latch_guarded _ _ _

/-! ### Context entries (R153, R166, R219, R220) -/

theorem State.ctxWrite_owner {g sub : Nat} (hg : g < 64 * s.partCount) {e : Entry} (he : ctxEntry sub = some e) (hacc : e.acc = .rw)
    (hsub : sub ≠ 4) (hzero : sub ≠ 0) {n v : Nat} (hlen : typLen e.typ = some n) (hv : v < 2 ^ (8 * n)) (hlo : e.lo ≤ v) (hhi : v ≤ e.hi) :
    s.writeBy { role := .owner } (0x3600 + g) sub (leBytes n v) = State.latch (s.answer (s.ctxWrite g sub (leBytes n v))) := by
  have hbound := partsOf_le s.shape
  rw [State.partCount] at hg
  rw [State.writeBy_owner_applied (base := 0x3600) (n := 512) (i := g) (grp := .ctx) (e := e) hphase (by decide) (by omega) (decide_eq_true hg)
    (by rwa [entryOf, if_neg hzero]) (.inl hacc) ?_ (fun _ => by rw [leNat_leBytes_of_lt hv]; exact ⟨hlo, hhi⟩)]
  · rw [State.applyWrite]
    dsimp only
    rw [if_neg hsub]
  · rw [State.lengthOk]
    cases htyp : e.typ <;> simp_all [typLen]

/-! ### SHAPE and schedules (R323, R334) -/

omit hphase in
/-- A change of SHAPE forgets no entry of a place that every SHAPE has. -/
theorem State.shape_after (s : State) (v : Bytes) (p : Nat → Bool) (hp : p (key 0x3000 1) = false) :
    ((s.setCfg 0x3000 1 v).dropCfg p).shape = leNat v := by
  have hkept := storeGet_filter (p := fun k => !p k) (k := key 0x3000 1) (by simp [hp]) (mapSet s.store (key 0x3000 1) v)
  rw [State.shape, State.cfg, State.cfgBytes, State.dropCfg, State.setCfg, hkept, storeGet_mapSet_same]

omit hphase in
/-- SHAPE changes while every partition is ABSENT, and otherwise not. -/
theorem State.latch_shapeWrite (s : State) (v : Bytes) :
    ((∀ p, p < 8 → (s.part p).st = .absent) → ∃ t : State, t.shape = leNat v ∧ t = { s with store := t.store } ∧
      State.latch (s.answer (s.shapeWrite v)) = { t with lastAbort := 0 }) ∧
    ((¬ ∀ p, p < 8 → (s.part p).st = .absent) → State.latch (s.answer (s.shapeWrite v)) = { s with lastAbort := 0x0C }) := by
  have habsent : ((List.range 8).all fun p => (s.part p).st == .absent) = true ↔ ∀ p, p < 8 → (s.part p).st = .absent := by simp
  rw [State.shapeWrite, State.latch_guarded, if_pos rfl]
  refine ⟨fun h => ?_, fun h => if_neg (mt habsent.1 h)⟩
  rw [if_pos (habsent.2 h)]
  refine ⟨_, ?_, ?_, rfl⟩
  · exact s.shape_after v _ rfl
  · rfl

theorem State.shapeWrite_owner (v : BitVec 8) :
    s.writeBy { role := .owner } 0x3000 1 [v] =
      if 3 < v.toNat then { s with lastAbort := 0x09 } else State.latch (s.answer (s.shapeWrite [v])) := by
  rw [State.writeBy_owner (base := 0x3000) (i := 0) (grp := .shape) hphase (by decide) Nat.one_pos rfl rfl (.inl rfl) rfl]
  have hv : leNat [v] = v.toNat := by simp [leNat]
  simp only [hv, ranged, true_and, Nat.not_lt_zero, if_false]
  rfl

theorem State.slotTableWrite_owner {p : Nat} (hp : p < s.partCount) {table : Bytes} (hlen : table.length = 1024) :
    s.writeBy { role := .owner } (0x3020 + p) 2 table =
      if tableOk (s.cfg (0x3020 + p) 1) s.dieCount table = true then
        if s.schedOpen p = true then
          { (s.setCfg (0x3020 + p) 2 table).modPart p fun x =>
              { x with tableNext := if x.st = .resetting then x.tableNext else table } with lastAbort := 0 }
        else { s with lastAbort := 0x0C }
      else { s with lastAbort := 0x0B } := by
  have hbound := partsOf_le s.shape
  rw [State.partCount] at hp
  rw [State.writeBy_owner_applied (base := 0x3020) (n := 8) (i := p) (grp := .sched) hphase (by decide) (by omega) (decide_eq_true hp) rfl
    (.inl rfl) (by simp [State.lengthOk, typLen, hlen]) (by simp [ranged])]
  exact s.latch_guarded _ _ _

/-! ### Pips and clocks (R413, R424) -/

theorem State.pipBudgetWrite_owner (v : BitVec 16) :
    s.writeBy { role := .owner } 0x2000 1 (leBytes 2 v.toNat) =
      if 3200 < v.toNat then { s with lastAbort := 0x09 } else if v.toNat < 1600 then { s with lastAbort := 0x0A }
      else { s.setCfg 0x2000 1 (leBytes 2 v.toNat) with lastAbort := 0 } := by
  rw [State.writeBy_owner (base := 0x2000) (i := 0) (grp := .budget) hphase (by decide) Nat.one_pos rfl rfl (.inl rfl) rfl]
  simp only [leNat_leBytes_of_lt (n := 2) v.isLt, ranged, true_and]
  rfl

theorem State.coreMhzWrite_owner {d : Nat} (hd : d < 8) {v : BitVec 16} (hlo : 500 ≤ v.toNat) (hhi : v.toNat ≤ 1100) :
    s.writeBy { role := .owner } (0x2400 + d) 1 (leBytes 2 v.toNat) =
      if v.toNat % 25 = 0 then { s.setCfg (0x2400 + d) 1 (leBytes 2 v.toNat) with lastAbort := 0 } else { s with lastAbort := 0x0B } := by
  have hv : leNat (leBytes 2 v.toNat) = v.toNat := leNat_leBytes_of_lt v.isLt
  rw [State.writeBy_owner_applied (base := 0x2400) (n := 8) (grp := .clock) hphase (by decide) hd rfl rfl (.inl rfl) rfl
    (fun _ => by rw [hv]; exact ⟨hlo, hhi⟩)]
  change State.latch (s.answer (guarded _ _ _)) = _
  rw [State.latch_guarded, hv]
  simp

/-! ### Ports (R281) -/

omit hphase in
/-- A port taken down has no key, and is OFF, TRAINING or DOWN by its MODE and its die's test. -/
theorem State.applyMode_effect (s : State) (p : Nat) :
    (s.applyMode p).store = s.store ∧ ((s.applyMode p).port p).txKey = none ∧
      ((s.applyMode p).port p).st =
        if s.portMode p = 0 then .off else if s.pwr.diePass.getLsbD (p / 4) then .training else .down := by
  have hdrop := s.dropPort_off_or_down p (st := if s.portMode p == 0 then .off else .down) (by split <;> simp)
  unfold State.applyMode
  extract_lets d off dropped on
  obtain ⟨y, -, hport⟩ : ∃ y : Port, _ ∧ dropped.port p = y.fall (if s.portMode p == 0 then .off else .down) s.now := hdrop.port
  have hframe : dropped = _ := hdrop.frame
  have hstore : dropped.store = s.store := by rw [hframe]
  have hpass : dropped.pwr.diePass = s.pwr.diePass := by rw [hframe]
  have hon : on.store = dropped.store ∧ on.pwr.diePass = dropped.pwr.diePass ∧ on.port p = dropped.port p := by
    simp only [on]
    split <;> exact ⟨rfl, rfl, rfl⟩
  have hoff (u : State) (n : Nat) : (u.powerOff n).store = u.store ∧ (u.powerOff n).port p = u.port p := by
    rw [State.powerOff, u.resetDomain_frame n]
    exact ⟨rfl, rfl⟩
  have hmode (i : Nat) : dropped.portMode i = s.portMode i := by
    rw [State.portMode, State.cfg, State.cfgBytes, hstore]
    rfl
  obtain ⟨honstore, honpass, honport⟩ := hon
  clear_value dropped on
  split
  next hall =>
    have hself : s.portMode p = 0 := by
      have h := List.all_eq_true.1 hall (p % 4) (List.mem_range.2 (Nat.mod_lt p (by norm_num)))
      rw [hmode, show 4 * d + p % 4 = p from Nat.div_add_mod p 4] at h
      simpa using h
    obtain ⟨hkeep, hsame⟩ := hoff dropped (176 + d)
    rw [hsame, hport, if_pos hself]
    exact ⟨hkeep.trans hstore, rfl, by simp [Port.fall, hself]⟩
  next =>
    split
    next hstop =>
      rw [honport, hport]
      refine ⟨honstore.trans hstore, rfl, ?_⟩
      by_cases hself : s.portMode p = 0
      · simp [Port.fall, hself]
      · have hdie : s.pwr.diePass.getLsbD (p / 4) = false := by
          simpa [off, hself, honpass, hpass, d, dieOfPort] using hstop
        simp [Port.fall, hself, hdie]
    next hgo =>
      rw [Bool.or_eq_true, not_or] at hgo
      obtain ⟨hself, hdie⟩ := hgo
      rw [honpass, hpass] at hdie
      rw [State.port_modPort_same, honport, hport]
      refine ⟨honstore.trans hstore, rfl, ?_⟩
      change PortState.training = _
      rw [if_neg (by simpa [off] using hself), if_pos (by simpa [d, dieOfPort] using hdie)]

end

section
variable {s : State} (hphase : s.pwr.phase = .serving)
include hphase

/-! ### Ports, ranks and the fabric manager's event (R281, R293, R349) -/

theorem State.portModeWrite_owner {port mode : Nat} (hport : port < 32) (hmode : mode ≤ 2) :
    s.writeBy { role := .owner } (0x4000 + port) 1 (leBytes 1 mode) =
      { (s.setCfg (0x4000 + port) 1 (leBytes 1 mode)).applyMode port with lastAbort := 0 } := by
  have hv : leNat (leBytes 1 mode) = mode := leNat_leBytes_of_lt (by omega)
  rw [State.writeBy_owner_applied (base := 0x4000) (n := 32) (grp := .port) hphase (by decide) hport rfl rfl (.inl rfl) rfl
    (fun _ => by rw [hv]; exact ⟨Nat.zero_le _, hmode⟩)]
  rfl

omit hphase in
theorem State.cfg_of_store {s t : State} (h : t.store = s.store) (index sub : Nat) : t.cfg index sub = s.cfg index sub := by
  unfold State.cfg State.cfgBytes
  rw [h]

/-- A port whose MODE is written. -/
theorem State.portModeWrite_effect {port mode : Nat} (hport : port < 32) (hmode : mode ≤ 2) :
    ∃ t : State, s.writeBy { role := .owner } (0x4000 + port) 1 (leBytes 1 mode) = { t with lastAbort := 0 } ∧
      t.cfg (0x4000 + port) 1 = mode ∧ (t.port port).txKey = none ∧
      (t.port port).st = if mode = 0 then .off else if s.pwr.diePass.getLsbD (port / 4) then .training else .down := by
  have hset : (s.setCfg (0x4000 + port) 1 (leBytes 1 mode)).cfg (0x4000 + port) 1 = mode := by
    rw [State.cfg, State.cfgBytes, State.setCfg, storeGet_mapSet_same]
    exact leNat_leBytes_of_lt (by omega)
  obtain ⟨hstore, hkey, hst⟩ := (s.setCfg (0x4000 + port) 1 (leBytes 1 mode)).applyMode_effect port
  rw [State.portMode, hset] at hst
  exact ⟨_, State.portModeWrite_owner hphase hport hmode, (State.cfg_of_store hstore _ _).trans hset, hkey, hst⟩

omit hphase in
theorem State.applyWrite_rankSet (s : State) (who : Who) (sid : BitVec 32) (p index : Nat) (e : Entry) (data : Bytes) :
    s.applyWrite who sid ⟨.rankMap, p, e⟩ index 4 data = s.answer (s.rankSet p (leNat data)) := rfl

theorem State.rankSet_owner {p r e : Nat} (hp : p < 8) (hr : r < s.ranks p) (hr18 : r < 2 ^ 18) (he : e < 2 ^ 32)
    (hres : e / 2 ^ 21 % 2 ^ 10 = 0) :
    s.writeBy { role := .owner } (0x4110 + p) 4 (leBytes 8 (BitVec.ofNat 64 (r + e * 2 ^ 32)).toNat) =
      { (s.setCfg (0x4110 + p) 3 (putBytes (s.rankBytes p) (4 * r) (leBytes 4 e))).ranksChanged p with lastAbort := 0 } := by
  have hlt : r + e * 2 ^ 32 < 2 ^ 64 := by omega
  have hv : leNat (leBytes 8 (r + e * 2 ^ 32)) = r + e * 2 ^ 32 := leNat_leBytes_of_lt hlt
  have hrank : (r + e * 2 ^ 32) % 2 ^ 18 = r := by omega
  have hentry : (r + e * 2 ^ 32) / 2 ^ 32 = e := by omega
  have hgap : bitsOf (r + e * 2 ^ 32) 18 14 = 0 := by
    rw [bitsOf, Nat.shiftRight_eq_div_pow]
    omega
  have hok : rankEntryOk e = true := by simpa [rankEntryOk, bitsOf, Nat.shiftRight_eq_div_pow] using hres
  rw [BitVec.toNat_ofNat, Nat.mod_eq_of_lt hlt, State.writeBy_owner_applied (base := 0x4110) (n := 8) (grp := .rankMap) hphase (by decide) hp
    rfl rfl (.inr rfl) rfl (fun _ => by rw [hv]; exact ⟨Nat.zero_le _, by simp only; omega⟩)]
  rw [State.applyWrite_rankSet, hv, State.rankSet]
  simp only [hrank, hentry]
  rw [State.latch_guarded, hgap, hok, if_pos (by simp [hr]), if_pos rfl]

/-- An entry of OWNER's alone is not written by another member of the staff who may not. -/
theorem State.writeBy_role {who : Who} (hwho : who.role = .operator ∨ who.role = .observer) {base n i sub : Nat} {grp : Grp} {e : Entry}
    {data : Bytes} (hr : (base, n, grp) ∈ indexRanges) (hi : i < n) (hex : existsUnder s.shape grp i = true) (he : entryOf grp sub = some e)
    (hacc : e.acc = .rw ∨ e.acc = .wo) (hrole : who.role = .operator → e.wr = .owner) :
    s.writeBy who (base + i) sub data = { s with lastAbort := 0x06 } := by
  have hnotRo : ¬ (e.acc = .const ∨ e.acc = .ro) := by rcases hacc with h | h <;> simp [h]
  rw [State.writeBy, if_pos (State.serving_of_phase hphase), State.writeEntry_of_located (State.locate_of_mem hr hi hex he) hphase,
    if_neg hnotRo, if_neg (by rcases hwho with h | h <;> simp [h]), if_pos]
  · rfl
  · rcases hwho with h | h <;> simp [h, hrole]

theorem State.domainEvent_owner :
    s.writeBy { role := .owner } 0x5000 6 [1] = { (s.event 0x0053 (partCode 0 0) 0xFF []).qualify with lastAbort := 0 } := by
  rw [State.writeBy_owner_applied (base := 0x5000) (i := 0) (grp := .health) hphase (by decide) Nat.one_pos rfl rfl (.inr rfl) rfl
    (fun _ => by decide)]
  rfl

theorem State.domainEvent_observer : s.writeBy { role := .observer } 0x5000 6 [1] = { s with lastAbort := 0x06 } :=
  State.writeBy_role hphase (.inr rfl) (base := 0x5000) (i := 0) (grp := .health) (by decide) Nat.one_pos rfl rfl (.inr rfl) nofun

/-! ### Firmware and anchors (R399, R404) -/

theorem State.fwCommand_owner {v : Nat} (hlo : 1 ≤ v) (hhi : v ≤ 2) :
    s.writeBy { role := .owner } 0x5800 0x0A [BitVec.ofNat 8 v] = State.latch (if v = 1 then s.fwApply else s.commitSvn) := by
  have hv : leNat [BitVec.ofNat 8 v] = v := by
    simp only [leNat, BitVec.toNat_ofNat]
    omega
  rw [State.writeBy_owner_applied (base := 0x5800) (i := 0) (grp := .security) hphase (by decide) Nat.one_pos rfl rfl (.inr rfl) rfl
    (fun _ => by rw [hv]; exact ⟨hlo, hhi⟩)]
  change State.latch (if leNat [BitVec.ofNat 8 v] = 1 then s.fwApply else s.commitSvn) = _
  rw [hv]

omit hphase in
theorem State.latch_fwApply (s : State) {pkg : Bytes} (h : s.sec.fwStaged = some pkg) :
    State.latch s.fwApply =
      if Config.packageSigned pkg = false then { s with sec := { s.sec with fwStatus := 2 }, lastAbort := 0 }
      else if Config.packageSvn pkg < s.sec.svn then { s with sec := { s.sec with fwStatus := 3 }, lastAbort := 0x0B }
      else { s with sec := { s.sec with fwStatus := 1, banks := mapSet s.sec.banks (1 - s.sec.bank) pkg, nextBank := 1 - s.sec.bank },
                    lastAbort := 0 } := by
  rw [State.fwApply, h]
  simp only [Bool.not_eq_true', apply_ite State.latch]
  rfl

theorem State.latch_commitSvn :
    State.latch s.commitSvn =
      if 64 < Config.packageSvn s.running then { s with lastAbort := 0x0C }
      else { s with sec := { s.sec with svn := max s.sec.svn (Config.packageSvn s.running) }, lastAbort := 0 } := by
  rw [State.commitSvn]
  by_cases h : 64 < Config.packageSvn s.running <;> simp [h, hphase] <;> rfl

omit hphase in
/-- A changed anchor ends the sessions that hold its role. -/
theorem State.sessions_setAnchor (s : State) (index sub : Nat) (who : Who) (a : Bytes) :
    (s.setAnchor index sub who a).sec.sessions =
      if s.cfgBytes index sub = a then s.sec.sessions else s.sec.sessions.filter fun x => !(x.who == who) := by
  unfold State.setAnchor
  extract_lets same t
  by_cases h : s.cfgBytes index sub = a
  · rw [if_pos (by simp [same, h]), if_pos h]
    rfl
  · rw [if_neg (by simp [same, h]), if_neg h]
    rfl

theorem State.anchorWrite_owner {sub : Nat} {role : Role} (h : (sub = 2 ∧ role = .operator) ∨ (sub = 3 ∧ role = .observer)) {a : Bytes}
    (hlen : a.length = 48) :
    s.writeBy { role := .owner } 0x5800 sub a = State.latch (0, s.setAnchor 0x5800 sub { role := role } a) := by
  rcases h with ⟨rfl, rfl⟩ | ⟨rfl, rfl⟩
  all_goals
    rw [State.writeBy_owner_applied (base := 0x5800) (i := 0) (grp := .security) hphase (by decide) Nat.one_pos rfl rfl (.inl rfl)
      (by simp [State.lengthOk, typLen, hlen]) (by simp [ranged])]
    rfl

/-! ### The module's reset (R376, R430) -/

omit hphase in
theorem State.now_later (s : State) (k : Nat) : (s.modPwr fun w => { w with time := w.time + k }).now = s.now + k := rfl

omit hphase in
theorem State.resetNow_leaves (s : State) :
    s.resetNow.pwr.phase = .booting ∧ s.resetNow.now = s.now ∧ s.resetNow.ctxs = [] ∧ s.resetNow.parts = [] ∧
      s.resetNow.sec.sessions = [] ∧ s.resetNow.sec.svn = s.sec.svn ∧ s.resetNow.log = {} := ⟨rfl, rfl, rfl, rfl, rfl, rfl, rfl⟩

omit hphase in
theorem State.applyWrite_reset (s : State) (who : Who) (sid : BitVec 32) (i index : Nat) (e : Entry) (data : Bytes) :
    State.latch (s.applyWrite who sid ⟨.budget, i, e⟩ index 2 data) =
      { s.modPwr fun w => { w with resetAt := some (w.time + 1000000) } with lastAbort := 0 } := rfl

theorem State.moduleResetRow_owner :
    ∃ u : State, u.now = s.now ∧ u.sec = s.sec ∧
      s.moduleResetRow { role := .owner } = (u.modPwr fun w => { w with time := w.time + 1000000 }).resetNow := by
  have hwrite : s.writeBy { role := .owner } 0x2000 2 [0x5A] =
      { s.modPwr fun w => { w with resetAt := some (w.time + 1000000) } with lastAbort := 0 } := by
    rw [State.writeBy_owner_applied (base := 0x2000) (i := 0) (grp := .budget) hphase (by decide) Nat.one_pos rfl rfl (.inr rfl) rfl
      (fun _ => by decide), State.applyWrite_reset]
  rw [State.moduleResetRow, hwrite]
  dsimp only
  rw [if_pos (by simp [State.serving_of_phase hphase]; rfl)]
  exact ⟨_, rfl, rfl, rfl⟩

theorem State.moduleResetRow_operator : s.moduleResetRow { role := .operator } = { s with lastAbort := 0x06 } := by
  have hwrite : s.writeBy { role := .operator } 0x2000 2 [0x5A] = { s with lastAbort := 0x06 } :=
    State.writeBy_role hphase (.inl rfl) (base := 0x2000) (i := 0) (grp := .budget) (by decide) Nat.one_pos rfl rfl (.inr rfl) fun _ => rfl
  rw [State.moduleResetRow, hwrite]
  dsimp only
  rw [if_neg (by simp; intro; decide)]

end

/-! ### Changes of the node ID (R383) -/

theorem State.nodeIdApply_of_none (s : State) (h : ∀ x ∈ s.field.changes, s.now < x.1) : s.nodeIdApply = s := by
  have hdue : s.field.changes.filter (·.1 ≤ s.now) = [] := by simpa [List.filter_eq_nil_iff] using h
  rw [State.nodeIdApply, hdue]
  rfl

/-- The one change whose time has come takes effect, and those after it stay. -/
theorem State.nodeIdApply_of_first (s : State) {at_ n count : Nat} {rest : List (Nat × Nat × Nat)}
    (h : s.field.changes = (at_, n, count) :: rest) (hrest : ∀ x ∈ rest, s.now < x.1) (hdue : at_ ≤ s.now) :
    s.nodeIdApply = { s with field := { s.field with nodeId := n, plcaCount := count, changes := rest } } := by
  have hnone : rest.filter (·.1 ≤ s.now) = [] := by simpa [List.filter_eq_nil_iff] using hrest
  have hall : rest.filter (s.now < ·.1) = rest := by simpa [List.filter_eq_self] using hrest
  have hfilter : s.field.changes.filter (·.1 ≤ s.now) = [(at_, n, count)] := by
    rw [h, List.filter_cons_of_pos (by simpa using hdue), hnone]
  have hlater : s.field.changes.filter (s.now < ·.1) = rest := by
    rw [h, List.filter_cons_of_neg (by simpa using hdue), hall]
  rw [State.nodeIdApply, hfilter, hlater]
  rfl

section
variable {s : State}

/-- The numbers of stash entries and of sequences have no rule beyond their range. -/
theorem State.ctxValueOk_free (s : State) (g : Nat) {sub v : Nat} (hsub : sub = 0x21 ∨ sub = 0x31) : s.ctxValueOk g sub v = true := by
  rcases hsub with rfl | rfl <;> simp [State.ctxValueOk, ctxAlign, Nat.mod_one]

/-! ### Stash and cache (R166, R219, R220) -/

variable (hphase : s.pwr.phase = .serving) {g : Nat} (hg : g < 64 * s.partCount) (hidle : (s.ctx g).hasWork = false)
include hphase hg hidle

theorem State.stashTableWrite_owner (v : BitVec 64) :
    s.writeBy { role := .owner } (0x3600 + g) 0x20 (leBytes 8 v.toNat) =
      if v.toNat % 4096 = 0 then { (s.setCfg (0x3600 + g) 0x20 (leBytes 8 v.toNat)).initStash g with lastAbort := 0 }
      else { s with lastAbort := 0x0B } := by
  have haligned : s.ctxValueOk g 0x20 v.toNat = true ↔ v.toNat % 4096 = 0 := by simp [State.ctxValueOk, ctxAlign]
  have hstate : s.ctxStateOk g 0x20 = true := by simp [State.ctxStateOk, hidle]
  rw [State.ctxWrite_owner hphase hg rfl rfl (by decide) (by decide) rfl v.isLt (Nat.zero_le _) v.isLt.le,
    State.latch_ctxWrite s (by decide) v.isLt, if_pos hstate]
  simp only [haligned]
  rfl

theorem State.stashEntriesWrite_owner {v : Nat} (hle : v ≤ 16384) :
    s.writeBy { role := .owner } (0x3600 + g) 0x21 (leBytes 2 v) =
      { (s.setCfg (0x3600 + g) 0x21 (leBytes 2 v)).initStash g with lastAbort := 0 } := by
  have hstate : s.ctxStateOk g 0x21 = true := by simp [State.ctxStateOk, hidle]
  rw [State.ctxWrite_owner hphase hg rfl rfl (by decide) (by decide) rfl (by omega) (Nat.zero_le _) hle,
    State.latch_ctxWrite s (by decide) (by omega), if_pos (s.ctxValueOk_free g (.inl rfl)), if_pos hstate]
  rfl

theorem State.seqCountWrite_owner {v : Nat} (hle : v ≤ 65536) :
    s.writeBy { role := .owner } (0x3600 + g) 0x31 (leBytes 4 v) =
      if s.allIdle g = true then { (s.setCfg (0x3600 + g) 0x31 (leBytes 4 v)).startCache g with lastAbort := 0 }
      else { s with lastAbort := 0x0C } := by
  have hstate : s.ctxStateOk g 0x31 = s.allIdle g := by simp [State.ctxStateOk, hidle]
  rw [State.ctxWrite_owner hphase hg rfl rfl (by decide) (by decide) rfl (by omega) (Nat.zero_le _) hle,
    State.latch_ctxWrite s (by decide) (by omega), if_pos (s.ctxValueOk_free g (.inr rfl)), hstate]
  rfl

end

/-- Settles O51: each instruction is one write, MD's checks leave the entry's own rule, and the rule decides between its effect,
BAD_VALUE and STATE. -/
theorem entryEffects : Obligations.EntryEffects := by
  intro s hphase owner done turned
  refine ⟨fun d v hd => ?_, fun g q rec hg hq hlen => ?_, fun g v hg hidle => ?_, fun v => ?_, fun p table hp hlen => ?_, fun v => ?_,
    fun port mode hport hmode => ?_, fun p r e hp hr hr18 he hres => ?_, ?_, ?_, fun sub role h a hlen => ?_, ?_, fun at_ n count rest h hrest => ?_,
    fun h => ?_, rfl⟩
  · intro ok idle
    have hwrite : exec (.roleMaskWrite owner d v) s = .next _ := congrArg Host.Outcome.next (State.roleMaskWrite_owner hphase hd v)
    refine ⟨fun hok hidle => ?_, fun hok => ?_, fun hok hidle => ?_⟩
    · rw [hwrite, if_pos hok, if_pos hidle]
    · rw [hwrite, if_neg hok]
    · rw [hwrite, if_pos hok, if_neg hidle]
  · intro ok
    have hwrite : exec (.queueConfigWrite owner g q rec) s = .next _ :=
      congrArg Host.Outcome.next (State.queueConfigWrite_owner hphase hg hq hlen)
    refine ⟨fun hok => ?_, fun hok hold hnew hctx hqueue => ?_, fun hok hold hnew hctx => ?_⟩
    · rw [hwrite, if_neg hok]
    · rw [hwrite, if_pos hok, if_pos (by simp [s.queueStateOk_enable hold hnew, hctx, hqueue])]
      simp only [Queue.configured_enable _ hold hnew, done]
    · rw [hwrite, if_pos hok, if_neg (by simp [s.queueStateOk_enable hold hnew, hctx])]
  · have htable : exec (.stashTableWrite owner g false v) s = .next _ :=
      congrArg Host.Outcome.next (State.stashTableWrite_owner hphase hg hidle v)
    have hseqs (hle : v.toNat ≤ 65536) : exec (.kvConfigWrite owner g 0x31 v) s = .next _ :=
      congrArg Host.Outcome.next (State.seqCountWrite_owner hphase hg hidle hle)
    refine ⟨fun hok => ?_, fun hok => ?_, fun hle => ?_, fun hle hall => ?_, fun hle hall => ?_⟩
    · rw [htable, if_pos hok]
    · rw [htable, if_neg hok]
    · exact congrArg Host.Outcome.next (State.stashEntriesWrite_owner hphase hg hidle hle)
    · rw [hseqs hle, if_pos hall]
    · rw [hseqs hle, if_neg (by simp [hall])]
  · intro absent
    have hv : leNat [v] = v.toNat := by simp [leNat]
    obtain ⟨hdone, hrefused⟩ := s.latch_shapeWrite [v]
    have hwrite : exec (.shapeWrite owner v) s = .next _ := congrArg Host.Outcome.next (State.shapeWrite_owner hphase v)
    refine ⟨fun hle habsent => ?_, fun hle habsent => ?_, fun hgt => ?_⟩
    · obtain ⟨t, hshape, hframe, hlatch⟩ := hdone habsent
      refine ⟨{ t with lastAbort := 0 }, ?_, rfl, hshape.trans hv, congrArg (fun u : State => { u with lastAbort := 0 }) hframe⟩
      rw [hwrite, if_neg (Nat.not_lt.2 hle), hlatch]
    · rw [hwrite, if_neg (Nat.not_lt.2 hle), hrefused habsent]
    · rw [hwrite, if_pos hgt]
  · intro ok exists_
    have hwrite : exec (.slotTableWrite owner p table) s = .next _ :=
      congrArg Host.Outcome.next (State.slotTableWrite_owner hphase hp hlen)
    have hopen : s.schedOpen p = true ↔ exists_ := by simp [State.schedOpen, exists_]
    refine ⟨fun hok hex => ?_, fun hok => ?_, fun hok hex => ?_⟩
    · rw [hwrite, if_pos hok, if_pos (hopen.2 hex)]
    · rw [hwrite, if_neg hok]
    · rw [hwrite, if_pos hok, if_neg (mt hopen.1 hex)]
  · have hwrite : exec (.pipBudgetWrite owner v) s = .next _ := congrArg Host.Outcome.next (State.pipBudgetWrite_owner hphase v)
    refine ⟨fun hlo hhi => ?_, fun hlo => ?_, fun hhi => ?_, fun d hd hlo hhi => ?_⟩
    · rw [hwrite, if_neg (Nat.not_lt.2 hhi), if_neg (Nat.not_lt.2 hlo)]
    · rw [hwrite, if_neg (by omega), if_pos hlo]
    · rw [hwrite, if_pos hhi]
    · have hclock : exec (.coreMhzWrite owner d v) s = .next _ := congrArg Host.Outcome.next (State.coreMhzWrite_owner hphase hd hlo hhi)
      rw [hclock, apply_ite Host.Outcome.next]
  · obtain ⟨t, hwrite, hcfg, hkey, hst⟩ := State.portModeWrite_effect hphase hport hmode
    exact ⟨{ t with lastAbort := 0 }, congrArg Host.Outcome.next hwrite, rfl, hcfg, hkey, hst⟩
  · exact congrArg Host.Outcome.next (State.rankSet_owner hphase hp hr hr18 he hres)
  · exact ⟨congrArg Host.Outcome.next (State.domainEvent_owner hphase), congrArg Host.Outcome.next (State.domainEvent_observer hphase)⟩
  · have happly : exec (.fwApply owner) s = .next (State.latch s.fwApply) :=
      congrArg Host.Outcome.next (State.fwCommand_owner hphase (v := 1) le_rfl (by decide))
    have hcommit : exec (.commitSvn owner) s = .next (State.latch s.commitSvn) :=
      congrArg Host.Outcome.next (State.fwCommand_owner hphase (v := 2) (by decide) le_rfl)
    refine ⟨fun hnone => ?_, fun pkg hpkg => ?_, ?_⟩
    · rw [happly, State.fwApply, hnone]
      rfl
    · rw [happly, s.latch_fwApply hpkg, apply_ite Host.Outcome.next, apply_ite Host.Outcome.next]
    · rw [hcommit, State.latch_commitSvn hphase, apply_ite Host.Outcome.next]
  · exact ⟨_, congrArg Host.Outcome.next (State.anchorWrite_owner hphase h hlen), rfl, s.cfgBytes_setAnchor _ _ _ a,
      s.sessions_setAnchor _ _ _ a⟩
  · refine ⟨?_, congrArg Host.Outcome.next (State.moduleResetRow_operator hphase)⟩
    obtain ⟨u, hnow, hsec, hrow⟩ := State.moduleResetRow_owner hphase
    obtain ⟨hboot, htime, hctxs, hparts, hsessions, hsvn, hlog⟩ :=
      (u.modPwr fun w => { w with time := w.time + 1000000 }).resetNow_leaves
    refine ⟨_, congrArg Host.Outcome.next hrow, hboot, ?_, hctxs, hparts, hsessions, ?_, hlog⟩
    · rw [htime, State.now_later, hnow]
    · exact hsvn.trans (congrArg Security.svn hsec)
  · refine congrArg Host.Outcome.next ?_
    split
    next hdue => exact s.nodeIdApply_of_first h hrest hdue
    next hnot => exact s.nodeIdApply_of_none (h ▸ List.forall_mem_cons.2 ⟨Nat.not_le.1 hnot, hrest⟩)
  · exact congrArg Host.Outcome.next (s.nodeIdApply_of_none h)

end Sys2Proof.Machine
end
